-- ==== Sys2Proof/Word.lean ====
section
/-! DEFINITION. The words of the P6's registers, records and addresses, and the keyed lists that hold its sparse
storage. Bit 0 of a field is its least significant bit (R9). -/

namespace Sys2Proof

abbrev Byte := BitVec 8
abbrev W16 := BitVec 16
abbrev W32 := BitVec 32
abbrev W64 := BitVec 64

/-- Bits `lo + len - 1 : lo` of a natural number (R9). -/
def nfld (x lo len : Nat) : Nat := x / 2 ^ lo % 2 ^ len

/-- Bits `lo + len - 1 : lo` of a word, as a number (R9). -/
def fld {n : Nat} (w : BitVec n) (lo len : Nat) : Nat := nfld w.toNat lo len

/-- Bit `i` of a word. -/
def bit {n : Nat} (w : BitVec n) (i : Nat) : Bool := w.getLsbD i

/-- A bit as a number. -/
def b2n (b : Bool) : Nat := if b then 1 else 0

/-- `⌈a ÷ b⌉`. -/
def cdiv (a b : Nat) : Nat := (a + b - 1) / b

/-- `a` rounded up to a multiple of `b`. -/
def roundUp (a b : Nat) : Nat := cdiv a b * b

/-- A keyed list: keys strictly rising. It holds what the P6 keeps sparsely. -/
abbrev NMap (α : Type) := List (Nat × α)

/-- Look a key up. -/
def NMap.find {α : Type} (m : NMap α) (k : Nat) : Option α :=
  match m with
  | [] => none
  | (j, v) :: rest => if j = k then some v else NMap.find rest k

/-- Look a key up, with the value an unlisted key reads as. -/
def NMap.getD {α : Type} (m : NMap α) (k : Nat) (d : α) : α := (NMap.find m k).getD d

/-- Put a value under a key, in key order. -/
def NMap.put {α : Type} (m : NMap α) (k : Nat) (v : α) : NMap α :=
  match m with
  | [] => [(k, v)]
  | (j, w) :: rest =>
    if k < j then (k, v) :: (j, w) :: rest
    else if k = j then (k, v) :: rest
    else (j, w) :: NMap.put rest k v

/-- Remove a key. -/
def NMap.del {α : Type} (m : NMap α) (k : Nat) : NMap α :=
  match m with
  | [] => []
  | (j, w) :: rest => if j = k then rest else (j, w) :: NMap.del rest k

/-- Keys rise strictly. -/
def NMap.sorted {α : Type} (m : NMap α) : Bool :=
  match m with
  | [] => true
  | (j, _) :: rest =>
    match rest with
    | [] => true
    | (k, _) :: _ => decide (j < k) && NMap.sorted rest

end Sys2Proof
end

