-- ==== Sys2Proof/Syntax.lean ====
section
/-! DEFINITION. The commands of the P6: one constructor of `Instr` for each row of spec/opcode_table.json, with the
operands the rules give it. -/

namespace Sys2Proof

/-- The two host ports (R405) and, with the same two names, the two management ports (R24). -/
inductive Port where
  | a
  | b
  deriving DecidableEq, Repr

/-- A command descriptor of 64 B (R417): the fields of offsets 0 and 4, the words at offsets 8 to 48, and the cookie. -/
structure Desc where
  opcode : Nat
  flags  : Nat
  tag    : Nat
  job    : Nat
  ring   : Nat
  prio   : Nat
  w8     : W64
  w16    : W64
  w24    : W64
  w32    : W64
  w40    : W64
  w48    : W64
  cookie : W64
  deriving DecidableEq, Repr

/-- A command: a descriptor with where it came from. Host commands come from ring set `set` of `port` (R414);
device-issued ones (R126) write their record to `caddr` and carry the set of their originating descriptor (R127).
`seq` is the order in which the scheduler took it, which tells it from every other command taken. -/
structure Cmd where
  desc   : Desc
  port   : Port
  set    : Nat
  sealed : Bool
  dev    : Bool
  caddr  : W64
  seq    : Nat
  deriving DecidableEq, Repr

/-- Format S, scalar and control (R202). -/
structure FmtS where
  rd   : Nat
  ra   : Nat
  rb   : Nat
  cond : Nat
  imm  : W64
  deriving DecidableEq, Repr

/-- Format C, channels (R203). -/
structure FmtC where
  reg  : Nat
  chan : Nat
  imm  : W64
  deriving DecidableEq, Repr

/-- Format M, semaphores (R357). -/
structure FmtM where
  ra   : Nat
  rb   : Nat
  rc   : Nat
  rd   : Nat
  sem  : Nat
  semb : Nat
  imm  : W32
  deriving DecidableEq, Repr

/-- Format A, array, attention, scan and convolution (R204, R244). -/
structure FmtA where
  prec    : W64
  span    : Nat
  ctrl    : Nat
  operand : Nat
  deriving DecidableEq, Repr

/-- Format V, vector, transform, selection and pooling (R207). -/
structure FmtV where
  imm    : W32
  aux    : Nat
  creg   : Nat
  rowlen : Nat
  pgt    : Bool
  minv   : Bool
  masked : Bool
  mreg   : Nat
  src3   : Nat
  src2   : Nat
  src1   : Nat
  dst    : Nat
  count  : Nat
  bcast  : Nat
  type   : Nat
  deriving DecidableEq, Repr

/-- Format B, browse (R219). -/
structure FmtB where
  rowbytes : Nat
  hint     : Nat
  creg     : Nat
  stride   : Nat
  minv     : Bool
  masked   : Bool
  mreg     : Nat
  rows     : Nat
  base     : Nat
  idx      : Nat
  data     : Nat
  count    : Nat
  idx64    : Bool
  type     : Nat
  deriving DecidableEq, Repr

/-- Format I, issue (R216). -/
structure FmtI where
  pneg   : Bool
  notify : Bool
  res    : Nat
  pred   : Nat
  caddr  : Nat
  desc   : Nat
  cmd    : Nat
  deriving DecidableEq, Repr

/-- A packet of the herd (R379): the header's fields and the plaintext payload. -/
structure Packet where
  dest    : Nat
  src     : Nat
  job     : Nat
  type    : Nat
  chan    : Nat
  ordered : Bool
  down    : Bool
  hops    : Nat
  flow    : Nat
  seq     : Nat
  msg     : Nat
  opA     : W64
  opB     : W64
  payload : List Byte
  deriving DecidableEq, Repr

/-- A flit as it arrives (R375): its 256 B, and what the payload of a CONTROL flit says, whose layout the spec does not give: an
acknowledgement and credit returns by channel (log entry 138). -/
structure Flit where
  bytes   : List Byte
  ack     : Option Nat := none
  credits : List Nat := []
  deriving DecidableEq, Repr

/-- What one end of a link sends at key agreement (R466): its encapsulation key or ciphertext, its nonce, its certificate, its life-cycle
state, and its signature over the transcript. -/
structure LinkAuth where
  kem   : List Byte := []
  nonce : List Byte := []
  cert  : List Byte := []
  life  : Nat := 0
  sig   : List Byte := []
  deriving DecidableEq, Repr

/-- What one bring-up of a link meets (R372, R373, R466): usable lanes, whether they trained, the peer, and what it sends at key
agreement. -/
structure BringUp where
  lanes    : BitVec 9
  trained  : Bool
  peerId   : W64
  peerAddr : Nat
  peerLink : Nat
  auth     : LinkAuth
  rttNs    : Nat
  deriving DecidableEq, Repr

/-- A census HELLO (R386). -/
structure HelloMsg where
  id       : W64
  eligible : Bool
  lead     : Option W64
  lbeat    : Nat
  dist     : Nat
  addr     : Nat
  deriving DecidableEq, Repr

/-- A census JOIN (R387): identity, depth, the peers on its links, the address asked for, and the link that it came by here. -/
structure JoinMsg where
  id    : W64
  depth : Nat
  links : List W64 := []
  want  : Nat
  via   : Option Nat := none
  deriving DecidableEq, Repr

/-- A census answer (R387): the module it is for, this one where it is none, the address assigned or exclusion, and a change of the
address book. -/
structure CensusMsg where
  dest     : Option W64 := none
  addr     : Option Nat
  excluded : Bool
  book     : List (Nat × W64)
  epoch    : Nat
  members  : Nat
  leader   : W64
  cause    : Nat
  deriving DecidableEq, Repr

/-- One entry of a VECTOR (R391): a destination with the neighbour's two distances (none where it has no route). -/
structure VectorEntry where
  dest : Nat
  dd   : Option Nat
  du   : Option Nat
  deriving DecidableEq, Repr

/-- A request on the management network (R429): its header's fields, its session tag, and its data as the message carries them,
encrypted (R465). -/
structure WemuMsg where
  tag  : List Byte
  op   : Nat
  port : Port
  len  : Nat
  off  : Nat
  seq  : Nat
  data : List Byte
  deriving DecidableEq, Repr

/-- Where a session message comes from: a port's DOE mailbox (R462), or a management port with its request number (R465). -/
inductive SessSrc where
  | doe (p : Port)
  | mgmt (p : Port) (req : Nat)
  deriving DecidableEq, Repr

/-- How one port is reset (R406). -/
inductive ResetKind where
  | perst
  | hotReset
  | linkDisable
  | flr
  | surpriseDown
  deriving DecidableEq, Repr

/-- A block whose handshake-stall monitor trips, handled as a lost unit of its kind (R483, R490). Physical numbers. -/
inductive UnitRef where
  | core (cluster core : Nat) (readable : Bool)
  | cluster (cluster : Nat)
  | d2dPort (cluster port : Nat)
  | codec (engine : Nat)
  | ringPass (engine : Nat)
  deriving DecidableEq, Repr

/-- Where an on-chip ECC error strikes (R482). Physical numbers. -/
inductive EccPlace where
  | scratchpad (cluster core : Nat)
  | bank (cluster core bank : Nat)
  | clusterSram (cluster : Nat)
  | hubBuffer (hub : Nat)
  | firmware (core : Nat)
  deriving DecidableEq, Repr

/-- What a firmware core reaches for, as R436 lists it: fuses, key roots and slots; the boot ROM; the boot flash, its configuration read,
and its herd address and address book; the firmware area, heartwood's region of it and sapwood's code; the tables and journal of an OPEN
and of a CONFIDENTIAL job; the memory of either; bytes 0 to 7 and 8 to 63 of a SEALED descriptor; kiln images; peat's repair. -/
inductive FwRes where
  | keys
  | rom
  | flash
  | flashCfg
  | flashBook
  | area
  | heartRegion
  | sapCode
  | openTables
  | confTables
  | openMemory
  | confMemory
  | sealedHead
  | sealedBody
  | image
  | peatRepair
  deriving DecidableEq, Repr

/-- Why a firmware core is declared crashed at once (R443): a trap, an uncorrectable error of its local memory, or an access that R436
forbids. -/
inductive FwTrap where
  | trap
  | memory
  | access (res : FwRes) (write : Bool)
  deriving DecidableEq, Repr

/-- A firmware core that stops, and why (R443). -/
structure FwStop where
  core : Nat
  why  : FwTrap
  deriving DecidableEq, Repr

/-- The end of a sequence space that an end-to-end timer is of (R382): a job, and the other module's address. -/
structure E2eEnd where
  job  : Nat
  peer : Nat
  deriving DecidableEq, Repr

/-- What start-up meets (R498 to R501, R504): which boot-flash copies are accepted, the parts that fail their test,
and what the sapwood fetch gives. -/
structure StartIn where
  feedAmV      : Nat
  feedBmV      : Nat
  heartPrimary : Bool
  heartMirror  : Bool
  cfgPrimary   : Bool
  cfgMirror    : Bool
  badCores     : List (Nat × Nat)
  badClusters  : List Nat
  badStacks    : List Nat
  fetched      : Option (List Byte)
  flashCopies  : Bool × Bool
  pcieA        : Nat × Nat
  pcieB        : Nat × Nat
  deriving DecidableEq, Repr

/-- What the governor measures in one period (R507): module power over 100 µs in W, each physical cluster's Tj in
quarter degrees, and the current of each cluster's rail. -/
structure GovIn where
  power : Nat
  tj    : List Nat
  amps  : List Nat
  deriving DecidableEq, Repr

/-- Which coarse values a refresh renews (R469, R468): the 10 ms ones or the 100 ms readings. -/
inductive CoarseKind where
  | counters
  | readings
  deriving DecidableEq, Repr

/-- A sideband input with a filter (R514). -/
inductive PinIn where
  | resetN
  | throttleN
  deriving DecidableEq, Repr

/-- How a withheld unit is made good (R492). -/
inductive RestoreMeans where
  | buddy
  | written
  deriving DecidableEq, Repr

/-- The commands of the P6, one constructor per row of spec/opcode_table.json. A host command carries the descriptor
taken from its ring set; an instruction of a core's command program carries the logical core that retires it and the
fields of its format; an event carries the unit it strikes and what the rules say it brings. -/
inductive Instr where
  | jobLoad (c : Cmd)
  | firingDone (slot : Nat)
  | jobStart (c : Cmd)
  | jobResume (c : Cmd)
  | jobPause (c : Cmd)
  | jobEnd (c : Cmd)
  | jobEndTakesEffect (slot : Nat)
  | commit (c : Cmd)
  | jobAdopt (c : Cmd)
  | jobSetToken (c : Cmd)
  | stepCmd (c : Cmd)
  | chunk (c : Cmd)
  | fork (c : Cmd)
  | prune (c : Cmd)
  | exportState (c : Cmd)
  | importState (c : Cmd)
  | swapOut (c : Cmd)
  | swapIn (c : Cmd)
  | streamMoveDone (stream : Nat)
  | paramGroupWrite (c : Cmd)
  | copyIn (c : Cmd)
  | copyOut (c : Cmd)
  | codecDecode (c : Cmd)
  | codecEncode (c : Cmd)
  | codecDispatch
  | codecWindowLoaded (engine : Nat)
  | descriptorIntake (p : Port) (set : Nat)
  | batchForm
  | batchCommit
  | commandPublish (k : Nat)
  | sli (n : Nat) (f : FmtS)
  | sadd (n : Nat) (f : FmtS)
  | smul (n : Nat) (f : FmtS)
  | sand (n : Nat) (f : FmtS)
  | sshr (n : Nat) (f : FmtS)
  | scmp (n : Nat) (f : FmtS)
  | sld (n : Nat) (f : FmtS)
  | sst (n : Nat) (f : FmtS)
  | spg (n : Nat) (f : FmtS)
  | br (n : Nat) (f : FmtS)
  | next (n : Nat) (f : FmtS)
  | nextBatchDelivered (n : Nat)
  | send (n : Nat) (f : FmtC)
  | recv (n : Nat) (f : FmtC)
  | free (n : Nat) (f : FmtC)
  | creditReturn (chan : Nat)
  | transferArrive (chan : Nat)
  | signal (n : Nat) (f : FmtM)
  | wait (n : Nat) (f : FmtM)
  | waitSatisfied (n : Nat)
  | sread (n : Nat) (f : FmtM)
  | sset (n : Nat) (f : FmtM)
  | rpass (n : Nat) (f : FmtM)
  | rpassSend (engine : Nat)
  | rpassComplete (engine : Nat)
  | matmul (n : Nat) (f : FmtA)
  | qk (n : Nat) (f : FmtA)
  | pv (n : Nat) (f : FmtA)
  | append (n : Nat) (f : FmtA)
  | scan (n : Nat) (f : FmtA)
  | conv (n : Nat) (f : FmtA)
  | fconv (n : Nat) (f : FmtA)
  | pool (n : Nat) (f : FmtV)
  | arrayRampWaitEnd (n : Nat)
  | arrayIdleRampDown (n : Nat)
  | vadd (n : Nat) (f : FmtV)
  | vsub (n : Nat) (f : FmtV)
  | vmul (n : Nat) (f : FmtV)
  | vfma (n : Nat) (f : FmtV)
  | vfnma (n : Nat) (f : FmtV)
  | vmax (n : Nat) (f : FmtV)
  | vmin (n : Nat) (f : FmtV)
  | vabs (n : Nat) (f : FmtV)
  | vneg (n : Nat) (f : FmtV)
  | vand (n : Nat) (f : FmtV)
  | vor (n : Nat) (f : FmtV)
  | vxor (n : Nat) (f : FmtV)
  | vshl (n : Nat) (f : FmtV)
  | vshr (n : Nat) (f : FmtV)
  | vdiv (n : Nat) (f : FmtV)
  | vsqrt (n : Nat) (f : FmtV)
  | vrsqrt (n : Nat) (f : FmtV)
  | vrecip (n : Nat) (f : FmtV)
  | vexp (n : Nat) (f : FmtV)
  | vlog (n : Nat) (f : FmtV)
  | vcmp (n : Nat) (f : FmtV)
  | vsel (n : Nat) (f : FmtV)
  | vcvt (n : Nat) (f : FmtV)
  | vrand (n : Nat) (f : FmtV)
  | vsum (n : Nat) (f : FmtV)
  | vrmax (n : Nat) (f : FmtV)
  | vrmin (n : Nat) (f : FmtV)
  | vld (n : Nat) (f : FmtV)
  | vst (n : Nat) (f : FmtV)
  | vcopy (n : Nat) (f : FmtV)
  | vfft (n : Nat) (f : FmtV)
  | vtopk (n : Nat) (f : FmtV)
  | bgather (n : Nat) (f : FmtB)
  | bscatter (n : Nat) (f : FmtB)
  | bscatadd (n : Nat) (f : FmtB)
  | browseMissReturn (n : Nat) (miss : Nat)
  | issue (n : Nat) (f : FmtI)
  | jobRunSelect
  | resumeDone
  | timeSliceExpired
  | yieldBoundExpired
  | pauseBoundExpired
  | pausePointReached
  | writebackDone
  | commitIntervalExpired
  | journalThreeQuarters
  | commitBedTimeout
  | commitPointReached
  | saturated
  | prefetchLateSummary
  | bankStallSummary
  | prefetchIssue (n : Nat)
  | peatDataReturn (n : Nat) (tagBad rebuilt : Bool)
  | heatDecay (cluster : Nat)
  | pageMoveDone (cluster page : Nat)
  | assemblyWindowExpired (stripe : Nat)
  | regulatorWindowStart (island partition : Nat)
  | scrubDone
  | linkBringUp (link : Nat) (i : BringUp)
  | laneFail (link lane : Nat)
  | flitReceive (link : Nat) (f : Flit)
  | nakReceive (link seq : Nat)
  | flitAckTimer (link : Nat)
  | retryBufferStall (link : Nat)
  | linkRekey (link : Nat) (auth : LinkAuth)
  | e2eRetransmitTimeout (dest : E2eEnd) (chan seq : Nat)
  | e2eAckTimer (src : E2eEnd) (chan : Nat)
  | packetWrite (p : Packet)
  | packetSignal (p : Packet)
  | packetReadReq (p : Packet)
  | packetReadData (p : Packet)
  | packetAck (p : Packet)
  | packetRefuse (p : Packet)
  | packetMirror (p : Packet)
  | packetFirmware (p : Packet)
  | packetReservedType (p : Packet)
  | transitCreditTimeout (link chan : Nat)
  | helloTimer
  | hello (link : Nat) (h : HelloMsg)
  | leaderBeatTimeout
  | censusJoin (j : JoinMsg)
  | census (m : CensusMsg)
  | joinRetryTimer
  | vectorMsg (link : Nat) (v : List VectorEntry)
  | routeInstall
  | linkAdminDown (link : Nat)
  | linkAdminUp (link : Nat)
  | ringEnable (p : Port) (set : Nat) (v : W32)
  | ringDisable (p : Port) (set : Nat)
  | ringSqTail (p : Port) (set : Nat) (v : W32)
  | ringCqHead (p : Port) (set : Nat) (v : W32)
  | ringEqHead (p : Port) (set : Nat) (v : W32)
  | msixMessage (p : Port) (vec : Nat)
  | hostLease (p : Port) (v : W32)
  | leaseExpired (p : Port)
  | hostDriverVersion (p : Port) (v : W32)
  | bar2Enable (p : Port) (v : W32)
  | bar2Read (p : Port) (off len : Nat)
  | bar2Write (p : Port) (off : Nat) (data : List Byte)
  | jobSemAdd (p : Port) (n : Nat) (v : W32)
  | jobPgtStage (p : Port) (off : Nat) (v : W32)
  | jobPgtPublish (p : Port) (v : W32)
  | portReset (p : Port) (k : ResetKind)
  | emuApertureRead (p : Port) (off : Nat)
  | emuApertureWrite (p : Port) (off : Nat) (v : W32)
  | emuReadTimeout (p : Port)
  | wemuRead (p : Port) (m : WemuMsg)
  | wemuWrite (p : Port) (m : WemuMsg)
  | getCert (src : SessSrc)
  | getReport (src : SessSrc) (nonce : BitVec 256) (job : Nat)
  | sessionInit (src : SessSrc) (ek : List Byte) (nonce : BitVec 256) (job : Nat)
  | sessionFinish (src : SessSrc) (confirm : BitVec 384) (opKey opSig : List Byte)
  | sessionEnd (src : SessSrc)
  | fwHeartbeatTimeout (core : Nat)
  | fwCoreTrap (core : FwStop)
  | fwRecoveryDone (core : Nat) (ok : Bool)
  | sapwoodUpdate
  | heartwoodUpdate
  | tftpBlockReceive (block : Nat) (data : List Byte)
  | tftpBlockTimeout
  | sapwoodFetchTimeout (primaryOk mirrorOk : Bool)
  | sapwoodRetryTimer
  | secSvnCommitHeartwood
  | secSvnCommitSapwood
  | lcRequestNonce
  | lcRequestGo (viaMgmt : Bool)
  | stallMonitorTrip (u : UnitRef)
  | eccError (place : EccPlace) (corrected : Bool)
  | d2dWordError (cluster port : Nat)
  | coreVerifyDone (cluster core : Nat) (pass : Bool)
  | clusterReplaceDone
  | hostedCoreSwitch (cluster core : Nat)
  | hbmUnitFail (stack : Nat) (pc : Option Nat)
  | rebuildDone
  | dataRestored (unit : Nat) (means : RestoreMeans)
  | marginForecast
  | woodpileTestTimer (bad : List (Nat × Nat))
  | phaseFail (rail phase : Nat)
  | registerWrite (p : Port) (off width v : Nat)
  | startUp (i : StartIn)
  | bootRetryTimer (i : StartIn)
  | resetNAssert
  | resetNRelease (i : StartIn)
  | throttleNAssert
  | throttleNRelease
  | governorTick (i : GovIn)
  | pwrCap (v : W32)
  | pwrSetpoint (v : W32)
  | pwrConfigGo (viaMgmt : Bool)
  | feedLost (feed : Port) (mV : Nat)
  | feedReturned (feed : Port) (mV : Nat)
  | thermalShutdown
  | hbmThermalPace (stack : Nat) (quarterC : Nat)
  | throttled
  | identity
  | inventory
  | stage
  | power
  | coolant
  | margin
  | recover (image : List Byte) (i : StartIn)
  | idcode
  | bypass
  | pcieLinkUp (p : Port) (speed width : Nat)
  | governorFail
  | rideThroughExpired
  | ignoredPulse (pin : PinIn)
  | coarseRefresh (k : CoarseKind)
  deriving DecidableEq, Repr

end Sys2Proof
end

