-- ==== Sys2Proof/Config.lean ====
section
/-! DEFINITION. What the spec leaves free and what one module's fuses fix: constants without a body, so that no proof
can see their values. A free value is applied to the operands it depends on, or to the counter `State.freeCtr`. -/

namespace Sys2Proof

/-- FREE: the nanoseconds that an island's clock counts between two looks at it (R5, R25, R407). Log entry 6. -/
opaque Config.elapsed : Nat → Nat

/-- FREE: draws of the on-die random source (R275, R451, R452, R475). Log entry 8. -/
opaque Config.random : Nat → BitVec 256

/-- Fused stepping: letter, digit (R2). Log entry 5. -/
opaque Config.stepping : Nat × Nat
/-- Year and ISO week of manufacture (R2). Log entry 5. -/
opaque Config.made : Nat × Nat
/-- Fused seeds (R451). Log entry 5. -/
opaque Config.udsId : BitVec 256
/-- Fused data seed before KILL_DATA (R451). Log entry 5. -/
opaque Config.udsData : BitVec 256
/-- Digests of the Waonhorn firmware keys and of the life-cycle key (R451). Log entry 5. -/
opaque Config.whFwKey : Fin 4 → BitVec 384
/-- The four Waonhorn firmware keys as a list (R451). -/
def Config.whFwKeys : List (BitVec 384) := [Config.whFwKey 0, Config.whFwKey 1, Config.whFwKey 2, Config.whFwKey 3]
/-- Digest of the Waonhorn life-cycle key (R451). Log entry 5. -/
opaque Config.whLcKey : BitVec 384
/-- Waonhorn's signature of this module's identity certificate, in the boot flash (R461). Log entry 5. -/
opaque Config.certSig : List Byte
/-- Current rating of a cluster rail with all its phases, in the unit of the measured rail currents (R490, R507). Log entry 144. -/
opaque Config.railRating : Nat
/-- Versions of the heartwood image in the boot flash: version, security version (R438). Log entry 5. -/
opaque Config.heartwood : Nat × Nat
/-- The fallback sapwood of the boot flash (R441, R502): version, security version, window lowest and highest. Log 5. -/
opaque Config.fallback : Nat × Nat × Nat × Nat
/-- Measurements of the heartwood and fallback images, and of the fixed configuration (R460, R504). Log entry 5. -/
opaque Config.measures : BitVec 384 × BitVec 384 × BitVec 384

/-- SHA3-384 (R41, R132, R438, R503), uninterpreted. Log entry 8. -/
opaque Config.sha3 : List Byte → BitVec 384
/-- KMAC256 with key, data, output bits and customisation (R452), uninterpreted. Log entry 8. -/
opaque Config.kmac : List Byte → List Byte → Nat → List Byte → Nat
/-- ML-DSA-65: the public key of a seed, signing, and verification under a context (R452), uninterpreted. Log entry 8. -/
opaque Config.dsaPublic : BitVec 256 → List Byte
/-- Bytes of text (R41, R452). -/
def ascii (t : String) : List Byte := t.toList.map (fun c => BitVec.ofNat 8 c.toNat)

/-- The identity key pair's seed (R452). -/
def idSeed : BitVec 256 :=
  BitVec.ofNat 256 (Config.kmac ((List.range 32).map (fun i => Config.udsId.extractLsb' (8 * i) 8)) [] 256 (ascii "P6-ID"))

/-- Fused identity of this module: the first 8 B of SHA3-384 of its identity public key (R2, R451). -/
def Config.identity : W64 := (Config.sha3 (Config.dsaPublic idSeed)).setWidth 64

/-- ML-DSA-65 signing with a seed's key over a message under a context (R452). Log entry 8. -/
opaque Config.dsaSign : BitVec 256 → List Byte → List Byte → List Byte
/-- ML-DSA-65 verification: key, message, signature, context (R42, R438, R475). Log entry 8. -/
opaque Config.dsaVerify : List Byte → List Byte → List Byte → List Byte → Bool
/-- ML-KEM-768 encapsulation under a random draw: the shared secret (R463). Log entry 8. -/
opaque Config.kemSecret : List Byte → BitVec 256 → List Byte
/-- ML-KEM-768 encapsulation under a random draw: the ciphertext (R463). Log entry 8. -/
opaque Config.kemCipher : List Byte → BitVec 256 → List Byte
/-- ML-KEM-768 of FIPS 203 (R466): the encapsulation key of a seed, and the secret that it decapsulates from a ciphertext. Log entry 4. -/
opaque Config.kemPublic : BitVec 256 → List Byte
opaque Config.kemOpen : BitVec 256 → List Byte → List Byte
/-- The published device root key of Waonhorn (R461). -/
opaque Config.deviceRoot : List Byte
/-- AES-256-XTS of one data unit: the two keys, its number, its plaintext (R454). Log entry 8. -/
opaque Config.xts : Nat → Nat → Nat → List Byte → List Byte
/-- One AES-256 block: its key and the block as a number (R455). Log entry 8. -/
opaque Config.aes256 : Nat → Nat → BitVec 128
/-- AES-256-GCM sealing of one record: key, record number, additional data, plaintext (R381, R427). Log entry 8. -/
opaque Config.gcmSeal : Nat → Nat → List Byte → List Byte → List Byte
/-- AES-256-GCM opening: key, record number, additional data, record (R381, R427). Log entry 8. -/
opaque Config.gcmOpen : Nat → Nat → List Byte → List Byte → Option (List Byte)

/-- FREE within the bounds of R144: the functions of the gate pipeline, by FUNC code. Log entry 9. -/
opaque Config.gateFunc : Nat → W32 → W32
/-- FREE within R145: sine and cosine of the top 24 bits of an angle in turns. Log entry 9. -/
opaque Config.sinTop : Nat → W32
/-- FREE within R145. Log entry 9. -/
opaque Config.cosTop : Nat → W32
/-- FREE within R146: natural logarithm in lse. Log entry 9. -/
opaque Config.lnLse : W32 → W32
/-- FREE within R208: VRSQRT, VRECIP and VLOG by opcode and FP32 operand. Log entry 9. -/
opaque Config.vecApprox : Nat → W32 → W32
/-- FREE: the FP32 pattern of the NaN that an operation gives, by its operands (R210). Log entry 24. -/
opaque Config.nanBits : List Int → Nat
/-- FREE: the element code written in an MX block that holds NaN or an infinity, by format and FP32 value (R147).
Log entry 25. -/
opaque Config.nanElement : Nat → Nat → Nat
/-- FREE within R148: expm1 of dt × A as the scan unit computes it, as a mantissa and an exponent of two. Log entry 10. -/
opaque Config.expm1 : W32 → W32 → Int × Int
/-- FREE within 2^−23: expm1(dt × A) ÷ A under a zero-order hold (R148). Log entry 10. -/
opaque Config.holdQuotient : W32 → W32 → Int × Int
/-- FREE within the roundings of R148 and R151: the FP32 state after some tokens of a scan chunk: the carried value, then
dt, A, B and x of every token of the chunk so far. Log entry 10. -/
opaque Config.scanState : List W32 → W32
/-- FREE: the compensation term stored beside a state element that is NaN or infinite (R157, R162). Log entry 10. -/
opaque Config.scanTerm : W32 → W16
/-- FREE: whether the tree of VSUM pairs neighbouring lanes or the two halves (R208). Log entry 29. -/
opaque Config.sumAdjacent : Bool
/-- FREE within R214: element `i` (re or im) of the transform of a tile of side `n`, forward or inverse. Log entry 11. -/
opaque Config.fft : Nat → Bool → List W32 → Nat → W32
/-- FREE: bytes that an FCONV leaves in its work region (R250): from the words that it transforms. Log entry 34. -/
opaque Config.workByte : List W32 → Nat → Byte
/-- FREE: the tally and the residue failures that one array command meets (R84, R85). Log entry 37. -/
opaque Config.checkFailures : Nat → Nat × Nat
/-- FREE: the column groups that an array keeps enabled as rows arrive again (R86, R98): a ramp-down of 8 groups takes 448
beats, and the spec gives no measure of the wait. Log entry 41. -/
opaque Config.groupsLeft : Nat → Nat
/-- FREE: the beat groups of one vector instruction that failed their check and were run again (R213). Log entry 43. -/
opaque Config.groupFailures : Nat → Nat
/-- FREE: peat words corrected and rows repaired since a core last got data of the stacks (R482, R490). Log entry 64. -/
opaque Config.hbmFixes : Nat → Nat × Nat
/-- FREE: whether a stripe row that two failed stacks share was not yet rebuilt when the second failed (R491, R492). Log
entry 38. -/
opaque Config.rowLost : Nat → Nat → Bool
/-- Not exposed (R269): the set of a line of the hinted cache. Log entry 12. -/
opaque Config.cacheSet : Nat → Nat
/-- FREE: the device virtual address at which a job's units read its stream-table slice, entry 0 of the table first (R103): the
spec gives none. Log entry 17. -/
opaque Config.tableAddr : Nat
/-- FREE: the device virtual address of a page-table root, by its number in its job (R105, R176). Log entry 17. -/
opaque Config.rootAddr : Nat → Nat
/-- FREE: the path nodes, below the root, that a stream copies before a write under nodes that it shares (R174, R176): the
encoding of nodes is internal. Log entry 17. -/
opaque Config.pathNodes : Nat → Nat
/-- FREE: where in the page-table area the nodes of a page table lie, by its root's number (R176, R272): the encoding of nodes is
internal. Log entry 134. -/
opaque Config.tablePlace : Nat → Nat
/-- FREE within R279: where the search for a free data page begins: counter of free values, virtual page. Log entry 12. -/
opaque Config.dataPage : Nat → Nat → Nat
/-- FREE: which 2 MiB of a job's memory the P6 maps as one large page (R287): job slot, number of the 2 MiB. Log entry 36. -/
opaque Config.largePage : Nat → Nat → Bool

/-- What a standard's decoding process says of one frame: kind (0 intact, 1 with an error after its header, 2 no header that parses),
width, height, bit depth, chroma sampling (0 monochrome, 1 4:2:0, 2 any other), whether its profile and its tools are those that R300
names for the standard, its spatial layer and the highest of the operating point, how it is made of fields (0 a frame, 1 a pair, 2 a lone
top field, 3 a lone bottom field), quantiser, whether it is a key frame and whether it carries film grain, display index, the bytes from
its unit's start that the lengths in it reach to, the reference slots that it names, its first reference first, and those that it
refreshes. -/
structure FrameInfo where
  kind    : Nat := 0
  width   : Nat := 0
  height  : Nat := 0
  depth   : Nat := 8
  chroma  : Nat := 1
  profile : Bool := true
  tools   : Bool := true
  layer   : Nat := 0
  topLayer : Nat := 0
  fields  : Nat := 0
  quant   : Nat := 0
  key     : Bool := false
  grain   : Bool := false
  order   : Nat := 0
  need    : Nat := 0
  refs    : List Nat := []
  refresh : List Nat := []
  deriving DecidableEq, Repr, Inhabited

/-- How a 16 × 16 block was predicted (R317): motion vector in eighths of a luma sample for an AV1 decode and in quarters else, flags,
and which of its frame's references it used. -/
structure BlockInfo where
  mvx  : Int := 0
  mvy  : Int := 0
  intra : Bool := false
  skip  : Bool := false
  compound : Bool := false
  ref  : Nat := 0
  deriving DecidableEq, Repr, Inhabited

/-- The bytes of a swap image, which are the P6's own (R129): of the plaintext contents. Log entry 14. -/
opaque Config.swapImage : List Byte → List Byte
/-- Where in the firmware area the commit journal keeps its `n`th unit (R272, R354). Log entry 112. -/
opaque Config.journalUnit : Nat → Nat
/-- Bytes that a journalled record other than a unit takes (R354): from its kind and payload length. Log entry 15. -/
opaque Config.journalRecord : Nat → Nat → Nat

/-- Bytes that the coded unit at the front of the input declares (R309), where no length field stands before it: standard, session so
far, input. Fixed by the standards, uninterpreted here. Log entry 13. -/
opaque Config.unitLength : Nat → List Byte → List Byte → Nat
/-- A coded unit as a decoder's standard sees it (R309 to R312): session so far, the unit: how many of the frames held for reordering the
decoder releases after it, and what its frames are. Fixed by the standards, uninterpreted here. Log entry 13. -/
opaque Config.decodeUnit : List Byte → List Byte → Nat × List FrameInfo
/-- Sample of a decoded frame before film grain (R307): session to its unit's end, frame of the unit, the samples of its references by
reference, plane, row and column; plane, row, column. Log entry 13. -/
opaque Config.decodeSample : List Byte → Nat → (Nat → Nat → Nat → Nat → Nat) → Nat → Nat → Nat → Nat
/-- Sample of a decoded field (R301): as above, with whether it is the bottom field. Log entry 13. -/
opaque Config.decodeField : List Byte → Nat → (Nat → Nat → Nat → Nat → Nat) → Bool → Nat → Nat → Nat → Nat
/-- A sample with its film grain (R301): session, frame, plane, row, column, sample. Log entry 13. -/
opaque Config.grain : List Byte → Nat → Nat → Nat → Nat → Nat → Nat
/-- Whether a 16 × 16 block of a damaged frame was decoded before the error (R311): session, frame, block. Log entry 13. -/
opaque Config.decodedBefore : List Byte → Nat → Nat → Bool
/-- Predicted luma sample (R317): session, frame, row, column. Log entry 13. -/
opaque Config.predicted : List Byte → Nat → Nat → Nat → Nat
/-- How a block was predicted (R317): session, frame, block. Log entry 13. -/
opaque Config.blockInfo : List Byte → Nat → Nat → BlockInfo
/-- FREE: INTRA_COST of samples whose mean is no integer (R317 does not say how it is rounded). Log entry 13. -/
opaque Config.intraCost : List Nat → Nat
/-- Luma sample of a frame as an encoder reconstructs it (R319): session to its unit's end, row, column. Log entry 13. -/
opaque Config.reconSample : List Byte → Nat → Nat → Nat
/-- AV1 sequence header: seq_level_idx, context header (R319). Log entry 13. -/
opaque Config.seqHeader : Nat → List Byte → List Byte
/-- OBUs of a coded frame (R319, R325): session with the frame's samples, tile columns, search windows as samples by superblock,
reference, row and column of the window, quantiser. Log entry 13. -/
opaque Config.frameObus : List Byte → Nat → (Nat → Nat → Nat → Nat → Nat) → Nat → List Byte
/-- FREE: where in a reference pool a search window's strip lies, in the engine's own layout (R308, R324). Log entry 13. -/
opaque Config.poolPlace : Nat → Nat
/-- FREE: place and size that a record gives a coded unit which an earlier command consumed (R314): session, unit. Log 13. -/
opaque Config.pastUnit : List Byte → Nat → Nat × Nat
/-- FREE: byte of the engine's part of a context (R299): session, byte. Log entry 13. -/
opaque Config.codecArea : List Byte → Nat → Byte
/-- FREE: byte of a reference pool, in the engine's own layout (R308): session, byte. Log entry 13. -/
opaque Config.codecPool : List Byte → Nat → Byte

/-- Not exposed (R272): a byte of the regions of the data space that no interface shows, by its data address. Log entry 99. -/
opaque Config.hiddenByte : Nat → Byte

/-- FREE: bits 11:1 of the JTAG IDCODE (R518). Log entry 5. -/
opaque Config.jtagMaker : Nat

/-- FREE: what the spec does not state, numbered by the counter `State.freeCtr`. Log entry 7. -/
opaque Config.freeNat : Nat → Nat

end Sys2Proof
end

