-- ==== Sys2Proof/Machine/Types.lean ====
section
/-! DEFINITION. The parts of the P6's state, one structure for each thing the spec names. Plain data only. Registers
that software reads or writes whole are bit vectors; counts, indices and codes are numbers. -/

namespace Sys2Proof.Machine

/-! ## Kiln images as fired (chapter 2) -/

/-- A stage table entry (R49). -/
structure StageE where
  width  : Nat := 1
  split  : Nat := 0
  flags  : Nat := 0
  halo   : Nat := 0
  first  : Nat := 0
  layers : Nat := 1
  deriving DecidableEq, Repr

/-- A channel table entry (R51). -/
structure ChanE where
  producer : Nat := 0
  consumer : Nat := 0
  flags    : Nat := 0
  depth    : Nat := 1
  slot     : Nat := 1
  rate     : Nat := 64
  largest  : Nat := 1
  deriving DecidableEq, Repr

/-- A tensor table entry (R53). -/
structure TensorE where
  fmt   : Nat := 0
  pages : Nat := 0
  addr  : Nat := 0
  deriving DecidableEq, Repr

/-- A shape-limit entry (R54). -/
structure LimitE where
  tensor : Nat := 0
  dim    : Nat := 0
  extent : Nat := 1
  deriving DecidableEq, Repr

/-- A regulator table entry (R47). -/
structure RegE where
  flags      : Nat := 0
  guaranteed : Nat := 0
  ceiling    : Nat := 0
  depth      : Nat := 4
  window     : Nat := 100
  deriving DecidableEq, Repr

/-- A mesh-route entry (R56). -/
structure RouteE where
  chan  : Nat := 0
  order : Nat := 0
  port  : Nat := 0
  deriving DecidableEq, Repr

/-- A pinned entry (R57). -/
structure PinE where
  tensor : Nat := 0
  pages  : Nat := 0
  off    : Nat := 0
  deriving DecidableEq, Repr

/-- A cluster section (R55). -/
structure ClusterSec where
  map    : List Nat := []
  pgt    : Nat := 0
  routes : List RouteE := []
  pins   : List PinE := []
  deriving DecidableEq, Repr

/-- A region entry (R59). -/
structure RegionE where
  off  : Nat := 0
  size : Nat := 0
  kind : Nat := 0
  chan : Nat := 0xFFFF
  deriving DecidableEq, Repr

/-- A live-range entry (R62). -/
structure LiveE where
  boundary : Nat := 0
  tiles    : Nat := 0
  regions  : Nat := 0
  deriving DecidableEq, Repr

/-- A core section (R58): program and block data as bytes, and the five tables. -/
structure CoreSec where
  progLen : Nat := 0
  blockLen : Nat := 0
  code    : List Byte := []
  regions : List RegionE := []
  pads    : List (Nat × W32) := []
  beds    : List Nat := []
  live    : List LiveE := []
  uses    : List (Nat × Nat) := []
  tiles   : Nat := 0
  order   : Nat := 0
  deriving DecidableEq, Repr

/-- A fired image (R36): what it fixes for the life of its job. The batch extent (R116), the state extent (R154) and what
attention asks of a template (R178) are worked out at firing. -/
structure Image where
  confidential : Bool := false
  hostIf       : Nat := 0
  measurement  : BitVec 384 := 0
  stages       : List StageE := []
  chans        : List ChanE := []
  tensors      : List TensorE := []
  limits       : List LimitE := []
  regs         : List RegE := []
  cacheUnits   : List Nat := []
  promote      : Nat := 1
  demote       : Nat := 0
  shift        : Nat := 1
  interval     : Nat := 1
  sliceFirst   : Nat := 0
  sliceCount   : Nat := 0
  options      : Nat := 0
  peatUnits    : Nat := 0
  links        : List Nat := []
  extent       : Nat := 256
  stateExtent  : Nat := 0
  attnKey      : Option Nat := none
  attnVal      : Option Nat := none
  attnGroups   : Option Nat := none
  clusters     : NMap ClusterSec := []
  cores        : NMap CoreSec := []
  deriving DecidableEq, Repr

/-! ## Streams (chapter 4) -/

/-- LOCATION of a stream (R105, R107). -/
inductive Loc where
  | resident
  | cold
  | moving
  | exported
  | peer
  deriving DecidableEq, Repr

/-- A stream-table entry (R105) and what goes with it. `pages` is the stream's page table (R175): group times 2^42 plus
page index, to the page's device virtual address, and `root` the number of its root node (R176), 0 where it has none.
`assigned` is the last sequence number given (R113). Away from peat, `awayAddr` and `awaySize` are the address and the size of
the swap image or of the record on the peer at `herdAddr`, whose source has `room` bytes (R129, R136); `moveBase` is the first
pool page that a move into peat has taken. `swap…` is the swap image's contents, kept to compare and to restore (R129), with the
session epoch, the key and the first record number that sealed it (R427, R464). FORKED, PENDING, STATE_PTR and KV_ROOT as they read are worked out, not stored. -/
structure Stream where
  kind       : Nat := 0
  loc        : Loc := .resident
  parked     : Nat := 0
  resetNext  : Bool := false
  gen        : Nat := 0
  statePtr   : Nat := 0
  root       : Nat := 0
  awayAddr   : Nat := 0
  awaySize   : Nat := 0
  herdAddr   : Nat := 0
  room       : Nat := 0
  moveBase   : Nat := 0
  length     : Nat := 0
  stepCount  : Nat := 0
  parent     : Nat := 0
  parentGen  : Nat := 0
  depth      : Nat := 0
  committed  : Nat := 0
  assigned   : Nat := 0
  stateSize  : Nat := 0
  groups     : Nat := 0
  keyFmt     : Nat := 0
  valFmt     : Nat := 0
  stateFmt   : Nat := 0
  comp       : Bool := false
  stoch      : Bool := false
  rngKey     : Nat := 0
  rngCtr     : Nat := 0
  posBase    : Nat := 0
  segment    : Nat := 0
  promise    : Nat := 0
  winPages   : Nat := 0
  pages      : NMap Nat := []
  swapPort   : Port := .a
  swapState  : List Byte := []
  swapPages  : List (Nat × List Byte) := []
  swapEpoch  : Nat := 0
  swapKey    : Nat := 0
  swapNo     : Nat := 0
  cameFrom   : Loc := .resident
  need       : Nat := 0
  peerBuf    : List Byte := []
  deriving DecidableEq, Repr

/-- One row of work: a row of a STEP's batch table (R115) or the whole of a CHUNK (R114). `phase`: 0 waiting, 1 held for
a move (R108), 2 in a batch, 3 finished. `st` is the stream as the advance has it while in its batch; `block` its fresh
state block (R123); `fresh` its fresh pages and copies as key, address and page copied from (R174); `spend` the pages it
takes from the promise; `reused` the private pages that recycling gives it at once (R188). -/
structure Row where
  ix      : Nat := 0
  stream  : Nat := 0
  gen     : Nat := 0
  tokens  : Nat := 1
  isOpen  : Bool := false
  isClose : Bool := false
  isReset : Bool := false
  unpark  : Bool := false
  seq     : Nat := 0
  phase   : Nat := 0
  result  : Nat := 0
  adaptive : Nat := 0
  drew    : Bool := false
  st      : Stream := {}
  block   : Option Nat := none
  fresh   : List (Nat × Nat × Option Nat) := []
  spend   : Nat := 0
  reused  : Nat := 0
  lastSeg : Nat := 0
  deriving DecidableEq, Repr

/-- Where outputs go: a job's memory, host memory at a port, there as data records sealed under a key (R427), or a port's ring
memory. -/
inductive Space where
  | job
  | host (p : Port)
  | sealedAt (p : Port) (key : Nat)
  | ring (p : Port)
  deriving DecidableEq, Repr

/-- A picture of a codec session since OPEN (R309, R311, R312, R319): bytes of the session up to its unit's end, which unit and which frame
of it, what the engine takes it for, and the pictures that it names as references, none for one never filled. -/
structure Picture where
  upto : Nat := 0
  unit : Nat := 0
  ix   : Nat := 0
  info : FrameInfo := {}
  refs : List (Option Nat) := []
  deriving DecidableEq, Repr

/-- A codec context (R299, R305): fixed header bytes at its last OPEN, frame counter, pictures that no slot has taken yet and those that
the decoder still holds for reordering, both in output order, all that the session has consumed or coded since OPEN, its coded units,
its pictures, the picture in each reference slot, the bits of past frames (R320), the indices of the last key and golden frames, and the
luma samples of the frame before (R317). -/
structure CodecCtx where
  fixed   : List Byte := []
  frames  : Nat := 0
  heldFrames : List Nat := []
  reorder : List Nat := []
  session : List Byte := []
  units   : Nat := 0
  pics    : List Picture := []
  slots   : NMap Nat := []
  bits    : List Nat := []
  lastKey : Nat := 0
  golden  : Nat := 0
  before  : List Nat := []
  deriving DecidableEq, Repr

/-- What a codec command has done so far: its context, writes, records, highest status, and counters by offset. -/
structure CodecWork where
  ctx    : CodecCtx := {}
  writes : List (Space × Nat × List Byte) := []
  recs   : Nat := 0
  status : Nat := 0
  ctr    : List (Nat × Nat) := []
  deriving DecidableEq, Repr

/-- An encode in progress: what it has done, the frame it is at, bytes written, and whether a coded unit did not fit. -/
structure Encoding where
  work : CodecWork := {}
  at'  : Nat := 0
  pos  : Nat := 0
  full : Bool := false
  deriving DecidableEq, Repr

/-- A command in the job's queue (R35). `phase`: 0 queued, 1 dispatched, 2 riding with a batch or at work on an engine,
3 finished. `target` is the stream of a command that does not advance, `refs` the streams of a PRUNE, `kids` the entries
a FORK or an import has taken, `reserve` the pages promised to it, `made` the stream an import makes, `data` the bytes an import has read or a listed publication's entries, `go` tells a publication of the
parameter-group window and `staged` its values (R225, R232), `enc` the frames that an encode has completed (R326), `under` the epoch and device key of its port's session at dispatch (R464). -/
structure QCmd where
  uid     : Nat
  cmd     : Cmd
  phase   : Nat := 0
  rows    : List Row := []
  status  : Nat := 0
  flags   : Nat := 0
  count   : Nat := 0
  refs    : List (Nat × Nat) := []
  kids    : List Nat := []
  reserve : Nat := 0
  made    : Stream := {}
  engine  : Nat := 0
  data    : List Byte := []
  enc     : Option Encoding := none
  go      : Bool := false
  staged  : NMap W32 := []
  under   : Nat × Nat := (0, 0)
  deriving DecidableEq, Repr

/-- A batch (R116): its rows by command and row index, STEP rows that it could not place with the number of placed rows before
each (R179), its riders, the oldest command that contributed, the bases it gives, the override in force (R81, log entry 104), and
the parameter-group tables as they stood when it was formed (R225). -/
structure Batch where
  id       : Nat
  rows     : List (Nat × Nat) := []
  unplaced : List (Nat × Row) := []
  riders   : List Nat := []
  oldest   : Option Cmd := none
  inBase   : W64 := 0
  outBase  : W64 := 0
  forced   : Option W64 := none
  pgt      : NMap W32 := []
  deriving DecidableEq, Repr

/-- A finished command whose outputs and completion are not yet published (R33), with its place in the queue's order (R35). -/
structure Publication where
  uid    : Nat := 0
  cmd    : Cmd
  status : Nat := 0
  flags  : Nat := 0
  stream : Nat := 0
  count  : Nat := 0
  streams : List Nat := []
  writes : List (Space × Nat × List Byte) := []
  deriving DecidableEq, Repr

/-! ## Cores and channels (chapters 1, 3, 5, 7) -/

/-- What a core waits for (R202, R203, R357, R87, R288, R217, R395). -/
inductive CoreWait where
  | run
  | next (rd : Nat)
  | recv (chan reg : Nat)
  | send (chan : Nat)
  | sem (sem : Nat) (v : W32)
  | rpassFull
  | signalFull
  | ramp
  | peat (addr len part : Nat)
  | held (addr : Nat)
  | browse
  deriving DecidableEq, Repr

/-- A browse request that holds a slot of its unit (R217, R218): its number among the instruction's, its thread, its pseudo-channel,
32 to a stack, and its data address. -/
structure Miss where
  no     : Nat := 0
  thread : Nat := 0
  chan   : Nat := 0
  data   : Nat := 0
  deriving DecidableEq, Repr

/-- A logical core's part of the job (R199): scalar registers, instruction index, what it waits for,
its batch and how many batches it has taken (R444), scratchpad, accumulators, the tile in the array's cells, column groups
enabled (R86), browse misses outstanding (R217, R218), with the
acknowledged prefix of a BSCATADD (R220), the browse thread that issued last (R217), the 256 check cells of the tally column (R72), units fetched ahead (R286), what its present command waited for that has arrived
(R217, R288), and whether a command that a forced pause lets run to its end is in progress (R346). -/
structure Core where
  sregs     : List W64 := []
  insn      : Nat := 0
  wait      : CoreWait := .run
  batch     : Option Nat := none
  seen      : Nat := 0
  scratch   : NMap Byte := []
  acc       : NMap Byte := []
  cells     : Option (Nat × Nat) := none
  tally     : List Int := []
  groupsOn  : Nat := 0
  ramping   : Bool := false
  misses    : List Miss := []
  scatDone  : Option Nat := none
  lastThread : Nat := 31
  ahead     : List Nat := []
  arrived   : List Nat := []
  inCmd     : Bool := false
  deriving DecidableEq, Repr

/-- A transfer on a channel: first slot, slots, bytes, whether it has arrived and whether RECV has returned it. -/
structure Transfer where
  slot    : Nat
  slots   : Nat
  data    : List Byte
  arrived : Bool
  recved  : Bool
  deriving DecidableEq, Repr

/-- A channel's run-time state (R21, R203): the producer's credits, transfers in order, the next slot, and credits
travelling back. -/
structure Chan where
  credits   : Nat := 0
  transfers : List Transfer := []
  nextSlot  : Nat := 0
  returning : List Nat := []
  deriving DecidableEq, Repr

/-- The fault record (R230). -/
structure FaultRec where
  core : Nat := 0
  insn : Nat := 0
  lane : Nat := 0
  addr : Nat := 0
  deriving DecidableEq, Repr

/-- An open inbound message (R383, R395): bytes still to come and the semaphore to raise. -/
structure OpenMsg where
  job   : Nat
  src   : Nat
  msg   : Nat
  left  : Nat
  raise : Option Nat
  deriving DecidableEq, Repr

/-- A transfer of a ring-pass engine (R357, R395): an RPASS, or with its packets the mirroring of a commit point (R360). -/
structure Transfer2 where
  slot  : Nat
  core  : Nat
  src   : Nat
  dst   : Nat
  len   : Nat
  peer  : Nat
  sem   : Nat
  semb  : Nat
  sent  : Nat
  msg   : Nat
  started : Bool
  mirror  : Bool := false
  pkts    : List Packet := []
  deriving DecidableEq, Repr

/-- Everything of a job that a commit point captures and a pause saves (R349, R353): job memory, stream slice, pool,
queue and batcher, committed batches that a core still works on (R127), page-table roots numbered (R176), the data page behind each pool page (R279), cores, channels, semaphores, parameter-group tables and counters. -/
structure JobRun where
  mem      : NMap Byte := []
  streams  : NMap Stream := []
  vaNext   : Nat := 0
  nodeNext : Nat := 0
  place    : NMap Nat := []
  queue    : List QCmd := []
  batches  : List Batch := []
  past     : List Batch := []
  publish  : List Publication := []
  ctxs     : NMap CodecCtx := []
  uidNext  : Nat := 0
  batchNext : Nat := 0
  noChunk  : Nat := 0
  captured : List Packet := []
  seqs     : NMap Nat := []
  passes   : List (Nat × Transfer2) := []
  msgs     : List OpenMsg := []
  cores    : NMap Core := []
  chans    : NMap Chan := []
  sems     : NMap W32 := []
  pgt      : NMap W32 := []
  ctrDev   : NMap Nat := []
  ctrCluster : NMap Nat := []
  ctrCore  : NMap Nat := []
  ctrJob   : NMap Nat := []
  deriving DecidableEq, Repr, Inhabited

/-- The saved items of a commit point as they travel to a buddy (R360), whose format is the P6's own. Log entry 19. -/
opaque Config.savedItems : JobRun → List Byte

/-- FREE: the bytes of a HELLO, whose layout the spec does not give (R386). Log entry 138. -/
opaque Config.helloBytes : HelloMsg → List Byte

/-- FREE: the bytes of a VECTOR, whose layout the spec does not give (R391). Log entry 138. -/
opaque Config.vectorBytes : List VectorEntry → List Byte

/-- FREE: the bytes of a JOIN, whose layout the spec does not give (R387). Log entry 138. -/
opaque Config.joinBytes : JoinMsg → List Byte

/-- FREE: the bytes of a census answer, whose layout the spec does not give (R387). Log entry 138. -/
opaque Config.censusBytes : CensusMsg → List Byte
/-- The run that saved items give a mirror that is resumed from them, but for its memory (R360). Log entry 19. -/
opaque Config.itemsRun : List Byte → JobRun

/-- Job states (R330). -/
inductive JobState where
  | empty
  | loading
  | armed
  | running
  | pausing
  | paused
  | resuming
  | ending
  | ended
  deriving DecidableEq, Repr

/-- JOB_INFO and the other slot registers (R332), with what JOB_START sets (R334), ownership (R425), the queue time
(R340) and the commands that wait on the job's state. `commitRun` is the RUNNING time at the last commit point, `notified`
the NOTIFY copies written since and `mute` those that a replay does not write again (R355). -/
structure JobInfo where
  state    : JobState := .empty
  id       : Nat := 0
  prio     : Nat := 0
  buddy    : Bool := false
  mirror   : Bool := false
  confidential : Bool := false
  owner    : Port := .a
  queued   : Bool := false
  wbPending : Bool := false
  cause    : Nat := 0
  saveNeed : Nat := 0
  commitSeq : Nat := 0
  commitRun : Nat := 0
  notified : Nat := 0
  mute     : Nat := 0
  runNs    : Nat := 0
  journal  : Nat := 0
  homeSet  : Nat := 0
  token    : BitVec 128 := 0
  slice    : Nat := 0
  yieldUs  : Nat := 10000
  commitMs : Nat := 250
  buddyAddr : Nat := 0
  qTime    : Nat := 0
  holdsSave : Bool := false
  runSince : Nat := 0
  loadCmd  : Option Cmd := none
  starts   : List Cmd := []
  waiting  : List Cmd := []
  commits  : List Cmd := []
  adoptMark : Nat := 0
  outstanding : List Cmd := []
  deriving DecidableEq, Repr

/-- One journalled fact since the last commit point (R354). -/
inductive JournalRec where
  | unit (u : Nat)
  | slice (u : Nat)
  | table (root : Nat)
  | batch (parts : List (Cmd × Option Nat))
  | taken (c : Cmd)
  | hostWrite (addr : Nat) (data : List Byte)
  | raised (sem v : Nat)
  | published (p : Port) (staged : NMap W32)
  deriving DecidableEq, Repr

/-- A mirror transfer that arrives (R360, R361): its sender and message, bytes still to come, whether its first packet has come and whether
that named another image, and the saved items and contents held till it is whole. -/
structure MirrorIn where
  src   : Nat
  msg   : Nat
  left  : Nat
  ok    : Bool := false
  bad   : Bool := false
  items : List Byte := []
  data  : List (Nat × List Byte) := []
  deriving DecidableEq, Repr

/-- A job slot (R330): registers, image, the running part, its last commit point with the journal since (R353, R354),
the parameter-group staging copy (R227), the port of a GO that no scheduler has taken yet (R227), the die-to-die port that each route entry of port 3 has been given, by cluster times
8,192 plus channel, and those of them to be chosen anew once their channel holds nothing in flight (R56), the data page behind each tensor page and the runs of data pages behind the stream pool (R279), the fault record, the 4 KiB units withheld under R492 and those of them written whole since, and the units a buddy has not
acknowledged (R360). -/
structure Job where
  info    : JobInfo := {}
  image   : Image := {}
  run     : JobRun := {}
  commit  : Option JobRun := none
  journal : List JournalRec := []
  copied  : List Nat := []
  heldWrites : List (Nat × List Byte) := []
  stage   : NMap W32 := []
  goDue   : Option Port := none
  routes  : NMap Nat := []
  routesDue : List Nat := []
  backing : NMap Nat := []
  pool    : List (Nat × Nat) := []
  fault   : Option FaultRec := none
  lost    : List Nat := []
  made    : List Nat := []
  mirrorDirty : List Nat := []
  mirrorSent : List Nat := []
  mirrorItems : List Byte := []
  mirrorIn : Option MirrorIn := none
  mirrorAll : Bool := false
  deriving DecidableEq, Repr

/-! ## The scheduler (chapter 11) -/

/-- A pause in progress (R345, R346): bed or forced, its CAUSE, the JOB_PAUSE commands it completes, and the program
error it carries. -/
structure Pausing where
  forced : Bool
  cause  : Nat
  yields : Bool
  bounded : Bool
  cmds   : List Cmd
  status : Nat
  tag    : Nat
  deriving DecidableEq, Repr

/-- The scheduler and device-wide job state: the running slot, the pause in progress, a commit point sought, JOB_ENDs
waiting, job commands taken and not yet acted on, the order of commands taken, whether the running job's time slice has elapsed (R341),
the last assigned identifier (R338), and the tallies of the present second with the job that they are of (R344). -/
structure Sched where
  running   : Option Nat := none
  previous  : Option Nat := none
  pausing   : Option Pausing := none
  seekCommit : Option Bool := none
  intakeOpen : Bool := true
  ending    : List (Nat × Cmd) := []
  taken     : List Cmd := []
  cmdSeq    : Nat := 0
  sliceOver : Bool := false
  lastId    : Nat := 0
  lastSet   : Nat := 0
  secJob    : Option Nat := none
  batchesSec : Nat := 0
  allBehind : Bool := true
  deferredSec : Nat := 0
  guardSec  : Nat := 0
  lateMark  : NMap Nat := []
  lateCount : Nat := 0
  stallMark : NMap Nat := []
  deriving DecidableEq, Repr

/-! ## Host ports (chapter 13) -/

/-- A completion record before it is written (R418). -/
structure Completion where
  tag    : Nat
  status : Nat
  job    : Nat
  flags  : Nat
  stream : Nat
  count  : Nat
  cookie : W64
  deriving DecidableEq, Repr

/-- An event record before it is written (R419). -/
structure Event where
  code : Nat
  job  : Nat
  a    : W64
  b    : W64
  merged : Bool := false
  deriving DecidableEq, Repr

/-- A ring set (R411, R413): registers, doorbell values, hold queues (R415, R416), counts since the last MSI-X message
(R420), commands taken and not completed, and of a SEALED set the number of the last record taken and whether a failing record at
the head has been counted (R427). -/
structure RingSet where
  control : W32 := 0
  enabled : Bool := false
  error   : Nat := 0
  bad     : Bool := false
  sqBase  : W64 := 0
  cqBase  : W64 := 0
  eqBase  : W64 := 0
  sizes   : W32 := 0
  irq     : W32 := 0
  shadow  : W64 := 0
  sqHead  : W32 := 0
  cqTail  : W32 := 0
  eqTail  : W32 := 0
  sqTail  : W32 := 0
  cqHead  : W32 := 0
  eqHead  : W32 := 0
  cqPass  : Nat := 0
  eqPass  : Nat := 0
  hold    : List Completion := []
  holdEv  : List Event := []
  cqSince : Nat := 0
  eqSince : Nat := 0
  out     : Nat := 0
  rxNo    : Nat := 0
  badHead : Bool := false
  deriving DecidableEq, Repr

/-- A session (R463, R465): whether it is established, its epoch, keys, and an attempt in progress. -/
structure Session where
  up      : Bool := false
  epoch   : Nat := 0
  keyH2d  : Nat := 0
  keyD2h  : Nat := 0
  attempt : Option (Nat × BitVec 384) := none
  transcript : BitVec 384 := 0
  deriving DecidableEq, Repr

/-- A host port (R405 to R431): PCIe link, HOST_ registers and counters (by offset), ring sets, MSI-X table
(by word), pending bits and messages sent, whether it has had a link since start-up, BAR2 control, EMU_ block with the sequence numbers of aperture accesses not yet answered, the value the last read returned, BAR2 reads that wait for withheld data, by offset and bytes (R492), the number of the last record sealed under the session's device key (R427), ring memory, and host memory at the port's bus. -/
structure HostPort where
  linkUp  : Bool := true
  inReset : Bool := false
  speed   : Nat := 6
  width   : Nat := 16
  driver  : W32 := 0
  lease   : W32 := 0
  leaseLapsed : Bool := false
  bar2    : W32 := 0
  bar2Base : W64 := 0
  streamBase : W32 := 0
  ctr     : NMap Nat := []
  sets    : NMap RingSet := []
  hosted  : Bool := true
  statusDue : Bool := false
  msixTbl : NMap Nat := []
  msixPba : List Nat := []
  msixSent : List Nat := []
  emuTarget : W32 := 0
  emuBase : W32 := 0
  emuTimeout : Bool := false
  emuRefused : Bool := false
  emuErrors : Nat := 0
  emuSeq  : Nat := 0
  emuReads : List Nat := []
  emuWrites : List Nat := []
  reply   : List Byte := []
  heldReads : List (Nat × Nat) := []
  doe     : List Byte := []
  session : Session := {}
  txNo    : Nat := 0
  ringMem : NMap Byte := []
  hostMem : NMap Byte := []
  deriving DecidableEq, Repr

/-! ## The memory tiers (chapter 9) -/

/-- A line of the hinted cache (R269, R270): valid and dirty granule masks, tensor, last writer's partition, KEEP mark,
first-victim mark, and its way. -/
structure Line where
  valid  : Nat := 0
  dirty  : Nat := 0
  tensor : Option Nat := none
  part   : Nat := 0
  keep   : Bool := false
  victim : Bool := false
  way    : Nat := 0
  deriving DecidableEq, Repr

/-- A page of the ember tier (R267, R268): dirty 4 KiB pieces, pieces that another agent's write has invalidated (R264), pinned, and
the partition of its last writer. -/
structure EmberPage where
  dirty  : Nat := 0
  gone   : Nat := 0
  pinned : Bool := false
  part   : Nat := 0
  deriving DecidableEq, Repr

/-- A page move in flight (R267): a promotion, with its victim where it needs one, and the partition it is charged to. -/
structure PageMove where
  page   : Nat
  victim : Option Nat
  part   : Nat := 0
  deriving DecidableEq, Repr

/-- One cluster's managed tiers (R265 to R271). The heat table lists page and count, oldest entry first. -/
structure Tier where
  ember    : NMap EmberPage := []
  heat     : List (Nat × Nat) := []
  cache    : NMap Line := []
  moves    : List PageMove := []
  accesses : Nat := 0
  deriving DecidableEq, Repr

/-- An assembly entry (R277): for each unit of the stripe, the mask of granules written and the partition that wrote it first; the
partition of the write that opened it, the hub of its engine, its stamp at the parity stack's island, and its place in the order of
opening. -/
structure Assembly where
  units  : NMap Nat := []
  parts  : NMap Nat := []
  part   : Nat := 0
  hub    : Nat := 0
  opened : Nat := 0
  age    : Nat := 0
  deriving DecidableEq, Repr

/-- A token bucket (R281): bytes held, bytes issued in its latest window, and that window's number, counted from the island's start. -/
structure Bucket where
  bytes  : Nat := 0
  issued : Nat := 0
  window : Nat := 0
  deriving DecidableEq, Repr

/-- What a request to the peat tier is for: a unit that a core waits for, a granule of a browse unit, or a page that moves. -/
inductive ReqOwner where
  | core (n : Nat)
  | miss (n no : Nat)
  | move (cl page : Nat)
  deriving DecidableEq, Repr

/-- A request outstanding at a hub's peat controllers (R263, R276): whose it is, the hub of its stack, the die-to-die port that it
takes, its granules and its partition. -/
structure PeatReq where
  owner    : ReqOwner
  hub      : Nat
  port     : Nat
  granules : Nat
  part     : Nat
  deriving DecidableEq, Repr

/-- All managed tiers of the running job, the open assembly entries by stripe, the requests outstanding in the order in which they
came (R276), the buckets by island times 9 plus partition, the partition that each island granted last (R282), and the salt (R275). -/
structure Tiers where
  clusters : NMap Tier := []
  asm      : NMap Assembly := []
  asmClock : Nat := 0
  requests : List PeatReq := []
  buckets  : NMap Bucket := []
  granted  : NMap Nat := []
  salt     : W64 := 0
  deriving DecidableEq, Repr

/-! ## Links and the herd (chapter 12) -/

/-- LINK_STATUS.STATE (R397). -/
inductive LinkState where
  | down
  | training
  | keying
  | up
  | retired
  | adminDown
  deriving DecidableEq, Repr

/-- A DATA flit of the retry buffer (R375, R376): sequence number, channel, the payload bytes that packets fill, and whether it has gone:
one that has not takes the next packet of its channel back to back. -/
structure TxFlit where
  seq    : Nat
  chan   : Nat
  bytes  : List Byte
  closed : Bool := false
  deriving DecidableEq, Repr

/-- A Mbazen link (R370 to R378, R396). Counters are kept by register offset. `rxBuf` holds the bytes of each channel's packet that has
not arrived whole, `rxFlits` the flits of its receive buffer that they fill, `deficits` those of each channel; `txKey` is the key slot of
this direction with its fixed field above it, `rxKeys` that of the other with the records counted, before it the one that fresh keys
replaced, and `own` what this end sent at the last key agreement (R381, R453, R466). -/
structure Link where
  state    : LinkState := .down
  width    : Nat := 0
  active   : Nat := 0
  failed   : Nat := 0
  spare    : Option Nat := none
  encrypted : Bool := false
  adminDown : Bool := false
  failures : Nat := 0
  peerId   : W64 := 0
  peerAddr : Nat := 0
  peerLink : Nat := 0
  rttNs    : Nat := 0
  ctr      : NMap Nat := []
  txSeq    : Nat := 0
  rxSeq    : Nat := 0
  retry    : List TxFlit := []
  nakSeq   : Nat := 0
  naks     : Nat := 0
  nakSent  : Bool := false
  replay   : Option (Nat × Nat) := none
  rxSince  : Nat := 0
  rxBuf    : List (List Byte) := [[], [], [], []]
  rxFlits  : List Nat := [0, 0, 0, 0]
  control  : List (Nat × Nat) := []
  credits  : List Nat := [32, 192, 192, 608]
  outQ     : List Packet := []
  turn     : Nat := 1
  deficits : List (Nat × Nat) := [(0, 0), (0, 0), (0, 0), (0, 0)]
  txKey    : Nat := 0
  rxKeys   : List (Nat × Nat) := []
  own      : LinkAuth := {}
  keyEpoch : Nat := 0
  records  : Nat := 0
  authAt   : List Nat := []
  heard    : Option HelloMsg := none
  fresh    : Bool := false
  vec      : List VectorEntry := []
  peerDepth : Nat := 0
  deriving DecidableEq, Repr

/-- An end-to-end sender's packet awaiting acknowledgement (R382): packet, link, timeout in µs. -/
structure Unacked where
  pkt     : Packet
  link    : Nat
  timeout : Nat
  deriving DecidableEq, Repr

/-- End-to-end receive state per job, source and channel (R382): cumulative point, map, packets since the last ACK. -/
structure RxFlow where
  job  : Nat
  src  : Nat
  chan : Nat
  cum  : Nat
  got  : List Nat
  since : Nat
  deriving DecidableEq, Repr

/-- An outstanding read of a peer's job memory (R136, R380): `body` tells the fetch of a stream's record from that of an
import's header, `key` the stream or the command. -/
structure ReadReq where
  slot  : Nat
  msg   : Nat
  peer  : Nat
  body  : Bool
  key   : Nat
  total : Nat
  data  : NMap Byte
  got   : Nat
  deriving DecidableEq, Repr

/-- A READ of the register transports that waits for words of the EMU_APERTURE: its source and sequence number, what it reads, how it
came, and each word's place, aperture sequence number and value (R429, R431). -/
structure ApWait where
  src    : Nat
  seq    : Nat
  port   : Port
  off    : Nat
  len    : Nat
  msg    : Option (Port × WemuMsg) := none
  packet : Option Packet := none
  reads  : List (Nat × Nat × Option (List Byte)) := []
  deriving DecidableEq, Repr

/-- The herd state (R382 to R398): census, address book, routing tables, pinned flows and those waiting to drain,
end-to-end send and receive state, packets waiting for credit units, open messages, ring-pass engines, outstanding reads,
received packets not yet handled, with the link and the flits of its receive buffer that those of channels 1 and 3 hold (R377), what this
module last sent on channel 0 and answered, the link by which a module's JOIN came, the links that the members report, the members that
have left, longest absent first (R387), and whether the leader is lost and no other found yet (R403). -/
structure Herd where
  apWaits : List ApWait := []
  role    : Nat := 0
  depth   : Nat := 0
  addr    : Nat := 0
  leader  : W64 := 0
  beat    : Nat := 0
  leadBeat : Nat := 0
  parent  : Option Nat := none
  epoch   : Nat := 0
  members : Nat := 1
  book    : List (Nat × W64) := []
  member  : List W64 := []
  routes  : NMap (Nat × Nat) := []
  newRoutes : Option (NMap (Nat × Nat)) := none
  pins    : List (Nat × Nat × Nat × Nat × Nat) := []
  repin   : List (Nat × Nat × Nat × Nat × Nat) := []
  ctr     : NMap Nat := []
  inbox   : List Packet := []
  sendSeq : NMap Nat := []
  unacked : List Unacked := []
  waiting : List Packet := []
  flows   : List RxFlow := []
  messages : List OpenMsg := []
  engines : List (List Transfer2) := [[], [], [], [], [], [], [], []]
  reads   : List ReadReq := []
  msgNext : Nat := 0
  hellos  : List (Nat × HelloMsg) := []
  joins   : List JoinMsg := []
  answers : List (W64 × CensusMsg) := []
  vectors : List (Nat × List VectorEntry) := []
  fwSeen  : List (Nat × Nat × List Byte) := []
  held    : List (Packet × Nat × Nat) := []
  via     : List (W64 × Nat) := []
  ties    : List (W64 × List W64) := []
  absent  : List W64 := []
  adrift  : Bool := false
  relearn : Bool := false
  deriving DecidableEq, Repr

/-! ## Codec engines (chapter 10) -/

/-- The window of one reference's luma samples that an engine holds for its search, by the place of its first column and row in the
frame, which may lie outside it (R323, R324). -/
structure SearchWindow where
  ref  : Nat := 0
  left : Int := 0
  top  : Int := 0
  deriving DecidableEq, Repr

/-- A codec engine (R298): in service, the encode that it searches for, the window loads that its search still waits for (R324), and
the windows that it loads. -/
structure Engine where
  inService : Bool := true
  busy      : Option Nat := none
  loads     : Nat := 0
  windows   : List SearchWindow := []
  deriving DecidableEq, Repr

/-! ## Firmware, keys and life-cycle (chapters 14, 15) -/

/-- A firmware core (R434, R450): STATE (0 OFF, 1 LOADING, 2 RUNNING, 3 RESTARTING, 4 UPDATING, 5 FAILED), ROLE (0 none,
1 primary, 2 standby, 3 cluster), restarts, the times of its crashes within an hour (R446), and for a cluster control core
the batches that its cluster's hardware queues already held as it crashed (R444). -/
structure FwCore where
  state    : Nat := 2
  role     : Nat := 3
  restarts : Nat := 0
  crashes  : List Nat := []
  queued   : Nat := 0
  deriving DecidableEq, Repr

/-- A firmware image as accepted (R438): version, security version, window, lowest partner, measurement, from flash. -/
structure FwImage where
  version : Nat := 0
  svn     : Nat := 0
  lo      : Nat := 0
  hi      : Nat := 0
  partner : Nat := 0
  measure : BitVec 384 := 0
  fallback : Bool := false
  deriving DecidableEq, Repr

/-- What a fetch is for (R440, R447, R448). -/
inductive FetchFor where
  | start
  | sapwood
  | heartwood
  deriving DecidableEq, Repr

/-- A TFTP fetch in progress (R440): purpose, source 1 to 4, tries of the missing block, next block, block size, data so
far, and the RESULT that its last failure gives (R450). -/
structure Fetch where
  purpose : FetchFor
  source  : Nat
  tries   : Nat := 1
  block   : Nat := 1
  size    : Nat := 512
  data    : List Byte := []
  last    : Nat := 2
  deriving DecidableEq, Repr

/-- A unit as health telemetry and the repair fuses name it: its kind, its number, and its sub-unit (R481, R494). -/
structure UnitId where
  kind : Nat
  unit : Nat
  sub  : Nat := 0
  deriving DecidableEq, Repr

/-- A request that waits while the firmware core that serves it is down, to be served after its recovery (R444): of the
security core a configuration write, a live update, restarts and reloads of sapwood, what goes into the boot flash, and the requests of the
SEC_ and LC_ windows, a security version as it ran at the write (R477, R478); of the power core emulated register accesses and the messages
of management sessions; of a cluster's control core the remaps in its cluster. -/
inductive Held where
  | config (viaMgmt : Bool)
  | update (kind : Nat)
  | wemu (p : Port) (op : Nat) (m : WemuMsg)
  | firmware (q : Packet)
  | cert (src : SessSrc)
  | report (src : SessSrc) (nonce : BitVec 256) (job : Nat)
  | sessInit (src : SessSrc) (ek : List Byte) (nonce : BitVec 256) (job : Nat)
  | sessFinish (src : SessSrc) (confirm : BitVec 384) (opKey opSig : List Byte)
  | sessEnd (src : SessSrc)
  | recover (n : Nat) (ok : Bool)
  | reload (n : Nat)
  | book (addr : Nat) (book : Option (List (Nat × W64)))
  | retire (u : UnitId)
  | remap (p core : Nat) (readable : Bool)
  | spare (n : Nat)
  | svn (heart : Bool) (version : Nat)
  | nonce
  | lifeCycle (viaMgmt : Bool)
  | fetchOver (primaryOk mirrorOk : Bool)
  deriving DecidableEq, Repr

/-- A TFTP request (R440): source, block, file name, and the block size asked for. -/
structure TftpReq where
  source : Nat
  block  : Nat
  file   : List Byte
  size   : Nat
  deriving DecidableEq, Repr

/-- The firmware (R434 to R450). `requests` are the blocks asked for (R440); `reloaded` the pairs that heartwood has once reloaded with the
fallback sapwood (R446); `held` the requests that wait, oldest first (R444); `faults` the sapwood faults recorded, by core, resource and
whether it was a write (R436). -/
structure Firmware where
  cores    : List FwCore := []
  heartwood : FwImage := {}
  sapwood  : Option FwImage := none
  busy     : Bool := false
  kind     : Nat := 0
  result   : Nat := 0
  updates  : Nat := 0
  restarts : Nat := 0
  takeovers : Nat := 0
  fetch    : Option Fetch := none
  requests : List TftpReq := []
  reloaded : List Nat := []
  held     : List Held := []
  faults   : List (Nat × FwRes × Bool) := []
  deriving DecidableEq, Repr

/-- Fuses (R451): `uds` holds the identity and the data seed, which a BLANK module has not; the keys and the identity are constants of
Config. -/
structure Fuses where
  svnHeart : Nat := 0
  svnSap   : Nat := 0
  lc       : Nat := 3
  intent   : Nat := 0
  killData : Bool := false
  uds      : Option (BitVec 256 × BitVec 256) := some (Config.udsId, Config.udsData)
  repairs  : List UnitId := []
  deriving DecidableEq, Repr

/-- The `n` little-endian bytes of a number (R9). -/
def leBytes (n w : Nat) : List Byte :=
  match n with
  | 0 => []
  | k + 1 => BitVec.ofNat 8 w :: leBytes k (w / 256)

/-- The data seed that keys derive from (R451); a BLANK module has none. -/
def Fuses.dataSeed (f : Fuses) : BitVec 256 := (f.uds.map (·.2)).getD 0

/-- The data root (R452). -/
def Fuses.dataRoot (f : Fuses) : Nat := Config.kmac (leBytes 32 f.dataSeed.toNat) [] 256 (ascii "P6-DATA")

/-- The firmware's memory key of a start-up, under its nonce (R452). -/
def firmwareKey (f : Fuses) (nonce : BitVec 256) : Nat :=
  Config.kmac (leBytes 32 f.dataRoot) (leBytes 32 nonce.toNat) 1024 (ascii "P6-FW")

/-- Keys and security state (R453 to R477). Key slots hold what was loaded; a cleared slot is none. `coarseBase` holds the
device-wide counters as a confidential job began to run, `shown` and `shownPower` what coarse registers show since the last
refresh (R469). -/
structure Sec where
  jobKeys  : NMap Nat := []
  fwKey    : Nat := 0
  epochKeys : List (Port × Nat × Nat) := []
  mgmtA    : Session := {}
  mgmtB    : Session := {}
  reports  : Nat := 0
  sessions : Nat := 0
  rekeys   : Nat := 0
  tagRepairs : Nat := 0
  scrub    : Nat := 0
  coarse   : Bool := false
  nonce    : BitVec 256 := 0
  target   : Nat := 0
  lcResult : Nat := 0
  token    : NMap Byte := []
  noLoads  : Bool := false
  replies  : List (Port × List Byte) := []
  coarseBase : NMap Nat := []
  shown    : Option (NMap Nat) := none
  shownPower : Option (NMap Nat) := none
  deriving DecidableEq, Repr

/-- The configuration record (R503), accepted or fixed (R504). `raw` is the record's bytes; the fixed one has none. -/
structure CfgRec where
  flags    : Nat := 0
  anchors  : List (BitVec 384) := []
  opKeys   : List (BitVec 384) := []
  controllers : List Nat := []
  cap      : Nat := 1200
  setpoint : Nat := 750
  udp      : Nat := 47600
  linkEn   : Nat := 0xFFFFFFFFFFFF
  measure  : BitVec 384 := 0
  raw      : List Byte := []
  deriving DecidableEq, Repr

/-- The boot flashes (R502): configuration of each copy, heartwood of each copy, own address, address book, the health
history's pending retirements, spare draws and recorded cause of a shutdown. -/
structure Flash where
  cfgPrimary : CfgRec := {}
  cfgMirror  : CfgRec := {}
  heartPrimary : FwImage := {}
  heartMirror  : FwImage := {}
  addr     : Nat := 0
  book     : List (Nat × W64) := []
  retired  : List UnitId := []
  cause    : Nat := 0
  deriving DecidableEq, Repr

/-! ## Health (chapter 16) -/

/-- A physical cluster (R14, R15, R496 HEALTH_CLUSTER): STATE (0 WOODPILE, 1 SERVICE, 2 HOSTING, 3 VERIFYING, 4 RETIRED), the
logical cluster served, the logical cluster hosted under R488, the physical cores retired, the die-to-die ports in service
and the phases of its rail that have failed. -/
structure PhysCluster where
  state   : Nat := 0
  logical : Nat := 0
  guest   : Option Nat := none
  retired : Nat := 0
  ports   : Nat := 3
  phasesOut : Nat := 0
  deriving DecidableEq, Repr

/-- A logical core's place (R19, R496 HEALTH_CORE_MAP). -/
structure CorePlace where
  cluster : Nat := 0
  core    : Nat := 0
  deriving DecidableEq, Repr

/-- An HBM stack (R491, R496 HEALTH_STACK): STATE (0 OK, 1 DEGRADED, 2 REBUILDING, 3 RELOCATED, 4 RETIRED), the
pseudo-channels retired, the units left to relocate, and island 98's time when its rebuild began. `unbuilt` holds the retired
pseudo-channels whose units are not yet all rebuilt. -/
structure Stack where
  state  : Nat := 0
  failed : Nat := 0
  unbuilt : Nat := 0
  left   : Nat := 0
  began  : Nat := 0
  deriving DecidableEq, Repr

/-- A cluster replacement in progress (R485, R488): the lost physical cluster, the logical cluster and the physical one that
takes it, as a woodpile cluster or as a host. -/
structure Replace where
  lost     : Nat
  logical  : Nat
  physical : Nat
  hosting  : Bool
  deriving DecidableEq, Repr

/-- A replay in progress (R355): what of the journal is still to be replayed, the kind and number of the unit whose loss
caused it, and what RECOVERED will say of it (R494). -/
structure Replay where
  recs : List JournalRec
  kind : Nat
  unit : Nat
  us   : Nat
  seq  : Nat
  deriving DecidableEq, Repr

/-- Health telemetry and the physical maps (R480 to R497). Physical cores are numbered 17 times their cluster plus their
number in it (R494). `banksOut` holds the accumulator banks retired, `bankErrs` and `wordErrs` the times of corrected bank
errors and of resent words, `verifying` the cores held under R85, `turns` the logical core that has a shared physical core
(R487), `migrate` the logical clusters to be moved at the next commit point (R486), `rebuilds` the stacks being rebuilt in
order, `moved` the units that whole-unit writes have relocated (R491), `lost` bytes of usable capacity, `repairUsed` units of the reserve, `hubPhasesOut` the failed phases of each hub rail, `began` the service before this
start-up in nanoseconds and `drawn` the times of the spares drawn (R495). -/
structure Health where
  clusters : List PhysCluster := []
  map      : List CorePlace := []
  banksOut : NMap Nat := []
  bankErrs : NMap (List Nat) := []
  wordErrs : NMap (List Nat) := []
  verifying : List Nat := []
  turns    : NMap Nat := []
  migrate  : List (Nat × Nat) := []
  replace  : List Replace := []
  replay   : Option Replay := none
  exhausted : Bool := false
  hbm      : List Stack := []
  rebuilds : List Nat := []
  moved    : List Nat := []
  repairUsed : Nat := 0
  lost     : Nat := 0
  engines  : Nat := 0xFF
  hubPhasesOut : List Nat := []
  ctr      : NMap Nat := []
  forecast : W64 := 0
  log      : NMap (List Byte) := []
  logCount : W32 := 0
  began    : Nat := 0
  drawn    : List Nat := []
  deriving DecidableEq, Repr

/-! ## Power and the board (chapter 17) -/

/-- A cluster rail (R506, R507). Millivolts, and Tj in quarter degrees. -/
structure Rail where
  v       : Nat := 750
  therm   : Nat := 850
  cur     : Nat := 850
  tj      : Nat := 280
  deriving DecidableEq, Repr

/-- Power (R505 to R512): the limits, each physical cluster's rail, the module power of the last 100 governor periods, newest
first, the sum and number of those since the last coarse refresh, each feed's voltage in mV and whether it is taken as lost, THROTTLE_N, governor periods
throttled since start-up and in the present throttling, the cause that its THROTTLED event began with (0 none), pulses
ignored, the governor that serves, the stacks paced and their temperatures in quarter degrees, the staged record and the
outcome of the last configuration write. -/
structure Power where
  cap      : Nat := 1200
  setpoint : Nat := 750
  rails    : List Rail := []
  samples  : List Nat := []
  summed   : Nat × Nat := (0, 0)
  feedA    : Nat := 54000
  feedB    : Nat := 54000
  lostA    : Bool := false
  lostB    : Bool := false
  throttlePin : Bool := false
  ticks    : Nat := 0
  runTicks : Nat := 0
  began    : Nat := 0
  glitches : Nat × Nat := (0, 0)
  hub4     : Bool := false
  paced    : List Nat := []
  stackT   : NMap Nat := []
  stage    : NMap Byte := []
  cfgResult : Nat := 0
  deriving DecidableEq, Repr

/-- Where the module stands (R498, R501, R473, R512, R516). -/
inductive Phase where
  | off
  | inReset
  | halted
  | stopped
  | ready
  | scrapped
  deriving DecidableEq, Repr

/-- Where the module stands, what the SMBus and JTAG answered last (R517, R518), bytes or none for a NACK, and whether it rides
through the loss of both feeds (R512). -/
structure Board where
  phase   : Phase := .ready
  smbus   : Option (List Byte) := none
  jtag    : W32 := 0
  rideThrough : Bool := false
  deriving DecidableEq, Repr

end Sys2Proof.Machine
end

