-- ==== Sys2Proof/Machine/State.lean ====
section
/-! DEFINITION. The whole state of the P6 as plain data, the reasons a step can stop, and the machine after reset:
the module at READY, its life-cycle in the field, under the fixed configuration (R11, R504). -/

namespace Sys2Proof.Machine

/-- Why the machine stops with a fault. -/
inductive Fault where
  /-- Raised by ECC_ERROR for an uncorrectable error of a hub buffer and by PHASE_FAIL for a hub rail below its need: the loss
  of a whole hub die destroys the module, and the manual states no behaviour after it (R479, R490). Safe: the model stops
  where the hardware is lost. -/
  | moduleLost
  deriving DecidableEq, Repr

/-- Why a command is refused. -/
inductive Refusal where
  /-- Raised by an arm of `exec` whose command has no meaning yet. Safe: nothing is claimed of it. -/
  | notModelled (mnemonic : String)
  deriving DecidableEq, Repr

/-- The state of the P6, with the queue of the commands that wait. -/
structure State where
  /-- Commands waiting, first in, first out. The MODEL's own field. -/
  pending  : List Instr := []
  /-- Counter of free values drawn. The MODEL's own field. -/
  freeCtr  : Nat := 0
  /-- Nanoseconds counted by each of the 100 islands (R5, R24). -/
  islands  : List Nat := []
  /-- The 64 job slots (R330). -/
  jobs     : List Job := []
  /-- The scheduler (chapter 11). -/
  sched    : Sched := {}
  /-- Host port A (chapter 13). -/
  portA    : HostPort := {}
  /-- Host port B (chapter 13). -/
  portB    : HostPort := {}
  /-- The memory tiers (chapter 9). -/
  tiers    : Tiers := {}
  /-- The 48 links (chapter 12). -/
  links    : List Link := []
  /-- The herd (chapter 12). -/
  herd     : Herd := {}
  /-- The 16 codec engines (chapter 10). -/
  codecs   : List Engine := []
  /-- The firmware (chapter 14). -/
  fw       : Firmware := {}
  /-- Fuses (chapter 15). -/
  fuses    : Fuses := {}
  /-- Keys, sessions and security registers (chapter 15). -/
  sec      : Sec := {}
  /-- The configuration in force (R503, R504). -/
  cfg      : CfgRec := {}
  /-- The boot flashes (R502). -/
  flash    : Flash := {}
  /-- Health and the physical maps (chapter 16). -/
  health   : Health := {}
  /-- Power (chapter 17). -/
  power    : Power := {}
  /-- The board (chapter 17). -/
  board    : Board := {}
  deriving DecidableEq, Repr

/-- The physical clusters after reset: 0 to 31 in service, 32 and 33 in the woodpile (R14, R19, R480, R496). -/
def State.resetClusters : List PhysCluster :=
  (List.range 34).map fun c => if c < 32 then { state := 1, logical := c } else {}

/-- The logical cores after reset: core `k` of cluster `c` on the physical core of the same numbers (R19). -/
def State.resetMap : List CorePlace :=
  (List.range 512).map fun n => { cluster := n / 16, core := n % 16 }

/-- The 40 firmware cores after start-up (R434, R435): the twins on hub 0 primary, those on hub 4 standby. -/
def State.resetFwCores : List FwCore :=
  (List.range 40).map fun n => { role := if n < 6 then 1 + n % 2 else 3 }

/-- The fallback sapwood of the boot flash (R441, R502). -/
def fallbackImage : FwImage :=
  let c := Config.fallback
  { version := c.1, svn := c.2.1, lo := c.2.2.1, hi := c.2.2.2, measure := Config.measures.2.1, fallback := true }

/-- The heartwood image of the boot flash (R502). -/
def flashHeartwood : FwImage :=
  { version := Config.heartwood.1, svn := Config.heartwood.2, measure := Config.measures.1 }

/-- The fixed configuration of the boot ROM (R504). -/
def fixedCfg : CfgRec := { measure := Config.measures.2.2 }

/-- The machine after reset. The salt and the nonce of the firmware key are draws of the random source, the first free values (R275,
R452; log entry 109). -/
def State.reset : State :=
  { islands := List.replicate 100 0
    jobs := List.replicate 64 {}
    freeCtr := 2
    tiers := { salt := (Config.random 0).setWidth 64 }
    sec := { fwKey := firmwareKey {} (Config.random 1) }
    links := List.replicate 48 {}
    codecs := List.replicate 16 {}
    health := { clusters := State.resetClusters, map := State.resetMap,
                hbm := List.replicate 48 {}, hubPhasesOut := List.replicate 8 0 }
    fw := { cores := State.resetFwCores, heartwood := flashHeartwood, sapwood := some fallbackImage }
    cfg := fixedCfg
    flash := { heartPrimary := flashHeartwood, heartMirror := flashHeartwood }
    power := { rails := List.replicate 34 {} } }

end Sys2Proof.Machine
end

