-- ==== Sys2Proof/Machine/Ops.lean ====
section
/-! DEFINITION. Operations that the meanings share: memory, island clocks, counters, ports, ring records, completions
and events. -/

namespace Sys2Proof.Machine

/-- The outcome of a command that the P6 can be given only when `ok` holds of its operands: one that names a unit that the P6 does not
have changes nothing. DESIGN CHOICE (log entry 133). -/
def checked (s : State) (ok : Bool) (t : State) : Host.Outcome State Fault Refusal :=
  .next (if ok then t else s)

/-! ## Bytes and memory (R9) -/

/-- The number that little-endian bytes spell (R9). -/
def leNat (bs : List Byte) : Nat :=
  match bs with
  | [] => 0
  | b :: rest => b.toNat + 256 * leNat rest

/-- One byte of a memory; an unlisted address reads 0. -/
def memGet (m : NMap Byte) (a : Nat) : Byte := NMap.getD m a 0

/-- Store one byte, keeping the canonical form: a stored 0 lists nothing. -/
def memPut (m : NMap Byte) (a : Nat) (b : Byte) : NMap Byte :=
  if b = 0 then NMap.del m a else NMap.put m a b

/-- `n` bytes from address `a`. -/
def memRead (m : NMap Byte) (a n : Nat) : List Byte :=
  match n with
  | 0 => []
  | k + 1 => memGet m a :: memRead m (a + 1) k

/-- Store bytes from address `a`. -/
def memWrite (m : NMap Byte) (a : Nat) (bs : List Byte) : NMap Byte :=
  match bs with
  | [] => m
  | b :: rest => memWrite (memPut m a b) (a + 1) rest

/-- A little-endian word of `n` bytes. -/
def memWord (m : NMap Byte) (a n : Nat) : Nat := leNat (memRead m a n)

/-- The canonical form of a memory: keys strictly rising, no entry equal to what an unlisted address reads. -/
def memWf (m : NMap Byte) : Bool := NMap.sorted m && m.all (fun e => e.2 != 0)

/-! ## Counters (R139) -/

/-- A counter raised by `k`; counters hold 64 bits and stay at their greatest value (R139). -/
def bump (m : NMap Nat) (off k : Nat) : NMap Nat :=
  if k = 0 then m else NMap.put m off (min (2 ^ 64 - 1) (NMap.getD m off 0 + k))

/-! ## Free values and island clocks (R5, R25, R407) -/

/-- Draw a free value and advance the counter of free values. -/
def State.fresh (s : State) : Nat × State := (Config.freeNat s.freeCtr, { s with freeCtr := s.freeCtr + 1 })

/-- Look at an island's clock: some time has passed since the last look (R24, R25). -/
def State.look (s : State) (island : Nat) : Nat × State :=
  let t := s.islands.getD island 0 + Config.elapsed s.freeCtr
  (t, { s with islands := s.islands.set island t, freeCtr := s.freeCtr + 1 })

/-- The island of a port (R24, R407). -/
def portIsland : Port → Nat
  | .a => 96
  | .b => 97

/-- The other port. -/
def portOther : Port → Port
  | .a => .b
  | .b => .a

/-- The number of a port: 0 A, 1 B. -/
def portNum : Port → Nat
  | .a => 0
  | .b => 1

/-- The port of a number. -/
def portOf (n : Nat) : Port := if n % 2 = 0 then .a else .b

/-! ## Parts of the state -/

/-- A host port. -/
def State.port (s : State) (p : Port) : HostPort :=
  match p with
  | .a => s.portA
  | .b => s.portB

/-- Replace a host port. -/
def State.setPort (s : State) (p : Port) (h : HostPort) : State :=
  match p with
  | .a => { s with portA := h }
  | .b => { s with portB := h }

/-- A job slot. -/
def State.job (s : State) (k : Nat) : Job := s.jobs.getD k {}

/-- Replace a job slot. -/
def State.setJob (s : State) (k : Nat) (j : Job) : State := { s with jobs := s.jobs.set k j }

/-- Change the registers of a job slot. -/
def State.setInfo (s : State) (k : Nat) (i : JobInfo) : State := s.setJob k { s.job k with info := i }

/-- A job is loaded while it is neither EMPTY nor ENDED (R330). -/
def JobState.loaded : JobState → Bool
  | .empty => false
  | .ended => false
  | _ => true

/-- The slot of the loaded job of an identifier (R330, R335). -/
def State.slotOf (s : State) (id : Nat) : Option Nat :=
  let n := s.jobs.findIdx (fun j => j.info.state.loaded && j.info.id == id)
  if n < s.jobs.length then some n else none

/-- A counter of a host port's HOST_ block raised by one (R410). -/
def State.hostCount (s : State) (p : Port) (off : Nat) : State :=
  let h := s.port p
  s.setPort p { h with ctr := bump h.ctr off 1 }

/-- A change of HOST_STATUS: vector 128 is due (R420). -/
def State.statusChange (s : State) (p : Port) : State :=
  let h := s.port p
  s.setPort p { h with statusDue := true }

/-- A port is absent (R425): its link is down or it is in reset, but for a port served only through emulated registers;
or its lease has lapsed. -/
def HostPort.absentNow (h : HostPort) : Bool :=
  (h.hosted && (!h.linkUp || h.inReset)) || (fld h.lease 0 16 != 0 && h.leaseLapsed)

/-! ## Ring sets (R411 to R416) -/

/-- Entries of the submission (0), completion (8) or event (16) ring (R411). -/
def RingSet.entries (r : RingSet) (lo : Nat) : Nat := 2 ^ fld r.sizes lo 5

/-- SEALED (R411). -/
def RingSet.sealed (r : RingSet) : Bool := bit r.control 3

/-- Bytes of a completion or event entry (R412). -/
def RingSet.recBytes (r : RingSet) : Nat := if r.sealed then 128 else 32

/-- Bytes of a submission entry (R412). -/
def RingSet.sqBytes (r : RingSet) : Nat := if r.sealed then 128 else 64

/-- A ring is full when tail minus head equals its entries (R413). -/
def RingSet.cqFull (r : RingSet) : Bool := (r.cqTail - r.cqHead).toNat == r.entries 8

/-- The event ring is full (R413). -/
def RingSet.eqFull (r : RingSet) : Bool := (r.eqTail - r.eqHead).toNat == r.entries 16

/-- A ring set of a port. -/
def HostPort.ringSet (h : HostPort) (set : Nat) : RingSet := NMap.getD h.sets set {}

/-- Replace a ring set of a port. -/
def HostPort.setRing (h : HostPort) (set : Nat) (r : RingSet) : HostPort := { h with sets := NMap.put h.sets set r }

/-- A ring set of a port of the state. -/
def State.ring (s : State) (p : Port) (set : Nat) : RingSet := (s.port p).ringSet set

/-- Replace a ring set. -/
def State.setRing (s : State) (p : Port) (set : Nat) (r : RingSet) : State :=
  s.setPort p ((s.port p).setRing set r)

/-- A sealed record (R427): header, tag and padded ciphertext under a key, at a bus address. Kinds: 2 completion,
3 event, 4 data. -/
def sealedRecord (key no kind job addr : Nat) (plain : List Byte) : List Byte :=
  let head : List Byte := [0x53, 0x52, 0x45, 0x43] ++ leBytes 2 1 ++ leBytes 2 kind ++ leBytes 8 no ++
    leBytes 4 plain.length ++ leBytes 2 job ++ leBytes 10 0
  let body := Config.gcmSeal key no (head ++ leBytes 8 addr) plain
  let cipher := memWrite [] 0 body
  head ++ memRead cipher (roundUp plain.length 64) 16 ++ leBytes 16 0 ++ memRead cipher 0 (roundUp plain.length 64)

/-- Write one ring entry where the rings of the set lie (R412). -/
def HostPort.store (h : HostPort) (deviceMem : Bool) (addr : Nat) (bs : List Byte) : HostPort :=
  if deviceMem then { h with ringMem := memWrite h.ringMem addr bs }
  else { h with hostMem := memWrite h.hostMem addr bs }

/-- The bytes of a completion record (R418). -/
def Completion.bytes (c : Completion) (phase stamp : Nat) : List Byte :=
  leBytes 2 c.tag ++ leBytes 2 c.status ++ leBytes 2 c.job ++ leBytes 2 (c.flags % 2 ^ 15 + 2 ^ 15 * phase) ++
  leBytes 8 (c.stream % 2 ^ 20 + 2 ^ 20 * c.count) ++ leBytes 8 stamp ++ leBytes 8 c.cookie.toNat

/-- The bytes of an event record (R419). -/
def Event.bytes (e : Event) (phase stamp : Nat) : List Byte :=
  leBytes 2 e.code ++ leBytes 2 (b2n e.merged + 2 ^ 15 * phase) ++ leBytes 4 e.job ++ leBytes 8 e.a.toNat ++
  leBytes 8 stamp ++ leBytes 8 e.b.toNat

/-- PHASE of a pass: 1 on the first pass after ENABLE, alternating (R418). -/
def phaseOf (pass : Nat) : Nat := 1 - pass % 2

/-- Write one record at the completion ring's tail (R414 step 5, R418). -/
def HostPort.putCompletion (h : HostPort) (set stamp : Nat) (c : Completion) : HostPort :=
  let r := h.ringSet set
  let slot := r.cqTail.toNat % r.entries 8
  let addr := r.cqBase.toNat + slot * r.recBytes
  let plain := c.bytes (phaseOf r.cqPass) stamp
  let bs := if r.sealed then sealedRecord h.session.keyD2h (h.txNo + 1) 2 c.job addr plain else plain
  let pass := if slot + 1 = r.entries 8 then r.cqPass + 1 else r.cqPass
  let h := { h with txNo := if r.sealed then h.txNo + 1 else h.txNo }
  (h.store (bit r.control 1) addr bs).setRing set
    { r with cqTail := r.cqTail + 1, cqPass := pass, cqSince := r.cqSince + 1 }

/-- Write one record at the event ring's tail (R416, R419). -/
def HostPort.putEvent (h : HostPort) (set stamp : Nat) (e : Event) : HostPort :=
  let r := h.ringSet set
  let slot := r.eqTail.toNat % r.entries 16
  let addr := r.eqBase.toNat + slot * r.recBytes
  let plain := e.bytes (phaseOf r.eqPass) stamp
  let bs := if r.sealed then sealedRecord h.session.keyD2h (h.txNo + 1) 3 e.job addr plain else plain
  let pass := if slot + 1 = r.entries 16 then r.eqPass + 1 else r.eqPass
  let h := { h with txNo := if r.sealed then h.txNo + 1 else h.txNo }
  (h.store (bit r.control 1) addr bs).setRing set
    { r with eqTail := r.eqTail + 1, eqPass := pass, eqSince := r.eqSince + 1 }

/-- Write held completions in order while the set runs and its ring has room; the rest stay held (R415). -/
def State.flushCompletions (s : State) (p : Port) (set : Nat) (held : List Completion) : State :=
  match held with
  | [] => s.setRing p set { s.ring p set with hold := [] }
  | c :: rest =>
    let r := s.ring p set
    if r.enabled && !r.cqFull then
      let (t, s) := s.look (portIsland p)
      (s.setPort p ((s.port p).putCompletion set t c)).flushCompletions p set rest
    else s.setRing p set { r with hold := c :: rest }

/-- Write held events in order while the set runs and its ring has room; the rest stay held (R416). -/
def State.flushEvents (s : State) (p : Port) (set : Nat) (held : List Event) : State :=
  match held with
  | [] => s.setRing p set { s.ring p set with holdEv := [] }
  | e :: rest =>
    let r := s.ring p set
    if r.enabled && !r.eqFull then
      let (t, s) := s.look (portIsland p)
      (s.setPort p ((s.port p).putEvent set t e)).flushEvents p set rest
    else s.setRing p set { r with holdEv := e :: rest }

/-- Deliver a completion record to a set: behind what the set holds, then as much as its ring takes (R415). -/
def State.deliver (s : State) (p : Port) (set : Nat) (c : Completion) : State :=
  s.flushCompletions p set ((s.ring p set).hold ++ [c])

/-- Room of a set's hold queue for completions (R415). -/
def holdRoom : Nat := 4608

/-- Deliver a NOTIFY copy: dropped and counted where it would have to be held and the hold queue is full (R415). -/
def State.deliverNotify (s : State) (p : Port) (set : Nat) (c : Completion) : State :=
  let r := s.ring p set
  if (!r.enabled || r.cqFull) && decide (holdRoom ≤ r.hold.length) then s.hostCount p 0x78
  else s.deliver p set c

/-- Replace the newest held event of the same code, marked MERGED; none where no held event has the code (R416). -/
def mergeEvent (held : List Event) (e : Event) : Option (List Event) :=
  let k := held.reverse.findIdx (fun x => x.code == e.code)
  if k < held.length then some (held.set (held.length - 1 - k) { e with merged := true }) else none

/-- Hold an event: JOB_STATE and HERD_CHANGE without limit; a health event beyond 1,024 held ones merges (R416). -/
def holdEvent (held : List Event) (e : Event) : List Event :=
  if e.code == 0x0E01 || e.code == 0x0E10 || decide (held.length < 1024) then held ++ [e]
  else (mergeEvent held e).getD (held ++ [e])

/-- Deliver an event record to a set (R416). -/
def State.deliverEvent (s : State) (p : Port) (set : Nat) (e : Event) : State :=
  let r := s.ring p set
  if r.enabled && !r.eqFull then s.flushEvents p set (r.holdEv ++ [e])
  else s.setRing p set { r with holdEv := holdEvent r.holdEv e }

/-- Deliver an event to the listed sets of a port. -/
def State.eventTo (s : State) (p : Port) (e : Event) (sets : List Nat) : State :=
  match sets with
  | [] => s
  | n :: rest =>
    let r := s.ring p n
    if r.enabled && bit r.control 2 then (s.deliverEvent p n e).eventTo p e rest else s.eventTo p e rest

/-- A device event goes to every enabled set of either port that has DEVICE_EVENTS set (R416). -/
def State.deviceEvent (s : State) (e : Event) : State :=
  let s := s.eventTo .a e (s.portA.sets.map (·.1))
  s.eventTo .b e (s.portB.sets.map (·.1))

/-- A job event goes to the job's home set (R416, R425). -/
def State.jobEvent (s : State) (k : Nat) (e : Event) : State :=
  let i := (s.job k).info
  s.deliverEvent i.owner i.homeSet { e with job := i.id }

/-- Payload A of JOB_STATE (R419). -/
def jobStateA (old new cause status tag : Nat) (adopted lost : Bool) : W64 :=
  BitVec.ofNat 64 (old + new * 2 ^ 4 + cause * 2 ^ 8 + status * 2 ^ 16 + tag * 2 ^ 32 + b2n adopted * 2 ^ 48 +
    b2n lost * 2 ^ 49)

/-! ## Completion of host commands -/

/-- A host command taken from a set is no longer outstanding (R336, R414). -/
def State.notOutstanding (s : State) (c : Cmd) : State :=
  let r := s.ring c.port c.set
  s.setRing c.port c.set { r with out := r.out - 1 }

/-- Write the completion of a host command whose job has the registers `i`: to its own set, or, where the job was
adopted after the command was taken, to the new home set with ADOPTED (R414, R418, R426). -/
def State.completeUnder (s : State) (i : JobInfo) (c : Cmd) (status flags stream count : Nat) : State :=
  let rec0 : Completion := { tag := c.desc.tag, status, job := i.id, flags, stream, count, cookie := c.desc.cookie }
  let s := s.notOutstanding c
  if c.seq < i.adoptMark then s.deliver i.owner i.homeSet { rec0 with flags := flags ||| 8 }
  else s.deliver c.port c.set rec0

/-- Complete a host command of the job in slot `k`, which then has one command fewer outstanding (R336). -/
def State.complete (s : State) (k : Nat) (c : Cmd) (status flags stream count : Nat) : State :=
  let i := (s.job k).info
  let s := s.setInfo k { i with outstanding := i.outstanding.filter (fun d => d.seq != c.seq) }
  s.completeUnder i c status flags stream count

/-- The slot of the job among whose outstanding commands a host command is (R336). -/
def State.holder (s : State) (c : Cmd) : Option Nat :=
  let n := s.jobs.findIdx (fun j => j.info.outstanding.any (fun d => d.seq == c.seq))
  if n < s.jobs.length then some n else none

/-- Complete a host command that acts on no job: one outstanding on a job leaves it; of any other the record carries the job that
its descriptor names (R335, R336). -/
def State.completeFree (s : State) (c : Cmd) (status flags count : Nat) : State :=
  match s.holder c with
  | some k => s.complete k c status flags 0 count
  | none => s.completeUnder { id := c.desc.job } c status flags 0 count

end Sys2Proof.Machine
end

