-- ==== Sys2Proof/Machine/Philox.lean ====
section
/-! DEFINITION. Philox4x32-10, the counter-based generator of random draws (R128). The manual names it; its multipliers
and key increments are those of the published generator (PRESUMED, log entry 16). -/

namespace Sys2Proof.Machine

/-- A block or an output of the generator: four 32-bit words. -/
abbrev Quad := Nat × Nat × Nat × Nat

/-- One round under a round key. -/
def philoxRound (k0 k1 : Nat) (c : Quad) : Quad :=
  let p0 := 0xD2511F53 * c.1
  let p1 := 0xCD9E8D57 * c.2.2.1
  ((p1 / 2 ^ 32) ^^^ c.2.1 ^^^ k0, p1 % 2 ^ 32, (p0 / 2 ^ 32) ^^^ c.2.2.2 ^^^ k1, p0 % 2 ^ 32)

/-- `n` rounds, the key rising by its increments between rounds. -/
def philoxRounds (n k0 k1 : Nat) (c : Quad) : Quad :=
  match n with
  | 0 => c
  | m + 1 => philoxRounds m ((k0 + 0x9E3779B9) % 2 ^ 32) ((k1 + 0xBB67AE85) % 2 ^ 32) (philoxRound k0 k1 c)

/-- Philox4x32-10 of a 64-bit key and a block (R128). -/
def philox (key : Nat) (c : Quad) : Quad := philoxRounds 10 (key % 2 ^ 32) (key / 2 ^ 32 % 2 ^ 32) c

/-- Words 0 and 1 of the output, as a 64-bit key (R128). -/
def philoxKey (key : Nat) (c : Quad) : Nat := (philox key c).1 + 2 ^ 32 * (philox key c).2.1

end Sys2Proof.Machine
end

