-- ==== Sys2Proof/Machine/Batches.lean ====
section
/-! DEFINITION. The stream table, the stream pool, and the batcher: what the stream commands and the batch rows share
(chapters 4 and 6). -/

namespace Sys2Proof.Machine

/-! ## Streams and the pool -/

/-- A stream-table entry of a job's slice (R103, R105); an unlisted one is FREE with generation 0. -/
def JobRun.stream (r : JobRun) (n : Nat) : Stream := NMap.getD r.streams n {}

/-- Replace an entry. -/
def JobRun.setStream (r : JobRun) (n : Nat) (e : Stream) : JobRun := { r with streams := NMap.put r.streams n e }

/-- A counter of the running job's device-wide window (R139, R198). -/
def JobRun.count (r : JobRun) (off k : Nat) : JobRun := { r with ctrDev := bump r.ctrDev off k }

/-- State bytes of a stream: the whole block with its compensation area (R152, R120). -/
def Stream.stateBytes (e : Stream) : Nat := if e.comp then e.stateSize * 384 else e.stateSize * 256

/-- 64 KiB pages that a state block takes (R120). -/
def Stream.blockPages (e : Stream) : Nat := cdiv e.stateBytes 65536

/-- A kind that carries key-value pages (R106). -/
def Stream.hasPages (e : Stream) : Bool := e.kind == 2 || e.kind == 3

/-- A kind that carries a state block (R106). -/
def Stream.hasState (e : Stream) : Bool := e.kind == 1 || e.kind == 3

/-- The key of page `k` of group `g` in a stream's page table (R175). -/
def pageKey (g k : Nat) : Nat := g * 2 ^ 42 + k

/-- First address of the stream pool in the model's job memory (log entry 17). -/
def poolBase : Nat := 2 ^ 56

/-- Address of the `n`-th pool page taken since firing (log entry 17). -/
def poolAddr (n : Nat) : Nat := poolBase + n * 65536

/-- Pages of the stream pool: the reservation less the tensors with peat addresses (R119). -/
def Image.poolPages (i : Image) : Nat :=
  i.peatUnits * 32 - (i.tensors.map (fun t => if t.addr = 0 then 0 else t.pages)).sum

/-- Rows of the queue that are in a batch. -/
def JobRun.inFlight (r : JobRun) : List Row := r.queue.flatMap (fun q => q.rows.filter (fun w => w.phase == 2))

/-- Mark `n` consecutive 64 KiB pages. -/
def markPages (m : NMap Unit) (a n : Nat) : NMap Unit :=
  match n with
  | 0 => m
  | k + 1 => markPages (NMap.put m a ()) (a + 65536) k

/-- The key-value pages in use, each once however many streams share it (R122, R198). -/
def JobRun.heldPages (r : JobRun) : NMap Unit :=
  let m := r.streams.foldl (fun m e => e.2.pages.foldl (fun m p => NMap.put m p.2 ()) m) []
  r.inFlight.foldl (fun m w => w.fresh.foldl (fun m p => NMap.put m p.2.1 ()) m) m

/-- The stream's state block lies in peat: a move into peat has only promised pages (R120, R130). -/
def Stream.blockIn (e : Stream) : Bool :=
  decide (poolBase ≤ e.statePtr) && (e.loc == .resident || (e.loc == .moving && e.cameFrom == .resident))

/-- The pool pages in use: key-value pages and state blocks (R119, R122). -/
def JobRun.held (r : JobRun) : NMap Unit :=
  let m := r.streams.foldl (fun m e => if e.2.blockIn then markPages m e.2.statePtr e.2.blockPages else m) r.heldPages
  r.inFlight.foldl (fun m w =>
    match w.block with
    | some a => markPages m a w.st.blockPages
    | none => m) m

/-- Pages promised and not yet taken: the streams' promises, what joins in flight and riders hold, less what rows in
flight have drawn (R119, R138). -/
def JobRun.promised (r : JobRun) : Nat :=
  (r.streams.map (fun e => e.2.promise)).sum + (r.queue.map (fun q => q.reserve)).sum +
  (r.inFlight.map (fun w => if w.isOpen then w.st.promise else 0)).sum - (r.inFlight.map (fun w => w.spend)).sum

/-- The unpromised free pages (R119). -/
def JobRun.free (r : JobRun) (i : Image) : Nat :=
  i.poolPages + (r.inFlight.map (fun w => w.reused)).sum - (r.held.length + r.promised)

/-- Streams whose state block is at `a` (R123). -/
def JobRun.blockSharers (r : JobRun) (a : Nat) : Nat :=
  (r.streams.filter (fun e => e.2.kind != 0 && e.2.statePtr == a)).length

/-- FORKED: the state block is shared with another stream (R105, R123). -/
def JobRun.forked (r : JobRun) (e : Stream) : Bool :=
  e.hasState && e.statePtr != 0 && decide (1 < r.blockSharers e.statePtr)

/-- Streams that hold the page at `a` (R174, R176). -/
def JobRun.holders (r : JobRun) (a : Nat) : Nat :=
  (r.streams.filter (fun e => e.2.pages.any (fun p => p.2 == a))).length

/-- Streams whose page table has this root (R122, R176). -/
def JobRun.rootSharers (r : JobRun) (root : Nat) : Nat :=
  (r.streams.filter (fun e => e.2.kind != 0 && e.2.root == root)).length

/-- The parts of the job's memory as first address and end: its tensors with peat addresses and its pool pages (R53, R119).
Log entry 17. -/
def Job.parts (j : Job) : List (Nat × Nat) :=
  (j.image.tensors.filter (fun t => t.addr != 0)).map (fun t => (t.addr, t.addr + t.pages * 65536)) ++
    [(poolBase, poolAddr j.run.vaNext)]

/-- `len` bytes from `a` lie in parts that follow one another. -/
def spanned (ps : List (Nat × Nat)) (fuel a len : Nat) : Bool :=
  match fuel, ps.find? (fun p => decide (p.1 ≤ a) && decide (a < p.2)) with
  | k + 1, some p => decide (a + len ≤ p.2) || spanned ps k p.2 (a + len - p.2)
  | _, _ => false

/-- Whether `len` bytes from `a` lie in the job's memory. -/
def Job.mapped (j : Job) (a len : Nat) : Bool :=
  if len = 0 then j.parts.any (fun p => decide (p.1 ≤ a) && decide (a ≤ p.2)) else spanned j.parts j.parts.length a len

/-- An extent is checked only where it is not zero (R117). -/
def Job.extentOk (j : Job) (a len : Nat) : Bool := len == 0 || j.mapped a len

/-- STATE_PTR as it reads (R105). -/
def Stream.statePtrReg (e : Stream) : Nat :=
  match e.loc with
  | .resident | .moving => e.statePtr
  | .cold => e.awayAddr
  | .peer => e.herdAddr
  | .exported => 0

/-- KV_ROOT as it reads (R105). -/
def Stream.kvRootReg (e : Stream) : Nat :=
  match e.loc with
  | .resident | .moving => if e.hasPages && e.root != 0 then Config.rootAddr e.root else 0
  | .cold => e.awaySize
  | .peer => e.awayAddr
  | .exported => 0

/-- The fields of an entry as they read (R105): 128 B. -/
def JobRun.entryBytes (r : JobRun) (job n pending : Nat) : List Byte :=
  let e := r.stream n
  if e.kind = 0 then leBytes 4 n ++ leBytes 4 (e.gen * 2 ^ 16) ++ leBytes 120 0
  else
    let loc := match e.loc with
      | .resident => 0 | .cold => 1 | .moving => 2 | .exported => 3 | .peer => 4
    leBytes 4 (n + e.kind * 2 ^ 20 + loc * 2 ^ 22 + b2n e.resetNext * 2 ^ 25 + b2n (e.parked != 0) * 2 ^ 26 +
      b2n (r.forked e) * 2 ^ 27 + e.parked * 2 ^ 28) ++
    leBytes 4 (job + e.gen * 2 ^ 16) ++ leBytes 8 e.statePtrReg ++ leBytes 8 e.kvRootReg ++ leBytes 8 e.length ++
    leBytes 8 e.stepCount ++ leBytes 8 (e.parent + e.depth * 2 ^ 32 + e.parentGen * 2 ^ 48) ++
    leBytes 8 (pending + e.committed * 2 ^ 16) ++
    leBytes 8 (e.stateFmt + b2n e.comp * 2 ^ 4 + b2n e.stoch * 2 ^ 5 + e.keyFmt * 2 ^ 8 + e.valFmt * 2 ^ 12 +
      e.groups * 2 ^ 16 + e.stateSize * 2 ^ 32) ++
    leBytes 8 e.rngKey ++ leBytes 8 e.rngCtr ++ leBytes 8 (e.segment + e.posBase * 2 ^ 16) ++
    leBytes 8 (e.winPages + e.promise * 2 ^ 32) ++ leBytes 32 0

/-- The entry after the stream is freed (R104, R107): only the generation is kept, one higher. -/
def Stream.freed (e : Stream) : Stream := { gen := (e.gen + 1) % 65536 }

/-! ## Templates (R112) -/

/-- A stream template's fields (R112). -/
structure Template where
  kind : Nat
  stFmt : Nat
  comp : Bool
  stoch : Bool
  keyFmt : Nat
  valFmt : Nat
  size : Nat
  groups : Nat
  segment : Nat
  tokens : Nat
  posBase : Nat
  seed : Nat
  deriving DecidableEq, Repr

/-- The fields of 32 B (R112). Reserved bits inside a field are not read (log entry 116). -/
def Template.ofBytes (bs : List Byte) : Template :=
  let m := memWrite [] 0 bs
  let w := fun a n => memWord m a n
  { kind := w 0 1, stFmt := nfld (w 1 1) 0 4, comp := nfld (w 1 1) 4 1 == 1, stoch := nfld (w 1 1) 5 1 == 1,
    keyFmt := nfld (w 2 1) 0 4, valFmt := nfld (w 2 1) 4 4, size := w 4 4, groups := w 8 2, segment := w 10 2,
    tokens := w 12 4, posBase := nfld (w 16 8) 0 48, seed := w 24 8 }

/-- Page formats (R112). -/
def pageFmt (f : Nat) : Bool := f == 1 || f == 2 || f == 6 || f == 7

/-- The values a template may have (R112), with its reserved byte 0. -/
def Template.ok (t : Template) (reserved : Byte) : Bool :=
  let state := t.kind == 1 || t.kind == 3
  let pages := t.kind == 2 || t.kind == 3
  (state || pages) && reserved == 0 &&
  (if state then (t.stFmt == 0xB || t.stFmt == 0x9) && (!t.comp || t.stFmt == 0xB) && (!t.stoch || t.stFmt == 0x9) &&
      decide (1 ≤ t.size)
    else (t.stFmt == 0 || t.stFmt == 0xB || t.stFmt == 0x9) && !t.comp && !t.stoch && t.size == 0) &&
  (if pages then pageFmt t.keyFmt && pageFmt t.valFmt && decide (1 ≤ t.groups) && decide (t.groups ≤ 4096)
    else t.groups == 0 && t.keyFmt == 0 && t.valFmt == 0)

/-- What the job's image asks of a template: its kind is allowed, its state holds every slice the job can name, and its
pages are as the attention commands read them (R106, R154, R178). -/
def Image.admits (i : Image) (t : Template) : Bool :=
  nfld i.options (t.kind - 1) 1 == 1 &&
  (if t.kind == 1 || t.kind == 3 then decide (i.stateExtent ≤ t.size) else true) &&
  (if t.kind == 2 || t.kind == 3 then
    (match i.attnKey with | some f => f == t.keyFmt | none => true) &&
    (match i.attnVal with | some f => f == t.valFmt | none => true) &&
    (match i.attnGroups with | some g => g == t.groups | none => true)
   else true)

/-- The template at an address; none where it is refused with STATE_FORMAT (R112). -/
def Job.template (j : Job) (a : Nat) : Option Template :=
  let bs := memRead j.run.mem a 32
  let t := Template.ofBytes bs
  if t.ok (memGet j.run.mem (a + 3)) && j.image.admits t then some t else none

/-- A join's need in pages (R120). -/
def needPages (stateBytes groups tail tokens : Nat) : Nat := cdiv stateBytes 65536 + groups * cdiv (tail + tokens) 64

/-- A stream opened from a template (R105, R112, R128), its need promised to it. -/
def Template.open (t : Template) (n gen : Nat) : Stream :=
  let e : Stream :=
    { kind := t.kind, gen, stateSize := t.size, groups := t.groups, keyFmt := t.keyFmt, valFmt := t.valFmt,
      stateFmt := if t.kind == 2 then 0 else t.stFmt, comp := t.comp, stoch := t.stoch, posBase := t.posBase,
      segment := t.segment, rngKey := philoxKey t.seed (n, gen, 0, 0x4F50454E) }
  { e with promise := needPages e.stateBytes e.groups 0 t.tokens }

/-! ## The order of a stream's commands (R35) -/

/-- Streams that a command of the queue still names. -/
def QCmd.names (q : QCmd) : List Nat :=
  (q.rows.filter (fun w => w.phase != 3)).map (·.stream) ++ q.refs.map (·.1)

/-- Commands queued on a stream and not committed (R105 PENDING). -/
def JobRun.pendingOn (r : JobRun) (n : Nat) : Nat := (r.queue.filter (fun q => q.phase != 3 && q.names.contains n)).length

/-- `len` bytes from `a` lie in the entries of the job's own slice, which its vector engine and browse unit may read (R103). -/
def Job.inTable (j : Job) (a len : Nat) : Bool :=
  decide (Config.tableAddr + 128 * j.image.sliceFirst ≤ a) &&
    decide (a + len ≤ Config.tableAddr + 128 * (j.image.sliceFirst + j.image.sliceCount))

/-- What the job's vector engine and browse unit may read: job memory and the entries of its slice (R103). -/
def Job.readable (j : Job) (a len : Nat) : Bool := j.mapped a len || j.inTable a len

/-- `n` bytes as those units read them. -/
def Job.readMem (j : Job) (a n : Nat) : List Byte :=
  if j.inTable a n && !j.mapped a n then
    (List.range n).map (fun i =>
      let o := a + i - Config.tableAddr
      (j.run.entryBytes j.info.id (o / 128) (j.run.pendingOn (o / 128))).getD (o % 128) 0)
  else memRead j.run.mem a n

/-- No earlier command of the queue still names the stream (R35). -/
def JobRun.atHead (r : JobRun) (q : QCmd) (n : Nat) : Bool :=
  (r.queue.takeWhile (fun x => x.uid != q.uid)).all (fun x => !x.names.contains n)

/-- Streams that a command names, whether or not it has done with them. -/
def QCmd.streams (q : QCmd) : List Nat := q.rows.map (·.stream) ++ q.refs.map (·.1)

/-- No command that stands before number `uid` in the queue's order, finished or not, and not yet published names one of these
streams (R34, R35). -/
def JobRun.clearBefore (r : JobRun) (uid : Nat) (ns : List Nat) : Bool :=
  r.queue.all (fun q => decide (uid ≤ q.uid) || ns.all (fun n => !q.streams.contains n)) &&
  r.publish.all (fun p => decide (uid ≤ p.uid) || ns.all (fun n => !p.streams.contains n))

/-- The last sequence number given to the stream of an entry and a generation: for a generation still to come, by commands that
wait in the queue (R113). -/
def JobRun.lastSeq (r : JobRun) (n gen : Nat) : Nat :=
  let e := r.stream n
  r.queue.foldl (fun m q => q.rows.foldl (fun m w => if w.stream == n && w.gen == gen then max m w.seq else m) m)
    (if e.gen == gen then e.assigned else 0)

/-- A stream is freed: the stream that takes the entry next goes on from the numbers that its waiting advances have
(R104, R113). -/
def JobRun.freeStream (r : JobRun) (n : Nat) : JobRun :=
  let e := (r.stream n).freed
  (r.setStream n { e with assigned := r.lastSeq n e.gen }).count 0x38 1

/-- Replace a command of the queue. -/
def JobRun.setQ (r : JobRun) (q : QCmd) : JobRun :=
  { r with queue := r.queue.map (fun x => if x.uid == q.uid then q else x) }

/-- A command of the queue by its number. -/
def JobRun.findQ (r : JobRun) (uid : Nat) : Option QCmd := r.queue.find? (fun q => q.uid == uid)

/-- Replace one row of a command. -/
def QCmd.setRow (q : QCmd) (w : Row) : QCmd := { q with rows := q.rows.map (fun x => if x.ix == w.ix then w else x) }

/-- A finished row carries its result (R115, R117). -/
def Row.done (w : Row) (result : Nat) : Row := { w with phase := 3, result }

/-- The stream that a completion record names: 0 for STEP and batched PRUNE (R118). -/
def targetOf (d : Desc) : Nat :=
  if decide (0x11 ≤ d.opcode) && decide (d.opcode ≤ 0x17) && !(d.opcode == 0x13 && d.flags.testBit 0) then fld d.w8 0 20 else 0

/-- What a finished command publishes (R33, R118). It carries the highest status that it or its rows met (R80). -/
def QCmd.publication (q : QCmd) (writes : List (Space × Nat × List Byte)) : Publication :=
  { uid := q.uid, cmd := q.cmd, status := q.rows.foldl (fun m w => max m w.result) q.status, flags := q.flags,
    stream := targetOf q.cmd.desc, count := q.count, streams := q.streams, writes }

/-- The results that a STEP writes into its batch table (R115). -/
def QCmd.results (q : QCmd) : List (Space × Nat × List Byte) :=
  if q.cmd.desc.opcode == 0x10 then q.rows.map (fun w =>
    (Space.job, q.cmd.desc.w8.toNat + 16 * w.ix + 10, leBytes 2 w.result ++ leBytes 4 (min w.adaptive (2 ^ 32 - 1))))
  else []

/-- A command leaves the queue; what it publishes waits (R33). -/
def JobRun.leave (r : JobRun) (q : QCmd) (p : Publication) : JobRun :=
  { r with queue := r.queue.filter (fun x => x.uid != q.uid), publish := r.publish ++ [p] }

/-- A finished command leaves the queue; its outputs and completion wait to be published (R33). -/
def JobRun.finish (r : JobRun) (q : QCmd) (writes : List (Space × Nat × List Byte)) : JobRun :=
  r.leave q (q.publication (q.results ++ writes))

/-- Finish a command with a status and no outputs. -/
def JobRun.refuse (r : JobRun) (q : QCmd) (status : Nat) : JobRun := r.finish { q with status := max q.status status } []

/-- Count of a CHUNK: its sequence number, low 44 bits (R118). -/
def QCmd.chunkCount (q : QCmd) : Nat := ((q.rows.head?.map (·.seq)).getD 0) % 2 ^ 44

/-- A descriptor refused whole before it touches anything (R117, R118). -/
def JobRun.refuseWhole (r : JobRun) (q : QCmd) (status : Nat) : JobRun :=
  let count := if q.cmd.desc.opcode == 0x11 then q.chunkCount else q.count
  r.leave q ({ q with status := max q.status status, count }.publication [])

/-! ## Data pages behind the pool (R119, R279) -/

/-- The maximal runs of an ascending list of pages: first page and length. -/
def pageRuns (ps : List Nat) : List (Nat × Nat) :=
  ps.foldr (fun p rs =>
    match rs with
    | (q, n) :: rest => if p + 1 = q then (p, n + 1) :: rest else (p, 1) :: rs
    | [] => [(p, 1)]) []

/-- Take `n` pages of some runs: consecutive ones where a run has them, else of the fewest runs that serve, the longest first. -/
def takeRuns (rs : List (Nat × Nat)) (n : Nat) : List Nat :=
  match rs.find? (fun r => decide (n ≤ r.2)) with
  | some r => List.range' r.1 n
  | none => ((rs.insertionSort (fun a b => b.2 ≤ a.2)).flatMap (fun r => List.range' r.1 r.2)).take n

/-- The pool pages that back something: those in use, and those that a move into peat has taken (R120, R130). -/
def JobRun.backedPages (r : JobRun) : NMap Unit :=
  r.streams.foldl (fun m e =>
    if e.2.loc == .moving && e.2.moveBase != 0 then
      markPages m e.2.moveBase (if e.2.cameFrom == .cold then e.2.blockPages + e.2.swapPages.length else e.2.need)
    else m) r.held

/-- Give data pages of the pool to newly taken pages, set by set. Pages no longer in use have given theirs back; those of `given`
give theirs at once (R188). -/
def JobRun.back (r : JobRun) (j : Job) (given : List Nat) (sets : List (List Nat)) : JobRun :=
  let used := r.backedPages
  let kept := r.place.filter (fun e => (NMap.find used (e.1 * 65536)).isSome)
  let taken := (kept.filter (fun e => !given.contains (e.1 * 65536))).map (·.2)
  let free := (j.pool.flatMap (fun x => List.range' x.1 x.2)).filter (fun p => !taken.contains p)
  let give := fun (x : NMap Nat × List Nat) (vs : List Nat) =>
    let ps := takeRuns (pageRuns x.2) vs.length
    ((vs.zip ps).foldl (fun m e => NMap.put m (e.1 / 65536) e.2) x.1, x.2.filter (fun p => !ps.contains p))
  { r with place := (sets.foldl give (kept, free)).1 }

/-- Consecutive pages from an address on. -/
def pagesFrom (a n : Nat) : List Nat := (List.range n).map (fun i => a + i * 65536)

/-- The pages of an advance, cut into those of one page index in all groups (R279). -/
def byIndex (ps : List (Nat × Nat × Option Nat)) (groups : Nat) : List (List Nat) :=
  (List.range (cdiv ps.length groups)).map (fun i => ((ps.drop (i * groups)).take groups).map (fun p => p.2.1))

/-! ## Pages of an advance (R174, R187 to R189) -/

/-- The pages that an advance takes, index by index and in each index group by group: copies of page `k0` where `copy` asks for
them, then `n` fresh ones from `k1` on. -/
def takePages (e : Stream) (copy : Bool) (k0 k1 n va groups : Nat) : List (Nat × Nat × Option Nat) :=
  let base := if copy then va + groups else va
  (if copy then (List.range groups).map (fun g => (pageKey g k0, poolAddr (va + g), NMap.find e.pages (pageKey g k0))) else []) ++
    (List.range n).flatMap (fun i => (List.range groups).map (fun g => (pageKey g (k1 + i), poolAddr (base + i * groups + g), none)))

/-- Recycle a stream's oldest held page in every group once: the pages left, and how many of those dropped no other
stream holds (R188). -/
def recycleOnce (r : JobRun) (e : Stream) : Stream × Nat :=
  let old := e.pages.filter (fun p => p.1 % 2 ^ 42 == e.winPages)
  let mine := old.filter (fun p => r.holders p.2 == 1)
  ({ e with pages := e.pages.filter (fun p => p.1 % 2 ^ 42 != e.winPages), winPages := e.winPages + 1 }, mine.length)

/-- Recycle until `need` pages can be had beside `room`, and no group holds more than 65,536 pages when the last index is
`last`; none where the page of the stream's last token is reached (R188, R189). -/
def recycle (r : JobRun) (fuel : Nat) (e : Stream) (need room mine last : Nat) : Option (Stream × Nat) :=
  if need ≤ room + mine && decide (last < e.winPages + 65536) then some (e, mine)
  else
    match fuel with
    | 0 => none
    | k + 1 =>
      if e.length = 0 || decide ((e.length - 1) / 64 ≤ e.winPages) then none
      else
        let (e', m) := recycleOnce r e
        recycle r k e' need room (mine + m) last

/-- The page table of a stream that is about to be written: its root's number, and how many nodes are copied for it. A fresh
table gets a root; a shared root is copied, and of the path nodes as many as the encoding needs (R174, R176). -/
def JobRun.nodesFor (r : JobRun) (e : Stream) : Nat × Nat :=
  let new := r.nodeNext + 1
  if e.root = 0 then (new, 0)
  else
    let shared := decide (1 < r.rootSharers e.root)
    let path := if e.pages.any (fun p => decide (1 < r.holders p.2)) then Config.pathNodes new else 0
    (if shared then new else e.root, b2n shared + path)

/-- Place a row whose stream is `e` (as its advance starts): take the state block and the pages that the advance needs,
or quota-park (R108, R120, R174, R187 to R189). The state block is tested first. A row that opens a stream draws on its promise,
which its admission has taken from the free pages, and then on what is left of those. -/
def placeRow (j : Job) (r : JobRun) (w : Row) (e : Stream) : JobRun × Row :=
  let start : Stream := if w.isReset then { e with length := 0, winPages := 0, pages := [], root := 0 } else e
  let free := r.free j.image
  let wantsBlock := e.hasState && (e.statePtr == 0 || r.forked e)
  let blockNeed := if wantsBlock then e.blockPages else 0
  let park : JobRun × Row :=
    if w.isOpen then (r, w.done 0x0301)
    else ((r.setStream w.stream { r.stream w.stream with parked := 1 }).count 0x20 1, w.done 0x0301)
  let budget := if w.isOpen then free else e.promise + free
  if budget < blockNeed then park
  else
    let first := start.length / 64
    let last := (start.length + w.tokens - 1) / 64
    let partly := start.length % 64 != 0
    let copy := start.hasPages && partly && (match NMap.find start.pages (pageKey 0 first) with
      | some a => decide (1 < r.holders a)
      | none => false)
    let k1 := if partly then first + 1 else first
    let n := if start.hasPages then last + 1 - k1 else 0
    let need := if start.hasPages then start.groups * (n + b2n copy) else 0
    let room := budget - blockNeed
    let window := nfld j.image.options 8 1 == 1
    let limits := !start.hasPages || decide (last < 2 ^ 42)
    let got := if !start.hasPages then some (start, 0)
      else if need ≤ room && decide (last < start.winPages + 65536) then some (start, 0)
      else if window then recycle r 65537 start need room 0 last
      else none
    match limits, got with
    | true, some (s1, mine) =>
      let reused := min mine need
      let pages := takePages start copy first k1 n (r.vaNext + blockNeed) (if start.hasPages then start.groups else 0)
      let spend := min e.promise (need - reused + blockNeed)
      let mem := pages.foldl (fun m p => match p.2.2 with
        | some src => memWrite m p.2.1 (memRead m src 65536)
        | none => m) r.mem
      let mem := if !e.hasState then mem
        else if wantsBlock then
          (if e.statePtr = 0 || w.isReset then mem
           else memWrite mem (poolAddr r.vaNext) (memRead mem e.statePtr e.stateBytes))
        else if w.isReset then memWrite mem e.statePtr (leBytes e.stateBytes 0) else mem
      let copies := (pages.filter (fun p => p.2.2.isSome)).length
      let changed := !pages.isEmpty || s1.winPages != start.winPages
      let (root, nodes) := if changed then r.nodesFor start else (start.root, 0)
      let s2 := { s1 with pages := pages.foldl (fun m p => NMap.put m p.1 p.2.1) s1.pages, root }
      let cur := r.stream w.stream
      let r1 := if w.isOpen then r
        else r.setStream w.stream { cur with resetNext := w.isReset, parked := if cur.parked = 1 then 0 else cur.parked }
      let r2 := { r1 with vaNext := r.vaNext + blockNeed + pages.length, nodeNext := r.nodeNext + b2n changed, mem }
      let given := (start.pages.filter (fun p => !s1.pages.contains p && r.holders p.2 == 1)).map (·.2)
      let r2 := r2.back j given (pagesFrom (poolAddr r.vaNext) blockNeed :: byIndex pages start.groups)
      (((r2.count 0x118 copies).count 0x120 nodes).count 0x140 (start.groups * (s1.winPages - start.winPages)),
        { w with phase := 2, st := s2, block := if wantsBlock then some (poolAddr r.vaNext) else none,
                 fresh := pages, spend, reused, lastSeg := e.segment })
    | _, _ => park

/-! ## Moves (R108, R130, R136) -/

/-- Pages that a swap-in restores: the state block and the pages the image holds (R129, R130). -/
def Stream.swapNeed (e : Stream) : Nat := e.blockPages + e.swapPages.length

/-- Start the move of a COLD or PEER stream that a command needs: none where it cannot be admitted, which quota-parks
the stream (R108, R130). -/
def startMove (j : Job) (r : JobRun) (n : Nat) : JobRun × Bool :=
  let e := r.stream n
  let base := poolAddr r.vaNext
  let going : Stream := { e with loc := .moving, moveBase := base, statePtr := if e.hasState then base else 0 }
  if e.loc == .cold then
    if e.swapNeed ≤ r.free j.image then
      (({ r with vaNext := r.vaNext + e.swapNeed }.setStream n
        { going with cameFrom := .cold, parked := 2, promise := e.swapNeed }).back j [] [pagesFrom base e.swapNeed]
        |>.count 0x28 1, true)
    else ((r.setStream n { e with parked := 1 }).count 0x20 1, false)
  else
    (({ r with vaNext := r.vaNext + e.need, nodeNext := r.nodeNext + 1 }.setStream n
      { going with cameFrom := .peer, parked := 3, peerBuf := [], root := if e.hasPages then r.nodeNext + 1 else 0 }).back j [] [pagesFrom base e.need]
      |>.count 0x28 1, true)

/-! ## Rows at the head of their streams -/

/-- A FORK or an import that rides with a batch has taken the entry (R122). -/
def JobRun.taken (r : JobRun) (n : Nat) : Bool := r.queue.any (fun q => q.kids.contains n)

/-- Settle a waiting row at the head of its stream's order: it is placed, held for a move, or finished with the result of
the condition it meets (R108, R112, R115, R117, R120). `tmpl` is the template's address. -/
def settleRow (j : Job) (r : JobRun) (tmpl : Nat) (w : Row) : JobRun × Row :=
  let e := r.stream w.stream
  if w.isOpen then
    if e.kind ≠ 0 || e.gen ≠ w.gen || r.taken w.stream then (r, w.done 0x0305)
    else
      match { j with run := r }.template tmpl with
      | none => (r, w.done 0x0303)
      | some t =>
        let s := t.open w.stream w.gen
        if r.free j.image < s.promise then (r.count 0x18 1, w.done 0x0302)
        else placeRow j r w { s with assigned := e.assigned }
  else if e.kind = 0 || e.gen ≠ w.gen || e.loc == .exported then (r, w.done 0x0305)
  else if e.parked = 1 && !w.unpark then (r, w.done 0x0301)
  else
    match e.loc with
    | .resident => placeRow j r w e
    | .moving => (r, { w with phase := 1 })
    | .exported => (r, w.done 0x0305)
    | _ =>
      let (r1, ok) := startMove j r w.stream
      if ok then (r1, { w with phase := 1 }) else (r1, w.done 0x0301)

/-! ## Forming a batch (R116) -/

/-- A batch being formed. -/
structure Forming where
  run : JobRun
  rows : List (Nat × Nat) := []
  unplaced : List (Nat × Row) := []
  riders : List Nat := []
  tokens : Nat := 0
  streams : List Nat := []

/-- Settle one row of a command if its stream's order and the batch's extent allow it. Of rows that are not placed, a STEP's row that
finishes here has a record with no query; a chunk, or a row held for a move, has none. DESIGN CHOICE (log entry 31). -/
def Forming.tryRow (f : Forming) (j : Job) (uid : Nat) (w : Row) : Forming :=
  match f.run.findQ uid with
  | none => f
  | some q =>
    if !f.run.atHead { q with rows := [] } w.stream || f.streams.contains w.stream then f
    else if j.image.extent < f.tokens + w.tokens then f
    else
      let (r, w') := settleRow j f.run q.cmd.desc.w40.toNat w
      let r := match r.findQ uid with
        | some q' => r.setQ (q'.setRow w')
        | none => r
      if w'.phase = 2 then
        { f with run := r, rows := f.rows ++ [(uid, w.ix)], tokens := f.tokens + w.tokens
                 streams := f.streams ++ [w.stream] }
      else if w'.phase = 3 && q.cmd.desc.opcode == 0x10 then
        { f with run := r, unplaced := f.unplaced ++ [(f.rows.length, { w' with tokens := 0, st := r.stream w.stream })] }
      else { f with run := r }

/-- Settle the listed rows in order. -/
def Forming.tryRows (f : Forming) (j : Job) (uid : Nat) (ws : List Row) : Forming :=
  match ws with
  | [] => f
  | w :: rest => (f.tryRow j uid w).tryRows j uid rest

/-- Step 1: rows held under R108 whose streams are RESIDENT again. -/
def Forming.carried (f : Forming) (j : Job) (qs : List QCmd) : Forming :=
  match qs with
  | [] => f
  | q :: rest =>
    let ws := q.rows.filter (fun w => w.phase == 1 && (f.run.stream w.stream).loc == .resident)
    (f.tryRows j q.uid ws).carried j rest

/-- Waiting STEPs, oldest first. -/
def JobRun.waitingSteps (r : JobRun) : List QCmd :=
  r.queue.filter (fun q => q.cmd.desc.opcode == 0x10 && q.phase == 1 && q.rows.any (fun w => w.phase == 0))

/-- Waiting CHUNKs, oldest first. -/
def JobRun.waitingChunks (r : JobRun) : List QCmd :=
  r.queue.filter (fun q => q.cmd.desc.opcode == 0x11 && q.phase == 1 && q.rows.any (fun w => w.phase == 0))

/-- A chunk is eligible while no earlier command on its stream is uncommitted (R116 step 4). -/
def JobRun.eligible (r : JobRun) (q : QCmd) : Bool :=
  q.rows.all (fun w => r.atHead { q with rows := [] } w.stream)

/-- Step 3: further STEPs while a whole STEP fits and names no stream already in the batch. -/
def Forming.further (f : Forming) (j : Job) (qs : List QCmd) : Forming :=
  match qs with
  | [] => f
  | q :: rest =>
    let fits := decide (f.tokens + q.rows.length ≤ j.image.extent) &&
      q.rows.all (fun w => w.phase == 0 && !f.streams.contains w.stream &&
        f.run.atHead { q with rows := [] } w.stream)
    if fits then (f.tryRows j q.uid q.rows).further j rest else f

/-- Step 4: waiting CHUNKs, oldest first, never split. -/
def Forming.addChunks (f : Forming) (j : Job) (qs : List QCmd) : Forming :=
  match qs with
  | [] => f
  | q :: rest => (f.tryRows j q.uid q.rows).addChunks j rest

/-- The bytes a SWAP_OUT carries: the state block, and each page that no other stream holds (R129). -/
def JobRun.swapParts (r : JobRun) (e : Stream) : List Byte × List (Nat × List Byte) :=
  let own := e.pages.filter (fun p => r.holders p.2 == 1)
  (if e.hasState && e.statePtr != 0 then memRead r.mem e.statePtr e.stateBytes else [],
   own.map (fun p => (p.1, memRead r.mem p.2 65536)))

/-- Size of a swap image (R129). -/
def swapSize (stateBytes own : Nat) : Nat := 4096 + cdiv (stateBytes + 65544 * own) 4096 * 4096

/-- Bytes that a host buffer of a plaintext size occupies (R428). -/
def hostSize (confidential : Bool) (plain : Nat) : Nat := if confidential then cdiv plain 4096 * 4160 else plain

/-- The image before any sealing: the P6's own bytes for its contents, of the size R129 gives (log entry 14). -/
def swapBytes (size : Nat) (state : List Byte) (pages : List (Nat × List Byte)) : List Byte :=
  memRead (memWrite [] 0 (Config.swapImage (state ++ pages.flatMap (·.2)))) 0 size

/-! ## Bermer state records (R131 to R135) -/

/-- Pages per group that a record holds (R132). -/
def Stream.recordPages (e : Stream) : Nat := cdiv (e.length - 64 * e.winPages) 64

/-- Where a record's page section starts (R132, R133). -/
def recordPageOffset (stateBytes : Nat) : Nat := roundUp (256 + stateBytes) 4096

/-- Size of a record (R133). -/
def Stream.recordSize (e : Stream) : Nat :=
  recordPageOffset (if e.hasState then e.stateBytes else 0) +
    (if e.hasPages then e.groups * e.recordPages * 65536 else 0)

/-- A little-endian field of bytes. -/
def headWord (bs : List Byte) (off n : Nat) : Nat := leNat ((bs.drop off).take n)

/-- Checks 1 and 4 to 7 of R134 on a header, for a template, an expected tag and whether the job is confidential
(R470). -/
def headerOk (bs : List Byte) (t : Template) (tag : Option (List Byte)) (confidential : Bool) : Bool :=
  let w := headWord bs
  let state := t.kind == 1 || t.kind == 3
  let sb := if state then (if t.comp then t.size * 384 else t.size * 256) else 0
  bs.take 4 == [0x42, 0x53, 0x52, 0x32] && w 4 2 == 2 &&
  decide (w 6 2 < 16) && (confidential || nfld (w 6 2) 0 1 == 0) &&
  w 72 8 == (if state then 256 else 0) && w 80 8 == recordPageOffset sb &&
  w 8 1 == t.kind && w 10 1 == t.keyFmt + 16 * t.valFmt && w 68 4 == t.size && w 12 4 == t.groups &&
  (!state || (w 9 1 == t.stFmt && nfld (w 6 2) 1 1 == b2n t.comp && nfld (w 6 2) 2 1 == b2n t.stoch)) &&
  (match tag with | some x => (bs.drop 96).take 32 == x | none => true)

/-- Checks 2 and 3 of R134: the record's size and digest. -/
def bodyOk (bs : List Byte) (room : Nat) : Bool :=
  let size := headWord bs 16 8
  let whole := bs.take size
  decide (256 ≤ size) && decide (size ≤ room) && whole.length == size &&
  (bs.drop 208).take 48 == leBytes 48 (Config.sha3 (whole.take 208 ++ leBytes 48 0 ++ whole.drop 256)).toNat

/-- The stream that a record holds, in the entry `e` (R134). What no record holds stays as the entry has it: 0 in a FREE entry, and
in an EXPORTED one the identity and metadata that it has kept (R131; log entry 103). -/
def streamOf (bs : List Byte) (t : Template) (e : Stream) : Stream :=
  let w := headWord bs
  { kind := t.kind, gen := e.gen, parent := e.parent, parentGen := e.parentGen, depth := e.depth, committed := e.committed,
    assigned := e.assigned, length := nfld (w 32 8) 0 48, stepCount := w 24 8, stateSize := t.size, groups := t.groups,
    keyFmt := t.keyFmt, valFmt := t.valFmt, stateFmt := if t.kind == 2 then 0 else t.stFmt, comp := t.comp,
    stoch := t.stoch, rngKey := w 48 8, rngCtr := w 56 8, segment := w 40 2, posBase := w 42 6, winPages := w 64 4 }

/-! ## Commands that do not advance (R116 step 6) -/

/-- FREE entries of the slice that nothing in flight has taken, lowest first (R122). -/
def Job.freeEntries (j : Job) (r : JobRun) : List Nat :=
  (List.range' j.image.sliceFirst j.image.sliceCount).filter (fun n =>
    (r.stream n).kind == 0 && r.queue.all (fun q => !q.kids.contains n &&
      q.rows.all (fun w => !(w.phase == 2 && w.isOpen && w.stream == n))))

/-- The status of a command that acts on one stream, where the stream's condition refuses it (R108, R117); none where
it may go on. -/
def riderRefusal (e : Stream) (op gen : Nat) (unpark : Bool) : Option Nat :=
  if op == 0x15 then
    if e.gen ≠ gen || !(e.kind == 0 || e.loc == .exported) then some 0x0305
    else if e.parked = 1 && !unpark then some 0x0301
    else none
  else if e.kind = 0 || e.gen ≠ gen then some 0x0305
  else if (op == 0x12 || op == 0x14) && e.loc == .exported then some 0x0305
  else if e.parked = 1 && !(op == 0x13 || op == 0x14 || op == 0x16 || unpark) then some 0x0301
  else none

/-- Check a FORK at the head of its parent's order (R122, R124): it takes its children's entries and its promise, or
finishes. A parent whose park UNPARK has cleared is `parked` again where the pages cannot be had (R108). -/
def settleFork (j : Job) (r : JobRun) (q : QCmd) (p parked : Nat) : JobRun :=
  let e := r.stream p
  let n := fld q.cmd.desc.w24 0 7
  let kids := (j.freeEntries r).take n
  if 64 < n || e.depth = 255 || kids.length < n then r.refuse q 0x0304
  else
    let child := needPages e.stateBytes e.groups (e.length % 64) (fld q.cmd.desc.w24 32 32)
    let need := n * child + (if e.hasState then e.blockPages else 0)
    if r.free j.image < need then ((r.setStream p { e with parked }).count 0x18 1).refuse q 0x0302
    else r.setQ { q with phase := 2, kids, reserve := need }

/-- Pages that a stream's own record takes in peat. -/
def Stream.ownPages (e : Stream) : Nat :=
  (if e.hasState then e.blockPages else 0) + (if e.hasPages then e.groups * e.recordPages else 0)

/-- Check an IMPORT_STATE and admit it as a join, at the head of its target's order: the record in job or host memory, or the
peer's header, in the order of R134 (R120, R136). It takes its entry and its promise, or finishes. -/
def settleImport (j : Job) (r : JobRun) (q : QCmd) (n : Nat) : JobRun :=
  let d := q.cmd.desc
  let peer := decide (2 ≤ fld d.w24 48 2)
  let room := fld d.w24 0 32 * 4096
  let tag := if d.w32 = 0 then none else some (memRead r.mem d.w32.toNat 32)
  match { j with run := r }.template d.w40.toNat with
  | none => r.refuse q 0x0303
  | some t =>
    if !(headerOk q.data t tag j.info.confidential && (peer || bodyOk q.data room)) then r.refuse q 0x0303
    else
      let s := streamOf q.data t (r.stream n)
      let need := needPages (if s.hasState then s.stateBytes else 0) s.groups (s.length % 64) t.tokens +
        (if s.hasPages then s.groups * s.recordPages else 0)
      if r.free j.image < need then (r.count 0x18 1).refuse q 0x0302
      else
        let made := if peer then { s with loc := .peer, herdAddr := fld d.w24 32 16, awayAddr := d.w16.toNat, room
                                          awaySize := headWord q.data 16 8, need := s.ownPages, promise := need }
          else { s with promise := need - s.ownPages }
        r.setQ { q with phase := 2, kids := [n], reserve := need, made }

/-- Begin a SWAP_OUT of a stream in peat (R107, R129): LOCATION becomes MOVING and the image is taken; a buffer too small or off
its grid moves nothing. -/
def settleSwapOut (r : JobRun) (q : QCmd) (n : Nat) : JobRun :=
  let e := r.stream n
  let (state, pages) := r.swapParts e
  let size := swapSize e.stateBytes pages.length
  let addr := q.cmd.desc.w16.toNat
  if q.cmd.desc.w24.toNat < size || addr % 4096 ≠ 0 then r.refuse q 0x0203
  else
    (r.setStream n { e with loc := .moving, cameFrom := .resident, awayAddr := addr, awaySize := size, swapPort := q.cmd.port
                            swapState := state, swapPages := pages }).setQ { q with phase := 2 }

/-- UNPARK, where the opcode allows it (R110). -/
def unparks (d : Desc) : Bool := (d.opcode == 0x12 || d.opcode == 0x17) && d.flags.testBit 1

/-- Settle a command that does not advance, at the head of its streams' order: it rides, waits for a move, or
finishes (R107, R108, R117, R124, R129 to R131, R134). -/
def settleRider (j : Job) (r : JobRun) (q : QCmd) : JobRun :=
  let op := q.cmd.desc.opcode
  let unpark := unparks q.cmd.desc
  match q.refs with
  | [] => r.refuse q 0x0001
  | (n, gen) :: _ =>
    if op == 0x13 then r.setQ { q with phase := 2 }
    else
      let e := r.stream n
      match riderRefusal e op gen unpark with
      | some st => r.refuse q st
      | none =>
        let was := e.parked
        let r := if e.parked = 1 && unpark then r.setStream n { e with parked := 0 } else r
        let e := r.stream n
        if op == 0x15 then
          if r.taken n then r.refuse q 0x0305 else if q.data = [] then r else settleImport j r q n
        else if op == 0x16 then
          if e.loc == .resident then settleSwapOut r q n else r.finish { q with count := 0 } []
        else if op == 0x17 then
          if e.loc == .cold then
            let (r1, ok) := startMove j r n
            if ok then r1.setQ { q with phase := 2 } else r1.refuse q 0x0301
          else if e.loc == .moving then r
          else r.finish { q with count := 0 } []
        else if e.loc == .cold || e.loc == .peer then
          let (r1, ok) := startMove j r n
          if ok then r1 else r1.refuse q 0x0301
        else if e.loc == .moving then r
        else if op == 0x12 then settleFork j r q n was
        else r.setQ { q with phase := 2 }

/-- Step 6: settle every dispatched command that does not advance and has reached the head of its streams' order. -/
def Forming.ride (f : Forming) (j : Job) (qs : List QCmd) : Forming :=
  match qs with
  | [] => f
  | q :: rest =>
    let op := q.cmd.desc.opcode
    if q.phase == 1 && decide (0x12 ≤ op) && decide (op ≤ 0x17) &&
        q.refs.all (fun t => f.run.atHead { q with refs := [] } t.1 && !f.streams.contains t.1) then
      let r := settleRider j f.run q
      let rides := match r.findQ q.uid with
        | some q' => q'.phase == 2 && op != 0x17
        | none => false
      ({ f with run := r, riders := if rides then f.riders ++ [q.uid] else f.riders }).ride j rest
    else f.ride j rest

/-- Commands that have rows in the batch, in queue order. -/
def Forming.contributors (f : Forming) : List QCmd :=
  f.run.queue.filter (fun q => f.rows.any (fun x => x.1 == q.uid))

/-- The precision word of the oldest of some descriptors that carries OVERRIDE (R81): where descriptors of one batch differ, the
spec does not say which governs (log entry 104). -/
def overrideOf (cs : List Cmd) : Option W64 := (cs.map (fun (c : Cmd) => c.desc.w48)).find? (fun w => bit w 33)

/-- What a batch takes from its contributing descriptors, oldest first: the bases of the oldest and the override (R81, R111,
R202). Whose bases NEXT gives where several contribute is a DESIGN CHOICE (log entry 104). -/
def Batch.fromDescs (b : Batch) (cs : List Cmd) : Batch :=
  match cs with
  | [] => b
  | c :: _ => { b with oldest := some c, inBase := if c.desc.opcode == 0x10 then c.desc.w24 else c.desc.w16
                       outBase := c.desc.w32, forced := overrideOf cs }

/-- Finish a command of the batch once all its rows have finished (R118). -/
def JobRun.settleCommand (r : JobRun) (uid : Nat) : JobRun :=
  match r.findQ uid with
  | none => r
  | some q =>
    if q.rows.all (fun w => w.phase == 3) then
      let n := (q.rows.filter (fun w => w.result == 0)).length
      let count := if q.cmd.desc.opcode == 0x11 then q.chunkCount else n
      r.finish { q with count } []
    else r

/-- Finish every listed command all of whose rows have finished without being placed. -/
def JobRun.finishDone (r : JobRun) (qs : List QCmd) : JobRun :=
  match qs with
  | [] => r
  | q :: rest => if q.rows.isEmpty then r.finishDone rest else (r.settleCommand q.uid).finishDone rest

/-! ## Publications of parameter groups (R225, R226, R232) -/

/-- Index of a word of the parameter-group tables, as the window numbers them (R227). -/
def pgtIndex (cl g w : Nat) : Nat := cl * 0x800 + g * 8 + w

/-- Bits of a mask. -/
def maskBits (n m : Nat) : List Nat := (List.range n).filter (fun i => m.testBit i)

/-- Apply one entry of a list (R226). -/
def applyEntry (pgt : NMap W32) (bs : List Byte) : NMap W32 :=
  let g := headWord bs 4 1
  (maskBits 32 (headWord bs 0 4)).foldl (fun m c =>
    (maskBits 8 (headWord bs 5 1)).foldl (fun m w =>
      NMap.put m (pgtIndex c g w) (BitVec.ofNat 32 (headWord bs (8 + 4 * w) 4))) m) pgt

/-- Apply the entries of a list in order. -/
def applyEntries (n : Nat) (pgt : NMap W32) (bs : List Byte) : NMap W32 :=
  match n with
  | 0 => pgt
  | k + 1 => applyEntries k (applyEntry pgt bs) (bs.drop 48)

/-- A publication that waits in the queue. -/
def QCmd.publishes (q : QCmd) : Bool := q.go || q.cmd.desc.opcode == 0x18

/-- An earlier command has been given to a batch, so that a publication behind it may apply. -/
def QCmd.batched (q : QCmd) : Bool :=
  let op := q.cmd.desc.opcode
  if decide (0x10 ≤ op) && decide (op ≤ 0x17) then
    q.phase != 0 && q.rows.all (fun w => decide (2 ≤ w.phase)) && (!q.rows.isEmpty || decide (2 ≤ q.phase))
  else true

/-- The commands before the first publication that waits. -/
def JobRun.beforePublication (r : JobRun) : List QCmd := r.queue.takeWhile (fun q => !q.publishes)

/-- Apply the first publication if it is ready and every earlier command is in a batch: the values change for all clusters
at once (R225). -/
def JobRun.applyFirst (r : JobRun) : JobRun :=
  match r.queue.dropWhile (fun q => !q.publishes) with
  | [] => r
  | q :: _ =>
    if q.phase = 0 || !r.beforePublication.all QCmd.batched then r
    else if q.go then
      ({ r with pgt := q.staged, queue := r.queue.filter (fun x => x.uid != q.uid) }).count 0x700 1
    else
      let n := fld q.cmd.desc.w16 0 32
      (({ r with pgt := applyEntries n r.pgt q.data }).count 0x700 1).finish { q with count := n } []

/-- Apply every publication that may apply now. -/
def JobRun.applyReady (r : JobRun) (fuel : Nat) : JobRun :=
  match fuel with
  | 0 => r
  | k + 1 => r.applyFirst.applyReady k

/-- Steps 2 and 3: the rows of the oldest waiting STEP, then further STEPs. -/
def Forming.steps (f : Forming) (j : Job) (qs : List QCmd) : Forming :=
  match qs with
  | [] => f
  | q :: rest => (f.tryRows j q.uid (q.rows.filter (fun w => w.phase == 0))).further j rest

/-- A row of the batch is a CHUNK. -/
def Forming.placedChunk (f : Forming) : Bool :=
  f.rows.any (fun x => ((f.run.findQ x.1).map (fun q => q.cmd.desc.opcode == 0x11)).getD false)

/-- Step 5 holds: seven batches in a row have placed no chunk while an eligible one waited. -/
def JobRun.guarded (r : JobRun) : Bool := decide (7 ≤ r.noChunk) && !(r.waitingChunks.filter r.eligible).isEmpty

/-- The next batch of the running job (R116), or the run as settled where there is nothing to place. Under step 5 the oldest
eligible chunk is placed before all else. -/
def formBatch (j : Job) (r : JobRun) : Forming × Option Batch :=
  let waiting := r.waitingChunks.filter r.eligible
  let f : Forming := { run := r }
  let f := if r.guarded then f.addChunks j (waiting.take 1) else f
  let f := f.carried j f.run.queue
  let f := f.steps j f.run.waitingSteps
  let f := f.addChunks j (f.run.waitingChunks.filter f.run.eligible)
  let f := f.ride j f.run.queue
  let placed := f.placedChunk
  let cs := f.contributors.map (·.cmd)
  let f := { f with run := f.run.finishDone f.run.queue }
  if f.rows.isEmpty && f.riders.isEmpty then (f, none)
  else
    let run := f.run
    let b : Batch := { id := run.batchNext, rows := f.rows, unplaced := f.unplaced, riders := f.riders, pgt := run.pgt }
    let b := b.fromDescs cs
    let noChunk := if placed || waiting.isEmpty then 0 else run.noChunk + 1
    let run := { run with batches := run.batches ++ [b], batchNext := run.batchNext + 1, noChunk }
    ({ f with run := if r.guarded then run.count 0x50 1 else run }, some b)

/-- The next batch, of commands that entered the queue on one side of every publication (R225). -/
def formNext (j : Job) (r : JobRun) : Forming × Option Batch :=
  let r := r.applyReady r.queue.length
  let before := r.beforePublication
  let (f, b) := formBatch j { r with queue := before }
  ({ f with run := { f.run with queue := f.run.queue ++ r.queue.drop before.length } }, b)

/-! ## Committing a batch (R113, R114, R121) -/

/-- A stream after its advance commits (R109, R113, R114, R173). -/
def Row.after (w : Row) : Stream :=
  let s := w.st
  { s with
    length := if s.hasPages then s.length + w.tokens else s.length
    stepCount := min (2 ^ 64 - 1) (s.stepCount + w.tokens)
    statePtr := w.block.getD s.statePtr
    committed := w.seq
    assigned := max s.assigned w.seq
    promise := s.promise - w.spend
    resetNext := false
    parked := 0
    segment := if s.hasPages then w.lastSeg else s.segment
    rngCtr := if w.drew then (s.rngCtr + 1) % 2 ^ 64 else s.rngCtr }

/-- Commit one row: its stream takes its new entry, or is freed by a CLOSE (R113 to R115). -/
def JobRun.commitRow (r : JobRun) (w : Row) : JobRun :=
  let now := r.stream w.stream
  let e := { w.after with assigned := max now.assigned w.seq }
  let r := r.setStream w.stream e
  if w.isClose then r.freeStream w.stream else r

/-- Commit the rows of a batch in order. -/
def JobRun.commitRows (r : JobRun) (ws : List (Nat × Nat)) : JobRun :=
  match ws with
  | [] => r
  | (uid, ix) :: rest =>
    match r.findQ uid with
    | none => r.commitRows rest
    | some q =>
      match q.rows.find? (fun w => w.ix == ix) with
      | none => r.commitRows rest
      | some w =>
        let r := r.commitRow w
        let r := r.setQ (q.setRow (w.done w.result))
        (r.settleCommand uid).commitRows rest

/-- Child `i` of a FORK (R122, R124, R128). -/
def forkChild (e kid : Stream) (parent i promise : Nat) (key : Option Nat) : Stream :=
  let derived := philoxKey e.rngKey (e.rngCtr % 2 ^ 32, e.rngCtr / 2 ^ 32, i, 0x464F524B)
  { kind := e.kind, gen := kid.gen, assigned := kid.assigned, statePtr := e.statePtr, root := e.root, length := e.length,
    stepCount := e.stepCount, parent, parentGen := e.gen, depth := e.depth + 1, stateSize := e.stateSize,
    groups := e.groups, keyFmt := e.keyFmt, valFmt := e.valFmt, stateFmt := e.stateFmt, comp := e.comp,
    stoch := e.stoch, rngKey := key.getD derived, posBase := e.posBase, segment := e.segment, promise,
    winPages := e.winPages, pages := e.pages }

/-- Make the children of a FORK in the entries it has taken. -/
def JobRun.forkKids (r : JobRun) (e : Stream) (parent promise keys i : Nat) (kids : List Nat) : JobRun :=
  match kids with
  | [] => r
  | k :: rest =>
    let key := if keys = 0 then none else some (memWord r.mem (keys + 8 * i) 8)
    (r.setStream k (forkChild e (r.stream k) parent i promise key)).forkKids e parent promise keys (i + 1) rest

/-- A FORK commits (R122 to R124, R128). -/
def JobRun.commitFork (r : JobRun) (q : QCmd) (p : Nat) : JobRun :=
  let e := r.stream p
  let n := q.kids.length
  let child := needPages e.stateBytes e.groups (e.length % 64) (fld q.cmd.desc.w24 32 32)
  let share := if e.hasState then e.blockPages else 0
  let refs := q.kids.flatMap (fun k => leBytes 8 (k + (r.stream k).gen * 2 ^ 32))
  let r := r.forkKids e p child q.cmd.desc.w32.toNat 0 q.kids
  let r := r.setStream p { e with promise := e.promise + share, rngCtr := (e.rngCtr + 1) % 2 ^ 64 }
  (r.count 0x30 n).finish { q with count := n } [(Space.job, q.cmd.desc.w16.toNat, refs)]

/-- A PRUNE commits: each named live stream is freed; a stale or FREE one gives STREAM_BUSY (R117, R125). -/
def JobRun.commitPrune (r : JobRun) (q : QCmd) (refs : List (Nat × Nat)) : JobRun :=
  match refs with
  | [] => r.finish q []
  | (n, gen) :: rest =>
    let e := r.stream n
    if e.kind = 0 || e.gen ≠ gen then r.commitPrune { q with status := max q.status 0x0305 } rest
    else (r.freeStream n).commitPrune { q with count := q.count + 1 } rest

/-- Where data goes in host memory at a port: sealed under a session key for a confidential job (R426, R427). -/
def Job.hostSpace (j : Job) (p : Port) (key : Nat) : Space := if j.info.confidential then .sealedAt p key else .host p

/-- A SWAP_OUT commits (R107, R129, R464): the image goes to the host's buffer, under the session of its dispatch, and the stream is
COLD. -/
def Job.commitSwapOut (j : Job) (r : JobRun) (q : QCmd) (n : Nat) : JobRun :=
  let e := r.stream n
  let own := e.swapPages.map (·.1)
  let e' := { e with loc := .cold, statePtr := 0, promise := 0, pages := e.pages.filter (fun p => !own.contains p.1)
                     swapEpoch := q.under.1, swapKey := q.under.2 }
  ((r.setStream n e').count 0x40 (hostSize j.info.confidential e.awaySize)).finish { q with count := e.awaySize / 4096 }
    [(j.hostSpace e.swapPort q.under.2, e.awayAddr, swapBytes e.awaySize e.swapState e.swapPages)]

/-- Pages of a record, by group and then by token (R133). -/
def JobRun.recordGroup (r : JobRun) (e : Stream) (g k n : Nat) : List Byte :=
  match n with
  | 0 => []
  | m + 1 =>
    (match NMap.find e.pages (pageKey g k) with
      | some a => memRead r.mem a 65536
      | none => leBytes 65536 0) ++ r.recordGroup e g (k + 1) m

/-- The record of a stream under a state tag (R132, R133, R470). A sealed one's digest covers the plaintext, as R470 has it (log
entry 119). -/
def JobRun.record (r : JobRun) (e : Stream) (tag : List Byte) (confidential : Bool) : List Byte :=
  let sb := if e.hasState then e.stateBytes else 0
  let flags := b2n confidential + b2n e.comp * 2 + b2n e.stoch * 4 + b2n (e.winPages != 0) * 8
  let head := [0x42, 0x53, 0x52, 0x32] ++ leBytes 2 2 ++ leBytes 2 flags ++ leBytes 1 e.kind ++ leBytes 1 e.stateFmt ++
    leBytes 1 (e.keyFmt + 16 * e.valFmt) ++ leBytes 1 2 ++ leBytes 4 e.groups ++ leBytes 8 e.recordSize ++
    leBytes 8 e.stepCount ++ leBytes 8 e.length ++ leBytes 8 (e.segment + e.posBase * 2 ^ 16) ++ leBytes 8 e.rngKey ++
    leBytes 8 e.rngCtr ++ leBytes 4 e.winPages ++ leBytes 4 e.stateSize ++ leBytes 8 (if sb = 0 then 0 else 256) ++
    leBytes 8 (recordPageOffset sb) ++ leBytes 4 (if e.hasPages then e.recordPages else 0) ++ leBytes 4 0 ++
    (tag ++ leBytes 32 0).take 32 ++ leBytes 80 0
  let body := (if sb = 0 then [] else memRead r.mem e.statePtr sb) ++
    leBytes (recordPageOffset sb - 256 - sb) 0 ++
    (if e.hasPages then (List.range e.groups).flatMap (fun g => r.recordGroup e g e.winPages e.recordPages) else [])
  let digest := Config.sha3 (head ++ leBytes 48 0 ++ body)
  head ++ leBytes 48 digest.toNat ++ body

/-- Whether a B2 could read the record (R135). -/
def Stream.b2Ok (e : Stream) : Bool :=
  (!e.hasPages || ((e.keyFmt == 1 || e.keyFmt == 2) && (e.valFmt == 1 || e.valFmt == 2) &&
    decide (e.length ≤ 1048576) && decide (e.groups ≤ 1024))) &&
  (!e.hasState || ((e.stateFmt == 0xB && !e.comp) || e.stateFmt == 0x9))

/-- Seal a buffer as consecutive data records numbered from `no` under a key (R427, R428). -/
def sealBuffer (key job addr no fuel : Nat) (bs : List Byte) : List Byte :=
  match fuel with
  | 0 => []
  | k + 1 =>
    if bs = [] then []
    else sealedRecord key no 4 job addr (bs.take 4096) ++ sealBuffer key job (addr + 4160) (no + 1) k (bs.drop 4096)

/-- An EXPORT_STATE commits (R107, R131 to R135, R426, R470): in host memory its destination is at the port whose ring it came from.
Its sealed records are numbered from 0. DEST 2 and 3 are taken as job memory (log entry 118). -/
def Job.commitExport (j : Job) (r : JobRun) (q : QCmd) (n : Nat) : JobRun :=
  let e := r.stream n
  let move := bit q.cmd.desc.w40 0
  let b2 := bit q.cmd.desc.w40 1
  let host := fld q.cmd.desc.w40 2 2 == 1
  let sealed := j.info.confidential && host
  let dest := q.cmd.desc.w16.toNat
  let tag := if q.cmd.desc.w32 = 0 then leBytes 32 0 else memRead r.mem q.cmd.desc.w32.toNat 32
  if b2 && (!e.b2Ok || sealed) then r.refuse q 0x0303
  else if q.cmd.desc.w24.toNat < e.recordSize then r.refuse q 0x0203
  else
    let bytes := r.record e tag sealed
    let out := if sealed then sealBuffer q.under.2 j.info.id dest 0 (cdiv bytes.length 4096) bytes else bytes
    let r := if move then
        r.setStream n { e with loc := .exported, statePtr := 0, root := 0, pages := [], promise := 0 }
      else r
    r.finish { q with count := cdiv e.recordSize 64 } [(if host then Space.host q.cmd.port else Space.job, dest, out)]

/-- Put a record's body into the pool pages from `base` on: state block, then pages by group and token (R133). -/
def JobRun.placeBody (r : JobRun) (e : Stream) (base : Nat) (bs : List Byte) : JobRun × Stream :=
  let sb := if e.hasState then e.stateBytes else 0
  let bp := if e.hasState then e.blockPages else 0
  let mem := if sb = 0 then r.mem else memWrite r.mem base ((bs.drop 256).take sb)
  let per := if e.hasPages then e.recordPages else 0
  let n := if e.hasPages then e.groups * per else 0
  let off := recordPageOffset sb
  let at' := fun (i : Nat) => base + (bp + i) * 65536
  let pages := (List.range n).map (fun i => (pageKey (i / per) (e.winPages + i % per), at' i))
  let mem := (List.range n).foldl (fun m i => memWrite m (at' i) ((bs.drop (off + i * 65536)).take 65536)) mem
  ({ r with mem }, { e with statePtr := if sb = 0 then 0 else base, pages := pages.foldl (fun m p => NMap.put m p.1 p.2) e.pages })

/-- An IMPORT_STATE commits (R107, R134, R136): the stream is in peat, or PEER until a command needs it. -/
def JobRun.commitImport (r : JobRun) (j : Job) (q : QCmd) (n : Nat) : JobRun :=
  let s := { q.made with assigned := (r.stream n).assigned }
  if s.loc == .peer then (r.setStream n s).finish { q with count := 0 } []
  else
    let (r, s) := r.placeBody s (poolAddr r.vaNext) q.data
    let s := { s with root := if s.hasPages then r.nodeNext + 1 else 0 }
    let r' := ({ r with vaNext := r.vaNext + s.ownPages, nodeNext := r.nodeNext + 1 } : JobRun).setStream n s
    (r'.back j [] [pagesFrom (poolAddr r.vaNext) s.ownPages]).finish { q with count := s.ownPages } []

/-- Commit the riders of a batch in order. -/
def Job.commitRiders (j : Job) (r : JobRun) (us : List Nat) : JobRun :=
  match us with
  | [] => r
  | u :: rest =>
    match r.findQ u with
    | none => j.commitRiders r rest
    | some q =>
      let op := q.cmd.desc.opcode
      let r := match q.refs with
        | [] => r.finish q []
        | (n, _) :: _ =>
          if op == 0x12 then r.commitFork { q with reserve := 0 } n
          else if op == 0x13 then r.commitPrune q q.refs
          else if op == 0x14 then j.commitExport r q n
          else if op == 0x15 then r.commitImport j q n
          else j.commitSwapOut r q n
      j.commitRiders r rest

/-! ## Entering the queue (R113) -/

/-- Rows of a STEP's batch table (R115). -/
def JobRun.tableRows (r : JobRun) (a ix n : Nat) : List Row :=
  match n with
  | 0 => []
  | k + 1 =>
    let rf := memWord r.mem (a + 16 * ix) 8
    let fl := memWord r.mem (a + 16 * ix + 8) 2
    { ix, stream := nfld rf 0 20, gen := nfld rf 32 16, isOpen := fl.testBit 0, isClose := fl.testBit 1
      isReset := fl.testBit 2, unpark := fl.testBit 3 } :: r.tableRows a (ix + 1) k

/-- Give each advance the next sequence number of its stream (R113). -/
def JobRun.number (r : JobRun) (ws : List Row) : JobRun × List Row :=
  match ws with
  | [] => (r, [])
  | w :: rest =>
    let e := r.stream w.stream
    let seq := r.lastSeq w.stream w.gen + 1
    let (r', rest') := (if e.gen == w.gen then r.setStream w.stream { e with assigned := seq } else r).number rest
    (r', { w with seq } :: rest')

/-- References of a PRUNE list (R111). -/
def JobRun.listRefs (r : JobRun) (a n : Nat) : List (Nat × Nat) :=
  match n with
  | 0 => []
  | k + 1 => let v := memWord r.mem a 8; (nfld v 0 20, nfld v 32 16) :: r.listRefs (a + 8) k

/-- A stream of the job's slice (R103). -/
def Image.inSlice (i : Image) (n : Nat) : Bool := decide (i.sliceFirst ≤ n) && decide (n < i.sliceFirst + i.sliceCount)

/-- A command enters the job's queue: it gets its number, its rows or references, and its advances their sequence
numbers (R35, R113); a publication keeps its entries as they stand now (R232). A STEP names its rows in a batch table whether or
not it carries BATCH (R110; log entry 117). -/
def Job.enqueue (j : Job) (c : Cmd) : Job :=
  let r := j.run
  let d := c.desc
  let op := d.opcode
  let ref1 := [(fld d.w8 0 20, fld d.w8 32 16)]
  let rows : List Row :=
    if op == 0x10 then
      if j.extentOk d.w8.toNat (16 * fld d.w16 0 32) then r.tableRows d.w8.toNat 0 (fld d.w16 0 32) else []
    else if op == 0x11 then
      [{ stream := fld d.w8 0 20, gen := fld d.w8 32 16, tokens := fld d.w24 0 32, isOpen := d.flags.testBit 3
         isReset := d.flags.testBit 2, unpark := d.flags.testBit 1 }]
    else []
  let rows := rows.filter (fun w => j.image.inSlice w.stream)
  let refs : List (Nat × Nat) :=
    if op == 0x13 && d.flags.testBit 0 then
      if j.extentOk d.w8.toNat (8 * fld d.w16 0 32) then r.listRefs d.w8.toNat (fld d.w16 0 32) else []
    else if decide (0x12 ≤ op) && decide (op ≤ 0x17) then ref1
    else []
  let (r, rows) := r.number rows
  let listed := 48 * fld d.w16 0 32
  let data := if op == 0x18 && j.mapped d.w8.toNat listed then memRead r.mem d.w8.toNat listed else []
  let r := if op == 0x18 then r.count 0x710 1 else r
  let q : QCmd := { uid := r.uidNext, cmd := c, rows, refs, data }
  { j with run := { r with queue := r.queue ++ [q], uidNext := r.uidNext + 1 } }

/-- A GO enters the queue as a publication of every staged word as it stands (R225, R232). -/
def Job.enqueueGo (j : Job) (p : Port) (staged : NMap W32) (seq : Nat) : Job :=
  let d : Desc := { opcode := 0x18, flags := 0, tag := 0, job := j.info.id, ring := 0, prio := 0, w8 := 0, w16 := 0,
                    w24 := 0, w32 := 0, w40 := 0, w48 := 0, cookie := 0 }
  let c : Cmd := { desc := d, port := p, set := j.info.homeSet, sealed := false, dev := false, caddr := 0, seq }
  let r := j.run.count 0x710 1
  let q : QCmd := { uid := r.uidNext, cmd := c, phase := 1, go := true, staged }
  let r := { r with queue := r.queue ++ [q], uidNext := r.uidNext + 1 }
  { j with run := r.applyReady r.queue.length }

/-- What a stream command, or a PARAM_GROUP_WRITE, reads of job memory before it is dispatched, by first address and bytes: tables, lists,
templates, tags and records (R111, R112, R115, R132, R226). -/
def descReads (d : Desc) : List (Nat × Nat) :=
  let n := fld d.w16 0 32
  let tag := if d.w32 = 0 then [] else [(d.w32.toNat, 32)]
  match d.opcode with
  | 0x10 => [(d.w8.toNat, 16 * n), (d.w40.toNat, 32)]
  | 0x11 => [(d.w40.toNat, 32)]
  | 0x13 => if d.flags.testBit 0 then [(d.w8.toNat, 8 * n)] else []
  | 0x14 => tag
  | 0x15 => tag ++ [(d.w40.toNat, 32)] ++ if fld d.w24 48 2 = 0 then [(d.w16.toNat, 4096 * fld d.w24 0 32)] else []
  | 0x18 => [(d.w8.toNat, 48 * n)]
  | _ => []

/-! ## Checks at dispatch (R117) -/

/-- The status that refuses a whole stream command, first condition first; none where it may be dispatched. -/
def Job.dispatchRefusal (j : Job) (q : QCmd) : Option Nat :=
  let d := q.cmd.desc
  let op := d.opcode
  let n := fld d.w16 0 32
  let list := op == 0x13 && d.flags.testBit 0
  let streams := q.streams
  let host := (op == 0x14 && fld d.w40 2 2 == 1) || (op == 0x15 && fld d.w24 48 2 != 0) || op == 0x16
  let opens := q.rows.any (·.isOpen) || op == 0x15
  let extents := (if op == 0x10 then j.extentOk d.w8.toNat (16 * n) else true) &&
    (if list then j.extentOk d.w8.toNat (8 * n) else true) &&
    (if op == 0x12 then j.extentOk d.w16.toNat (8 * fld d.w24 0 7) &&
      (d.w32 = 0 || j.extentOk d.w32.toNat (8 * fld d.w24 0 7)) else true) &&
    (if opens then j.extentOk d.w40.toNat 32 else true) &&
    (if op == 0x14 && !host then j.extentOk d.w16.toNat d.w24.toNat else true) &&
    (if op == 0x15 && !host then j.extentOk d.w16.toNat (4096 * fld d.w24 0 32) else true)
  let rowsIn := if op == 0x10 then q.rows.length == n else if op == 0x11 then q.rows.length == 1 else true
  if !(extents && rowsIn && streams.all j.image.inSlice) then some 0x0203
  else if (op == 0x10 && decide (j.image.extent < n)) || (op == 0x11 && decide (j.image.extent < fld d.w24 0 32)) then
    some 0x0201
  else if op == 0x10 && !decide streams.Nodup then some 0x0305
  else if (op == 0x10 && n == 0) || (op == 0x11 && fld d.w24 0 32 == 0) || (op == 0x12 && fld d.w24 0 7 == 0) ||
      (list && n == 0) then some 0x0001
  else none

end Sys2Proof.Machine
end

