-- ==== Sys2Proof/Machine/JobOps.lean ====
section
/-! DEFINITION. What the meanings share about jobs: the journal, stopping cores, pauses, yields, the run queue and the
end of a job (chapter 11). -/

namespace Sys2Proof.Machine

/-! ## Writing job memory and the journal (R354, R360) -/

/-- Journal a fact of the running job since its last commit point (R354). -/
def Job.note (j : Job) (x : JournalRec) : Job := { j with journal := j.journal ++ [x] }

/-- Note that the 4 KiB units from `u`, `n` of them, are written: their old contents are journalled the first time, unless
they lay in free pages at the commit point (R354), and the buddy's map marks them (R360). -/
def Job.touch (j : Job) (u n : Nat) : Job :=
  match n with
  | 0 => j
  | k + 1 =>
    let wasFree := match j.commit with
      | some c => decide (poolAddr c.vaNext ≤ u * 4096)
      | none => true
    let known := wasFree || j.journal.contains (.unit u)
    let journal := if known then j.journal else j.journal ++ [.unit u]
    let copied := if known then j.copied else j.copied ++ [u]
    let mirrorDirty := if j.info.buddy && !j.mirrorDirty.contains u then j.mirrorDirty ++ [u] else j.mirrorDirty
    { j with journal, copied, mirrorDirty }.touch (u + 1) k

/-- An access to job memory waits for a withheld unit: any read that meets one, and any write that meets one which it does not write
whole (R492). -/
def Job.blocked (j : Job) (a len : Nat) (write : Bool) : Bool :=
  j.lost.any (fun u => decide (u * 4096 < a + len) && decide (a < (u + 1) * 4096) &&
    !(write && decide (a ≤ u * 4096) && decide ((u + 1) * 4096 ≤ a + len)))

/-- Some of the ranges of reads meets a withheld unit (R492). -/
def Job.readsWait (j : Job) (xs : List (Nat × Nat)) : Bool := xs.any (fun x => j.blocked x.1 x.2 false)

/-- Write bytes of job memory, journalling the units they fall in (R264, R354). A withheld unit that is written whole is
made good (R492). -/
def Job.store (j : Job) (a : Nat) (bs : List Byte) : Job :=
  if bs = [] then j
  else
    let j := j.touch (a / 4096) ((a + bs.length - 1) / 4096 + 1 - a / 4096)
    let whole := j.lost.filter (fun u => decide (a ≤ u * 4096) && decide ((u + 1) * 4096 ≤ a + bs.length) && !j.made.contains u)
    { j with made := j.made ++ whole, run := { j.run with mem := memWrite j.run.mem a bs } }

/-- Write bytes of a job that does not run: nothing is journalled, and a withheld unit that is written whole is made good (R492). -/
def Job.fill (j : Job) (a : Nat) (bs : List Byte) : Job :=
  let whole := j.lost.filter (fun u => decide (a ≤ u * 4096) && decide ((u + 1) * 4096 ≤ a + bs.length) && !j.made.contains u)
  { j with made := j.made ++ whole, run := { j.run with mem := memWrite j.run.mem a bs } }

/-- A host write that is no part of a command is journalled with its data, too (R354, R423). -/
def Job.hostWrite (j : Job) (a : Nat) (bs : List Byte) : Job := (j.store a bs).note (.hostWrite a bs)

/-- Bytes of one journal record (R354; log entry 15). -/
def JournalRec.bytes : JournalRec → Nat
  | .unit _ => 4096
  | .slice _ => 4096
  | .table _ => 4096
  | .raised .. => Config.journalRecord 5 4
  | .batch parts => Config.journalRecord 1 parts.length
  | .taken _ => Config.journalRecord 2 64
  | .hostWrite _ d => Config.journalRecord 3 d.length
  | .published _ m => Config.journalRecord 4 m.length

/-- JOB_JOURNAL_BYTES: the journal held now, with the live data of a forced commit point at its start (R332, R353). -/
def Job.journalBytes (j : Job) : Nat := j.info.journal + (j.journal.map JournalRec.bytes).sum

/-- The journal's size (R354). -/
def journalSize : Nat := 16 * 2 ^ 30

/-! ## Cores and pause points (R63, R345, R346) -/

/-- A logical core of the job. -/
def JobRun.core (r : JobRun) (n : Nat) : Core := NMap.getD r.cores n {}

/-- Replace a core. -/
def JobRun.setCore (r : JobRun) (n : Nat) (c : Core) : JobRun := { r with cores := NMap.put r.cores n c }

/-- The image's section for a core. -/
def Image.sec (i : Image) (n : Nat) : CoreSec := NMap.getD i.cores n {}

/-- All incoming channels of a core are empty (R345). -/
def Job.inEmpty (j : Job) (n : Nat) : Bool :=
  (List.range j.image.chans.length).all (fun c =>
    (j.image.chans.getD c {}).consumer != n || ((NMap.getD j.run.chans c {}).transfers.isEmpty))

/-- The core stands at a bed point with its incoming channels empty (R63, R345). -/
def Job.atBed (j : Job) (n : Nat) : Bool := (j.image.sec n).beds.contains (j.run.core n).insn && j.inEmpty n

/-- The live-range entry that governs a boundary (R62). -/
def CoreSec.live? (c : CoreSec) (insn : Nat) : LiveE :=
  ((c.live.filter (fun l => decide (l.boundary ≤ insn))).getLast?).getD {}

/-- What of a core's scratchpad and accumulators is saved at its boundary: exactly the regions and tiles marked live
there (R63, R346, R349). -/
def CoreSec.keep (c : CoreSec) (x : Core) : Core :=
  let l := c.live? x.insn
  let inLive := fun (a : Nat) => (List.range c.regions.length).any (fun i =>
    l.regions.testBit i && decide ((c.regions.getD i {}).off ≤ a) &&
      decide (a < (c.regions.getD i {}).off + (c.regions.getD i {}).size))
  { x with scratch := x.scratch.filter (fun e => inLive e.1)
           acc := x.acc.filter (fun e => l.tiles.testBit (e.1 / 262144)) }

/-- The slot size of a channel in bytes (R51). -/
def ChanE.slotBytes (c : ChanE) : Nat := c.slot * 64

/-- Where byte `i` of a transfer that starts at slot `slot` lies in its region: past the last slot it continues at the
region's start (R203). -/
def ChanE.byteAt (c : ChanE) (slot i : Nat) : Nat := (slot * c.slotBytes + i) % (c.depth * c.slotBytes)

/-- Place a transfer's bytes into the slots of a region that starts at `base`. -/
def placeBytes (m : NMap Byte) (c : ChanE) (base slot i : Nat) (bs : List Byte) : NMap Byte :=
  match bs with
  | [] => m
  | b :: rest => placeBytes (memPut m (base + c.byteAt slot i) b) c base slot (i + 1) rest

/-- The oldest transfer of a channel that has not arrived arrives wholly at its consumer (R203, R254). -/
def Job.arriveOne (j : Job) (ch : Nat) : Job :=
  let e := j.image.chans.getD ch {}
  let x := NMap.getD j.run.chans ch {}
  match x.transfers.find? (fun t => !t.arrived) with
  | none => j
  | some t =>
    let n := e.consumer
    let base := (((j.image.sec n).regions.find? (fun r => (r.kind == 1 || r.kind == 5) && r.chan == ch)).map (·.off)).getD 0
    let c := j.run.core n
    let c := { c with scratch := placeBytes c.scratch e base t.slot 0 t.data }
    let i := x.transfers.findIdx (fun t => !t.arrived)
    let x := { x with transfers := x.transfers.set i { t with arrived := true } }
    { j with run := { j.run.setCore n c with chans := NMap.put j.run.chans ch x } }

/-- Every transfer in flight on the listed channels arrives (R346). -/
def Job.arriveAll (j : Job) (chs : List Nat) : Job :=
  match chs with
  | [] => j
  | ch :: rest =>
    let n := ((NMap.getD j.run.chans ch {}).transfers.filter (fun t => !t.arrived)).length
    ((List.range n).foldl (fun j _ => j.arriveOne ch) j).arriveAll rest

/-- Live bytes at the cores' present boundaries (R348, R353). -/
def Job.liveBytes (j : Job) : Nat :=
  (j.run.cores.map (fun e =>
    let c := j.image.sec e.1
    let l := c.live? e.2.insn
    ((List.range c.regions.length).map (fun i => if l.regions.testBit i then (c.regions.getD i {}).size else 0)).sum +
      262144 * ((List.range 8).filter (fun t => l.tiles.testBit t)).length)).sum

/-- A wait within a command that a forced pause lets run to its end (R100, R163, R259, R346). -/
def CoreWait.midway : CoreWait → Bool
  | .peat .. => true
  | .held _ => true
  | .browse => true
  | .ramp => true
  | _ => false

/-- A core that waits stops at the boundary before its instruction, which runs again on resume (R346). The weights in its array are
not kept (R63, R349). -/
def Core.halted (c : Core) : Core :=
  { c with wait := .run, ramping := false, groupsOn := 0, misses := [], arrived := [], ahead := [], inCmd := false, cells := none
           tally := [] }

/-- A move into peat is undone: the stream stands where it was (R130, R136, R137). -/
def Stream.away (e : Stream) : Stream :=
  { e with loc := e.cameFrom, parked := 0, statePtr := 0, moveBase := 0, peerBuf := []
           promise := if e.cameFrom == .cold then 0 else e.promise
           root := if e.cameFrom == .peer then 0 else e.root }

/-- A SWAP_OUT is undone: the stream stands in peat (R129, R137). -/
def Stream.stay (e : Stream) : Stream :=
  { e with loc := .resident, awayAddr := 0, awaySize := 0, swapState := [], swapPages := [] }

/-- A move that has not committed when the job pauses is abandoned (R137). -/
def Stream.unmove (e : Stream) : Stream :=
  if e.loc == .moving then (if e.cameFrom == .resident then e.stay else e.away) else e

/-- A SWAP_OUT that rides with a batch. -/
def QCmd.swapsOut (q : QCmd) : Bool := q.cmd.desc.opcode == 0x16 && q.phase == 2

/-- A counter in a cluster's window (R295). -/
def JobRun.countCluster (r : JobRun) (c off k : Nat) : JobRun :=
  { r with ctrCluster := bump r.ctrCluster (c * 0x80 + off) k }

/-- The units fetched ahead that a stop's empty tiers no longer hold count as unused (R291, R295). -/
def JobRun.lapseAhead (r : JobRun) : JobRun :=
  r.cores.foldl (fun (r : JobRun) e => r.countCluster (e.1 / 16) 0x40 e.2.ahead.length) r

/-- The run as a pause saves it (R63, R137, R326, R346, R349): live data only where the pause is forced. -/
def Job.saved (j : Job) (forced : Bool) : JobRun :=
  let j := if forced then j.arriveAll (List.range j.image.chans.length) else j
  let r := j.run.lapseAhead
  { r with
    cores := r.cores.map (fun e =>
      let c := e.2.halted
      (e.1, if forced then (j.image.sec e.1).keep c else { c with scratch := [], acc := [] }))
    streams := r.streams.map (fun e => (e.1, e.2.unmove))
    batches := r.batches.map (fun b =>
      { b with riders := b.riders.filter (fun u => !r.queue.any (fun q => q.uid == u && q.swapsOut)) })
    queue := r.queue.map (fun q =>
      let q := { q with rows := q.rows.map (fun w => if w.phase == 1 then { w with phase := 0 } else w) }
      if (q.cmd.desc.opcode == 0x40 || q.cmd.desc.opcode == 0x41 || q.cmd.desc.opcode == 0x16 || q.cmd.desc.opcode == 0x17) && q.phase == 2 then
        { q with phase := 1 } else q) }

/-- A pause point is reached: at a bed pause every busy core is at a bed point and no batch is in flight (R345); a
forced pause stops each core at its next boundary, where a core of this model stands but for a command in progress that
runs to its end first (R346). -/
def Job.atPoint (j : Job) (forced : Bool) : Bool :=
  if forced then j.run.cores.all (fun e => !e.2.inCmd) else (j.run.batches.isEmpty && j.run.publish.isEmpty && j.run.cores.all (fun e => j.atBed e.1))

/-! ## The save pool and the run queue (R340, R348) -/

/-- Bytes of the pause save pool (R348). -/
def savePool : Nat := 9 * 2 ^ 30

/-- Bytes of the pool in use: each job that holds its save need. -/
def State.poolUsed (s : State) : Nat := (s.jobs.map (fun j => if j.info.holdsSave then j.info.saveNeed else 0)).sum

/-- The job's save need fits the pool beside what is held, or it holds it already (R340, R348). -/
def State.fits (s : State) (k : Nat) : Bool :=
  (s.job k).info.holdsSave || decide (s.poolUsed + (s.job k).info.saveNeed ≤ savePool)

/-- The slot is in the run queue and may leave it (R331, R340). -/
def State.mayRun (s : State) (k : Nat) : Bool :=
  let i := (s.job k).info
  i.queued && (i.state == .armed || i.state == .paused)

/-- Slot `a` stands before slot `b` in the run queue (R340). -/
def State.before (s : State) (a b : Nat) : Bool :=
  let x := (s.job a).info
  let y := (s.job b).info
  decide (y.prio < x.prio) || (x.prio == y.prio && decide (x.qTime < y.qTime))

/-- The first queued job whose save need fits the pool (R340, R367). -/
def State.nextJob (s : State) : Option Nat :=
  let c := (List.range s.jobs.length).filter (fun k => s.mayRun k && s.fits k)
  c.find? (fun a => c.all (fun b => a == b || s.before a b))

/-- Put a job in the run queue at its place among those of its priority: the order in which the scheduler took the descriptor that
queues it (R340). -/
def State.queueJob (s : State) (k place : Nat) : State :=
  s.setInfo k { (s.job k).info with queued := true, qTime := place }

/-- A job that has yielded goes behind those of its priority (R340, R341; log entry 124). -/
def State.requeue (s : State) (k : Nat) : State :=
  let s := s.queueJob k s.sched.cmdSeq
  { s with sched := { s.sched with cmdSeq := s.sched.cmdSeq + 1 } }

/-! ## Pauses and yields (R341, R345, R346, R350) -/

/-- The running slot whose job is RUNNING. -/
def State.runningJob (s : State) : Option Nat :=
  match s.sched.running with
  | some k => if (s.job k).info.state == .running then some k else none
  | none => none

/-- Replace a counter of a link, of the herd or of a host port, where it holds one. -/
def cutCounter (m : NMap Nat) (off base : Nat) : NMap Nat :=
  match NMap.find m off with
  | some v => NMap.put m off (base + (v - base) / 65536 * 65536)
  | none => m

/-- Device-wide counters that are coarse while a confidential job runs (R468), by link, by herd and by port: offsets of
LINK_TX_FLITS and LINK_RX_FLITS, of HERD_RETRANSMITS, and of the HOST_ counters. -/
def linkCoarse : List Nat := [0x48, 0x50]
/-- HERD_RETRANSMITS (R398). -/
def herdCoarse : Nat := 0x30
/-- HOST_BAD_WIDTH to HOST_NOTIFY_DROPPED (R410). -/
def hostCoarse : List Nat := [0x48, 0x50, 0x58, 0x60, 0x68, 0x70, 0x78]

/-- Keys under which the device-wide counters are kept as a confidential job begins to run. -/
def State.deviceCounters (s : State) : NMap Nat :=
  s.links.zipIdx.flatMap (fun (e : Link × Nat) => linkCoarse.map (fun o => (e.2 * 0x100 + o, NMap.getD e.1.ctr o 0))) ++
    [(0x4000, NMap.getD s.herd.ctr herdCoarse 0)] ++
    [Port.a, Port.b].flatMap (fun p => hostCoarse.map (fun o => (0x5000 + 0x100 * portNum p + o, NMap.getD (s.port p).ctr o 0)))

/-- JOB_RUN_NS at present (R332). -/
def State.runNow (s : State) (k : Nat) : Nat :=
  let i := (s.job k).info
  if i.state == .running then i.runNs + (s.islands.getD (portIsland i.owner) 0 - i.runSince) else i.runNs

/-- A device-wide counter of the running job: gauges follow the present value (R139, R198). -/
def Job.deviceValue (j : Job) (o : Nat) : Nat :=
  let r := j.run
  match o with
  | 0x00 => (r.streams.filter (fun e => e.2.kind != 0)).length
  | 0x08 => r.free j.image
  | 0x10 => (r.streams.map (fun e => e.2.promise)).sum
  | 0x100 => r.heldPages.length
  | 0x108 => (r.heldPages.filter (fun e => decide (1 < r.holders e.1))).length
  | _ => NMap.getD r.ctrDev o 0

/-- The counters that a coarse refresh renews, under their places in BAR0; those of a port lie 64 MiB apart. -/
def State.coarseCounters (s : State) : List (Nat × Nat) :=
  let job := match s.sched.running with
    | some k =>
      let j := s.job k
      ([0x00, 0x08, 0x10, 0x100, 0x108].map (fun o => (0x103000 + o, j.deviceValue o))) ++
        (j.run.ctrDev.map (fun e => (0x103000 + e.1, e.2))) ++ (j.run.ctrCluster.map (fun e => (0x104000 + e.1, e.2))) ++
        ((List.range 32).map (fun c => (0x104060 + c * 0x80, (NMap.getD s.tiers.clusters c {}).ember.length))) ++
        (j.run.ctrCore.map (fun e => (0x180000 + e.1, e.2))) ++ (j.run.ctrJob.map (fun e => (0x101000 + k * 0x80 + e.1, e.2))) ++
        [(0x100020 + k * 0x40, j.journalBytes)]
    | none => []
  let links := s.links.zipIdx.flatMap (fun (e : Link × Nat) =>
    linkCoarse.map (fun o => (0x2A0000 + e.2 * 0x100 + o, NMap.getD e.1.ctr o 0)))
  let ports := [Port.a, Port.b].flatMap (fun p => hostCoarse.map (fun o => (portNum p * 2 ^ 26 + o, NMap.getD (s.port p).ctr o 0)))
  job ++ links ++ [(0x2A4000 + herdCoarse, NMap.getD s.herd.ctr herdCoarse 0)] ++ ports

/-- What a refresh shows of the counters: rounded down to a multiple of 65,536; run time to 10 ms; firmware restarts whole. -/
def State.refreshed (s : State) : NMap Nat :=
  let m := s.coarseCounters.foldl (fun (m : NMap Nat) e => NMap.put m e.1 (e.2 / 65536 * 65536)) []
  let m := match s.sched.running with
    | some k => NMap.put m (0x100018 + k * 0x40) (s.runNow k / 10 ^ 7 * 10 ^ 7)
    | none => m
  let m := NMap.put m 0x2E0018 s.fw.restarts
  (List.range 38).foldl (fun m n => NMap.put m (0x2E0040 + 4 * n) (s.fw.cores.getD n {}).restarts) m

/-- A physical cluster. -/
def Health.cluster (h : Health) (p : Nat) : PhysCluster := h.clusters.getD p {}

/-- A cluster in service, hosting or not (R496). -/
def PhysCluster.inService (c : PhysCluster) : Bool := c.state == 1 || c.state == 2

/-- A free measurement: the `n`th draw of a read (log entry 7). -/
def State.reading (s : State) (n width : Nat) : Nat := Config.freeNat (s.freeCtr + n) % 2 ^ width

/-- The rails of the clusters in service. -/
def State.liveRails (s : State) : List Rail :=
  (s.power.rails.zipIdx.filter (fun e => (s.health.cluster e.2).inService)).map (·.1)

/-- Mean of the rails' setpoints over the clusters in service. -/
def State.meanSetpoint (s : State) : Nat :=
  let vs := s.liveRails.map (fun (r : Rail) => r.v)
  if vs.isEmpty then 0 else vs.sum / vs.length

/-- A cluster's beat rate at 70 °C in Mbeat/s by its supply in mV (R22): linear between the rows of the table. -/
def nominalRate (mV : Nat) : Nat := if mV ≤ 750 then 1500 + 5 * (mV - 650) else 2000 + 4 * (min mV 850 - 750)

/-- A value within a per cent of another, by a free draw. -/
def around (v pct draw : Nat) : Nat := v - v * pct / 100 + draw % (2 * (v * pct / 100) + 1)

/-- A cluster's beat rate (R22, R23), by its rail and its junction temperature in quarter degrees: the table's on its rows and
free within 2 % between them at 70 °C, 0.1 % less for each degree above, and free within 1 % of that below. The rail and the
temperature of the present stand for the last millisecond's (log entry 111). -/
def Rail.rate (r : Rail) (draw : Nat) : Nat :=
  let at70 := if r.v % 100 = 50 then nominalRate r.v else around (nominalRate r.v) 2 draw
  if 280 < r.tj then at70 - at70 * (r.tj - 280) / 4000 else if r.tj < 280 then around at70 1 (draw / 128) else at70

/-- Mean beat rate over the clusters in service, by draws from the `n`th on. -/
def State.meanRate (s : State) (n : Nat) : Nat :=
  let vs := s.liveRails.zipIdx.map (fun (e : Rail × Nat) => e.1.rate (Config.freeNat (s.freeCtr + n + e.2)))
  if vs.isEmpty then 0 else vs.sum / vs.length

/-- The hottest of a hub's six stacks in quarter degrees: known where a stack has reported, else free. -/
def State.hubHbm (s : State) (h : Nat) : Nat :=
  let ts := (List.range 6).filterMap (fun i => NMap.find s.power.stackT (6 * h + i))
  if ts.isEmpty then s.reading 4 10 else ts.foldl max 0

/-- What a refresh shows of the readings: power in steps of 10 W as the mean since the last, temperatures in steps of 5 °C,
and the module means of voltages and rate (R468, R511). -/
def State.refreshedPower (s : State) : NMap Nat :=
  let p := s.power
  let mean := if p.summed.2 = 0 then s.reading 0 16 else p.summed.1 / p.summed.2
  let amps := fun (mV v : Nat) => if mV = 0 then 0 else v * mV / 100000 * 100000 / mV
  let m : NMap Nat := [(0x0C, mean / 10 * 10), (0x12, amps p.feedA (s.reading 1 16)), (0x16, amps p.feedB (s.reading 2 16)),
    (0x18, s.reading 3 16 / 50 * 50), (0x1A, s.reading 4 16 / 50 * 50), (0x90, s.meanRate 57), (0x91, s.reading 6 10),
    (0x92, s.meanSetpoint)]
  let m := (List.range 34).foldl (fun (m : NMap Nat) c =>
    NMap.put (NMap.put m (0x104 + 8 * c) ((p.rails.getD c {}).tj / 20 * 20)) (0x105 + 8 * c) (s.reading (7 + c) 16 / 10 * 10)) m
  (List.range 8).foldl (fun (m : NMap Nat) h =>
    NMap.put (NMap.put (NMap.put m (0x300 + 8 * h) (s.reading (41 + h) 10 / 20 * 20)) (0x302 + 8 * h) (s.hubHbm h / 20 * 20))
      (0x303 + 8 * h) (s.reading (49 + h) 16 / 10 * 10)) m

/-- A confidential job begins to run: SEC_COARSE.ACTIVE is 1, and what its registers show until the first refresh is what they hold now
(R468, R469). -/
def State.coarseOn (s : State) : State :=
  { s with sec := { s.sec with coarse := true, coarseBase := s.deviceCounters, shown := some s.refreshed
                               shownPower := some s.refreshedPower }
           power := { s.power with summed := (0, 0) }
           freeCtr := s.freeCtr + 91 }

/-- A confidential job ceases to run: each device-wide counter keeps its increase only to a multiple of 65,536 (R469). -/
def State.coarseOff (s : State) : State :=
  if !s.sec.coarse then s
  else
    let b := s.sec.coarseBase
    let host := fun (p : Port) (h : HostPort) =>
      { h with ctr := hostCoarse.foldl (fun m o => cutCounter m o (NMap.getD b (0x5000 + 0x100 * portNum p + o) 0)) h.ctr }
    { s with
      sec := { s.sec with coarse := false, coarseBase := [], shown := none, shownPower := none }
      links := s.links.zipIdx.map (fun (e : Link × Nat) =>
        { e.1 with ctr := linkCoarse.foldl (fun m o => cutCounter m o (NMap.getD b (e.2 * 0x100 + o) 0)) e.1.ctr })
      herd := { s.herd with ctr := cutCounter s.herd.ctr herdCoarse (NMap.getD b 0x4000 0) }
      portA := host .a s.portA
      portB := host .b s.portB }

/-- The RUNNING time since the last look is added to JOB_RUN_NS (R332). -/
def State.tallyRun (s : State) (k : Nat) : State :=
  if (s.job k).info.state != .running then s
  else
    let (t, s) := s.look (portIsland (s.job k).info.owner)
    let i := (s.job k).info
    s.setInfo k { i with runNs := i.runNs + (t - i.runSince), runSince := t }

/-- Start a pause of the running job (R331, R345, R346): its RUNNING time ends, and intake closes. -/
def State.beginPause (s : State) (k : Nat) (p : Pausing) : State :=
  let s := (s.tallyRun k).coarseOff
  let s := s.setInfo k { (s.job k).info with state := .pausing }
  { s with sched := { s.sched with pausing := some p, intakeOpen := false } }

/-- Start a yield where a queued job has a higher priority, or, once the time slice has elapsed, an equal one (R341). -/
def State.checkYield (s : State) : State :=
  match s.runningJob with
  | none => s
  | some k =>
    let p := (s.job k).info.prio
    let waits := (List.range s.jobs.length).any (fun q => q != k && s.mayRun q &&
      (decide (p < (s.job q).info.prio) || (s.sched.sliceOver && (s.job q).info.prio == p)))
    if waits then
      s.beginPause k { forced := false, cause := 3, yields := true, bounded := false, cmds := [], status := 0, tag := 0 }
    else s

/-- A program error pauses the job as a forced pause, and CAUSE records PROGRAM (R350, R366). A pause in progress becomes
forced. -/
def State.programError (s : State) (k status tag : Nat) : State :=
  match s.sched.pausing with
  | some p =>
    let p := if p.cause = 5 then { p with forced := true } else { p with forced := true, cause := 5, status, tag }
    { s with sched := { s.sched with pausing := some p } }
  | none =>
    s.beginPause k { forced := true, cause := 5, yields := false, bounded := false, cmds := [], status, tag }

/-- The slot whose job's cores run: RUNNING, or PAUSING until its pause point (R345). -/
def State.workingJob (s : State) : Option Nat :=
  match s.sched.running with
  | some k => if (s.job k).info.state == .running || (s.job k).info.state == .pausing then some k else none
  | none => none

/-- Seek a commit point: intake closes until it is taken (R353). -/
def State.seekCommit (s : State) : State :=
  match s.workingJob, s.sched.seekCommit with
  | some _, none => { s with sched := { s.sched with seekCommit := some false, intakeOpen := false } }
  | _, _ => s

/-- Complete every waiting COMMIT with the commit sequence number (R353). -/
def State.completeAll (s : State) (k : Nat) (cs : List Cmd) (status count : Nat) : State :=
  match cs with
  | [] => s
  | c :: rest => (s.complete k c status 0 0 count).completeAll k rest status count

/-- A counter of the job's own window raised (R369). -/
def State.jobCount (s : State) (k off n : Nat) : State :=
  let j := s.job k
  s.setJob k { j with run := { j.run with ctrJob := bump j.run.ctrJob off n } }

/-- The running job's journal is full (R354). -/
def State.journalFull (s : State) (k : Nat) : Bool := s.sched.running == some k && decide (journalSize ≤ (s.job k).journalBytes)

/-- A writer stalls on the full journal: the time counts, a free value (R354, R369; log entry 7). -/
def State.journalStall (s : State) (k : Nat) : State :=
  let (n, s) := s.fresh
  s.jobCount k 0x20 n

/-- Place a JOB_STATE event in the job's home set (R350, R416, R419). -/
def State.jobStateEvent (s : State) (k old new cause status tag : Nat) (adopted lost : Bool) : State :=
  s.jobEvent k { code := 0x0E01, job := 0, a := jobStateA old new cause status tag adopted lost, b := 0 }

/-- A ring-pass transfer of a job, its mirroring apart. -/
def Transfer2.is (t : Transfer2) (k : Nat) : Bool := t.slot == k && !t.mirror

/-- The run of the job in slot `k` with what the herd holds of it outbound: packets not acknowledged or waiting, the numbers given out, and
the transfers of the ring-pass engines (R349, R356, R401). -/
def State.withHerd (s : State) (k : Nat) (r : JobRun) : JobRun :=
  let h := s.herd
  let id := (s.job k).info.id
  { r with
    captured := r.captured ++ (h.unacked.filter (fun u => u.pkt.job == id)).map (·.pkt) ++ h.waiting.filter (fun p => p.job == id)
    seqs := h.sendSeq.filter (fun e => e.1 / 2 ^ 18 == id)
    passes := r.passes ++ h.engines.zipIdx.flatMap (fun e => (e.1.filter (fun t => t.is k)).map (fun t => (e.2, t))) }

/-- The herd without what `withHerd` takes of a job. -/
def Herd.without (h : Herd) (k id : Nat) : Herd :=
  { h with unacked := h.unacked.filter (fun u => u.pkt.job != id), waiting := h.waiting.filter (fun p => p.job != id)
           engines := h.engines.map (fun ts => ts.filter (fun t => !t.is k)) }

/-- A commit point of the job counts: it is the present run, and the journal empties (R353, R354). -/
def State.commitNow (s : State) (k live : Nat) : State :=
  let s := s.tallyRun k
  let j := s.job k
  let i := { j.info with commitSeq := j.info.commitSeq + 1, journal := live, commits := [], commitRun := j.info.runNs
                         notified := 0 }
  let j := { j with commit := some (s.withHerd k j.run), journal := [], info := i }
  let waiting := (s.job k).info.commits
  (s.setJob k j).completeAll k waiting 0 j.info.commitSeq

/-! ## Semaphores (R356, R357) -/

/-- Raise a semaphore of a job (R356, R357). -/
def State.raiseSem (s : State) (k sem v : Nat) : State :=
  let j := s.job k
  let w := NMap.getD j.run.sems (sem % 4096) 0 + BitVec.ofNat 32 v
  s.setJob k { j with run := { j.run with sems := NMap.put j.run.sems (sem % 4096) w } }

/-- A semaphore is raised from outside the job's own instructions: it is journalled as what else comes from outside is, so that a replay
raises it again (R355, R356; log entry 142). -/
def State.raiseFrom (s : State) (k sem v : Nat) : State :=
  let s := s.raiseSem k sem v
  if s.sched.running == some k then s.setJob k ((s.job k).note (.raised (sem % 4096) v)) else s

/-! ## The end of a job (R337, R472) -/

/-- Discard host commands of a job without completion records (R337). -/
def State.discard (s : State) (cs : List Cmd) : State :=
  match cs with
  | [] => s
  | c :: rest =>
    let s := s.notOutstanding c
    { s with sched := { s.sched with taken := s.sched.taken.filter (fun d => d.seq != c.seq) } }.discard rest

/-- Bytes that a job's end sends to the scrub pool: its data space, its save space and its journal units (R472). -/
def Job.scrubBytes (j : Job) : Nat := j.image.peatUnits * 2 ^ 21 + j.info.saveNeed + j.journalBytes

/-- The slot of a job after its end: ENDING, its slice set to zero, until its space is scrubbed (R103, R331, R472). -/
def Job.ended (j : Job) : Job :=
  { info := { j.info with state := .ending, queued := false, starts := [], waiting := [], commits := [], outstanding := []
                          holdsSave := false, wbPending := false, token := 0, buddy := false }
    image := j.image, backing := j.backing, pool := j.pool }

/-- A SWAP_OUT or EXPORT_STATE. -/
def QCmd.swapsOrExports (q : QCmd) : Bool := q.cmd.desc.opcode == 0x16 || q.cmd.desc.opcode == 0x14

/-- The key of a session epoch is still needed: a confidential job has a swap image that was sealed under it, or an output that is still
to be sealed under it (R464, R478). -/
def State.keyNeeded (s : State) (e : Port × Nat × Nat) : Bool :=
  s.jobs.any (fun j => j.info.state.loaded && j.info.state != .ending && j.info.confidential && (j.run.streams.any (fun x =>
    x.2.kind != 0 && (x.2.loc == .cold || (x.2.loc == .moving && x.2.cameFrom == .cold)) && x.2.swapPort == e.1 &&
      x.2.swapEpoch == e.2.1 && x.2.swapKey == e.2.2) ||
    j.run.queue.any (fun q => q.phase != 0 && q.swapsOrExports && q.cmd.port == e.1 && q.under == e.2) ||
    j.run.publish.any (fun p => p.writes.any (fun w => w.1 == .sealedAt e.1 e.2.2))))

/-- Session keys that no image needs any longer are dropped (R464). -/
def State.trimKeys (s : State) : State := { s with sec := { s.sec with epochKeys := s.sec.epochKeys.filter s.keyNeeded } }

/-- A codec engine with nothing to do (R326). -/
def Engine.idle (e : Engine) : Engine := { e with busy := none, loads := 0, windows := [] }

/-- JOB_END takes effect on the job in slot `k` (R331, R337, R472): its other commands are discarded and counted, its key
slot is cleared, its space enters the scrub pool, and, where it ran, the device is free and the on-chip memories are
cleared (R291, R471). While it was RESUMING they held nothing of it. -/
def State.endJob (s : State) (k : Nat) (c : Cmd) : State :=
  let j := s.job k
  let others := j.info.outstanding.filter (fun d => d.seq != c.seq)
  let s := (s.discard others).completeUnder j.info c 0 0 0 others.length
  let s := s.setJob k j.ended
  let s := { s with sec := { s.sec with jobKeys := NMap.del s.sec.jobKeys k, scrub := s.sec.scrub + j.scrubBytes } }
  let s := { s with herd := { s.herd with
    unacked := s.herd.unacked.filter (fun u => u.pkt.job != j.info.id)
    waiting := s.herd.waiting.filter (fun p => p.job != j.info.id)
    flows := s.herd.flows.filter (fun f => f.job != j.info.id)
    messages := s.herd.messages.filter (fun m => m.job != j.info.id)
    reads := s.herd.reads.filter (fun r => r.slot != k)
    sendSeq := s.herd.sendSeq.filter (fun e => e.1 / 2 ^ 18 != j.info.id)
    engines := s.herd.engines.map (fun (e : List Transfer2) => e.filter (fun t => t.slot != k)) } }
  let s := ({ s with sched := { s.sched with ending := s.sched.ending.filter (fun e => e.1 != k)
                                             secJob := if s.sched.secJob == some k then none else s.sched.secJob } } : State).trimKeys
  if s.sched.running == some k then
    let s := s.coarseOff
    let s := if j.info.confidential then (s.statusChange .a).statusChange .b else s
    { s with sched := { s.sched with running := none, previous := none, pausing := none, seekCommit := none
                                     intakeOpen := true }
             health := { s.health with replay := none }
             tiers := if j.info.state == .resuming then s.tiers else { salt := s.tiers.salt }
             codecs := s.codecs.map Engine.idle }
  else s

/-! ## Job commands (R335) -/

/-- One of a pair of twins, numbered from `k`, runs as primary (R434, R435). -/
def State.roleServes (s : State) (k : Nat) : Bool :=
  [k, k + 1].any (fun n => (s.fw.cores.getD n {}).role == 1 && (s.fw.cores.getD n {}).state == 2)

/-- A request waits until its firmware core serves again (R444). -/
def State.hold (s : State) (h : Held) : State := { s with fw := { s.fw with held := s.fw.held ++ [h] } }

/-- The scheduler serves: the module is READY, and a primary scheduler core runs or no sapwood does, in which case heartwood
answers (R432, R441, R444). -/
def State.schedServes (s : State) : Bool := s.board.phase == .ready && (s.fw.sapwood.isNone || s.roleServes 4)

/-- The scheduler takes a GO written in the window: it enters the queue as a publication of every staged word as it stands now
(R225, R227, R232). While no scheduler serves it stays pending. -/
def State.takeGo (s : State) : State :=
  match s.sched.running with
  | none => s
  | some k =>
    let j := s.job k
    match j.goDue with
    | none => s
    | some p =>
      if !s.schedServes then s
      else
        let s := s.setJob k (({ j with goDue := none }.note (.published p j.stage)).enqueueGo p j.stage s.sched.cmdSeq)
        { s with sched := { s.sched with cmdSeq := s.sched.cmdSeq + 1 } }

/-- A job command acts once: it leaves the commands taken. -/
def State.takeCmd (s : State) (c : Cmd) : State :=
  { s with sched := { s.sched with taken := s.sched.taken.filter (fun d => d.seq != c.seq) } }

/-- A command is refused before it acts, as one is that names a job not loaded or not of its port (R335). -/
def State.refuseCmd (s : State) (c : Cmd) (status : Nat) : State :=
  let s := s.completeFree c status 0 0
  if status = 0x0203 then s.hostCount c.port 0x50 else s

/-- Where an unsealed job command would act on a job whose JOB_LOAD came through a SEALED set: it waits while the job is LOADING,
for the image may be CONFIDENTIAL, and a confidential job refuses it (R427). -/
def JobInfo.shuns (i : JobInfo) (c : Cmd) : Bool := !c.sealed && (i.confidential || (i.state == .loading && (i.loadCmd.map (·.sealed)).getD false))

/-- Act with a job command on the loaded job that it names, where its port owns the job or did when it was taken (R335, R426,
R432). A job that is ENDING takes no command; while no scheduler serves, job commands wait (R444). -/
def State.onJob (s : State) (c : Cmd) (f : Nat → State → State) : State :=
  if !s.schedServes then s
  else
    let s := s.takeCmd c
    match s.slotOf c.desc.job with
    | none => s.refuseCmd c 0x0203
    | some k =>
      let i := (s.job k).info
      if !((i.owner == c.port || s.holder c == some k) && i.state != .ending) then s.refuseCmd c 0x0203
      else if !i.shuns c then f k s
      else if i.state == .loading then s.setInfo k { i with waiting := i.waiting ++ [c] }
      else s.refuseCmd c 0x0203

/-- VERSION_OK of a port (R422): the driver's version lies in sapwood's window; 0 never does, and no sapwood has none. -/
def State.versionOk (s : State) (p : Port) : Bool :=
  match s.fw.sapwood with
  | none => false
  | some w =>
    let v := (s.port p).driver.toNat
    v != 0 && decide (w.lo ≤ v) && decide (v ≤ w.hi)

end Sys2Proof.Machine
end

