-- ==== Sys2Proof/Machine/TierOps.lean ====
section
/-! DEFINITION. What the meanings share about the memory tiers (chapter 9): the peat mapping, parity assembly, regulators,
heat, the hinted cache and the ember tier. The tiers hold no values of their own (R264): job memory has one value for each
byte, and this file keeps what the managed tiers hold copies of and what they count. -/

namespace Sys2Proof.Machine

/-- An access of one core or hub unit to job memory: address, bytes, write or read, cache hint and partition (R270,
R280). -/
structure Access where
  addr  : Nat
  len   : Nat
  write : Bool := false
  hint  : Nat := 0
  part  : Nat := 0
  deriving DecidableEq, Repr

/-- The running job's tiers with its counters and its backing, the slot, the islands' clocks as they were, the later times of those looked at in
`now`, and the counter of free values, while accesses act on them. `stamps` are the islands looked at by the present access, `asks` the granules that it has asked of each island
and partition, times 9, and `homes` the physical cluster and the live ports behind each logical one. `shared` lists the logical
clusters that share their SRAM (R488) and `hosting` those whose hinted cache gives up the hosting area of R487; `down` the stacks
with pseudo-channels whose units are still rebuilt from parity at each read, but for the units in `moved`, `recon` the units so
so served, and `placed` the units that whole-unit writes relocate, by stack (R491); `hubs` the hubs whose peat controllers were
asked (R276). -/
structure Acc where
  slot  : Nat
  tiers : Tiers
  run   : JobRun
  back  : NMap Nat := []
  islands : List Nat := []
  now   : NMap Nat := []
  free  : Nat
  stamps : NMap Nat := []
  asks  : NMap Nat := []
  homes : List (Nat × List Nat) := []
  missed : Nat := 0
  shared : List Nat := []
  hosting : List Nat := []
  down  : List (Nat × Nat) := []
  recon : Nat := 0
  moved : List Nat := []
  placed : List (Nat × Nat) := []
  hubs  : List Nat := []

/-! ## Counters -/

/-- A counter in a core's window (R97, R161, R237, R258). -/
def JobRun.countCore (r : JobRun) (n off k : Nat) : JobRun := { r with ctrCore := bump r.ctrCore (n * 0x400 + off) k }

/-- A device-wide counter raised while accesses act. -/
def Acc.count (a : Acc) (off k : Nat) : Acc := { a with run := a.run.count off k }

/-- A cluster's counter raised while accesses act. -/
def Acc.countCluster (a : Acc) (c off k : Nat) : Acc := { a with run := a.run.countCluster c off k }

/-- An island's time while accesses act. -/
def Acc.time (a : Acc) (island : Nat) : Nat := NMap.getD a.now island (a.islands.getD island 0)

/-- An island's time goes on. -/
def Acc.setTime (a : Acc) (island t : Nat) : Acc := { a with now := NMap.put a.now island t }

/-- Look at an island's clock, once for each access (R25). -/
def Acc.look (a : Acc) (island : Nat) : Nat × Acc :=
  match NMap.find a.stamps island with
  | some t => (t, a)
  | none =>
    let t := a.time island + Config.elapsed a.free
    (t, { a.setTime island t with free := a.free + 1, stamps := NMap.put a.stamps island t })

/-! ## The data space and its map onto the stacks (R272 to R274) -/

/-- First byte of each region of the data space above the job reservations (R272): tags, page tables, the stream table, staged
images, firmware and the repair reserve, and the end of the space. -/
def tagBase : Nat := 5120 * 2 ^ 30
def nodeBase : Nat := 5280 * 2 ^ 30
def streamBase : Nat := 5408 * 2 ^ 30
def stagedBase : Nat := streamBase + 2 ^ 27
def firmwareBase : Nat := stagedBase + 64 * 1088 * 2 ^ 20
def reserveBase : Nat := 5504 * 2 ^ 30
def dataEnd : Nat := 5632 * 2 ^ 30

/-- Data pages of 64 KiB that job reservations may lie in (R272). -/
def dataPages : Nat := tagBase / 65536

/-- Where the tag of the sector at a data address lies (R272). -/
def tagAddr (d : Nat) : Nat := tagBase + 8 * (d / 256)

/-- Data address of a stream-table entry (R103, R272). -/
def entryData (n : Nat) : Nat := streamBase + 128 * n

/-- Data address of the staged image of a job slot (R272). -/
def stagedData (slot : Nat) : Nat := stagedBase + slot * (1088 * 2 ^ 20)

/-- Five-bit fold of a row number (R273). -/
def fold5 (x : Nat) : Nat := nfld x 0 5 ^^^ nfld x 5 5 ^^^ nfld x 10 5 ^^^ nfld x 15 5 ^^^ nfld x 20 5

/-- Where a data address lies: stack, row, pseudo-channel, stripe, and the stack of the stripe's parity unit. -/
structure Place where
  stack  : Nat
  row    : Nat
  chan   : Nat
  stripe : Nat
  parity : Nat
  deriving DecidableEq, Repr

/-- The map of a data address under the salt (R273 to R275). -/
def peatPlace (salt : W64) (d : Nat) : Place :=
  let u := d / 4096
  let r := u / 44
  let s := u % 44
  let f := fold5 (r ^^^ fld salt 0 25)
  let g := (s / 11 + f) % 4
  let dp := s % 11
  let p := (r + f) % 12
  let q := if dp < p then dp else dp + 1
  { stack := 4 * q + g, row := r, chan := nfld d 8 4 ^^^ fold5 (r ^^^ fld salt 25 25), stripe := u / 11
    parity := 4 * p + g }

/-- The 43-bit physical peat address of a data address (R273). -/
def peatAddr (salt : W64) (d : Nat) : Nat :=
  let p := peatPlace salt d
  p.stack * 2 ^ 37 + p.row * 2 ^ 12 + d % 4096

/-- The physical peat address of the parity unit of a data address's stripe (R273). -/
def parityAddr (salt : W64) (d : Nat) : Nat :=
  let p := peatPlace salt d
  p.parity * 2 ^ 37 + p.row * 2 ^ 12

/-- The data address that backs a job address: of a tensor's page, or of a pool page (R279). -/
def dataAt (back : NMap Nat) (r : JobRun) (a : Nat) : Nat :=
  (NMap.find back (a / 65536)).getD (NMap.getD r.place (a / 65536) 0) * 65536 + a % 65536

/-- The data address that backs an address of a job. -/
def Job.dataAddr (j : Job) (a : Nat) : Nat := dataAt j.backing j.run a

/-- The data address of a job address while accesses act. -/
def Acc.dataAddr (a : Acc) (x : Nat) : Nat := dataAt a.back a.run x

/-- Mask of the 16 granules of a 4 KiB unit that `len` bytes from `a` touch, all within the unit (R269). -/
def granuleMask (a len : Nat) : Nat :=
  if len = 0 then 0 else
    let lo := a % 4096 / 256
    let hi := (a % 4096 + len - 1) / 256
    2 ^ (hi + 1) - 2 ^ lo

/-- Granules of a mask. -/
def granules (mask : Nat) : Nat := ((List.range 16).filter (fun i => mask.testBit i)).length

/-- A mask less the granules of another. -/
def maskLess (mask other : Nat) : Nat := mask &&& (0xFFFF ^^^ (other &&& 0xFFFF))

/-! ## Ports and request slots (R15, R16, R263, R276) -/

/-- The hub behind a die-to-die port of a physical cluster: 1 port A, 2 port B (R15). -/
def hubOfPort (p port : Nat) : Nat := if port = 1 then p % 8 else (p + 3) % 8

/-- The die-to-die port that a request of physical cluster `p` takes to the hub of its stack: that hub's own port where the cluster
has one, else by bit 12 of the data address; the other where that port is retired (R16, R263). -/
def peatPort (p : Nat) (live : List Nat) (hub d : Nat) : Nat :=
  let want := if hub = hubOfPort p 1 then 1 else if hub = hubOfPort p 2 then 2 else if nfld d 12 1 = 0 then 1 else 2
  if live.contains want then want else live.head?.getD want

/-- The die-to-die ports of a physical cluster in service (R16). -/
def Health.livePorts (h : Health) (p : Nat) : List Nat :=
  [1, 2].filter (fun x => (h.clusters.getD p {}).ports.testBit (x - 1))

/-- Request slots of a hub (R276). -/
def hubSlots : Nat := 8192

/-- A request is outstanding: its core still waits for it, or its page still moves. -/
def PeatReq.alive (q : PeatReq) (t : Tiers) (r : JobRun) : Bool :=
  match q.owner with
  | .core n => (match (r.core n).wait with | .peat .. => true | _ => false)
  | .miss n no => (r.core n).misses.any (fun m => m.no == no)
  | .move cl page => (NMap.getD t.clusters cl {}).moves.any (fun m => m.page == page)

/-- The requests of one owner come to the hubs: those answered meanwhile have left their slots. -/
def Tiers.request (t : Tiers) (r : JobRun) (o : ReqOwner) (qs : List PeatReq) : Tiers :=
  { t with requests := t.requests.filter (fun q => q.owner != o && q.alive t r) ++ qs }

/-- Granules that other owners' requests ahead of an owner's first at a hub hold or wait for. -/
def Tiers.aheadOf (t : Tiers) (r : JobRun) (o : ReqOwner) (hub : Nat) : Nat :=
  let before := t.requests.takeWhile (fun q => !(q.owner == o && q.hub == hub))
  ((before.filter (fun q => q.hub == hub && q.alive t r)).map (·.granules)).sum

/-- A hub's request slots are all taken (R276). -/
def Tiers.hubFull (t : Tiers) (r : JobRun) (hub : Nat) : Bool :=
  decide (hubSlots ≤ ((t.requests.filter (fun q => q.hub == hub && q.alive t r)).map (·.granules)).sum)

/-- Requests of an owner hold slots at their hubs: one that finds none free waits, and is never refused (R276). -/
def Tiers.slotted (t : Tiers) (r : JobRun) (o : ReqOwner) : Bool :=
  (t.requests.filter (fun q => q.owner == o)).all (fun q => decide (t.aheadOf r o q.hub < hubSlots))

/-- The requests for a range of job memory, one for each 4 KiB unit, of a logical cluster. -/
def Acc.requestsOf (a : Acc) (o : ReqOwner) (cl addr len part : Nat) : List PeatReq :=
  let (p, live) := a.homes.getD cl (cl, [1, 2])
  if len = 0 then []
  else
    (List.range ((addr + len - 1) / 4096 + 1 - addr / 4096)).map (fun i =>
      let u := addr / 4096 + i
      let d := a.dataAddr (u * 4096)
      let hub := (peatPlace a.tiers.salt d).stack / 6
      let lo := max addr (u * 4096)
      let n := granules (granuleMask lo (min (addr + len) ((u + 1) * 4096) - lo))
      { owner := o, hub, port := peatPort p live hub d, granules := n, part })

/-! ## Regulators (R281 to R283) -/

/-- Bytes that a share moves in one window (R281). -/
def shareBytes (share window : Nat) : Nat := share * 12288 * window / 10240

/-- Bytes of a refill (R281). -/
def RegE.refill (e : RegE) : Nat := shareBytes e.guaranteed e.window

/-- A bucket as a job's start leaves it, in the window that the island's clock is in (R283). -/
def RegE.fresh (e : RegE) (t : Nat) : Bucket := { bytes := min e.refill (e.depth * 1024), window := t / e.window }

/-- A bucket at a time of the island: refilled at the start of each window since (R281). -/
def RegE.at' (e : RegE) (t : Nat) (b : Bucket) : Bucket :=
  let w := t / e.window
  if w ≤ b.window then b
  else { bytes := min (b.bytes + (w - b.window) * e.refill) (e.depth * 1024), issued := 0, window := w }

/-- A granule still fits under the window's ceiling (R281). -/
def RegE.room (e : RegE) (b : Bucket) : Bool := decide (b.issued + 256 ≤ shareBytes e.ceiling e.window)

/-- A granule may issue with tokens (R281). -/
def RegE.tokened (e : RegE) (b : Bucket) : Bool := decide (256 ≤ b.bytes) && e.room b

/-- A granule may issue by borrowing (R282). -/
def RegE.borrows (e : RegE) (b : Bucket) : Bool := e.flags.testBit 0 && e.room b

/-- A partition can issue in some window; one with no refill that may not borrow, or with a ceiling below a granule, never can. -/
def RegE.able (e : RegE) : Bool := decide (256 ≤ shareBytes e.ceiling e.window) && (e.flags.testBit 0 || e.refill != 0)

/-- When a waiting partition may next issue: at a later window's start (R281). -/
def RegE.nextAt (e : RegE) (b : Bucket) : Option Nat :=
  if !e.able then none
  else if e.flags.testBit 0 || 256 ≤ b.bytes then some ((b.window + 1) * e.window)
  else some ((b.window + cdiv (256 - b.bytes) e.refill) * e.window)

/-- A PHY island as it grants requests: its time, its buckets by partition, the partition granted last, granules waiting by
partition, and what it has counted, by register offset (R296). -/
structure Granting where
  now   : Nat
  bkt   : Nat → Bucket
  last  : Nat
  asks  : Nat → Nat
  ctr   : NMap Nat := []

/-- The next partition in round-robin order after the last one granted that satisfies `p`. -/
def Granting.turn (g : Granting) (p : Nat → Bool) : Option Nat :=
  ((List.range 9).map (fun i => (g.last + 1 + i) % 9)).find? (fun i => decide (0 < g.asks i) && p i)

/-- One granule of a partition issues. -/
def Granting.issue (g : Granting) (part : Nat) (tokened : Bool) : Granting :=
  let b := g.bkt part
  let b' := { b with bytes := if tokened then b.bytes - 256 else b.bytes, issued := b.issued + 256 }
  let ctr := bump g.ctr (0x400 + part * 0x20) 256
  { g with bkt := fun i => if i = part then b' else g.bkt i, last := part
           asks := fun i => if i = part then g.asks i - 1 else g.asks i
           ctr := if tokened then ctr else bump ctr (0x408 + part * 0x20) 256 }

/-- The waiting partitions wait until `t`: what an empty bucket and what the ceiling cost is counted (R296). -/
def Granting.await (g : Granting) (regs : List RegE) (t : Nat) : Granting :=
  let cost := fun (m : NMap Nat) (i : Nat) =>
    let e := regs.getD i {}
    let b := g.bkt i
    if g.asks i = 0 then m
    else
      let m := if b.bytes < 256 then bump m (0x410 + i * 0x20) (t - g.now) else m
      if e.room b then m else bump m (0x418 + i * 0x20) (min t ((b.window + 1) * e.window) - g.now)
  { g with now := t, bkt := fun i => (regs.getD i {}).at' t (g.bkt i), ctr := (List.range 9).foldl cost g.ctr }

/-- Grant what waits: round robin among partitions with tokens, then among those that borrow, else wait for the next window in which
one may issue (R281, R282). -/
def Granting.run (regs : List RegE) (fuel : Nat) (g : Granting) : Granting :=
  match fuel with
  | 0 => g
  | k + 1 =>
    let reg := fun (i : Nat) => regs.getD i {}
    match g.turn (fun i => (reg i).tokened (g.bkt i)) with
    | some i => Granting.run regs k (g.issue i true)
    | none =>
      match g.turn (fun i => (reg i).borrows (g.bkt i)) with
      | some i => Granting.run regs k (g.issue i false)
      | none =>
        let times := (List.range 9).filterMap (fun i => if g.asks i = 0 then none else (reg i).nextAt (g.bkt i))
        match times with
        | [] => g
        | t :: ts => Granting.run regs k (g.await regs (ts.foldl min t))

/-- Peat traffic of a partition is asked of a stack's island (R280). -/
def Acc.ask (a : Acc) (stack part n : Nat) : Acc :=
  if n = 0 then a
  else { a with asks := NMap.put a.asks (stack * 9 + part) (NMap.getD a.asks (stack * 9 + part) 0 + n)
                hubs := if a.hubs.contains (stack / 6) then a.hubs else stack / 6 :: a.hubs }

/-- The stack that holds the tags of the unit at a data address: those of its 16 sectors lie in one granule. Only the reservations
have tags (R272). -/
def tagStack (salt : W64) (d : Nat) : Option Nat := if d < tagBase then some (peatPlace salt (tagAddr d)).stack else none

/-- The tags of a unit at data address `d` go with its sectors: one granule (R272, R280; log entry 134). -/
def Acc.askTag (a : Acc) (d part : Nat) : Acc :=
  match tagStack a.tiers.salt d with
  | some st => a.ask st part 1
  | none => a

/-- One island grants what is asked of it (R281, R282, R296). -/
def Acc.grantAt (a : Acc) (regs : List RegE) (island : Nat) : Acc :=
  let asks := fun (i : Nat) => NMap.getD a.asks (island * 9 + i) 0
  let total := ((List.range 9).map asks).sum
  if total = 0 then a
  else
    let (t, a) := a.look island
    let bkt := fun (i : Nat) => let e := regs.getD i {}; e.at' t (NMap.getD a.tiers.buckets (island * 9 + i) (e.fresh t))
    let g := Granting.run regs (2 * total + 1) { now := t, bkt, last := NMap.getD a.tiers.granted island 8, asks }
    let used := (List.range 9).filter (fun i => decide (0 < asks i))
    let buckets := used.foldl (fun m i => NMap.put m (island * 9 + i) (g.bkt i)) a.tiers.buckets
    { a.setTime island g.now with
      tiers := { a.tiers with buckets, granted := NMap.put a.tiers.granted island g.last }
      run := g.ctr.foldl (fun (r : JobRun) e => r.count e.1 e.2) a.run }

/-- Every island grants what an access has asked of it. -/
def Acc.grant (a : Acc) (regs : List RegE) : Acc :=
  let a := (List.range 48).foldl (fun (a : Acc) i => a.grantAt regs i) a
  { a with asks := [], stamps := [] }

/-! ## Parity assembly (R277, R278) -/

/-- Bytes that closing an entry reads (R278). -/
def Assembly.readBytes (x : Assembly) : Nat :=
  let n := x.units.length
  let gaps := (x.units.map (fun u => 16 - granules u.2)).sum
  if n = 11 then 0 else if n + 1 ≤ 11 - n then (n + 1) * 4096 else (11 - n) * 4096 + gaps * 256

/-- What closing an entry asks of the stacks: stack, partition and granules. The units written and the parity are written whole; the
old data and parity, or the untouched units with what partly written ones lack, are read. Written data belongs to the partition that
wrote it, the rest to the write that caused it (R278). The tags of each unit go with it (R280). -/
def Assembly.traffic (x : Assembly) (salt : W64) (stripe : Nat) : List (Nat × Nat × Nat) :=
  let stack := fun (i : Nat) => (peatPlace salt ((stripe * 11 + i) * 4096)).stack
  let parity := (peatPlace salt (stripe * 11 * 4096)).parity
  let n := x.units.length
  let tag := fun (i part : Nat) => match tagStack salt ((stripe * 11 + i) * 4096) with
    | some st => [(st, part, 1)]
    | none => []
  let written := x.units.flatMap (fun u =>
    let part := NMap.getD x.parts u.1 x.part
    (stack u.1, part, 16) :: tag u.1 part)
  let read :=
    if n = 11 then []
    else if n + 1 ≤ 11 - n then (parity, x.part, 16) :: x.units.flatMap (fun u => (stack u.1, x.part, 16) :: tag u.1 x.part)
    else
      ((List.range 11).filter (fun i => (NMap.find x.units i).isNone)).flatMap (fun i => (stack i, x.part, 16) :: tag i x.part) ++
      x.units.map (fun u => (stack u.1, x.part, 16 - granules u.2))
  read ++ written ++ [(parity, x.part, 16)]

/-- A unit lies on failed pseudo-channels: those that share bit 4 of its own carry half of its stack's units (R273, R490). -/
def Place.failed (pl : Place) (mask : Nat) : Bool :=
  (List.range 32).any (fun i => mask.testBit i && i / 16 == pl.chan / 16)

/-- A unit of a stripe row as a number: its data units are 0 to 10, its parity unit 11 (R273). -/
def rowUnit (stripe i : Nat) : Nat := 12 * stripe + i

/-- The unit at data address `d` is still rebuilt from parity at each read (R491). -/
def Acc.affected (a : Acc) (pl : Place) (stack unit : Nat) : Bool :=
  a.down.any (fun x => x.1 == stack && pl.failed x.2) && !a.moved.contains unit

/-- A whole-unit write relocates an affected unit at once (R491). -/
def Acc.relocate (a : Acc) (pl : Place) (stack unit : Nat) : Acc :=
  if a.affected pl stack unit then { a with moved := unit :: a.moved, placed := a.placed ++ [(stack, unit)] } else a

/-- The units of a closing entry that are written whole, its parity unit always (R278, R491). -/
def Acc.relocateRow (a : Acc) (stripe : Nat) (x : Assembly) : Acc :=
  let at' := fun (i : Nat) => peatPlace a.tiers.salt ((stripe * 11 + i) * 4096)
  let a := x.units.foldl (fun (a : Acc) u =>
    if u.2 = 0xFFFF then a.relocate (at' u.1) (at' u.1).stack (rowUnit stripe u.1) else a) a
  a.relocate (at' 0) (at' 0).parity (rowUnit stripe 11)

/-- Close the assembly entry of a stripe: its data and parity are written (R278, R297). -/
def Acc.closeStripe (a : Acc) (stripe : Nat) : Acc :=
  match NMap.find a.tiers.asm stripe with
  | none => a
  | some x =>
    let a := { a with tiers := { a.tiers with asm := NMap.del a.tiers.asm stripe } }
    let a := if x.units.length = 11 then a.count 0x300 1 else a.count 0x308 1
    let a := a.count 0x310 x.readBytes
    ((x.traffic a.tiers.salt stripe).foldl (fun (a : Acc) q => a.ask q.1 q.2.1 q.2.2) a).relocateRow stripe x

/-- Every open entry closes. -/
def Acc.closeAll (a : Acc) : Acc := a.tiers.asm.foldl (fun (a : Acc) e => a.closeStripe e.1) a

/-- The oldest open entry of a hub. -/
def oldestEntry (asm : NMap Assembly) (hub : Nat) : Option Nat :=
  let c := asm.filter (fun e => e.2.hub == hub)
  (c.find? (fun e => c.all (fun x => decide (e.2.age ≤ x.2.age)))).map (·.1)

/-- The entry of a stripe closes where its 512 ns are over at its island: a write at exactly 512 ns opens a new one (R277). -/
def Acc.expire (a : Acc) (stripe now : Nat) : Acc :=
  match NMap.find a.tiers.asm stripe with
  | some x => if x.opened + 512 ≤ now then a.closeStripe stripe else a
  | none => a

/-- A new entry finds a place: with 256 open at the hub the oldest closes early (R277). -/
def Acc.makeRoom (a : Acc) (hub : Nat) : Acc :=
  if (a.tiers.asm.filter (fun e => e.2.hub == hub)).length < 256 then a
  else
    match oldestEntry a.tiers.asm hub with
    | some k => a.closeStripe k
    | none => a

/-- A write of granules of one unit joins its stripe's assembly entry (R277). -/
def Acc.assemble (a : Acc) (d mask part : Nat) : Acc :=
  let pl := peatPlace a.tiers.salt d
  let hub := pl.parity / 6
  let u := d / 4096 % 11
  let (now, a) := a.look pl.parity
  let a := a.expire pl.stripe now
  let isNew := (NMap.find a.tiers.asm pl.stripe).isNone
  let a := if isNew then a.makeRoom hub else a
  let x := NMap.getD a.tiers.asm pl.stripe { part, hub, opened := now, age := a.tiers.asmClock }
  let x := { x with units := NMap.put x.units u (NMap.getD x.units u 0 ||| mask)
                    parts := if (NMap.find x.parts u).isSome then x.parts else NMap.put x.parts u part }
  let t := { a.tiers with asm := NMap.put a.tiers.asm pl.stripe x
                          asmClock := if isNew then a.tiers.asmClock + 1 else a.tiers.asmClock }
  let a := { a with tiers := t }
  if x.units.length = 11 && x.units.all (fun e => e.2 == 0xFFFF) then a.closeStripe pl.stripe else a

/-- Write granules of the unit at job address `u × 4096` to the peat tier. -/
def Acc.peatWrite (a : Acc) (u mask part : Nat) : Acc := a.assemble (a.dataAddr (u * 4096)) mask part

/-! ## Reads of the peat tier (R264, R273, R277, R491) -/

/-- The granules of a unit that an open assembly entry serves (R277). -/
def Acc.openMask (a : Acc) (d : Nat) : Nat :=
  match NMap.find a.tiers.asm (d / 4096 / 11) with
  | some x => NMap.getD x.units (d / 4096 % 11) 0
  | none => 0

/-- The granules of a line that a cluster serves because it holds the line dirty (R264). -/
def Tier.dirtyMask (t : Tier) (line : Nat) : Nat :=
  let own := match NMap.find t.cache line with
    | some l => if l.dirty = 0 then 0 else l.valid
    | none => 0
  match NMap.find t.ember (line / 16) with
  | some e => if e.dirty.testBit (line % 16) then 0xFFFF else own
  | none => own

/-- A cluster holds a copy of a line (R264). -/
def Tier.copies (t : Tier) (line : Nat) : Bool :=
  (NMap.find t.cache line).isSome ||
    (match NMap.find t.ember (line / 16) with | some e => !e.gone.testBit (line % 16) | none => false)

/-- The hubs' directory: the clusters that hold a line (R264). -/
def Tiers.directory (t : Tiers) (line : Nat) : List Nat := (t.clusters.filter (fun e => e.2.copies line)).map (·.1)

/-- The granules of a line that other clusters than `cl` hold dirty and serve (R264; log entry 108). -/
def Tiers.servedBy (t : Tiers) (cl line : Nat) : Nat :=
  (t.clusters.filter (fun e => e.1 != cl)).foldl (fun m e => m ||| e.2.dirtyMask line) 0

/-- The other 11 stacks of a unit's stripe row (R273). -/
def Place.others (pl : Place) : List Nat :=
  ((List.range 12).map (fun q => 4 * q + pl.stack % 4)).filter (fun s => s != pl.stack)

/-- Read granules of the unit at job address `u × 4096`, for cluster `cl` or, from 32 on, a hub: from the open entry that holds them,
from a cluster that holds the line dirty, else from the stack; a unit on a failed part is rebuilt from the other 11 of its row. -/
def Acc.peatRead (a : Acc) (cl u mask part : Nat) : Acc :=
  let d := a.dataAddr (u * 4096)
  let left := maskLess mask (a.openMask d ||| a.tiers.servedBy cl u)
  if left = 0 then a
  else
    let pl := peatPlace a.tiers.salt d
    if a.affected pl pl.stack (rowUnit (d / 4096 / 11) (d / 4096 % 11)) then
      (pl.others.foldl (fun (a : Acc) s => a.ask s part 16) { a with recon := a.recon + 1 }).askTag d part
    else (a.ask pl.stack part (granules left)).askTag d part

/-! ## Heat and promotion (R265, R266) -/

/-- Entries of a heat table (R265). -/
def heatSize : Nat := 32768

/-- The tracked non-resident entry with the lowest count, the first entered among equals (R265). A page on its way into the tier
stays tracked. -/
def Tier.coldest (t : Tier) : Option (Nat × Nat) :=
  let c := t.heat.filter (fun h => (NMap.find t.ember h.1).isNone && t.moves.all (fun m => m.page != h.1))
  c.find? (fun h => c.all (fun x => decide (h.2 ≤ x.2)))

/-- An access raises a page's heat; a page not yet tracked enters (R265). -/
def Tier.warm (t : Tier) (page : Nat) : Tier :=
  match t.heat.find? (fun h => h.1 == page) with
  | some _ => { t with heat := t.heat.map (fun h => if h.1 == page then (h.1, min 255 (h.2 + 1)) else h) }
  | none =>
    if t.heat.length < heatSize then { t with heat := t.heat ++ [(page, 1)] }
    else
      match t.coldest with
      | some v => { t with heat := t.heat.filter (fun h => h.1 != v.1) ++ [(page, 1)] }
      | none => t

/-- A page's heat. -/
def Tier.heatOf (t : Tier) (page : Nat) : Nat := ((t.heat.find? (fun h => h.1 == page)).map (·.2)).getD 0

/-- Page slots of a cluster's ember tier (R45). -/
def Image.emberSlots (i : Image) (cl : Nat) : Nat := (16 - i.cacheUnits.getD cl 16) * 1024

/-- The slots that a cluster has: half of them while two logical clusters share the SRAM (R45, R488). -/
def Acc.slots (a : Acc) (i : Image) (cl : Nat) : Nat :=
  if a.shared.contains cl then i.emberSlots cl / 2 else i.emberSlots cl

/-- The victim of a promotion (R266). -/
def Tier.victim (t : Tier) (demote : Nat) : Option Nat :=
  let c := t.ember.filter (fun e => !e.2.pinned && decide (t.heatOf e.1 ≤ demote) &&
    t.moves.all (fun m => m.victim != some e.1))
  (c.find? (fun e => c.all (fun x => decide (t.heatOf e.1 ≤ t.heatOf x.1)))).map (·.1)

/-- A tier of the running job. -/
def Tiers.tier (t : Tiers) (cl : Nat) : Tier := NMap.getD t.clusters cl {}

/-- Replace a tier. -/
def Tiers.setTier (t : Tiers) (cl : Nat) (x : Tier) : Tiers := { t with clusters := NMap.put t.clusters cl x }

/-- Replace a tier while accesses act. -/
def Acc.setTier (a : Acc) (cl : Nat) (x : Tier) : Acc := { a with tiers := a.tiers.setTier cl x }

/-- Promote a page whose heat reaches the threshold, if a slot can be had (R266, R267). -/
def Acc.tryPromote (a : Acc) (i : Image) (cl page part : Nat) : Acc :=
  let t := a.tiers.tier cl
  let begin := fun (victim : Option Nat) =>
    let a := a.setTier cl { t with moves := t.moves ++ [{ page, victim, part }] }
    { a with tiers := a.tiers.request a.run (.move cl page) (a.requestsOf (.move cl page) cl (page * 65536) 65536 part) }
  if (NMap.find t.ember page).isSome || decide (t.heatOf page < i.promote) || t.moves.any (fun m => m.page == page) ||
      decide (16 ≤ t.moves.length) then a
  else
    let used := t.ember.length + (t.moves.filter (fun m => m.victim.isNone)).length
    if used < a.slots i cl then begin none
    else
      match t.victim i.demote with
      | some v => begin (some v)
      | none => a.countCluster cl 0x28 1

/-! ## The hinted cache (R269 to R271) -/

/-- The tensor whose addresses hold a byte (R269). -/
def Image.tensorAt (i : Image) (a : Nat) : Option Nat :=
  let n := i.tensors.findIdx (fun t => t.addr != 0 && decide (t.addr ≤ a) && decide (a < t.addr + t.pages * 65536))
  if n < i.tensors.length then some n else none

/-- Instructions from a core's present one to the next that uses a tensor, wrapping at the program's end (R271). -/
def CoreSec.nextUse (c : CoreSec) (insn tensor : Nat) : Option Nat :=
  let n := c.progLen / 16
  let ds := (c.uses.filter (fun u => u.2 == tensor)).map (fun u => if insn ≤ u.1 then u.1 - insn else u.1 + n - insn)
  ds.foldl (fun m d => match m with | some x => some (min x d) | none => some d) none

/-- The least next use of a tensor over the busy cores of a cluster (R271). -/
def nextUseIn (i : Image) (r : JobRun) (cl tensor : Nat) : Option Nat :=
  let ds := (r.cores.filter (fun e => e.1 / 16 == cl)).filterMap (fun e => (i.sec e.1).nextUse e.2.insn tensor)
  ds.foldl (fun m d => match m with | some x => some (min x d) | none => some d) none

/-- The place of a line in the order of victims: class, then farthest next use, then lowest way (R271). -/
def Line.rank (l : Line) (i : Image) (r : JobRun) (cl : Nat) : Nat × Nat × Nat :=
  let use := match l.tensor with
    | none => (2, 0)
    | some t => match nextUseIn i r cl t with
      | none => (1, 0)
      | some d => (3, 2 ^ 32 - min d (2 ^ 32))
  if l.victim then (0, 0, l.way) else (use.1 + (if l.keep then 4 else 0), use.2, l.way)

/-- Lexicographic order of ranks. -/
def rankLe (a b : Nat × Nat × Nat) : Bool :=
  decide (a.1 < b.1) || (a.1 == b.1 && (decide (a.2.1 < b.2.1) || (a.2.1 == b.2.1 && decide (a.2.2 ≤ b.2.2))))

/-- Sets of a cluster's hinted cache: half of them while the SRAM is shared, less 8 MiB while cores are hosted (R45, R269,
R487, R488). -/
def Acc.cacheSets (a : Acc) (i : Image) (cl : Nat) : Nat :=
  let n := i.cacheUnits.getD cl 2 * 1024
  let n := if a.shared.contains cl then n / 2 else n
  if a.hosting.contains cl then n - 128 else n

/-- The set of a line (R269; log entry 12). -/
def Acc.setOf (a : Acc) (i : Image) (cl line : Nat) : Nat := Config.cacheSet line % a.cacheSets i cl

/-- Drop a line: dirty granules are written back, and a unit fetched ahead and not yet used counts as unused (R271,
R295). -/
def Acc.evict (a : Acc) (cl line : Nat) (l : Line) : Acc :=
  let t := a.tiers.tier cl
  let a := a.setTier cl { t with cache := NMap.del t.cache line }
  let unused := a.run.cores.any (fun e => e.1 / 16 == cl && e.2.ahead.any (fun u => u / 4096 == line))
  let a := if unused then
      let drop := fun (c : Core) => { c with ahead := c.ahead.filter (fun u => u / 4096 != line) }
      let cores := a.run.cores.map (fun e => if e.1 / 16 = cl then (e.1, drop e.2) else e)
      { a with run := { a.run with cores } }.countCluster cl 0x40 1
    else a
  if l.dirty = 0 then a
  else (a.countCluster cl 0x30 (256 * granules l.dirty)).peatWrite line l.dirty l.part

/-- Put a line into its set, evicting where the set is full (R271). -/
def Acc.install (a : Acc) (i : Image) (cl line : Nat) (l : Line) : Acc :=
  let t := a.tiers.tier cl
  let same := t.cache.filter (fun e => a.setOf i cl e.1 == a.setOf i cl line && e.1 != line)
  let used := same.map (fun e => e.2.way)
  match (List.range 16).find? (fun w => !used.contains w) with
  | some w => a.setTier cl { t with cache := NMap.put t.cache line { l with way := w } }
  | none =>
    match same.find? (fun e => same.all (fun x => rankLe (e.2.rank i a.run cl) (x.2.rank i a.run cl))) with
    | none => a
    | some v =>
      let a := a.evict cl v.1 v.2
      let t := a.tiers.tier cl
      a.setTier cl { t with cache := NMap.put t.cache line { l with way := v.2.way } }

/-- What a hint leaves on a line that was accessed (R270). -/
def Line.hinted (l : Line) (hint : Nat) : Line :=
  match hint with
  | 2 => { l with keep := true }
  | 3 => { l with keep := false, victim := true }
  | _ => l

/-- Serve an access to granules of one line from the hinted cache or the peat tier (R269, R270). -/
def Acc.cached (a : Acc) (i : Image) (cl line mask : Nat) (x : Access) : Acc :=
  let t := a.tiers.tier cl
  let alloc := x.hint == 0 || x.hint == 2
  match NMap.find t.cache line with
  | some l =>
    let miss := mask &&& (0xFFFF ^^^ l.valid)
    let a := if x.write || miss == 0 then a.countCluster cl 0x08 1
      else { (a.countCluster cl 0x10 1).peatRead cl line miss x.part with missed := a.missed + 1 }
    let l := { l with valid := l.valid ||| mask, dirty := if x.write then l.dirty ||| mask else l.dirty
                      part := if x.write then x.part else l.part, victim := l.victim && x.hint == 1 }.hinted x.hint
    let t := a.tiers.tier cl
    if x.hint = 3 && l.dirty = 0 then a.setTier cl { t with cache := NMap.del t.cache line }
    else a.setTier cl { t with cache := NMap.put t.cache line l }
  | none =>
    let a := { a.countCluster cl 0x10 1 with missed := a.missed + 1 }
    if alloc then
      let a := if x.write then a else a.peatRead cl line mask x.part
      a.install i cl line (({ valid := mask, dirty := if x.write then mask else 0, tensor := i.tensorAt (line * 4096)
                              part := x.part } : Line).hinted x.hint)
    else if x.write then a.peatWrite line mask x.part
    else a.peatRead cl line mask x.part

/-- A cluster's copy of a line is invalidated, its dirty bytes written back first (R264; log entry 108). -/
def Acc.invalidate (a : Acc) (line cl : Nat) : Acc :=
  let a := match NMap.find (a.tiers.tier cl).cache line with
    | some l => a.evict cl line l
    | none => a
  let t := a.tiers.tier cl
  match NMap.find t.ember (line / 16) with
  | none => a
  | some e =>
    let bit := 2 ^ (line % 16)
    if e.gone.testBit (line % 16) then a
    else
      let wet := e.dirty.testBit (line % 16)
      let a := a.setTier cl { t with
        ember := NMap.put t.ember (line / 16) { e with gone := e.gone ||| bit, dirty := maskLess e.dirty bit } }
      if wet then (a.countCluster cl 0x30 4096).peatWrite line 0xFFFF e.part else a

/-- A write invalidates every other cluster's copy of the line, as the directory names them (R264). -/
def Acc.invalidateOthers (a : Acc) (cl line : Nat) : Acc :=
  ((a.tiers.directory line).filter (fun c => c != cl)).foldl (fun (a : Acc) c => a.invalidate line c) a

/-- One lookup of one line by a unit of a cluster (R263, R265, R266). -/
def Acc.lookup (a : Acc) (i : Image) (cl line mask : Nat) (x : Access) : Acc :=
  let page := line / 16
  let t := a.tiers.tier cl
  let t := { t with accesses := t.accesses + 1 }
  let pinned := ((NMap.find t.ember page).map (·.pinned)).getD false
  let t := if pinned || x.hint == 1 then t else t.warm page
  let a := a.setTier cl t
  let a := if x.write then a.invalidateOthers cl line else a
  let t := a.tiers.tier cl
  match NMap.find t.ember page with
  | some e =>
    if e.gone.testBit (line % 16) then a.cached i cl line mask x
    else
      let e := if x.write then { e with dirty := e.dirty ||| 2 ^ (line % 16), part := x.part } else e
      (a.setTier cl { t with ember := NMap.put t.ember page e }).countCluster cl 0x00 1
  | none => (a.cached i cl line mask x).tryPromote i cl page x.part

/-- The lines of an access, one after another. -/
def Acc.lines (a : Acc) (i : Image) (cl : Nat) (x : Access) (fuel at' left : Nat) : Acc :=
  match fuel with
  | 0 => a
  | k + 1 =>
    if left = 0 then a
    else
      let n := min left (4096 - at' % 4096)
      (a.lookup i cl (at' / 4096) (granuleMask at' n) x).lines i cl x k (at' + n) (left - n)

/-- One access by a unit of a cluster. -/
def Acc.access (a : Acc) (i : Image) (cl : Nat) (x : Access) : Acc :=
  (a.lines i cl x (x.len / 4096 + 2) x.addr x.len).grant i.regs

/-- The lines of a hub-side access: a write invalidates every cluster's copy and goes to the peat tier, a read is served from a
cluster that holds the line dirty, else from the peat tier (R264, R290). -/
def Acc.hubLines (a : Acc) (write : Bool) (part fuel at' left : Nat) : Acc :=
  match fuel with
  | 0 => a
  | k + 1 =>
    if left = 0 then a
    else
      let n := min left (4096 - at' % 4096)
      let line := at' / 4096
      let a := if write then (a.invalidateOthers 32 line).peatWrite line (granuleMask at' n) part
        else a.peatRead 32 line (granuleMask at' n) part
      a.hubLines write part k (at' + n) (left - n)

/-- Units of the data space outside the reservations are written by the firmware (R71, R272, R280). -/
def Acc.dataLines (a : Acc) (part fuel at' left : Nat) : Acc :=
  match fuel with
  | 0 => a
  | k + 1 =>
    if left = 0 then a
    else
      let n := min left (4096 - at' % 4096)
      (a.assemble at' (granuleMask at' n) part).dataLines part k (at' + n) (left - n)

/-! ## On the state -/

/-- Logical clusters for which something holds. -/
def clustersWith (p : Nat → Bool) : List Nat := (List.range 32).filter p

/-- What accesses of the job in slot `k` begin with. -/
def State.accFor (s : State) (k : Nat) : Acc :=
  let h := s.health
  let at' := fun (n : Nat) => h.map.getD n {}
  let shares := fun (n : Nat) => (List.range h.map.length).any (fun m => m != n && at' m == at' n)
  { slot := k, tiers := s.tiers, run := (s.job k).run, back := (s.job k).backing, islands := s.islands, free := s.freeCtr
    homes := (List.range 32).map (fun cl => let p := (at' (16 * cl)).cluster; (p, h.livePorts p))
    shared := clustersWith (fun cl => (h.clusters.getD (at' (16 * cl)).cluster {}).guest.isSome)
    hosting := clustersWith (fun cl => (List.range 16).any (fun i => shares (16 * cl + i)))
    down := h.hbm.zipIdx.filterMap (fun (x : Stack × Nat) => if x.1.unbuilt = 0 then none else some (x.2, x.1.unbuilt))
    moved := h.moved }

/-- Units of the repair reserve (R480, R496). -/
def reserveUnits : Nat := 2 ^ 25

/-- Usable capacity in 4 KiB units with nothing lost (R30, R285). -/
def usableUnits : Nat := 5120 * 2 ^ 18

/-- Units of data space that no held reservation covers and that do not wait to be scrubbed (R472, R491). -/
def State.freeUnits (s : State) : Nat :=
  usableUnits - s.health.lost / 4096 - s.sec.scrub / 4096 -
    ((s.jobs.filter (fun j => j.info.state.loaded && j.info.state != .ending)).map (fun j => j.image.peatUnits * 512)).sum

/-- A unit of a stack finds its place in the repair reserve, else in free data space, else nowhere as yet (R491). -/
def State.placeUnit (s : State) (e : Nat × Nat) : State :=
  let h := s.health
  let x := h.hbm.getD e.1 {}
  let h' := { h with moved := e.2 :: h.moved, hbm := h.hbm.set e.1 { x with left := x.left - 1 } }
  if h.repairUsed < reserveUnits then { s with health := { h' with repairUsed := h.repairUsed + 1 } }
  else if 0 < s.freeUnits then { s with health := { h' with lost := h.lost + 4096 } }
  else s

/-- Let accesses act on the tiers and counters of the job in slot `k`. -/
def State.onTiers (s : State) (k : Nat) (f : Image → Acc → Acc) : State :=
  let j := s.job k
  let a := (f j.image (s.accFor k)).grant j.image.regs
  let h := { s.health with ctr := bump s.health.ctr 0x48 a.recon }
  let islands := s.islands.zipIdx.map (fun (e : Nat × Nat) => NMap.getD a.now e.2 e.1)
  let s := { s.setJob k { j with run := a.run } with tiers := a.tiers, freeCtr := a.free, health := h, islands }
  a.placed.foldl State.placeUnit s

/-- Accesses ask for slots of a hub that has none free: they wait on its handshake (R21, R276). -/
def State.noSlot (s : State) (k : Nat) (f : Image → Acc → Acc) : Bool :=
  let r := (s.job k).run
  !s.tiers.requests.isEmpty && (f (s.job k).image (s.accFor k)).hubs.any (s.tiers.hubFull r)

/-- Where the commit journal keeps its `n`th unit in the firmware area (R272, R354). -/
def journalData (n : Nat) : Nat := firmwareBase + Config.journalUnit n % ((reserveBase - firmwareBase) / 4096) * 4096

/-- The units just journalled are copied: a read and a write of 4 KiB each, charged to the partition of the write that caused
it (R354). -/
def State.journalCopies (s : State) (k part : Nat) : State :=
  let j := s.job k
  if j.copied.isEmpty then s
  else
    let first := j.journal.length - j.copied.length
    (s.setJob k { j with copied := [] }).onTiers k (fun _ a => j.copied.zipIdx.foldl (fun (a : Acc) e =>
      (a.peatRead 32 e.1 0xFFFF part).dataLines part 2 (journalData (first + e.2)) 4096) a)

/-- A core's accesses, in order. -/
def Acc.accesses (a : Acc) (i : Image) (n : Nat) (xs : List Access) : Acc := xs.foldl (fun a x => a.access i (n / 16) x) a

/-- The accesses of a core's instruction, in order, and the journal copies that its writes cause. -/
def State.accesses (s : State) (k n : Nat) (xs : List Access) : State :=
  if xs.isEmpty then s
  else
    (s.journalCopies k (((xs.find? (·.write)).map (·.part)).getD 0)).onTiers k
      (fun i a => a.accesses i n xs)

/-- A hub-side access to the running job's memory (R264, R280, R290). -/
def State.hubAccess (s : State) (k : Nat) (write : Bool) (part at' len : Nat) : State :=
  if s.sched.running == some k && len != 0 then s.onTiers k (fun _ a => a.hubLines write part (len / 4096 + 2) at' len) else s

/-- A hub-side write, and the journal copies that it causes. -/
def State.hubWrite (s : State) (k part at' len : Nat) : State := (s.journalCopies k part).hubAccess k true part at' len

/-- Host writes through BAR2 that waited take effect in order, once a commit point has emptied the journal (R354, R423) or withheld data is
good again; those of part of a unit that is still withheld wait on (R492). -/
def State.releaseHeld (s : State) (k : Nat) : State :=
  let ws := (s.job k).heldWrites
  ws.foldl (fun (s : State) w =>
      let j := s.job k
      if j.blocked w.1 w.2.length true then s.setJob k { j with heldWrites := j.heldWrites ++ [w] }
      else if s.sched.running == some k then (s.setJob k (j.hostWrite w.1 w.2)).hubWrite k 5 w.1 w.2.length
      else s.setJob k (j.fill w.1 w.2))
    (s.setJob k { s.job k with heldWrites := [] })

/-- A hub-side read. -/
def State.hubRead (s : State) (k part at' len : Nat) : State := s.hubAccess k false part at' len

/-- Hub-side reads of some ranges. -/
def State.hubReads (s : State) (k part : Nat) (xs : List (Nat × Nat)) : State :=
  xs.foldl (fun (s : State) x => s.hubRead k part x.1 x.2) s

/-- The firmware reads `n` granules of its own area at a data address: charged to partition 8 of the running job (R48, R280). -/
def State.firmwareRead (s : State) (d n : Nat) : State :=
  match s.sched.running with
  | some k => s.onTiers k (fun _ a => a.ask (peatPlace a.tiers.salt d).stack 8 n)
  | none => s

/-- The firmware writes to its own area of the data space: charged to partition 8 of the running job, unregulated where none runs
(R71, R280, R283). -/
def State.firmwareWrite (s : State) (d len : Nat) : State :=
  match s.sched.running with
  | some k => if len = 0 then s else s.onTiers k (fun _ a => a.dataLines 8 (len / 4096 + 2) d len)
  | none => s

/-- The firmware writes to the memory of a job that is not the running one, as it fires it (R71, R339). -/
def State.firmwareFill (s : State) (j : Job) (at' len : Nat) : State :=
  (List.range (if len = 0 then 0 else (at' + len - 1) / 4096 + 1 - at' / 4096)).foldl (fun (s : State) n =>
    let u := (at' / 4096 + n) * 4096
    let lo := max at' u
    s.firmwareWrite (j.dataAddr lo) (min (at' + len) (u + 4096) - lo)) s

/-- The requests of a unit that a core begins to wait for go to the hubs (R276, R288). -/
def State.askUnit (s : State) (k n a len part : Nat) : State :=
  { s with tiers := s.tiers.request (s.job k).run (.core n) ((s.accFor k).requestsOf (.core n) (n / 16) a len part) }

/-- The browse misses of a core that are new go to the hubs (R217, R276). -/
def State.askMisses (s : State) (k n : Nat) : State :=
  let r := (s.job k).run
  let (p, live) := (s.accFor k).homes.getD (n / 16) (n / 16, [1, 2])
  let ask := fun (t : Tiers) (m : Miss) =>
    if t.requests.any (fun q => q.owner == .miss n m.no) then t
    else
      let hub := m.chan / 32 / 6
      t.request r (.miss n m.no) [{ owner := .miss n m.no, hub, port := peatPort p live hub m.data, granules := 1, part := 3 }]
  { s with tiers := (r.core n).misses.foldl ask s.tiers }

/-- The peat tier may answer what an owner has asked: it holds its slots, and its partition can issue (R276, R281). -/
def State.mayAnswer (s : State) (k : Nat) (o : ReqOwner) (part : Nat) : Bool :=
  s.tiers.slotted (s.job k).run o && ((s.job k).image.regs.getD part {}).able

/-! ## Whole pages (R267, R279, R289) -/

/-- A page leaves a cluster's tiers. -/
def Tier.dropPage (t : Tier) (page : Nat) : Tier :=
  { t with ember := NMap.del t.ember page, heat := t.heat.filter (fun h => h.1 != page)
           cache := t.cache.filter (fun l => l.1 / 16 != page)
           moves := t.moves.filter (fun m => m.page != page && m.victim != some page) }

/-- The data units of a page leave their assembly entries; an entry left with none is gone. -/
def dropUnits (asm : NMap Assembly) (u n : Nat) : NMap Assembly :=
  match n with
  | 0 => asm
  | k + 1 =>
    let asm := match NMap.find asm (u / 11) with
      | none => asm
      | some x =>
        let units := NMap.del x.units (u % 11)
        if units.isEmpty then NMap.del asm (u / 11) else NMap.put asm (u / 11) { x with units }
    dropUnits asm (u + 1) k

/-- Units fetched ahead by the cores and not yet used whose page is `page` are gone and count as unused (R289, R295). -/
def JobRun.dropAhead (r : JobRun) (page : Nat) : JobRun :=
  let hit := fun (c : Core) => (c.ahead.filter (fun u => u / 65536 == page)).length
  let r := r.cores.foldl (fun (r : JobRun) e => r.countCluster (e.1 / 16) 0x40 (hit e.2)) r
  { r with cores := r.cores.map (fun e => (e.1, { e.2 with ahead := e.2.ahead.filter (fun u => u / 65536 != page) })) }

/-- A freed page leaves every tier without write-back; `place` is the data page that backed it when it was freed, none where that
page has been given on (R289). -/
def Acc.dropPage (a : Acc) (page : Nat) (place : Option Nat) : Acc :=
  let t := a.tiers
  { a with
    tiers := { t with clusters := t.clusters.map (fun e => (e.1, e.2.dropPage page))
                      asm := match place with | some q => dropUnits t.asm (q * 16) 16 | none => t.asm }
    run := a.run.dropAhead page }

/-- The 16 units of a page are read from, or written to, the peat tier, for cluster `cl` or a hub. -/
def Acc.wholePage (a : Acc) (write : Bool) (cl page part : Nat) : Acc :=
  (List.range 16).foldl (fun a i =>
    if write then a.peatWrite (page * 16 + i) 0xFFFF part else a.peatRead cl (page * 16 + i) 0xFFFF part) a

/-- A cluster holds bytes of a page that the peat tier does not have. -/
def Tier.dirtyPage (t : Tier) (page : Nat) : Bool :=
  (match NMap.find t.ember page with | some e => e.dirty != 0 | none => false) ||
    t.cache.any (fun l => l.1 / 16 == page && l.2.dirty != 0)

/-- A cluster's copies of a page are clean. -/
def Tier.cleanPage (t : Tier) (page : Nat) : Tier :=
  { t with ember := t.ember.map (fun e => if e.1 = page then (e.1, { e.2 with dirty := 0 }) else e)
           cache := t.cache.map (fun l => if l.1 / 16 = page then (l.1, { l.2 with dirty := 0 }) else l) }

/-- A filled key-value page is written to the peat tier (R279). -/
def Acc.flushPage (a : Acc) (page : Nat) : Acc :=
  let a := match a.tiers.clusters.find? (fun e => e.2.dirtyPage page) with
    | some e => a.countCluster e.1 0x30 65536
    | none => a
  let clusters := a.tiers.clusters.map (fun e => (e.1, e.2.cleanPage page))
  ({ a with tiers := { a.tiers with clusters } } : Acc).wholePage true 32 page 2

/-- A page leaves the ember tier: its dirty pieces are written back (R267). -/
def Acc.demote (a : Acc) (cl page : Nat) : Acc :=
  let t := a.tiers.tier cl
  match NMap.find t.ember page with
  | none => a
  | some e =>
    let dirty := (List.range 16).filter (fun k => e.dirty.testBit k)
    let a := a.setTier cl { t with ember := NMap.del t.ember page }
    let a := (a.countCluster cl 0x20 1).countCluster cl 0x30 (4096 * dirty.length)
    dirty.foldl (fun a k => a.peatWrite (page * 16 + k) 0xFFFF e.part) a

/-- A promotion of a page completes: its victim leaves, cached lines are merged into the copy, and the page is served from
the ember tier (R267). -/
def Acc.moveDone (a : Acc) (cl page : Nat) : Acc :=
  let t := a.tiers.tier cl
  match t.moves.find? (fun m => m.page == page) with
  | none => a
  | some m =>
    if !a.tiers.slotted a.run (.move cl page) then a else
    let a := a.setTier cl { t with moves := t.moves.filter (fun x => x.page != page) }
    let a := match m.victim with
      | some v => a.demote cl v
      | none => a
    let a := a.wholePage false cl page m.part
    let t := a.tiers.tier cl
    let lines := t.cache.filter (fun l => l.1 / 16 == page)
    let dirty := lines.foldl (fun d l => if l.2.dirty = 0 then d else d ||| 2 ^ (l.1 % 16)) 0
    let part := ((lines.find? (fun l => l.2.dirty != 0)).map (fun l => l.2.part)).getD m.part
    let t := { t with cache := t.cache.filter (fun l => l.1 / 16 != page)
                      ember := NMap.put t.ember page { dirty, part } }
    (a.setTier cl t).countCluster cl 0x18 1

/-- The pages of a pinned entry (R57). -/
def Image.pinnedPages (i : Image) (p : PinE) : List Nat :=
  (List.range p.pages).map (fun n => (i.tensors.getD p.tensor {}).addr / 65536 + p.off / 65536 + n)

/-- Dirty lines and pieces of a cluster are written back; its copies stay, clean (R291, R353). -/
def Acc.cleanTier (a : Acc) (cl : Nat) : Acc :=
  let t := a.tiers.tier cl
  let a := t.cache.foldl (fun (a : Acc) e =>
    if e.2.dirty = 0 then a
    else (a.countCluster cl 0x30 (256 * granules e.2.dirty)).peatWrite e.1 e.2.dirty e.2.part) a
  let a := t.ember.foldl (fun (a : Acc) e =>
    ((List.range 16).filter (fun k => e.2.dirty.testBit k)).foldl (fun (a : Acc) k =>
      (a.countCluster cl 0x30 4096).peatWrite (e.1 * 16 + k) 0xFFFF e.2.part) a) a
  let t := a.tiers.tier cl
  a.setTier cl { t with ember := t.ember.map (fun p => (p.1, { p.2 with dirty := 0 }))
                        cache := t.cache.map (fun l => (l.1, { l.2 with dirty := 0 })) }

/-- Dirty SRAM of every cluster is written back. -/
def Acc.cleanAll (a : Acc) : Acc := (a.tiers.clusters.map (·.1)).foldl (fun (a : Acc) cl => a.cleanTier cl) a

/-- All that the tiers hold of a job reaches the peat tier, and every open stripe closes (R291). -/
def State.drainTiers (s : State) (k : Nat) : State := s.onTiers k (fun _ a => a.cleanAll.closeAll)

/-- Every bucket as a job's start or resume leaves it (R283). -/
def freshBuckets (regs : List RegE) (islands : List Nat) : NMap Bucket :=
  (List.range 48).flatMap (fun p => (List.range 9).map (fun i => (p * 9 + i, (regs.getD i {}).fresh (islands.getD p 0))))

/-- Pinned pages are loaded into their cluster's ember tier, and the buckets start afresh (R268, R283). Those that a shared SRAM has
no slot for are placed by heat (R488). The reads are weights (log entry 108). -/
def State.loadPinned (s : State) (k : Nat) : State :=
  let i := (s.job k).image
  let pinned := fun (e : Nat × ClusterSec) => (e.2.pins.flatMap i.pinnedPages).take ((s.accFor k).slots i e.1)
  let put := fun (t : Tiers) (e : Nat × ClusterSec) =>
    let x := t.tier e.1
    t.setTier e.1 { x with ember := (pinned e).foldl (fun m p => NMap.put m p { pinned := true }) x.ember }
  let s := { s with tiers := i.clusters.foldl put { s.tiers with buckets := freshBuckets i.regs s.islands } }
  s.onTiers k (fun _ a => i.clusters.foldl (fun (a : Acc) e =>
    (pinned e).foldl (fun (a : Acc) p => a.wholePage false e.1 p 0) a) a)

end Sys2Proof.Machine
end

