-- ==== Sys2Proof/Machine/Program.lean ====
section
/-! DEFINITION. The words of a command program (R200 to R204, R207, R216, R219, R357): the encoder of each format, and the
decoder that firing checks programs with. -/

namespace Sys2Proof.Machine

/-! ## Encodings -/

/-- Format S (R202). -/
def wordS (op : Nat) (f : FmtS) : Nat :=
  op + 2 ^ 8 * f.rd + 2 ^ 13 * f.ra + 2 ^ 18 * f.rb + 2 ^ 23 * f.cond + 2 ^ 64 * f.imm.toNat

/-- Format C (R203). -/
def wordC (op : Nat) (f : FmtC) : Nat := op + 2 ^ 8 * f.reg + 2 ^ 16 * f.chan + 2 ^ 64 * f.imm.toNat

/-- Format M (R357). -/
def wordM (op : Nat) (f : FmtM) : Nat :=
  op + 2 ^ 8 * f.ra + 2 ^ 13 * f.rb + 2 ^ 18 * f.rc + 2 ^ 23 * f.rd + 2 ^ 40 * f.sem + 2 ^ 68 * f.semb +
    2 ^ 96 * f.imm.toNat

/-- Format A (R204). -/
def wordA (op : Nat) (f : FmtA) : Nat :=
  op + 2 ^ 16 * f.operand + 2 ^ 32 * f.ctrl + 2 ^ 48 * f.span + 2 ^ 64 * f.prec.toNat

/-- Format V (R207). -/
def wordV (op : Nat) (f : FmtV) : Nat :=
  op + 2 ^ 11 * f.type + 2 ^ 14 * f.bcast + 2 ^ 16 * f.count + 2 ^ 32 * f.dst + 2 ^ 37 * f.src1 + 2 ^ 42 * f.src2 +
    2 ^ 47 * f.src3 + 2 ^ 52 * f.mreg + 2 ^ 58 * b2n f.masked + 2 ^ 59 * b2n f.minv + 2 ^ 60 * b2n f.pgt +
    2 ^ 64 * f.rowlen + 2 ^ 83 * f.creg + 2 ^ 88 * f.aux + 2 ^ 96 * f.imm.toNat

/-- Format B (R219). -/
def wordB (op : Nat) (f : FmtB) : Nat :=
  op + 2 ^ 11 * f.type + 2 ^ 14 * b2n f.idx64 + 2 ^ 16 * f.count + 2 ^ 32 * f.data + 2 ^ 37 * f.idx + 2 ^ 42 * f.base +
    2 ^ 47 * f.rows + 2 ^ 52 * f.mreg + 2 ^ 58 * b2n f.masked + 2 ^ 59 * b2n f.minv + 2 ^ 64 * f.stride +
    2 ^ 83 * f.creg + 2 ^ 88 * f.hint + 2 ^ 96 * f.rowbytes

/-- Format I (R216). -/
def wordI (op : Nat) (f : FmtI) : Nat :=
  op + 2 ^ 8 * f.cmd + 2 ^ 16 * f.desc + 2 ^ 21 * f.caddr + 2 ^ 26 * f.pred + 2 ^ 31 * f.res + 2 ^ 36 * b2n f.notify +
    2 ^ 37 * b2n f.pneg

/-! ## Decoding -/

/-- Format S fields. -/
def fieldsS (w : Nat) : FmtS :=
  { rd := nfld w 8 5, ra := nfld w 13 5, rb := nfld w 18 5, cond := nfld w 23 4, imm := BitVec.ofNat 64 (nfld w 64 64) }

/-- Format C fields. -/
def fieldsC (w : Nat) : FmtC := { reg := nfld w 8 5, chan := nfld w 16 16, imm := BitVec.ofNat 64 (nfld w 64 64) }

/-- Format M fields. -/
def fieldsM (w : Nat) : FmtM :=
  { ra := nfld w 8 5, rb := nfld w 13 5, rc := nfld w 18 5, rd := nfld w 23 5, sem := nfld w 40 12
    semb := nfld w 68 12, imm := BitVec.ofNat 32 (nfld w 96 32) }

/-- Format A fields. -/
def fieldsA (w : Nat) : FmtA :=
  { prec := BitVec.ofNat 64 (nfld w 64 64), span := nfld w 48 5, ctrl := nfld w 32 16, operand := nfld w 16 16 }

/-- Format V fields. -/
def fieldsV (w : Nat) : FmtV :=
  { imm := BitVec.ofNat 32 (nfld w 96 32), aux := nfld w 88 8, creg := nfld w 83 5, rowlen := nfld w 64 15
    pgt := w.testBit 60, minv := w.testBit 59, masked := w.testBit 58, mreg := nfld w 52 5, src3 := nfld w 47 5
    src2 := nfld w 42 5, src1 := nfld w 37 5, dst := nfld w 32 5, count := nfld w 16 14, bcast := nfld w 14 2
    type := nfld w 11 3 }

/-- Format B fields. -/
def fieldsB (w : Nat) : FmtB :=
  { rowbytes := nfld w 96 32, hint := nfld w 88 2, creg := nfld w 83 5, stride := nfld w 64 15, minv := w.testBit 59
    masked := w.testBit 58, mreg := nfld w 52 5, rows := nfld w 47 5, base := nfld w 42 5, idx := nfld w 37 5
    data := nfld w 32 5, count := nfld w 16 14, idx64 := w.testBit 14, type := nfld w 11 3 }

/-- Format I fields. -/
def fieldsI (w : Nat) : FmtI :=
  { pneg := w.testBit 37, notify := w.testBit 36, res := nfld w 31 5, pred := nfld w 26 5, caddr := nfld w 21 5
    desc := nfld w 16 5, cmd := nfld w 8 8 }

/-- Fields of a scalar opcode within their stated values (R202). -/
def okS (op : Nat) (f : FmtS) : Bool :=
  (if op = 0x06 ∨ op = 0x0C then decide (f.cond ≤ 6) else if op = 0x0A then decide (f.cond ≤ 7) else f.cond == 0) &&
  (if op = 0x0D then decide (1 ≤ f.rd) && decide (f.rd ≤ 29) else true)

/-- Fields of a semaphore opcode within their stated values (R357). -/
def okM (op : Nat) (f : FmtM) : Bool :=
  match op with
  | 0x18 => f.rc == 0 && f.rd == 0 && f.semb == 0
  | 0x1A => f.rb == 0 && f.rc == 0 && f.semb == 0
  | 0x1C => true
  | _ => f.rb == 0 && f.rc == 0 && f.rd == 0 && f.semb == 0

/-- Fields of an array, attention, scan or convolution opcode within their stated values (R204, R244, R247). -/
def okA (op : Nat) (f : FmtA) : Bool :=
  match op with
  | 0x20 => f.span == 0 && f.ctrl == 0xFFFF && f.operand != 0xFFFF
  | 0x21 => f.ctrl != 0xFFFF && f.operand != 0xFFFF
  | 0x22 => f.ctrl != 0xFFFF && f.operand != 0xFFFF
  | 0x23 => f.span == 0 && f.prec == 0 && f.ctrl != 0xFFFF && f.operand == 0xFFFF
  | 0x30 => f.span == 0 && f.prec == 0 && f.ctrl != 0xFFFF && f.operand == 0xFFFF
  | _ => f.span == 0 && f.ctrl != 0xFFFF && f.operand != 0xFFFF

/-- Types that a vector opcode takes (R208, R214). -/
def okType (op ty : Nat) : Bool :=
  if decide (0x49 ≤ op) && decide (op ≤ 0x4D) then decide (3 ≤ ty) && decide (ty ≤ 5)
  else if decide (0x50 ≤ op) && decide (op ≤ 0x55) then decide (ty < 3)
  else if op = 0x5B then ty == 3
  else if op = 0x80 then ty == 0
  else decide (ty ≤ 5)

/-- AUX of a vector opcode within its stated values (R208, R214, R215, R252). -/
def okAux (op aux : Nat) : Bool :=
  match op with
  | 0x4C => decide (aux < 32)
  | 0x4D => decide (aux < 32)
  | 0x58 => decide (aux ≤ 6)
  | 0x5A => decide (aux % 16 ≤ 5) && decide (aux < 32)
  | 0x68 => decide (aux < 4)
  | 0x69 => decide (aux < 4)
  | 0x80 => decide (aux < 8)
  | 0x82 => decide (aux < 4)
  | 0x81 => true
  | 0x40 => aux % 128 == 0
  | 0x41 => aux % 128 == 0
  | 0x42 => aux % 128 == 0
  | _ => aux == 0

/-- Fields of a vector opcode within their stated values (R207, R214, R252). -/
def okV (op : Nat) (f : FmtV) : Bool :=
  okType op f.type && okAux op f.aux &&
  (if f.bcast = 2 ∨ f.bcast = 3 then decide (1 ≤ f.rowlen) && decide (f.rowlen ≤ 16384) else f.rowlen == 0) &&
  (if op = 0x80 then !f.masked && f.bcast == 0 && f.creg == 0 && !f.pgt && decide (f.count < 64) else true) &&
  (if op = 0x82 then !f.masked && f.bcast == 0 && f.creg == 0 && !f.pgt && f.count == 0 else true)

/-- Fields of a browse opcode within their stated values (R219). -/
def okB (op : Nat) (f : FmtB) : Bool :=
  decide (4 ≤ f.rowbytes) && decide (f.rowbytes ≤ 65536) && f.rowbytes % 4 == 0 && decide (1 ≤ f.stride) &&
  decide (f.rowbytes ≤ 4 * f.stride) && (if op = 0x92 then decide (f.type ≤ 5) else f.type == 0)

/-- A decoded word where it has no bit outside its fields and its fields are within their values (R200). -/
def given (w enc : Nat) (ok : Bool) (i : Instr) : Option Instr := if enc = w && ok then some i else none

/-- A scalar, channel or semaphore word. -/
def decodeLow (n w op : Nat) : Option Instr :=
  let s := fieldsS w
  let c := fieldsC w
  let m := fieldsM w
  let gs := fun (i : Instr) => given w (wordS op s) (okS op s) i
  let gc := fun (i : Instr) => given w (wordC op c) true i
  let gm := fun (i : Instr) => given w (wordM op m) (okM op m) i
  match op with
  | 0x01 => gs (.sli n s) | 0x02 => gs (.sadd n s) | 0x03 => gs (.smul n s) | 0x04 => gs (.sand n s)
  | 0x05 => gs (.sshr n s) | 0x06 => gs (.scmp n s) | 0x08 => gs (.sld n s) | 0x09 => gs (.sst n s)
  | 0x0A => gs (.spg n s) | 0x0C => gs (.br n s) | 0x0D => gs (.next n s)
  | 0x10 => gc (.send n c) | 0x11 => gc (.recv n c) | 0x12 => gc (.free n c)
  | 0x18 => gm (.signal n m) | 0x19 => gm (.wait n m) | 0x1A => gm (.sread n m) | 0x1B => gm (.sset n m)
  | 0x1C => gm (.rpass n m)
  | _ => none

/-- An array, attention, scan, browse or issue word. -/
def decodeMid (n w op : Nat) : Option Instr :=
  let a := fieldsA w
  let b := fieldsB w
  let i := fieldsI w
  let ga := fun (x : Instr) => given w (wordA op a) (okA op a) x
  let gb := fun (x : Instr) => given w (wordB op b) (okB op b) x
  match op with
  | 0x20 => ga (.matmul n a) | 0x21 => ga (.qk n a) | 0x22 => ga (.pv n a) | 0x23 => ga (.append n a)
  | 0x24 => ga (.conv n a) | 0x25 => ga (.fconv n a) | 0x30 => ga (.scan n a)
  | 0x90 => gb (.bgather n b) | 0x91 => gb (.bscatter n b) | 0x92 => gb (.bscatadd n b)
  | 0xA0 => given w (wordI op i) (i.cmd == 0x10 || i.cmd == 0x12 || i.cmd == 0x13) (.issue n i)
  | _ => none

/-- A vector, transform, selection or pooling word. -/
def decodeVec (n w op : Nat) : Option Instr :=
  let f := fieldsV w
  let g := fun (i : Instr) => given w (wordV op f) (okV op f) i
  match op with
  | 0x40 => g (.vadd n f) | 0x41 => g (.vsub n f) | 0x42 => g (.vmul n f) | 0x43 => g (.vfma n f)
  | 0x44 => g (.vfnma n f) | 0x45 => g (.vmax n f) | 0x46 => g (.vmin n f) | 0x47 => g (.vabs n f)
  | 0x48 => g (.vneg n f) | 0x49 => g (.vand n f) | 0x4A => g (.vor n f) | 0x4B => g (.vxor n f)
  | 0x4C => g (.vshl n f) | 0x4D => g (.vshr n f) | 0x50 => g (.vdiv n f) | 0x51 => g (.vsqrt n f)
  | 0x52 => g (.vrsqrt n f) | 0x53 => g (.vrecip n f) | 0x54 => g (.vexp n f) | 0x55 => g (.vlog n f)
  | 0x58 => g (.vcmp n f) | 0x59 => g (.vsel n f) | 0x5A => g (.vcvt n f) | 0x5B => g (.vrand n f)
  | 0x60 => g (.vsum n f) | 0x61 => g (.vrmax n f) | 0x62 => g (.vrmin n f) | 0x68 => g (.vld n f)
  | 0x69 => g (.vst n f) | 0x6A => g (.vcopy n f) | 0x80 => g (.vfft n f) | 0x81 => g (.vtopk n f)
  | 0x82 => g (.pool n f)
  | _ => none

/-- The instruction that a 16 B word of core `n`'s program spells; none where firing refuses it (R200). -/
def decodeInsn (n w : Nat) : Option Instr :=
  let op := w % 256
  if op < 0x20 then decodeLow n w op
  else if decide (0x40 ≤ op) && decide (op < 0x90) then decodeVec n w op
  else decodeMid n w op

/-! ## The program in place (R199, R523) -/

/-- The 16 B word at an instruction index. -/
def CoreSec.wordAt (c : CoreSec) (insn : Nat) : Nat := leNat ((c.code.drop (16 * insn)).take 16)

/-- Instructions of a program. -/
def CoreSec.length (c : CoreSec) : Nat := c.progLen / 16

/-- Bytes of the PROGRAM region at a region offset: program and block data (R523). -/
def CoreSec.block (c : CoreSec) (off n : Nat) : NMap Byte := memWrite [] 0 ((c.code.drop off).take n)

/-- A field of `n` bytes of a block. -/
def blockWord (b : NMap Byte) (off n : Nat) : Nat := memWord b off n

end Sys2Proof.Machine
end

