-- ==== Sys2Proof/Machine/HealthOps.lean ====
section
/-! DEFINITION. What the meanings share about health (chapter 16): health events and their counts, the margin and the
forecast, the map from logical to physical units, core moves, and withheld data. -/

namespace Sys2Proof.Machine

/-! ## The map (R14 to R20, R481, R484, R496) -/

/-- Number of bits set among the lowest `n`. -/
def ones (n m : Nat) : Nat := ((List.range n).filter (fun i => m.testBit i)).length

/-- Replace a physical cluster. -/
def Health.setCluster (h : Health) (p : Nat) (c : PhysCluster) : Health := { h with clusters := h.clusters.set p c }

/-- The number of a physical core (R494). -/
def coreNum (cluster core : Nat) : Nat := 17 * cluster + core

/-- The physical core that a logical core is placed on. -/
def Health.placed (h : Health) (n : Nat) : Nat := coreNum (h.map.getD n {}).cluster (h.map.getD n {}).core

/-- The logical cores that a physical core serves. -/
def Health.serves (h : Health) (u : Nat) : List Nat := (List.range h.map.length).filter (fun n => h.placed n == u)

/-- Physical cores of a cluster that serve a logical core. -/
def Health.coresServing (h : Health) (p : Nat) : List Nat :=
  (List.range 17).filter (fun i => !(h.serves (coreNum p i)).isEmpty)

/-- Woodpile cores of a cluster: in service, serving none and not held for verification (R14, R85). -/
def Health.woodCores (h : Health) (p : Nat) : List Nat :=
  (List.range 17).filter (fun i =>
    !(h.cluster p).retired.testBit i && (h.serves (coreNum p i)).isEmpty && !h.verifying.contains (coreNum p i))

/-- The woodpile clusters that are not yet spoken for (R14, R485, R486). -/
def Health.woodClusters (h : Health) : List Nat :=
  (List.range h.clusters.length).filter (fun p =>
    (h.cluster p).state == 0 && h.replace.all (fun r => r.physical != p) && h.migrate.all (fun m => m.2 != p))

/-- The woodpile clusters (R14, R496). -/
def Health.woodpile (h : Health) : List Nat := (List.range h.clusters.length).filter (fun p => (h.cluster p).state == 0)

/-- Accumulator banks of a physical core in service (R94). -/
def Health.banks (h : Health) (u : Nat) : Nat := 8 - ones 8 (NMap.getD h.banksOut u 0)

/-- Accumulator banks in service of a logical core (R94, R496 BANKS). -/
def State.banksOf (s : State) (n : Nat) : Nat := s.health.banks (s.health.placed n)

/-- A logical core shares its physical core (R487, R496 HOSTED). -/
def Health.hosted (h : Health) (n : Nat) : Bool := decide (1 < (h.serves (h.placed n)).length)

/-- The physical cluster that serves a logical one. -/
def Health.home (h : Health) (cl : Nat) : Nat := (h.map.getD (16 * cl) {}).cluster

/-- Two logical clusters share one physical cluster (R488). -/
def Health.shared (h : Health) (cl : Nat) : Bool := (h.cluster (h.home cl)).guest.isSome

/-- A logical core has its physical core: where two share it, they take turns, the lower number first (R487). -/
def State.onTurn (s : State) (n : Nat) : Bool :=
  let u := s.health.placed n
  match s.health.serves u with
  | [] => true
  | [_] => true
  | m :: _ => NMap.getD s.health.turns u m == n

/-- The hub whose ring-pass engine serves a core: that of its cluster's port A, or of port B where that engine is retired
(R15, R357, R490). -/
def State.hubOf (s : State) (n : Nat) : Nat :=
  let p := (s.health.map.getD n {}).cluster
  if s.health.engines.testBit (p % 8) then p % 8 else (p + 3) % 8

/-- The firmware core that controls a logical cluster (R434). -/
def State.fwCore (s : State) (n : Nat) : FwCore := s.fw.cores.getD n {}

/-- A cluster takes a batch: its control core runs, or the batch stood in its hardware queue of 16 batches as the core
crashed (R434, R444). -/
def State.clusterServes (s : State) (cl seen id : Nat) : Bool :=
  let c := s.fwCore (6 + cl)
  c.state == 2 || (decide (id < c.queued) && decide (id < seen + 16))

/-! ## Telemetry (R490, R494 to R496) -/

/-- A health counter raised (R496). -/
def State.healthCount (s : State) (off n : Nat) : State :=
  { s with health := { s.health with ctr := bump s.health.ctr off n } }

/-- Twins with a standby (R434, R495). -/
def State.standbys (s : State) : Nat :=
  ([0, 2, 4].filter (fun k => [k, k + 1].any (fun n => (s.fwCore n).role == 2 && (s.fwCore n).state == 2))).length

/-- Power feeds that are good (R494). -/
def State.feedsGood (s : State) : Nat := 2 - b2n s.power.lostA - b2n s.power.lostB

/-- The whole woodpile's cores: those of clusters in service (R480). -/
def Health.woodTotal (h : Health) : Nat :=
  (((List.range h.clusters.length).filter (fun p => (h.cluster p).inService)).map (fun p => (h.woodCores p).length)).sum

/-- The physical cores that serve jobs. -/
def Health.servingCores (h : Health) : List Nat :=
  (List.range h.clusters.length).flatMap (fun p => (h.coresServing p).map (coreNum p))

/-- Units of a kind in service, and spares of the kind left (R480, R494). -/
def State.unitCounts (s : State) (kind : Nat) : Nat × Nat :=
  let h := s.health
  let live := h.clusters.filter PhysCluster.inService
  match kind with
  | 1 => (h.servingCores.length, h.woodTotal)
  | 2 => ((h.servingCores.map h.banks).sum, 0)
  | 3 => (live.length, h.woodClusters.length)
  | 4 => ((live.map (fun c => ones 2 c.ports)).sum, 0)
  | 5 => ((h.hbm.map (fun x => 32 - ones 32 x.failed)).sum, (reserveUnits - h.repairUsed) / 2 ^ 24)
  | 6 => ((h.hbm.filter (fun x => decide (ones 32 x.failed < 32))).length, (reserveUnits - h.repairUsed) / 2 ^ 25)
  | 7 => ((s.links.map (·.width)).sum, (s.links.filter (fun l => l.spare.isSome)).length)
  | 8 => ((s.links.filter (fun l => l.state == .up)).length, 0)
  | 9 => ((s.codecs.filter (·.inService)).length, 0)
  | 10 => (ones 8 h.engines, 0)
  | 11 => (((s.fw.cores.take 38).filter (fun c => c.state == 2)).length, s.standbys)
  | 13 => ((h.clusters.map (fun c => min 10 (12 - ones 12 c.phasesOut))).sum,
      (h.clusters.map (fun c => 2 - ones 12 c.phasesOut)).sum + (h.hubPhasesOut.map (fun m => 3 - ones 16 m)).sum)
  | 14 => (s.feedsGood, 0)
  | _ => (2, 0)

/-- Nanoseconds of 365 days (R494). -/
def yearNs : Nat := 365 * 86400 * 10 ^ 9

/-- The module's time of service as island 98 counts it (R495). -/
def State.service (s : State) : Nat := s.health.began + s.islands.getD 98 0

/-- Spares drawn in the last 365 days (R494). -/
def State.drawnYear (s : State) : Nat := (s.health.drawn.filter (fun t => decide (s.service < t + yearNs))).length

/-- A headline figure of R26 to R31 is below its value: fewer than 512 cores or 32 clusters serve, or a core, bank, port,
stack, link, codec engine or ring-pass engine is lost with nothing in its place, or a link runs on four lanes (R31, R32, R495). -/
def State.reduced (s : State) : Bool :=
  let h := s.health
  decide ((s.unitCounts 1).1 < 512) || decide ((s.unitCounts 3).1 < 32) || h.servingCores.any (fun u => decide (h.banks u < 8)) ||
    decide ((s.unitCounts 4).1 < 64) || h.lost != 0 || h.hbm.any (fun x => x.state == 1) ||
    s.links.any (fun l => l.state == .retired || l.width == 4) || s.codecs.any (fun e => !e.inService) || h.engines != 0xFF ||
    h.clusters.any (fun c => c.inService && decide (2 < ones 12 c.phasesOut))

/-- The margin class (R495). -/
def State.marginClass (s : State) : Nat :=
  let h := s.health
  if h.exhausted then 4
  else if s.reduced then 3
  else if h.woodClusters.isEmpty || decide (reserveUnits < h.repairUsed + 2 ^ 24) || decide (s.feedsGood < 2) ||
      decide (s.standbys < 3) then 2
  else if h.drawn.isEmpty then 0 else 1

/-! ## Health events (R493, R494, R496) -/

/-- A job event of this chapter (R493). -/
def jobHealth (code : Nat) : Bool := code == 0x0F04 || code == 0x0F05 || code == 0x0F06

/-- A health event is counted and logged, stamped at island 98 and never merged (R493, R496, R497). -/
def State.logEvent (s : State) (e : Event) : State :=
  let (t, s) := s.look 98
  let h := s.health
  { s with
    health := { h with ctr := bump h.ctr 0x18 1, log := NMap.put h.log (h.logCount.toNat % 128) (e.bytes 0 t)
                       logCount := h.logCount + 1 } }

/-- A health event: a job event goes to the home set of the job in slot `k`; a device event to every set with DEVICE_EVENTS,
and to the home set of a job it names that is not one of them (R493). -/
def State.healthEvent (s : State) (k : Option Nat) (e : Event) : State :=
  match k with
  | none => (s.logEvent e).deviceEvent e
  | some k =>
    let i := (s.job k).info
    let e := { e with job := i.id }
    let s := s.logEvent e
    let r := s.ring i.owner i.homeSet
    if jobHealth e.code then s.jobEvent k e
    else if r.enabled && bit r.control 2 then s.deviceEvent e
    else (s.deviceEvent e).jobEvent k e

/-- The MARGIN_FORECAST event (R493 to R495). The days are a projection that the manual leaves to the P6: a free value
(log entry 7), but all ones where nothing has been drawn. -/
def State.forecastEvent (s : State) : State :=
  let h := s.health
  let (v, s) := s.fresh
  let days := if s.drawnYear = 0 then 0xFFFFFFFF else v % 2 ^ 32
  let rails := (h.clusters.filter (fun c => c.phasesOut == 0)).length + (h.hubPhasesOut.filter (· == 0)).length
  let a := h.woodTotal + h.woodClusters.length * 2 ^ 8 + (s.links.filter (fun l => l.spare.isSome)).length * 2 ^ 16 +
    (reserveUnits - h.repairUsed) * 100 / reserveUnits * 2 ^ 24 + rails * 2 ^ 32 + s.feedsGood * 2 ^ 40 +
    s.standbys * 2 ^ 42 + s.marginClass * 2 ^ 48
  let b := BitVec.ofNat 64 (days + s.drawnYear * 2 ^ 32)
  let s := { s with health := { s.health with forecast := b } }
  s.healthEvent none { code := 0x0F03, job := 0, a := BitVec.ofNat 64 a, b }

/-- SPARE_USED (0x0F01), CAPACITY_REDUCED (0x0F02) or UNIT_RETURNED (0x0F0F) of a unit, and the forecast that follows the
first two (R493, R494). A spare drawn is recorded in the health history (R495). -/
def State.unitEvent (s : State) (code kind action unit logical sub : Nat) : State :=
  let s := if code = 0x0F01 then { s with health := { s.health with drawn := s.health.drawn ++ [s.service] } } else s
  let c := s.unitCounts kind
  let a := kind + action * 2 ^ 8 + unit * 2 ^ 16 + logical * 2 ^ 32 + sub * 2 ^ 48
  let s := s.healthEvent none { code, job := 0, a := BitVec.ofNat 64 a, b := BitVec.ofNat 64 (c.1 + c.2 * 2 ^ 32) }
  if code = 0x0F0F then s else s.forecastEvent

/-- RECOVERED: a unit's work goes on (R493, R494). The time it cost is free (log entry 7). -/
def State.recovered (s : State) (kind means unit us seq : Nat) : State :=
  let (v, s) := s.fresh
  s.healthEvent none
    { code := 0x0F07, job := 0, a := BitVec.ofNat 64 (kind + means * 2 ^ 8 + unit * 2 ^ 16 + v % 2 ^ 32 * 2 ^ 32)
      b := BitVec.ofNat 64 (us % 2 ^ 32 + seq % 2 ^ 32 * 2 ^ 32) }

/-- A FLASH event (R493, R494): copy 0 primary, 1 mirror; action 1 failed, 2 rewritten. -/
def State.flashEvent (s : State) (copy action : Nat) : State :=
  s.healthEvent none { code := 0x0F0E, job := 0, a := BitVec.ofNat 64 (copy + action * 2 ^ 8), b := 0 }

/-! ## Core moves (R59, R62, R484, R487) -/

/-- What a core keeps as its work moves to another physical core, or yields it: its live set and its INPUT and HALO slots,
with its program read in again (R62, R484, R487). -/
def CoreSec.carried (c : CoreSec) (x : Core) : Core :=
  let slots := x.scratch.filter (fun e => c.regions.any (fun r =>
    (r.kind == 1 || r.kind == 5) && decide (r.off ≤ e.1) && decide (e.1 < r.off + r.size)))
  let base := ((c.regions.find? (fun r => r.kind == 0)).map (·.off)).getD 0
  let live := c.keep x
  let scratch := slots.foldl (fun m e => memPut m e.1 e.2) live.scratch
  { live with scratch := memWrite scratch base c.code, cells := none, tally := [], groupsOn := 0, ramping := false, inCmd := false, arrived := [], misses := []
              wait := if x.wait.midway then .run else x.wait, ahead := [] }

/-- The running job's part on a core, where it has one, moves with it. -/
def State.carry (s : State) (n : Nat) : State :=
  match s.sched.running with
  | none => s
  | some k =>
    let j := s.job k
    match NMap.find j.run.cores n with
    | none => s
    | some c => s.setJob k { j with run := j.run.setCore n ((j.image.sec n).carried c) }

/-- A logical core is placed on a physical core (R19, R20). -/
def State.place1 (s : State) (n p core : Nat) : State :=
  { s.carry n with health := { s.health with map := s.health.map.set n { cluster := p, core } } }

/-- The stage of logical core `n` moves to the lowest woodpile core of its cluster, with all 8 banks where `full` asks for
them (R96, R484): the move is counted and the spare drawn; none where no such core is free. -/
def State.takeSpare (s : State) (n : Nat) (full : Bool) : Option State :=
  let p := (s.health.map.getD n {}).cluster
  match (s.health.woodCores p).find? (fun i => !full || s.health.banks (coreNum p i) == 8) with
  | none => none
  | some i =>
    some (((s.place1 n p i).healthCount 0x60 1).unitEvent 0x0F01 1 1 (coreNum p i) n 0)

/-- A move to a woodpile core of a stage whose state is readable, reported as RECOVERED (R484, R494). -/
def State.moveToSpare (s : State) (n : Nat) (full : Bool) : Option State :=
  let old := s.health.placed n
  (s.takeSpare n full).map (fun (t : State) => t.recovered 1 2 old 0 0)

/-! ## Soft start (R86) -/

/-- With the last bit of a pass entered and no pass ready, an array's column groups are disabled one after another: how many
remain when the next pass is ready is free (R86, log entry 41). -/
def State.drainArray (s : State) (n : Nat) : State :=
  let v := Config.groupsLeft s.freeCtr
  let s := { s with freeCtr := s.freeCtr + 1 }
  match s.sched.running with
  | none => s
  | some k =>
    let j := s.job k
    let c := j.run.core n
    s.setJob k { j with run := j.run.setCore n { c with groupsOn := min c.groupsOn v } }

/-! ## Requests that wait (R444) -/

/-- A retirement is recorded in the health history, through heartwood: while no security core serves it waits (R436, R444, R481). -/
def State.noteRetired (s : State) (u : UnitId) : State :=
  if s.roleServes 0 then { s with flash := { s.flash with retired := s.flash.retired ++ [u] } } else s.hold (.retire u)

/-- The control core of a physical cluster's logical cluster is down, so that remaps in it wait (R444). -/
def State.remapWaits (s : State) (p : Nat) : Bool :=
  (s.health.cluster p).inService && (s.fwCore (6 + (s.health.cluster p).logical)).state != 2

/-! ## Tally and residue failures (R84, R85, R91) -/

/-- A second failure within one command holds the physical core for verification, and the stage moves to a woodpile core where
there is one (R85, R213); the move waits while the cluster's control core is down (R444). -/
def State.holdFailed (s : State) (n failures : Nat) : State :=
  let u := s.health.placed n
  if failures < 2 || s.health.verifying.contains u then s
  else
    let s := { s with health := { s.health with verifying := s.health.verifying ++ [u] } }
    if s.remapWaits (s.health.map.getD n {}).cluster then s.hold (.spare n) else (s.moveToSpare n false).getD s

/-- A core's array is held for verification and no woodpile core has taken its stage: its array commands run on the fawn path
(R85, R91). -/
def State.onFawn (s : State) (n : Nat) : Bool := s.health.verifying.contains (s.health.placed n)

/-- The tally and residue failures that the array command about to run meets. The check of its streamed bits against the tally column
always holds of what the cells compute (`tallySum_eq_columnSum`), so a mismatch comes from a fault alone, and the number of
failures is free (R84, log entry 37). -/
def State.failures (s : State) : Nat × Nat := Config.checkFailures s.freeCtr

/-- The command fails twice and its cluster has no woodpile core: its run that publishes is on the fawn path (R85). -/
def State.failsOver (s : State) (n : Nat) : Bool :=
  decide (2 ≤ s.failures.1 + s.failures.2) && (s.health.woodCores (s.health.map.getD n {}).cluster).isEmpty

/-- A vector instruction of a logical core has completed: how many of its beat groups failed their check is free (R213, log
entry 43). Each was discarded and run again, and is counted. -/
def State.vecChecks (s : State) (n : Nat) : State :=
  let f := Config.groupFailures s.freeCtr
  let s := { s with freeCtr := s.freeCtr + 1 }
  ((s.healthCount 0x30 f).healthCount 0x20 f).holdFailed n f

/-! ## Routes (R15, R16, R56, R525) -/

/-- The two hubs of a cluster (R15). -/
def hubsOf (p : Nat) : List Nat := [hubOfPort p 1, hubOfPort p 2]

/-- Traffic that belongs to one port takes the other where it is retired (R16). -/
def Health.portInUse (h : Health) (p port : Nat) : Nat :=
  let live := h.livePorts p
  if live.contains port then port else live.head?.getD port

/-- Mesh hops between two positions of the 4 by 5 mesh (R66). -/
def meshHops (a b : Nat) : Nat := (a / 5 - b / 5) + (b / 5 - a / 5) + ((a % 5 - b % 5) + (b % 5 - a % 5))

/-- The mesh position of a die-to-die port (R66). -/
def portPlace (port : Nat) : Nat := 16 + port

/-- The end of a channel that lies in a cluster, and its other end. -/
def ChanE.ends (e : ChanE) (cl : Nat) : Nat × Nat :=
  if e.producer / 16 = cl then (e.producer, e.consumer) else (e.consumer, e.producer)

/-- The port that the P6 chooses for one end of a channel: of those in service, one whose hub the other end's cluster also reaches,
then the fewer mesh hops from the core's nominal position, then port A (R56; log entry 107). -/
def Health.choosePort (h : Health) (e : ChanE) (cl : Nat) : Nat :=
  let (here, there) := e.ends cl
  let p := h.home cl
  let q := h.home (there / 16)
  let live := h.livePorts p
  let met := live.filter (fun x => (h.livePorts q).any (fun y => hubOfPort q y == hubOfPort p x))
  let able := if met.isEmpty then live else met
  let hops := fun (x : Nat) => meshHops (here % 16) (portPlace x)
  ((able.find? (fun x => able.all (fun y => decide (hops x ≤ hops y))))).getD 1

/-- The number by which a job keeps the choice of one route entry. -/
def routeKey (cl ch : Nat) : Nat := 8192 * cl + ch

/-- The route entries of a cluster that leave the port to the P6 (R56). -/
def Image.freeRoutes (i : Image) (cl : Nat) : List Nat :=
  ((NMap.getD i.clusters cl {}).routes.filter (fun r => r.port == 3)).map (fun r => routeKey cl r.chan)

/-- The channel holds a transfer in flight (R56). -/
def Job.inFlight (j : Job) (ch : Nat) : Bool := (NMap.getD j.run.chans ch {}).transfers.any (fun t => !t.arrived)

/-- The choices that are due are made, but for channels that hold a transfer in flight: those stay due (R56). -/
def Job.settleRoutes (h : Health) (j : Job) : Job :=
  let late := j.routesDue.filter (fun k => j.inFlight (k % 8192))
  let now := j.routesDue.filter (fun k => !j.inFlight (k % 8192))
  let choose := fun (m : NMap Nat) (k : Nat) => NMap.put m k (h.choosePort (j.image.chans.getD (k % 8192) {}) (k / 8192))
  { j with routes := now.foldl choose j.routes, routesDue := late }

/-- The choices of one cluster's route entries are made anew (R56). -/
def Job.rechoose (h : Health) (j : Job) (cl : Nat) : Job :=
  let ks := (j.image.freeRoutes cl).filter (fun k => !j.routesDue.contains k)
  ({ j with routesDue := j.routesDue ++ ks } : Job).settleRoutes h

/-- Every loaded job's choices for a remapped cluster are made anew (R56). -/
def State.rechoose (s : State) (cl : Nat) : State := { s with jobs := s.jobs.map (fun j => j.rechoose s.health cl) }

/-- The port that a route entry's traffic takes: 0 inside the cluster, else the one named or chosen, or the other where that one
is retired (R16, R56). -/
def State.routePort (s : State) (j : Job) (cl : Nat) (r : RouteE) : Nat :=
  let named := if r.port = 3 then NMap.getD j.routes (routeKey cl r.chan) 1 else r.port
  if named = 0 then 0 else s.health.portInUse (s.health.home cl) named

/-- The mesh route table of a physical cluster: for each logical cluster that it serves, the running job's route entries with the
port that each takes. At most 1,024 for each of two logical clusters (R525). -/
def State.meshTable (s : State) (p : Nat) : List (Nat × RouteE) :=
  match s.runningJob with
  | none => []
  | some k =>
    let j := s.job k
    ((List.range 32).filter (fun cl => s.health.home cl == p)).flatMap (fun cl =>
      (NMap.getD j.image.clusters cl {}).routes.map (fun r => (cl, { r with port := s.routePort j cl r })))

/-- The hub route table of a hub: the running job's channels whose route crosses it, one entry each (R525). -/
def State.hubTable (s : State) (hub : Nat) : List Nat :=
  let crossed := (List.range 34).flatMap (fun p =>
    ((s.meshTable p).filter (fun e => e.2.port != 0 && hubOfPort p e.2.port == hub)).map (fun e => e.2.chan))
  (crossed.insertionSort (fun a b => a ≤ b)).eraseDups

/-- Place all 16 logical cores of a cluster on the lowest physical cores in service of another. -/
def State.placeCluster (s : State) (cl p : Nat) : State :=
  let good := (List.range 17).filter (fun i => !(s.health.cluster p).retired.testBit i)
  (List.range 16).foldl (fun s k => s.place1 (16 * cl + k) p (good.getD k 16)) s

/-- A logical cluster's tiers start with its pinned pages and all else cold (R291, R486). -/
def State.coldTier (s : State) (cl : Nat) : State :=
  match s.sched.running with
  | none => s
  | some k =>
    let i := (s.job k).image
    let pins := ((NMap.getD i.clusters cl {}).pins.flatMap i.pinnedPages).take ((s.accFor k).slots i cl)
    let t : Tier := { ember := pins.foldl (fun m p => NMap.put m p { pinned := true }) [] }
    { s with tiers := s.tiers.setTier cl t }

/-- A cluster leaves the woodpile: cores 38 and 39 stand for the control cores of the woodpile clusters left, in ascending order (R434;
log entry 143). -/
def State.leaveWood (s : State) (p : Nat) : State :=
  let i := s.health.woodpile.findIdx (· == p)
  let cs := s.fw.cores
  if i < s.health.woodpile.length then
    let cs := if i = 0 then cs.set 38 (cs.getD 39 {}) else cs
    { s with fw := { s.fw with cores := cs.set 39 { state := 0, role := 0 } } }
  else s

/-- The control core of a woodpile cluster that enters service takes the number of the logical cluster that it serves (R434). -/
def State.takeControl (s : State) (cl p : Nat) : State :=
  let c := s.fw.cores.getD (38 + s.health.woodpile.findIdx (· == p)) {}
  let s := s.leaveWood p
  { s with fw := { s.fw with cores := s.fw.cores.set (6 + cl) c } }

/-- A logical cluster moves to a physical one that was in the woodpile. -/
def State.moveCluster (s : State) (cl p : Nat) : State :=
  let s := s.takeControl cl p
  let old := s.health.home cl
  let s := (s.placeCluster cl p).coldTier cl
  let h := s.health
  let h := h.setCluster old { h.cluster old with state := 4 }
  ({ s with health := h.setCluster p { h.cluster p with state := 1, logical := cl } } : State).rechoose cl

/-- The clusters that wait to be migrated move at the commit point (R486). -/
def State.migrateClusters (s : State) : State :=
  let ms := s.health.migrate
  let s := ms.foldl (fun (s : State) m =>
    let old := s.health.home m.1
    (s.moveCluster m.1 m.2).recovered 3 2 old 0 0) s
  { s with health := { s.health with migrate := [] } }

/-! ## Withheld data (R456, R492) -/

/-- A range of job addresses meets a withheld unit. -/
def Job.withheld (j : Job) (a len : Nat) : Bool :=
  j.lost.any (fun u => decide (u * 4096 < a + len) && decide (a < (u + 1) * 4096))

/-- A range of the job in slot `k` meets a withheld unit. -/
def State.withheld (s : State) (k a len : Nat) : Bool := (s.job k).withheld a len

/-- DATA_LOST or DATA_RESTORED of a unit of a job (R493, R494). -/
def State.dataEvent (s : State) (code k u means : Nat) : State :=
  let id := (s.job k).info.id
  s.healthEvent (some k)
    { code, job := 0, b := BitVec.ofNat 64 (u * 4096)
      a := BitVec.ofNat 64 ((s.job k).dataAddr (u * 4096) / 4096 % 2 ^ 32 + id % 2 ^ 16 * 2 ^ 32 + means * 2 ^ 48) }

/-- A unit is withheld from now on, and DATA_LOST names it and its job (R492). -/
def State.loseData (s : State) (k u : Nat) : State :=
  let j := s.job k
  if j.lost.contains u then s else (s.setJob k { j with lost := j.lost ++ [u] }).dataEvent 0x0F08 k u 0

end Sys2Proof.Machine
end

