-- ==== Sys2Proof/Machine/Wire.lean ====
section
/-! DEFINITION. Packets and flits as bytes (R371, R375, R379, R381): the packet header, its GCM record, the 256 B flit with its CRC, and
how a flit is dealt over a link's lanes. -/

namespace Sys2Proof.Machine

/-- A field of `n` bytes: the bytes given, then zeros. -/
def padTo (n : Nat) (bs : List Byte) : List Byte := (bs ++ List.replicate n 0).take n

/-! ## Packets (R379) -/

/-- The 64 B header of a packet, with its tag. -/
def packetHeader (p : Packet) (tag : List Byte) : List Byte :=
  leBytes 2 p.dest ++ leBytes 2 p.src ++ leBytes 2 p.job ++ leBytes 1 p.type ++
    leBytes 1 (p.chan % 4 + 4 * b2n p.ordered + 8 * b2n p.down) ++ leBytes 2 p.payload.length ++ leBytes 1 p.hops ++ leBytes 1 0 ++
    leBytes 4 p.flow ++ leBytes 4 p.seq ++ leBytes 4 p.msg ++ leBytes 8 p.opA.toNat ++ leBytes 8 p.opB.toNat ++ leBytes 8 0 ++
    padTo 16 tag

/-- The packet of a header and its plaintext payload. -/
def packetOf (head payload : List Byte) : Packet :=
  let w := headWord head
  { dest := w 0 2, src := w 2 2, job := w 4 2, type := w 6 1, chan := w 7 1 % 4, ordered := (w 7 1).testBit 2, down := (w 7 1).testBit 3
    hops := w 10 1, flow := w 12 4, seq := w 16 4, msg := w 20 4, opA := BitVec.ofNat 64 (w 24 8), opB := BitVec.ofNat 64 (w 32 8), payload }

/-- The GCM record of a packet under a direction's key, with its fixed field above it, and record count: the header is authenticated with
its tag taken as zero and carries the tag, the payload is encrypted (R381). -/
def recordOf (key count : Nat) (p : Packet) : List Byte :=
  let out := Config.gcmSeal key count (packetHeader p []) p.payload
  packetHeader p (out.drop p.payload.length) ++ padTo p.payload.length out

/-- Bytes of the record that begins a channel's bytes, once its header is there. -/
def recordLen (bs : List Byte) : Nat := 64 + headWord bs 8 2

/-- Open a record: its packet, if its tag verifies (R381). -/
def openRecord (key count : Nat) (bs : List Byte) : Option Packet :=
  let head := bs.take 64
  let aad := head.take 48 ++ List.replicate 16 0
  (Config.gcmOpen key count aad ((bs.drop 64).take (headWord head 8 2) ++ head.drop 48)).map (packetOf head)

/-- Open a record under the keys of a direction, each with its count of records: the key that fresh ones replaced still serves the records
sealed before, and is given up once a later one opens. The packet, with its header's where no key opens it, whether one does, and the
keys then (R381; log entry 138). -/
def openUnder (keys : List (Nat × Nat)) (bs : List Byte) : Packet × Bool × List (Nat × Nat) :=
  match keys with
  | [] => (packetOf (bs.take 64) [], false, [])
  | (k, n) :: rest =>
    match openRecord k n bs with
    | some p => (p, true, (k, n + 1) :: rest)
    | none =>
      if rest = [] then (packetOf (bs.take 64) [], false, [(k, n + 1)])
      else openUnder rest bs

/-! ## Flits (R375) -/

/-- One bit of CRC-32C, whose polynomial is 0x1EDC6F41, least significant bit first. -/
def crcBit (c : W32) : W32 := if c.getLsbD 0 then (c >>> 1) ^^^ 0x82F63B78 else c >>> 1

/-- CRC-32C of bytes (R375; PRESUMED: reflected, from and into all ones, as the CRC of that name is defined; log entry 138). -/
def crc32c (bs : List Byte) : W32 :=
  (bs.foldl (fun (c : W32) b => crcBit (crcBit (crcBit (crcBit (crcBit (crcBit (crcBit (crcBit (c ^^^ b.setWidth 32))))))))) 0xFFFFFFFF) ^^^
    0xFFFFFFFF

/-- A flit: kind, channel, sequence number and payload, with its CRC. -/
def flitBytes (kind chan seq : Nat) (payload : List Byte) : List Byte :=
  let bs := leBytes 1 kind ++ leBytes 1 (chan % 4) ++ leBytes 2 (seq % 1024) ++ padTo 248 payload
  bs ++ leBytes 4 (crc32c bs).toNat

/-- The flit that a transmitter sends when it has nothing else to send (R375). -/
def idleFlit : List Byte := flitBytes 0 0 0 []

/-- Kind, channel, sequence number and payload of a flit received, and whether its CRC holds. -/
def flitKind (f : Flit) : Nat := headWord f.bytes 0 1
def flitChan (f : Flit) : Nat := headWord f.bytes 1 1 % 4
def flitSeq (f : Flit) : Nat := headWord f.bytes 2 2 % 1024
def flitPayload (f : Flit) : List Byte := (f.bytes.drop 4).take 248
def flitGood (f : Flit) : Bool := headWord f.bytes 252 4 == (crc32c (f.bytes.take 252)).toNat

/-- A flit as it goes out. -/
def TxFlit.wire (f : TxFlit) : List Byte := flitBytes 1 f.chan f.seq f.bytes

/-- The bytes of a flit that each active lane carries: ascending lanes take pieces of 32 B at eight lanes and 64 B at four (R371). -/
def dealt (lanes : List Nat) (flit : List Byte) : List (Nat × List Byte) :=
  let n := 256 / lanes.length
  lanes.zipIdx.map (fun l => (l.1, (flit.drop (l.2 * n)).take n))

/-- Packet bytes that a flit can still take: a packet begins only where 8 B are left, so that what pads a flit is told from a header, whose
type is not 0 (log entry 138). -/
def TxFlit.room (f : TxFlit) : Nat := if f.closed || 248 < f.bytes.length + 8 then 0 else 248 - f.bytes.length

/-- The records that lie whole in a channel's bytes, and the bytes of the one that does not. At a packet's place zeros pad the flit. -/
def splitRecords (bs : List Byte) (fuel : Nat) : List (List Byte) × List Byte :=
  match fuel with
  | 0 => ([], bs)
  | k + 1 =>
    if bs.all (· == 0) then ([], [])
    else if bs.length < 64 || bs.length < recordLen bs then ([], bs)
    else
      let (rs, rest) := splitRecords (bs.drop (recordLen bs)) k
      (bs.take (recordLen bs) :: rs, rest)

end Sys2Proof.Machine
end

