-- ==== Sys2Proof/Machine/HerdOps.lean ====
section
/-! DEFINITION. What the meanings share about links and the herd (chapter 12): sending a packet end to end, choosing its
link, putting it into flits, and the routing tables. -/

namespace Sys2Proof.Machine

/-! ## Links -/

/-- A link. -/
def State.link (s : State) (n : Nat) : Link := s.links.getD n {}

/-- Replace a link. -/
def State.setLink (s : State) (n : Nat) (l : Link) : State := { s with links := s.links.set n l }

/-- A counter of a link raised (R396). -/
def Link.count (l : Link) (off k : Nat) : Link := { l with ctr := bump l.ctr off k }

/-- A counter of the herd block raised (R398). -/
def State.herdCount (s : State) (off : Nat) : State := { s with herd := { s.herd with ctr := bump s.herd.ctr off 1 } }

/-- A reserved packet type (R380). -/
def reservedType (t : Nat) : Bool := !((1 ≤ t && decide (t ≤ 7)) || t == 0x10 || (0x20 ≤ t && decide (t ≤ 0x22)))

/-- Flits that a packet fills (R375, R379). -/
def flitsOf (p : Packet) : Nat := cdiv (64 + p.payload.length) 248

/-- Credit units that a packet holds (R385). -/
def unitsOf (p : Packet) : Nat := cdiv (64 + p.payload.length) 256

/-- Bytes that the last flit of a channel can still take (R375). -/
def Link.room (l : Link) (chan : Nat) : Nat := ((l.retry.filter (fun f => f.chan == chan)).map (·.room)).sum

/-- Flits that a packet adds behind those of its channel. -/
def Link.cost (l : Link) (p : Packet) : Nat := cdiv (64 + p.payload.length - l.room p.chan) 248

/-- Put a packet's record into DATA flits, back to back with the packet before it: it spends credits of its channel and enters the retry
buffer (R375, R376, R378, R381). -/
def Link.transmit (l : Link) (p : Packet) : Link :=
  let bs := recordOf l.txKey l.records p
  let room := l.room p.chan
  let n := l.cost p
  let old := l.retry.map (fun f => if f.chan == p.chan && f.room != 0 then { f with bytes := f.bytes ++ bs.take room } else f)
  let more := (List.range n).map (fun k =>
    ({ seq := (l.txSeq + k) % 1024, chan := p.chan, bytes := (bs.drop (room + 248 * k)).take 248 } : TxFlit))
  { l with retry := old ++ more, txSeq := (l.txSeq + n) % 1024
           credits := l.credits.set p.chan (l.credits.getD p.chan 0 - n), records := l.records + 1
           ctr := bump l.ctr 0x48 n }

/-- A packet may go now: its channel has a credit for every flit, the retry buffer has room, and the direction's key may seal another record
(R376, R378, R381). -/
def Link.clear? (l : Link) (p : Packet) : Bool :=
  decide (l.cost p ≤ l.credits.getD p.chan 0) && decide (l.retry.length + l.cost p ≤ 512) && decide (l.records + 1 < 2 ^ 32)

/-- The flits of a burst are on the wire. -/
def Link.closed (l : Link) : Link := { l with retry := l.retry.map (fun f => { f with closed := true }) }

/-- A packet passing through this module (R378). -/
def transit (own : Nat) (p : Packet) : Bool := p.src != own

/-- The packet of a channel that goes next: deficit round robin between what this module injects and what passes
through, `w` the local weight (R378). A class takes what the other leaves idle. -/
def Link.choose (l : Link) (own w chan : Nat) : Option (Packet × Nat × Nat) :=
  let mine := l.outQ.find? (fun p => p.chan == chan && !transit own p)
  let through := l.outQ.find? (fun p => p.chan == chan && transit own p)
  match mine, through with
  | none, none => none
  | some p, none => some (p, 0, (l.deficits.getD chan (0, 0)).2)
  | none, some p => some (p, (l.deficits.getD chan (0, 0)).1, 0)
  | some p, some t =>
    let (a, b) := l.deficits.getD chan (0, 0)
    if flitsOf p ≤ a then some (p, a - flitsOf p, b)
    else if flitsOf t ≤ b then some (t, a, b - flitsOf t)
    else if flitsOf p ≤ a + w then some (p, a + w - flitsOf p, b + (256 - w))
    else some (t, a + w, b + (256 - w) - flitsOf t)

/-- Send one packet of a channel if it may go. -/
def Link.sendOne (l : Link) (own w chan : Nat) : Option Link :=
  match l.choose own w chan with
  | none => none
  | some (p, a, b) =>
    if l.clear? p then some { (l.transmit p) with outQ := l.outQ.erase p, deficits := l.deficits.set chan (a, b) } else none

/-- Send what the credits allow: channel 0 first, then channels 1 to 3 in turns, one packet at a time (R378). -/
def Link.pump (l : Link) (own w fuel : Nat) : Link :=
  match fuel with
  | 0 => l
  | k + 1 =>
    match l.sendOne own w 0 with
    | some l' => l'.pump own w k
    | none =>
      let order := [l.turn, l.turn % 3 + 1, (l.turn + 1) % 3 + 1]
      match order.find? (fun c => (l.sendOne own w c).isSome) with
      | none => l
      | some c => { ((l.sendOne own w c).getD l) with turn := c % 3 + 1 }.pump own w k

/-- The share of a link that the running job holds (R44, R378). -/
def State.share (s : State) (n : Nat) : Nat :=
  match s.sched.running with
  | some k => (s.job k).image.links.getD n 0
  | none => 0

/-- Pump a link while it is UP. -/
def State.pumpLink (s : State) (n : Nat) : State :=
  let l := s.link n
  if l.state == .up then s.setLink n (l.pump s.herd.addr (max (s.share n) 26) (l.outQ.length + 1)).closed else s

/-- A packet of the module with its fields at rest. -/
def packetTo (own dest job type chan : Nat) : Packet :=
  { dest, src := own, job, type, chan, ordered := false, down := false, hops := 0, flow := 0, seq := 0, msg := 0,
    opA := 0, opB := 0, payload := [] }

/-- A link-local packet goes out on channel 0 of a link that is UP: a HELLO, VECTOR or CENSUS (R377, R380, R386, R391). -/
def State.sendLocal (s : State) (n type : Nat) (payload : List Byte) : State :=
  let l := s.link n
  if l.state != .up then s
  else (s.setLink n { l with outQ := l.outQ ++ [{ packetTo s.herd.addr 0 0 type 0 with payload := payload.take 4096 }] }).pumpLink n

/-! ## Routing (R390 to R392) -/

/-- This module is the up end of a link: smaller census depth, then lower herd address (R390). -/
def State.upEnd (s : State) (n : Nat) : Bool :=
  let l := s.link n
  decide (s.herd.depth < l.peerDepth) || (s.herd.depth == l.peerDepth && decide (s.herd.addr < l.peerAddr))

/-- The smaller of two distances, where none is no route. -/
def minDist (a b : Option Nat) : Option Nat :=
  match a, b with
  | none, y => y
  | x, none => x
  | some x, some y => some (min x y)

/-- A neighbour's entry for a destination. -/
def vecOf (v : List VectorEntry) (t : Nat) : VectorEntry := (v.find? (fun e => e.dest == t)).getD ⟨t, none, none⟩

/-- Links that are UP. -/
def State.upLinks (s : State) : List Nat := (List.range 48).filter (fun n => (s.link n).state == .up)

/-- Distances to a destination going down only, and by any legal route (R391). -/
def State.distances (s : State) (t : Nat) : Option Nat × Option Nat :=
  let down := s.upLinks.filter s.upEnd
  let up := s.upLinks.filter (fun n => !s.upEnd n)
  let dd := if t = s.herd.addr then some 0
    else down.foldl (fun m n => minDist m ((vecOf (s.link n).vec t).dd.map (· + 1))) none
  let du := up.foldl (fun m n => minDist m ((vecOf (s.link n).vec t).du.map (· + 1))) dd
  (dd, du)

/-- A mask of links. -/
def maskOf (ns : List Nat) : Nat := (ns.map (fun n => 2 ^ n)).sum

/-- The table entry of a destination: masks for packets with DOWN clear and set (R391). -/
def State.routeTo (s : State) (t : Nat) : Nat × Nat :=
  let (dd, du) := s.distances t
  let down := s.upLinks.filter s.upEnd
  let up := s.upLinks.filter (fun n => !s.upEnd n)
  let via := fun (n : Nat) => (vecOf (s.link n).vec t)
  let isMin := fun (x y : Option Nat) => y.isSome && x.map (· + 1) == y
  (maskOf (down.filter (fun n => isMin (via n).dd du)) + maskOf (up.filter (fun n => isMin (via n).du du)),
   maskOf (down.filter (fun n => isMin (via n).dd dd)))

/-- Destinations that any neighbour reports, and this module's own address. -/
def State.destinations (s : State) : List Nat :=
  (s.herd.addr :: s.upLinks.flatMap (fun n => (s.link n).vec.map (·.dest))).eraseDups

/-- New tables are worked out from the neighbours' vectors, to be installed under R393, and this module's own vector goes
to every neighbour (R391). A module that is alone or EXCLUDED takes no part in routing (R386, R388). -/
def State.reroute (s : State) : State :=
  if s.herd.role = 0 || s.herd.role = 3 then s
  else
  let ts := s.destinations
  let table := (ts.filter (fun t => t != s.herd.addr)).foldl (fun m t => NMap.put m t (s.routeTo t)) ([] : NMap (Nat × Nat))
  let mine := ts.map (fun t => let d := s.distances t; (⟨t, d.1, d.2⟩ : VectorEntry))
  s.upLinks.foldl (fun (s : State) n => s.sendLocal n 0x21 (Config.vectorBytes mine))
    { s with herd := { s.herd with newRoutes := some table, vectors := s.upLinks.map (fun n => (n, mine)) } }

/-- The allowed link whose channel has the most free credits, the lowest number on a tie (R392). -/
def State.bestLink (s : State) (allowed : List Nat) (chan : Nat) : Option Nat :=
  allowed.find? (fun n => allowed.all (fun m =>
    decide ((s.link m).credits.getD chan 0 < (s.link n).credits.getD chan 0) ||
    ((s.link m).credits.getD chan 0 == (s.link n).credits.getD chan 0 && decide (n ≤ m))))

/-- The flow of an ORDERED packet, with a link. -/
def flowOf (p : Packet) (link : Nat) : Nat × Nat × Nat × Nat × Nat := (p.src, p.dest, p.job, p.flow, link)

/-- Whether a pin is of a packet's flow. -/
def sameFlow (p : Packet) (x : Nat × Nat × Nat × Nat × Nat) : Bool :=
  x.1 == p.src && x.2.1 == p.dest && x.2.2.1 == p.job && x.2.2.2.1 == p.flow

/-- The share of a link that a job holds (R385). -/
def State.jobShare (s : State) (job n : Nat) : Nat :=
  match s.slotOf job with
  | some k => (s.job k).image.links.getD n 0
  | none => 0

/-- A packet may enter a link here: a job injects nothing through a link of which it has no share (R385). Acknowledgements and
refusals hold no units, and what passes through is not injected. -/
def State.mayInject (s : State) (p : Packet) (n : Nat) : Bool :=
  p.job == 0 || transit s.herd.addr p || p.type == 0x05 || p.type == 0x06 || s.jobShare p.job n != 0

/-- The links that a packet may take: those of its table entry that are UP and that it may enter. A module that is alone or EXCLUDED
routes nothing (R386, R388, R391, R404). -/
def State.allowed (s : State) (p : Packet) : List Nat :=
  let m := NMap.getD s.herd.routes p.dest (0, 0)
  let mask := if s.herd.role = 0 || s.herd.role = 3 then 0 else if p.down then m.2 else m.1
  (List.range 48).filter (fun n => mask.testBit n && (s.link n).state == .up && s.mayInject p n)

/-- The link a packet takes (R392, R393): its flow's pin, or a choice among the allowed links. -/
def State.linkFor (s : State) (p : Packet) : Option Nat :=
  let allowed := s.allowed p
  if p.ordered then
    if s.herd.repin.any (sameFlow p) then none
    else
      match s.herd.pins.find? (sameFlow p) with
      | some x => if allowed.contains x.2.2.2.2 then some x.2.2.2.2 else none
      | none => s.bestLink allowed p.chan
  else s.bestLink allowed p.chan

/-- The link by which a packet is sent again: its flow's, or while that waits to choose anew any allowed one, for the flow stops injecting
and what it has sent must still be acknowledged (R382, R393). -/
def State.linkAgain (s : State) (p : Packet) : Option Nat :=
  match s.linkFor p with
  | some n => some n
  | none => s.bestLink (s.allowed p) p.chan

/-- Put a packet on a link's output, one hop further, pinning an ORDERED flow (R390, R392). -/
def State.putOn (s : State) (n : Nat) (p : Packet) : State :=
  let p' := { p with hops := p.hops + 1, down := p.down || s.upEnd n }
  let s := if p.ordered && !s.herd.pins.any (sameFlow p) then
      { s with herd := { s.herd with pins := s.herd.pins ++ [flowOf p n] } } else s
  let l := s.link n
  (s.setLink n { l with outQ := l.outQ ++ [p'] }).pumpLink n

/-! ## End to end (R382, R385) -/

/-- The key of a sequence space: job, destination and channel (R382). -/
def spaceKey (job dest chan : Nat) : Nat := job * 2 ^ 18 + dest * 4 + chan

/-- Credit units of a job on a link and channel: its share times 64, a quarter each for channels 1 and 2 and half for
channel 3 (R385). -/
def unitsFor (share chan : Nat) : Nat := if chan = 3 then share * 32 else share * 16

/-- Units of a job in use on a link and channel. -/
def Herd.unitsUsed (h : Herd) (job link chan : Nat) : Nat :=
  (h.unacked.map (fun u => if u.pkt.job == job && u.link == link && u.pkt.chan == chan then unitsOf u.pkt else 0)).sum

/-- Packets of a space not yet acknowledged. -/
def Herd.openIn (h : Herd) (job dest chan : Nat) : Nat :=
  (h.unacked.filter (fun u => u.pkt.job == job && u.pkt.dest == dest && u.pkt.chan == chan)).length

/-- Units of a link's store that firmware traffic may hold: the 26/256 that no job can reserve (R385). -/
def firmwareUnits : Nat := 16384 * 26 / 256

/-- Units that firmware traffic holds on a link. -/
def Herd.firmwareUsed (h : Herd) (link : Nat) : Nat :=
  (h.unacked.map (fun u => if u.pkt.job == 0 && u.link == link then unitsOf u.pkt else 0)).sum

/-- A packet finds credit units on a link (R385). -/
def State.unitsFree (s : State) (p : Packet) (n : Nat) : Bool :=
  if p.job = 0 then decide (s.herd.firmwareUsed n + unitsOf p ≤ firmwareUnits)
  else decide (s.herd.unitsUsed p.job n p.chan + unitsOf p ≤ unitsFor (s.jobShare p.job n) p.chan)

/-- A packet finds a link, credit units there and a place in its space (R382, R385). -/
def State.mayLeave (s : State) (p : Packet) : Bool :=
  match s.linkFor p with
  | some n => s.unitsFree p n && decide (s.herd.openIn p.job p.dest p.chan < 1024)
  | none => false

/-- Try to send a numbered packet: it needs an allowed link, a place among the 1,024 unacknowledged packets of its
space, and credit units; otherwise it waits at its source (R382, R385). -/
def State.trySend (s : State) (p : Packet) : State :=
  let wait := { s with herd := { s.herd with waiting := s.herd.waiting ++ [p] } }
  match s.linkFor p with
  | none => wait
  | some n =>
    if s.unitsFree p n && decide (s.herd.openIn p.job p.dest p.chan < 1024) then
      let s := { s with herd := { s.herd with unacked := s.herd.unacked ++ [(⟨p, n, 100⟩ : Unacked)] } }
      s.putOn n p
    else wait

/-- Give a packet its number and send it; one to the module's own address never enters a link (R380, R382). Address 0
names the local module (R357). -/
def State.sendPacket (s : State) (p : Packet) : State :=
  let key := spaceKey p.job p.dest p.chan
  let seq := NMap.getD s.herd.sendSeq key 0 + 1
  let p := { p with seq := seq % 2 ^ 32 }
  let s := { s with herd := { s.herd with sendSeq := NMap.put s.herd.sendSeq key seq } }
  if p.dest = s.herd.addr || p.dest = 0 then { s with herd := { s.herd with inbox := s.herd.inbox ++ [p] } }
  else s.trySend p

/-- Send listed packets in order. -/
def State.sendAll (s : State) (ps : List Packet) : State :=
  match ps with
  | [] => s
  | p :: rest => (s.sendPacket p).sendAll rest

/-- Try the waiting packets again in order. -/
def State.retryWaiting (s : State) (ps : List Packet) : State :=
  match ps with
  | [] => s
  | p :: rest => (s.trySend p).retryWaiting rest

/-- Cores of the running job that wait for something try their instruction again. -/
def State.wakeCores (s : State) (w : CoreWait) : State :=
  match s.sched.running with
  | some k =>
    let j := s.job k
    let up := fun (c : Core) => if c.wait == w then { c with wait := .run } else c
    s.setJob k { j with run := { j.run with cores := j.run.cores.map (fun e => (e.1, up e.2)) } }
  | none => s

/-- Waiting packets go as far as links and credits now allow, and cores that wait to send a SIGNAL try again (R385). -/
def State.wakeSenders (s : State) : State :=
  ({ s with herd := { s.herd with waiting := [] } }.retryWaiting s.herd.waiting).wakeCores .signalFull

/-- An acknowledgement or a refusal travels on channel 2 outside any sequence space (log entry 20). -/
def State.sendReply (s : State) (p : Packet) : State :=
  if p.dest = s.herd.addr || p.dest = 0 then { s with herd := { s.herd with inbox := s.herd.inbox ++ [p] } }
  else
    match s.linkFor p with
    | none => s
    | some n => s.putOn n p

/-- A fresh message identifier (R379). -/
def State.message (s : State) : Nat × State :=
  (s.herd.msgNext, { s with herd := { s.herd with msgNext := (s.herd.msgNext + 1) % 2 ^ 32 } })

/-! ## Pausing and resuming a job's traffic (R349, R356, R401) -/

/-- Capture a job's unacknowledged outbound packets with the job, which returns their credits, with the transfers of its ring-pass engines
and its open messages (R349, R356, R401). -/
def State.capturePackets (s : State) (k : Nat) : State :=
  let j := s.job k
  let id := j.info.id
  let r := { s.withHerd k j.run with msgs := j.run.msgs ++ s.herd.messages.filter (fun m => m.job == id) }
  let h := s.herd.without k id
  ({ s with herd := { h with messages := h.messages.filter (fun m => m.job != id) } } : State).setJob k { j with run := r }

/-- Put transfers back into their engines. -/
def State.requeuePasses (s : State) (xs : List (Nat × Transfer2)) : State :=
  { s with herd := { s.herd with engines := xs.foldl (fun (es : List (List Transfer2)) x => es.set x.1 (es.getD x.1 [] ++ [x.2]))
                                   s.herd.engines } }

/-- Send a job's captured packets again, under the numbers they have; its transfers go on, and its open messages are open again (R356,
R401). -/
def State.releaseCaptured (s : State) (k : Nat) : State :=
  let j := s.job k
  let s := s.setJob k { j with run := { j.run with captured := [], passes := [], msgs := [], seqs := [] } }
  let s := { s with herd := { s.herd with messages := s.herd.messages ++ j.run.msgs } }
  (s.requeuePasses j.run.passes).retryWaiting j.run.captured

/-- What the herd holds of a replayed job stands again as at its commit point: the numbers given out, the packets not acknowledged then, and
the transfers of its engines (R355, R356). -/
def State.rewindHerd (s : State) (k : Nat) : State :=
  let j := s.job k
  let id := j.info.id
  let h := s.herd.without k id
  ({ s with herd := { h with sendSeq := j.run.seqs ++ h.sendSeq.filter (fun e => e.1 / 2 ^ 18 != id) } } : State).releaseCaptured k

/-! ## Buddy mirroring (R360, R361) -/

/-- The units of a mirror transfer as packets of one message (R360, R395). -/
def mirrorPackets (own : Nat) (j : Job) (msg : Nat) (units : List Nat) : List Packet :=
  units.map (fun u =>
    { packetTo own j.info.buddyAddr j.info.id 0x07 3 with
      msg, opA := BitVec.ofNat 64 (u * 4096), payload := memRead j.run.mem (u * 4096) 4096 })

/-- The 4 KiB units in which a memory holds anything. -/
def unitsIn (m : NMap Byte) : List Nat := (m.map (fun e => e.1 / 4096)).eraseDups

/-- The units of a job's data space: its tensors', those of the pages and blocks that its streams hold, and any other that holds
anything (R361). -/
def Job.spaceUnits (j : Job) : List Nat :=
  let tensors := j.image.tensors.flatMap (fun t => if t.addr = 0 then [] else List.range' (t.addr / 4096) (16 * t.pages))
  (tensors ++ j.run.held.flatMap (fun e => List.range' (e.1 / 4096) 16) ++ unitsIn j.run.mem).eraseDups

/-- The packets of a mirror transfer: its measurement first, the saved items, and the units, each with the bytes of the whole (R360,
R361). -/
def mirrorMessage (own : Nat) (j : Job) (msg : Nat) (units : List Nat) : List Packet :=
  let base := { packetTo own j.info.buddyAddr j.info.id 0x07 3 with msg }
  let first := { base with opA := BitVec.ofNat 64 (2 ^ 57 - 4096), payload := leBytes 48 j.image.measurement.toNat }
  let items := { base with opA := BitVec.ofNat 64 (2 ^ 57 - 8192), payload := Config.savedItems (j.commit.getD j.run) }
  let ps := first :: items :: mirrorPackets own j msg units
  let total := (ps.map (fun p => p.payload.length)).sum
  ps.map (fun p => { p with opB := BitVec.ofNat 64 total })

/-- A commit point queues its transfer to the buddy at a ring-pass engine, the first with room: every unit written since the last one that
the buddy acknowledged, or the whole data space, as they stand at the commit point (R360, R361, R395; log entry 139). A withheld unit
waits for a later transfer (R492). -/
def State.mirrorTransfer (s : State) (k : Nat) : State :=
  let j := s.job k
  if !j.info.buddy then s
  else
    let all := if j.mirrorAll then j.spaceUnits else (j.mirrorSent ++ j.mirrorDirty).eraseDups
    let units := all.filter (fun u => !j.lost.contains u)
    let (msg, s) := s.message
    let ps := mirrorMessage s.herd.addr j msg units
    let e := s.herd.engines.findIdx (fun ts => decide (ts.length < 16))
    let t : Transfer2 := { slot := k, core := 0, src := 0, dst := 0, len := (ps.map (fun p => p.payload.length)).sum
                           peer := j.info.buddyAddr, sem := 0, semb := 0, sent := 0, msg, started := false, mirror := true, pkts := ps }
    (s.setJob k { j with mirrorAll := false, mirrorDirty := all.filter j.lost.contains, mirrorSent := units }).requeuePasses [(if e < 8 then e else 0, t)]

/-- The first NO_JOB refusal of a MIRROR stops mirroring (R361). -/
def State.mirrorLost (s : State) (k : Nat) : State :=
  let j := s.job k
  if !j.info.buddy then s
  else
    let id := j.info.id
    let s := { s with herd := { s.herd with
      unacked := s.herd.unacked.filter (fun u => !(u.pkt.job == id && u.pkt.type == 7))
      waiting := s.herd.waiting.filter (fun p => !(p.job == id && p.type == 7))
      engines := s.herd.engines.map (fun (ts : List Transfer2) => ts.filter (fun t => !(t.slot == k && t.mirror))) } }
    let s := s.setJob k { j with info := { j.info with buddy := false }, mirrorDirty := [], mirrorSent := [], mirrorAll := false }
    let st := match j.info.state with
      | .empty => 0 | .loading => 1 | .armed => 2 | .running => 3 | .pausing => 4 | .paused => 5 | .resuming => 6
      | .ending => 7 | .ended => 8
    s.jobStateEvent k st st j.info.cause 0 0 false true

/-! ## Reads of a peer's memory (R136) -/

/-- Ask a peer's job of the same identifier for bytes of its memory. -/
def State.readPeer (s : State) (k peer addr bytes : Nat) (body : Bool) (key : Nat) : State :=
  let id := (s.job k).info.id
  let (msg, s) := s.message
  let s := { s with herd := { s.herd with
    reads := s.herd.reads ++ [(⟨k, msg, peer, body, key, bytes, [], 0⟩ : ReadReq)] } }
  s.sendPacket { packetTo s.herd.addr peer id 0x03 1 with
    msg, opA := BitVec.ofNat 64 addr, opB := BitVec.ofNat 64 bytes }

/-- Streams that began a peer fetch since `old`: their bodies are asked for (R108, R136). -/
def State.startFetches (s : State) (k : Nat) (old : JobRun) : State :=
  let moved := (s.job k).run.streams.filter (fun e =>
    e.2.loc == .moving && e.2.cameFrom == .peer && (NMap.getD old.streams e.1 {}).loc != .moving)
  moved.foldl (fun s e => s.readPeer k e.2.herdAddr e.2.awayAddr (min e.2.awaySize e.2.room) true e.1) s

/-! ## The census (R386 to R389) -/

/-- Place a HERD_CHANGE event (R389, R419). -/
def State.herdChange (s : State) (cause : Nat) : State :=
  let h := s.herd
  s.deviceEvent { code := 0x0E10, job := 0, b := BitVec.ofNat 64 cause
                  a := BitVec.ofNat 64 (h.epoch % 2 ^ 32 + h.members * 2 ^ 32 + h.addr * 2 ^ 48) }

/-- A candidate leader: identity, beat, distance, peer and link. -/
structure Candidate where
  lead : W64
  beat : Nat
  dist : Nat
  peer : W64
  link : Option Nat
  deriving DecidableEq, Repr

/-- Candidates in order: lead identity, distance, peer identity, link (R386). -/
def Candidate.less (a b : Candidate) : Bool :=
  let la := a.link.getD 0
  let lb := b.link.getD 0
  decide (a.lead < b.lead) || (a.lead == b.lead && (decide (a.dist < b.dist) || (a.dist == b.dist &&
    (decide (a.peer < b.peer) || (a.peer == b.peer && decide (la < lb))))))

/-- This module may lead (R386): the configuration marks it eligible (R503). -/
def State.eligible (s : State) : Bool := s.cfg.flags.testBit 0

/-- The best candidate (R386): its own, then those heard on UP links within depth 8 whose beat still rises. -/
def State.bestLeader (s : State) : Option Candidate :=
  let own : List Candidate := if s.eligible then [⟨Config.identity, s.herd.beat, 0, Config.identity, none⟩] else []
  let heard := s.upLinks.filterMap (fun n =>
    match (s.link n).heard with
    | some h =>
      match h.lead with
      | some l => if decide (h.dist < 8) && (s.link n).fresh then some ⟨l, h.lbeat, h.dist + 1, h.id, some n⟩ else none
      | none => none
    | none => none)
  (own ++ heard).foldl (fun m c => match m with
    | none => some c
    | some b => if c.less b then some c else some b) none

/-- The JOIN of a module (R387). -/
def State.joinMsg (s : State) : JoinMsg :=
  { id := Config.identity, depth := s.herd.depth, links := s.upLinks.map (fun n => (s.link n).peerId), want := s.flash.addr }

/-- A JOIN goes up the tree (R387). -/
def State.sendJoin (s : State) (j : JoinMsg) : State :=
  match s.herd.parent with
  | some n => { s with herd := { s.herd with joins := s.herd.joins ++ [j] } }.sendLocal n 0x22 (Config.joinBytes j)
  | none => s

/-- The HELLO this module sends (R386). -/
def State.helloMsg (s : State) : HelloMsg :=
  { id := Config.identity, eligible := s.eligible, lead := if s.herd.role = 0 then none else some s.herd.leader
    lbeat := if s.herd.role = 2 then s.herd.beat else s.herd.leadBeat, dist := s.herd.depth, addr := s.herd.addr }

/-- Send a HELLO on every UP link; a leader's beat rises at each (R386). -/
def State.sendHellos (s : State) : State :=
  let h := if s.herd.role = 2 then { s.herd with beat := s.herd.beat + 1 } else s.herd
  let s := { s with herd := h }
  s.upLinks.foldl (fun (s : State) n => s.sendLocal n 0x20 (Config.helloBytes s.helloMsg))
    { s with herd := { h with hellos := s.upLinks.map (fun n => (n, s.helloMsg)) } }

/-- The address the leader gives an identity (R387): the book's, else the one asked for, else the lowest unused, else
that of the identity longest absent: one that has been no member of this leader's herd, else the first to leave it. -/
def assignAddr (book : List (Nat × W64)) (member absent : List W64) (id : W64) (want : Nat) : Nat × List (Nat × W64) :=
  match book.find? (fun e => e.2 == id) with
  | some e => (e.1, book)
  | none =>
    let used := fun (a : Nat) => book.any (fun e => e.1 == a)
    if want ≠ 0 && want ≠ 0xFFFF && decide (want < 0xFFFF) && !used want then (want, book ++ [(want, id)])
    else
      match (List.range' 1 0xFFFE).find? (fun a => !used a) with
      | some a => (a, book ++ [(a, id)])
      | none =>
        let gone := book.filter (fun e => !member.contains e.2)
        match gone.filter (fun e => !absent.contains e.2) ++ absent.filterMap (fun x => gone.find? (fun e => e.2 == x)) with
        | e :: _ => (e.1, (book.filter (fun x => x.1 != e.1)) ++ [(e.1, id)])
        | [] => (0, book)

/-- No eligible module is reachable: the module runs alone and has no herd address (R357, R386). -/
def State.standAlone (s : State) : State :=
  let s := { s with herd := { s.herd with role := 0, leader := 0, depth := 0, parent := none, members := 1, addr := 0, adrift := false
                                          epoch := s.herd.epoch + 1 } }
  s.sendHellos.herdChange 3

/-- The herd address and the address book go into the boot flash, through heartwood: while no security core serves they wait (R387, R436,
R444). -/
def State.keepBook (s : State) (addr : Nat) (book : Option (List (Nat × W64))) : State :=
  if s.roleServes 0 then { s with flash := { s.flash with addr, book := book.getD s.flash.book } } else s.hold (.book addr book)

/-- The module leads: it holds the address that its own book gives it, from its boot flash where it has led no herd since
start-up (R386, R387). -/
def State.lead (s : State) : State :=
  let h := s.herd
  let (addr, book) := assignAddr (if h.book.isEmpty then s.flash.book else h.book) [Config.identity] [] Config.identity s.flash.addr
  { s with herd := { h with role := 2, member := [Config.identity], members := 1, addr, book, ties := [], absent := [] } }.keepBook addr
    (some book)

/-- The highest beat heard of a leader (R386). -/
def State.topBeat (s : State) (lead : W64) : Nat :=
  (s.upLinks.filterMap (fun n => (s.link n).heard.bind (fun h => if h.lead == some lead then some h.lbeat else none))).foldl max 0

/-- Follow the best candidate: leader, depth and parent. A change of leader raises the epoch and is reported, a module with a new
leader joins it, and any change sends HELLOs at once (R386, R387, R389). Where there is no candidate the leader is lost: the module
keeps its address and its tables go on routing until another is found, or none is (R403). A new scheduler first hears every link (R445). -/
def State.follow (s : State) : State :=
  if s.herd.relearn && s.upLinks.any (fun n => (s.link n).heard.isNone) then s
  else
  let s := { s with herd := { s.herd with relearn := false } }
  match s.bestLeader with
  | none => if s.herd.role = 0 then s else { s with herd := { s.herd with adrift := true } }
  | some c =>
    let moved := c.dist != s.herd.depth || c.link != s.herd.parent
    let beat := max c.beat (s.topBeat c.lead)
    let h := { s.herd with leader := c.lead, leadBeat := if c.lead = s.herd.leader then max s.herd.leadBeat beat else beat
                           depth := c.dist, parent := c.link, adrift := false }
    if c.lead != s.herd.leader || s.herd.role = 0 then
      let s := { s with herd := { h with epoch := h.epoch + 1 } }
      let s := if c.link.isNone then s.lead else { s with herd := { s.herd with role := 1 } }.sendJoin s.joinMsg
      s.reroute.sendHellos.herdChange 3
    else if moved then { s with herd := h }.reroute.sendHellos
    else { s with herd := h }

/-- Census and routing run: some sapwood does (R499). -/
def State.censusRuns (s : State) : Bool := s.fw.sapwood.isSome

/-! ## Members (R387 to R389) -/

/-- What the leader tells a module (R387, R388). -/
def Herd.notice (h : Herd) (addr : Option Nat) (excluded : Bool) (cause : Nat) : CensusMsg :=
  { addr, excluded, book := h.book, epoch := h.epoch, members := h.members, leader := h.leader, cause }

/-- A census answer goes to a module by the link that its JOIN came by (R387). -/
def State.tell (s : State) (x : W64) (m : CensusMsg) : State :=
  let s := { s with herd := { s.herd with answers := s.herd.answers ++ [(x, m)] } }
  match s.herd.via.find? (fun e => e.1 == x) with
  | some e => s.sendLocal e.2 0x22 (Config.censusBytes { m with dest := some x })
  | none => s

/-- Tell several modules. -/
def State.tellAll (s : State) (xs : List W64) (m : CensusMsg) : State := xs.foldl (fun (s : State) x => s.tell x m) s

/-- A member that is tied to one of `seen` by a link that either has reported, or of whose links nothing is known and whose JOIN came by a
link that is UP. -/
def State.tied (s : State) (seen : List W64) (x : W64) : Bool :=
  let links := fun (y : W64) => if y = Config.identity then s.upLinks.map (fun n => (s.link n).peerId)
    else ((s.herd.ties.find? (fun e => e.1 == y)).map (·.2)).getD []
  if links x = [] then
    (match s.herd.via.find? (fun e => e.1 == x) with
     | some e => (s.link e.2).state == .up
     | none => true)
  else seen.any (fun y => (links x).contains y || (links y).contains x)

/-- The members that can be reached, from those in `seen` on. -/
def State.reached (s : State) (fuel : Nat) (seen : List W64) : List W64 :=
  match fuel with
  | 0 => seen
  | k + 1 =>
    let more := s.herd.member.filter (fun x => !seen.contains x && s.tied seen x)
    if more = [] then seen else s.reached k (seen ++ more)

/-- The leader finds members that no reported link ties to the herd, or to the module `heard` from just now, any more: they have left (R387,
R389; log entry 140). -/
def State.settleMembers (s : State) (heard : List W64) : State :=
  let h := s.herd
  if h.role ≠ 2 then s
  else
    let here := s.reached h.member.length (Config.identity :: heard)
    let left := h.member.filter (fun x => !here.contains x)
    if left = [] then s
    else
      let member := h.member.filter (fun x => here.contains x)
      let n := { h with member, members := member.length, absent := h.absent ++ left, ties := h.ties.filter (fun e => here.contains e.1) }
      (({ s with herd := n } : State).tellAll (member.filter (fun x => x != Config.identity)) (n.notice none false 2)).reroute.herdChange 2

/-- A link changed state: HELLOs go out at once, the tables are worked out anew, a member reports its links, and the leader looks who is
left (R386, R387, R389, R393), while sapwood runs (R499). -/
def State.linkChanged (s : State) : State :=
  if s.censusRuns then
    let s := s.follow.sendHellos.reroute
    if s.herd.role = 1 then s.sendJoin s.joinMsg else s.settleMembers []
  else s

end Sys2Proof.Machine
end

