-- ==== Sys2Proof/Machine/CoreOps.lean ====
section
/-! DEFINITION. How a logical core retires one instruction of its command program (R199, R201, R230, R350): when it may,
what an instruction does to the job and the core, lane faults and the other program errors, and statuses. -/

namespace Sys2Proof.Machine

/-! ## Registers (R199) -/

/-- A scalar register: s0 reads 0. -/
def Core.reg (c : Core) (r : Nat) : W64 := if r = 0 then 0 else c.sregs.getD r 0

/-- Write a scalar register: a write to s0 is discarded. -/
def Core.setReg (c : Core) (r : Nat) (v : W64) : Core :=
  if r = 0 then c
  else { c with sregs := (c.sregs ++ List.replicate (32 - c.sregs.length) 0).set r v }

/-! ## Scratchpad (R59, R230) -/

/-- Bytes of a core's scratchpad. -/
def scratchSize : Nat := 6291456

/-- A range lies in the scratchpad. -/
def inScratch (a len : Nat) : Bool := decide (a + len ≤ scratchSize)

/-- A range touches the PROGRAM region. -/
def CoreSec.inProgram (c : CoreSec) (a len : Nat) : Bool :=
  c.regions.any (fun r => r.kind == 0 && decide (a < r.off + r.size) && decide (r.off < a + len))

/-- The region of a channel (R59). -/
def CoreSec.chanRegion (c : CoreSec) (ch : Nat) : Option RegionE :=
  c.regions.find? (fun r => (r.kind == 1 || r.kind == 5) && r.chan == ch)

/-! ## What an instruction can come to -/

/-- A program error met at run time (R230, R350). -/
inductive Problem where
  | lane (lane addr : Nat)
  | shape
  | spill
  deriving DecidableEq, Repr

/-- Its status. -/
def Problem.status : Problem → Nat
  | .lane .. => 0x0204
  | .shape => 0x0201
  | .spill => 0x0202

/-- What a retired instruction leaves: the job and the core as they then stand, the next instruction where it is not the
one after, its accesses to job memory, the status that its batch's commands take, the streams whose rows had an empty vector (R185), the blocks of each of its vectors that stopped early with a
residual (R80), whether its array began a ramp-up (R86), its beats on the fawn path (R91), and, of a command that streamed, the tally
and residue failures that it met (R84, R85). -/
structure Done where
  job      : Job
  core     : Core
  next     : Option Nat := none
  accesses : List Access := []
  status   : Nat := 0
  empties  : List Nat := []
  adaptive : List Nat := []
  ramp     : Bool := false
  fawn     : Nat := 0
  fails    : Option (Nat × Nat) := none

/-- What one instruction comes to: it waits (with what it has counted), it is a program error (with what it left of an
acknowledged prefix), or it retires. -/
inductive Effect where
  | wait (w : CoreWait) (j : Job)
  | stop (p : Problem)
  | halt (p : Problem) (j : Job)
  | done (d : Done)

/-! ## When a core may retire an instruction (R345, R346, R353, R485, R487) -/

/-- The forced stop of the running job: a forced pause or a forced commit point, once no replay is in progress (R363). -/
def State.forcedStop (s : State) : Bool :=
  ((match s.sched.pausing with | some p => p.forced | none => false) || s.sched.seekCommit == some true) &&
    s.health.replay.isNone

/-- A bed point is sought. -/
def State.seeksBed (s : State) : Bool :=
  (s.sched.pausing.isSome || s.sched.seekCommit.isSome) && s.health.replay.isNone

/-- A logical core's physical core is in service: one that is lost has none until its remap (R444, R484). -/
def State.placedWell (s : State) (n : Nat) : Bool :=
  let p := s.health.map.getD n {}
  !(s.health.cluster p.cluster).retired.testBit p.core

/-- The slot whose job core `n` works for, while the job's cores run: not where a forced stop or a JOB_END that waits holds at this
boundary (R337), with no command in progress, nor at a bed point once every batch in flight is over, nor while a replacement cluster is brought up
or a logical unit has no place (R489), nor while another logical core has its turn, nor on a lost physical core. -/
def State.working (s : State) (n : Nat) : Option Nat :=
  match s.sched.running with
  | none => none
  | some k =>
    let j := s.job k
    let runs := j.info.state == .running || j.info.state == .pausing
    let atRest := s.seeksBed && j.run.batches.isEmpty && j.atBed n
    let placed := s.health.replace.isEmpty && !s.health.exhausted && s.onTurn n && s.placedWell n
    let stops := s.forcedStop || s.sched.ending.any (fun e => e.1 == k)
    if (NMap.find j.run.cores n).isSome && runs && (!stops || (j.run.core n).inCmd) && !atRest && placed then
      some k
    else none

/-- The slot whose job core `n` may retire an instruction for: it works and waits for nothing. -/
def State.mayIssue (s : State) (n : Nat) : Option Nat :=
  match s.working n with
  | none => none
  | some k => if ((s.job k).run.core n).wait == .run then some k else none

/-! ## Statuses of a batch's commands (R80, R230, R350) -/

/-- A command takes a status where it is higher than what it has, and completion flags. -/
def QCmd.meet (q : QCmd) (status flags : Nat) : QCmd := { q with status := max q.status status, flags := q.flags ||| flags }

/-- The batch a core works on, committed or not: a core of an earlier stage may still run when it commits (R127). -/
def JobRun.batchOf (r : JobRun) (c : Core) : Option Batch :=
  match c.batch with
  | none => none
  | some id => (r.batches ++ r.past).find? (fun b => b.id == id)

/-- The commands of a batch take a status. -/
def JobRun.meet (r : JobRun) (b : Option Batch) (status : Nat) : JobRun :=
  match b with
  | none => r
  | some b =>
    if status = 0 then r
    else { r with queue := r.queue.map (fun q =>
      if b.rows.any (fun x => x.1 == q.uid) then q.meet status 0 else q) }

/-- The commands whose rows in flight had an empty vector take flag bit 1 (R185). -/
def JobRun.sawEmpty (r : JobRun) (ns : List Nat) : JobRun :=
  if ns = [] then r
  else { r with queue := r.queue.map (fun q =>
    if q.rows.any (fun w => w.phase == 2 && ns.contains w.stream) then q.meet 0 2 else q) }

/-- The tokens of a batch in batch order: command, row, and place in the row (R80, R180). -/
def JobRun.tokens (r : JobRun) (b : Batch) : List (Nat × Row × Nat) :=
  b.rows.flatMap (fun x =>
    match (r.findQ x.1).bind (fun q => q.rows.find? (fun w => w.ix == x.2)) with
    | some w => (List.range w.tokens).map (fun t => (x.1, w, t))
    | none => [])

/-- Blocks of vector `v` that stopped early: the row of its token takes them in its adaptive field, and the row's command
DONE_ADAPTIVE with its flag; a vector beyond the batch's tokens is its oldest command's (R80, R115). -/
def JobRun.adapt (r : JobRun) (b : Batch) (toks : List (Nat × Row × Nat)) (v n : Nat) : JobRun :=
  if n = 0 then r
  else
    match toks[v]? with
    | some (uid, w, _) =>
      { r with queue := r.queue.map (fun q =>
        if q.uid == uid then
          let rows := q.rows.map (fun (x : Row) => if x.ix == w.ix then { x with adaptive := x.adaptive + n } else x)
          ({ q with rows } : QCmd).meet 2 1
        else q) }
    | none =>
      { r with queue := r.queue.map (fun q => if some q.cmd == b.oldest then q.meet 2 1 else q) }

/-- Report the blocks of every vector of an array command. -/
def JobRun.adaptAll (r : JobRun) (b : Option Batch) (ns : List Nat) : JobRun :=
  match b with
  | none => r
  | some b =>
    let toks := r.tokens b
    ns.zipIdx.foldl (fun r x => r.adapt b toks x.2 x.1) r

/-- A program error of core `n` (R230, R350, R366): the job is paused by force at the boundary before the instruction; a
lane fault is recorded with the job. -/
def State.stopCore (s : State) (k n : Nat) (p : Problem) : State :=
  let j := s.job k
  let c := j.run.core n
  let b := j.run.batchOf c
  let tag := ((b.bind (·.oldest)).map (fun (x : Cmd) => x.desc.tag)).getD 0
  let fault := match p with
    | .lane l a => some { core := n, insn := c.insn, lane := l, addr := a }
    | _ => j.fault
  let r := j.run.setCore n { c with wait := .run, inCmd := false, arrived := [], misses := [] }
  let s := s.setJob k { j with run := r.meet b p.status, fault }
  s.programError k p.status tag

/-! ## Retiring -/

/-- A retired instruction takes effect. -/
def State.finishInsn (s : State) (k n : Nat) (d : Done) : State :=
  let next := d.next.getD (d.core.insn + 1)
  let ahead := d.core.ahead.filter (fun u => d.accesses.all (fun x => x.addr != u))
  let r := d.job.run.setCore n { d.core with
    insn := next, ahead, wait := .run, arrived := [], misses := [], scatDone := none, inCmd := false, ramping := d.ramp }
  let r := (r.meet (r.batchOf d.core) d.status).sawEmpty d.empties
  let r := r.adaptAll (r.batchOf d.core) d.adaptive
  ((s.setJob k { d.job with run := r }).accesses k n d.accesses).healthCount 0x78 d.fawn

/-- A wait within a command that a forced pause lets run to its end (R100, R163, R259, R346). -/
def CoreWait.inCmd : CoreWait → Bool
  | .peat .. => true
  | .browse => true
  | .ramp => true
  | _ => false

/-- Cores of a cluster that are in ramp-up, core `n` apart. -/
def JobRun.ramping (r : JobRun) (n : Nat) : Nat :=
  (r.cores.filter (fun e => e.1 / 16 == n / 16 && e.1 != n && e.2.ramping)).length

/-- The opcodes of the commands that stream through the array (R72, R204). -/
def arrayOp (op : Nat) : Bool := [0x20, 0x21, 0x22, 0x24, 0x25].contains op

/-- A core leaves ramp-up. -/
def State.rampStops (s : State) (k n : Nat) : State :=
  let j := s.job k
  s.setJob k { j with run := j.run.setCore n { j.run.core n with ramping := false } }

/-- The rows that an array command waited for arrive: its array, where it has begun to ramp down, ramps up again from the groups
that remain, unless four others of its cluster ramp (R86, R87, R98). -/
def State.rampBack (s : State) (k n : Nat) : State :=
  let j := s.job k
  let c := j.run.core n
  if arrayOp ((j.image.sec n).wordAt c.insn % 256) && !s.onFawn n && decide (c.groupsOn < 8) && decide (j.run.ramping n < 4) then
    s.setJob k { j with run := (j.run.setCore n { c with groupsOn := 8, ramping := true }).countCore n 0x10 1 }
  else s

/-- An array whose rows wait for a slower tier ramps down once 16 beats have passed with none staged: how many column groups it
keeps when they arrive is free (R98, R288, log entry 41). Its requests, and those of a browse unit, go to the hubs (R276). -/
def State.cooled (s : State) (k n : Nat) (w : CoreWait) : State :=
  match w with
  | .peat a len part => ((s.drainArray n).rampStops k n).askUnit k n a len part
  | .browse => s.askMisses k n
  | _ => s

/-- The first access that waits for withheld data: any read of it and any write but of whole units (R492). -/
def State.withheldRead (s : State) (k : Nat) (xs : List Access) : Option Nat :=
  (xs.find? (fun x => (s.job k).blocked x.addr x.len x.write)).map (·.addr)

/-- Retire one instruction of core `n`, if its program holds the word there and the core may go on; `then'` is what the
retired instruction does beyond its own job. A read of withheld data waits (R492), a write waits while the journal is full (R354), and
an access that finds no request slot waits on the hub's handshake (R21, R276). -/
def State.retireThen (s : State) (n word : Nat) (f : Job → Core → Effect) (then' : Nat → Core → Done → State → State) : State :=
  match s.mayIssue n with
  | none => s
  | some k =>
    let j := s.job k
    let c := j.run.core n
    let sec := j.image.sec n
    if sec.length ≤ c.insn then s.stopCore k n (.lane 0 0)
    else if sec.wordAt c.insn ≠ word then s
    else
      match f j c with
      | .wait w j' => (s.setJob k { j' with run := j'.run.setCore n { j'.run.core n with wait := w, inCmd := w.inCmd } }).cooled k n w
      | .stop p => s.stopCore k n p
      | .halt p j' => (s.setJob k j').stopCore k n p
      | .done d =>
        match s.withheldRead k d.accesses with
        | some a => s.setJob k { j with run := j.run.setCore n { c with wait := .held a } }
        | none =>
          if d.accesses.any (·.write) && s.journalFull k then s.journalStall k
          else if s.noSlot k (fun i a => a.accesses i n d.accesses) then s
          else then' k c d (s.finishInsn k n d)

/-- Retire one instruction of core `n` that does nothing beyond its own job. -/
def State.retire (s : State) (n word : Nat) (f : Job → Core → Effect) : State :=
  s.retireThen n word f (fun _ _ _ s => s)

/-- An array command of a logical core has completed, and its array begins to ramp down. Each failure that it met re-ran the command,
with its accesses (R293); after a second one the core is held, and its stage moves or stays on the fawn path (R85). A command
that streamed nothing met no check. -/
def State.arrayChecks (s : State) (k n : Nat) (d : Done) : State :=
  match d.fails with
  | none => s
  | some f =>
    let s := s.drainArray n
    let s := { s with freeCtr := s.freeCtr + 1 }
    let s := (List.range (f.1 + f.2)).foldl (fun (s : State) _ => s.accesses k n d.accesses) s
    (((s.healthCount 0x28 f.1).healthCount 0x30 f.2).healthCount 0x20 (f.1 + f.2)).holdFailed n (f.1 + f.2)

/-- A logical core's number (R14). -/
def coreOk (n : Nat) : Bool := decide (n < 512)

/-- Change a waiting core outside its own instruction. -/
def State.setCore (s : State) (k n : Nat) (c : Core) : State :=
  s.setJob k { s.job k with run := (s.job k).run.setCore n c }

end Sys2Proof.Machine
end

