-- ==== Sys2Proof/Machine/Fetch.lean ====
section
/-! DEFINITION. What commands wait for in slower tiers (R217, R288): whether a cluster's SRAM holds what an access needs,
and the units that an instruction must still have. -/

namespace Sys2Proof.Machine

/-- A cluster's SRAM serves a granule mask of a line in line: its piece is in the ember tier, or its granules are valid in
the hinted cache (R263, R264, R269). -/
def Tier.holds (t : Tier) (line mask : Nat) : Bool :=
  (match NMap.find t.ember (line / 16) with | some e => !e.gone.testBit (line % 16) | none => false) ||
    (match NMap.find t.cache line with
     | some l => mask &&& l.valid == mask
     | none => false)

/-- A write that does not hit goes to the peat tier only under the hints that do not allocate (R269, R270). -/
def Tier.serves (t : Tier) (line mask hint : Nat) (write : Bool) : Bool :=
  t.holds line mask || (write && (hint == 0 || hint == 2))

/-- The 4 KiB units that bytes touch, by first address. -/
def linesOf (a len : Nat) : List Nat :=
  if len = 0 then [] else (List.range ((a + len - 1) / 4096 + 1 - a / 4096)).map (fun i => (a / 4096 + i) * 4096)

/-- The granules that bytes touch, by first address (R217). -/
def granulesOf (a len : Nat) : List Nat :=
  if len = 0 then [] else (List.range ((a + len - 1) / 256 + 1 - a / 256)).map (fun i => (a / 256 + i) * 256)

/-- The mask of the bytes of `[a, a + len)` within the 4 KiB unit at `u`. -/
def maskIn (a len u : Nat) : Nat :=
  let lo := max a u
  let hi := min (a + len) (u + 4096)
  granuleMask lo (hi - lo)

/-- A cluster's SRAM holds all bytes of a read. -/
def Tier.holdsAll (t : Tier) (x : Access) : Bool :=
  (linesOf x.addr x.len).all (fun u => t.holds (u / 4096) (maskIn x.addr x.len u))

/-- A tile, page or slice has not arrived from a slower tier: not held by the cluster, not fetched ahead, and not waited for before
(R286, R288). -/
def Core.lacking (c : Core) (t : Tier) (x : Access) : Bool :=
  !x.write && !c.ahead.contains x.addr && !c.arrived.contains x.addr && !t.holdsAll x

/-- The first unit that some reads lack. -/
def State.lacks (s : State) (n : Nat) (c : Core) (xs : List Access) : Option Access :=
  xs.find? (c.lacking (s.tiers.tier (n / 16)))

/-- Wait for the first unit that some reads lack, or go on: each such wait counts once (R288, R295). Those before it have been read on
demand (R287). -/
def State.orFetch (s : State) (n : Nat) (xs : List Access) (j : Job) (c : Core) (go : Effect) : Effect :=
  match s.lacks n c xs with
  | some u =>
    let before := (xs.takeWhile (fun x => !c.lacking (s.tiers.tier (n / 16)) x)).map (·.addr)
    let c := { c with arrived := c.arrived ++ before.filter (fun a => !c.arrived.contains a) }
    .wait (.peat u.addr u.len u.part) { j with run := (j.run.setCore n c).countCluster (n / 16) 0x50 1 }
  | none => go

end Sys2Proof.Machine
end

