-- ==== Sys2Proof/Machine/Fp.lean ====
section
/-! DEFINITION. Exact arithmetic on the numbers of the P6's formats, and the one rounding that each operation makes
(R82, R143, R208, R210). A finite number is a sign, a mantissa and an exponent of two; nothing is lost before rounding. -/

namespace Sys2Proof.Machine

/-- A number: a NaN with the FP32 pattern it carries, an infinity, or the exact value ±m × 2^e. -/
inductive Num where
  | nan (p : Nat)
  | inf (neg : Bool)
  | fin (neg : Bool) (m : Nat) (e : Int)
  deriving DecidableEq, Repr

/-- Bits of a natural number. -/
def bitLen (m : Nat) : Nat := if m = 0 then 0 else Nat.log2 m + 1

/-- `m × 2^s` rounded to an integer, to nearest with ties to even (R210). -/
def rne (m : Nat) (s : Int) : Nat :=
  match s with
  | .ofNat k => m * 2 ^ k
  | .negSucc k =>
    let d := 2 ^ (k + 1)
    let q := m / d
    let r := m % d
    if d < 2 * r then q + 1 else if 2 * r = d then q + q % 2 else q

/-- `m × 2^s` rounded up to an integer (R147). -/
def roundUpTo (m : Nat) (s : Int) : Nat :=
  match s with
  | .ofNat k => m * 2 ^ k
  | .negSucc k => cdiv m (2 ^ (k + 1))

/-! ## Floating-point codes -/

/-- A binary format: exponent bits and mantissa bits. -/
structure FpFmt where
  eb : Nat
  mb : Nat
  deriving DecidableEq, Repr

def fp32 : FpFmt := { eb := 8, mb := 23 }
def bf16 : FpFmt := { eb := 8, mb := 7 }
def fp16 : FpFmt := { eb := 5, mb := 10 }

/-- Exponent bias. -/
def FpFmt.bias (f : FpFmt) : Int := 2 ^ (f.eb - 1) - 1

/-- Magnitude code of infinity in an IEEE format. -/
def FpFmt.infCode (f : FpFmt) : Nat := (2 ^ f.eb - 1) * 2 ^ f.mb

/-- Magnitude code nearest to `m × 2^e` by a rounding, without regard to the format's largest exponent. -/
def FpFmt.magCode (f : FpFmt) (rnd : Nat → Int → Nat) (m : Nat) (e : Int) : Nat :=
  if m = 0 then 0
  else
    let emin : Int := 1 - f.bias
    let top := e + (bitLen m - 1 : Nat)
    let base := max top emin
    let k := rnd m (e - (base - f.mb))
    (base - emin).toNat * 2 ^ f.mb + k

/-- The number that a magnitude code means when it is finite. -/
def FpFmt.magNum (f : FpFmt) (neg : Bool) (code : Nat) : Num :=
  let x := code / 2 ^ f.mb
  let m := code % 2 ^ f.mb
  if x = 0 then .fin neg m (1 - f.bias - f.mb) else .fin neg (m + 2 ^ f.mb) (x - f.bias - f.mb)

/-- The number that a code of an IEEE format means. -/
def FpFmt.decode (f : FpFmt) (w : Nat) : Num :=
  let neg := nfld w (f.eb + f.mb) 1 == 1
  let code := w % 2 ^ (f.eb + f.mb)
  if code < f.infCode then f.magNum neg code
  else if code = f.infCode then .inf neg
  else .nan (b2n neg * 2 ^ 31 + (code - f.infCode) * 2 ^ (23 - f.mb))

/-- The code of a number in an IEEE format: one rounding to nearest with ties to even, overflow to infinity, NaNs quiet
with their sign and the top of their payload (R210). -/
def FpFmt.encode (f : FpFmt) (x : Num) : Nat :=
  match x with
  | .nan p =>
    nfld p 31 1 * 2 ^ (f.eb + f.mb) + f.infCode + 2 ^ (f.mb - 1) + p % 2 ^ 22 / 2 ^ (23 - f.mb)
  | .inf neg => b2n neg * 2 ^ (f.eb + f.mb) + f.infCode
  | .fin neg m e => b2n neg * 2 ^ (f.eb + f.mb) + min f.infCode (f.magCode rne m e)

/-- Infinity or NaN. -/
def Num.nonfinite : Num → Bool
  | .fin .. => false
  | _ => true

/-! ## Exact operations (R210) -/

/-- Zero. -/
def Num.zero : Num := .fin false 0 0

/-- A natural number. -/
def Num.ofNat (m : Nat) : Num := .fin false m 0

/-- An integer. -/
def Num.ofInt (v : Int) : Num := .fin (decide (v < 0)) v.natAbs 0

/-- What a number contributes to the pattern of a NaN that it gives rise to. -/
def Num.key : Num → List Int
  | .nan p => [0, p]
  | .inf n => [1, b2n n]
  | .fin n m e => [2, b2n n, m, e]

/-- The NaN that an operation gives: its pattern is free (log entry 24). -/
def Num.newNan (x y : Num) : Num := .nan (Config.nanBits (x.key ++ y.key))

/-- The signed mantissa of a finite number over a lower exponent. -/
def signedAt (neg : Bool) (m : Nat) (e at' : Int) : Int :=
  let v : Int := m * 2 ^ (e - at').toNat
  if neg then -v else v

/-- Negation. -/
def Num.neg : Num → Num
  | .nan p => .nan p
  | .inf n => .inf !n
  | .fin n m e => .fin (!n) m e

/-- Magnitude. -/
def Num.abs : Num → Num
  | .nan p => .nan p
  | .inf _ => .inf false
  | .fin _ m e => .fin false m e

/-- Exact sum. -/
def Num.add (x y : Num) : Num :=
  match x, y with
  | .nan p, _ => (Num.nan p).newNan y
  | _, .nan p => x.newNan (.nan p)
  | .inf a, .inf b => if a == b then .inf a else x.newNan y
  | .inf a, .fin .. => .inf a
  | .fin .., .inf b => .inf b
  | .fin n1 m1 e1, .fin n2 m2 e2 =>
    let e := min e1 e2
    let v := signedAt n1 m1 e1 e + signedAt n2 m2 e2 e
    if v = 0 then .fin (n1 && n2) 0 e else .fin (decide (v < 0)) v.natAbs e

/-- Exact difference. -/
def Num.sub (x y : Num) : Num := x.add y.neg

/-- Exact product. -/
def Num.mul (x y : Num) : Num :=
  match x, y with
  | .nan p, _ => (Num.nan p).newNan y
  | _, .nan p => x.newNan (.nan p)
  | .inf a, .inf b => .inf (a != b)
  | .inf a, .fin n m _ => if m = 0 then x.newNan y else .inf (a != n)
  | .fin n m _, .inf b => if m = 0 then x.newNan y else .inf (n != b)
  | .fin n1 m1 e1, .fin n2 m2 e2 => .fin (n1 != n2) (m1 * m2) (e1 + e2)

/-- Quotient, with enough bits and a sticky bit that any rounding of it to at most 60 bits is the rounding of the exact
quotient (R208). -/
def Num.div (x y : Num) : Num :=
  match x, y with
  | .nan p, _ => (Num.nan p).newNan y
  | _, .nan p => x.newNan (.nan p)
  | .inf _, .inf _ => x.newNan y
  | .inf a, .fin n _ _ => .inf (a != n)
  | .fin n _ _, .inf b => .fin (n != b) 0 0
  | .fin n1 m1 e1, .fin n2 m2 e2 =>
    if m2 = 0 then (if m1 = 0 then x.newNan y else .inf (n1 != n2))
    else
      let sh := 64 + bitLen m2
      let a := m1 * 2 ^ sh
      .fin (n1 != n2) (2 * (a / m2) + b2n (a % m2 != 0)) (e1 - e2 - sh - 1)

/-- The integer square root, built bit by bit from bit `b` down. -/
def isqrt (b r n : Nat) : Nat :=
  let t := r + 2 ^ b
  let r' := if t * t ≤ n then t else r
  match b with
  | 0 => r'
  | k + 1 => isqrt k r' n

/-- Square root, in the same sense as `Num.div` (R208). -/
def Num.sqrt (x : Num) : Num :=
  match x with
  | .nan p => (Num.nan p).newNan .zero
  | .inf n => if n then x.newNan .zero else x
  | .fin n m e =>
    if m = 0 then x
    else if n then x.newNan .zero
    else
      let odd := e % 2 != 0
      let m1 := (if odd then 2 * m else m) * 2 ^ 128
      let e1 := (if odd then e - 1 else e) - 128
      let r := isqrt (bitLen m1 / 2 + 1) 0 m1
      .fin false (2 * r + b2n (r * r != m1)) (e1 / 2 - 1)

/-- Comparison; none where either is a NaN. -/
def Num.cmp (x y : Num) : Option Ordering :=
  match x, y with
  | .nan _, _ => none
  | _, .nan _ => none
  | .inf a, .inf b => some (if a == b then .eq else if a then .lt else .gt)
  | .inf a, .fin .. => some (if a then .lt else .gt)
  | .fin .., .inf b => some (if b then .gt else .lt)
  | .fin n1 m1 e1, .fin n2 m2 e2 =>
    let e := min e1 e2
    some (compare (signedAt n1 m1 e1 e) (signedAt n2 m2 e2 e))

/-- The sign of a number. -/
def Num.isNeg : Num → Bool
  | .nan p => nfld p 31 1 == 1
  | .inf n => n
  | .fin n _ _ => n

/-- The larger; NaN if either is; +0 above −0 (R208). -/
def Num.max (x y : Num) : Num :=
  match x.cmp y with
  | none => x.newNan y
  | some .lt => y
  | some .gt => x
  | some .eq => if x.isNeg then y else x

/-- The smaller, under the same rules (R208). -/
def Num.min (x y : Num) : Num :=
  match x.cmp y with
  | none => x.newNan y
  | some .lt => x
  | some .gt => y
  | some .eq => if x.isNeg then x else y

/-- The nearest integer, ties to even; none for NaN and the infinities. -/
def Num.toInt : Num → Option Int
  | .fin n m e => some (if n then -(rne m e : Int) else (rne m e : Int))
  | _ => none

/-! ## FP32 operations with one rounding -/

/-- A number from FP32 bits. -/
def f32 (w : Nat) : Num := fp32.decode w

/-- FP32 bits of a number. -/
def toF32 (x : Num) : Nat := fp32.encode x

/-- Sum rounded to FP32. -/
def addF32 (a b : Nat) : Nat := toF32 ((f32 a).add (f32 b))

/-- Product rounded to FP32. -/
def mulF32 (a b : Nat) : Nat := toF32 ((f32 a).mul (f32 b))

/-- `a × b + c` rounded once to FP32. -/
def fmaF32 (a b c : Nat) : Nat := toF32 (((f32 a).mul (f32 b)).add (f32 c))

end Sys2Proof.Machine
end

