-- ==== Sys2Proof/Machine/Formats.lean ====
section
/-! DEFINITION. The shared formats: element codes, block and group scales, quantisation on the way out (R147), the layout
of vectors (R73, R526), and the alignment of activations before they stream (R74, R79). -/

namespace Sys2Proof.Machine

/-! ## Elements (R75, R147, R522) -/

/-- Bits of one element of a format code. -/
def fmtBits (f : Nat) : Nat :=
  match f with
  | 4 => 6 | 5 => 6 | 6 => 4 | 7 => 4 | 8 => 2 | 9 => 16 | 10 => 16 | 11 => 32 | 13 => 16 | _ => 8

/-- The floating-point shape of a format's elements, for the formats that have one. -/
def fmtShape (f : Nat) : Option FpFmt :=
  match f with
  | 2 => some { eb := 4, mb := 3 } | 3 => some { eb := 5, mb := 2 } | 4 => some { eb := 3, mb := 2 }
  | 5 => some { eb := 2, mb := 3 } | 6 => some { eb := 2, mb := 1 } | 9 => some bf16 | 10 => some fp16
  | 11 => some fp32 | _ => none

/-- Largest finite magnitude code of an MX floating-point element (OCP MX v1.0, named in R147). -/
def mxMaxCode (f : Nat) : Nat :=
  match f with
  | 2 => 0x7E | 3 => 0x7B | 4 => 0x1F | 5 => 0x1F | _ => 0x7

/-- The element format's largest exponent (R147). -/
def mxEmax (f : Nat) : Int :=
  match f with
  | 2 => 8 | 3 => 15 | 4 => 4 | 5 => 2 | 6 => 2 | _ => 0

/-- The MX formats. -/
def isMx (f : Nat) : Bool := decide (1 ≤ f) && decide (f ≤ 6)

/-- Formats whose elements stream in two's complement (R74). -/
def isIntFmt (f : Nat) : Bool := f == 1 || f == 7 || f == 8 || f == 12 || f == 13

/-- Signed value of the low `n` bits. -/
def signedBits (n w : Nat) : Int :=
  let v := w % 2 ^ n
  if v < 2 ^ (n - 1) then (v : Int) else (v : Int) - 2 ^ n

/-- Two's complement code of an integer at `n` bits. -/
def codeOf (n : Nat) (v : Int) : Nat := (v % 2 ^ n).toNat

/-- The value of an element code, apart from its block's scale. -/
def elemNum (f code : Nat) : Num :=
  match fmtShape f with
  | some sh =>
    if f = 2 then
      if code % 128 = 0x7F then .nan (2 ^ 31 * nfld code 7 1 + 2 ^ 22) else sh.magNum (nfld code 7 1 == 1) (code % 128)
    else if f = 4 ∨ f = 5 then sh.magNum (nfld code 5 1 == 1) (code % 32)
    else if f = 6 then sh.magNum (nfld code 3 1 == 1) (code % 8)
    else sh.decode code
  | none =>
    match Num.ofInt (signedBits (fmtBits f) code) with
    | .fin n m e => .fin n m (if f = 1 then e - 6 else e)
    | x => x

/-- Bytes of one scale; 0 for formats that carry none. -/
def scaleBytes (f : Nat) : Nat := if isMx f then 1 else if f = 7 ∨ f = 8 then 2 else 0

/-- The value of a scale code: E8M0 for MX formats, BF16 for INT4G and TERN2, one for the others. -/
def scaleNum (f code : Nat) : Num :=
  if isMx f then (if code = 255 then .nan 0x7FC00000 else .fin false 1 ((code : Int) - 127))
  else if f = 7 ∨ f = 8 then bf16.decode code
  else .fin false 1 0

/-- Elements to a scale: `g` for INT4G, else 32. -/
def blockLen (f g : Nat) : Nat := if f = 7 then g else 32

/-- Size of an INT4G group by its code (R77, R142). -/
def groupLen (code : Nat) : Nat := 32 * 2 ^ code

/-! ## Quantisation (R147) -/

/-- A block as quantised: scale code, element codes, values saturated, and whether it received what it cannot hold. -/
structure QBlock where
  scale : Nat
  codes : List Nat
  sat   : Nat := 0
  nonf  : Nat := 0
  deriving DecidableEq, Repr

/-- A magnitude that saturates at a greatest code. -/
def satCode (code top : Nat) : Nat × Nat := if top < code then (top, 1) else (code, 0)

/-- Saturate an integer to `n`-bit two's complement. -/
def satInt (n : Nat) (v : Int) : Int := max (-(2 ^ (n - 1))) (min (2 ^ (n - 1) - 1) v)

/-- Convert one value to an element format 0x9 to 0xD: code, saturated, received what it cannot hold. -/
def quantElem (f : Nat) (x : Num) : Nat × Nat × Nat :=
  match fmtShape f with
  | some sh => (sh.encode x, 0, 0)
  | none =>
    let n := fmtBits f
    match x with
    | .nan _ => (0, 0, 1)
    | .inf neg => (codeOf n (if neg then -(2 ^ (n - 1)) else 2 ^ (n - 1) - 1), 0, 1)
    | .fin .. =>
      let v := x.toInt.getD 0
      (codeOf n (satInt n v), b2n (satInt n v != v), 0)

/-- The largest magnitude of a list of finite values. -/
def maxMag (xs : List Num) : Num := xs.foldl (fun m x => if m.cmp x.abs == some .lt then x.abs else m) .zero

/-- ⌊log2⌋ of a positive value; none for zero. -/
def Num.log2? : Num → Option Int
  | .fin _ m e => if m = 0 then none else some (e + (bitLen m - 1 : Nat))
  | _ => none

/-- One value scaled by 2^−s as an MX element code, with whether it saturated. -/
def mxElem (f : Nat) (s : Int) (x : Num) : Nat × Nat :=
  match x with
  | .fin neg m e =>
    match fmtShape f with
    | some sh =>
      let (c, sat) := satCode (sh.magCode rne m (e - s)) (mxMaxCode f)
      (b2n neg * 2 ^ (fmtBits f - 1) + c, sat)
    | none =>
      let (c, sat) := satCode (rne m (e - s + 6)) 127
      (codeOf 8 (if neg then -(c : Int) else c), sat)
  | _ => (0, 0)

/-- BF16 code of a magnitude, rounded up. -/
def bf16Up (x : Num) : Nat :=
  match x with
  | .fin _ m e => min bf16.infCode (bf16.magCode roundUpTo m e)
  | _ => bf16.infCode

/-- Quantise one block or group of FP32 values (R147). A shared scale that would lie below 2^-127 is 2^-127 (log entry 120). -/
def quantBlock (f : Nat) (xs : List Num) : QBlock :=
  if isMx f then
    if xs.any Num.nonfinite then
      { scale := 255, codes := xs.map (fun x => Config.nanElement f (toF32 x) % 2 ^ fmtBits f), nonf := 1 }
    else
      let s : Int := match (maxMag xs).log2? with
        | some l => max (-127) (l - mxEmax f)
        | none => -127
      let cs := xs.map (mxElem f s)
      { scale := (s + 127).toNat, codes := cs.map (·.1), sat := (cs.map (·.2)).sum }
  else if f = 7 then
    if xs.any Num.nonfinite then { scale := 0x7FC0, codes := xs.map (fun _ => 0), nonf := 1 }
    else
      let s := bf16Up ((maxMag xs).div (.ofNat 7))
      let cs := xs.map (fun x => if s = 0 then 0 else codeOf 4 (((x.div (bf16.decode s)).toInt).getD 0))
      { scale := s, codes := cs }
  else if f = 8 then
    if xs.any Num.nonfinite then { scale := 0x7FC0, codes := xs.map (fun _ => 0), nonf := 1 }
    else
      let s := bf16Up (maxMag xs)
      let half := (bf16.decode s).mul (.fin false 1 (-1))
      let one := fun (x : Num) =>
        let big := match x.abs.cmp half with | some .lt => false | none => false | _ => true
        if !big || x.abs.cmp .zero == some .eq then 0 else if x.isNeg then 3 else 1
      { scale := s, codes := xs.map one }
  else
    let cs := xs.map (quantElem f)
    { scale := 0, codes := cs.map (·.1), sat := (cs.map (·.2.1)).sum, nonf := (cs.map (·.2.2)).sum }

/-! ## Layout (R73, R526) -/

/-- Cut a list into runs of `n`. -/
def chunksOf {α : Type} (n fuel : Nat) (l : List α) : List (List α) :=
  match fuel with
  | 0 => []
  | k + 1 => if l.isEmpty then [] else l.take n :: chunksOf n k (l.drop n)

/-- The number that codes packed at `w` bits spell, element 0 lowest. -/
def packCodes (w : Nat) (cs : List Nat) : Nat :=
  match cs with
  | [] => 0
  | c :: rest => c % 2 ^ w + 2 ^ w * packCodes w rest

/-- Bytes of a slice of `r` elements with its scales (R73, R526). -/
def sliceBytes (f g r : Nat) : Nat := cdiv (r * fmtBits f) 8 + cdiv r (blockLen f g) * scaleBytes f

/-- Bytes of a vector of `k` elements (R526). -/
def vecBytes (f g k : Nat) : Nat := k / 256 * sliceBytes f g 256 + (if k % 256 = 0 then 0 else sliceBytes f g (k % 256))

/-- A vector as quantised and laid out: bytes, values saturated, blocks that received what they cannot hold. -/
structure QVec where
  bytes : List Byte := []
  sat   : Nat := 0
  nonf  : Nat := 0
  deriving DecidableEq, Repr

/-- Quantise and lay out one slice. -/
def quantSlice (f g : Nat) (xs : List Num) : QVec :=
  let bs := (chunksOf (blockLen f g) xs.length xs).map (quantBlock f)
  let codes := bs.flatMap (·.codes)
  { bytes := leBytes (cdiv (xs.length * fmtBits f) 8) (packCodes (fmtBits f) codes) ++
      bs.flatMap (fun b => leBytes (scaleBytes f) b.scale)
    sat := (bs.map (·.sat)).sum, nonf := (bs.map (·.nonf)).sum }

/-- Quantise and lay out a whole vector. -/
def quantVec (f g : Nat) (xs : List Num) : QVec :=
  ((chunksOf 256 xs.length xs).map (quantSlice f g)).foldl
    (fun a q => { bytes := a.bytes ++ q.bytes, sat := a.sat + q.sat, nonf := a.nonf + q.nonf }) {}

/-- A block as stored: its scale code and element codes. -/
structure Blk where
  scale : Nat
  codes : List Nat
  deriving DecidableEq, Repr

/-- The blocks of a slice of `r` elements at `a`. -/
def readSlice (m : NMap Byte) (f g a r : Nat) : List Blk :=
  let w := fmtBits f
  let data := cdiv (r * w) 8
  let word := memWord m a data
  let n := blockLen f g
  (List.range (cdiv r n)).map (fun b =>
    { scale := memWord m (a + data + b * scaleBytes f) (scaleBytes f)
      codes := (List.range (min n (r - b * n))).map (fun i => nfld word ((b * n + i) * w) w) })

/-- Elements of K-slice `s` of a reduction of `k`. -/
def sliceLen (k s : Nat) : Nat := min 256 (k - 256 * s)

/-- The slices of a vector of `k` elements at `a`. -/
def readVec (m : NMap Byte) (f g a k : Nat) : List (List Blk) :=
  (List.range (cdiv k 256)).map (fun s => readSlice m f g (a + s * sliceBytes f g 256) (sliceLen k s))

/-- Values of a block with its scale, each exactly converted. -/
def Blk.values (b : Blk) (f : Nat) : List Num := b.codes.map (fun c => (elemNum f c).mul (scaleNum f b.scale))

/-- Values of a vector. -/
def vecValues (m : NMap Byte) (f g a k : Nat) : List Num := (readVec m f g a k).flatten.flatMap (fun b => b.values f)

/-! ## Alignment and streaming (R74, R79) -/

/-- The full width of an activation format (R75). -/
def fullBits (f : Nat) : Nat :=
  match f with
  | 1 => 8 | 4 => 9 | 5 => 6 | 6 => 4 | 7 => 4 | 8 => 2 | 12 => 8 | _ => 16

/-- Exact values of a block's elements without its scale; what is not finite counts as 0 for the depth. -/
def Blk.elems (b : Blk) (f : Nat) : List Num :=
  b.codes.map (fun c => let x := elemNum f c; if x.nonfinite then Num.zero else x)

/-- The exponent of the unit at full width that alignment gives a block (R74 step 2). -/
def alignUnit (f : Nat) (xs : List Num) : Int :=
  match (maxMag xs).log2? with
  | none => if f = 1 then -6 else 0
  | some top =>
    if isIntFmt f then
      let least := xs.all (fun x => match x with
        | .fin n m _ => n || decide (m = 0) || x.log2? != some top
        | _ => true)
      let pow := xs.all (fun x => match x with
        | .fin _ m _ => x.log2? != some top || m == 2 ^ (bitLen m - 1)
        | _ => true)
      if least && pow then top - (fullBits f - 1 : Nat) else top - (fullBits f - 2 : Nat)
    else top - (fullBits f - 1 : Nat)

/-- Elements rounded to multiples of 2^u, to nearest with ties to even. -/
def roundAll (xs : List Num) (u : Int) : List Int :=
  xs.map (fun x => match x with
    | .fin n m e => if n then -(rne m (e - u) : Int) else (rne m (e - u) : Int)
    | _ => 0)

/-- Elements at `k` streamed bits over the unit 2^u: where rounding carries out of the top bit the unit rises by one place
and the block is rounded again (R74 step 3). -/
def streamAt (f k : Nat) (xs : List Num) (u : Int) : List Int × Int :=
  let ys := roundAll xs u
  let carry := if isIntFmt f then ys.any (fun y => decide (2 ^ (k - 1) ≤ y)) else ys.any (fun y => decide (2 ^ k ≤ y.natAbs))
  if carry then (roundAll xs (u + 1), u + 1) else (ys, u)

/-- A block as it streams: integers, the exponent of their unit, bits streamed, its scale, whether it is poisoned by what
is not finite (R74 step 4), and how it stopped (0 not early, 1 losing nothing, 2 losing something). -/
structure Stream1 where
  ys    : List Int
  unit  : Int
  bits  : Nat
  scale : Num
  bad   : Bool
  stop  : Nat
  deriving DecidableEq, Repr

/-- The precision in force for one array command (R77, R81). -/
structure Prec where
  out   : Nat
  act   : Nat
  wgt   : Nat
  group : Nat
  diag  : Bool
  adaptive : Bool
  bound : Nat
  least : Nat
  bits  : Nat
  deriving DecidableEq, Repr

/-- The least depth from `k` on at which the residual is within the bound; the budget where there is none. With a bound
exponent of 0 a block stops only where nothing is lost, as R79's own sentence says (log entry 26). -/
def stopDepth (p : Prec) (xs : List Num) (x : List Int) (u : Int) (s : Nat) (fuel k : Nat) : Nat × Nat :=
  let (ys, v) := streamAt p.act k xs (u + (fullBits p.act - k : Nat))
  let e := ((x.zip ys).map (fun t => (t.1 - t.2 * 2 ^ (v - u).toNat).natAbs)).sum
  match fuel with
  | 0 => (k, e)
  | n + 1 =>
    let enough := if p.bound = 0 then e == 0 else decide (e * 2 ^ p.bound ≤ s)
    if enough || decide (p.bits ≤ k) then (k, e) else stopDepth p xs x u s n (k + 1)

/-- A block of activations as it streams (R74, R79). In fixed mode the exact element is rounded once; in adaptive mode an element
is rounded at A_full and that again to the bits of the block's depth (log entry 115). -/
def streamBlock (p : Prec) (b : Blk) : Stream1 :=
  let f := p.act
  let full := fullBits f
  let xs := b.elems f
  let u := alignUnit f xs
  let scale := scaleNum f b.scale
  let bad := scale.nonfinite || b.codes.any (fun c => (elemNum f c).nonfinite)
  if p.adaptive then
    let (x, u0) := streamAt f full xs u
    let xs0 := x.map (fun v => match Num.ofInt v with | .fin n m e => Num.fin n m (e + u0) | y => y)
    let s := (x.map Int.natAbs).sum
    let (k, e) := stopDepth p xs0 x u0 s 16 (min p.least p.bits)
    let (ys, v) := streamAt f k xs0 (u0 + (full - k : Nat))
    { ys, unit := v, bits := k, scale, bad, stop := if k < p.bits then (if e = 0 then 1 else 2) else 0 }
  else
    let (ys, v) := streamAt f p.bits xs (u + (full - p.bits : Nat))
    { ys, unit := v, bits := p.bits, scale, bad, stop := 0 }

end Sys2Proof.Machine
end

