-- ==== Sys2Proof/Machine/Scalar.lean ====
section
/-! DEFINITION. The scalar and control instructions (R199, R202). -/

namespace Sys2Proof.Machine

/-- An instruction that only writes RD. -/
def scalar (rd : Nat) (v : Job → Core → W64) (j : Job) (c : Core) : Effect :=
  .done { job := j, core := c.setReg rd (v j c) }

/-- The second operand: RB + IMM, wrapping. -/
def operandV (f : FmtS) (c : Core) : W64 := c.reg f.rb + f.imm

/-- The comparison that COND names. -/
def condHolds (cond : Nat) (a b : W64) : Bool :=
  match cond with
  | 0 => true
  | 1 => a == b
  | 2 => a != b
  | 3 => a.slt b
  | 4 => !a.slt b
  | 5 => a.ult b
  | 6 => !a.ult b
  | _ => false

/-- Register fields that name registers. -/
def fmtSOk (f : FmtS) : Bool :=
  decide (f.rd < 32) && decide (f.ra < 32) && decide (f.rb < 32) && decide (f.cond < 16)

def execSli (n : Nat) (f : FmtS) (s : State) : Host.Outcome State Fault Refusal :=
  checked s (coreOk n && fmtSOk f) (s.retire n (wordS 0x01 f) (scalar f.rd (fun _ _ => f.imm)))

def execSadd (n : Nat) (f : FmtS) (s : State) : Host.Outcome State Fault Refusal :=
  checked s (coreOk n && fmtSOk f) (s.retire n (wordS 0x02 f) (scalar f.rd (fun _ c => c.reg f.ra + operandV f c)))

def execSmul (n : Nat) (f : FmtS) (s : State) : Host.Outcome State Fault Refusal :=
  checked s (coreOk n && fmtSOk f) (s.retire n (wordS 0x03 f) (scalar f.rd (fun _ c => c.reg f.ra * operandV f c)))

def execSand (n : Nat) (f : FmtS) (s : State) : Host.Outcome State Fault Refusal :=
  checked s (coreOk n && fmtSOk f) (s.retire n (wordS 0x04 f) (scalar f.rd (fun _ c => c.reg f.ra &&& operandV f c)))

def execSshr (n : Nat) (f : FmtS) (s : State) : Host.Outcome State Fault Refusal :=
  checked s (coreOk n && fmtSOk f) (s.retire n (wordS 0x05 f)
    (scalar f.rd (fun _ c => c.reg f.ra >>> ((operandV f c).toNat % 64))))

def execScmp (n : Nat) (f : FmtS) (s : State) : Host.Outcome State Fault Refusal :=
  checked s (coreOk n && fmtSOk f) (s.retire n (wordS 0x06 f)
    (scalar f.rd (fun _ c => if condHolds f.cond (c.reg f.ra) (operandV f c) then 1 else 0)))

/-- The scratchpad address of SLD and SST. -/
def scalarAddr (f : FmtS) (c : Core) : Nat := (c.reg f.ra + f.imm).toNat

/-- SLD: a lane fault outside the scratchpad or off 8 B (R202, R230). -/
def effectSld (f : FmtS) (j : Job) (c : Core) : Effect :=
  let a := scalarAddr f c
  if a % 8 ≠ 0 || !inScratch a 8 then .stop (.lane 0 a)
  else .done { job := j, core := c.setReg f.rd (BitVec.ofNat 64 (memWord c.scratch a 8)) }

def execSld (n : Nat) (f : FmtS) (s : State) : Host.Outcome State Fault Refusal :=
  checked s (coreOk n && fmtSOk f) (s.retire n (wordS 0x08 f) (effectSld f))

/-- SST: a lane fault outside the scratchpad, off 8 B, or inside the PROGRAM region (R202, R230). -/
def effectSst (n : Nat) (f : FmtS) (j : Job) (c : Core) : Effect :=
  let a := scalarAddr f c
  if a % 8 ≠ 0 || !inScratch a 8 || (j.image.sec n).inProgram a 8 then .stop (.lane 0 a)
  else .done { job := j, core := { c with scratch := memWrite c.scratch a (leBytes 8 (c.reg f.rb).toNat) } }

def execSst (n : Nat) (f : FmtS) (s : State) : Host.Outcome State Fault Refusal :=
  checked s (coreOk n && fmtSOk f) (s.retire n (wordS 0x09 f) (effectSst n f))

/-! ## Parameter groups (R223 to R225) -/

/-- Parameter groups of a cluster (R55). -/
def Image.groupCount (i : Image) (cl : Nat) : Nat := (NMap.getD i.clusters cl {}).pgt

/-- The tables that a core reads: as they stood when its batch was formed (R225). -/
def JobRun.tables (r : JobRun) (c : Core) : NMap W32 :=
  match r.batchOf c with
  | some b => b.pgt
  | none => r.pgt

/-- A word of a group of the core's own cluster; 0 at or beyond the count (R202). -/
def Job.groupWord (j : Job) (n : Nat) (c : Core) (g w : Nat) : W32 :=
  if g < j.image.groupCount (n / 16) then NMap.getD (j.run.tables c) (pgtIndex (n / 16) g w) 0 else 0

def execSpg (n : Nat) (f : FmtS) (s : State) : Host.Outcome State Fault Refusal :=
  checked s (coreOk n && fmtSOk f) (s.retire n (wordS 0x0A f) (scalar f.rd (fun j c =>
    (j.groupWord n c ((c.reg f.ra + f.imm).toNat % 256) f.cond).setWidth 64)))

/-! ## Control -/

/-- BR: where COND holds the program continues at the target. -/
def effectBr (f : FmtS) (j : Job) (c : Core) : Effect :=
  .done { job := j, core := c
          next := if condHolds f.cond (c.reg f.ra) (c.reg f.rb) then some (fld f.imm 0 16) else none }

def execBr (n : Nat) (f : FmtS) (s : State) : Host.Outcome State Fault Refusal :=
  checked s (coreOk n && fmtSOk f) (s.retire n (wordS 0x0C f) (effectBr f))

/-- NEXT: the core has finished with its batch and waits for the next one of its stage. -/
def effectNext (n : Nat) (f : FmtS) (j : Job) (c : Core) : Effect :=
  .wait (.next f.rd) { j with run := j.run.setCore n { c with batch := none } }

/-- NEXT (R202). A core that waits stays at the boundary before it. -/
def execNext (n : Nat) (f : FmtS) (s : State) : Host.Outcome State Fault Refusal :=
  checked s (coreOk n && fmtSOk f) (s.retire n (wordS 0x0D f) (effectNext n f))

/-- The batch that a core's stage receives next: the first with rows that the core has not taken. -/
def JobRun.nextBatch (r : JobRun) (c : Core) : Option Batch :=
  r.batches.find? (fun b => decide (c.seen ≤ b.id) && !b.rows.isEmpty)

/-- A core takes a batch: RD gets the row count, RD + 1 the input base, RD + 2 the output base (R202). -/
def Core.take (c : Core) (rd : Nat) (b : Batch) : Core :=
  let c := ((c.setReg rd (BitVec.ofNat 64 b.rows.length)).setReg (rd + 1) b.inBase).setReg (rd + 2) b.outBase
  { c with wait := .run, insn := c.insn + 1, batch := some b.id, seen := b.id + 1 }

/-- A batch reaches a core that waits in NEXT, while its cluster's control core serves (R202, R444). -/
def execNextBatchDelivered (n : Nat) (s : State) : Host.Outcome State Fault Refusal :=
  checked s (coreOk n) (
    match s.working n with
    | none => s
    | some k =>
      let c := (s.job k).run.core n
      match c.wait, (s.job k).run.nextBatch c with
      | .next rd, some b => if s.clusterServes (n / 16) c.seen b.id then s.setCore k n (c.take rd b) else s
      | _, _ => s)

end Sys2Proof.Machine
end

