-- ==== Sys2Proof/Machine/ArrayOps.lean ====
section
/-! DEFINITION. What the array commands share (R72 to R97): precision words, weight tiles, exact block sums with their
roundings, passes and their beats, spill space, and the positions of a batch's tokens. -/

namespace Sys2Proof.Machine

/-! ## Precision (R77, R78, R81) -/

/-- The precision in force: the command's word, with bits 32:0 of a descriptor's override, clamped (R77, R81). -/
def precOf (word : Nat) (forced : Option W64) : Prec :=
  let act := nfld word 48 4
  let full := fullBits act
  let w := match forced with
    | some d => d.toNat
    | none => word
  let b := nfld w 0 5
  let bits := if b = 0 then full else min b full
  { out := nfld word 52 4, act, wgt := nfld word 44 4, group := groupLen (nfld word 42 2), diag := nfld word 40 2 == 1
    adaptive := w.testBit 32, bound := nfld w 24 5, least := min (max (nfld w 16 5) 1) bits, bits }

/-- The override of the batch that a core works on (R81). -/
def Job.forcedPrec (j : Job) (c : Core) : Option W64 := (j.run.batchOf c).bind (·.forced)

/-! ## Weights (R73, R75, R205, R522) -/

/-- Weights per cell (R75). -/
def perCell (f : Nat) : Nat := if f = 6 ∨ f = 7 then 2 else if f = 8 then 4 else 1

/-- The exponent of the unit of a weight's integer mantissa. -/
def wgtExp (f : Nat) : Int :=
  match f with
  | 1 => -6 | 2 => -9 | 4 => -4 | 5 => -3 | 6 => -1 | _ => 0

/-- The integer mantissa of a weight; none for a NaN (R75). -/
def wgtMant (f code : Nat) : Option Int :=
  match elemNum f code with
  | .fin n m e => some (signedAt n m e (wgtExp f))
  | _ => none

/-- Rows that share a weight scale (R73): INT8 weights carry none, so their whole slice is one group (R82). -/
def wgtGroup (p : Prec) : Nat := if p.wgt = 7 then p.group else if p.wgt = 12 then 256 else 32

/-- Elements that share an activation scale (R74). -/
def actBlock (p : Prec) : Nat := blockLen p.act p.group

/-- Bytes of a tile's scales (R73). -/
def scaleTile (p : Prec) : Nat := 256 / wgtGroup p * (256 * perCell p.wgt) * scaleBytes p.wgt

/-- Bytes from one tile to the next (R205). -/
def tileStride (p : Prec) : Nat := roundUp (65536 + scaleTile p) 4096

/-- A weight tile as the array holds it: mantissas and scales by row and output. -/
structure Tile where
  mant  : Nat → Nat → Option Int
  scale : Nat → Nat → Num

/-- The code of output `j` in the cell bytes of a row (R73). -/
def cellCode (f : Nat) (byte : Nat → Byte) (j : Nat) : Nat :=
  let w := 8 / perCell f
  nfld (byte (j * w / 8)).toNat (j * w % 8) w

/-- The tile at an address of job memory. -/
def tileAt (m : NMap Byte) (p : Prec) (a : Nat) : Tile :=
  { mant := fun r j => wgtMant p.wgt (cellCode p.wgt (fun b => memGet m (a + 256 * r + b)) j)
    scale := fun r j => scaleNum p.wgt (memWord m
      (a + 65536 + (r / wgtGroup p * (256 * perCell p.wgt) + j) * scaleBytes p.wgt) (scaleBytes p.wgt)) }

/-! ## Block sums (R82) -/

/-- The exact sum of products of streamed integers and mantissas; none where a mantissa is a NaN. -/
def mantSum (xs : List Int) (ws : List (Option Int)) : Option Int :=
  match xs, ws with
  | x :: xs, w :: ws =>
    match w, mantSum xs ws with
    | some v, some t => some (x * v + t)
    | _, _ => none
  | _, _ => some 0

/-- One block's contribution, rounded once to FP32 (R82); NaN where the block, a weight or a scale is not finite (R74). -/
def blockTerm (wexp : Int) (b : Stream1) (xs : List Int) (ws : List (Option Int)) (ws' : Num) : Nat :=
  let scale := b.scale.mul ws'
  match mantSum xs ws with
  | some t =>
    if b.bad || ws'.nonfinite then toF32 (b.scale.newNan ws')
    else toF32 (((Num.ofInt t).mul (.fin false 1 (b.unit + wexp))).mul scale)
  | none => toF32 (b.scale.newNan ws')

/-- Add a slice's block sums to an output's partial sum in ascending row order (R82): a block is the rows that share an
activation scale and a weight scale. -/
def addBlocks (p : Prec) (t : Tile) (j : Nat) (bs : List Stream1) (rows acc : Nat) (fuel r : Nat) : Nat :=
  match fuel with
  | 0 => acc
  | k + 1 =>
    if rows ≤ r then acc
    else
      let ab := actBlock p
      let hi := min rows (min ((r / ab + 1) * ab) ((r / wgtGroup p + 1) * wgtGroup p))
      let b := bs.getD (r / ab) { ys := [], unit := 0, bits := 0, scale := .zero, bad := false, stop := 0 }
      let xs := (b.ys.drop (r % ab)).take (hi - r)
      let ws := (List.range (hi - r)).map (fun i => t.mant (r + i) j)
      let term := blockTerm (wgtExp p.wgt) b xs ws (t.scale r j)
      addBlocks p t j bs rows (addF32 acc term) k hi

/-! ## The tally check (R72, R84, R90) -/

/-- A sum as a tally cell holds it: 28 bits, signed. -/
def tallyCell (v : Int) : Int := signedBits 28 (v % 2 ^ 28).toNat

/-- T_r of a row: the sum of the mantissas that the row's cells hold, before scales. A diagonal row holds one weight. A code
that is no number has no mantissa and adds nothing. -/
def Tile.rowTally (t : Tile) (p : Prec) (r : Nat) : Int :=
  let n := perCell p.wgt
  let ms := if p.diag then [t.mant r (n * r)] else (List.range (256 * n)).map (t.mant r)
  (ms.map (fun m => m.getD 0)).sum

/-- The 256 check cells once `rows` rows of a tile have loaded. Those of rows that a ragged slice does not load hold 0. DESIGN CHOICE
(log entry 130). -/
def Tile.tally (t : Tile) (p : Prec) (rows : Nat) : List Int :=
  (List.range 256).map (fun r => if r < rows then tallyCell (t.rowTally p r) else 0)

/-- What the tally column forms of a block's streamed bits: the sum of x_r × T_r. -/
def tallySum (xs ts : List Int) : Int := ((xs.zip ts).map (fun e => e.1 * e.2)).sum

/-- What the 48-bit adder below the array forms of the same bits: the sum over the columns of the block's unscaled column
sums, of mantissas by row and column. -/
def columnSum (xs : List Int) (cols : List (List Int)) : Int := (cols.map (fun ws => ((xs.zip ws).map (fun e => e.1 * e.2)).sum)).sum

/-- The P6 compares the two exactly (R84). -/
def tallyHolds (xs ts : List Int) (cols : List (List Int)) : Bool := tallySum xs ts == columnSum xs cols

/-- Activations of one vector as they stream: slices of blocks. -/
abbrev Staged := List (List Stream1)

/-- Stage `m` vectors of `k` elements from a region (R73, R74, R526). -/
def stage (mem : NMap Byte) (p : Prec) (a k m : Nat) : List Staged :=
  (List.range m).map (fun v =>
    (readVec mem p.act p.group (a + v * vecBytes p.act p.group k) k).map (fun s => s.map (streamBlock p)))

/-- Beats that a slice of a vector streams for: its deepest block (R76, R79). -/
def sliceBits (bs : List Stream1) : Nat := bs.foldl (fun m b => max m b.bits) 0

/-- Blocks of a vector that stopped early, losing something or nothing (R79, R80). -/
def stops (v : Staged) (kind : Nat) : Nat := ((v.flatten).filter (fun b => b.stop == kind)).length

/-! ## Passes (R88, R89, R92) -/

/-- One pass: the tile's key, its rows, its first vector and number of vectors, its slice, and whether it is the last over
its outputs. -/
structure Pass where
  tile  : Nat
  rows  : Nat
  first : Nat
  count : Nat
  slice : Nat
  last  : Bool

/-- The passes of `m` vectors over tiles (output group, slice), in bands of `band` vectors (R92). -/
def passesOf (tile : Nat → Nat → Nat) (rows : Nat → Nat) (groups slices m band : Nat) : List Pass :=
  (List.range (cdiv m band)).flatMap (fun g =>
    (List.range groups).flatMap (fun o =>
      (List.range slices).map (fun s =>
        { tile := tile o s, rows := rows s, first := g * band, count := min band (m - g * band), slice := s
          last := s + 1 == slices })))

/-- Reload beats that no pass hides (R88). -/
def bubbles (ps : List Pass) : Nat :=
  match ps with
  | a :: b :: rest => (if b.tile = a.tile then 0 else b.rows - a.count) + bubbles (b :: rest)
  | _ => 0

/-- Bits that a pass streams. -/
def Pass.bits (p : Pass) (bits : Nat → Nat → Nat) : Nat :=
  ((List.range p.count).map (fun i => bits (p.first + i) p.slice)).sum

/-- Tiles whose loading a list of passes needs, in order: a pass over the tile held needs none. -/
def loads (held : Option Nat) (ps : List Pass) : List Pass :=
  match ps with
  | [] => []
  | p :: rest => if held = some p.tile then loads held rest else p :: loads (some p.tile) rest

/-! ## Spill (R94 to R96) -/

/-- Bytes of an accumulator tile. -/
def accTile : Nat := 262144

/-- Where spilled tiles may live: SPILL regions first, then WORK regions not live at the boundary (R95). -/
def CoreSec.spillSlots (c : CoreSec) (insn : Nat) : List Nat :=
  let live := c.live? insn
  let slots := fun (kind : Nat) (dead : Bool) => (List.range c.regions.length).flatMap (fun i =>
    let r := c.regions.getD i {}
    if r.kind == kind && !(dead && live.regions.testBit i) then
      (List.range (r.size / accTile)).map (fun k => r.off + k * accTile)
    else [])
  slots 4 false ++ slots 3 true

/-- Where accumulator tile `t` lies: a bank, or a spill slot. -/
def tilePlace (banks : Nat) (slots : List Nat) (t : Nat) : Sum Nat Nat :=
  if t < banks then .inl (t * accTile) else .inr (slots.getD (t - banks) 0)

/-- Put an FP32 partial sum of vector `v` and column `j` of tile `t` where the tile lies. -/
def putPartial (banks : Nat) (slots : List Nat) (t v j y : Nat) (c : Core) : Core :=
  let off := v % 256 * 1024 + j % 256 * 4
  match tilePlace banks slots t with
  | .inl a => { c with acc := memWrite c.acc (a + off) (leBytes 4 y) }
  | .inr a => { c with scratch := memWrite c.scratch (a + off) (leBytes 4 y) }

/-! ## Positions (R145, R173) -/

/-- A page's address in a row's stream as its advance has it. -/
def Stream.pageAddr (e : Stream) (g k : Nat) : Option Nat := NMap.find e.pages (pageKey g k)

/-- The token entry of a key index (R170). -/
def Stream.tokenEntry (e : Stream) (m : NMap Byte) (g i : Nat) : Nat :=
  match e.pageAddr g (i / 64) with
  | some a => memWord m (a + 0xFC00 + 8 * (i % 64)) 8
  | none => 0

/-- Segment and position of a token, and whether there is one. -/
structure TokenEntry where
  seg  : Nat := 0
  pos  : Nat := 0
  some : Bool := false
  deriving DecidableEq, Repr

/-- The entry that precedes a row's first token: none at the start of a stream or after RESET (R173). -/
def Row.entryBefore (w : Row) (m : NMap Byte) (g : Nat) : TokenEntry :=
  if w.st.length = 0 then {}
  else
    let e := w.st.tokenEntry m g (w.st.length - 1)
    { seg := nfld e 48 16, pos := nfld e 0 48, some := true }

/-- The entry of the next token of a row, `n` tokens into its command, from the segment and position tensors named, 0xFFFF for
none (R173). Entries of a segment tensor have 2 B and those of a position tensor 8 B, one for each token of the command in its order
(log entry 31). -/
def TokenEntry.next (z : TokenEntry) (m : NMap Byte) (i : Image) (segT posT : Nat) (w : Row) (n : Nat) : TokenEntry :=
  let seg := if segT = 0xFFFF then w.st.segment else memWord m ((i.tensors.getD segT {}).addr + 2 * n) 2
  let pos := if posT ≠ 0xFFFF then memWord m ((i.tensors.getD posT {}).addr + 8 * n) 8 % 2 ^ 48
    else if !z.some || seg ≠ z.seg then w.st.posBase else (z.pos + 1) % 2 ^ 48
  { seg, pos, some := true }

/-- The attention control block of a core's first APPEND (opcode 0x23). -/
def CoreSec.firstAppend (c : CoreSec) : Option (NMap Byte) :=
  (((List.range c.length).map c.wordAt).find? (fun w => w % 256 == 0x23)).map (fun w => c.block (16 * nfld w 32 16) 64)

/-- The segment and position tensors under which the job's tokens are appended: those of the core's own first APPEND, else of the
first that any core of the job has; 0xFFFF for none (R145, R173; log entry 31). -/
def Image.entryTensors (i : Image) (n : Nat) : Nat × Nat :=
  match ((i.sec n).firstAppend).orElse (fun _ => (i.cores.filterMap (fun e => e.2.firstAppend)).head?) with
  | some b => (blockWord b 26 2, blockWord b 28 2)
  | none => (0xFFFF, 0xFFFF)

/-- Position of token `t` of a row whose first token is token `n` of the command (R145, R173). A stream without pages has no
token entries: its position counts its steps (log entry 31). -/
def Row.position (w : Row) (m : NMap Byte) (i : Image) (ts : Nat × Nat) (n t : Nat) : Nat :=
  let e := w.st
  if e.hasPages then
    ((List.range (t + 1)).foldl (fun (z : TokenEntry) k => z.next m i ts.1 ts.2 w (n + k)) (w.entryBefore m 0)).pos
  else (e.posBase + (if w.isReset then 0 else e.stepCount) + t) % 2 ^ 48

/-- Position of a vector's token in the batch (R145). Tokens of streams with pages count as APPEND's do. A vector that stands for no
token of the batch has position 0. DESIGN CHOICE (log entry 129). -/
def Job.positionOf (j : Job) (n : Nat) (c : Core) (v : Nat) : Nat :=
  match j.run.batchOf c with
  | none => 0
  | some b =>
    let toks := j.run.tokens b
    match toks[v]? with
    | some (_, w, t) =>
      let before := ((toks.take v).filter (fun x => x.2.1.st.hasPages)).length - t
      w.position j.run.mem j.image (j.image.entryTensors n) before t
    | none => 0

/-! ## Tensors -/

/-- A tensor's table entry. -/
def Image.tensor (i : Image) (t : Nat) : TensorE := i.tensors.getD t {}

/-- The shape limit of a tensor's dimension (R54). -/
def Image.limit (i : Image) (t d : Nat) : Option Nat :=
  (i.limits.find? (fun l => l.tensor == t && l.dim == d)).map (·.extent)

/-- A run-time extent exceeds the limit that some of these tensors have for a dimension (R54). -/
def Image.over (i : Image) (ts : List Nat) (d n : Nat) : Bool :=
  ts.any (fun t => match i.limit t d with
    | some l => decide (l < n)
    | none => false)

/-- Rows of the batch that a core works on (R54, dimension 0). -/
def Job.rowCount (j : Job) (c : Core) : Nat := ((j.run.batchOf c).map (fun b => b.rows.length)).getD 0

end Sys2Proof.Machine
end

