-- ==== Sys2Proof/Machine/Funcs.lean ====
section
/-! DEFINITION. The functions that the P6 evaluates approximately (R144 to R146, R208). Each value is free within the
bound that its rule states: the free candidate where it lies within the bound of the true value, else the true value
rounded. The true value is worked out in fixed point of 200 fraction bits (log entry 9). -/

namespace Sys2Proof.Machine

/-! ## Fixed point of 200 fraction bits -/

def fxOne : Int := 2 ^ 200
/-- ln 2. -/
def fxLn2 : Int := 0xb17217f7d1cf79abc9e3b39803f2f6af40f343267298b62d8a
/-- π. -/
def fxPi : Int := 0x3243f6a8885a308d313198a2e03707344a4093822299f31d008
/-- 2 ÷ √π. -/
def fxTwoRootPi : Int := 0x120dd750429b6d11ae3a914fed7fd8688281341d7587cea2e73
/-- 1 ÷ √2. -/
def fxRootHalf : Int := 0xb504f333f9de6484597d89b3754abe9f1d6f60ba893ba84ced
/-- √(2 ÷ π). -/
def fxRootTwoPi : Int := 0xcc42299ea1b284687e59e2805d5c717fa7053e60a24e0db181

def fxMul (a b : Int) : Int := a * b / fxOne
def fxDiv (a b : Int) : Int := a * fxOne / b

/-- The number that a fixed-point value means. -/
def fxNum (v : Int) : Num := .fin (decide (v < 0)) v.natAbs (-200)

/-- A finite number in fixed point. -/
def fxOf : Num → Int
  | .fin n m e =>
    let s := e + 200
    let v : Int := if 0 ≤ s then m * 2 ^ s.toNat else m / 2 ^ (-s).toNat
    if n then -v else v
  | _ => 0

/-- Σ r^n ÷ n! from term `n`. -/
def fxExpSum (r : Int) (fuel : Nat) (n term : Int) : Int :=
  match fuel with
  | 0 => 0
  | k + 1 => term + fxExpSum r k (n + 1) (fxMul term r / n)

/-- e^x. -/
def expNum (x : Num) : Num :=
  let t := fxOf x
  let k := (2 * t + fxLn2) / (2 * fxLn2)
  .fin false (fxExpSum (t - k * fxLn2) 60 1 fxOne).toNat (k - 200)

/-- The sum of terms t, t × y ÷ (d (d + 1)), … of the series of sine and cosine. -/
def fxTrigSum (y : Int) (fuel : Nat) (d term : Int) : Int :=
  match fuel with
  | 0 => 0
  | k + 1 => term + fxTrigSum y k (d + 2) (fxMul term y / (d * (d + 1)))

/-- The angle of a fraction of a turn of `2 ^ 25` parts. -/
def fxAngle (a : Nat) : Int := 2 * fxPi * a / 2 ^ 25

/-- Sine of a fraction of a turn of `2 ^ 25` parts. -/
def sinNum (a : Nat) : Num := let t := fxAngle a; fxNum (fxTrigSum (-(fxMul t t)) 60 2 t)

/-- Cosine of a fraction of a turn of `2 ^ 25` parts. -/
def cosNum (a : Nat) : Num := let t := fxAngle a; fxNum (fxTrigSum (-(fxMul t t)) 60 1 fxOne)

/-- Σ z^(2i+1) ÷ (2i+1) from odd exponent `d`. -/
def fxAtanhSum (z2 : Int) (fuel : Nat) (d pow : Int) : Int :=
  match fuel with
  | 0 => 0
  | k + 1 => pow / d + fxAtanhSum z2 k (d + 2) (fxMul pow z2)

/-- ln of a positive number. -/
def fxLn (m : Nat) (e : Int) : Int :=
  let b : Int := (bitLen m - 1 : Nat)
  let y := fxOf (.fin false m (-b))
  let z := fxDiv (y - fxOne) (y + fxOne)
  2 * fxAtanhSum (fxMul z z) 70 1 z + (e + b) * fxLn2

/-- ln of a positive number. -/
def lnNum : Num → Num
  | .fin _ m e => fxNum (fxLn m e)
  | x => x

/-- Σ (−1)^n x^(2n+1) ÷ (n! (2n+1)) from term `n`. -/
def fxErfSum (x2 : Int) (fuel : Nat) (n term : Int) : Int :=
  match fuel with
  | 0 => 0
  | k + 1 => term / (2 * n + 1) + fxErfSum x2 k (n + 1) (-(fxMul term x2) / (n + 1))

/-- erf. -/
def fxErf (x : Int) : Int := fxMul fxTwoRootPi (fxErfSum (fxMul x x) 140 0 x)

/-- tanh in fixed point, for arguments of moderate size. -/
def fxTanh (x : Int) : Int :=
  let e := fxOf (expNum (fxNum (2 * x)))
  fxDiv (e - fxOne) (e + fxOne)

/-- σ(x) in fixed point, for arguments of moderate size. -/
def fxSigmoid (x : Int) : Int := fxDiv fxOne (fxOne + fxOf (expNum (fxNum (-x))))

/-! ## Values free within a bound -/

/-- 2^k. -/
def pow2 (k : Int) : Num := .fin false 1 k

/-- The candidate where it is within `tol` of the true value, else the true value rounded. -/
def within (cand : Nat) (ref tol : Num) : Nat :=
  match (((f32 cand).sub ref).abs).cmp tol with
  | some .lt => cand
  | some .eq => cand
  | _ => toF32 ref

/-- Within a relative bound of 2^k. -/
def withinRel (cand : Nat) (ref : Num) (k : Int) : Nat := within cand ref (ref.abs.mul (pow2 k))

/-- Whether a number times 100 is above, or below, a signed integer. -/
def above100 (x : Num) (v : Int) : Bool := (x.mul (.ofNat 100)).cmp (.ofInt v) == some .gt
def below100 (x : Num) (v : Int) : Bool := (x.mul (.ofNat 100)).cmp (.ofInt v) == some .lt

/-- exp under the bounds of FUNC 7 (R144). -/
def expWithin (cand x : Nat) : Nat :=
  let v := f32 x
  match v with
  | .nan p => toF32 ((Num.nan p).newNan .zero)
  | _ =>
    if v.cmp .zero == some .eq then 0x3F800000
    else if above100 v 8872 then toF32 (.inf false)
    else if below100 v (-10397) then 0
    else
      let ref := expNum v
      if ref.cmp (pow2 (-126)) == some .lt then within cand ref (pow2 (-148)) else withinRel cand ref (-22)

/-- The tanh form of GELU (R144): x ÷ 2 × (1 + tanh(√(2 ÷ π) (x + 0.044715 x³))). -/
def fxGeluTanh (x : Int) : Int :=
  let x3 := fxMul (fxMul x x) x
  fxMul (x / 2) (fxOne + fxTanh (fxMul fxRootTwoPi (x + 44715 * x3 / 1000000)))

/-- The functions of the gate pipeline on an FP32 value (R144). -/
def gateFn (f x : Nat) : Nat :=
  let v := f32 x
  let cand := (Config.gateFunc f (BitVec.ofNat 32 x)).toNat
  let e := expWithin (Config.gateFunc 7 (BitVec.ofNat 32 x)).toNat x
  match v, f with
  | _, 0 => x
  | .nan p, _ => toF32 ((Num.nan p).newNan .zero)
  | _, _ =>
    match f with
    | 0 => x
    | 1 => toF32 (v.max .zero)
    | 2 =>
      if above100 v 2000 then x
      else if below100 v (-2000) then (if v == .inf true then 0 else mulF32 x e)
      else withinRel cand (v.mul (fxNum (fxSigmoid (fxOf v)))) (-20)
    | 7 => e
    | 8 =>
      if above100 v 900 then toF32 (.ofInt 1)
      else if below100 v (-900) then toF32 (.ofInt (-1))
      else within cand (fxNum (fxTanh (fxOf v))) (pow2 (-23))
    | 5 =>
      if above100 v 2000 then x
      else if below100 v (-2000) then e
      else
        let y := fxOne + fxOf (expNum v)
        withinRel cand (lnNum (fxNum y)) (-21)
    | 6 =>
      if above100 v 2000 then toF32 (.ofInt 1)
      else if below100 v (-2000) then e
      else withinRel cand (fxNum (fxSigmoid (fxOf v))) (-21)
    | _ =>
      if above100 v 600 then x
      else if below100 v (-600) then 0
      else
        let ref := if f = 3 then
            (v.mul (pow2 (-1))).mul (fxNum (fxOne + fxErf (fxMul (fxOf v) fxRootHalf)))
          else fxNum (fxGeluTanh (fxOf v))
        within cand ref ((Num.ofInt 1 |>.max v.abs).mul (pow2 (-22)))

/-- A word is within 2^−21 of a number. -/
def near21 (w : Nat) (ref : Num) : Bool := (((f32 w).sub ref).abs).cmp (pow2 (-21)) != some .gt && !(f32 w).nonfinite

/-- Sine and cosine of an angle by its top 24 bits: the candidate where it is within 2^−21 for every angle that has those bits, which
lies between their two ends since both functions are monotone there, else the value in the middle (R145). -/
def sinTop (a : Nat) : Nat :=
  let w := (Config.sinTop a).toNat
  if near21 w (sinNum (2 * a)) && near21 w (sinNum (2 * a + 2)) then w else toF32 (sinNum (2 * a + 1))
def cosTop (a : Nat) : Nat :=
  let w := (Config.cosTop a).toNat
  if near21 w (cosNum (2 * a)) && near21 w (cosNum (2 * a + 2)) then w else toF32 (cosNum (2 * a + 1))

/-- lse = m + ln l within 2^−20 (R146), for FP32 `m` and positive `l`. -/
def lseOf (m l : Nat) : Nat :=
  within (addF32 m (Config.lnLse (BitVec.ofNat 32 l)).toNat) ((f32 m).add (lnNum (f32 l))) (pow2 (-20))

/-- 1 ÷ x and 1 ÷ √x as the vector engine gives them in FP32: relative error 2^−22; the special operands are those of
IEEE 754, which R210 names (R208). -/
def recipF32 (x : Nat) : Nat :=
  match f32 x with
  | .fin n m e =>
    if m = 0 then toF32 (.inf n)
    else withinRel (Config.vecApprox 0x53 (BitVec.ofNat 32 x)).toNat ((Num.ofInt 1).div (.fin n m e)) (-22)
  | y => toF32 ((Num.ofInt 1).div y)

/-- 1 ÷ √x (R208). -/
def rsqrtF32 (x : Nat) : Nat :=
  match f32 x with
  | .fin n m e =>
    if m = 0 then toF32 (.inf n)
    else if n then toF32 ((Num.fin n m e).sqrt)
    else withinRel (Config.vecApprox 0x52 (BitVec.ofNat 32 x)).toNat ((Num.ofInt 1).div (Num.fin n m e).sqrt) (-22)
  | y => toF32 ((Num.ofInt 1).div y.sqrt)

/-- ln x (R208): absolute error 2^−22 for x in [0.5, 2], relative elsewhere. -/
def logF32 (x : Nat) : Nat :=
  let v := f32 x
  match v with
  | .fin n m _ =>
    if m = 0 then toF32 (.inf true)
    else if n then toF32 (v.newNan .zero)
    else
      let near := v.cmp (pow2 (-1)) != some .lt && v.cmp (pow2 1) != some .gt
      let cand := (Config.vecApprox 0x55 (BitVec.ofNat 32 x)).toNat
      if near then within cand (lnNum v) (pow2 (-22)) else withinRel cand (lnNum v) (-22)
  | .inf n => if n then toF32 (v.newNan .zero) else x
  | .nan p => toF32 ((Num.nan p).newNan .zero)

end Sys2Proof.Machine
end

