-- ==== Sys2Proof/Machine/Gate.lean ====
section
/-! DEFINITION. The gate pipeline (R140 to R147, R149): the fixed output stage that every array command's partial sums pass
through. -/

namespace Sys2Proof.Machine

/-- A gate control block (R142). -/
structure GateBlk where
  fn       : Nat := 0
  flags    : Nat := 0
  gate     : Nat := 0
  softmax  : Nat := 0
  d        : Nat := 0
  w        : Nat := 0
  biasT    : Nat := 0
  gateT    : Nat := 0
  prepC    : Nat := 0
  prepN    : Nat := 0
  outGroup : Nat := 0
  rotary   : Nat := 0
  posv     : Nat := 0xFFFFFFFF
  rowState : Nat := 0
  merge    : Nat := 0
  scanIn   : Nat := 0
  score    : Nat := 0
  oscale   : Nat := 0
  dtMin    : Nat := 0
  dtMax    : Nat := 0
  deriving DecidableEq, Repr

/-- The fields of 64 B. -/
def gateFields (b : NMap Byte) : GateBlk :=
  { fn := blockWord b 0 1, flags := blockWord b 1 1, gate := blockWord b 2 1, softmax := blockWord b 3 1
    d := blockWord b 4 2, w := blockWord b 6 2, biasT := blockWord b 8 2, gateT := blockWord b 10 2
    prepC := blockWord b 12 2, prepN := blockWord b 14 1, outGroup := blockWord b 15 1, rotary := blockWord b 16 4
    posv := blockWord b 20 4, rowState := blockWord b 24 4, merge := blockWord b 28 4, scanIn := blockWord b 32 4
    score := blockWord b 36 4, oscale := blockWord b 40 4, dtMin := blockWord b 44 4, dtMax := blockWord b 48 4 }

/-- The gate control block at an index of the PROGRAM region; without one every field is zero (R142). -/
def CoreSec.gateBlk (c : CoreSec) (index : Nat) : GateBlk :=
  if index = 0xFFFF then {} else gateFields (c.block (16 * index) 64)

/-- Stage flags. -/
def GateBlk.bias (g : GateBlk) : Bool := g.flags.testBit 0
def GateBlk.rope (g : GateBlk) : Bool := g.flags.testBit 1
def GateBlk.interleaved (g : GateBlk) : Bool := g.flags.testBit 2
def GateBlk.prep (g : GateBlk) : Bool := g.flags.testBit 3
def GateBlk.scaled (g : GateBlk) : Bool := g.flags.testBit 4

/-- Tensors that a gate control block reads. -/
def GateBlk.reads (g : GateBlk) : List Nat := (if g.bias then [g.biasT] else []) ++ (if g.gate = 2 then [g.gateT] else [])

/-! ## Stages 1 to 4 and 6 (R143 to R145, R149) -/

/-- Element `i` of a bias tensor, exactly in FP32. -/
def biasElem (m : NMap Byte) (t : TensorE) (i : Nat) : Nat :=
  if t.fmt = 9 then toF32 (bf16.decode (memWord m (t.addr + 2 * i) 2)) else memWord m (t.addr + 4 * i) 4

/-- Stage 1. -/
def biasStage (g : GateBlk) (j : Job) (ys : List Nat) : List Nat :=
  if g.bias then ys.zipIdx.map (fun x => addF32 x.1 (biasElem j.run.mem (j.image.tensor g.biasT) x.2)) else ys

/-- One component of a rotated pair: two products and one rounding (R145). -/
def rotate (x y c s : Nat) (second : Bool) : Nat :=
  if second then toF32 (((f32 x).mul (f32 s)).add ((f32 y).mul (f32 c)))
  else toF32 (((f32 x).mul (f32 c)).sub ((f32 y).mul (f32 s)))

/-- Stage 2: rotary position under the table in the PROGRAM region. -/
def ropeStage (g : GateBlk) (scratch : NMap Byte) (pos : Nat) (ys : List Nat) : List Nat :=
  if g.rope && g.d ≠ 0 then
    ys.zipIdx.map (fun t =>
      let b := t.2 / g.d * g.d
      let k := t.2 - b
      if k < 2 * g.w then
        let pair := if g.interleaved then k / 2 else k % g.w
        let second := if g.interleaved then k % 2 == 1 else decide (g.w ≤ k)
        let ix := if g.interleaved then b + 2 * pair else b + pair
        let iy := if g.interleaved then ix + 1 else ix + g.w
        match ys[ix]?, ys[iy]? with
        | some x, some y =>
          let top := pos * memWord scratch (g.rotary + 8 * pair) 8 % 2 ^ 64 / 2 ^ 40
          rotate x y (cosTop top) (sinTop top) second
        | _, _ => t.1
      else t.1)
  else ys

/-- Stages 3 and 4 over one output group: FUNC of the first half times the second (GATE 1). -/
def splitGroup (fn : Nat) (ys : List Nat) : List Nat :=
  let h := ys.length / 2
  (List.range h).map (fun i => mulF32 (gateFn fn (ys.getD i 0)) (ys.getD (i + h) 0))

/-- Stages 3 and 4 (R144): `gs` are the gate tensor's elements of the vector in FP32. -/
def gateStage (g : GateBlk) (cols : Nat) (gs : List Nat) (ys : List Nat) : List Nat :=
  if g.gate = 1 then (chunksOf cols ys.length ys).flatMap (splitGroup g.fn)
  else if g.gate = 2 then ys.zipIdx.map (fun t => mulF32 (gateFn g.fn t.1) (gs.getD t.2 0))
  else if g.prep then ys.zipIdx.map (fun t => if t.2 < g.prepC then gateFn g.fn t.1 else t.1)
  else ys.map (gateFn g.fn)

/-- Stage 6: the clamp of one Δ value, and whether it changed (R149). -/
def clampDt (g : GateBlk) (y : Nat) : Nat × Nat :=
  if (f32 y).cmp (f32 g.dtMin) == some .lt then (g.dtMin, 1)
  else if (f32 y).cmp (f32 g.dtMax) == some .gt then (g.dtMax, 1)
  else (y, 0)

/-- Stage 6 over a vector. -/
def prepStage (g : GateBlk) (ys : List Nat) : List Nat × Nat :=
  if g.prep then
    let zs := ys.zipIdx.map (fun t => if t.2 < g.prepC then clampDt g t.1 else (t.1, 0))
    (zs.map (·.1), (zs.map (·.2)).sum)
  else (ys, 0)

/-- Stage 7. -/
def scaleStage (g : GateBlk) (ys : List Nat) : List Nat :=
  if g.scaled then ys.map (fun y => mulF32 y g.oscale) else ys

/-! ## What a command gives the pipeline, and what it leaves -/

/-- A command's use of the pipeline: core, block, output format and group, columns of an output group, and where vectors go: one
after another from a region (R526), or, for a planar output, each element to its own place (R245). -/
structure GateUse where
  core  : Nat
  g     : GateBlk
  out   : Nat
  cols  : Nat
  outr  : Nat
  planar : Option (Nat → Nat → Nat) := none

/-- Group length of INT4G outputs. -/
def GateUse.group (x : GateUse) : Nat := groupLen x.g.outGroup

/-- What the pipeline leaves: scratchpad, and what it counts (R147, R161), with the vectors that FINAL found empty. -/
structure GateAcc where
  scratch : NMap Byte
  sat     : Nat := 0
  nonf    : Nat := 0
  clamps  : Nat := 0
  empty   : List Nat := []

/-- Write the elements of a quantised vector, each of `n` bytes, at places of their own. -/
def putPlanar (m : NMap Byte) (at' : Nat → Nat) (n : Nat) (bs : List Byte) (i fuel : Nat) : NMap Byte :=
  match fuel with
  | 0 => m
  | k + 1 => if bs.isEmpty then m else putPlanar (memWrite m (at' i) (bs.take n)) at' n (bs.drop n) (i + 1) k

/-- Stage 8 and the write of a vector's outputs at its place (R526): `base` where outputs follow one another. -/
def GateUse.write (x : GateUse) (base v : Nat) (ys : List Nat) (a : GateAcc) : GateAcc :=
  let q := quantVec x.out x.group (ys.map f32)
  let scratch := match x.planar with
    | some at' =>
      if x.g.prep then memWrite a.scratch (base + v * vecBytes x.out x.group ys.length) q.bytes
      else putPlanar a.scratch (at' v) (fmtBits x.out / 8) q.bytes 0 ys.length
    | none => memWrite a.scratch (base + v * vecBytes x.out x.group ys.length) q.bytes
  { a with scratch, sat := a.sat + q.sat, nonf := a.nonf + q.nonf }

/-! ## Online softmax (R146) -/

/-- FP32 −∞. -/
def negInf : Nat := 0xFF800000

/-- exp of an FP32 difference, and 0 where the first is −∞. -/
def expDiff (x m : Nat) : Nat := if x = negInf then 0 else gateFn 7 (toF32 ((f32 x).sub (f32 m)))

/-- The larger of two FP32 values. -/
def maxF32 (a b : Nat) : Nat := toF32 ((f32 a).max (f32 b))

/-- SCORES_FIRST and SCORES on one vector: probabilities written in OUT_FMT, and *m*, *l*, α stored. -/
def GateUse.scores (x : GateUse) (v : Nat) (first : Bool) (masked : Nat → Bool) (ys : List Nat) (a : GateAcc) : GateAcc :=
  let st := x.g.rowState + 16 * v
  let mOld := if first then negInf else memWord a.scratch st 4
  let lOld := if first then 0 else memWord a.scratch (st + 4) 4
  let ss := ys.zipIdx.map (fun t => if masked t.2 then negInf else mulF32 t.1 x.g.score)
  let mNew := ss.foldl maxF32 mOld
  let ps := scaleStage x.g (ss.map (fun s => expDiff s mNew))
  let alpha := expDiff mOld mNew
  let q := quantVec x.out x.group (ps.map f32)
  let quantised := (vecValues (memWrite [] 0 q.bytes) x.out x.group 0 ps.length).map toF32
  let lNew := quantised.foldl addF32 (mulF32 alpha lOld)
  let a := x.write x.outr v ps a
  { a with scratch := memWrite a.scratch st (leBytes 4 mNew ++ leBytes 4 lNew ++ leBytes 4 alpha) }

/-- MERGE on one vector: the running output in the merge region. Gives the merged values. -/
def GateUse.merged (x : GateUse) (v : Nat) (ys : List Nat) (a : GateAcc) : List Nat × GateAcc :=
  let alpha := memWord a.scratch (x.g.rowState + 16 * v + 8) 4
  let base := x.g.merge + v * 4 * ys.length
  let zero := alpha % 2 ^ 31 == 0
  let os := ys.zipIdx.map (fun t =>
    if zero then fmaF32 0 0 t.1 else fmaF32 alpha (memWord a.scratch (base + 4 * t.2) 4) t.1)
  (os, { a with scratch := memWrite a.scratch base (os.flatMap (leBytes 4)) })

/-- FINAL on one vector. -/
def GateUse.final (x : GateUse) (v : Nat) (ys : List Nat) (a : GateAcc) : GateAcc :=
  let (os, a) := x.merged v ys a
  let st := x.g.rowState + 16 * v
  let m := memWord a.scratch st 4
  let l := memWord a.scratch (st + 4) 4
  if (f32 l).cmp .zero == some .eq then
    let a := x.write x.outr v (os.map (fun _ => 0)) a
    { a with scratch := memWrite a.scratch (st + 12) (leBytes 4 negInf), empty := a.empty ++ [v] }
  else
    let a := x.write x.outr v (scaleStage x.g (os.map (fun o => toF32 ((f32 o).div (f32 l))))) a
    { a with scratch := memWrite a.scratch (st + 12) (leBytes 4 (lseOf m l)) }

/-! ## A vector through the pipeline -/

/-- The gate tensor's elements of a vector, exactly in FP32 (R144). -/
def GateUse.gateElems (x : GateUse) (j : Job) (v n : Nat) : List Nat :=
  if x.g.gate = 2 then
    let t := j.image.tensor x.g.gateT
    (vecValues j.run.mem t.fmt x.group (t.addr + v * vecBytes t.fmt x.group n) n).map toF32
  else []

/-- The position of a vector (R145). -/
def GateUse.position (x : GateUse) (j : Job) (c : Core) (v : Nat) : Nat :=
  if x.g.posv = 0xFFFFFFFF then j.positionOf x.core c v else memWord c.scratch (x.g.posv + 8 * v) 8 % 2 ^ 48

/-- One vector's partial sums through all eight stages. `softmax` is the mode for this vector, `masked` the scores that
masks take as −∞. -/
def GateUse.vector (x : GateUse) (j : Job) (c : Core) (v softmax : Nat) (masked : Nat → Bool) (ys : List Nat)
    (a : GateAcc) : GateAcc :=
  let ys := biasStage x.g j ys
  let ys := if x.g.rope then ropeStage x.g c.scratch (x.position j c v) ys else ys
  match softmax with
  | 0 =>
    let ys := gateStage x.g x.cols (x.gateElems j v ys.length) ys
    let (ys, n) := prepStage x.g ys
    x.write (if x.g.prep then x.g.scanIn else x.outr) v (scaleStage x.g ys) { a with clamps := a.clamps + n }
  | 1 => x.scores v true masked ys a
  | 2 => x.scores v false masked ys a
  | 3 => (x.merged v ys a).2
  | _ => x.final v ys a

/-- The tensors that the pipeline reads from job memory, as accesses (R142). -/
def GateUse.reads (x : GateUse) (j : Job) (m outs : Nat) : List Access :=
  let b := j.image.tensor x.g.biasT
  let t := j.image.tensor x.g.gateT
  (if x.g.bias then [({ addr := b.addr, len := outs * (if b.fmt = 9 then 2 else 4) } : Access)] else []) ++
  (if x.g.gate = 2 then [({ addr := t.addr, len := m * vecBytes t.fmt x.group outs } : Access)] else [])

/-- Elements the pipeline accepts per beat: 256 where each needs a second operand (R140). -/
def GateUse.rate (x : GateUse) (softmax : Nat) : Nat :=
  if x.g.gate = 2 ∨ softmax = 3 ∨ softmax = 4 then 256 else 1024

/-- Count what the pipeline met (R161). -/
def GateAcc.count (a : GateAcc) (r : JobRun) (n : Nat) : JobRun :=
  (((r.countCore n 0x88 a.sat).countCore n 0x90 a.nonf).countCore n 0xB0 a.clamps).countCore n 0x98 a.empty.length

end Sys2Proof.Machine
end

