-- ==== Sys2Proof/Machine/Array.lean ====
section
/-! DEFINITION. MATMUL and the array's soft start (R72 to R102, R205). -/

namespace Sys2Proof.Machine

/-- Fields of a format A instruction that name what there is. -/
def fmtAOk (f : FmtA) : Bool := decide (f.span < 32) && decide (f.ctrl < 65536) && decide (f.operand < 65536)

/-! ## Soft start (R86, R87) -/

/-- Bring the array into use for a command: it goes on where all column groups are enabled; where fewer are, it ramps up from
those that remain, or waits for one of four others (R86, R87). -/
def rampUp (n : Nat) (j : Job) (c : Core) (go : Job → Core → Done) : Effect :=
  if c.groupsOn = 8 then .done (go j c)
  else if 4 ≤ j.run.ramping n then .wait .ramp j
  else
    let j := { j with run := j.run.countCore n 0x10 1 }
    .done { go j { c with groupsOn := 8 } with ramp := true }

/-- Run an array command on the array, or on the fawn path, which needs no ramp (R85, R86); `go` takes whether the run that publishes
is on the fawn path. -/
def State.useArray (s : State) (n : Nat) (j : Job) (c : Core) (go : Bool → Job → Core → Done) : Effect :=
  let run := fun (j : Job) (c : Core) => { go (s.onFawn n || s.failsOver n) j c with fails := some s.failures }
  if s.onFawn n then .done (run j c) else rampUp n j c run

/-- ARRAY_RAMP_WAIT_END: a ramp of the cluster completes and the lowest-numbered core that waits begins its own (R87,
R102); its beats of waiting are at most 144 and not otherwise stated (log entry 7). -/
def State.rampWaitEnd (s : State) (k n : Nat) : State :=
  let j := s.job k
  let mine := j.run.cores.filter (fun e => e.1 / 16 == n / 16)
  let first := mine.all (fun e => e.2.wait != .ramp || decide (n ≤ e.1))
  if (j.run.core n).wait == .ramp && first then
    let (v, s) := s.fresh
    let r := match mine.find? (fun e => e.2.ramping) with
      | some e => j.run.setCore e.1 { e.2 with ramping := false }
      | none => j.run
    let r := r.setCore n { r.core n with wait := .run, groupsOn := 8, ramping := true }
    s.setJob k { j with run := (r.countCore n 0x10 1).countCore n 0x18 (v % 145) }
  else s

def execArrayRampWaitEnd (n : Nat) (s : State) : Host.Outcome State Fault Refusal :=
  checked s (coreOk n) (
    match s.working n with
    | some k => s.rampWaitEnd k n
    | none => s)

/-- ARRAY_IDLE_RAMP_DOWN: with no row staged and no pass streaming for 16 beats, the array ramps down, group by group, to the
last (R86, R98). -/
def execArrayIdleRampDown (n : Nat) (s : State) : Host.Outcome State Fault Refusal :=
  checked s (coreOk n) (
    match s.sched.running with
    | none => s
    | some k => s.setCore k n { (s.job k).run.core n with groupsOn := 0, ramping := false })

/-! ## MATMUL (R205) -/

/-- An operand block (R205). -/
structure OpBlk where
  wt     : Nat
  gate   : Nat
  k      : Nat
  outs   : Nat
  woff   : Nat
  act    : Nat
  out    : Nat
  plan   : Nat
  vreg   : Nat
  deriving DecidableEq, Repr

/-- The fields of 32 B. -/
def opFields (b : NMap Byte) : OpBlk :=
  { wt := blockWord b 0 2, gate := blockWord b 2 2, k := blockWord b 4 2, outs := blockWord b 6 2
    woff := blockWord b 8 4, act := blockWord b 12 4, out := blockWord b 16 4, plan := blockWord b 20 2
    vreg := blockWord b 22 1 }

/-- The operand block at an index. -/
def CoreSec.opBlk (c : CoreSec) (index : Nat) : OpBlk := opFields (c.block (16 * index) 32)

/-- A MATMUL as it runs: block, precision, vectors, tiles a pass fills, band of vectors, and tiles used (R92). -/
structure MatPlan where
  o     : OpBlk
  p     : Prec
  m     : Nat
  outs  : Nat
  cols  : Nat
  tiles : Nat
  band  : Nat
  used  : Nat
  base  : Nat

/-- K-slices. -/
def MatPlan.slices (x : MatPlan) : Nat := cdiv x.o.k 256

/-- Rows of a slice. -/
def MatPlan.rows (x : MatPlan) (s : Nat) : Nat := sliceLen x.o.k s

/-- Output groups. -/
def MatPlan.groups (x : MatPlan) : Nat := if x.p.diag then 1 else cdiv x.outs x.cols

/-- The address of a tile (R205, R527). -/
def MatPlan.tile (x : MatPlan) (o s : Nat) : Nat := x.base + (o * x.slices + s) * tileStride x.p

/-- Plan a MATMUL of `m` vectors under the core's loop order (R92, R527). -/
def matPlan (i : Image) (sec : CoreSec) (o : OpBlk) (p : Prec) (m : Nat) : MatPlan :=
  let tp := if p.diag then 1 else perCell p.wgt
  let band := match sec.order with
    | 0 => 256
    | 1 => max m 1
    | _ => max 256 (256 * (sec.tiles / tp))
  { o, p, m, outs := if p.diag then o.k else o.outs, cols := if p.diag then 256 else 256 * perCell p.wgt, tiles := tp, band
    used := if sec.order = 0 then tp else tp * cdiv (min band m) 256
    base := (i.tensor o.wt).addr + o.woff * 65536 }

/-- The passes of the command. A diagonal slice is a last pass of its own (R527). -/
def MatPlan.passes (x : MatPlan) : List Pass :=
  let ps := passesOf x.tile x.rows x.groups x.slices x.m x.band
  if x.p.diag then ps.map (fun p => { p with last := true }) else ps

/-- The output `j` of a staged vector (R82, R90, R527). -/
def MatPlan.output (x : MatPlan) (mem : NMap Byte) (v : Staged) (j : Nat) : Nat :=
  if x.p.diag then
    let s := j / 256
    let r := j % 256
    let t := tileAt mem x.p (x.tile 0 s)
    let b := (v.getD s []).getD (r / actBlock x.p) { ys := [], unit := 0, bits := 0, scale := .zero, bad := false, stop := 0 }
    let col := perCell x.p.wgt * r
    addF32 0 (blockTerm (wgtExp x.p.wgt) b ((b.ys.drop (r % actBlock x.p)).take 1) [t.mant r col] (t.scale r col))
  else
    (List.range x.slices).foldl (fun acc s =>
      addBlocks x.p (tileAt mem x.p (x.tile (j / x.cols) s)) (j % x.cols) (v.getD s []) (x.rows s) acc 256 0) 0

/-- Stall beats of spill traffic: 256 beats for each spilled tile of a pass, hidden while it streams (R95). -/
def MatPlan.spillBeats (x : MatPlan) (banks : Nat) (bits : Nat → Nat → Nat) : Nat :=
  (x.passes.map (fun p =>
    let fills := if x.band = 256 then x.tiles else x.tiles * cdiv p.count 256
    256 * (fills - banks) - p.bits bits)).sum

/-- Beats the array waits on the gate pipeline (R140). -/
def MatPlan.gateStall (x : MatPlan) (rate : Nat) (bits : Nat → Nat → Nat) : Nat :=
  (x.passes.map (fun p => if p.last then cdiv (p.count * x.cols) rate - p.bits bits else 0)).sum

/-- The tile that holds column `j` of vector `v` within a band (R92). -/
def MatPlan.accOf (x : MatPlan) (v j : Nat) : Nat := j % x.cols / 256 + x.tiles * (v % x.band / 256)

/-- The key of what the cells hold: the tile, and its format and rows (R88). -/
def MatPlan.held (x : MatPlan) (p : Pass) : Nat × Nat := (p.tile, x.p.wgt * 512 + p.rows)

/-- Count the blocks of staged vectors that stopped early (R80, R97). -/
def JobRun.countStops (r : JobRun) (n : Nat) (vs : List Staged) : JobRun :=
  (r.countCore n 0x20 (vs.map (fun v => stops v 2)).sum).countCore n 0x28 (vs.map (fun v => stops v 1)).sum

/-- Count beats of the array; those of the fawn path are none of them (R97). -/
def JobRun.countBeats (r : JobRun) (fawn : Bool) (n : Nat) (xs : List (Nat × Nat)) : JobRun :=
  if fawn then r else xs.foldl (fun r x => r.countCore n x.1 x.2) r

/-- Count the beats and blocks of the command (R97). -/
def MatPlan.count (x : MatPlan) (n banks rate : Nat) (fawn : Bool) (vs : List Staged) (r : JobRun) : JobRun :=
  let bits := fun (v s : Nat) => sliceBits ((vs.getD v []).getD s [])
  let busy := (x.passes.map (fun p => p.bits bits)).sum
  let budget := (x.passes.map (fun p => p.count * x.p.bits)).sum
  (r.countStops n vs).countBeats fawn n
    [(0x00, busy), (0x08, if x.p.diag then 0 else bubbles x.passes), (0x30, if x.p.adaptive then budget - busy else 0),
     (0x38, x.spillBeats banks bits), (0x40, if x.p.diag then busy else 0), (0x80, x.gateStall rate bits)]

/-- Multiply–accumulates of a command, and the beats that the fawn path takes for them: 128 a beat (R91). -/
def MatPlan.macs (x : MatPlan) : Nat := x.m * x.o.k * (if x.p.diag then 1 else x.outs)
def fawnBeats (fawn : Bool) (macs : Nat) : Nat := if fawn then cdiv macs 128 else 0

/-- The check cells as the last pass's tile leaves them (R84). -/
def MatPlan.tally (x : MatPlan) (mem : NMap Byte) : List Int :=
  match x.passes.getLast? with
  | some p => (tileAt mem x.p p.tile).tally x.p p.rows
  | none => []

/-- Run an array command on staged vectors: partial sums, then the gate pipeline for each vector, then the counters. On the fawn path
too the last pass's tile is the one that the cells hold afterwards. DESIGN CHOICE (log entry 128). -/
def MatPlan.run (x : MatPlan) (n banks : Nat) (fawn : Bool) (sec : CoreSec) (u : GateUse) (reads : List Access)
    (vs : List Staged) (j : Job) (c : Core) : Done :=
  let ys := vs.map (fun v => (List.range x.outs).map (x.output j.run.mem v))
  let slots := sec.spillSlots c.insn
  let c1 := ys.zipIdx.foldl (fun c y => y.1.zipIdx.foldl (fun c z => putPartial banks slots (x.accOf y.2 z.2) y.2 z.2 z.1 c) c) c
  let a := ys.zipIdx.foldl (fun a y => u.vector j c y.2 u.g.softmax (fun _ => false) y.1 a) { scratch := c1.scratch }
  let r := a.count (x.count n banks (u.rate u.g.softmax) fawn vs j.run) n
  let ads := vs.map (fun v => stops v 2)
  { job := { j with run := r }
    core := { c1 with scratch := a.scratch, cells := if x.p.diag then none else x.passes.getLast?.map x.held
                      tally := x.tally j.run.mem }
    accesses := reads, adaptive := ads, fawn := fawnBeats fawn x.macs }

/-- Tile reads of a command, one for each load (R92, R288). -/
def MatPlan.reads (x : MatPlan) (c : Core) : List Access :=
  let held := if x.p.diag then none else
    match c.cells, x.passes.head? with
    | some h, some p => if h == x.held p then some p.tile else none
    | _, _ => none
  (loads held x.passes).map (fun p => { addr := p.tile, len := 65536 + scaleTile x.p })

/-- Run-time vectors; none where they are above the plan (R205). -/
def OpBlk.vectors (o : OpBlk) (c : Core) : Option Nat := if o.vreg = 0 then some o.plan else if o.plan < (c.reg o.vreg).toNat then none else some (c.reg o.vreg).toNat

/-- Tensors that an operand block and its gate control block read. -/
def CoreSec.opReads (c : CoreSec) (index : Nat) (weights : Bool) : List Nat :=
  let o := c.opBlk index
  (if weights then [o.wt] else []) ++ (if o.gate = 0xFFFF then [] else (c.gateBlk o.gate).reads)

/-- How an array command uses the gate pipeline: its outputs follow one another (R526). -/
def CoreSec.gateUse (sec : CoreSec) (n : Nat) (x : MatPlan) : GateUse :=
  { core := n, g := sec.gateBlk x.o.gate, out := x.p.out, cols := x.cols, outr := x.o.out }

/-- What an array command reads of job memory: its tiles, and the tensors of its gate control block. -/
def MatPlan.allReads (x : MatPlan) (u : GateUse) (j : Job) (c : Core) : List Access := x.reads c ++ u.reads j x.m x.outs

/-- MATMUL (R54, R93, R95, R96, R205): the shape is checked before anything is touched. A shape limit holds for every tensor
that the command names (log entry 102). -/
def effectMatmul (s : State) (n : Nat) (f : FmtA) (j : Job) (c : Core) : Effect :=
  let sec := j.image.sec n
  let o := sec.opBlk f.operand
  let p := precOf f.prec.toNat (j.forcedPrec c)
  let names := sec.opReads f.operand true
  match o.vectors c with
  | none => .stop .shape
  | some m =>
    if j.image.over names 0 (j.rowCount c) || j.image.over names 1 m || j.image.over [o.wt] 2 o.outs then .stop .shape
    else if m = 0 then .done { job := { j with run := j.run.countCore n 0x48 1 }, core := c, status := 1 }
    else
      let x := matPlan j.image sec o p m
      let u := sec.gateUse n x
      let banks := s.banksOf n
      let short := decide ((sec.spillSlots c.insn).length < x.used - banks)
      if sec.order = 1 && decide (sec.tiles < x.used) then .stop .shape
      else if u.g.prep && decide (x.outs ≠ u.g.prepC + 2 * u.g.prepN) then .stop .shape
      else if short then .stop .spill
      else
        let reads := x.allReads u j c
        s.orFetch n reads j c (s.useArray n j c (fun fawn j c =>
          x.run n banks fawn sec u reads (stage c.scratch x.p x.o.act x.o.k x.m) j c))

/-- Whether an array command about to run falls short of spill space on its core (R96). -/
def State.fallsShort (s : State) (n word : Nat) (effect : Job → Core → Effect) : Bool :=
  match s.mayIssue n with
  | none => false
  | some k =>
    let j := s.job k
    let c := j.run.core n
    decide ((j.image.sec n).wordAt c.insn = word) &&
      (match effect j c with
       | .stop .spill => true
       | _ => false)

/-- Where spill space is too small the stage moves first to a woodpile core with all 8 banks, if one is free (R96). -/
def State.withSpill (s : State) (n : Nat) (short : Bool) : State :=
  if short then (s.moveToSpare n true).getD s else s

def execMatmul (n : Nat) (f : FmtA) (s : State) : Host.Outcome State Fault Refusal :=
  checked s (coreOk n && fmtAOk f) (
    let t := s.withSpill n (s.fallsShort n (wordA 0x20 f) (effectMatmul s n f))
    t.retireThen n (wordA 0x20 f) (effectMatmul t n f) (fun k _ d s => s.arrayChecks k n d))

end Sys2Proof.Machine
end

