-- ==== Sys2Proof/Machine/Pages.lean ====
section
/-! DEFINITION. Key-value pages (R167 to R173): layout, reading keys and values as weights, and storing tokens. -/

namespace Sys2Proof.Machine

/-! ## Layout (R167 to R170) -/

/-- Bits of a page format. -/
def pageBits (f : Nat) : Nat := if f = 6 ∨ f = 7 then 4 else 8

/-- Key elements per token, and value elements per token (R167). -/
def pageWidth (kf vf : Nat) : Nat :=
  match pageBits kf, pageBits vf with
  | 8, 8 => 256
  | 4, 4 => 768
  | _, _ => 512

/-- The shape of a page: formats, width and head dimension. -/
structure PageShape where
  kf : Nat
  vf : Nat
  d  : Nat
  deriving DecidableEq, Repr

def PageShape.w (p : PageShape) : Nat := pageWidth p.kf p.vf
/-- Offsets of the key scales, value data and value scales (R168). -/
def PageShape.ks (p : PageShape) : Nat := 8 * p.w * pageBits p.kf
def PageShape.vd (p : PageShape) : Nat := p.ks + 2 * p.w
def PageShape.vs (p : PageShape) : Nat := p.vd + 8 * p.w * pageBits p.vf
/-- Bytes up to the end of the value scales. -/
def PageShape.size (p : PageShape) : Nat := p.vs + (if p.vf = 7 then 4 else 2) * p.w

/-- Where a code of `bits` bits lies when `n` of them are packed from a byte address: address and bit. -/
def codePlace (bits base n : Nat) : Nat × Nat := (base + n * bits / 8, n * bits % 8)

/-- Read a packed code. -/
def codeAt (m : NMap Byte) (bits base n : Nat) : Nat :=
  let (a, b) := codePlace bits base n
  nfld (memGet m a).toNat b bits

/-- Write a packed code. -/
def codePut (m : NMap Byte) (bits base n code : Nat) : NMap Byte :=
  let (a, b) := codePlace bits base n
  let old := (memGet m a).toNat
  memPut m a (BitVec.ofNat 8 (old - nfld old b bits * 2 ^ b + code % 2 ^ bits * 2 ^ b))

/-- The code of key element `e` of token `t` of a page (R169). -/
def PageShape.key (p : PageShape) (m : NMap Byte) (a t e : Nat) : Nat := codeAt m (pageBits p.kf) a (64 * e + t)

/-- The address of the key scale of element `e` of token `t` (R169). -/
def PageShape.keyScaleAt (p : PageShape) (a t e : Nat) : Nat :=
  if p.kf = 7 then a + p.ks + 2 * (64 * (e / p.d) + t) else a + p.ks + 64 * (e / 32) + t

/-- The code of value element `e` of token `t` (R169). -/
def PageShape.value (p : PageShape) (m : NMap Byte) (a t e : Nat) : Nat :=
  codeAt m (pageBits p.vf) (a + p.vd) (p.w * t + e)

/-- The address of the value scale of element `e` for tokens `32 b` on (R169). -/
def PageShape.valueScaleAt (p : PageShape) (a b e : Nat) : Nat :=
  if p.vf = 7 then a + p.vs + 2 * (p.w * b + e) else a + p.vs + p.w * b + e

/-- A scale as stored. -/
def scaleAt (m : NMap Byte) (f a : Nat) : Nat := memWord m a (scaleBytes f)

/-! ## Storing keys (R171) -/

/-- Quantise a token's keys: MX blocks of 32, or one INT4G group per head. -/
def PageShape.keyBlocks (p : PageShape) (ks : List Nat) : List QBlock :=
  (chunksOf (if p.kf = 7 then p.d else 32) ks.length ks).map (fun b => quantBlock p.kf (b.map f32))

/-- Store a token's keys in slot `t` of the page at `a`. -/
def PageShape.putKeys (p : PageShape) (m : NMap Byte) (a t : Nat) (ks : List Nat) : NMap Byte :=
  let bs := p.keyBlocks ks
  let codes := bs.flatMap (·.codes)
  let len := if p.kf = 7 then p.d else 32
  let m := codes.zipIdx.foldl (fun m x => codePut m (pageBits p.kf) a (64 * x.2 + t) x.1) m
  bs.zipIdx.foldl (fun m x => memWrite m (p.keyScaleAt a t (x.2 * len)) (leBytes (scaleBytes p.kf) x.1.scale)) m

/-! ## Storing values (R172) -/

/-- A code of an element under one scale, rescaled to another, to nearest with ties to even. -/
def rescale (f code old new : Nat) : Nat :=
  let v := (elemNum f code).mul (scaleNum f old)
  let s := scaleNum f new
  if s.nonfinite then (if f = 7 then 0 else Config.nanElement f (toF32 v) % 2 ^ fmtBits f)
  else if f = 7 then codeOf 4 (((v.div s).toInt).getD 0)
  else (mxElem f ((new : Int) - 127) v).1

/-- The code of a value under a scale. -/
def codeUnder (f scale x : Nat) : Nat :=
  let s := scaleNum f scale
  if s.nonfinite then (if f = 7 then 0 else Config.nanElement f x % 2 ^ fmtBits f)
  else if f = 7 then (if scale = 0 then 0 else codeOf 4 ((((f32 x).div s).toInt).getD 0))
  else (mxElem f ((scale : Int) - 127) (f32 x)).1

/-- Store one value element: the scale of its column of the open block rises with the greatest magnitude, older elements are
rescaled, then the new one is stored. Gives memory and whether a stored column was rescaled. -/
def PageShape.putValue (p : PageShape) (m : NMap Byte) (a t e x : Nat) : NMap Byte × Nat :=
  let b := t / 32
  let sa := p.valueScaleAt a b e
  let old := scaleAt m p.vf sa
  let new := max old (quantBlock p.vf [f32 x]).scale
  let place := fun (t : Nat) => p.w * t + e
  let earlier := (List.range (t % 32)).map (fun i => 32 * b + i)
  let up := decide (old < new)
  let m := if up then earlier.foldl (fun m i =>
      codePut m (pageBits p.vf) (a + p.vd) (place i) (rescale p.vf (p.value m a i e) old new)) m else m
  let m := codePut m (pageBits p.vf) (a + p.vd) (place t) (codeUnder p.vf new x)
  (memWrite m sa (leBytes (scaleBytes p.vf) new), b2n (up && !earlier.isEmpty))

/-- Store a token's values; gives memory and the columns rescaled. -/
def PageShape.putValues (p : PageShape) (m : NMap Byte) (a t : Nat) (xs : List Nat) : NMap Byte × Nat :=
  xs.zipIdx.foldl (fun s x =>
    let (m, n) := p.putValue s.1 a t x.2 x.1
    (m, s.2 + n)) (m, 0)

/-- Store a token's entry and the page's trailer (R170). -/
def PageShape.putEntry (p : PageShape) (m : NMap Byte) (a t g index seg pos : Nat) : NMap Byte :=
  let m := memWrite m (a + 0xFC00 + 8 * t) (leBytes 8 (pos % 2 ^ 48 + seg % 2 ^ 16 * 2 ^ 48))
  memWrite m (a + 0xFE00) (leBytes 1 (t + 1) ++ leBytes 1 p.kf ++ leBytes 1 p.vf ++ leBytes 1 0 ++ leBytes 4 g ++
    leBytes 8 (index % 2 ^ 42))

end Sys2Proof.Machine
end

