-- ==== Sys2Proof/Machine/AttnOps.lean ====
section
/-! DEFINITION. What the attention commands share (R177 to R185, R190, R191): control block, row table, vectors, masks,
visible spans and the tiles that keys and values form. -/

namespace Sys2Proof.Machine

/-- An attention control block (R177). -/
structure AttnBlk where
  role   : Nat
  masks  : Nat
  d      : Nat
  g      : Nat
  heads  : Nat
  hq     : Nat
  first  : Nat
  count  : Nat
  rowTab : Nat
  opnd   : Nat
  status : Nat
  bmT    : Nat
  segT   : Nat
  posT   : Nat
  visT   : Nat
  deriving DecidableEq, Repr

/-- The fields of 64 B. -/
def attnFields (b : NMap Byte) : AttnBlk :=
  { role := blockWord b 0 1, masks := blockWord b 1 1, d := blockWord b 2 2, g := blockWord b 4 2
    heads := blockWord b 6 1, hq := blockWord b 7 1, first := blockWord b 8 2, count := blockWord b 10 2
    rowTab := blockWord b 12 4, opnd := blockWord b 16 4, status := blockWord b 20 4, bmT := blockWord b 24 2
    segT := blockWord b 26 2, posT := blockWord b 28 2, visT := blockWord b 30 2 }

/-- The attention control block at an index. -/
def CoreSec.attnBlk (c : CoreSec) (index : Nat) : AttnBlk := attnFields (c.block (16 * index) 64)

/-! ## Visiting pages (R190, R191) -/

/-- Visiting pages of a group: none without a list. -/
def AttnBlk.visiting (a : AttnBlk) (j : Job) : List Nat :=
  if a.visT = 0xFFFF then []
  else
    let t := (j.image.tensor a.visT).addr
    let n := min 65536 (memWord j.run.mem t 4)
    (List.range n).map (fun i => memWord j.run.mem (t + 16 + 8 * (a.g * n + i)) 8)

/-- Tokens stored in a page, by its trailer. -/
def pageFill (m : NMap Byte) (a : Nat) : Nat := memWord m (a + 0xFE00) 1

/-! ## An attention command in its batch -/

/-- An attention command: its job's memory, block, page formats, rows of the batch, visiting pages, and tokens of a span. -/
structure AttnCmd where
  mem   : NMap Byte
  image : Image
  a     : AttnBlk
  kf    : Nat
  vf    : Nat
  rows  : List Row
  vis   : List Nat
  per   : Nat

/-- The rows of the batch that the core works on. -/
def Job.batchRows (j : Job) (c : Core) : List Row :=
  match j.run.batchOf c with
  | none => []
  | some b => b.rows.filterMap (fun x => (j.run.findQ x.1).bind (fun q => q.rows.find? (fun w => w.ix == x.2)))

/-- The rows of the row table in batch order: with them, of no tokens, the STEP rows that the batch could not place (R179). -/
def Job.tableRows (j : Job) (c : Core) : List Row :=
  let ws := j.batchRows c
  let no := ((j.run.batchOf c).map (·.unplaced)).getD []
  (List.range (ws.length + 1)).flatMap (fun i => (no.filter (fun x => x.1 == i)).map (·.2) ++ (ws[i]?).toList)

/-- The page formats of a command: those of its QK and PV commands' words, which every stream of the job has (R178), else
those of the first row that has pages (R167). -/
def Job.pageFmts (j : Job) (ws : List Row) : Nat × Nat :=
  let e := ((ws.find? (fun w => w.st.hasPages)).map (·.st)).getD {}
  (j.image.attnKey.getD e.keyFmt, j.image.attnVal.getD e.valFmt)

/-- The command that a control block names. -/
def Job.attnCmd (j : Job) (c : Core) (a : AttnBlk) : AttnCmd :=
  let ws := j.tableRows c
  let (kf, vf) := j.pageFmts ws
  { mem := j.run.mem, image := j.image, a, kf, vf, rows := ws, vis := a.visiting j, per := 256 * perCell kf }

/-- The shape of a row's pages: its stream's own formats (R167, R170). -/
def AttnCmd.shape (x : AttnCmd) (w : Row) : PageShape := { kf := w.st.keyFmt, vf := w.st.valFmt, d := x.a.d }

/-- The shape of the pages of a span for a row: visiting pages have the command's formats (R191). -/
def AttnCmd.shapeAt (x : AttnCmd) (own : Bool) (w : Row) : PageShape :=
  if own then x.shape w else { kf := x.kf, vf := x.vf, d := x.a.d }

/-- Query tokens of a row: none where its stream has no pages. -/
def Row.queries (w : Row) : Nat := if w.st.hasPages then w.tokens else 0

/-- The key count of a row (R179). -/
def Row.keys (w : Row) : Nat := w.st.length + w.queries

/-- The first index of visiting spans: after every row's own spans (R191; log entry 32). -/
def AttnCmd.ownSpans (x : AttnCmd) : Nat := x.rows.foldl (fun m w => max m (cdiv w.keys x.per)) 0

/-- Visiting spans. -/
def AttnCmd.visSpans (x : AttnCmd) : Nat := cdiv (x.vis.length * 64) x.per

/-- Masks of a command. -/
def AttnCmd.causal (x : AttnCmd) : Bool := x.a.masks.testBit 0
def AttnCmd.causalPos (x : AttnCmd) : Bool := x.a.masks.testBit 1
def AttnCmd.segments (x : AttnCmd) : Bool := x.a.masks.testBit 2
def AttnCmd.blocks (x : AttnCmd) : Bool := x.a.masks.testBit 3

/-- Bit `b` of the block-mask row of a batch row (R184). -/
def AttnCmd.blockBit (x : AttnCmd) (row b : Nat) : Bool :=
  let a := (x.image.tensor x.a.bmT).addr + row * 8192 + b / 8
  (memGet x.mem a).toNat.testBit (b % 8)

/-- One query vector: its row and the row's place in the batch, token, query head, and place among vectors (R180). -/
structure AttnVec where
  row  : Row
  ix   : Nat
  t    : Nat
  head : Nat
  v    : Nat

/-- The vectors in order: by row, token, and query head within the command's range. -/
def AttnCmd.vectors (x : AttnCmd) : List AttnVec :=
  let toks := x.rows.zipIdx.flatMap (fun (w : Row × Nat) => (List.range w.1.queries).map (fun t => (w.1, w.2, t)))
  toks.zipIdx.flatMap (fun (k : (Row × Nat × Nat) × Nat) => (List.range x.a.count).map (fun h =>
    ({ row := k.1.1, ix := k.1.2.1, t := k.1.2.2, head := x.a.first + h, v := k.2 * x.a.count + h } : AttnVec)))

/-- Token index of a query (R184). -/
def AttnVec.token (q : AttnVec) : Nat := q.row.st.length + q.t

/-- The first element of a vector's key-value head in the group (R167, R180). -/
def AttnCmd.element (x : AttnCmd) (q : AttnVec) : Nat := q.head / x.a.hq * x.a.d

/-- The row's own keys that a span offers a vector under key count, window and CAUSAL. -/
def AttnCmd.keyRange (x : AttnCmd) (q : AttnVec) (s : Nat) : Nat × Nat :=
  let hi := min (x.per * (s + 1)) q.row.keys
  (max (x.per * s) (64 * q.row.st.winPages), if x.causal then min hi (q.token + 1) else hi)

/-- A span shows a vector some key, SEGMENT and CAUSAL_POS apart (R183, R191). -/
def AttnCmd.sees (x : AttnCmd) (q : AttnVec) (s : Nat) : Bool :=
  let own := x.ownSpans
  if s < own then
    let (lo, hi) := x.keyRange q s
    decide (lo < hi) && (!x.blocks || (List.range ((hi - 1) / 64 + 1 - lo / 64)).any (fun i =>
      x.blockBit q.ix (lo / 64 + i - q.row.st.winPages)))
  else
    (List.range (x.per / 64)).any (fun i =>
      match x.vis[(s - own) * (x.per / 64) + i]? with
      | some a => decide (0 < pageFill x.mem a)
      | none => false)

/-- The spans that a vector sees, ascending (R181). -/
def AttnCmd.seen (x : AttnCmd) (q : AttnVec) : List Nat :=
  (List.range (x.ownSpans + x.visSpans)).filter (x.sees q)

/-- The lowest and highest span that any vector sees (R179). Where none sees any, both are 0, so that the PV of span 0 finishes them
(R181). DESIGN CHOICE (log entry 31). -/
def AttnCmd.spanRange (x : AttnCmd) : Nat × Nat :=
  let ss := x.vectors.flatMap x.seen
  match ss with
  | [] => (0, 0)
  | s :: rest => (rest.foldl min s, rest.foldl max s)

/-- The row table (R179). A row's block-mask row is its place in the batch (log entry 31). -/
def AttnCmd.table (x : AttnCmd) : List Byte :=
  let (lo, hi) := x.spanRange
  leBytes 4 x.rows.length ++ leBytes 4 x.vectors.length ++ leBytes 8 lo ++ leBytes 8 hi ++ leBytes 8 0 ++
  x.rows.zipIdx.flatMap (fun (w : Row × Nat) =>
    leBytes 4 w.1.stream ++ leBytes 4 w.1.queries ++ leBytes 8 w.1.keys ++ leBytes 8 w.1.st.winPages ++ leBytes 8 w.2)

/-! ## Keys of a span -/

/-- The page and slot of key `i` of a span for a row; none where no page is mapped there (R175, R180, R191). -/
def AttnCmd.slot (x : AttnCmd) (w : Row) (s i : Nat) : Option (Nat × Nat) :=
  let own := x.ownSpans
  if s < own then
    let k := x.per * s + i
    if k < w.keys then (w.st.pageAddr x.a.g (k / 64)).map (fun a => (a, k % 64)) else none
  else
    let k := x.per * (s - own) + i
    match x.vis[k / 64]? with
    | some a => if k % 64 < pageFill x.mem a then some (a, k % 64) else none
    | none => none

/-- The pages of tokens `lo` to `lo + n − 1` of a span for a row: what tells whether rows share a tile (R182). -/
def AttnCmd.pagesOf (x : AttnCmd) (w : Row) (s lo n : Nat) : List (Option Nat) :=
  (List.range (n / 64)).map (fun i => (x.slot w s (lo + 64 * i)).map (·.1))

/-- Segment and position of a query (R173). -/
def AttnCmd.queryEntry (x : AttnCmd) (q : AttnVec) : Nat × Nat :=
  let e := q.row.st.tokenEntry x.mem x.a.g q.token
  (nfld e 48 16, nfld e 0 48)

/-- Whether key `i` of a span is masked for a vector (R184, R191). -/
def AttnCmd.masked (x : AttnCmd) (q : AttnVec) (s i : Nat) : Bool :=
  match x.slot q.row s i with
  | none => true
  | some (a, t) =>
    let e := memWord x.mem (a + 0xFC00 + 8 * t) 8
    let (seg, pos) := x.queryEntry q
    let k := x.per * s + i
    let own := decide (s < x.ownSpans)
    (own && decide (k / 64 < q.row.st.winPages)) || (own && x.causal && decide (q.token < k)) ||
    (x.causalPos && decide (pos < nfld e 0 48)) || (x.segments && nfld e 48 16 != seg) ||
    (own && x.blocks && !x.blockBit q.ix (k / 64 - q.row.st.winPages))

/-! ## Streaming against head rows (R180) -/

/-- Zeros fed to rows of other heads. -/
def zeroRun (n : Nat) : Stream1 × Nat :=
  ({ ys := List.replicate n 0, unit := 0, bits := 0, scale := .fin false 1 0, bad := false, stop := 0 }, n)

/-- Add the block sums of one run of rows that share an activation scale, cut where the weight scale changes (R82). -/
def addRun (wexp : Int) (wg : Nat) (mant : Nat → Option Int) (scale : Nat → Num) (b : Stream1) (row len acc : Nat)
    (fuel r : Nat) : Nat :=
  match fuel with
  | 0 => acc
  | k + 1 =>
    if len ≤ r then acc
    else
      let hi := min len ((row + r) / wg * wg + wg - row)
      let ws := (List.range (hi - r)).map (fun i => mant (row + r + i))
      addRun wexp wg mant scale b row len (addF32 acc (blockTerm wexp b ((b.ys.drop r).take (hi - r)) ws (scale (row + r))))
        k hi

/-- Add the block sums of runs of rows in ascending order. -/
def addRuns (wexp : Int) (wg : Nat) (mant : Nat → Option Int) (scale : Nat → Num) (runs : List (Stream1 × Nat)) (row acc : Nat) :
    Nat :=
  match runs with
  | [] => acc
  | (b, len) :: rest =>
    addRuns wexp wg mant scale rest (row + len) (addRun wexp wg mant scale b row len acc (len + 1) 0)

/-- The blocks of a slice as runs of rows. -/
def runsOf (bs : List Stream1) : List (Stream1 × Nat) := bs.map (fun b => (b, b.ys.length))

/-- A span of the rows' own keys. -/
def AttnCmd.own (x : AttnCmd) (s : Nat) : Bool := decide (s < x.ownSpans)

/-- Mantissa of element row `r`, from element `base` on, of key `i` of a span: 0 where no key is. -/
def AttnCmd.keyMant (x : AttnCmd) (p : Prec) (q : AttnVec) (s base i r : Nat) : Option Int :=
  match x.slot q.row s i with
  | none => some 0
  | some (a, t) => wgtMant p.wgt ((x.shapeAt (x.own s) q.row).key x.mem a t (base + r))

/-- The partial sum of a query vector with key `i` of a span: the vector's elements in its head's rows of the slice, zeros in
the others (R180). -/
def AttnCmd.qkSum (x : AttnCmd) (p : Prec) (q : AttnVec) (s : Nat) (v : Staged) (i : Nat) : Nat :=
  let o := x.element q
  let base := o / 256 * 256
  let (mant, scale) : (Nat → Option Int) × (Nat → Num) :=
    (x.keyMant p q s base i, match x.slot q.row s i with
      | none => fun _ => .fin false 1 0
      | some (a, t) => fun r => scaleNum p.wgt (scaleAt x.mem p.wgt ((x.shapeAt (x.own s) q.row).keyScaleAt a t (base + r))))
  let runs := [zeroRun (o - base)] ++ runsOf v.flatten ++ [zeroRun (256 - (o - base) - x.a.d)]
  addRuns (wgtExp p.wgt) (if p.wgt = 7 then x.a.d else 32) mant scale (runs.filter (fun r => r.2 != 0)) 0 0

/-- Rows of a value tile: the span's keys below the largest key count among the rows that use it (R180). At a visiting span, which no
row's key count covers, they are all 64 slots of every page listed. DESIGN CHOICE (log entry 31). -/
def AttnCmd.valueRows (x : AttnCmd) (w : Row) (s slice : Nat) : Nat :=
  if s < x.ownSpans then
    let mine := x.pagesOf w s (256 * slice) 256
    let most := x.rows.foldl (fun m r => if x.pagesOf r s (256 * slice) 256 == mine then max m r.keys else m) w.keys
    min 256 (most - (x.per * s + 256 * slice))
  else min 256 (x.vis.length * 64 - (x.per * (s - x.ownSpans) + 256 * slice))

/-- The page and slot of a row of a value tile, whatever the vector's own key count. -/
def AttnCmd.valueSlot (x : AttnCmd) (w : Row) (s i : Nat) : Option (Nat × Nat) :=
  if s < x.ownSpans then
    (w.st.pageAddr x.a.g ((x.per * s + i) / 64)).map (fun a => (a, i % 64))
  else (x.vis[(x.per * (s - x.ownSpans) + i) / 64]?).map (fun a => (a, i % 64))

/-- Mantissa of value element `e` of token row `r` of a slice of a span. -/
def AttnCmd.valueMant (x : AttnCmd) (p : Prec) (q : AttnVec) (s slice e r : Nat) : Option Int :=
  match x.valueSlot q.row s (256 * slice + r) with
  | some (a, t) => wgtMant p.wgt ((x.shapeAt (x.own s) q.row).value x.mem a t e)
  | none => some 0

/-- The partial sum of a vector's probabilities with column `col` of its head's values (R180). -/
def AttnCmd.pvSum (x : AttnCmd) (p : Prec) (q : AttnVec) (s : Nat) (v : Staged) (col : Nat) : Nat :=
  let e := x.element q + col
  (List.range (x.per / 256)).foldl (fun acc slice =>
    let rows := x.valueRows q.row s slice
    let mant := x.valueMant p q s slice e
    let scale := fun (r : Nat) => match x.valueSlot q.row s (256 * slice + r) with
      | some (a, t) => scaleNum p.wgt (scaleAt x.mem p.wgt ((x.shapeAt (x.own s) q.row).valueScaleAt a (t / 32) e))
      | none => .fin false 1 0
    let runs := runsOf (v.getD slice [])
    let upTo := (runs.foldl (fun (z : List (Stream1 × Nat) × Nat) r =>
      (if rows ≤ z.2 then z.1 else z.1 ++ [(r.1, min r.2 (rows - z.2))], z.2 + r.2)) ([], 0)).1
    addRuns (wgtExp p.wgt) 32 mant scale upTo 0 acc) 0

/-! ## Passes (R182) -/

/-- The tile that a vector uses: pages, slice and output group, with its rows. -/
structure AttnTile where
  pages : List (Option Nat)
  part  : Nat × Nat
  rows  : Nat
  deriving DecidableEq, Repr

/-- The tiles of a vector at a span, in slice order. -/
def AttnCmd.tiles (x : AttnCmd) (qk : Bool) (q : AttnVec) (s : Nat) : List AttnTile :=
  let o := x.element q
  if qk then [{ pages := x.pagesOf q.row s 0 x.per, part := (o / 256, 0), rows := 256 }]
  else (List.range (x.per / 256)).map (fun i =>
    { pages := x.pagesOf q.row s (256 * i) 256, part := (i, o / (256 * perCell x.vf)), rows := x.valueRows q.row s i })

/-- The passes of a span in the order of their first vector: tile and vectors. -/
def AttnCmd.passes (x : AttnCmd) (qk : Bool) (qs : List AttnVec) (s : Nat) : List (AttnTile × List AttnVec) :=
  let uses := qs.flatMap (fun q => (x.tiles qk q s).map (fun t => (t, q)))
  let tiles := uses.foldl (fun (ts : List AttnTile) u => if ts.contains u.1 then ts else ts ++ [u.1]) []
  tiles.map (fun t => (t, (uses.filter (fun u => u.1 == t)).map (·.2)))

/-- Reads of a pass: keys with their scales, or values with theirs, of each page (R280). -/
def AttnCmd.reads (x : AttnCmd) (qk : Bool) (t : AttnTile) : List Access :=
  t.pages.filterMap (fun a => a.map (fun a =>
    let sh : PageShape := { kf := x.kf, vf := x.vf, d := x.a.d }
    if qk then { addr := a, len := sh.vd, part := 1 }
    else { addr := a + sh.vd, len := sh.size - sh.vd, part := 1 }))

/-- The check cells of a pass: T_r of each row of its tile over all of the tile's columns (R72, R84). -/
def AttnCmd.tally (x : AttnCmd) (p : Prec) (qk : Bool) (s : Nat) (t : AttnTile) (q : AttnVec) : List Int :=
  let mant := fun (c r : Nat) => if qk then x.keyMant p q s (256 * t.part.1) c r
    else x.valueMant p q s t.part.1 (256 * perCell x.vf * t.part.2 + c) r
  (List.range 256).map (fun r =>
    if r < t.rows then tallyCell ((List.range (256 * perCell p.wgt)).map (fun c => (mant c r).getD 0)).sum else 0)

end Sys2Proof.Machine
end

