-- ==== Sys2Proof/Machine/Attn.lean ====
section
/-! DEFINITION. The attention instructions: APPEND, QK and PV (R171 to R198). -/

namespace Sys2Proof.Machine

/-! ## APPEND (R171 to R173) -/

/-- What APPEND has done so far: memory, columns rescaled, and segment and position of the last token. -/
structure Appending where
  mem    : NMap Byte
  scaled : Nat := 0
  entry  : TokenEntry := {}

/-- Store one token of a row; `n` is its place among the command's tokens and `at'` where its elements begin. Slots that no head
fills hold zeros (R167). -/
def AttnCmd.appendToken (x : AttnCmd) (scratch : NMap Byte) (w : Row) (z : Appending) (t n at' : Nat) : Appending :=
  let i := w.st.length + t
  let sh := x.shape w
  match w.st.pageAddr x.a.g (i / 64) with
  | none => z
  | some a =>
    let e := z.entry.next x.mem x.image x.a.segT x.a.posT w n
    let word := fun (base k : Nat) => if k < x.a.heads * x.a.d then memWord scratch (at' + (base + k) * 4) 4 else 0
    let m := sh.putKeys z.mem a (i % 64) ((List.range sh.w).map (word 0))
    let (m, k) := sh.putValues m a (i % 64) ((List.range sh.w).map (word sh.w))
    { mem := sh.putEntry m a (i % 64) x.a.g (i / 64) e.seg e.pos, scaled := z.scaled + k, entry := e }

/-- Store the tokens of the rows one at a time, from place `n` and operand address `at'` on; gives what is stored and each row's
last segment. -/
def AttnCmd.appendRows (x : AttnCmd) (scratch : NMap Byte) (z : Appending) (n at' : Nat) (ws : List Row) :
    Appending × List (Nat × Nat) :=
  match ws with
  | [] => (z, [])
  | w :: rest =>
    let per := 8 * (x.shape w).w
    let z1 := (List.range w.queries).foldl (fun z t => x.appendToken scratch w z t (n + t) (at' + t * per))
      { z with entry := w.entryBefore z.mem x.a.g }
    let (z2, segs) := x.appendRows scratch z1 (n + w.queries) (at' + w.queries * per) rest
    (z2, if w.queries = 0 then segs else (w.stream, z1.entry.seg) :: segs)

/-- What storing slots `lo` to `hi - 1` of a page touches: the key area, across which each token's codes lie, the values of those
tokens, or of their blocks from the start where a column was rescaled, their scales, their entries and the trailer (R168 to R172). -/
def PageShape.stored (p : PageShape) (a lo hi : Nat) (rescaled : Bool) : List Access :=
  let bits := pageBits p.vf
  let from' := if rescaled then lo / 32 * 32 else lo
  let at' := fun (off n : Nat) => ({ addr := a + off, len := n, write := true, part := 2 } : Access)
  let scale := (if p.vf = 7 then 2 else 1) * p.w
  let blocks := (hi - 1) / 32 + 1 - lo / 32
  [at' 0 p.vd, at' (p.vd + p.w * from' * bits / 8) (cdiv (p.w * hi * bits) 8 - p.w * from' * bits / 8),
   at' (p.vs + scale * (lo / 32)) (scale * blocks), at' (0xFC00 + 8 * lo) (8 * (hi - lo)), at' 0xFE00 64]

/-- The accesses of a row's tokens, page by page. -/
def AttnCmd.stores (x : AttnCmd) (w : Row) (rescaled : Bool) : List Access :=
  if w.queries = 0 then []
  else
    (List.range ((w.keys - 1) / 64 + 1 - w.st.length / 64)).flatMap (fun i =>
      let p := w.st.length / 64 + i
      match w.st.pageAddr x.a.g p with
      | none => []
      | some a => (x.shape w).stored a (max w.st.length (64 * p) - 64 * p) (min w.keys (64 * (p + 1)) - 64 * p) rescaled)

/-- The pages that a row's tokens go to. -/
def Row.appendPages (w : Row) (g : Nat) : List Nat :=
  if w.queries = 0 then []
  else (List.range ((w.keys - 1) / 64 + 1 - w.st.length / 64)).filterMap (fun i => w.st.pageAddr g (w.st.length / 64 + i))

/-- The rows in flight take their last segment. -/
def JobRun.setSegments (r : JobRun) (segs : List (Nat × Nat)) : JobRun :=
  { r with queue := r.queue.map (fun q => { q with rows := q.rows.map (fun (w : Row) =>
      if w.phase = 2 then { w with lastSeg := ((segs.find? (fun t => t.1 == w.stream)).map (·.2)).getD w.lastSeg } else w) }) }

/-- Job memory after stores that are not written byte by byte here: the pages given are journalled (R354). -/
def Job.withPages (j : Job) (mem : NMap Byte) (pages : List Nat) : Job :=
  let j := pages.foldl (fun (j : Job) a => j.touch (a / 4096) 16) j
  { j with run := { j.run with mem } }

/-- Real tokens of the command's rows. -/
def AttnCmd.queryTokens (x : AttnCmd) : Nat := (x.rows.map Row.queries).sum

/-- The core once the row table is written (R179). -/
def AttnCmd.tabled (x : AttnCmd) (c : Core) : Core := { c with scratch := memWrite c.scratch x.a.rowTab x.table }

/-- Store the keys and values of one group for every real token of the rows. -/
def AttnCmd.append (x : AttnCmd) (j : Job) (c : Core) : Done :=
  let (z, segs) := x.appendRows c.scratch { mem := j.run.mem } 0 x.a.opnd x.rows
  let pages := x.rows.flatMap (fun w => w.appendPages x.a.g)
  let j := j.withPages z.mem pages
  let r := (((j.run.setSegments segs).count 0x110 x.queryTokens).count 0x128 z.scaled)
  let accesses := x.rows.flatMap (fun w => x.stores w (decide (0 < z.scaled)))
  { job := { j with run := r }, core := c, accesses }

/-- The batch's rows or tokens are above a shape limit of a tensor that the attention control block names (R54). -/
def AttnCmd.overPlan (x : AttnCmd) (j : Job) (c : Core) : Bool :=
  let ts := [x.a.bmT, x.a.segT, x.a.posT, x.a.visT].filter (· != 0xFFFF)
  j.image.over ts 0 (j.rowCount c) || j.image.over ts 1 (x.rows.map (·.tokens)).sum

/-- APPEND: the shape is checked before anything is written. -/
def effectAppend (n : Nat) (f : FmtA) (j : Job) (c : Core) : Effect :=
  let x := j.attnCmd c ((j.image.sec n).attnBlk f.ctrl)
  if x.overPlan j c then .stop .shape
  else if x.queryTokens = 0 then .done { job := j, core := x.tabled c, status := 1 } else .done (x.append j (x.tabled c))

def execAppend (n : Nat) (f : FmtA) (s : State) : Host.Outcome State Fault Refusal :=
  checked s (coreOk n && fmtAOk f) (s.retire n (wordA 0x23 f) (effectAppend n f))

/-! ## QK and PV (R180 to R185, R191) -/

/-- A visiting page of the span whose trailer formats are not the command's (R191). -/
def AttnCmd.badVisitor (x : AttnCmd) (s : Nat) : Bool :=
  decide (x.ownSpans ≤ s) && (List.range (x.per / 64)).any (fun i =>
    match x.vis[(s - x.ownSpans) * (x.per / 64) + i]? with
    | some a => memWord x.mem (a + 0xFE01) 1 != x.kf || memWord x.mem (a + 0xFE02) 1 != x.vf
    | none => false)

/-- Visiting pages that a span reads. -/
def AttnCmd.visitors (x : AttnCmd) (s : Nat) : Nat :=
  if x.ownSpans ≤ s then min (x.per / 64) (x.vis.length - (s - x.ownSpans) * (x.per / 64)) else 0

/-- A vector saw a visiting page: some key of it is not masked (R185, R191). -/
def AttnCmd.visited (x : AttnCmd) (q : AttnVec) : Bool :=
  (x.seen q).any (fun s => decide (x.ownSpans ≤ s) && (List.range x.per).any (fun i => !x.masked q s i))

/-- The row status of a vector (R185). -/
def AttnCmd.statusByte (x : AttnCmd) (q : AttnVec) (empty : Bool) : Nat :=
  b2n empty + 2 * b2n (decide (0 < q.row.st.winPages)) + 4 * b2n (x.visited q)

/-- The beats of a command's passes (R88, R97, R140, R182). -/
def AttnCmd.count (x : AttnCmd) (qk fawn : Bool) (n : Nat) (p : Prec) (rate : Nat) (bits : AttnVec → Nat → Nat)
    (ps : List (AttnTile × List AttnVec)) (r : JobRun) : JobRun :=
  let slice := fun (t : AttnTile) => if qk then 0 else t.part.1
  let streamed := fun (t : AttnTile × List AttnVec) => (t.2.map (fun q => bits q (slice t.1))).sum
  let busy := (ps.map streamed).sum
  let keyed : List Pass := ps.zipIdx.map (fun t =>
    { tile := t.2, rows := t.1.1.rows, first := 0, count := t.1.2.length, slice := 0, last := true })
  let cols := if qk then x.per else x.a.d
  let stall := (ps.map (fun t =>
    if qk || t.1.part.1 + 1 == x.per / 256 then cdiv (t.2.length * cols) rate - streamed t else 0)).sum
  let budget := (ps.map (fun t => t.2.length * p.bits)).sum
  let shared := (ps.filter (fun t => match t.2 with
    | q :: rest => rest.any (fun z => z.ix != q.ix)
    | [] => false)).length
  let r := r.countBeats fawn n
    [(0x00, busy), (0x08, bubbles keyed), (0x30, if p.adaptive then budget - busy else 0), (0x80, stall)]
  (r.count 0x130 ps.length).count 0x138 shared

/-- The mode of a vector at a span: the scores begin at its first visible span, the output is final at its last (R181). -/
def AttnCmd.mode (x : AttnCmd) (qk : Bool) (q : AttnVec) (s : Nat) : Nat :=
  let ss := x.seen q
  if qk then (if ss.head? = some s then 1 else 2) else if ss.getLast? = some s then 4 else 3

/-- A vector that sees no key is finished as FINAL with *l* = 0 (R181, R185). -/
def GateUse.finalEmpty (u : GateUse) (v d : Nat) (a : GateAcc) : GateAcc :=
  let a := { a with scratch := memWrite a.scratch (u.g.rowState + 16 * v) (leBytes 4 negInf ++ leBytes 8 0) }
  u.final v (List.replicate d 0) a

/-- Multiply–accumulates of a pass: a vector's own elements or probabilities by the columns it takes (R91, R180). -/
def AttnCmd.macs (x : AttnCmd) (qk : Bool) (t : AttnTile × List AttnVec) : Nat :=
  t.2.length * (if qk then x.a.d * x.per else t.1.rows * x.a.d)

/-- The blocks that stopped early of each token of the batch, in its order (R80). -/
def AttnCmd.stopsByToken (x : AttnCmd) (vs : List (AttnVec × Staged)) : List Nat :=
  (x.rows.zipIdx.flatMap (fun (w : Row × Nat) => (List.range w.1.tokens).map (fun t => (w.2, t)))).map (fun k =>
    ((vs.filter (fun v => v.1.ix == k.1 && v.1.t == k.2)).map (fun v => stops v.2 2)).sum)

/-- Run a QK or PV command over the vectors of a span. -/
def AttnCmd.run (x : AttnCmd) (qk fawn : Bool) (n s : Nat) (p : Prec) (u : GateUse) (j : Job) (c : Core) : Done :=
  let k := if qk then x.a.d else x.per
  let outs := if qk then x.per else x.a.d
  let all := x.vectors
  let qs := all.filter (fun q => x.sees q s)
  let lone := if !qk && s == x.spanRange.1 then all.filter (fun q => (x.seen q).isEmpty) else []
  let staged := fun (q : AttnVec) =>
    (readVec c.scratch p.act p.group (x.a.opnd + q.v * vecBytes p.act p.group k) k).map (fun b => b.map (streamBlock p))
  let vs := qs.map (fun q => (q, staged q))
  let one := fun (a : GateAcc) (q : AttnVec × Staged) =>
    let ys := (List.range outs).map (if qk then x.qkSum p q.1 s q.2 else x.pvSum p q.1 s q.2)
    u.vector j c q.1.v (x.mode qk q.1 s) (x.masked q.1 s) ys a
  let a := vs.foldl one { scratch := c.scratch }
  let a := lone.foldl (fun a q => u.finalEmpty q.v x.a.d a) a
  let done := if qk then [] else qs.filter (fun q => x.mode qk q s == 4) ++ lone
  let scratch := done.foldl (fun m q =>
    memPut m (x.a.status + q.v) (BitVec.ofNat 8 (x.statusByte q (a.empty.contains q.v)))) a.scratch
  let bits := fun (q : AttnVec) (i : Nat) =>
    sliceBits ((((vs.find? (fun z => z.1.v == q.v)).map (·.2)).getD []).getD i [])
  let ps := x.passes qk qs s
  let r := x.count qk fawn n p (u.rate (if qk then 1 else 4)) bits ps j.run
  let r := r.countStops n (vs.map (·.2))
  let r := (a.count r n).count 0x148 (x.visitors s)
  let empties := if qk then [] else (all.filter (fun q => a.empty.contains q.v)).map (fun q => q.row.stream)
  let tally := match ps.getLast? with
    | some (t, q :: _) => x.tally p qk s t q
    | _ => c.tally
  { job := { j with run := r }, core := { c with scratch, cells := none, tally }
    accesses := ps.flatMap (fun t => x.reads qk t.1), adaptive := x.stopsByToken vs, empties
    fawn := fawnBeats fawn (ps.map (x.macs qk)).sum }

/-- The tiles and pages that a QK or PV command reads at a span. -/
def AttnCmd.spanReads (x : AttnCmd) (qk : Bool) (span : Nat) : List Access :=
  (x.passes qk (x.vectors.filter (fun q => x.sees q span)) span).flatMap (fun t => x.reads qk t.1)

/-- How a QK or PV command uses the gate pipeline. -/
def AttnCmd.gateUse (x : AttnCmd) (qk : Bool) (n : Nat) (sec : CoreSec) (o : OpBlk) (p : Prec) : GateUse :=
  { core := n, g := sec.gateBlk o.gate, out := p.out, cols := if qk then x.per else x.a.d, outr := o.out }

/-- QK and PV: the span comes from the instruction's register, vectors from the row table (R180, R205). No rule gives these
commands a diagonal form: MODE 1 in their words changes nothing (R90, log entry 105). -/
def effectAttn (s : State) (qk : Bool) (n : Nat) (f : FmtA) (j : Job) (c : Core) : Effect :=
  let sec := j.image.sec n
  let o := sec.opBlk f.operand
  let p := precOf f.prec.toNat (j.forcedPrec c)
  let x := j.attnCmd c (sec.attnBlk f.ctrl)
  let span := (c.reg f.span).toNat
  if x.overPlan j c then .stop .shape
  else
  let c := x.tabled c
  if x.vectors.isEmpty then .done { job := { j with run := j.run.countCore n 0x48 1 }, core := c, status := 1 }
  else if x.badVisitor span then .done { job := j, core := c, status := 0x0303 }
  else
    let u := x.gateUse qk n sec o p
    if (x.vectors.filter (fun q => x.sees q span)).isEmpty then .done (x.run qk false n span p u j c)
    else s.orFetch n (x.spanReads qk span) j c (s.useArray n j c (fun fawn j c => x.run qk fawn n span p u j c))

def execQk (n : Nat) (f : FmtA) (s : State) : Host.Outcome State Fault Refusal :=
  checked s (coreOk n && fmtAOk f) (s.retireThen n (wordA 0x21 f) (effectAttn s true n f) (fun k _ d s => s.arrayChecks k n d))

def execPv (n : Nat) (f : FmtA) (s : State) : Host.Outcome State Fault Refusal :=
  checked s (coreOk n && fmtAOk f) (s.retireThen n (wordA 0x22 f) (effectAttn s false n f) (fun k _ d s => s.arrayChecks k n d))

end Sys2Proof.Machine
end

