-- ==== Sys2Proof/Machine/VecOps.lean ====
section
/-! DEFINITION. What the vector instructions share (R206 to R212, R230): types, operands and their lane faults, masks,
run-time counts, broadcasting, and the walk over the lanes in ascending order. -/

namespace Sys2Proof.Machine

/-! ## Types (R206) -/

/-- The floating-point shape of a TYPE code; none for the INT types. -/
def tyFp (ty : Nat) : Option FpFmt :=
  match ty with
  | 0 => some fp32 | 1 => some bf16 | 2 => some fp16 | _ => none

/-- Bytes of an element of a TYPE code. -/
def tyBytes (ty : Nat) : Nat :=
  match ty with
  | 0 => 4 | 1 => 2 | 2 => 2 | 3 => 4 | 4 => 2 | _ => 1

/-- Bits of an element of a TYPE code. -/
def tyBits (ty : Nat) : Nat := 8 * tyBytes ty

/-- The number that an element means. -/
def tyNum (ty code : Nat) : Num :=
  match tyFp ty with
  | some sh => sh.decode code
  | none => .ofInt (signedBits (tyBits ty) code)

/-- A number converted to a TYPE: to nearest with ties to even; conversion to an INT type saturates and NaN becomes 0
(R147, R208). -/
def tyCode (ty : Nat) (x : Num) : Nat :=
  match tyFp ty with
  | some sh => sh.encode x
  | none =>
    match x with
    | .nan _ => 0
    | .inf n => codeOf (tyBits ty) (if n then -(2 ^ (tyBits ty - 1)) else 2 ^ (tyBits ty - 1) - 1)
    | .fin .. => codeOf (tyBits ty) (satInt (tyBits ty) (x.toInt.getD 0))

/-- An operation on elements of a TYPE: exact and then rounded once for FP; wrapping, or saturating, for INT (R210). -/
def tyOp (ty : Nat) (sat : Bool) (fp : Num → Num → Num → Num) (int : Int → Int → Int → Int) (a b c : Nat) : Nat :=
  match tyFp ty with
  | some sh => sh.encode (fp (sh.decode a) (sh.decode b) (sh.decode c))
  | none =>
    let w := tyBits ty
    let v := int (signedBits w a) (signedBits w b) (signedBits w c)
    codeOf w (if sat then satInt w v else v)

/-- A bitwise operation. -/
def tyBitsOp (ty : Nat) (g : Nat → Nat → Nat) (a b : Nat) : Nat := g a b % 2 ^ tyBits ty

/-! ## Operands (R207, R230) -/

/-- An operand: where element 0 lies, bytes of an element, the element that a lane uses, whether it lies in job memory,
whether it is written, and the lanes that address it whether enabled or not. -/
structure Opnd where
  base   : Nat
  size   : Nat
  at'    : Nat → Nat := fun i => i
  job    : Bool := false
  write  : Bool := false
  always : Nat → Bool := fun _ => false
  here   : Nat → Bool := fun _ => true

/-- The address a lane uses. -/
def Opnd.addr (o : Opnd) (i : Nat) : Nat := o.base + o.at' i * o.size

/-- The address at which a lane faults in an operand (R230). -/
def Opnd.fault (o : Opnd) (n : Nat) (j : Job) (i : Nat) : Option Nat :=
  let a := o.addr i
  if a % o.size ≠ 0 then some a
  else if o.job then (if (if o.write then j.mapped a o.size else j.readable a o.size) then none else some a)
  else if !inScratch a o.size || (o.write && (j.image.sec n).inProgram a o.size) then some a
  else none

/-- The code of an element. -/
def Opnd.code (o : Opnd) (m : NMap Byte) (i : Nat) : Nat := memWord m (o.addr i) o.size

/-- Write an element. -/
def Opnd.put (o : Opnd) (m : NMap Byte) (i code : Nat) : NMap Byte := memWrite m (o.addr i) (leBytes o.size code)

/-! ## Masks and counts (R211, R212) -/

/-- Bit `i` of the mask at `base`. -/
def maskBit (m : NMap Byte) (base i : Nat) : Bool := (memGet m (base + i / 8)).toNat.testBit (i % 8)

/-- A mask as an instruction applies it. -/
structure Mask where
  on   : Bool
  base : Nat
  inv  : Bool

/-- Whether a lane is enabled. -/
def Mask.enabled (k : Mask) (m : NMap Byte) (i : Nat) : Bool := !k.on || (maskBit m k.base i != k.inv)

/-- The lanes enabled among `count`. -/
def Mask.lanes (k : Mask) (m : NMap Byte) (count : Nat) : List Nat := (List.range count).filter (k.enabled m)

/-- The first operand in which a lane faults. -/
def firstBad (n : Nat) (j : Job) (on : Bool) (ops : List Opnd) (i : Nat) : Option Nat :=
  (ops.find? (fun o => ((on && o.here i) || o.always i) && (o.fault n j i).isSome)).bind (fun o => o.fault n j i)

/-- The address at which a lane faults: its sources in order, then the mask, whose bit is read for every lane, then its
destination (R230). A lane whose mask bit lies beyond the scratchpad counts as enabled. -/
def laneFault (n : Nat) (j : Job) (c : Core) (k : Mask) (count : Nat) (ops : List Opnd) (i : Nat) : Option Nat :=
  let blind := decide (i < count) && k.on && !inScratch (k.base + i / 8) 1
  let on := decide (i < count) && (blind || k.enabled c.scratch i)
  ((firstBad n j on (ops.filter (fun o => !o.write)) i).orElse
    (fun _ => if blind then some (k.base + i / 8) else none)).orElse
    (fun _ => firstBad n j on (ops.filter (fun o => o.write)) i)

/-- The lowest faulting lane among `lanes`, with its address. -/
def firstFault (n : Nat) (j : Job) (c : Core) (k : Mask) (count lanes : Nat) (ops : List Opnd) : Option (Nat × Nat) :=
  let i := (List.range lanes).find? (fun i => (laneFault n j c k count ops i).isSome)
  i.bind (fun i => (laneFault n j c k count ops i).map (fun a => (i, a)))

/-- The run-time count; none where it is above the plan (R212). -/
def runCount (c : Core) (creg planned : Nat) : Option Nat :=
  if creg = 0 then some planned
  else
    let v := (c.reg creg).toNat
    if planned < v then none else some v

/-! ## The frame of a vector instruction -/

/-- What a vector instruction is once its registers are read: operands, lanes that may address something (beyond the
count for VTOPK's slots), beats it occupies the engine, what it does over its enabled lanes, and what it leaves where the
count is 0. -/
structure VecPlan where
  ops    : List Opnd
  slots  : Nat := 0
  masked : Bool := true
  beats  : Nat → Nat
  run    : List Nat → Nat → Job → Core → Done
  empty  : Job → Core → Done := fun j c => { job := j, core := c, status := 1 }

/-- A vector instruction: its count is checked before anything is touched, its lanes are checked before anything is
written, then it runs and is counted (R212, R230, R237). -/
def effectVec (n : Nat) (f : FmtV) (plan : Job → Core → VecPlan) (j : Job) (c : Core) : Effect :=
  let p := plan j c
  let k : Mask := { on := f.masked && p.masked, base := (c.reg f.mreg).toNat, inv := f.minv }
  match runCount c f.creg (f.count + 1) with
  | none => .stop .shape
  | some count =>
    match firstFault n j c k count (max count p.slots) p.ops with
    | some (i, a) => .stop (.lane i a)
    | none =>
      if count = 0 then .done (p.empty j c)
      else
        let lanes := k.lanes c.scratch count
        let d := p.run lanes count j c
        let r := d.job.run.countCore n 0x100 (p.beats count)
        .done { d with job := { d.job with run := r.countCore n 0x108 (count - lanes.length) } }

/-- Beats of `count` elements of a TYPE (R206). -/
def vecBeats (ty count : Nat) : Nat := cdiv (count * tyBytes ty) 1024

/-! ## Operands of format V -/

/-- An operand in scratchpad named by a register. -/
def scratchOp (c : Core) (reg size : Nat) : Opnd := { base := (c.reg reg).toNat, size }

/-- The destination of an element-wise instruction. -/
def dstOp (f : FmtV) (c : Core) (size : Nat) : Opnd := { scratchOp c f.dst size with write := true }

/-- The scalar of BCAST 1: IMM, or a parameter-group word, as an FP32 number converted to TYPE, an INT type too (R209, R224; log
entry 48). -/
def scalarCode (n : Nat) (f : FmtV) (j : Job) (c : Core) : Nat :=
  let w := if f.pgt then (j.groupWord n c (fld f.imm 0 8) (fld f.imm 8 3)).toNat else f.imm.toNat
  tyCode f.type (f32 w)

/-- The second operand as memory; none where it is a scalar (R209). -/
def src2Op (f : FmtV) (c : Core) : Option Opnd :=
  let o := scratchOp c f.src2 (tyBytes f.type)
  match f.bcast with
  | 0 => some o
  | 1 => none
  | 2 => some { o with at' := fun i => i % f.rowlen }
  | _ => some { o with at' := fun i => i / f.rowlen }

/-- The code of the second operand for a lane. -/
def src2Code (n : Nat) (f : FmtV) (j : Job) (c : Core) (m : NMap Byte) (i : Nat) : Nat :=
  match src2Op f c with
  | some o => o.code m i
  | none => scalarCode n f j c

/-- Walk the enabled lanes in ascending order, each reading what earlier lanes wrote (R210). -/
def walk (dst : Opnd) (g : NMap Byte → Nat → Nat) (lanes : List Nat) (m : NMap Byte) : NMap Byte :=
  lanes.foldl (fun m i => dst.put m i (g m i)) m

/-- An element-wise instruction: `srcs` tells which of SRC2 and SRC3 it reads, `size` the bytes of a first source. -/
def mapPlan (n : Nat) (f : FmtV) (two three : Bool) (beats : Nat → Nat) (g : Nat → Nat → Nat → Nat) (_j : Job)
    (c : Core) : VecPlan :=
  let z := tyBytes f.type
  let a := scratchOp c f.src1 z
  let x := scratchOp c f.src3 z
  let d := dstOp f c z
  let s2 := if two then (src2Op f c).toList else []
  let s3 := if three then [x] else []
  { ops := [a] ++ s2 ++ s3 ++ [d], beats
    run := fun lanes _ j c =>
      let code := fun (m : NMap Byte) (i : Nat) =>
        g (a.code m i) (if two then src2Code n f j c m i else 0) (if three then x.code m i else 0)
      { job := j, core := { c with scratch := walk d code lanes c.scratch } } }

/-- A reduction: one element at DST, whose fault is that of lane 0; a reduction over no lane gives its identity (R208,
R212). -/
def foldPlan (f : FmtV) (size identity : Nat) (g : List Nat → Nat) (c : Core) : VecPlan :=
  let a := scratchOp c f.src1 (tyBytes f.type)
  let d : Opnd := { dstOp f c size with at' := fun _ => 0, here := fun _ => false, always := fun i => i == 0 }
  let put := fun (c : Core) (v : Nat) => { c with scratch := d.put c.scratch 0 v }
  { ops := [a, d], slots := 1, beats := vecBeats f.type
    run := fun lanes _ j c =>
      let v := if lanes.isEmpty then identity else g (lanes.map (a.code c.scratch))
      { job := j, core := put c v }
    empty := fun j c => { job := j, core := put c identity, status := 1 } }

/-- The extreme element under an order of numbers; NaN if any is NaN (R208). -/
def extreme (ty : Nat) (pick : Num → Num → Num) (codes : List Nat) : Nat :=
  match codes.map (tyNum ty) with
  | [] => 0
  | x :: rest => tyCode ty (rest.foldl pick x)

/-! ## VSUM (R208) -/

/-- Add `v` into partial `k`. -/
def addPartial (ty : Nat) (parts : List Nat) (k v : Nat) : List Nat :=
  let p := parts.getD k 0
  parts.set k (if (tyFp ty).isSome then addF32 p v else (p + v) % 2 ^ 32)

/-- Fold a list of partials by pairing neighbours, or halves (log entry 29). -/
def treeSum (adjacent : Bool) (add : Nat → Nat → Nat) (fuel : Nat) (xs : List Nat) : Nat :=
  match fuel with
  | 0 => xs.headD 0
  | k + 1 =>
    let h := xs.length / 2
    let pair := fun (i : Nat) => if adjacent then add (xs.getD (2 * i) 0) (xs.getD (2 * i + 1) 0)
      else add (xs.getD i 0) (xs.getD (i + h) 0)
    treeSum adjacent add k ((List.range h).map pair)

/-- VSUM over the enabled lanes: partial `i mod 256` in ascending `i`, then the tree over lane numbers. -/
def vsumOf (ty : Nat) (lanes : List Nat) (code : Nat → Nat) : Nat :=
  let fp := (tyFp ty).isSome
  let one := fun (i : Nat) => if fp then toF32 (tyNum ty (code i)) else codeOf 32 (signedBits (tyBits ty) (code i))
  let parts := lanes.foldl (fun ps i => addPartial ty ps (i % 256) (one i)) (List.replicate 256 0)
  treeSum Config.sumAdjacent (fun a b => if fp then addF32 a b else (a + b) % 2 ^ 32) 8 parts

/-! ## Comparison and conversion -/

/-- The comparison that AUX names (R208). -/
def vcmpHolds (aux : Nat) (o : Option Ordering) : Bool :=
  match aux with
  | 0 => o == some .eq
  | 1 => o != some .eq
  | 2 => o == some .lt
  | 3 => o == some .lt || o == some .eq
  | 4 => o == some .gt
  | 5 => o == some .gt || o == some .eq
  | _ => o.isNone

/-- Round down after adding a halfword to the 16 bits below the last place (R208). -/
def rndStoch (h m : Nat) (s : Int) : Nat :=
  match s with
  | .ofNat k => m * 2 ^ k
  | .negSucc k => (m * 2 ^ 16 + h * 2 ^ (k + 1)) / 2 ^ (k + 17)

/-- Stochastic rounding of an FP32 value to BF16 or FP16 (R208). -/
def stochCode (sh : FpFmt) (x : Num) (h : Nat) : Nat :=
  match x with
  | .fin n m e => b2n n * 2 ^ (sh.eb + sh.mb) + min sh.infCode (sh.magCode (rndStoch h) m e)
  | y => sh.encode y

/-! ## Job memory (R208, R211) -/

/-- Runs of consecutive lanes: first and number. -/
def laneRuns (lanes : List Nat) (open' : Option (Nat × Nat)) : List (Nat × Nat) :=
  match lanes, open' with
  | [], none => []
  | [], some r => [r]
  | i :: rest, none => laneRuns rest (some (i, 1))
  | i :: rest, some (a, k) => if i = a + k then laneRuns rest (some (a, k + 1)) else (a, k) :: laneRuns rest (some (i, 1))

/-- The accesses of an operand in job memory, one for each run of lanes. -/
def Opnd.accesses (o : Opnd) (lanes : List Nat) (hint : Nat) : List Access :=
  (laneRuns lanes none).map (fun r => { addr := o.base + r.1 * o.size, len := r.2 * o.size, write := o.write, hint })

end Sys2Proof.Machine
end

