-- ==== Sys2Proof/Machine/Vector.lean ====
section
/-! DEFINITION. The vector, transform and selection instructions (R206 to R215). -/

namespace Sys2Proof.Machine

/-- Fields of a vector instruction that name what there is (R207). -/
def fmtVOk (f : FmtV) : Bool :=
  decide (f.creg < 32) && decide (f.mreg < 32) && decide (f.src1 < 32) && decide (f.src2 < 32) &&
  decide (f.src3 < 32) && decide (f.dst < 32) && decide (f.count < 16384) && decide (f.bcast < 4) &&
  decide (f.type < 6) && decide (f.rowlen < 32768) && decide (f.aux < 256)

/-- What a vector instruction of core `n` that has run does beyond its job: its beat groups meet their check, unless it only
moves data (VLD, VST, VCOPY), which computes nothing to check (R213, log entry 43). -/
def State.vecEnd (s : State) (n op : Nat) : State :=
  if decide (0x68 ≤ op) && decide (op < 0x80) then s else s.vecChecks n

/-- A vector instruction of core `n`; one whose count is 0 has no beat group. -/
def State.vec (s : State) (n op : Nat) (f : FmtV) (plan : Job → Core → VecPlan) : Host.Outcome State Fault Refusal :=
  checked s (coreOk n && fmtVOk f) (s.retireThen n (wordV op f) (effectVec n f plan)
    (fun _ c _ s => if runCount c f.creg (f.count + 1) == some 0 then s else s.vecEnd n op))

/-- Beats at the rate of R206. -/
def fast (f : FmtV) : Nat → Nat := vecBeats f.type

/-- Beats of a slow operation: 64 elements a beat at every type (R206). -/
def slow (count : Nat) : Nat := cdiv count 64

/-- Saturation asked by AUX bit 7, for INT types (R210). -/
def satOn (f : FmtV) : Bool := f.aux.testBit 7

/-! ## Arithmetic (R208) -/

def execVadd (n : Nat) (f : FmtV) (s : State) : Host.Outcome State Fault Refusal :=
  s.vec n 0x40 f (mapPlan n f true false (fast f) (tyOp f.type (satOn f) (fun a b _ => a.add b) (fun a b _ => a + b)))

def execVsub (n : Nat) (f : FmtV) (s : State) : Host.Outcome State Fault Refusal :=
  s.vec n 0x41 f (mapPlan n f true false (fast f) (tyOp f.type (satOn f) (fun a b _ => a.sub b) (fun a b _ => a - b)))

def execVmul (n : Nat) (f : FmtV) (s : State) : Host.Outcome State Fault Refusal :=
  s.vec n 0x42 f (mapPlan n f true false (fast f) (tyOp f.type (satOn f) (fun a b _ => a.mul b) (fun a b _ => a * b)))

def execVfma (n : Nat) (f : FmtV) (s : State) : Host.Outcome State Fault Refusal :=
  s.vec n 0x43 f (mapPlan n f true true (fast f)
    (tyOp f.type false (fun a b c => (a.mul b).add c) (fun a b c => a * b + c)))

def execVfnma (n : Nat) (f : FmtV) (s : State) : Host.Outcome State Fault Refusal :=
  s.vec n 0x44 f (mapPlan n f true true (fast f)
    (tyOp f.type false (fun a b c => c.sub (a.mul b)) (fun a b c => c - a * b)))

def execVmax (n : Nat) (f : FmtV) (s : State) : Host.Outcome State Fault Refusal :=
  s.vec n 0x45 f (mapPlan n f true false (fast f) (tyOp f.type false (fun a b _ => a.max b) (fun a b _ => max a b)))

def execVmin (n : Nat) (f : FmtV) (s : State) : Host.Outcome State Fault Refusal :=
  s.vec n 0x46 f (mapPlan n f true false (fast f) (tyOp f.type false (fun a b _ => a.min b) (fun a b _ => min a b)))

/-- Magnitude: of FP, the code without its sign; of INT, wrapping (R208, R210). -/
def vabsCode (ty a : Nat) : Nat :=
  let w := tyBits ty
  if (tyFp ty).isSome then a % 2 ^ (w - 1) else codeOf w (signedBits w a).natAbs

def execVabs (n : Nat) (f : FmtV) (s : State) : Host.Outcome State Fault Refusal :=
  s.vec n 0x47 f (mapPlan n f false false (fast f) (fun a _ _ => vabsCode f.type a))

/-- Negation: of FP, the code with its sign turned; of INT, wrapping (R208, R210). -/
def vnegCode (ty a : Nat) : Nat :=
  let w := tyBits ty
  if (tyFp ty).isSome then a ^^^ 2 ^ (w - 1) else codeOf w (-(signedBits w a))

def execVneg (n : Nat) (f : FmtV) (s : State) : Host.Outcome State Fault Refusal :=
  s.vec n 0x48 f (mapPlan n f false false (fast f) (fun a _ _ => vnegCode f.type a))

def execVand (n : Nat) (f : FmtV) (s : State) : Host.Outcome State Fault Refusal :=
  s.vec n 0x49 f (mapPlan n f true false (fast f) (fun a b _ => tyBitsOp f.type (· &&& ·) a b))

def execVor (n : Nat) (f : FmtV) (s : State) : Host.Outcome State Fault Refusal :=
  s.vec n 0x4A f (mapPlan n f true false (fast f) (fun a b _ => tyBitsOp f.type (· ||| ·) a b))

def execVxor (n : Nat) (f : FmtV) (s : State) : Host.Outcome State Fault Refusal :=
  s.vec n 0x4B f (mapPlan n f true false (fast f) (fun a b _ => tyBitsOp f.type (· ^^^ ·) a b))

def execVshl (n : Nat) (f : FmtV) (s : State) : Host.Outcome State Fault Refusal :=
  s.vec n 0x4C f (mapPlan n f false false (fast f) (fun a _ _ => tyBitsOp f.type (fun x k => x * 2 ^ k) a (f.aux % 32)))

def execVshr (n : Nat) (f : FmtV) (s : State) : Host.Outcome State Fault Refusal :=
  s.vec n 0x4D f (mapPlan n f false false (fast f)
    (fun a _ _ => codeOf (tyBits f.type) (signedBits (tyBits f.type) a / 2 ^ (f.aux % 32))))

def execVdiv (n : Nat) (f : FmtV) (s : State) : Host.Outcome State Fault Refusal :=
  s.vec n 0x50 f (mapPlan n f true false slow (tyOp f.type false (fun a b _ => a.div b) (fun a _ _ => a)))

def execVsqrt (n : Nat) (f : FmtV) (s : State) : Host.Outcome State Fault Refusal :=
  s.vec n 0x51 f (mapPlan n f false false slow (tyOp f.type false (fun a _ _ => a.sqrt) (fun a _ _ => a)))

/-- A function evaluated in FP32 and rounded to TYPE (R208). -/
def viaF32 (ty : Nat) (g : Nat → Nat) (a : Nat) : Nat := tyCode ty (f32 (g (toF32 (tyNum ty a))))

def execVrsqrt (n : Nat) (f : FmtV) (s : State) : Host.Outcome State Fault Refusal :=
  s.vec n 0x52 f (mapPlan n f false false slow (fun a _ _ => viaF32 f.type rsqrtF32 a))

def execVrecip (n : Nat) (f : FmtV) (s : State) : Host.Outcome State Fault Refusal :=
  s.vec n 0x53 f (mapPlan n f false false slow (fun a _ _ => viaF32 f.type recipF32 a))

/-- e^x under the bounds of FUNC 7 (R144). -/
def expF32 (x : Nat) : Nat := expWithin (Config.vecApprox 0x54 (BitVec.ofNat 32 x)).toNat x

def execVexp (n : Nat) (f : FmtV) (s : State) : Host.Outcome State Fault Refusal :=
  s.vec n 0x54 f (mapPlan n f false false slow (fun a _ _ => viaF32 f.type expF32 a))

def execVlog (n : Nat) (f : FmtV) (s : State) : Host.Outcome State Fault Refusal :=
  s.vec n 0x55 f (mapPlan n f false false slow (fun a _ _ => viaF32 f.type logF32 a))

/-! ## Comparison, selection, conversion and draws -/

/-- VCMP writes bit `i` of the mask at DST; disabled lanes keep theirs (R208, R211). -/
def vcmpPlan (n : Nat) (f : FmtV) (_j : Job) (c : Core) : VecPlan :=
  let a := scratchOp c f.src1 (tyBytes f.type)
  let d : Opnd := { dstOp f c 1 with at' := fun i => i / 8 }
  { ops := [a] ++ (src2Op f c).toList ++ [d], beats := fast f
    run := fun lanes _ j c =>
      let code := fun (m : NMap Byte) (i : Nat) =>
        let x := tyNum f.type (a.code m i)
        let y := tyNum f.type (src2Code n f j c m i)
        let b := (d.code m i)
        let on := vcmpHolds f.aux (x.cmp y)
        if on then b ||| 2 ^ (i % 8) else b &&& (255 - 2 ^ (i % 8))
      { job := j, core := { c with scratch := walk d code lanes c.scratch } } }

def execVcmp (n : Nat) (f : FmtV) (s : State) : Host.Outcome State Fault Refusal := s.vec n 0x58 f (vcmpPlan n f)

/-- VSEL: the mask chooses between the operands, and every lane is written (R208). -/
def vselPlan (n : Nat) (f : FmtV) (_j : Job) (c : Core) : VecPlan :=
  let z := tyBytes f.type
  let a := scratchOp c f.src1 z
  let m : Opnd := { scratchOp c f.mreg 1 with at' := fun i => i / 8 }
  let d := dstOp f c z
  let base := (c.reg f.mreg).toNat
  { ops := [a] ++ (src2Op f c).toList ++ [m, d], masked := false, beats := fast f
    run := fun lanes _ j c =>
      let code := fun (x : NMap Byte) (i : Nat) =>
        if maskBit c.scratch base i then a.code x i else src2Code n f j c x i
      { job := j, core := { c with scratch := walk d code lanes c.scratch } } }

def execVsel (n : Nat) (f : FmtV) (s : State) : Host.Outcome State Fault Refusal := s.vec n 0x59 f (vselPlan n f)

/-- VCVT: from the TYPE of AUX bits 3:0; AUX bit 4 rounds FP32 to BF16 or FP16 stochastically with the halfwords of SRC3
(R208). -/
def vcvtPlan (f : FmtV) (_j : Job) (c : Core) : VecPlan :=
  let src := f.aux % 16
  let a := scratchOp c f.src1 (tyBytes src)
  let h := scratchOp c f.src3 2
  let d := dstOp f c (tyBytes f.type)
  let stoch := f.aux.testBit 4 && src == 0 && (f.type == 1 || f.type == 2)
  { ops := [a] ++ (if stoch then [h] else []) ++ [d], beats := fast f
    run := fun lanes _ j c =>
      let code := fun (m : NMap Byte) (i : Nat) =>
        let x := tyNum src (a.code m i)
        if stoch then stochCode (if f.type = 1 then bf16 else fp16) x (h.code m i) else tyCode f.type x
      { job := j, core := { c with scratch := walk d code lanes c.scratch } } }

def execVcvt (n : Nat) (f : FmtV) (s : State) : Host.Outcome State Fault Refusal := s.vec n 0x5A f (vcvtPlan f)

/-- Word `k` of a generator's output. -/
def quadWord (q : Quad) (k : Nat) : Nat :=
  match k with
  | 0 => q.1 | 1 => q.2.1 | 2 => q.2.2.1 | _ => q.2.2.2

/-- The streams of a core's batch whose key and counter a draw used have drawn (R128; log entry 106). -/
def JobRun.drew (r : JobRun) (c : Core) (key ctr : Nat) : JobRun :=
  match r.batchOf c with
  | none => r
  | some b =>
    { r with queue := r.queue.map (fun q => { q with rows := q.rows.map (fun (w : Row) =>
        if b.rows.contains (q.uid, w.ix) && w.st.rngKey == key && w.st.rngCtr == ctr then { w with drew := true } else w) }) }

/-- VRAND: Philox words under the key of SRC1's register and the counter block of SRC2's register, ⌊i ÷ 4⌋ and IMM
(R128, R208). -/
def vrandPlan (f : FmtV) (_j : Job) (c : Core) : VecPlan :=
  let d := dstOp f c 4
  let key := (c.reg f.src1).toNat
  let ctr := (c.reg f.src2).toNat
  { ops := [d], beats := fast f
    run := fun lanes _ j c =>
      let code := fun (_ : NMap Byte) (i : Nat) =>
        quadWord (philox key (ctr % 2 ^ 32, ctr / 2 ^ 32, i / 4, f.imm.toNat)) (i % 4)
      { job := if lanes.isEmpty then j else { j with run := j.run.drew c key ctr }
        core := { c with scratch := walk d code lanes c.scratch } } }

def execVrand (n : Nat) (f : FmtV) (s : State) : Host.Outcome State Fault Refusal := s.vec n 0x5B f (vrandPlan f)

/-! ## Reductions -/

/-- VSUM: FP32 for FP types, INT32 for INT types; its identity is 0 (R208, R212). -/
def vsumPlan (f : FmtV) (_j : Job) (c : Core) : VecPlan :=
  let a := scratchOp c f.src1 (tyBytes f.type)
  let p := foldPlan f 4 0 (fun _ => 0) c
  let d : Opnd := dstOp f c 4
  { p with run := fun lanes _ j c =>
      let v := if lanes.isEmpty then 0 else vsumOf f.type lanes (a.code c.scratch)
      { job := j, core := { c with scratch := memWrite c.scratch d.base (leBytes 4 v) } } }

def execVsum (n : Nat) (f : FmtV) (s : State) : Host.Outcome State Fault Refusal := s.vec n 0x60 f (vsumPlan f)

/-- VRMAX and VRMIN: their identity is IMM converted to TYPE (R208, R212). -/
def extremePlan (f : FmtV) (pick : Num → Num → Num) (_j : Job) (c : Core) : VecPlan :=
  foldPlan f (tyBytes f.type) (tyCode f.type (f32 f.imm.toNat)) (extreme f.type pick) c

def execVrmax (n : Nat) (f : FmtV) (s : State) : Host.Outcome State Fault Refusal :=
  s.vec n 0x61 f (extremePlan f Num.max)

def execVrmin (n : Nat) (f : FmtV) (s : State) : Host.Outcome State Fault Refusal :=
  s.vec n 0x62 f (extremePlan f Num.min)

/-! ## Moves -/

/-- VLD: scratchpad at DST from job memory at SRC1 (R208). -/
def vldPlan (f : FmtV) (_j : Job) (c : Core) : VecPlan :=
  let z := tyBytes f.type
  let a := { scratchOp c f.src1 z with job := true }
  let d := dstOp f c z
  { ops := [a, d], beats := fast f
    run := fun lanes _ j c =>
      { job := j, core := { c with scratch := walk d (fun _ i => leNat (j.readMem (a.addr i) z)) lanes c.scratch }
        accesses := a.accesses lanes (f.aux % 4) } }

def execVld (n : Nat) (f : FmtV) (s : State) : Host.Outcome State Fault Refusal := s.vec n 0x68 f (vldPlan f)

/-- VST: job memory at DST from scratchpad at SRC1 (R208, R222). -/
def vstPlan (f : FmtV) (_j : Job) (c : Core) : VecPlan :=
  let z := tyBytes f.type
  let a := scratchOp c f.src1 z
  let d := { dstOp f c z with job := true }
  { ops := [a, d], beats := fast f
    run := fun lanes _ j c =>
      { job := lanes.foldl (fun (j : Job) i => j.store (d.addr i) (memRead c.scratch (a.addr i) z)) j, core := c
        accesses := d.accesses lanes (f.aux % 4) } }

def execVst (n : Nat) (f : FmtV) (s : State) : Host.Outcome State Fault Refusal := s.vec n 0x69 f (vstPlan f)

def execVcopy (n : Nat) (f : FmtV) (s : State) : Host.Outcome State Fault Refusal :=
  s.vec n 0x6A f (mapPlan n f false false (fast f) (fun a _ _ => a))

/-! ## Transforms (R214) -/

/-- Side of a tile. -/
def fftSide (f : FmtV) : Nat := if f.aux.testBit 0 then 128 else 64

/-- FP32 values of a tile of `n × n` complex points, from a tile that is real or complex. -/
def fftInput (m : NMap Byte) (base side : Nat) (real : Bool) : List Nat :=
  (List.range (2 * side * side)).map (fun i =>
    if real then (if i % 2 = 0 then memWord m (base + i / 2 * 4) 4 else 0) else memWord m (base + i * 4) 4)

/-- Output point `k` of the transform of finite input, real and imaginary part, within 2^−190 of exact. -/
def fftPoint (side : Nat) (inverse : Bool) (xs : List Nat) (k : Nat) : Int × Int :=
  let k1 := k / side
  let k2 := k % side
  (List.range (side * side)).foldl (fun (z : Int × Int) p =>
    let t := (k1 * (p / side) + k2 * (p % side)) % side
    let a := (if inverse then t else side - t) % side * (2 ^ 24 / side)
    let (c, s) := (fxOf (cosNum (2 * a)), fxOf (sinNum (2 * a)))
    let (re, im) := (fxOf (f32 (xs.getD (2 * p) 0)), fxOf (f32 (xs.getD (2 * p + 1) 0)))
    (z.1 + fxMul re c - fxMul im s, z.2 + fxMul re s + fxMul im c)) (0, 0)

/-- The error that R214 allows each output: 2^−22 × (log2 N² + 1) × ‖x‖₂. -/
def fftTol (side : Nat) (xs : List Nat) : Num :=
  let sq := xs.foldl (fun (z : Num) x => z.add ((f32 x).mul (f32 x))) .zero
  (sq.sqrt.mul (.ofNat (2 * Nat.log2 side + 1))).mul (pow2 (-22))

/-- Output value `i` of a tile: free within R214's bound (log entry 11). -/
def fftValue (side : Nat) (inverse : Bool) (xs : List Nat) (i : Nat) : Nat :=
  let cand := (Config.fft side inverse (xs.map (BitVec.ofNat 32)) i).toNat
  if xs.any (fun x => (f32 x).nonfinite) then cand
  else
    let z := fftPoint side inverse xs (i / 2)
    let v := fxNum (if i % 2 = 0 then z.1 else z.2)
    within cand (if inverse then v.mul (pow2 (-(2 * Nat.log2 side : Nat))) else v) (fftTol side xs)

/-- VFFT: each tile is read whole and then written whole, in order (R214). -/
def vfftPlan (f : FmtV) (_j : Job) (c : Core) : VecPlan :=
  let side := fftSide f
  let real := f.aux.testBit 2
  let tiles := f.count + 1
  let inVals := if real then side * side else 2 * side * side
  let outVals := 2 * side * side
  let a : Opnd := { scratchOp c f.src1 4 with here := fun _ => false, always := fun i => decide (i < tiles * inVals) }
  let d : Opnd := { dstOp f c 4 with here := fun _ => false, always := fun i => decide (i < tiles * outVals) }
  { ops := [a, d], slots := tiles * outVals, masked := false
    beats := fun t => t * (if f.aux.testBit 0 then 2048 else 384)
    run := fun lanes _ j c =>
      let one := fun (m : NMap Byte) (t : Nat) =>
        let xs := fftInput m (a.base + t * inVals * 4) side real
        memWrite m (d.base + t * outVals * 4)
          ((List.range outVals).flatMap (fun i => leBytes 4 (fftValue side (f.aux.testBit 1) xs i)))
      { job := j, core := { c with scratch := lanes.foldl one c.scratch } } }

/-- VFFT counts its tiles (R237). -/
def execVfft (n : Nat) (f : FmtV) (s : State) : Host.Outcome State Fault Refusal :=
  s.vec n 0x80 f (fun j c =>
    let p := vfftPlan f j c
    { p with run := fun lanes count j c =>
        let d := p.run lanes count j c
        { d with job := { d.job with run := d.job.run.countCore n 0x110 count } } })

/-! ## Selection (R215) -/

/-- The best lane of a list under descending value, ties to the lower index; NaN is never selected. -/
def topLane (num : Nat → Num) (lanes : List Nat) : Option Nat :=
  lanes.foldl (fun best i =>
    match num i with
    | .nan _ => best
    | x => match best with
      | none => some i
      | some b => if (num b).cmp x == some .lt then some i else best) none

/-- The first `k` lanes selected. -/
def topLanes (num : Nat → Num) (k : Nat) (lanes : List Nat) : List Nat :=
  match k with
  | 0 => []
  | m + 1 =>
    match topLane num lanes with
    | none => []
    | some i => i :: topLanes num m (lanes.filter (· != i))

/-- VTOPK: values at DST and INT32 indices at SRC2; what is left takes IMM and −1 (R215). -/
def vtopkPlan (f : FmtV) (_j : Job) (c : Core) : VecPlan :=
  let z := tyBytes f.type
  let k := f.aux + 1
  let a := scratchOp c f.src1 z
  let out : Nat → Bool := fun i => decide (i < k)
  let d : Opnd := { dstOp f c z with here := fun _ => false, always := out }
  let x : Opnd := { scratchOp c f.src2 4 with write := true, here := fun _ => false, always := out }
  { ops := [a, d, x], slots := k, beats := fun n => cdiv n 256 + k + 16
    run := fun lanes _ j c =>
      let picks := topLanes (fun i => tyNum f.type (a.code c.scratch i)) k lanes
      let vals := picks.map (a.code c.scratch) ++ List.replicate (k - picks.length) (tyCode f.type (f32 f.imm.toNat))
      let idxs := picks ++ List.replicate (k - picks.length) (2 ^ 32 - 1)
      let m := memWrite c.scratch d.base (vals.flatMap (leBytes z))
      { job := j, core := { c with scratch := memWrite m x.base (idxs.flatMap (leBytes 4)) } } }

/-- VTOPK. A run-time count of 0 writes nothing (R212), so no slot of its destinations is addressed then. -/
def execVtopk (n : Nat) (f : FmtV) (s : State) : Host.Outcome State Fault Refusal :=
  s.vec n 0x81 f (fun j c =>
    let p := vtopkPlan f j c
    if runCount c f.creg (f.count + 1) == some 0 then { p with ops := [], slots := 0 } else p)

end Sys2Proof.Machine
end

