-- ==== Sys2Proof/Machine/Browse.lean ====
section
/-! DEFINITION. The browse unit (R217 to R221, R230): rows gathered, scattered and added at the addresses of an index
list, and the misses it holds slots for. -/

namespace Sys2Proof.Machine

/-- Fields of a browse instruction that name what there is (R219). -/
def fmtBOk (f : FmtB) : Bool :=
  decide (f.hint < 4) && decide (f.creg < 32) && decide (f.mreg < 32) && decide (f.rows < 32) && decide (f.base < 32) &&
  decide (f.idx < 32) && decide (f.data < 32) && decide (f.count < 16384) && decide (f.type < 6)

/-- What a browse instruction names once its registers are read: its operation, lists and mask. -/
structure BrowseCmd where
  op    : Nat
  f     : FmtB
  idx   : Nat
  data  : Nat
  base  : Nat
  rows  : Nat
  mask  : Mask
  count : Nat

/-- Read the registers of a browse instruction. -/
def browseCmd (op : Nat) (f : FmtB) (c : Core) (count : Nat) : BrowseCmd :=
  { op, f, count, idx := (c.reg f.idx).toNat, data := (c.reg f.data).toNat, base := (c.reg f.base).toNat
    rows := (c.reg f.rows).toNat, mask := { on := f.masked, base := (c.reg f.mreg).toNat, inv := f.minv } }

/-- Bytes of an index. -/
def BrowseCmd.idxSize (b : BrowseCmd) : Nat := if b.f.idx64 then 8 else 4

/-- The index at a position, signed. -/
def BrowseCmd.index (b : BrowseCmd) (m : NMap Byte) (p : Nat) : Int :=
  signedBits (8 * b.idxSize) (memWord m (b.idx + p * b.idxSize) b.idxSize)

/-- The job-memory address of the row that a position names (R219). -/
def BrowseCmd.rowAddr (b : BrowseCmd) (m : NMap Byte) (p : Nat) : Nat :=
  (((b.base : Int) + b.index m p * (b.f.stride * 4)) % 2 ^ 64).toNat

/-- The scratchpad address of a position's packed row. -/
def BrowseCmd.packed (b : BrowseCmd) (p : Nat) : Nat := b.data + p * b.f.rowbytes

/-- Enabled positions in ascending order. -/
def BrowseCmd.lanes (b : BrowseCmd) (m : NMap Byte) : List Nat := b.mask.lanes m b.count

/-- The address at which a position faults: its sources, the index list first and then the rows read, then the mask, whose bit is
read for every position, then its destination (R219, R230). A position whose mask bit lies beyond the scratchpad counts as
enabled. What is recorded is where the index, the row or the packed row begins, for a row outside [0, ROWS) too (log entry 50). -/
def BrowseCmd.fault (b : BrowseCmd) (n : Nat) (j : Job) (c : Core) (p : Nat) : Option Nat :=
  let z := tyBytes b.f.type
  let row := b.rowAddr c.scratch p
  let ixAt := b.idx + p * b.idxSize
  let pack := b.packed p
  let blind := b.mask.on && !inScratch (b.mask.base + p / 8) 1
  let badIx := ixAt % b.idxSize != 0 || !inScratch ixAt b.idxSize
  let badRow := decide (b.index c.scratch p < 0) || decide ((b.rows : Int) ≤ b.index c.scratch p) || row % z != 0 ||
    !(if b.op = 0x90 then j.readable row b.f.rowbytes else j.mapped row b.f.rowbytes)
  let badPack := pack % z != 0 || !inScratch pack b.f.rowbytes || (b.op == 0x90 && (j.image.sec n).inProgram pack b.f.rowbytes)
  if !(blind || b.mask.enabled c.scratch p) then none
  else if badIx then some ixAt
  else if b.op = 0x90 && badRow then some row
  else if b.op ≠ 0x90 && badPack then some pack
  else if b.op = 0x92 && badRow then some row
  else if blind then some (b.mask.base + p / 8)
  else if b.op = 0x90 && badPack then some pack
  else if b.op = 0x91 && badRow then some row
  else none

/-- The lowest faulting position with its address. -/
def BrowseCmd.firstFault (b : BrowseCmd) (n : Nat) (j : Job) (c : Core) : Option (Nat × Nat) :=
  let p := (List.range b.count).find? (fun p => (b.fault n j c p).isSome)
  p.bind (fun p => (b.fault n j c p).map (fun a => (p, a)))

/-! ## The three operations (R219) -/

/-- BGATHER fills one packed row. -/
def BrowseCmd.gather (b : BrowseCmd) (idx : NMap Byte) (j : Job) (m : NMap Byte) (p : Nat) : NMap Byte :=
  memWrite m (b.packed p) (j.readMem (b.rowAddr idx p) b.f.rowbytes)

/-- BSCATTER writes one packed row. -/
def BrowseCmd.scatter (b : BrowseCmd) (m : NMap Byte) (j : Job) (p : Nat) : Job :=
  j.store (b.rowAddr m p) (memRead m (b.packed p) b.f.rowbytes)

/-- Element-by-element sums of two rows in TYPE, one rounding each (R210). -/
def addRows (ty n : Nat) (xs ys : List Byte) : List Byte :=
  match n with
  | 0 => []
  | k + 1 =>
    let z := tyBytes ty
    leBytes z (tyOp ty false (fun a b _ => a.add b) (fun a b _ => a + b) (leNat (xs.take z)) (leNat (ys.take z)) 0) ++
      addRows ty k (xs.drop z) (ys.drop z)

/-- BSCATADD adds one packed row to its row in job memory. -/
def BrowseCmd.scatadd (b : BrowseCmd) (m : NMap Byte) (j : Job) (p : Nat) : Job :=
  let a := b.rowAddr m p
  j.store a (addRows b.f.type (b.f.rowbytes / tyBytes b.f.type) (memRead j.run.mem a b.f.rowbytes)
    (memRead m (b.packed p) b.f.rowbytes))

/-! ## Granule requests and misses (R217, R218) -/

/-- Granule requests in the order of positions: position and granule address. -/
def BrowseCmd.reqs (b : BrowseCmd) (m : NMap Byte) : List (Nat × Nat) :=
  (b.lanes m).flatMap (fun p => (granulesOf (b.rowAddr m p) b.f.rowbytes).map (fun g => (p, g)))

/-- Hardware thread of a position (log entry 30). -/
def browseThread (p : Nat) : Nat := p % 32

/-- Pseudo-channel of a data address, 32 to a stack (R218, R273). -/
def pseudoChan (t : Tiers) (d : Nat) : Nat :=
  let pl := peatPlace t.salt d
  pl.stack * 32 + pl.chan

/-- Whether a request is served in line by the cluster's SRAM: a write that allocates is. -/
def BrowseCmd.inLine (b : BrowseCmd) (t : Tier) (g : Nat) : Bool :=
  t.serves (g / 4096) (granuleMask g 256) b.f.hint (b.op == 0x91)

/-- A granule request not yet issued: its number, thread, pseudo-channel and data address, and whether the peat tier must serve
it. -/
structure Req where
  miss   : Miss
  away   : Bool

/-- The unit as it issues: slots held, requests served, the thread that
issued last, and what it has counted: requests issued, those sent to the peat tier, and thread-beats passed over at the cap. -/
structure Filling where
  misses : List Miss
  served : List Nat := []
  last   : Nat := 31
  issued : Nat := 0
  sent   : Nat := 0
  passed : Nat := 0

/-- The thread's next request is at the cap of its pseudo-channel (R218). -/
def Filling.capped (x : Filling) (r : Req) : Bool :=
  r.away && decide (8 ≤ (x.misses.filter (fun m => m.chan == r.miss.chan)).length)

/-- The thread's next request may issue: the thread is ready, with fewer than 2 misses of its own, and the request is served in line,
or has a slot free and fewer than 8 misses on its pseudo-channel (R217, R218). -/
def Filling.canIssue (x : Filling) (r : Req) : Bool :=
  decide ((x.misses.filter (fun m => m.thread == r.miss.thread)).length < 2) &&
    (!r.away || (!x.capped r && decide (x.misses.length < 64)))

/-- One beat: the next requests of the threads in round-robin order, beginning after the last that issued (R217). -/
def Filling.heads (x : Filling) (rs : List Req) : List Req :=
  (List.range 32).filterMap (fun i => rs.find? (fun r => r.miss.thread == (x.last + 1 + i) % 32))

/-- Issue one request a beat while any thread may; what is left has no thread that can issue (R217). -/
def Filling.fill (fuel : Nat) (rs : List Req) (x : Filling) : Filling × List Req :=
  match fuel with
  | 0 => (x, rs)
  | k + 1 =>
    let hs := x.heads rs
    match hs.find? x.canIssue with
    | none => (x, rs)
    | some r =>
      let skipped := ((hs.takeWhile (fun h => !x.canIssue h)).filter x.capped).length
      let x := { x with last := r.miss.thread, issued := x.issued + 1, passed := x.passed + skipped }
      let x := if r.away then { x with misses := x.misses ++ [r.miss], sent := x.sent + 1 }
        else { x with served := x.served ++ [r.miss.no] }
      Filling.fill k (rs.filter (fun q => q.miss.no != r.miss.no)) x

/-- Requests that have neither been served nor hold a slot. -/
def BrowseCmd.waiting (b : BrowseCmd) (s : State) (k n : Nat) (c : Core) : List Req :=
  let t := s.tiers.tier (n / 16)
  let rs := b.reqs c.scratch
  ((List.range rs.length).zip rs).filterMap (fun (x : Nat × Nat × Nat) =>
    let d := (s.job k).dataAddr x.2.2
    if c.arrived.contains x.1 || c.misses.any (fun m => m.no == x.1) then none
    else some { miss := { no := x.1, thread := browseThread x.2.1, chan := pseudoChan s.tiers d, data := d }
                away := !b.inLine t x.2.2 })

/-- The unit issues all that it can now. -/
def BrowseCmd.issue (b : BrowseCmd) (s : State) (k n : Nat) (c : Core) : Filling × List Req :=
  let rs := b.waiting s k n c
  Filling.fill rs.length rs { misses := c.misses, last := c.lastThread }

/-- What issuing leaves in the core. -/
def Core.issued (c : Core) (x : Filling) : Core :=
  { c with misses := x.misses, arrived := c.arrived ++ x.served, lastThread := x.last }

/-- Count what the unit issued (R237). With work left and no thread that can issue it idles until a slot drains: how many beats the
spec does not state, so `idle` is free (R221, R235; log entry 7), and in each of them every thread at the cap is passed over. -/
def JobRun.countIssue (r : JobRun) (n idle : Nat) (x : Filling) (left : List Req) : JobRun :=
  let stall := if left.isEmpty then 0 else idle
  let skipped := x.passed + stall * ((x.heads left).filter x.capped).length
  (((r.countCore n 0x128 x.issued).countCore n 0x130 x.sent).countCore n 0x138 skipped).countCore n 0x140 stall

/-! ## The instructions -/

/-- The accesses of an operation to job memory, one for each row (R270, R280). -/
def BrowseCmd.accesses (b : BrowseCmd) (m : NMap Byte) (lanes : List Nat) : List Access :=
  lanes.flatMap (fun p =>
    let x : Access := { addr := b.rowAddr m p, len := b.f.rowbytes, hint := b.f.hint, part := 3 }
    if b.op = 0x90 then [x] else if b.op = 0x91 then [{ x with write := true }] else [x, { x with write := true }])

/-- What the operation does over its positions; BSCATADD starts after what is acknowledged (R220). -/
def BrowseCmd.run (b : BrowseCmd) (n : Nat) (j : Job) (c : Core) : Done :=
  let lanes := (b.lanes c.scratch).filter (fun p => decide ((c.scatDone.getD 0) ≤ p))
  let j := { j with run := j.run.countCore n 0x108 (b.count - (b.lanes c.scratch).length) }
  let xs := b.accesses c.scratch lanes
  if b.op = 0x90 then
    { job := j, core := { c with scratch := lanes.foldl (b.gather c.scratch j) c.scratch }, accesses := xs }
  else if b.op = 0x91 then { job := lanes.foldl (b.scatter c.scratch) j, core := c, accesses := xs }
  else { job := lanes.foldl (b.scatadd c.scratch) j, core := c, accesses := xs }

/-- A browse instruction: count, faults, misses, then its operation. `pre` is the free length of the prefix that a faulting
BSCATADD leaves acknowledged (R220, R230), `idle` the free beats of a stall (R221). -/
def effectBrowse (s : State) (k n op pre idle : Nat) (f : FmtB) (j : Job) (c : Core) : Effect :=
  match runCount c f.creg (f.count + 1) with
  | none => .stop .shape
  | some count =>
    let b := browseCmd op f c count
    match b.firstFault n j c with
    | some (p, a) =>
      if op = 0x92 then
        let upTo := max (c.scatDone.getD 0) (pre % (p + 1))
        let lanes := (b.lanes c.scratch).filter (fun q => decide (c.scatDone.getD 0 ≤ q) && decide (q < upTo))
        let j' := lanes.foldl (b.scatadd c.scratch) j
        .halt (.lane p a) { j' with run := j'.run.setCore n { c with scatDone := some upTo } }
      else .stop (.lane p a)
    | none =>
      if count = 0 then .done { job := j, core := c, status := 1 }
      else
        let (x, left) := b.issue s k n c
        let r := j.run.countIssue n idle x left
        if x.misses.isEmpty then .done (b.run n { j with run := r } (c.issued x))
        else .wait .browse { j with run := r.setCore n (c.issued x) }

/-- A browse instruction of core `n`. -/
def State.browse (s : State) (n op : Nat) (f : FmtB) : Host.Outcome State Fault Refusal :=
  checked s (coreOk n && fmtBOk f) (
    let (pre, t) := s.fresh
    let (idle, t) := t.fresh
    t.retire n (wordB op f) (effectBrowse t (t.sched.running.getD 0) n op pre idle f))

def execBgather (n : Nat) (f : FmtB) (s : State) : Host.Outcome State Fault Refusal := s.browse n 0x90 f

def execBscatter (n : Nat) (f : FmtB) (s : State) : Host.Outcome State Fault Refusal := s.browse n 0x91 f

def execBscatadd (n : Nat) (f : FmtB) (s : State) : Host.Outcome State Fault Refusal := s.browse n 0x92 f

/-- A miss returns or is acknowledged: its slot is free and the unit issues on (R217, R221, R237). With every request served the
instruction completes when its command retires it. -/
def State.missReturn (s : State) (k n miss : Nat) : State :=
  let j := s.job k
  let c := j.run.core n
  let w := (j.image.sec n).wordAt c.insn
  match c.misses[miss]? with
  | none => s
  | some m =>
    if !s.mayAnswer k (.miss n m.no) 3 then s else
    let c := { c with misses := c.misses.eraseIdx miss, arrived := c.arrived ++ [m.no] }
    let f := fieldsB w
    let b := browseCmd (w % 256) f c ((runCount c f.creg (f.count + 1)).getD 0)
    let (x, left) := b.issue s k n c
    let c := { c.issued x with wait := if x.misses.isEmpty then .run else .browse }
    let (idle, s) := s.fresh
    (s.setJob k { j with run := (j.run.setCore n c).countIssue n idle x left }).askMisses k n

def execBrowseMissReturn (n miss : Nat) (s : State) : Host.Outcome State Fault Refusal :=
  checked s (coreOk n) (
    match s.sched.running with
    | none => s
    | some k => if ((s.job k).run.core n).wait == .browse then s.missReturn k n miss else s)

end Sys2Proof.Machine
end

