-- ==== Sys2Proof/Machine/Channels.lean ====
section
/-! DEFINITION. The channel instructions and the two channel events (R21, R203, R254). -/

namespace Sys2Proof.Machine

/-- Fields of a channel instruction that name a register and a channel. -/
def fmtCOk (f : FmtC) : Bool := decide (f.reg < 32) && decide (f.chan < 65536)

/-- A channel of the job. -/
def JobRun.chan (r : JobRun) (ch : Nat) : Chan := NMap.getD r.chans ch {}

/-- Replace a channel. -/
def JobRun.setChan (r : JobRun) (ch : Nat) (x : Chan) : JobRun := { r with chans := NMap.put r.chans ch x }

/-- A channel's table entry. -/
def Image.chanE (i : Image) (ch : Nat) : ChanE := i.chans.getD ch {}

/-- Slots that a transfer of `n` bytes spends (R203). -/
def ChanE.slotsOf (e : ChanE) (n : Nat) : Nat := max 1 (cdiv n e.slotBytes)

/-- SEND: it waits for its credits, then its bytes leave in the next slots (R21, R203). -/
def effectSend (f : FmtC) (j : Job) (c : Core) : Effect :=
  let n := f.imm.toNat
  let a := (c.reg f.reg).toNat
  let e := j.image.chanE f.chan
  let x := j.run.chan f.chan
  let k := e.slotsOf n
  if !inScratch a n then .stop (.lane 0 a)
  else if x.credits < k then .wait (.send f.chan) j
  else
    let t : Transfer := { slot := x.nextSlot, slots := k, data := memRead c.scratch a n, arrived := false, recved := false }
    let x := { x with credits := x.credits - k, transfers := x.transfers ++ [t], nextSlot := (x.nextSlot + k) % e.depth }
    .done { job := { j with run := j.run.setChan f.chan x }, core := c }

def execSend (n : Nat) (f : FmtC) (s : State) : Host.Outcome State Fault Refusal :=
  checked s (coreOk n && fmtCOk f) (s.retire n (wordC 0x10 f) (effectSend f))

/-- RECV returns the oldest arrived transfer that it has not returned: none where there is none yet. -/
def recvOne (j : Job) (c : Core) (n ch reg : Nat) : Option (Job × Core) :=
  let x := j.run.chan ch
  let e := j.image.chanE ch
  let i := x.transfers.findIdx (fun t => !t.recved)
  match x.transfers[i]? with
  | some t =>
    if t.arrived then
      let base := (((j.image.sec n).chanRegion ch).map (·.off)).getD 0
      let x := { x with transfers := x.transfers.set i { t with recved := true } }
      some ({ j with run := j.run.setChan ch x }, c.setReg reg (BitVec.ofNat 64 (base + t.slot * e.slotBytes)))
    else none
  | none => none

/-- RECV (R203). -/
def effectRecv (n : Nat) (f : FmtC) (j : Job) (c : Core) : Effect :=
  match recvOne j c n f.chan f.reg with
  | some (j, c) => .done { job := j, core := c }
  | none => .wait (.recv f.chan f.reg) j

def execRecv (n : Nat) (f : FmtC) (s : State) : Host.Outcome State Fault Refusal :=
  checked s (coreOk n && fmtCOk f) (s.retire n (wordC 0x11 f) (effectRecv n f))

/-- FREE: with nothing to release it is a program error of lane 0 that names the channel (R203, R230). -/
def effectFree (f : FmtC) (j : Job) (c : Core) : Effect :=
  let x := j.run.chan f.chan
  match x.transfers with
  | [] => .stop (.lane 0 f.chan)
  | t :: rest =>
    if t.recved then
      let x := { x with transfers := rest, returning := x.returning ++ [t.slots] }
      .done { job := { j with run := j.run.setChan f.chan x }, core := c }
    else .stop (.lane 0 f.chan)

def execFree (n : Nat) (f : FmtC) (s : State) : Host.Outcome State Fault Refusal :=
  checked s (coreOk n && fmtCOk f) (s.retire n (wordC 0x12 f) (effectFree f))

/-- A wait on a HALO channel that ends is counted: its beats are not stated (R254, R258; log entry 7). -/
def State.countHalo (s : State) (k n ch off : Nat) : State :=
  let j := s.job k
  if (j.image.chanE ch).flags % 2 = 1 then
    let (b, s) := s.fresh
    s.setJob k { j with run := j.run.countCore n off b }
  else s

/-- An acknowledge brings credits back to the sender, which may end its stall (R21). -/
def State.creditReturn (s : State) (k ch : Nat) : State :=
  let j := s.job k
  let x := j.run.chan ch
  match x.returning with
  | [] => s
  | n :: rest =>
    let s := s.setJob k { j with run := j.run.setChan ch { x with credits := x.credits + n, returning := rest } }
    let p := (j.image.chanE ch).producer
    let c := j.run.core p
    if c.wait == .send ch then (s.setCore k p { c with wait := .run }).countHalo k p ch 0x1A0 else s

def execCreditReturn (chan : Nat) (s : State) : Host.Outcome State Fault Refusal :=
  checked s (decide (chan < 65536)) (
    match s.sched.running with
    | some k => s.creditReturn k chan
    | none => s)

/-- A transfer arrives wholly; a RECV that waits for it returns it (R203, R254). -/
def State.transferArrive (s : State) (k ch : Nat) : State :=
  let j := ((s.job k).arriveOne ch).settleRoutes s.health
  let n := (j.image.chanE ch).consumer
  let c := j.run.core n
  match c.wait with
  | .recv ch' reg =>
    if ch' = ch && (s.working n).isSome then
      match recvOne j c n ch reg with
      | some (j, c) =>
        (s.setJob k { j with run := j.run.setCore n { c with wait := .run, insn := c.insn + 1 } }).countHalo k n ch 0x198
      | none => s.setJob k j
    else s.setJob k j
  | _ => s.setJob k j

def execTransferArrive (chan : Nat) (s : State) : Host.Outcome State Fault Refusal :=
  checked s (decide (chan < 65536)) (
    match s.sched.running with
    | some k => s.transferArrive k chan
    | none => s)

end Sys2Proof.Machine
end

