-- ==== Sys2Proof/Machine/Streams.lean ====
section
/-! DEFINITION. Stream commands at dispatch, moves, batches, publication and copies (R33, R103 to R139, R421). -/

namespace Sys2Proof.Machine

/-! ## Dispatch (R117) -/

/-- The running job if it is the one a command names. -/
def State.jobOf (s : State) (c : Cmd) : Option Nat :=
  match s.runningJob with
  | some k => if (s.job k).info.id == c.desc.job then some k else none
  | none => none

/-- The queue's entry of a command that waits to be dispatched; a command not yet in the queue enters it first. -/
def Job.waitingFor (j : Job) (c : Cmd) : Job × Option QCmd :=
  match j.run.queue.find? (fun q => q.cmd == c && q.phase == 0) with
  | some q => (j, some q)
  | none => let j := j.enqueue c; (j, j.run.queue.getLast?)

/-- The plaintext of consecutive sealed data records, as their writer numbered them (R427, R428); a record that fails its check gives
none. -/
def openBuffer (key addr fuel : Nat) (bs : List Byte) : Option (List Byte) :=
  match fuel with
  | 0 => some []
  | k + 1 =>
    if bs = [] then some []
    else
      let head := bs.take 32
      let n := headWord bs 16 4
      let no := headWord bs 8 8
      let good := bs.take 4 == [0x53, 0x52, 0x45, 0x43] && headWord bs 4 2 == 1 && headWord bs 6 2 == 4 &&
        decide (1 ≤ n) && decide (n ≤ 4096)
      match good, Config.gcmOpen key no (head ++ leBytes 8 addr) ((bs.drop 64).take (roundUp n 64) ++ (bs.drop 32).take 16) with
      | true, some p =>
        match openBuffer key (addr + 4160) k (bs.drop 4160) with
        | some rest => some (p.take n ++ rest)
        | none => none
      | _, _ => none

/-- Read a host buffer of a job at a port: sealed records for a confidential job (R427, R428). -/
def State.readHost (s : State) (k : Nat) (p : Port) (addr n : Nat) : Option (List Byte) :=
  let h := s.port p
  if (s.job k).info.confidential then
    openBuffer h.session.keyH2d addr (cdiv n 4096) (memRead h.hostMem addr (hostSize true n))
  else some (memRead h.hostMem addr n)

/-- What an import has to check: read from job or host memory at dispatch, or asked of the peer (R134, R136). A host
record that fails to open is no record. SRC 3 is taken as a peer (log entry 118). -/
def State.startImport (s : State) (k : Nat) (q : QCmd) : State :=
  let d := q.cmd.desc
  let n := 4096 * fld d.w24 0 32
  let give := fun (bs : List Byte) =>
    s.setJob k { s.job k with run := (s.job k).run.setQ { q with phase := 1, data := if bs = [] then [0] else bs } }
  if fld d.w24 48 2 = 0 then (give (memRead (s.job k).run.mem d.w16.toNat n)).hubRead k 7 d.w16.toNat n
  else if fld d.w24 48 2 = 1 then give ((s.readHost k q.cmd.port d.w16.toNat n).getD [0])
  else
    let s := s.setJob k { s.job k with run := (s.job k).run.setQ { q with phase := 1 } }
    s.readPeer k (fld d.w24 32 16) d.w16.toNat 256 false q.uid

/-- Rows at the head of their streams that need a COLD or PEER stream's state start its move at once (R108). -/
def earlyMoves (j : Job) (q : QCmd) (r : JobRun) (ws : List Row) : JobRun :=
  match ws with
  | [] => r
  | w :: rest =>
    let e := r.stream w.stream
    let needs := e.kind != 0 && e.gen == w.gen && !w.isOpen && (e.loc == .cold || e.loc == .peer) &&
      (e.parked != 1 || w.unpark) && r.atHead { q with rows := [] } w.stream
    if needs then
      let (r1, ok) := startMove j r w.stream
      let w' := if ok then { w with phase := 1 } else w.done 0x0301
      let r2 := match r1.findQ q.uid with
        | some q' => r1.setQ (q'.setRow w')
        | none => r1
      earlyMoves j q r2 rest
    else earlyMoves j q r rest

/-- A stream command moves data to or from host memory: EXPORT_STATE and IMPORT_STATE that say so, and SWAP_OUT. -/
def usesHost (d : Desc) : Bool :=
  (d.opcode == 0x14 && fld d.w40 2 2 == 1) || (d.opcode == 0x15 && fld d.w24 48 2 == 1) || d.opcode == 0x16

/-- Dispatch a stream command of the running job: a condition of R117 refuses it whole; otherwise it waits for its batch
(R116, R117). A device-issued one is not dispatched before all ahead of it on its streams has been published (R34), nor an
IMPORT_STATE, which reads what an EXPORT_STATE ahead of it has written (R35), nor one from host memory behind an absent port (R426),
nor a confidential job's transfer to or from host memory at a port without a session (R427; log entry 125), nor one that names withheld
data (R492). -/
def State.dispatch (s : State) (c : Cmd) : State :=
  match s.jobOf c with
  | none => s
  | some k =>
    match (s.job k).waitingFor c with
    | (j, none) => s.setJob k j
    | (j, some q) =>
      if ((c.dev || c.desc.opcode == 0x15) && !j.run.clearBefore q.uid q.streams) ||
          (c.desc.opcode == 0x15 && fld c.desc.w24 48 2 == 1 && (s.port c.port).absentNow) ||
          (j.info.confidential && usesHost c.desc && !(s.port c.port).session.up) || j.readsWait (descReads c.desc) then s.setJob k j
      else
      match j.dispatchRefusal q with
      | some st => s.setJob k { j with run := j.run.refuseWhole q st }
      | none =>
        let q := { q with phase := 1, under := ((s.port c.port).session.epoch, (s.port c.port).session.keyD2h) }
        let r := j.run.setQ q
        let r := (earlyMoves j q r q.rows)
        let r := r.finishDone [q]
        let s' := (s.setJob k { j with run := r }).startFetches k j.run
        if c.desc.opcode == 0x15 then s'.startImport k q else s'

/-! ## Publications by command (R225, R226) -/

/-- An entry names only groups within the count of every cluster it selects (R226). -/
def Image.entryOk (i : Image) (bs : List Byte) : Bool :=
  (maskBits 32 (headWord bs 0 4)).all (fun c => decide (headWord bs 4 1 < i.groupCount c))

/-- Every entry of a list is within its bounds. -/
def Image.entriesOk (i : Image) (n : Nat) (bs : List Byte) : Bool :=
  match n with
  | 0 => true
  | k + 1 => i.entryOk bs && i.entriesOk k (bs.drop 48)

/-- PARAM_GROUP_WRITE (R226): a bad list refuses it whole, one of withheld data waits (R492); otherwise it publishes in queue order
(R225). -/
def State.paramGroupWrite (s : State) (c : Cmd) : State :=
  match s.jobOf c with
  | none => s
  | some k =>
    match (s.job k).waitingFor c with
    | (j, none) => s.setJob k j
    | (j, some q) =>
      let n := fld c.desc.w16 0 32
      if n = 0 then s.setJob k { j with run := j.run.refuse q 0x0001 }
      else if decide (8192 < n) || decide (q.data.length < 48 * n) then s.setJob k { j with run := j.run.refuse q 0x0203 }
      else if j.readsWait (descReads c.desc) then s.setJob k j
      else if !j.image.entriesOk n q.data then s.setJob k { j with run := j.run.refuse q 0x0203 }
      else
        let r := j.run.setQ { q with phase := 1 }
        s.setJob k { j with run := r.applyReady r.queue.length }

/-! ## Replay (R229, R355) -/

/-- The same command before and after a restore: of host commands by their order of intake, of device-issued ones by what
they say. -/
def sameCmd (a b : Cmd) : Bool :=
  a.dev == b.dev && (if a.dev then a.desc == b.desc && a.caddr == b.caddr else a.seq == b.seq)

/-- The commands of a batch: each row with its index, then the riders (R354). -/
def JobRun.parts (r : JobRun) (b : Batch) : List (Cmd × Option Nat) :=
  b.rows.filterMap (fun x => (r.findQ x.1).map (fun q => (q.cmd, some x.2))) ++
    b.riders.filterMap (fun u => (r.findQ u).map (fun q => (q.cmd, none)))

/-- The running job while its restored batches may form. -/
def State.replaying (s : State) : Option (Nat × Replay) :=
  match s.sched.running, s.health.replay with
  | some k, some x => if s.health.replace.isEmpty && !s.health.exhausted then some (k, x) else none
  | _, _ => none

/-- A descriptor taken since the commit point enters the queue again, and a PARAM_GROUP_WRITE is applied in its order; one of no stream command that has completed already
stays as it is, for its writes are recorded on their own (R354, R355, R421). -/
def State.retake (s : State) (k : Nat) (c : Cmd) : State :=
  let op := c.desc.opcode
  let j := s.job k
  let stream := decide (0x10 ≤ op) && decide (op ≤ 0x17)
  if decide (op < 0x10) then s
  else if stream then (s.setJob k (j.enqueue c)).dispatch c
  else if op == 0x18 then (s.setJob k (j.enqueue c)).paramGroupWrite c
  else if j.info.outstanding.contains c || decide (0x40 ≤ op) then s.setJob k (j.enqueue c)
  else s

/-- Re-apply the records that stand before the next recorded batch, in order (R355 steps 3 and 4). -/
def State.replayOn (s : State) (k : Nat) (recs : List JournalRec) : State :=
  let left := fun (s : State) (l : List JournalRec) =>
    { s with health := { s.health with replay := s.health.replay.map (fun (x : Replay) => { x with recs := l }) } }
  match recs with
  | [] =>
    let s' := { s with health := { s.health with replay := none } }
    match s.health.replay with
    | some x => s'.recovered x.kind 3 x.unit x.us x.seq
    | none => s'
  | .taken c :: rest => (s.retake k c).replayOn k rest
  | .hostWrite a d :: rest =>
    (s.setJob k { s.job k with run := { (s.job k).run with mem := memWrite (s.job k).run.mem a d } }).replayOn k rest
  | .raised sem v :: rest => (s.raiseSem k sem v).replayOn k rest
  | .published p m :: rest => (s.setJob k ((s.job k).enqueueGo p m 0)).replayOn k rest
  | .batch ps :: rest => left s (.batch ps :: rest)
  | _ :: rest => s.replayOn k rest

/-- Keep from the batcher what a recorded batch did not hold: phase 9 until it has formed. -/
def QCmd.hide (q : QCmd) (ps : List (Cmd × Option Nat)) : QCmd :=
  let rows := q.rows.map (fun (w : Row) =>
    if decide (w.phase < 2) && !ps.any (fun p => sameCmd p.1 q.cmd && p.2 == some w.ix) then { w with phase := 9 + w.phase } else w)
  let waits := q.rows.isEmpty && q.phase == 1 && !q.publishes && !ps.any (fun p => sameCmd p.1 q.cmd && p.2.isNone)
  { q with rows, phase := if waits then 10 else q.phase }

/-- Show the batcher everything again. -/
def QCmd.unhide (q : QCmd) : QCmd :=
  let rows := q.rows.map (fun (w : Row) => if 9 ≤ w.phase then { w with phase := w.phase - 9 } else w)
  { q with rows, phase := if 9 ≤ q.phase then q.phase - 9 else q.phase }

/-- Form a recorded batch again; it waits until all that it held can be placed (R355 step 3). -/
def State.reform (s : State) (k : Nat) (ps : List (Cmd × Option Nat)) (rest : List JournalRec) : State :=
  let j := s.job k
  let r := j.run.applyReady j.run.queue.length
  let hidden := { r with queue := r.queue.map (fun q => q.hide ps) }
  let (f, b) := formNext j hidden
  match b with
  | none => s
  | some b =>
    if b.rows.length + b.riders.length < ps.length then s
    else
      let r := { f.run with queue := f.run.queue.map QCmd.unhide }
      ((s.setJob k { j with run := r }).startFetches k j.run).replayOn k rest

def execStepCmd (c : Cmd) (s : State) : Host.Outcome State Fault Refusal :=
  checked s (c.desc.opcode == 0x10) (s.dispatch c)

def execChunk (c : Cmd) (s : State) : Host.Outcome State Fault Refusal :=
  checked s (c.desc.opcode == 0x11) (s.dispatch c)

def execFork (c : Cmd) (s : State) : Host.Outcome State Fault Refusal :=
  checked s (c.desc.opcode == 0x12) (s.dispatch c)

def execPrune (c : Cmd) (s : State) : Host.Outcome State Fault Refusal :=
  checked s (c.desc.opcode == 0x13) (s.dispatch c)

def execExportState (c : Cmd) (s : State) : Host.Outcome State Fault Refusal :=
  checked s (c.desc.opcode == 0x14) (s.dispatch c)

def execImportState (c : Cmd) (s : State) : Host.Outcome State Fault Refusal :=
  checked s (c.desc.opcode == 0x15) (s.dispatch c)

def execSwapOut (c : Cmd) (s : State) : Host.Outcome State Fault Refusal :=
  checked s (c.desc.opcode == 0x16) (s.dispatch c)

def execSwapIn (c : Cmd) (s : State) : Host.Outcome State Fault Refusal :=
  checked s (c.desc.opcode == 0x17) (s.dispatch c)

/-! ## A move completes (R108, R130, R136) -/

/-- Commands that wait for the move of a stream fail with a status: the held row, or the command at its head. -/
def failMove (r : JobRun) (n st : Nat) (qs : List QCmd) : JobRun :=
  match qs with
  | [] => r
  | q :: rest =>
    if q.rows.any (fun w => w.phase == 1 && w.stream == n) then
      let q' := { q with rows := q.rows.map (fun w => if w.phase == 1 && w.stream == n then w.done st else w) }
      (r.setQ q').finishDone [q']
    else if q.refs.any (fun t => t.1 == n) && q.phase != 0 then r.refuse q st
    else failMove r n st rest

/-- A swap-in restores the block and the pages of an image of `bytes` into the pages that the move has taken (R6, R130). -/
def JobRun.restore (r : JobRun) (n bytes : Nat) : JobRun :=
  let e := r.stream n
  let base := e.moveBase
  let mem := memWrite r.mem base e.swapState
  let at' := fun (i : Nat) => base + (e.blockPages + i) * 65536
  let idx := e.swapPages.zipIdx
  let mem := idx.foldl (fun m p => memWrite m (at' p.2) p.1.2) mem
  let pages := idx.foldl (fun m p => NMap.put m p.1.1 (at' p.2)) e.pages
  let e' := { e with loc := .resident, parked := 0, pages, promise := 0, moveBase := 0, awayAddr := 0, awaySize := 0
                     swapState := [], swapPages := [] }
  ({ r with mem }.setStream n e').count 0x48 bytes

/-- The SWAP_IN that started the move completes with the pages it made resident (R118, R130). -/
def JobRun.swapInDone (r : JobRun) (n count : Nat) : JobRun :=
  match r.queue.find? (fun q => q.cmd.desc.opcode == 0x17 && q.phase == 2 && q.refs.any (fun t => t.1 == n)) with
  | some q => r.finish { q with count } []
  | none => r

/-- The ranges of job memory that hold a stream's state block and pages. -/
def JobRun.rangesOf (r : JobRun) (n : Nat) : List (Nat × Nat) :=
  let e := r.stream n
  (if e.blockIn then [(e.statePtr, e.stateBytes)] else []) ++ e.pages.map (fun p => (p.2, 65536))

/-- A stream's block and pages have been written as they came into peat (R280). -/
def State.stateIn (s : State) (k n : Nat) : State :=
  ((s.job k).run.rangesOf n).foldl (fun (s : State) x => s.hubWrite k 7 x.1 x.2) s

/-- A swap image as host memory holds it while nothing has changed it: sealed, under the key and the record numbers kept with the
stream, for a confidential job (R427, R464). -/
def Job.swapStored (j : Job) (e : Stream) : List Byte :=
  let bs := swapBytes e.awaySize e.swapState e.swapPages
  if j.info.confidential then sealBuffer e.swapKey j.info.id e.awayAddr e.swapNo (cdiv e.awaySize 4096) bs else bs

/-- Sapwood writes to the stream table or to a page table: each 4 KiB unit is copied to the journal the first time it is written after a
commit point, which is a read and a write of 4 KiB, and the firmware's as the write is (R280, R354). -/
def State.tableWrite (s : State) (k d len : Nat) (x : JournalRec) : State :=
  let j := s.job k
  let s := if j.journal.contains x then s
    else ((s.setJob k (j.note x)).firmwareRead d 16).firmwareWrite (journalData j.journal.length) 4096
  s.firmwareWrite d len

/-- Stream-table entries that changed are written to the table (R103, R280). -/
def State.writeEntries (s : State) (k : Nat) (old : JobRun) : State :=
  let changed := (s.job k).run.streams.filter (fun e => old.stream e.1 != e.2)
  changed.foldl (fun (s : State) e => s.tableWrite k (entryData e.1) 128 (.slice (e.1 / 32))) s

/-- The move of a stream ends: its image or its record is checked and restored, or the command that needed it fails with
STATE_FORMAT and the stream stays where it was (R130, R136). A move behind an absent port waits (R426), and so does one whose
image a SWAP_OUT has not yet published (R33, R35). -/
def State.moveDone (s : State) (n : Nat) : State :=
  match s.runningJob with
  | none => s
  | some k =>
    let j := s.job k
    let r := j.run
    let e := r.stream n
    if e.kind = 0 || e.loc != .moving then s
    else if e.cameFrom == .cold then
      let h := s.port e.swapPort
      if h.absentNow || r.publish.any (fun p => p.cmd.desc.opcode == 0x16 && p.streams.contains n) then s
      else
        let size := hostSize j.info.confidential e.awaySize
        let good := memRead h.hostMem e.awayAddr size == j.swapStored e
        if good then ((s.setJob k { j with run := (r.restore n size).swapInDone n e.swapNeed }).stateIn k n).writeEntries k r
        else
          let back := r.setStream n e.away
          s.setJob k { j with run := failMove back n 0x0303 back.queue }
    else if e.cameFrom != .peer || e.peerBuf.length < min e.awaySize e.room then s
    else if bodyOk e.peerBuf e.room then
      let (r, e') := r.placeBody { e with loc := .resident, parked := 0, promise := e.promise - e.need } e.moveBase e.peerBuf
      ((s.setJob k { j with run := r.setStream n { e' with peerBuf := [], moveBase := 0, herdAddr := 0, awayAddr := 0, awaySize := 0 } }).stateIn k n).writeEntries k j.run
    else
      let back := r.setStream n e.away
      s.setJob k { j with run := failMove back n 0x0303 back.queue }

def execStreamMoveDone (stream : Nat) (s : State) : Host.Outcome State Fault Refusal :=
  checked s (decide (stream < 2 ^ 20)) (s.moveDone stream).trimKeys

/-! ## Batches -/

/-- Work is left waiting behind a batch (R344). -/
def JobRun.behind (r : JobRun) : Bool := r.queue.any (fun q => q.phase == 1 && q.rows.any (fun w => w.phase == 0))

/-- Token-steps deferred: rows of the oldest waiting STEP that wait (R344). -/
def JobRun.deferredRows (r : JobRun) : Nat :=
  match r.waitingSteps with
  | [] => 0
  | q :: _ => (q.rows.filter (fun w => w.phase == 0)).length

/-- A row of a batch, by command and index. -/
def JobRun.rowOf (r : JobRun) (x : Nat × Nat) : Option Row := (r.findQ x.1).bind (fun q => q.rows.find? (fun w => w.ix == x.2))

/-- The tail copies of a row placed in a batch: group, from and to (R174). -/
def JobRun.copiesOf (r : JobRun) (x : Nat × Nat) : List (Nat × Nat × Nat) :=
  match r.rowOf x with
  | some w => w.fresh.filterMap (fun p => p.2.2.map (fun a => (p.1 / 2 ^ 42, a, p.2.1)))
  | none => []

/-- What a row of a batch copies of job memory, by first address and bytes: pages and a shared state block (R123, R279). -/
def JobRun.copySources (r : JobRun) (x : Nat × Nat) : List (Nat × Nat) :=
  (r.copiesOf x).map (fun p => (p.2.1, 65536)) ++
    match r.rowOf x with
    | some w =>
      if w.block.isSome && !w.isOpen && !w.isReset && w.st.statePtr != 0 then [(w.st.statePtr, w.st.stateBytes)] else []
    | none => []

/-- The core's program appends to a group. -/
def CoreSec.appends (c : CoreSec) (n g : Nat) : Bool :=
  (List.range (c.progLen / 16)).any (fun i => match decodeInsn n (c.wordAt i) with
    | some (.append _ f) => let b := c.attnBlk f.ctrl; decide (b.first ≤ g) && decide (g < b.first + b.count)
    | _ => false)

/-- The cluster whose cores append to a group, which is whose SRAM a tail of the group stays dirty in (R279; log entry 135). -/
def Image.appendCluster (i : Image) (g : Nat) : Nat := ((i.cores.find? (fun e => e.2.appends e.1 g)).map (fun e => e.1 / 16)).getD 0

/-- Tail copies are read from the tiers and stay dirty in the SRAM of the cluster that appends to the copy, charged to partition 2 (R279,
R280). -/
def State.tailCopies (s : State) (k : Nat) (ps : List (Nat × Nat × Nat)) : State :=
  if ps.isEmpty then s
  else s.onTiers k (fun i a => ps.foldl (fun (a : Acc) p =>
    (a.wholePage false 32 (p.2.1 / 65536) 2).access i (i.appendCluster p.1) { addr := p.2.2, len := 65536, write := true, part := 2 }) a)

/-- Where a page table's root lies in the page-table area, a granule (R176, R272). -/
def tableData (root : Nat) : Nat := nodeBase + Config.tablePlace root % ((streamBase - nodeBase) / 256) * 256

/-- Sapwood reads each row's stream-table entry and page table, and writes the table where the advance has changed it (R48, R103, R174,
R280; log entry 134). -/
def State.tableTraffic (s : State) (k : Nat) (xs : List (Nat × Nat)) : State :=
  let r := (s.job k).run
  (xs.filterMap r.rowOf).foldl (fun (s : State) w =>
    let s := s.firmwareRead (entryData w.stream) 1
    if !w.st.hasPages then s
    else
      let s := s.firmwareRead (tableData w.st.root) 1
      if w.fresh.isEmpty then s else s.tableWrite k (tableData w.st.root) 256 (.table (tableData w.st.root / 4096))) s

/-- The batcher forms the next batch of the running job (R116, R354): not while a pause or a commit point is sought
(R345, R353), and not while a page that it would copy is withheld (R492). During a replay it forms the recorded batches again (R355). -/
def State.formBatch (s : State) : State :=
  match s.replaying with
  | some (k, x) =>
    (match x.recs with
     | .batch ps :: rest => s.reform k ps rest
     | _ => s)
  | none =>
    match s.runningJob, s.sched.seekCommit with
    | some k, none =>
      let j := s.job k
      let (f, b) := formNext j j.run
      if b.isSome && s.journalFull k then s.journalStall k
      else if j.readsWait ((b.toList.flatMap (·.rows)).flatMap f.run.copySources) then s
      else
      let s := (s.setJob k { j with run := f.run }).startFetches k j.run
      match b with
      | none => s
      | some b =>
        let d := s.sched
        let guard := j.run.guarded
        let d := { d with batchesSec := d.batchesSec + 1, allBehind := d.allBehind && f.run.behind
                          deferredSec := d.deferredSec + (if guard then f.run.deferredRows else 0)
                          guardSec := d.guardSec + (if guard then 1 else 0) }
        let s := { s.setJob k ((s.job k).note (.batch (f.run.parts b))) with sched := d }
        (s.tailCopies k (b.rows.flatMap (f.run.copiesOf))).tableTraffic k b.rows
    | _, _ => s

def execBatchForm (s : State) : Host.Outcome State Fault Refusal := .next s.formBatch

/-- Stage of a logical core; none for an idle one (R55). -/
def Image.stageOf (i : Image) (n : Nat) : Option Nat :=
  let st := ((NMap.getD i.clusters (n / 16) {}).map).getD (n % 16) 0xFFFF
  if st = 0xFFFF then none else some st

/-- A core of a LAST stage (R49). -/
def Image.lastCore (i : Image) (n : Nat) : Bool :=
  match i.stageOf n with
  | some st => (i.stages.getD st {}).flags.testBit 1
  | none => false

/-- A core has finished with a batch: it waits in NEXT after it, or has taken a later one. -/
def Core.past (c : Core) (id : Nat) : Bool :=
  decide (id + 1 < c.seen) || (c.seen == id + 1 && (match c.wait with | .next _ => true | _ => false))

/-- The batch ends when every core of every LAST stage has finished with it (R49; log entry 21). A batch of no rows needs
no core. -/
def Job.batchOver (j : Job) (b : Batch) : Bool :=
  b.rows.isEmpty || j.run.cores.all (fun e => !j.image.lastCore e.1 || e.2.past b.id)

/-- Commit the oldest batch (R113, R114, R116, R121): its advances, then its riders in order. -/
def Job.commitBatch (j : Job) (b : Batch) (rest : List Batch) : Job :=
  let busy := j.run.cores.filterMap (fun e => e.2.batch)
  let r := { j.run with batches := rest, past := (j.run.past ++ [b]).filter (fun x => busy.contains x.id) }
  { j with run := j.commitRiders (r.commitRows b.rows) b.riders }

/-- The key-value pages that the rows of a batch fill (R279). -/
def JobRun.filled (r : JobRun) (b : Batch) : List Nat :=
  b.rows.flatMap (fun x =>
    match r.rowOf x with
    | some w =>
      if w.st.hasPages then
        let first := w.st.length / 64
        let n := (w.st.length + w.tokens) / 64 - first
        (List.range w.st.groups).flatMap (fun g =>
          (List.range n).filterMap (fun i => NMap.find w.st.pages (pageKey g (first + i))))
      else []
    | none => [])

/-- The filled pages that are still held are written to the peat tier in data-address order (R279). -/
def State.flushFilled (s : State) (k : Nat) (pages : List Nat) : State :=
  let held := (s.job k).run.held
  let sorted := (pages.filter (fun a => (NMap.find held a).isSome)).foldl (fun (m : NMap Nat) a =>
    NMap.put m ((s.job k).dataAddr a) a) []
  if sorted.isEmpty then s else s.onTiers k (fun _ a => sorted.foldl (fun a e => a.flushPage (e.2 / 65536)) a)

/-- The streams that the IMPORT_STATEs of a batch make. -/
def JobRun.importsOf (r : JobRun) (b : Batch) : List Nat :=
  ((b.riders.filterMap r.findQ).filter (fun q => q.cmd.desc.opcode == 0x15)).flatMap (·.kids)

/-- The ranges that a batch's riders read as they commit: EXPORT_STATE its stream's, SWAP_OUT what no other stream shares (R129, R133,
R280). -/
def JobRun.riderRanges (r : JobRun) (b : Batch) (op : Nat) : List (Nat × Nat) :=
  (b.riders.filterMap r.findQ).flatMap (fun q =>
    if q.cmd.desc.opcode ≠ op then []
    else
      let xs := q.refs.flatMap (fun t => r.rangesOf t.1)
      if op = 0x16 then xs.filter (fun x => decide (r.holders x.1 + r.blockSharers x.1 ≤ 1)) else xs)

/-- The pool pages that a batch's end freed leave every tier, with the places that backed them till then (R289). -/
def State.dropFreed (s : State) (k : Nat) (old : JobRun) : State :=
  let now := (s.job k).run.held
  let gone := old.held.filter (fun e => (NMap.find now e.1).isNone)
  if gone.isEmpty then s
  else s.onTiers k (fun _ a => gone.foldl (fun a e => a.dropPage (e.1 / 65536) (NMap.find old.place (e.1 / 65536))) a)

/-- BATCH_COMMIT (R113 to R121, R354): while an EXPORT_STATE or a SWAP_OUT of the batch would read withheld data, it waits (R492). -/
def execBatchCommit (s : State) : Host.Outcome State Fault Refusal :=
  .next (
    match s.sched.running with
    | none => s
    | some k =>
      let j := s.job k
      match j.run.batches with
      | [] => s
      | b :: rest =>
        if !j.batchOver b then s
        else if s.journalFull k then s.journalStall k
        else if j.readsWait (j.run.riderRanges b 0x14 ++ j.run.riderRanges b 0x16) then s
        else
          let s := s.hubReads k 7 (j.run.riderRanges b 0x14 ++ j.run.riderRanges b 0x16)
          let j := s.job k
          let s := ((s.setJob k (j.commitBatch b rest)).trimKeys).dropFreed k j.run
          let s := (j.run.importsOf b).foldl (fun (s : State) n => s.stateIn k n) s
          (s.flushFilled k (j.run.filled b)).writeEntries k j.run)

/-! ## Publication (R33, R126, R127, R414) -/

/-- The partition of a command's hub-side traffic: copies are host DMA, codec commands the codec's, state that moves the cold store's, and
what sapwood writes, a STEP's results and a FORK's references, the firmware's (R280). -/
def opPart (op : Nat) : Nat :=
  if op / 16 = 2 then 5 else if 0x40 ≤ op then 4 else if 0x14 ≤ op && op ≤ 0x17 then 7 else 8

/-- The hub-side writes of a publication find no free request slot (R276). -/
def State.outputsBlocked (s : State) (k : Nat) (p : Publication) : Bool :=
  s.noSlot k (fun _ a => p.writes.foldl (fun (a : Acc) w => match w.1 with
    | .job => a.hubLines true (opPart p.cmd.desc.opcode) (w.2.2.length / 4096 + 2) w.2.1 w.2.2.length
    | _ => a) a)

/-- Write one output of a command. COPY_IN's data is journalled as a host write (R421). -/
def State.output (s : State) (k op : Nat) (w : Space × Nat × List Byte) : State :=
  match w.1 with
  | .job =>
    let s := s.setJob k (if op = 0x20 then (s.job k).hostWrite w.2.1 w.2.2 else (s.job k).store w.2.1 w.2.2)
    s.hubWrite k (opPart op) w.2.1 w.2.2.length
  | .host p => s.setPort p { s.port p with hostMem := memWrite (s.port p).hostMem w.2.1 w.2.2 }
  | .sealedAt p key =>
    let h := s.port p
    let n := cdiv w.2.2.length 4096
    let bs := sealBuffer key (s.job k).info.id w.2.1 (h.txNo + 1) n w.2.2
    s.setPort p { h with hostMem := memWrite h.hostMem w.2.1 bs, txNo := h.txNo + n }
  | .ring p => s.setPort p { s.port p with ringMem := memWrite (s.port p).ringMem w.2.1 w.2.2 }

/-- Write all outputs of a command. -/
def State.outputs (s : State) (k op : Nat) (ws : List (Space × Nat × List Byte)) : State :=
  match ws with
  | [] => s
  | w :: rest => (s.output k op w).outputs k op rest

/-- The completion of a device-issued command: its record in job memory, and with NOTIFY a copy to the completion ring
of its originating descriptor's set (R126, R127, R415, R418). -/
def State.completeDevice (s : State) (k : Nat) (p : Publication) : State :=
  let c := p.cmd
  let (t, s) := s.look (portIsland c.port)
  let r : Completion := { tag := c.desc.tag, status := p.status, job := (s.job k).info.id, flags := p.flags
                          stream := p.stream, count := p.count, cookie := c.desc.cookie }
  let s := (s.setJob k ((s.job k).store c.caddr.toNat (r.bytes 0 t))).hubWrite k 8 c.caddr.toNat 32
  let i := (s.job k).info
  if !c.desc.flags.testBit 4 then s
  else if i.mute ≠ 0 then s.setInfo k { i with mute := i.mute - 1 }
  else (s.setInfo k { i with notified := i.notified + 1 }).deliverNotify c.port c.set { r with flags := p.flags + 4 }

/-- A command's outputs or its record go to job memory. -/
def Publication.writesJob (p : Publication) : Bool :=
  p.cmd.dev || p.writes.any (fun w => match w.1 with
    | .job => true
    | .host _ => false
    | .sealedAt .. => false
    | .ring _ => false)

/-- A command's outputs, or its record, write part of a withheld unit (R492). -/
def Publication.meetsLost (p : Publication) (j : Job) : Bool :=
  (p.cmd.dev && j.blocked p.cmd.caddr.toNat 32 true) || p.writes.any (fun w => match w.1 with
    | .job => j.blocked w.2.1 w.2.2.length true
    | .host _ => false
    | .sealedAt .. => false
    | .ring _ => false)

/-- A command's outputs go to host memory behind an absent port: the transfer waits (R426). -/
def State.behindAbsent (s : State) (p : Publication) : Bool :=
  p.writes.any (fun w => match w.1 with
    | .host q => (s.port q).absentNow
    | .sealedAt q _ => (s.port q).absentNow
    | .job => false
    | .ring _ => false)

/-- The streams whose swap image is about to be written keep the number of its first record (R427). -/
def State.stampSwaps (s : State) (k : Nat) (p : Publication) : State :=
  if p.cmd.desc.opcode ≠ 0x16 then s
  else
    let j := s.job k
    let mark := fun (e : Nat × Stream) =>
      if p.streams.contains e.1 then (e.1, { e.2 with swapNo := (s.port e.2.swapPort).txNo + 1 }) else e
    s.setJob k { j with run := { j.run with streams := j.run.streams.map mark } }

/-- The `i`-th finished command of the job publishes its outputs atomically and then writes its completion (R33); a
completion already written is not written again (R355). One that stands behind an unpublished command on a stream of its own
waits (R35), and so does one whose host transfer lies behind an absent port (R426), whose writes find the journal full (R354), or which
writes part of a withheld unit (R492). -/
def State.publish (s : State) (k i : Nat) : State :=
  let j := s.job k
  match j.run.publish[i]? with
  | none => s
  | some p =>
    if !j.run.clearBefore p.uid p.streams || s.behindAbsent p || s.outputsBlocked k p || p.meetsLost j then s
    else if p.writesJob && s.journalFull k then s.journalStall k
    else
    let s := s.setJob k { j with run := { j.run with publish := j.run.publish.eraseIdx i } }
    let s := (s.stampSwaps k p).outputs k p.cmd.desc.opcode p.writes
    if p.cmd.dev then s.completeDevice k p
    else if !j.info.outstanding.contains p.cmd then s
    else s.complete k p.cmd p.status p.flags p.stream p.count

def execCommandPublish (k : Nat) (s : State) : Host.Outcome State Fault Refusal :=
  .next (
    match s.sched.running with
    | some slot => s.publish slot k
    | none => s)

/-! ## Copies (R421) -/

/-- Finish a command of the running job's queue with a status, a count and outputs. -/
def State.finishCmd (s : State) (k : Nat) (j : Job) (q : QCmd) (status count : Nat)
    (ws : List (Space × Nat × List Byte)) : State :=
  s.setJob k { j with run := j.run.finish { q with status, count } ws }

/-- COPY_IN and COPY_OUT (R421, R428); a read of withheld data waits (R492), and one of host memory behind an absent port (R426). The manual gives their count no meaning: it is 0 (log entry 22). -/
def State.copy (s : State) (c : Cmd) (inward : Bool) : State :=
  match s.jobOf c with
  | none => s
  | some k =>
    match (s.job k).waitingFor c with
    | (j, none) => s.setJob k j
    | (j, some q) =>
      let a := c.desc.w8.toNat
      let h := c.desc.w16.toNat
      let n := fld c.desc.w24 0 32
      if n = 0 then s.finishCmd k j q 0x0001 0 []
      else if a % 64 ≠ 0 || h % 64 ≠ 0 || n % 64 ≠ 0 || !j.mapped a n then s.finishCmd k j q 0x0203 0 []
      else if inward then
        if (s.port c.port).absentNow then s.setJob k j
        else
        match s.readHost k c.port h n with
        | some bs => s.finishCmd k j q 0 0 [(Space.job, a, bs)]
        | none => s.finishCmd k j q 0x0203 0 []
      else if j.blocked a n false || (j.info.confidential && !(s.port c.port).session.up) ||
          s.noSlot k (fun _ x => x.hubLines false 5 (n / 4096 + 2) a n) then s.setJob k j
      else
        (s.finishCmd k j q 0 0 [(j.hostSpace c.port (s.port c.port).session.keyD2h, h, memRead j.run.mem a n)]).hubRead k 5 a n

def execCopyIn (c : Cmd) (s : State) : Host.Outcome State Fault Refusal :=
  checked s (c.desc.opcode == 0x20) (s.copy c true)

def execCopyOut (c : Cmd) (s : State) : Host.Outcome State Fault Refusal :=
  checked s (c.desc.opcode == 0x21) (s.copy c false)

end Sys2Proof.Machine
end

