-- ==== Sys2Proof/Machine/CodecOps.lean ====
section
/-! DEFINITION. What the codec commands share (R299 to R308, R313 to R318): context headers and their checks, slots, samples,
statistics and result records. -/

namespace Sys2Proof.Machine

/-! ## The context header (R305) -/

/-- A context header's fields. -/
structure CodecHead where
  std    : Nat
  form   : Nat
  fmt    : Nat
  chroma : Nat
  opts   : Nat
  point  : Nat
  pool   : Nat
  poolSize : Nat
  width  : Nat
  height : Nat
  depth  : Nat
  target : Nat
  keyint : Nat
  golden : Nat
  window : Nat
  cap    : Nat
  deriving DecidableEq, Repr

/-- The fields of the 256 B of a context header. -/
def codecHead (bs : List Byte) : CodecHead :=
  let w := headWord bs
  { std := w 0 1, form := w 1 1, fmt := w 2 1, chroma := w 3 1, opts := w 4 1, point := w 5 1, pool := w 8 8
    poolSize := w 16 8, width := w 24 2, height := w 26 2, depth := w 28 1, target := w 29 1, keyint := w 30 2
    golden := w 32 2, window := w 34 2, cap := w 36 4 }

/-- The bytes of the fields that only OPEN may change. -/
def codecFixed (bs : List Byte) : List Byte := bs.take 4 ++ (bs.drop 5).take 1 ++ (bs.drop 8).take 21

/-- The context is one for encoding. -/
def CodecHead.encodes (h : CodecHead) : Bool := h.std == 4

/-- STATS and NO_GRAIN. -/
def CodecHead.stats (h : CodecHead) : Bool := h.opts.testBit 0
def CodecHead.noGrain (h : CodecHead) : Bool := h.opts.testBit 1

/-- Least size of a reference pool for pictures of a size and bit depth (R308), times 4. -/
def poolNeed4 (std width height depth : Nat) : Nat :=
  let slots := if std = 1 then 10 else if std = 4 then 5 else 18
  slots * roundUp width 64 * roundUp height 64 * (if depth = 8 then 7 else 13)

/-- The fields of an encode's header (R305, R308). -/
def CodecHead.encodeOk (h : CodecHead) (bs : List Byte) : Bool :=
  h.chroma == 0 && h.width % 2 == 0 && decide (16 ≤ h.width) && decide (h.width ≤ 7680) && h.height % 2 == 0 &&
    decide (16 ≤ h.height) && decide (h.height ≤ 4320) && (h.depth == 8 || h.depth == 10) && !(h.fmt == 12 && h.depth != 8) &&
    h.target != 0 && decide (1 ≤ h.golden) && decide (h.golden ≤ 255) && decide (1 ≤ h.window) && decide (h.window ≤ 1024) &&
    headWord bs 40 4 != 0 && headWord bs 44 4 != 0 && decide (poolNeed4 4 h.width h.height h.depth ≤ 4 * h.poolSize)

/-- The header is within R305. -/
def CodecHead.ok (h : CodecHead) (bs : List Byte) : Bool :=
  decide (1 ≤ h.std) && decide (h.std ≤ 4) && (if h.std = 1 then decide (h.form ≤ 1) && decide (h.point ≤ 31) else h.form == 0 && h.point == 0) &&
    decide (9 ≤ h.fmt) && decide (h.fmt ≤ 13) && decide (h.chroma ≤ 2) && decide (h.opts < 4) && headWord bs 6 2 == 0 && h.pool % 65536 == 0 &&
    ((bs.drop 64).take 192).all (· == 0) &&
    (if h.encodes then h.encodeOk bs else h.width == 0 && h.height == 0 && h.depth == 0 && h.target == 0)

/-! ## Slots and planes (R306, R307) -/

/-- A slot. -/
structure CodecSlot where
  luma    : Nat
  chroma  : Nat
  lumaSize : Nat
  chromaSize : Nat
  lumaRs  : Nat
  chromaRs : Nat
  chromaPs : Nat
  stats   : Nat
  statsSize : Nat
  forceKey : Bool
  deriving DecidableEq, Repr

/-- The slot of a slot table. -/
def codecSlot (m : NMap Byte) (table i : Nat) : CodecSlot :=
  let w := fun (o n : Nat) => memWord m (table + 64 * i + o) n
  { luma := w 0 8, chroma := w 8 8, lumaSize := w 16 4, chromaSize := w 20 4, lumaRs := w 24 4, chromaRs := w 28 4
    chromaPs := w 32 4, stats := w 40 8, statsSize := w 48 4, forceKey := (w 52 4).testBit 0 }

/-- A plane of a frame: where it starts, its tensor's start and size, its row stride, its rows and columns, the plane of the
frame, and whether each sample stands for two by two (chroma mode 1). -/
structure PlaneAt where
  start : Nat
  base  : Nat
  size  : Nat
  rs    : Nat
  rows  : Nat
  cols  : Nat
  plane : Nat
  twice : Bool

/-- The planes of a frame in a slot (R306). -/
def CodecSlot.planes (x : CodecSlot) (chroma width height : Nat) : List PlaneAt :=
  let luma : PlaneAt := { start := x.luma, base := x.luma, size := x.lumaSize, rs := x.lumaRs, rows := height, cols := width, plane := 0
                          twice := false }
  let full := chroma == 1
  let c := fun (p : Nat) => ({ start := x.chroma + p * x.chromaPs, base := x.chroma, size := x.chromaSize, rs := x.chromaRs
                               rows := if full then height else cdiv height 2, cols := if full then width else cdiv width 2
                               plane := p + 1, twice := full } : PlaneAt)
  if chroma = 2 then [luma] else [luma, c 0, c 1]

/-- The positions of a plane: row, column and address of an element of `n` bytes. -/
def PlaneAt.elems (p : PlaneAt) (n : Nat) : List (Nat × Nat × Nat) :=
  (List.range p.rows).flatMap (fun y => (List.range p.cols).map (fun x => (y, x, p.start + y * p.rs + x * n)))

/-- Bytes inside the plane's tensor and job memory: others are dropped (R313). -/
def PlaneAt.keeps (p : PlaneAt) (j : Job) (a n : Nat) : Bool :=
  decide (p.base ≤ a) && decide (a + n ≤ p.base + p.size) && j.mapped a n

/-- The element code of a decoded sample (R307). -/
def sampleCode (fmt depth v : Nat) : Nat :=
  let x := if fmt = 12 then Num.ofInt ((v : Int) - 128) else if fmt = 13 then Num.ofNat v else (Num.ofNat v).div (Num.ofNat (2 ^ depth - 1))
  (quantElem fmt x).1

/-- The sample that an input element is read as, and whether it was clamped (R307). -/
def codeSample (fmt depth code : Nat) : Nat × Bool :=
  let top : Nat := 2 ^ depth - 1
  let clamp := fun (v : Int) => ((max 0 (min (top : Int) v)).toNat, decide (v < 0) || decide ((top : Int) < v))
  match elemNum fmt code with
  | .nan _ => (0, false)
  | .inf neg => (if neg then 0 else top, true)
  | .fin neg m e =>
    if fmt = 12 then clamp (((Num.fin neg m e).toInt.getD 0) + 128)
    else if fmt = 13 then clamp ((Num.fin neg m e).toInt.getD 0)
    else if (Num.fin neg m e).cmp .zero == some .lt then (0, true)
    else if (Num.fin neg m e).cmp (.ofNat 1) == some .gt then (top, true)
    else ((((Num.fin neg m e).mul (.ofNat top)).toInt.getD 0).toNat, false)

/-! ## Statistics (R316 to R318) -/

/-- Blocks of 16 × 16 along an axis. -/
def blocks16 (n : Nat) : Nat := cdiv n 16

/-- What the statistics of a frame are measured on: its size, luma samples, their predictions and those of the frame before in display
order, all in 10-bit units, how its blocks were predicted, the blocks concealed, and the display distance to a block's reference (R317). -/
structure StatSource where
  width  : Nat
  height : Nat
  now    : Nat → Nat → Nat
  pred   : Nat → Nat → Nat
  prev   : Option (Nat → Nat → Nat)
  block  : Nat → BlockInfo
  hidden : Nat → Bool
  away   : Nat → Nat

/-- A sample in 10-bit units (R317). -/
def tenBit (depth v : Nat) : Nat := if depth = 8 then 4 * v else v

/-- The places of a block's samples inside the frame, as row and column (R317). -/
def StatSource.places (x : StatSource) (b : Nat) : List (Nat × Nat) :=
  let by' := b / blocks16 x.width * 16
  let bx := b % blocks16 x.width * 16
  (List.range (min 16 (x.height - by'))).flatMap (fun i => (List.range (min 16 (x.width - bx))).map (fun k => (by' + i, bx + k)))

/-- Magnitude of a difference. -/
def apart (a b : Nat) : Nat := (a - b) + (b - a)

/-- Σ|x − mean(x)| (R317). -/
def intraCost (xs : List Nat) : Nat :=
  if xs.sum % xs.length = 0 then (xs.map (fun x => apart x (xs.sum / xs.length))).sum else Config.intraCost xs

/-- A signed 16-bit number in two bytes. -/
def signed16 (v : Int) : List Byte := leBytes 2 (v % 65536).toNat

/-- An eighth-sample vector to the nearest quarter sample, ties away from zero (R317). -/
def toQuarter (v : Int) : Int := if v < 0 then -((-v + 1) / 2) else (v + 1) / 2

/-- The record of a block (R317): `vec` is its vector in quarter samples. -/
def StatSource.record (x : StatSource) (vec : BlockInfo → Int × Int) (b : Nat) : List Byte :=
  let i := x.block b
  let ps := x.places b
  let xs := ps.map (fun p => x.now p.1 p.2)
  let sad := (ps.map (fun p => apart (x.now p.1 p.2) (x.pred p.1 p.2))).sum
  let inter := match x.prev with
    | some f => (ps.map (fun p => apart (x.now p.1 p.2) (f p.1 p.2))).sum
    | none => 0xFFFFFFFF
  let flags := b2n i.intra + 2 * b2n i.skip + 4 * b2n (x.hidden b) + 8 * b2n i.compound + 16 * b2n (decide (ps.length < 256))
  (if i.intra then leBytes 8 0 else signed16 (vec i).1 ++ signed16 (vec i).2 ++ leBytes 4 sad) ++ leBytes 4 (intraCost xs) ++
    leBytes 4 inter ++ leBytes 1 (if i.intra then 0 else max 1 (min 255 (x.away i.ref))) ++ leBytes 1 flags ++ leBytes 6 0

/-- The records of a frame. -/
def StatSource.records (x : StatSource) (vec : BlockInfo → Int × Int) : List (List Byte) :=
  (List.range (blocks16 x.width * blocks16 x.height)).map (x.record vec)

/-- The frame complexity (R318). -/
def complexity (recs : List (List Byte)) (width height : Nat) : Nat :=
  let sum := (recs.map (fun r => min (headWord r 8 4) (headWord r 12 4))).sum
  toF32 ((Num.ofNat sum).div (Num.ofNat (width * height)))

/-- The statistics block of a frame (R316). -/
def statBlock (recs : List (List Byte)) (frame width height cx : Nat) : List Byte :=
  leBytes 8 frame ++ leBytes 2 (blocks16 width) ++ leBytes 2 (blocks16 height) ++ leBytes 4 cx ++ leBytes 48 0 ++ recs.flatten

/-- Writes of a run of bytes, those beyond `size` or outside job memory dropped, and whether any was (R313). -/
def clippedBytes (j : Job) (base size : Nat) (bs : List Byte) : List (Space × Nat × List Byte) × Bool :=
  let xs := bs.zipIdx.filter (fun e => decide (e.2 < size) && j.mapped (base + e.2) 1)
  (xs.map (fun e => (Space.job, base + e.2, [e.1])), decide (xs.length < bs.length))

/-! ## Result records and commands (R303, R314) -/

/-- A result record. -/
structure CodecRec where
  frame  : Nat := 0
  status : Nat := 0
  flags  : Nat := 0
  depth  : Nat := 0
  quant  : Nat := 0
  slot   : Nat := 0xFFFF
  width  : Nat := 0
  height : Nat := 0
  cx     : Nat := 0
  off    : Nat := 0
  len    : Nat := 0
  hidden : Nat := 0
  order  : Nat := 0

/-- The 64 B of a result record. -/
def CodecRec.bytes (r : CodecRec) : List Byte :=
  leBytes 8 r.frame ++ leBytes 2 r.status ++ leBytes 2 r.flags ++ leBytes 1 r.depth ++ leBytes 1 r.quant ++ leBytes 2 r.slot ++
    leBytes 2 r.width ++ leBytes 2 r.height ++ leBytes 4 r.cx ++ leBytes 8 r.off ++ leBytes 4 r.len ++ leBytes 4 r.hidden ++
    leBytes 8 r.order ++ leBytes 16 0

/-- Fields of a codec descriptor (R303). -/
structure CodecArgs where
  ctx   : Nat
  data  : Nat
  len   : Nat
  slots : Nat
  cap   : Nat
  table : Nat
  recs  : Nat
  isOpen : Bool
  flush : Bool

/-- The arguments of a codec command. -/
def codecArgs (d : Desc) : CodecArgs :=
  { ctx := d.w8.toNat, data := d.w16.toNat, len := fld d.w24 0 32, slots := fld d.w24 32 16, cap := fld d.w24 48 16
    table := d.w32.toNat, recs := d.w40.toNat, isOpen := d.flags.testBit 0, flush := d.flags.testBit 1 }

/-- Add a record with what its frame wrote and counted (R314, R315, R329). -/
def CodecWork.add (w : CodecWork) (a : CodecArgs) (r : CodecRec) (ws : List (Space × Nat × List Byte)) (cs : List (Nat × Nat)) : CodecWork :=
  { w with writes := w.writes ++ ws ++ [(Space.job, a.recs + 64 * w.recs, r.bytes)], recs := w.recs + 1
           status := max w.status r.status, ctr := w.ctr ++ cs }

/-- The writes that end a codec command: its header's Consumed and frame counter, the engine's part of the context, and the
reference pool (R299, R305, R308). -/
def CodecWork.closing (w : CodecWork) (j : Job) (a : CodecArgs) (h : CodecHead) (used : Nat) : List (Space × Nat × List Byte) :=
  let area := (List.range 3840).map (Config.codecArea w.ctx.session)
  let pool := (List.range h.poolSize).map (Config.codecPool w.ctx.session)
  [(Space.job, a.ctx + 48, leBytes 8 used ++ leBytes 8 w.ctx.frames), (Space.job, a.ctx + 256, area)] ++
    (clippedBytes j h.pool h.poolSize pool).1

/-- A codec command ends: its context is kept, what it counted is added (R329), and it waits to publish (R315). -/
def JobRun.endCodec (r : JobRun) (j : Job) (q : QCmd) (a : CodecArgs) (h : CodecHead) (w : CodecWork) (used : Nat) : JobRun :=
  let r := w.ctr.foldl (fun (r : JobRun) c => r.count (0x200 + c.1) c.2) r
  let r := { r with ctxs := NMap.put r.ctxs a.ctx w.ctx }
  r.finish { q with status := w.status, count := w.recs } (w.writes ++ w.closing j a h used)

end Sys2Proof.Machine
end

