-- ==== Sys2Proof/Machine/Codec.lean ====
section
/-! DEFINITION. The codec commands (chapter 10): checks at dispatch, decoding, encoding with its rate control, and the engines. -/

namespace Sys2Proof.Machine

/-! ## Checks at dispatch (R304, R328) -/

/-- Two chroma planes share no element (R238). -/
def chromaApart (rows rowBytes rs ps : Nat) : Bool := decide (rows * rs ≤ ps) || (decide (rowBytes ≤ ps) && decide (2 * ps ≤ rs))

/-- A frame fits an encode's input slot (R304, R306): planar tensors that keep their elements apart, whole inside their sizes and
job memory. -/
def CodecSlot.fits (x : CodecSlot) (j : Job) (h : CodecHead) : Bool :=
  let n := fmtBits h.fmt / 8
  let whole := fun (p : PlaneAt) => decide (p.rows ≤ 1 ∨ p.cols * n ≤ p.rs) && p.rs % 64 == 0 &&
    p.keeps j (p.start + (p.rows - 1) * p.rs) (p.cols * n) && p.keeps j p.start 1
  (x.planes 0 h.width h.height).all whole && j.mapped x.luma x.lumaSize && j.mapped x.chroma x.chromaSize && x.chromaPs % 64 == 0 &&
    chromaApart (cdiv h.height 2) (cdiv h.width 2 * n) x.chromaRs x.chromaPs

/-- The status with which dispatch refuses or at once ends a codec command; none where it may run (R304, R305, R328). -/
def Job.codecRefusal (j : Job) (d : Desc) : Option Nat :=
  let a := codecArgs d
  let enc := d.opcode == 0x41
  let bs := memRead j.run.mem a.ctx 256
  let h := codecHead bs
  let kept := (NMap.find j.run.ctxs a.ctx).map (·.fixed)
  let n := a.slots
  if a.ctx % 4096 ≠ 0 || !j.mapped a.ctx 4096 || !j.extentOk a.data a.len || !j.extentOk a.table (64 * n) ||
      !j.extentOk a.recs (64 * (if enc then n else a.cap)) then some 0x0203
  else if !h.ok bs || h.encodes != enc || (!a.isOpen && kept != some (codecFixed bs)) then some 0x0303
  else if enc && n = 0 then some 0x0001
  else if enc && (4096 < n || !(List.range n).all (fun i => (codecSlot j.run.mem a.table i).fits j h)) then some 0x0203
  else if !enc && a.len = 0 && !a.flush then some 0x0001
  else if !enc && (n = 0 || 4096 < n || a.cap = 0) then some 0x0203
  else none

/-- The context that a command starts from: OPEN discards the session (R305). -/
def Job.codecStart (j : Job) (a : CodecArgs) : CodecCtx :=
  let fixed := codecFixed (memRead j.run.mem a.ctx 256)
  if a.isOpen then { fixed, session := fixed } else NMap.getD j.run.ctxs a.ctx {}

/-! ## Decoding (R300, R309 to R315) -/

/-- Largest picture that a standard's decoder takes (R300). -/
def pictureOk (std width height : Nat) : Bool :=
  if std = 1 then decide (width ≤ 16384) && decide (height ≤ 8704) && decide (width * height ≤ 35651584)
  else decide (width ≤ 8192) && decide (height ≤ 4320)

/-- A decode in progress: what it has done, the input taken, slots filled, coded units of this command as offset and size,
the first of them, whether FLUSH has released its frames, and whether it has stopped. -/
structure Decoding where
  work  : CodecWork
  pos   : Nat := 0
  slot  : Nat := 0
  units : List (Nat × Nat) := []
  first : Nat := 0
  flushed : Bool := false
  stopped : Bool := false

/-- A frame uses a profile, tools, chroma sampling and a bit depth that the engines support for its standard (R300). -/
def formatOk (std : Nat) (f : FrameInfo) : Bool :=
  f.profile && f.tools &&
    (if std = 1 then decide (f.chroma ≤ 1) && (f.depth == 8 || f.depth == 10)
     else if std = 2 then f.chroma == 1 && decide (8 ≤ f.depth) && decide (f.depth ≤ 10)
     else f.chroma == 1 && f.depth == 8)

/-- The kind of a frame as the engine takes it: one outside R300, one that needs more pool than there is, and one of 10 bits for
INT8 tensors, are undecodable (R312). -/
def frameKind (h : CodecHead) (f : FrameInfo) : Nat :=
  if f.kind = 2 || !formatOk h.std f || !pictureOk h.std f.width f.height || 4 * h.poolSize < poolNeed4 h.std f.width f.height f.depth ||
    (h.fmt == 12 && f.depth != 8) then 2 else f.kind

/-! ### Pictures and concealment (R301, R311, R312, R328) -/

/-- A picture with an error after its header. -/
def Picture.damaged (p : Picture) : Bool := p.info.kind == 1

/-- A picture that names a reference never filled (R312). -/
def Picture.missing (p : Picture) : Bool := p.refs.any (·.isNone)

/-- A picture that is reported as concealed (R311, R312). -/
def Picture.concealed (p : Picture) : Bool := p.damaged || p.missing

/-- A picture predicted from a concealed one (R311, R328). -/
def Picture.refConcealed (p : Picture) (pics : List Picture) : Bool :=
  p.refs.any (fun r => match r with
    | some n => (pics.getD n {}).concealed
    | none => false)

/-- The 16 × 16 luma block that a sample of a plane belongs to. -/
def Picture.blockOf (p : Picture) (plane y x : Nat) : Nat :=
  let n := if plane = 0 then 16 else 8
  y / n * blocks16 p.info.width + x / n

/-- The 16 × 16 blocks that are concealed (R311). -/
def Picture.hidden (p : Picture) (session : List Byte) : List Nat :=
  if p.damaged then
    (List.range (blocks16 p.info.width * blocks16 p.info.height)).filter (fun b => !Config.decodedBefore session p.ix b)
  else []

/-- A sample that the decoder made, `v`, in a block decoded before the error; else the co-located sample of the picture's first
reference, or the mid value where it has none (R311). -/
def Picture.keep (p : Picture) (session : List Byte) (refs : Nat → Nat → Nat → Nat → Nat) (plane y x v : Nat) : Nat :=
  if p.damaged && !Config.decodedBefore session p.ix (p.blockOf plane y x) then
    (match p.refs.head? with
     | some (some _) => refs 0 plane y x
     | _ => 2 ^ (p.info.depth - 1))
  else v

/-- A sample of a picture, from its references' (R301, R311): a monochrome stream's chroma is the mid value, fields are interleaved by
line, and the lines of a missing field repeat the line above. The top line of a lone bottom field has none above it, and the spec
says no value for it. -/
def Picture.sample (p : Picture) (session : List Byte) (refs : Nat → Nat → Nat → Nat → Nat) (plane y x : Nat) : Nat :=
  let field := fun (bottom : Bool) (y' : Nat) => p.keep session refs plane (2 * y' + b2n bottom) x
    (Config.decodeField session p.ix refs bottom plane y' x)
  if p.info.chroma = 0 && plane != 0 then 2 ^ (p.info.depth - 1)
  else
    match p.info.fields with
    | 0 => p.keep session refs plane y x (Config.decodeSample session p.ix refs plane y x)
    | 1 => field (y % 2 == 1) (y / 2)
    | 2 => field false (y / 2)
    | _ => if y = 0 then Config.decodeSample session p.ix refs plane 0 x else field true ((y - 1) / 2)

/-- A sample of picture `n` of a session, through its references; a reference never filled has the mid value (R312). A picture's
references come before it, so `fuel` need only pass its number. -/
def pictureSample (session : List Byte) (pics : List Picture) (fuel n plane y x : Nat) : Nat :=
  match fuel with
  | 0 => 0
  | k + 1 =>
    let p := pics.getD n {}
    let refs := fun (r pl i c : Nat) =>
      match p.refs.getD r none with
      | some m => pictureSample session pics k m pl i c
      | none => 2 ^ (p.info.depth - 1)
    p.sample (session.take p.upto) refs plane y x % 2 ^ p.info.depth

/-- A sample of a picture of a context. -/
def CodecCtx.sample (c : CodecCtx) (n plane y x : Nat) : Nat := pictureSample c.session c.pics (n + 1) n plane y x

/-- A sample as it is output: with film grain, unless the header sets NO_GRAIN (R301). -/
def CodecCtx.shown (c : CodecCtx) (h : CodecHead) (n plane y x : Nat) : Nat :=
  let p := c.pics.getD n {}
  let v := c.sample n plane y x
  if p.info.grain && !h.noGrain then Config.grain (c.session.take p.upto) p.ix plane y x v % 2 ^ p.info.depth else v

/-- Insert a picture into those held for reordering, by display index. -/
def CodecCtx.insert (c : CodecCtx) (n : Nat) : CodecCtx :=
  let order := fun (i : Nat) => (c.pics.getD i {}).info.order
  let early := c.reorder.takeWhile (fun i => decide (order i ≤ order n))
  { c with reorder := early ++ n :: c.reorder.drop early.length }

/-- Take one frame of the unit just consumed, of `size` bytes: a length in it that reaches beyond damages it (R310), an undecodable one
refreshes no reference (R312), and of an AV1 operating point only the highest spatial layer is output (R301). `short` is a unit that
the input ends within. -/
def CodecCtx.picture (c : CodecCtx) (h : CodecHead) (size : Nat) (short : Bool) (f : FrameInfo × Nat) : CodecCtx :=
  let kind := frameKind h f.1
  let kind := if kind = 0 && (short || decide (size < f.1.need)) then 1 else kind
  let n := c.pics.length
  let p : Picture := { upto := c.session.length, unit := c.units - 1, ix := f.2, info := { f.1 with kind }
                       refs := f.1.refs.map (fun s => NMap.find c.slots s) }
  let c := { c with pics := c.pics ++ [p]
                    slots := if kind = 2 then c.slots else f.1.refresh.foldl (fun m s => NMap.put m s n) c.slots }
  if h.std != 1 || f.1.layer == f.1.topLayer then c.insert n else c

/-- Take a coded unit: its frames, and the held ones that the decoder then releases (R301, R309). -/
def CodecCtx.unit (c : CodecCtx) (h : CodecHead) (bs : List Byte) (short : Bool) : CodecCtx :=
  let (out, fs) := Config.decodeUnit c.session bs
  let c := fs.zipIdx.foldl (fun (c : CodecCtx) f => c.picture h bs.length short f)
    { c with session := c.session ++ bs, units := c.units + 1 }
  { c with heldFrames := c.heldFrames ++ c.reorder.take out, reorder := c.reorder.drop out }

/-- The picture before another in display order, of those that are output. -/
def CodecCtx.previous (c : CodecCtx) (n : Nat) : Option Nat :=
  let order := fun (i : Nat) => (c.pics.getD i {}).info.order
  let early := (List.range c.pics.length).filter (fun i => decide (order i < order n) && (c.pics.getD i {}).info.kind != 2)
  early.find? (fun i => early.all (fun k => decide (order k ≤ order i)))

/-- What a decoded picture's statistics are measured on (R317): its samples after in-loop filtering and before film grain. -/
def CodecCtx.statSource (c : CodecCtx) (n : Nat) : StatSource :=
  let p := c.pics.getD n {}
  let session := c.session.take p.upto
  let hidden := p.hidden session
  { width := p.info.width, height := p.info.height
    now := fun y x => tenBit p.info.depth (c.sample n 0 y x)
    pred := fun y x => tenBit p.info.depth (Config.predicted session p.ix y x)
    prev := if c.frames = 0 then none else (c.previous n).map (fun m y x => tenBit p.info.depth (c.sample m 0 y x))
    block := Config.blockInfo session p.ix
    hidden := fun b => hidden.contains b
    away := fun r => match p.refs.getD r none with
      | some m => apart p.info.order (c.pics.getD m {}).info.order
      | none => 1 }

/-- Where a frame's coded unit lies in this command's input (R314). -/
def Decoding.unitOf (d : Decoding) (session : List Byte) (u : Nat) : Nat × Nat :=
  if d.first ≤ u then d.units.getD (u - d.first) (0, 0) else Config.pastUnit session u

/-- The samples of a decoded frame, at the places its slot gives them (R307, R313), and whether any was dropped. -/
def decodedWrites (j : Job) (h : CodecHead) (x : CodecSlot) (c : CodecCtx) (f : Nat) : List (Space × Nat × List Byte) × Bool :=
  let i := (c.pics.getD f {}).info
  let n := fmtBits h.fmt / 8
  let all := (x.planes h.chroma i.width i.height).flatMap (fun p => (p.elems n).map (fun e => (p, e)))
  let kept := all.filter (fun e => e.1.keeps j e.2.2.2 n)
  (kept.map (fun e =>
    let y := if e.1.twice then e.2.1 / 2 else e.2.1
    let z := if e.1.twice then e.2.2.1 / 2 else e.2.2.1
    (Space.job, e.2.2.2, leBytes n (sampleCode h.fmt i.depth (c.shown h f e.1.plane y z)))), decide (kept.length < all.length))

/-- The vector that a decode's record gives a block (R317). -/
def decodedVec (std : Nat) (i : BlockInfo) : Int × Int := if std = 1 then (toQuarter i.mvx, toQuarter i.mvy) else (i.mvx, i.mvy)

/-- Output one frame: a skipped one takes no slot (R312); another is written to the next slot, with its statistics (R313, R314,
R316), is concealed where it is damaged or names a reference never filled (R311, R312), and counts as a frame of the context. -/
def Decoding.output (d : Decoding) (j : Job) (a : CodecArgs) (h : CodecHead) (f : Nat) : Decoding :=
  let w := d.work
  let c := w.ctx
  let p := c.pics.getD f {}
  let i := p.info
  let u := d.unitOf c.session p.unit
  let rec0 : CodecRec := { frame := c.frames, depth := i.depth, quant := i.quant, width := i.width, height := i.height, off := u.1
                           len := u.2, order := i.order }
  if i.kind = 2 then { d with work := w.add a { rec0 with status := 0x0402 } [] [(0x10, 1)] }
  else
    let x := codecSlot j.run.mem a.table d.slot
    let (ws, clip) := decodedWrites j h x c f
    let stats := h.stats && x.stats != 0
    let recs := (c.statSource f).records (decodedVec h.std)
    let cx := complexity recs i.width i.height
    let (ss, sclip) := if stats then clippedBytes j x.stats x.statsSize (statBlock recs c.frames i.width i.height cx) else ([], false)
    let status := if clip then 0x0403 else if p.concealed then 0x0401 else 0
    let flags := b2n p.concealed + 2 * b2n (p.refConcealed c.pics) + 4 * b2n p.missing + 8 * b2n clip +
      16 * b2n (h.noGrain && i.grain) + 32 * b2n i.key + 512 * b2n sclip
    let r := { rec0 with status, flags, slot := d.slot, cx, hidden := (p.hidden (c.session.take p.upto)).length }
    let w := w.add a r (ws ++ ss) ([(0x00, 1)] ++ (if status = 0x0401 then [(0x08, 1)] else []) ++ (if clip || sclip then [(0x18, 1)] else []))
    { d with work := { w with ctx := { w.ctx with frames := w.ctx.frames + 1 } }, slot := d.slot + 1 }

/-! ### Units (R309, R310) -/

/-- Output the frames that the decoder has released, until the result table is full or a frame finds no slot left (R309). -/
def Decoding.release (d : Decoding) (j : Job) (a : CodecArgs) (h : CodecHead) (fs : List Nat) : Decoding :=
  match fs with
  | [] => { d with work := { d.work with ctx := { d.work.ctx with heldFrames := [] } } }
  | f :: rest =>
    if a.cap ≤ d.work.recs || ((d.work.ctx.pics.getD f {}).info.kind != 2 && decide (a.slots ≤ d.slot)) then
      { d with stopped := true, work := { d.work with ctx := { d.work.ctx with heldFrames := f :: rest } } }
    else (d.output j a h f).release j a h rest

/-- Where the last start code of a byte stream begins, from byte `i` on; `last` where there is none. -/
def lastStart (bs : List Byte) (i last : Nat) : Nat :=
  match bs with
  | [] => last
  | b :: rest => lastStart rest (i + 1) (if (b :: rest).take 3 == [0, 0, 1] then i else last)

/-- A length of the AV1 length-delimited format, in groups of 7 bits, lowest first: value and bytes. -/
def leb128 (bs : List Byte) (fuel shift : Nat) : Option (Nat × Nat) :=
  match fuel, bs with
  | k + 1, b :: rest =>
    if b.toNat < 128 then some (b.toNat * 2 ^ shift, 1)
    else (leb128 rest k (shift + 7)).map (fun r => (b.toNat % 128 * 2 ^ shift + r.1, r.2 + 1))
  | _, _ => none

/-- Bytes that the unit at the front of the input declares, 0 where none begins, and bytes of the input that may belong to it: of an Annex
B byte stream, those before its last start code unless FLUSH is set (R301, R309). -/
def unitExtent (h : CodecHead) (session rest : List Byte) (flush : Bool) : Nat × Nat :=
  let whole := if (h.std == 2 || h.std == 3) && !flush then rest.take (lastStart rest 0 0) else rest
  let n := if h.std == 1 && h.form == 1 then
      (match leb128 rest 8 0 with | some (v, k) => k + v | none => 0)
    else Config.unitLength h.std session whole
  (n, whole.length)

/-- Take one coded unit from the input: an incomplete one ends the command, or with FLUSH is decoded as far as it goes; at the input's
end FLUSH releases what the decoder still holds (R309, R310). -/
def Decoding.unit (d : Decoding) (a : CodecArgs) (h : CodecHead) (input : List Byte) : Decoding :=
  let c := d.work.ctx
  let rest := input.drop d.pos
  if rest = [] then
    if a.flush && !d.flushed then
      { d with flushed := true, work := { d.work with ctx := { c with heldFrames := c.heldFrames ++ c.reorder, reorder := [] } } }
    else { d with stopped := true }
  else
    let (n, whole) := unitExtent h c.session rest a.flush
    if (n = 0 || whole < n) && !a.flush then { d with stopped := true }
    else
      let m := if n = 0 then rest.length else min n rest.length
      { d with pos := d.pos + m, units := d.units ++ [(d.pos, m)]
               work := { d.work with ctx := c.unit h (rest.take m) (decide (m < n)) } }

/-- Decode until one of the four events of R309. Each turn takes at least one byte of input, or is the last. -/
def Decoding.run (d : Decoding) (j : Job) (a : CodecArgs) (h : CodecHead) (input : List Byte) (fuel : Nat) : Decoding :=
  match fuel with
  | 0 => d
  | k + 1 =>
    let d := d.release j a h d.work.ctx.heldFrames
    if d.stopped || decide (a.cap ≤ d.work.recs) then d
    else
      let d := d.unit a h input
      if d.stopped then d else d.run j a h input k

/-- A decode from start to end. -/
def Job.decode (j : Job) (q : QCmd) : JobRun :=
  let a := codecArgs q.cmd.desc
  let bs := memRead j.run.mem a.ctx 256
  let h := codecHead bs
  let c := j.codecStart a
  let d := ({ work := { ctx := c }, first := c.units } : Decoding).run j a h (memRead j.run.mem a.data a.len) (a.len + 3)
  j.run.endCodec j q a h d.work d.pos

/-! ## Encoding (R319 to R324) -/

/-- A frame is a key frame (R319). -/
def isKey (c : CodecCtx) (h : CodecHead) (x : CodecSlot) : Bool :=
  c.frames == 0 || x.forceKey || (h.keyint != 0 && decide (c.lastKey + h.keyint ≤ c.frames))

/-- The reference frames of the next frame, by index since OPEN: LAST, LAST2 and GOLDEN (R319). Where the last key frame was the one
before, LAST2 is that frame too (log entry 13). -/
def encoderRefs (c : CodecCtx) : List Nat := [c.frames - 1, max c.lastKey (c.frames - 2), c.golden]

/-- The levels of AV1, lowest first: seq_level_idx, greatest picture size, width, height and luma samples shown a second. PRESUMED: the
table of the AV1 standard, which the spec only cites (R319; log entry 137). -/
def av1Levels : List (Nat × Nat × Nat × Nat × Nat) :=
  [(0, 147456, 2048, 1152, 4423680), (1, 278784, 2816, 1584, 8363520), (4, 665856, 4352, 2448, 19975680),
   (5, 1065024, 5504, 3096, 31950720), (8, 2359296, 6144, 3456, 70778880), (9, 2359296, 6144, 3456, 141557760),
   (12, 8912896, 8192, 4352, 267386880), (13, 8912896, 8192, 4352, 534773760), (14, 8912896, 8192, 4352, 1069547520),
   (16, 35651584, 16384, 8704, 1069547520), (17, 35651584, 16384, 8704, 2139095040), (18, 35651584, 16384, 8704, 4278190080)]

/-- seq_level_idx of a stream: the lowest level that admits its picture size, dimensions and display rate, or 6.3, which is 19
(R319). -/
def seqLevel (width height num den : Nat) : Nat :=
  ((av1Levels.find? (fun l => decide (width * height ≤ l.2.1) && decide (width ≤ l.2.2.1) && decide (height ≤ l.2.2.2.1) &&
    decide (width * height * num ≤ l.2.2.2.2 * den))).map (·.1)).getD 19

/-- Tile columns: the fewest of at most 4,096 samples (R319). -/
def tileCols (width : Nat) : Nat := cdiv width 4096

/-- The windows that the search loads whole at the first superblock of a row: 256 samples to its left and right and 128 above and
below, for each of the three references (R323, R324). -/
def rowWindows (row : Nat) : List SearchWindow :=
  (List.range 3).map (fun r => { ref := r, left := -256, top := 64 * (row : Int) - 128 })

/-- At each later superblock the window slides right by one strip of 64 columns (R324). -/
def SearchWindow.slide (w : SearchWindow) : SearchWindow := { w with left := w.left + 64 }

/-- The windows around the superblock in a column of a row. -/
def windowsAt (row col : Nat) : List SearchWindow :=
  (rowWindows row).map (fun w => (List.range col).foldl (fun (w : SearchWindow) _ => w.slide) w)

/-- Columns and rows of a window, the strip being loaded included (R323). -/
def windowCols : Nat := 640
def windowRows : Nat := 320

/-- A sample of a window of `session`'s frame: outside the frame it is the nearest edge sample (R324). -/
def SearchWindow.sample (w : SearchWindow) (session : List Byte) (width height y x : Nat) : Nat :=
  let at' := fun (o : Int) (i n : Nat) => (max 0 (min ((n : Int) - 1) (o + i))).toNat
  Config.reconSample session (at' w.top y height) (at' w.left x width) % 2 ^ 10

/-- What the search of an inter frame sees of its references: by superblock, reference, row and column of the window, and nothing
outside it (R323). -/
def CodecCtx.search (c : CodecCtx) (h : CodecHead) (key : Bool) (sb ref y x : Nat) : Nat :=
  let cols := cdiv h.width 64
  if key || windowRows ≤ y || windowCols ≤ x then 0
  else
    let past := c.session.take (c.pics.getD ((encoderRefs c).getD ref 0) {}).upto
    ((windowsAt (sb / cols) (sb % cols)).getD ref {}).sample past h.width h.height y x

/-- The columns of the frame that a window newly holds for a superblock column: all of it at a row's start, then a strip (R324). -/
def newCols (width col : Nat) : Nat :=
  let lo := if col = 0 then 0 else 64 * col + 256
  min width (64 * col + 320) - lo

/-- The rows of the frame that a window holds. -/
def heldRows (height row : Nat) : Nat := min height (64 * row + 192) - (64 * row - 128)

/-- Bytes that a superblock's step reads of the pool for each reference: samples outside the frame are formed without reading (R324). -/
def CodecHead.stepBytes (h : CodecHead) (row col : Nat) : Nat :=
  newCols h.width col * heldRows h.height row * (if h.depth = 8 then 1 else 2)

/-- What the search of an inter frame reads of the reference pool, a range for each step and reference (R324). -/
def CodecHead.searchReads (h : CodecHead) : List (Nat × Nat) :=
  (List.range (cdiv h.height 64)).flatMap (fun row => (List.range (cdiv h.width 64)).flatMap (fun col =>
    (List.range 3).filterMap (fun ref =>
      let n := min h.poolSize (h.stepBytes row col)
      if n = 0 then none else some (h.pool + Config.poolPlace (3 * (row * 128 + col) + ref) % (h.poolSize - n + 1), n))))

/-- A vector that the encoder chooses stays within 252 samples across and 124 down, in quarter samples (R323). -/
def encodedVec (i : BlockInfo) : Int × Int :=
  let hold := fun (b v : Int) => max (-b) (min b v)
  (hold (4 * 252) i.mvx, hold (4 * 124) i.mvy)

/-- The samples of an input slot, and whether any was clamped (R307). -/
def inputFrame (j : Job) (h : CodecHead) (x : CodecSlot) : List (Nat × Bool) :=
  let n := fmtBits h.fmt / 8
  ((x.planes 0 h.width h.height).flatMap (fun p => p.elems n)).map (fun e => codeSample h.fmt h.depth (memWord j.run.mem e.2.2 n))

/-- Bits available to the next frame under the cap: its window is the last `N` frames, itself included (R320). -/
def bitsLeft (c : CodecCtx) (h : CodecHead) : Nat := h.cap - ((c.bits.reverse.take (h.window - 1)).sum)

/-- The least quantiser from `lo` to `hi` at which a frame fits, by bisection (R321). -/
def bisect (bits : Nat → Nat) (avail lo hi fuel : Nat) : Nat :=
  match fuel with
  | 0 => lo
  | k + 1 =>
    if lo < hi then
      let mid := (lo + hi) / 2
      if bits mid ≤ avail then bisect bits avail lo mid k else bisect bits avail (mid + 1) hi k
    else lo

/-- The quantiser of a frame, with CAP_RAISED and CAP_EXCEEDED (R320, R321). -/
def capped (bits : Nat → Nat) (h : CodecHead) (avail : Nat) : Nat × Bool × Bool :=
  if h.cap = 0 || bits h.target ≤ avail then (h.target, false, false)
  else if avail < bits 255 then (255, false, true)
  else (bisect bits avail (h.target + 1) 255 8, true, false)

/-- The temporal unit of a frame: a temporal delimiter (an OBU of type 2 and no payload), before a key frame a sequence header, and the
frame's OBUs, whose search sees the reference windows alone (R319, R323; log entry 137). -/
def temporalUnit (c : CodecCtx) (h : CodecHead) (head session : List Byte) (key : Bool) (q : Nat) : List Byte :=
  let level := seqLevel h.width h.height (headWord head 40 4) (headWord head 44 4)
  [0x12, 0x00] ++ (if key then Config.seqHeader level (head.take 64) else []) ++
    Config.frameObus session (tileCols h.width) (c.search h key) q

/-- What an encoded frame's statistics are measured on (R317): the source frame. -/
def CodecCtx.sourceStats (c : CodecCtx) (h : CodecHead) (session : List Byte) (luma : List Nat) : StatSource :=
  let at' := fun (xs : List Nat) (y x : Nat) => tenBit h.depth (xs.getD (y * h.width + x) 0)
  { width := h.width, height := h.height, now := at' luma
    pred := fun y x => tenBit h.depth (Config.predicted session 0 y x)
    prev := if c.frames = 0 then none else some (at' c.before)
    block := Config.blockInfo session 0
    hidden := fun _ => false
    away := fun r => c.frames - (encoderRefs c).getD r 0 }

/-- Encode the frame that the encode is at; a unit that does not fit stops the command before the frame (R322). -/
def Encoding.frame (e : Encoding) (j : Job) (a : CodecArgs) (h : CodecHead) (head : List Byte) : Encoding :=
  if e.full then e
  else
    let c := e.work.ctx
    let x := codecSlot j.run.mem a.table e.at'
    let key := isKey c h x
    let ys := inputFrame j h x
    let luma := (ys.take (h.width * h.height)).map (·.1)
    let session := c.session ++ leBytes 1 (b2n key) ++ (head.drop 4).take 44 ++ ys.flatMap (fun y => leBytes 2 y.1)
    let bits := fun (q : Nat) => 8 * (temporalUnit c h head session key q).length
    let (q, raised, exceeded) := capped bits h (bitsLeft c h)
    let unit := temporalUnit c h head session key q
    if a.len < e.pos + unit.length then { e with full := true, work := { e.work with status := max e.work.status 0x0403 } }
    else
      let clamp := ys.any (·.2)
      let recs := (c.sourceStats h session luma).records encodedVec
      let cx := complexity recs h.width h.height
      let (ss, sclip) :=
        if h.stats && x.stats != 0 then clippedBytes j x.stats x.statsSize (statBlock recs c.frames h.width h.height cx) else ([], false)
      let flags := 32 * b2n key + 64 * b2n raised + 128 * b2n exceeded + 256 * b2n clamp + 512 * b2n sclip
      let r : CodecRec := { frame := c.frames, flags, depth := h.depth, quant := q, slot := e.at', width := h.width, height := h.height, cx
                            off := e.pos, len := unit.length, order := c.frames }
      let w := e.work.add a r ((Space.job, a.data + e.pos, unit) :: ss)
        ([(0x20, 1), (0x28, 8 * unit.length)] ++ (if raised || exceeded then [(0x30, 1)] else []) ++ (if exceeded then [(0x38, 1)] else []) ++
          (if clamp then [(0x48, 1)] else []) ++ (if sclip then [(0x18, 1)] else []))
      let coded := session ++ leBytes 1 q
      let golden := key || decide (c.golden + h.golden ≤ c.frames)
      let c' := { c with session := coded, frames := c.frames + 1, bits := c.bits ++ [8 * unit.length], before := luma
                         pics := c.pics ++ [{ upto := coded.length }], golden := if golden then c.frames else c.golden
                         lastKey := if key then c.frames else c.lastKey }
      { work := { w with ctx := c' }, at' := e.at' + 1, pos := e.pos + unit.length }

/-- The fields of a codec command's context header, and its bytes. -/
def Job.headOf (j : Job) (q : QCmd) : CodecHead × List Byte :=
  let bs := memRead j.run.mem (codecArgs q.cmd.desc).ctx 256
  (codecHead bs, bs)

/-- An encode as it stands: where it starts, or with the frames that it has completed (R326). -/
def Job.encodingOf (j : Job) (q : QCmd) : Encoding :=
  q.enc.getD { work := { ctx := j.codecStart (codecArgs q.cmd.desc) } }

/-- The encode has no frame left. -/
def Encoding.over (e : Encoding) (a : CodecArgs) : Bool := e.full || decide (a.slots ≤ e.at')

/-- Encode the frames that need no search, up to the next that does or the end: the encode, and the window loads that the search then
waits for, one for each row of superblocks, 0 at the end (R323, R324). -/
def Job.encodeOn (j : Job) (q : QCmd) (fuel : Nat) (e : Encoding) : Encoding × Nat :=
  let a := codecArgs q.cmd.desc
  let (h, bs) := j.headOf q
  match fuel with
  | 0 => (e, 0)
  | k + 1 =>
    if e.over a then (e, 0)
    else if isKey e.work.ctx h (codecSlot j.run.mem a.table e.at') then j.encodeOn q k (e.frame j a h bs)
    else (e, cdiv h.height 64)

/-- The superblock row whose windows a search waits for, with `loads` still to come of frames of `height` lines. -/
def rowOf (height loads : Nat) : Nat := cdiv height 64 - loads

/-- What a codec command reads of job memory as it starts, by first address and bytes: context, slot table, and its bitstream with the
reference pool, or its input frames (R298, R310). How much of the pool a decode reads is not stated: it is charged once, whole (log
entry 13). -/
def Job.codecReads (j : Job) (q : QCmd) : List (Nat × Nat) :=
  let a := codecArgs q.cmd.desc
  let h := (j.headOf q).1
  let n := fmtBits h.fmt / 8
  let frames := (List.range a.slots).flatMap (fun i => (codecSlot j.run.mem a.table i).planes 0 h.width h.height)
  let input := if h.encodes then frames.flatMap (fun p => (List.range p.rows).map (fun y => (p.start + y * p.rs, p.cols * n)))
    else [(h.pool, h.poolSize), (a.data, a.len)]
  [(a.ctx, 4096), (a.table, 64 * a.slots)] ++ input

/-! ## Engines (R298, R299, R324) -/

/-- The command is a codec command. -/
def QCmd.isCodec (q : QCmd) : Bool := q.cmd.desc.opcode == 0x40 || q.cmd.desc.opcode == 0x41

/-- A dispatched codec command that no earlier command of its context holds back (R299). -/
def JobRun.codecReady (r : JobRun) (q : QCmd) : Bool :=
  q.isCodec && q.phase == 1 && (r.queue.takeWhile (fun x => x.uid != q.uid)).all (fun x => !(x.isCodec && x.cmd.desc.w8 == q.cmd.desc.w8))

/-- An encode goes on at an engine from where it stands: to its end, or to the next frame whose search waits for its windows. The frames
completed stay with the command (R326). -/
def State.encodeAt (s : State) (k n : Nat) (q : QCmd) (e : Encoding) : State :=
  let j := s.job k
  let a := codecArgs q.cmd.desc
  let (e, loads) := j.encodeOn q (a.slots + 1) e
  if loads = 0 then
    { s.setJob k { j with run := j.run.endCodec j q a (j.headOf q).1 e.work e.pos } with
      codecs := s.codecs.set n (s.codecs.getD n {}).idle }
  else
    let s := s.setJob k { j with run := j.run.setQ { q with phase := 2, engine := n, enc := some e } }
    ({ s with codecs := s.codecs.set n { inService := true, busy := some q.uid, loads, windows := rowWindows 0 } } : State).hubReads k 4
      (j.headOf q).1.searchReads

/-- Give a ready command an engine: a decode runs to its end, an encode until its search waits. Reading withheld data waits (R492). -/
def State.startCodec (s : State) (k e : Nat) (q : QCmd) : State :=
  let j := s.job k
  if j.readsWait (j.codecReads q) then s
  else
    let s := s.hubReads k 4 (j.codecReads q)
    let j := s.job k
    if q.cmd.desc.opcode = 0x40 then s.setJob k { j with run := j.decode q } else s.encodeAt k e q (j.encodingOf q)

/-- A free engine in service. -/
def State.freeEngine (s : State) : Option Nat :=
  let n := s.codecs.findIdx (fun e => e.inService && e.busy.isNone)
  if n < s.codecs.length then some n else none

/-- A codec command of the running job is dispatched: refused or ended by R304, or at work at once where its context and an engine
are free, or waiting (R298). -/
def State.codecCmd (s : State) (c : Cmd) : State :=
  match s.jobOf c with
  | none => s
  | some k =>
    match (s.job k).waitingFor c with
    | (j, none) => s.setJob k j
    | (j, some q) =>
      let prior := j.run.queue.takeWhile (fun x => x.uid != q.uid)
      if prior.any (fun x => x.isCodec && x.cmd.desc.w8 == q.cmd.desc.w8) then s.setJob k j
      else
        match j.codecRefusal c.desc with
        | some st => s.setJob k { j with run := j.run.refuse q st }
        | none =>
          let q := { q with phase := 1 }
          let s := s.setJob k { j with run := j.run.setQ q }
          match s.freeEngine with
          | some e => s.startCodec k e q
          | none => s

def execCodecDecode (c : Cmd) (s : State) : Host.Outcome State Fault Refusal := checked s (c.desc.opcode == 0x40) (s.codecCmd c)

def execCodecEncode (c : Cmd) (s : State) : Host.Outcome State Fault Refusal := checked s (c.desc.opcode == 0x41) (s.codecCmd c)

/-- CODEC_DISPATCH (R298): the oldest waiting command starts on an engine that has become free. -/
def execCodecDispatch (s : State) : Host.Outcome State Fault Refusal :=
  .next (
    match s.runningJob, s.freeEngine with
    | some k, some e =>
      match (s.job k).run.queue.find? (fun q => (s.job k).run.codecReady q) with
      | some q => s.startCodec k e q
      | none => s
    | _, _ => s)

/-- CODEC_WINDOW_LOADED (R324, R329): a load that the search of an engine waited for completes; with the last one of a frame that frame
is coded, and the encode goes on. -/
def State.windowLoaded (s : State) (e : Nat) : State :=
  let x := s.codecs.getD e {}
  match s.runningJob, x.busy with
  | some k, some uid =>
    let j := s.job k
    let r := j.run.count 0x240 1
    let s := s.setJob k { j with run := r }
    match r.findQ uid with
    | none => { s with codecs := s.codecs.set e x.idle }
    | some q =>
      let (h, bs) := j.headOf q
      if 1 < x.loads then
        { s with codecs := s.codecs.set e { x with loads := x.loads - 1, windows := rowWindows (rowOf h.height (x.loads - 1)) } }
      else s.encodeAt k e q ((j.encodingOf q).frame j (codecArgs q.cmd.desc) h bs)
  | _, _ => s

def execCodecWindowLoaded (engine : Nat) (s : State) : Host.Outcome State Fault Refusal :=
  checked s (decide (engine < 16)) (s.windowLoaded engine)

end Sys2Proof.Machine
end

