-- ==== Sys2Proof/Machine/Planar.lean ====
section
/-! DEFINITION. Planar tensors and the geometry that the convolution commands share (R238 to R243, R255, R256). -/

namespace Sys2Proof.Machine

/-! ## The convolution control block (R240) -/

/-- A convolution control block. -/
structure ConvBlk where
  kh : Nat
  kw : Nat
  sy : Nat
  sx : Nat
  dy : Nat
  dx : Nat
  mode : Nat
  flags : Nat
  top : Nat
  bottom : Nat
  left : Nat
  right : Nat
  cin : Nat
  cout : Nat
  inT : Nat
  outT : Nat
  hreg : Nat
  wreg : Nat
  yreg : Nat
  iyreg : Nat
  nr : Nat
  ir : Nat
  inRs : Nat
  inPs : Nat
  outRs : Nat
  outPs : Nat
  work : Nat
  workSize : Nat
  g : Nat
  deriving DecidableEq, Repr

/-- The fields of 64 B from an address of some bytes. -/
def convFields (b : NMap Byte) (a : Nat) : ConvBlk :=
  let w := fun (o n : Nat) => memWord b (a + o) n
  { kh := w 0 1, kw := w 1 1, sy := w 2 1, sx := w 3 1, dy := w 4 1, dx := w 5 1, mode := w 6 1, flags := w 7 1
    top := w 8 2, bottom := w 10 2, left := w 12 2, right := w 14 2, cin := w 16 2, cout := w 18 2, inT := w 20 2
    outT := w 22 2, hreg := w 24 1, wreg := w 25 1, yreg := w 26 1, iyreg := w 27 1, nr := w 28 2, ir := w 30 2
    inRs := w 32 4, inPs := w 36 4, outRs := w 40 4, outPs := w 44 4, work := w 48 4, workSize := w 52 4, g := w 56 1 }

/-- The convolution control block at an index. -/
def CoreSec.convBlk (c : CoreSec) (index : Nat) : ConvBlk := convFields (c.block (16 * index) 64) 0

/-! ## Geometry (R241, R255, R256) -/

/-- A command's geometry: run-time height and width, output extents, first row or tile, and first input row held. -/
structure ConvGeo where
  b  : ConvBlk
  h  : Nat
  w  : Nat
  oh : Nat
  ow : Nat
  y0 : Nat
  iy : Nat

/-- Positions of a window along an axis; 0 where there are none. -/
def outExtent (n before after d k s : Nat) : Nat :=
  let span := (n + before + after : Int) - d * (k - 1 : Nat) - 1
  if span < 0 || s = 0 then 0 else (span / s + 1).toNat

/-- The geometry of a command with its registers read. -/
def ConvBlk.geo (b : ConvBlk) (i : Image) (c : Core) : ConvGeo :=
  let h := if b.hreg = 0 then (i.limit b.inT 3).getD 0 else (c.reg b.hreg).toNat
  let w := if b.wreg = 0 then (i.limit b.inT 4).getD 0 else (c.reg b.wreg).toNat
  { b, h, w, oh := outExtent h b.top b.bottom b.dy b.kh b.sy, ow := outExtent w b.left b.right b.dx b.kw b.sx
    y0 := (c.reg b.yreg).toNat, iy := (c.reg b.iyreg).toNat }

/-- No output at all. -/
def ConvGeo.hollow (g : ConvGeo) : Bool := g.h == 0 || g.w == 0 || g.oh == 0 || g.ow == 0

/-- Output rows of a CONV or POOL. -/
def ConvGeo.rows (g : ConvGeo) : Nat := min (g.y0 + g.b.nr) g.oh - g.y0

/-- The run-time height or width, the channels, or the rows of the batch are above a shape limit of the block's tensors
(R54, R256). -/
def ConvGeo.tall (g : ConvGeo) (i : Image) (rows : Nat) : Bool :=
  i.over [g.b.inT] 3 g.h || i.over [g.b.inT] 4 g.w || i.over [g.b.inT] 2 g.b.cin || i.over [g.b.outT] 2 g.b.cout ||
    i.over [g.b.inT, g.b.outT] 0 rows

/-- A planar layout keeps its elements apart (R238): channels, rows, bytes of a row, and the two strides. -/
def planarOk (c rows rowBytes rs ps : Nat) : Bool :=
  (decide (rowBytes ≤ rs) && decide (rows * rs ≤ ps)) || (decide (rowBytes ≤ ps) && decide (c * ps ≤ rs))

/-! ## Padding (R61, R242) -/

/-- The index that an axis supplies: its own, the one that MIRROR or EDGE maps to, or none for a padding value. -/
def padIndex (mode : Nat) (u : Int) (n : Nat) : Option Nat :=
  if 0 ≤ u && u < n then some u.toNat
  else
    match mode with
    | 2 =>
      if n = 1 then some 0
      else
        let q := 2 * (n - 1)
        let v := (u % q).toNat
        some (if v < n then v else q - v)
    | 3 => some (min (max u 0).toNat (n - 1))
    | _ => none

/-- The quiet NaN that a padding value becomes, in a format that holds one (R61). -/
def quietNan (f : Nat) : Nat :=
  match f with
  | 2 => 0x7F | 3 => 0x7E | 9 => 0x7FC0 | 10 => 0x7E00 | _ => 0x7FC00000

/-- The code of a value in a two's-complement format that uses only −top to top (R61, R522). -/
def symCode (n : Nat) (top : Int) (v : Num) : Nat :=
  match v with
  | .inf neg => codeOf n (if neg then -top else top)
  | _ => codeOf n (max (-top) (min top (v.toInt.getD 0)))

/-- The code of an infinity in an MX format: its own in MXFP8-E5M2, else that of the largest finite magnitude. -/
def mxInf (f : Nat) (neg : Bool) : Nat :=
  if f = 1 then codeOf 8 (if neg then -127 else 127)
  else b2n neg * 2 ^ (fmtBits f - 1) + (if f = 3 then 0x7C else mxMaxCode f)

/-- A padding value as the tensor's format holds it: an element code at unit scale where elements share one (R61). -/
def padCode (f : Nat) (v : Num) : Nat :=
  match v with
  | .nan _ => quietNan f
  | .inf neg => if isMx f then mxInf f neg else if f = 7 then symCode 4 7 v else if f = 8 then symCode 2 1 v else (quantElem f v).1
  | .fin .. => if isMx f then (mxElem f 0 v).1 else if f = 7 then symCode 4 7 v else if f = 8 then symCode 2 1 v else (quantElem f v).1

/-- The unit scale of a format, as a block or group wholly of padding takes it (R61). -/
def unitScale (f : Nat) : Nat := if isMx f then 127 else if f = 7 ∨ f = 8 then 0x3F80 else 0

/-- A block or group filled up to `n` elements with a padding code: one wholly of padding takes unit scale, and one that mixes
padding with data keeps the scale of its data (R61). -/
def Blk.padTo (b : Blk) (f n code : Nat) : Blk :=
  { scale := if b.codes.isEmpty then unitScale f else b.scale, codes := b.codes ++ List.replicate (n - b.codes.length) code }

/-- The padding value of a tensor on a core. -/
def CoreSec.padOf (c : CoreSec) (t f : Nat) : Nat :=
  match c.pads.find? (fun p => p.1 == t) with
  | some p => padCode f (f32 p.2.toNat)
  | none => 0

/-! ## The input window (R238, R243) -/

/-- An input window: base, geometry, format and padding code. -/
structure ConvWin where
  base : Nat
  geo  : ConvGeo
  fmt  : Nat
  pad  : Nat

/-- Bytes of an element. -/
def ConvWin.size (x : ConvWin) : Nat := fmtBits x.fmt / 8

/-- The address of an element of the window, by channel, input row and column. -/
def ConvWin.addr (x : ConvWin) (c y col : Nat) : Int :=
  x.base + c * x.geo.b.inPs + ((y : Int) - x.geo.iy) * x.geo.b.inRs + col * x.size

/-- The code at an input position, and whether PAD_MODE supplies it. -/
def ConvWin.code (x : ConvWin) (m : NMap Byte) (c : Nat) (y col : Int) : Nat × Bool :=
  let out := !(decide (0 ≤ y) && decide (y < x.geo.h) && decide (0 ≤ col) && decide (col < x.geo.w))
  match padIndex x.geo.b.mode y x.geo.h, padIndex x.geo.b.mode col x.geo.w with
  | some r, some k => (memWord m (x.addr c r k).toNat x.size, out)
  | _, _ => (if x.geo.b.mode = 1 then x.pad else 0, out)

/-- The first row among some input rows that the window must hold and does not: as the address where it would lie
(R243). -/
def ConvWin.missing (x : ConvWin) (ys : List Int) : Option Nat :=
  let rows := ys.filterMap (fun y => padIndex x.geo.b.mode y x.geo.h)
  (rows.find? (fun y => !(decide (x.geo.iy ≤ y) && decide (y < x.geo.iy + x.geo.b.ir)))).map (fun y =>
    (x.addr 0 y 0 % 2 ^ 64).toNat)

/-- The input rows that output rows from `y`, `n` of them, reach: those of every tap. -/
def ConvGeo.tapRows (g : ConvGeo) (y n : Nat) : List Int :=
  (List.range n).flatMap (fun r => (List.range g.b.kh).map (fun i =>
    ((y + r) * g.b.sy : Int) - g.b.top + i * g.b.dy))

/-- The input position of a tap of an output pixel (R241). -/
def ConvGeo.tap (g : ConvGeo) (y x i j : Nat) : Int × Int :=
  ((y * g.b.sy : Int) - g.b.top + i * g.b.dy, (x * g.b.sx : Int) - g.b.left + j * g.b.dx)

end Sys2Proof.Machine
end

