-- ==== Sys2Proof/Machine/Breach.lean ====
section
/-! DEFINITION. The checks that firing makes of fields, and those of a convolution control block, which a POOL whose block firing
cannot know meets as it runs (R67, R142, R238 to R240, R247, R250, R252, R257). A breach is a byte offset within its section and
a reason of R70. -/

namespace Sys2Proof.Machine

/-- A breach of a check: byte offset in the section, and reason (R69, R70). -/
abbrev Breach := Nat × Nat

/-- One check: a breach where the rule is broken. -/
def breach (bad : Bool) (off reason : Nat) : List Breach := if bad then [(off, reason)] else []

/-- A field outside its range, reason FIELD_RANGE. -/
def range (bad : Bool) (off : Nat) : List Breach := breach bad off 0x031

/-- Reserved bytes that must be 0, reason RESERVED_NONZERO, reported at their first byte. -/
def reserved (bs : List Byte) (at' off n : Nat) : List Breach :=
  breach (!(((bs.drop off).take n).all (· == 0))) (at' + off) 0x030

/-- The breach that a step reports: the lowest offset (R67). -/
def firstBreach (bs : List Breach) : Option Breach :=
  bs.foldl (fun (m : Option Breach) b => match m with
    | none => some b
    | some x => if b.1 < x.1 then some b else m) none

/-- A tensor identifier: unknown is TENSOR_REF; one read from job memory must have a peat address (R53). -/
def tensorRef (i : Image) (t off : Nat) (peat : Bool) : List Breach :=
  if i.tensors.length ≤ t then [(off, 0x038)] else range (peat && (i.tensor t).addr == 0) off

/-- A tensor field that is used, or must be 0xFFFF. -/
def tensorField (i : Image) (used : Bool) (t off : Nat) : List Breach :=
  if used then tensorRef i t off true else range (t != 0xFFFF) off

/-- An FP32 pattern is finite (R142). -/
def finite32 (w : Nat) : Bool := !(f32 w).nonfinite

/-- An FP32 pattern is below another. -/
def less32 (a b : Nat) : Bool := (f32 a).cmp (f32 b) == some .lt

/-- Formats accepted as activations (R75). -/
def actFmt (f : Nat) : Bool := decide (1 ≤ f) && decide (f ≤ 13) && f != 11

/-- Formats accepted as weights (R75). -/
def wgtFmt (f : Nat) : Bool := [1, 2, 4, 5, 6, 7, 8, 12].contains f

/-- Formats of planar tensors (R239). -/
def planarFmt (f : Nat) : Bool := decide (9 ≤ f) && decide (f ≤ 13)

/-! ## The convolution control block (R240, R247, R250, R252) -/

/-- The commands that name a convolution control block. -/
inductive ConvKind where
  | conv
  | fconv
  | pool
  deriving DecidableEq, Repr

/-- The side of an FCONV tile (R247). -/
def ConvBlk.side (b : ConvBlk) : Nat := if b.flags.testBit 0 then 128 else 64

/-- Least work region of an FCONV (R250). -/
def ConvBlk.workNeed (b : ConvBlk) : Nat :=
  b.g * (b.side * (b.side / 2 + 1)) * (4 * b.cin + 8 * b.cout) + 16 * b.side * b.side

/-- Kernel, stride, dilation and padding. -/
def ConvBlk.kernel (b : ConvBlk) (kind : ConvKind) (at' : Nat) : List Breach :=
  let top := if kind = .conv then 7 else 63
  let freq := kind == .fconv
  let half := b.side / 2 + 1
  let inR := fun (v lo hi : Nat) => decide (lo ≤ v) && decide (v ≤ hi)
  range (!inR b.kh 1 top || (freq && decide (half < b.dy * (b.kh - 1) + 1))) at' ++
  range (!inR b.kw 1 top || (freq && decide (half < b.dx * (b.kw - 1) + 1))) (at' + 1) ++
  range (!inR b.sy 1 8) (at' + 2) ++ range (!inR b.sx 1 8) (at' + 3) ++ range (!inR b.dy 1 8) (at' + 4) ++
  range (!inR b.dx 1 8) (at' + 5) ++ range (decide (3 < b.mode)) (at' + 6) ++ range (decide (1 < b.flags)) (at' + 7) ++
  range (decide (b.dy * (b.kh - 1) < b.top)) (at' + 8) ++ range (decide (b.dy * (b.kh - 1) < b.bottom)) (at' + 10) ++
  range (decide (b.dx * (b.kw - 1) < b.left)) (at' + 12) ++ range (decide (b.dx * (b.kw - 1) < b.right)) (at' + 14)

/-- The planned output height and width of a block (R240, R241). -/
def ConvBlk.planned (b : ConvBlk) (i : Image) : Nat × Nat :=
  (outExtent ((i.limit b.inT 3).getD 0) b.top b.bottom b.dy b.kh b.sy,
   outExtent ((i.limit b.inT 4).getD 0) b.left b.right b.dx b.kw b.sx)

/-- A planar tensor that a block names (R239). -/
def planarRef (i : Image) (t off : Nat) : List Breach :=
  tensorRef i t off false ++ range (decide (t < i.tensors.length) && !planarFmt (i.tensor t).fmt) off

/-- Channels, tensors, registers, rows and strides. The output window holds elements of the output format. A planned output
width above 4,096 is reported at the input tensor, whose limits give it (R257). -/
def ConvBlk.planes (b : ConvBlk) (i : Image) (kind : ConvKind) (outFmt at' : Nat) : List Breach :=
  let inR := fun (v lo hi : Nat) => decide (lo ≤ v) && decide (v ≤ hi)
  let freq := kind == .fconv
  let out := b.planned i
  let rowOf := fun (n f : Nat) => n * fmtBits f / 8
  range (!inR b.cin 1 4096) (at' + 16) ++ range (!inR b.cout 1 4096 || (kind == .pool && b.cout != b.cin)) (at' + 18) ++
  planarRef i b.inT (at' + 20) ++ range (!freq && decide (4096 < out.2)) (at' + 20) ++ planarRef i b.outT (at' + 22) ++
  range (decide (31 < b.hreg)) (at' + 24) ++ range (decide (31 < b.wreg)) (at' + 25) ++
  range (decide (31 < b.yreg)) (at' + 26) ++ range (decide (31 < b.iyreg)) (at' + 27) ++
  range (if freq then b.nr != 0 else !inR b.nr 1 4096) (at' + 28) ++ range (b.ir == 0) (at' + 30) ++
  range (b.inRs % 64 != 0 || !planarOk b.cin b.ir (rowOf ((i.limit b.inT 4).getD 0) (i.tensor b.inT).fmt) b.inRs b.inPs)
    (at' + 32) ++
  range (b.inPs % 64 != 0) (at' + 36) ++
  range (b.outRs % 64 != 0 || !planarOk b.cout (if freq then out.1 else b.nr) (rowOf out.2 outFmt) b.outRs b.outPs) (at' + 40) ++
  range (b.outPs % 64 != 0) (at' + 44)

/-- Work region and tiles, which only an FCONV has. -/
def ConvBlk.workArea (b : ConvBlk) (kind : ConvKind) (at' : Nat) : List Breach :=
  if kind = .fconv then
    range (b.work % 64 != 0) (at' + 48) ++ breach (decide (b.workSize < b.workNeed)) (at' + 52) 0x035 ++
    range (b.g == 0 || decide (64 < b.g)) (at' + 56)
  else range (b.work != 0xFFFFFFFF) (at' + 48) ++ range (b.workSize != 0) (at' + 52) ++ range (b.g != 0) (at' + 56)

/-- Every check of a convolution control block. -/
def ConvBlk.breaches (b : ConvBlk) (i : Image) (raw : List Byte) (kind : ConvKind) (outFmt at' : Nat) : List Breach :=
  b.kernel kind at' ++ b.planes i kind outFmt at' ++ b.workArea kind at' ++ reserved raw at' 57 7

end Sys2Proof.Machine
end

