-- ==== Sys2Proof/Machine/Conv.lean ====
section
/-! DEFINITION. CONV, FCONV and POOL (R244 to R252, R255, R256, R259, R262). -/

namespace Sys2Proof.Machine

/-! ## CONV (R244 to R246) -/

/-- The codes of an output pixel's reduction, with how many padding supplies. -/
def ConvWin.pixel (x : ConvWin) (m : NMap Byte) (y col : Nat) : List (Nat × Bool) :=
  let b := x.geo.b
  (List.range b.cin).flatMap (fun c => (List.range b.kh).flatMap (fun i => (List.range b.kw).map (fun j =>
    let p := x.geo.tap y col i j
    x.code m c p.1 p.2)))

/-- Codes cut into slices of 256 rows and blocks of 32 as they stream (R74, R246). -/
def stageCodes (p : Prec) (codes : List Nat) : Staged :=
  (chunksOf 256 codes.length codes).map (fun s =>
    (chunksOf (actBlock p) s.length s).map (fun b => streamBlock p { scale := 0, codes := b }))

/-- A command completed as DONE_EMPTY (R255, R258). -/
def emptyConv (n : Nat) (array : Bool) (j : Job) (c : Core) : Effect :=
  let r := j.run.countCore n 0x1A8 1
  .done { job := { j with run := if array then r.countCore n 0x48 1 else r }, core := c, status := 1 }

/-- Blocks that a CONV's pixels stopped early belong to the batch's row where it has one row; else to its oldest command
(R80; log entry 35). -/
def Job.convAdaptive (j : Job) (c : Core) (ns : List Nat) : List Nat :=
  let ws := j.batchRows c
  if ws.length = 1 then [ns.sum] else List.replicate ((ws.map (·.tokens)).sum) 0 ++ [ns.sum]

/-- Where a CONV puts output channel `k` of its pixel `v` (R245). -/
def ConvBlk.place (b : ConvBlk) (g : ConvGeo) (out fmt v k : Nat) : Nat :=
  out + k * b.outPs + v / g.ow * b.outRs + v % g.ow * (fmtBits fmt / 8)

/-- Output pixels of a CONV (R245). -/
def ConvGeo.pixels (g : ConvGeo) : Nat := if g.hollow then 0 else g.rows * g.ow

/-- How a CONV uses the gate pipeline. -/
def ConvGeo.gateUse (g : ConvGeo) (n : Nat) (sec : CoreSec) (x : MatPlan) : GateUse :=
  { sec.gateUse n x with planar := some (g.b.place g x.o.out x.p.out) }

/-- Run a CONV: each pixel's window is one vector, and what padding supplied is counted (R246, R258). -/
def ConvWin.run (win : ConvWin) (x : MatPlan) (n banks : Nat) (fawn : Bool) (sec : CoreSec) (reads : List Access) (j : Job)
    (c : Core) : Done :=
  let g := win.geo
  let px := (List.range x.m).map (fun v => win.pixel c.scratch (g.y0 + v / g.ow) (v % g.ow))
  let padded := (px.map (fun q => (q.filter (·.2)).length)).sum
  let vs := px.map (fun q => stageCodes x.p (q.map (·.1)))
  let d := x.run n banks fawn sec (g.gateUse n sec x) reads vs { j with run := j.run.countCore n 0x180 padded } c
  { d with adaptive := j.convAdaptive c d.adaptive }

/-- CONV: the shape is checked first, then whether there is anything to do, then the window (R243, R255, R256, R262). -/
def effectConv (s : State) (n : Nat) (f : FmtA) (j : Job) (c : Core) : Effect :=
  let sec := j.image.sec n
  let o := sec.opBlk f.operand
  let p := precOf f.prec.toNat (j.forcedPrec c)
  let b := sec.convBlk f.ctrl
  let g := b.geo j.image c
  let m := g.pixels
  let x := matPlan j.image sec o p m
  let win : ConvWin := { base := o.act, geo := g, fmt := p.act, pad := sec.padOf b.inT p.act }
  let banks := s.banksOf n
  if g.tall j.image (j.rowCount c) || decide (o.plan < m) || decide (4096 < g.ow) then .stop .shape
  else if m = 0 then emptyConv n true j c
  else if sec.order = 1 && decide (sec.tiles < x.used) then .stop .shape
  else if decide ((sec.spillSlots c.insn).length < x.used - banks) then .stop .spill
  else
    match win.missing (g.tapRows g.y0 g.rows) with
    | some a => .stop (.lane 0 a)
    | none =>
      let u := g.gateUse n sec x
      if u.g.prep && decide (x.outs ≠ u.g.prepC + 2 * u.g.prepN) then .stop .shape
      else
        let reads := x.allReads u j c
        s.orFetch n reads j c (s.useArray n j c (fun fawn j c => win.run x n banks fawn sec reads j c))

def execConv (n : Nat) (f : FmtA) (s : State) : Host.Outcome State Fault Refusal :=
  checked s (coreOk n && fmtAOk f) (
    let t := s.withSpill n (s.fallsShort n (wordA 0x24 f) (effectConv s n f))
    t.retireThen n (wordA 0x24 f) (effectConv t n f) (fun k _ d s => s.arrayChecks k n d))

/-! ## FCONV (R247 to R251) -/

/-- An FCONV as it runs: side, valid positions on each axis, tiles across, and the tiles it takes. -/
structure FconvPlan where
  g    : ConvGeo
  win  : ConvWin
  side : Nat
  vh   : Nat
  vw   : Nat
  wide : Nat
  tiles : List Nat

/-- Plan an FCONV (R247, R248). -/
def fconvPlan (g : ConvGeo) (win : ConvWin) : FconvPlan :=
  let side := if g.b.flags.testBit 0 then 128 else 64
  let vh := side + 1 - (g.b.dy * (g.b.kh - 1) + 1)
  let vw := side + 1 - (g.b.dx * (g.b.kw - 1) + 1)
  let wide := cdiv ((g.ow - 1) * g.b.sx + 1) vw
  let tall := cdiv ((g.oh - 1) * g.b.sy + 1) vh
  { g, win, side, vh, vw, wide
    tiles := (List.range g.b.g).filterMap (fun i => if g.y0 + i < tall * wide then some (g.y0 + i) else none) }

/-- First input row and column of a tile (R248). -/
def FconvPlan.origin (x : FconvPlan) (t : Nat) : Int × Int :=
  ((t / x.wide * x.vh : Int) - x.g.b.top, (t % x.wide * x.vw : Int) - x.g.b.left)

/-- Input rows of the tiles taken. -/
def FconvPlan.rows (x : FconvPlan) : List Int :=
  x.tiles.flatMap (fun t => (List.range x.side).map (fun r => (x.origin t).1 + r))

/-- The samples of a tile's channel, as FP32, with whether padding supplies each (phase 1). -/
def FconvPlan.input (x : FconvPlan) (m : NMap Byte) (t c : Nat) : List (Nat × Bool) :=
  let o := x.origin t
  (List.range (x.side * x.side)).map (fun k =>
    let v := x.win.code m c (o.1 + (k / x.side : Nat)) (o.2 + (k % x.side : Nat))
    (toF32 (elemNum x.win.fmt v.1), v.2))

/-- A real tile as complex words. -/
def complexOf (xs : List Nat) : List Nat := xs.flatMap (fun v => [v, 0])

/-- The BF16 code of a spectrum word of a tile's channel: bin (u, v), real or imaginary (phase 2). -/
def FconvPlan.spectrum (x : FconvPlan) (xs : List Nat) (u v part : Nat) : Nat :=
  bf16.encode (f32 (fftValue x.side false (complexOf xs) (2 * (u * x.side + v) + part)))

/-- Frequency bins: (u, v) in order (R249). -/
def FconvPlan.bins (x : FconvPlan) : List (Nat × Nat) :=
  (List.range x.side).flatMap (fun u => (List.range (x.side / 2 + 1)).map (fun v => (u, v)))

/-- The array plan of a bin: its tiles follow those of the bins before (R249). -/
def FconvPlan.bin (x : FconvPlan) (y : MatPlan) (b : Nat × Nat) : MatPlan :=
  { y with base := y.base + (b.1 * (x.side / 2 + 1) + b.2) * (y.groups * y.slices * tileStride y.p) }

/-- The staged vector of a tile at a bin: real parts, then imaginary parts. -/
def FconvPlan.staged (x : FconvPlan) (p : Prec) (chans : List (List Nat)) (b : Nat × Nat) : Staged :=
  stageCodes p (chans.map (fun xs => x.spectrum xs b.1 b.2 0) ++ chans.map (fun xs => x.spectrum xs b.1 b.2 1))

/-- A word of an output spectrum completed by conjugate symmetry: `z` gives the words of the bins kept (phase 4). -/
def FconvPlan.full (x : FconvPlan) (z : Nat → Nat → Nat → Nat) (k part : Nat) : Nat :=
  let u := k / x.side
  let v := k % x.side
  if v ≤ x.side / 2 then z u v part
  else
    let w := z ((x.side - u) % x.side) (x.side - v) part
    if part = 0 then w else toF32 ((f32 w).neg)

/-- Phase 5: the output positions of a tile, as sample index, row and column (R247, R248). -/
def FconvPlan.crop (x : FconvPlan) (t : Nat) : List (Nat × Nat × Nat) :=
  (List.range (x.vh * x.vw)).filterMap (fun k =>
    let a := k / x.vw
    let b := k % x.vw
    let gy := t / x.wide * x.vh + a
    let gx := t % x.wide * x.vw + b
    if gy % x.g.b.sy = 0 && gx % x.g.b.sx = 0 && decide (gy / x.g.b.sy < x.g.oh) && decide (gx / x.g.b.sx < x.g.ow) then
      some (a * x.side + b, gy / x.g.b.sy, gx / x.g.b.sx)
    else none)

/-- Run an FCONV. Under an override that is adaptive its blocks may stop early (R81, R97), which its status does not show: R262
gives DONE_ADAPTIVE to a CONV alone. Output row and column are those of the whole output (log entry 34). -/
def FconvPlan.run (x : FconvPlan) (y : MatPlan) (n out : Nat) (fawn : Bool) (reads : List Access) (j : Job) (c : Core) : Done :=
  let b := x.g.b
  let p := y.p
  let ins := x.tiles.map (fun t => (List.range b.cin).map (x.input c.scratch t))
  let padded := (ins.map (fun t => (t.map (fun q => (q.filter (·.2)).length)).sum)).sum
  let words := ins.map (fun t => t.map (fun q => q.map (·.1)))
  let bins := x.bins
  let staged := bins.map (fun bin => (bin, words.map (fun chans => x.staged p chans bin)))
  let mixed := staged.map (fun e => e.2.map (fun v => (List.range y.outs).map ((x.bin y e.1).output j.run.mem v)))
  let zs := fun (t o : Nat) (u v part : Nat) =>
    ((mixed.getD (u * (x.side / 2 + 1) + v) []).getD t []).getD (part * b.cout + o) 0
  let size := fmtBits p.out / 8
  let one := fun (a : GateAcc) (t o : Nat) (xs : List Nat) =>
    (x.crop (x.tiles.getD t 0)).foldl (fun (a : GateAcc) k =>
      let v := fftValue x.side true xs (2 * k.1)
      let q := quantElem p.out (f32 v)
      { a with scratch := memWrite a.scratch (out + o * b.outPs + k.2.1 * b.outRs + k.2.2 * size) (leBytes size q.1)
               sat := a.sat + q.2.1, nonf := a.nonf + q.2.2 }) a
  let seed := ((words.flatten.flatten) ++ (mixed.flatten.flatten)).map (BitVec.ofNat 32)
  let scratch := memWrite c.scratch b.work ((List.range b.workSize).map (Config.workByte seed))
  let a := (List.range x.tiles.length).foldl (fun a t => (List.range b.cout).foldl (fun a o =>
    let xs := (List.range (x.side * x.side)).flatMap (fun k => [x.full (zs t o) k 0, x.full (zs t o) k 1])
    one a t o xs) a) { scratch }
  let passes := bins.flatMap (fun bin => (x.bin y bin).passes)
  let busy := (staged.map (fun e =>
    ((x.bin y e.1).passes.map (fun q => q.bits (fun v s => sliceBits ((e.2.getD v []).getD s [])))).sum)).sum
  let budget := (passes.map (fun q => q.count * p.bits)).sum
  let all := staged.flatMap (·.2)
  let g := x.tiles.length
  let r := ((a.count j.run n).countStops n all).countBeats fawn n
    [(0x00, busy), (0x08, if p.diag then 0 else bubbles passes), (0x30, if p.adaptive then budget - busy else 0),
     (0x40, if p.diag then busy else 0)]
  let tally := (bins.getLast?.map (fun bin => (x.bin y bin).tally j.run.mem)).getD []
  let r := (r.countCore n 0x110 (g * (b.cin + b.cout))).countCore n 0x188 g
  { job := { j with run := r.countCore n 0x180 padded }, core := { c with scratch := a.scratch, cells := none, tally }
    accesses := reads, fawn := fawnBeats fawn (bins.length * y.macs) }

/-- The weights that an FCONV reads (R249). -/
def FconvPlan.reads (x : FconvPlan) (y : MatPlan) : List Access :=
  [{ addr := y.base, len := x.bins.length * (y.groups * y.slices * tileStride y.p) }]

/-- FCONV, with the checks of CONV in their order. -/
def effectFconv (s : State) (n : Nat) (f : FmtA) (j : Job) (c : Core) : Effect :=
  let sec := j.image.sec n
  let o := sec.opBlk f.operand
  let p := precOf f.prec.toNat (j.forcedPrec c)
  let b := sec.convBlk f.ctrl
  let g := b.geo j.image c
  let fmt := (j.image.tensor b.inT).fmt
  let win : ConvWin := { base := o.act, geo := g, fmt, pad := sec.padOf b.inT fmt }
  let x := fconvPlan g win
  let y := matPlan j.image sec o p x.tiles.length
  let banks := s.banksOf n
  if g.tall j.image (j.rowCount c) then .stop .shape
  else if g.hollow || x.tiles.isEmpty then emptyConv n true j c
  else if decide ((sec.spillSlots c.insn).length < y.used - banks) then .stop .spill
  else
    match win.missing x.rows with
    | some a => .stop (.lane 0 a)
    | none =>
      s.orFetch n (x.reads y) j c (s.useArray n j c (fun fawn j c => x.run y n o.out fawn (x.reads y) j c))

def execFconv (n : Nat) (f : FmtA) (s : State) : Host.Outcome State Fault Refusal :=
  checked s (coreOk n && fmtAOk f) (
    let t := s.withSpill n (s.fallsShort n (wordA 0x25 f) (effectFconv s n f))
    t.retireThen n (wordA 0x25 f) (effectFconv t n f) (fun k _ d s => s.arrayChecks k n d))

/-! ## POOL (R252) -/

/-- The format code of a TYPE. -/
def tyFmt (ty : Nat) : Nat :=
  match ty with
  | 0 => 11 | 1 => 9 | 2 => 10 | 4 => 13 | _ => 12

/-- Bytes of a type as a window has them. -/
def poolWin (f : FmtV) (sec : CoreSec) (g : ConvGeo) (base : Nat) : ConvWin :=
  { base, geo := g, fmt := tyFmt f.type, pad := sec.padOf g.b.inT (tyFmt f.type) }

/-- The sum of codes in ascending order: in FP32, or in INT32. -/
def poolSum (ty : Nat) (codes : List Nat) : Num :=
  if (tyFp ty).isSome then f32 (codes.foldl (fun a x => addF32 a (toF32 (tyNum ty x))) 0)
  else
    let v := codes.foldl (fun (a : Nat) x => (a + codeOf 32 (signedBits (tyBits ty) x)) % 2 ^ 32) 0
    .ofInt (signedBits 32 v)

/-- The result of a window: its codes, each with whether padding supplies it. AVGV sums the positions inside the plane
(log entry 34). -/
def poolResult (op ty : Nat) (xs : List (Nat × Bool)) : Nat :=
  match op with
  | 0 => extreme ty Num.max (xs.map (·.1))
  | 1 => extreme ty Num.min (xs.map (·.1))
  | 2 => tyCode ty ((poolSum ty (xs.map (·.1))).div (.ofNat xs.length))
  | _ =>
    let ins := (xs.filter (fun x => !x.2)).map (·.1)
    if ins.isEmpty then 0 else tyCode ty ((poolSum ty ins).div (.ofNat ins.length))

/-- The first element of a planar output that does not lie in the writable scratchpad on its grid. -/
def badOut (sec : CoreSec) (addrs : List Nat) (size : Nat) : Option Nat :=
  addrs.find? (fun a => a % size != 0 || !inScratch a size || sec.inProgram a size)

/-- POOL over its output rows. -/
def poolRun (f : FmtV) (n out : Nat) (win : ConvWin) (j : Job) (c : Core) : Done :=
  let g := win.geo
  let b := g.b
  let z := tyBytes f.type
  let cells := (List.range b.cin).flatMap (fun ch => (List.range g.rows).flatMap (fun r =>
    (List.range g.ow).map (fun x => (ch, r, x))))
  let window := fun (ch r x : Nat) => (List.range b.kh).flatMap (fun i => (List.range b.kw).map (fun k =>
    let p := g.tap (g.y0 + r) x i k
    win.code c.scratch ch p.1 p.2))
  let vals := cells.map (fun t => (t, window t.1 t.2.1 t.2.2))
  let scratch := vals.foldl (fun m t =>
    memWrite m (out + t.1.1 * b.outPs + t.1.2.1 * b.outRs + t.1.2.2 * z) (leBytes z (poolResult f.aux f.type t.2))) c.scratch
  let padded := (vals.map (fun t => (t.2.filter (·.2)).length)).sum
  let beats := cdiv (b.cin * g.rows * g.ow * b.kh * b.kw) (1024 / z) + 12
  let r := (j.run.countCore n 0x190 beats).countCore n 0x180 padded
  { job := { j with run := r }, core := { c with scratch } }

/-- The block data of a core in scratchpad: from its first byte to the one after its last (R523). -/
def CoreSec.blockSpan (c : CoreSec) : Nat × Nat :=
  let base := ((c.regions.find? (fun r => r.kind == 0)).map (·.off)).getD 0
  (base + c.progLen, base + c.progLen + c.blockLen)

/-- A POOL's control block lies on its grid in the block data and breaks no rule of its fields; TYPE is the type of the input
tensor's format (R240, R252, R523). -/
def Job.poolBlockOk (j : Job) (n ty : Nat) (c : Core) (at' : Nat) : Bool :=
  let span := (j.image.sec n).blockSpan
  let b := convFields c.scratch at'
  at' % 64 == 0 && decide (span.1 ≤ at') && decide (at' + 64 ≤ span.2) && (j.image.tensor b.inT).fmt == tyFmt ty &&
    (b.breaches j.image (memRead c.scratch at' 64) .pool (tyFmt ty) 0).isEmpty

/-- The first address at which a POOL over its window faults: a row that is not there, then an input, then an output element. -/
def ConvWin.poolBad (win : ConvWin) (sec : CoreSec) (z out : Nat) : Option Nat :=
  let g := win.geo
  let b := g.b
  let rows := g.tapRows g.y0 g.rows
  let held := rows.filterMap (fun y => padIndex b.mode y g.h)
  let ins := (List.range b.cin).flatMap (fun ch => held.flatMap (fun y =>
    [(win.addr ch y 0).toNat, (win.addr ch y (g.w - 1)).toNat]))
  let outs := (List.range b.cin).flatMap (fun ch => (List.range g.rows).flatMap (fun r =>
    (List.range g.ow).map (fun x => out + ch * b.outPs + r * b.outRs + x * z)))
  ((win.missing rows).orElse (fun _ => ins.find? (fun a => a % z != 0 || !inScratch a z))).orElse
    (fun _ => badOut sec outs z)

/-- POOL: its control block is found through SRC3 (R252). Where firing could not know that register, the block is checked as
the command runs: one that does not lie on its grid in the block data (R523), or that breaks a rule of its fields, faults as one
lane at its address, as do elements outside the scratchpad (log entries 34, 73). -/
def effectPool (n : Nat) (f : FmtV) (j : Job) (c : Core) : Effect :=
  let sec := j.image.sec n
  let at' := (c.reg f.src3).toNat
  if !j.poolBlockOk n f.type c at' then .stop (.lane 0 at')
  else
    let g := (convFields c.scratch at').geo j.image c
    let win := poolWin f sec g (c.reg f.src1).toNat
    let out := (c.reg f.dst).toNat
    if g.tall j.image (j.rowCount c) || decide (4096 < g.ow) then .stop .shape
    else if g.hollow || decide (g.oh ≤ g.y0) then emptyConv n false j c
    else
      match win.poolBad sec (tyBytes f.type) out with
      | some a => .stop (.lane 0 a)
      | none => .done (poolRun f n out win j c)

def execPool (n : Nat) (f : FmtV) (s : State) : Host.Outcome State Fault Refusal :=
  checked s (coreOk n && fmtVOk f) (s.retireThen n (wordV 0x82 f) (effectPool n f) (fun _ _ _ s => s.vecEnd n 0x82))

end Sys2Proof.Machine
end

