-- ==== Sys2Proof/Machine/Scan.lean ====
section
/-! DEFINITION. The scan unit (R148 to R166): linear recurrence over the rows of a batch, renormalisation, and the stored
forms of state. -/

namespace Sys2Proof.Machine

/-! ## The scan control block (R150) -/

/-- A scan control block. -/
structure ScanBlk where
  chans : Nat
  n     : Nat
  flags : Nat
  slice : Nat
  aT    : Nat
  dT    : Nat
  fT    : Nat
  lc    : Nat
  input : Nat
  x     : Nat
  out   : Nat
  xf    : Nat
  yf    : Nat
  deriving DecidableEq, Repr

/-- The fields of 32 B. -/
def scanFields (b : NMap Byte) : ScanBlk :=
  { chans := blockWord b 0 2, n := blockWord b 2 1, flags := blockWord b 3 1, slice := blockWord b 4 4
    aT := blockWord b 8 2, dT := blockWord b 10 2, fT := blockWord b 12 2, lc := blockWord b 14 2
    input := blockWord b 16 4, x := blockWord b 20 4, out := blockWord b 24 4, xf := blockWord b 28 1
    yf := blockWord b 29 1 }

/-- The scan control block at an index. -/
def CoreSec.scanBlk (c : CoreSec) (index : Nat) : ScanBlk := scanFields (c.block (16 * index) 32)

def ScanBlk.readout (b : ScanBlk) : Bool := b.flags.testBit 0
def ScanBlk.skip (b : ScanBlk) : Bool := b.flags.testBit 1
def ScanBlk.zoh (b : ScanBlk) : Bool := b.flags.testBit 2
def ScanBlk.renorm (b : ScanBlk) : Bool := b.flags.testBit 3

/-- Elements of a slice. -/
def ScanBlk.elems (b : ScanBlk) : Nat := b.chans * b.n

/-- Bytes of a state element as a stream stores it. -/
def Stream.elemSize (e : Stream) : Nat := if e.stateFmt = 9 then 2 else 4

/-! ## expm1 (R148) -/

/-- The true expm1: beyond the range of FP32 it is +∞, and below −128 it is −1 to all bits that matter (log entry 10). -/
def expm1Num (x : Num) : Num :=
  match x with
  | .nan p => (Num.nan p).newNan .zero
  | .inf n => if n then .ofInt (-1) else .inf false
  | _ =>
    if below100 x (-12800) then .ofInt (-1)
    else if above100 x 8900 then .inf false
    else if x.abs.cmp (pow2 (-64)) == some .lt then x.add ((x.mul x).mul (pow2 (-1)))
    else (expNum x).sub (.ofInt 1)

/-- The candidate within 2^−23 of the true value, else the true value. -/
def nearTrue (cand : Int × Int) (ref : Num) : Num :=
  let c : Num := .fin (decide (cand.1 < 0)) cand.1.natAbs cand.2
  match ref with
  | .fin .. =>
    match ((c.sub ref).abs).cmp (ref.abs.mul (pow2 (-23))) with
    | some .lt => c
    | some .eq => c
    | _ => ref
  | _ => ref

/-- e of one token. -/
def scanE (dt a : Nat) : Num :=
  nearTrue (Config.expm1 (BitVec.ofNat 32 dt) (BitVec.ofNat 32 a)) (expm1Num ((f32 dt).mul (f32 a)))

/-- e ÷ A of one token under a zero-order hold. -/
def scanHold (dt a : Nat) : Num :=
  nearTrue (Config.holdQuotient (BitVec.ofNat 32 dt) (BitVec.ofNat 32 a)) ((scanE dt a).div (f32 a))

/-! ## One update (R148) -/

/-- What one token gives one element: Δ, A, B and x as FP32. -/
structure ScanTok where
  dt : Nat
  a  : Nat
  b  : Nat
  x  : Nat
  deriving DecidableEq, Repr

/-- The exact update of a state value. -/
def ScanTok.update (t : ScanTok) (zoh : Bool) (h : Num) : Num :=
  let flat := (f32 t.a).cmp .zero == some .eq
  let b := if zoh && !flat then (scanHold t.dt t.a).mul (f32 t.b) else (f32 t.dt).mul (f32 t.b)
  (((Num.ofInt 1).add (scanE t.dt t.a)).mul h).add (b.mul (f32 t.x))

/-! ## Stored forms (R153, R157, R158) -/

/-- ulp of an FP32 value. -/
def ulpF32 (w : Nat) : Num := pow2 ((max (nfld w 23 8) 1 : Nat) - 150)

/-- The successor of a finite FP32 value towards +∞. -/
def nextUp (w : Nat) : Nat :=
  if w = 0x80000000 then 1 else if nfld w 31 1 = 1 then w - 1 else w + 1

/-- The term of an exact value beside *h*, in units of 2^−16 ulp. -/
def termOf (x : Num) (h : Nat) : Int :=
  (((x.sub (f32 h)).div (ulpF32 h)).mul (pow2 16)).toInt.getD 0

/-- Split an exact value into *h* and its term (R157). -/
def splitState (x : Num) : Nat × Nat :=
  let h := toF32 x
  if (f32 h).nonfinite then (h, (Config.scanTerm (BitVec.ofNat 32 h)).toNat)
  else
    let e := termOf x h
    if e = 2 ^ 15 then (nextUp h, codeOf 16 (termOf x (nextUp h))) else (h, codeOf 16 e)

/-- The carried value of *h* with its term (R157). -/
def joinState (h term : Nat) : Num :=
  (f32 h).add (((Num.ofInt (signedBits 16 term)).mul (ulpF32 h)).mul (pow2 (-16)))

/-- Draw `d` for a stream's state, and the 16-bit value for element `i` of its block (R128, R158). -/
def stochBits (e : Stream) (i : Nat) : Nat :=
  let q := philox e.rngKey (e.rngCtr % 2 ^ 32, e.rngCtr / 2 ^ 32, i / 8, 0x53520000)
  nfld (q.1 + 2 ^ 32 * q.2.1 + 2 ^ 64 * q.2.2.1 + 2 ^ 96 * q.2.2.2) (16 * (i % 8)) 16

/-- An FP32 result as a BF16 state stores it: element `i` of the block. Without STOCH_ROUND it is the nearest, ties to even (R153; log
entry 121). -/
def storeBf16 (e : Stream) (i h : Nat) : Nat :=
  if e.stoch && !(f32 h).nonfinite then (h + stochBits e i) % 2 ^ 32 / 2 ^ 16 else bf16.encode (f32 h)

/-! ## An element through a row's tokens (R151) -/

/-- Where an element stands in a scan chunk: the value carried in, the exact value since, the largest magnitude met,
tokens of the chunk, and the words that the free roundings depend on. -/
structure ScanPos where
  start : Num
  h     : Num
  big   : Num
  n     : Nat
  words : List W32

/-- A chunk begins at a carried value. -/
def ScanPos.enter (x : Num) (w : Nat) : ScanPos := { start := x, h := x, big := x.abs, n := 0, words := [BitVec.ofNat 32 w] }

/-- The larger of two magnitudes; the first where either is no number. -/
def bigger (a b : Num) : Num := if a.cmp b == some .lt then b else a

/-- One token of a chunk. -/
def ScanPos.step (z : ScanPos) (zoh : Bool) (t : ScanTok) : ScanPos :=
  let h := t.update zoh z.h
  { z with h, big := bigger z.big h.abs, n := z.n + 1, words := z.words ++ [t.dt, t.a, t.b, t.x].map (BitVec.ofNat 32) }

/-- FP32 state after the tokens so far: free within 2 units of roundoff for each token, of the largest magnitude met (the
table after R159); compensated state is exact (R157). Gives *h* and its term. -/
def ScanPos.value (z : ScanPos) (comp : Bool) : Nat × Nat :=
  if comp then splitState z.h
  else if z.h.nonfinite then (toF32 z.h, 0)
  else (within (Config.scanState z.words).toNat z.h ((z.big.mul (.ofNat z.n)).mul (pow2 (-23))), 0)

/-- Carry an element through tokens: *h* after each, and what is stored at the end. -/
def scanElem (comp zoh : Bool) (lc : Nat) (z : ScanPos) (last : Nat × Nat) (ts : List ScanTok) : List Nat × (Nat × Nat) :=
  match ts with
  | [] => ([], last)
  | t :: rest =>
    let z := z.step zoh t
    let v := z.value comp
    let z := if z.n = lc then ScanPos.enter (if comp then joinState v.1 v.2 else f32 v.1) v.1 else z
    let (hs, out) := scanElem comp zoh lc z v rest
    (v.1 :: hs, out)

/-! ## A row (R151, R153, R155) -/

/-- A row of a scan: the row, the number of its first token in the batch. -/
structure ScanRow where
  w  : Row
  v0 : Nat

/-- The rows of the batch that carry state: a SCAN passes over the others, and with none left completes as DONE_EMPTY. DESIGN CHOICE
(log entry 131). -/
def scanRows (v : Nat) (ws : List Row) : List ScanRow :=
  match ws with
  | [] => []
  | w :: rest =>
    if w.st.hasState then { w, v0 := v } :: scanRows (v + w.tokens) rest else scanRows (v + w.tokens) rest

/-- The block that a row's advance reads and writes: its own fresh block, where it has one, holds what the shared block
held (R123; log entry 33). -/
def ScanRow.block (r : ScanRow) : Nat := r.w.block.getD r.w.st.statePtr

/-- Address of the slice, and of its compensation. -/
def ScanRow.sliceAt (r : ScanRow) (b : ScanBlk) : Nat := r.block + b.slice * 256
def ScanRow.termAt (r : ScanRow) (b : ScanBlk) : Nat := r.block + r.w.st.stateSize * 256 + b.slice * 128

/-- Element `i` of the slice as stored: FP32 *h* and term. -/
def ScanRow.elem (r : ScanRow) (b : ScanBlk) (m : NMap Byte) (i : Nat) : Nat × Nat :=
  let w := memWord m (r.sliceAt b + i * r.w.st.elemSize) r.w.st.elemSize
  (if r.w.st.stateFmt = 9 then w * 2 ^ 16 else w, if r.w.st.comp then memWord m (r.termAt b + 2 * i) 2 else 0)

/-- The carried value of an element. -/
def ScanRow.carried (r : ScanRow) (e : Nat × Nat) : Num := if r.w.st.comp then joinState e.1 e.2 else f32 e.1

/-- The bytes of a slice, and of its compensation, from the values stored. -/
def ScanRow.bytes (r : ScanRow) (b : ScanBlk) (vs : List (Nat × Nat)) : List Byte × List Byte :=
  let first := b.slice * 256 / r.w.st.elemSize
  (vs.zipIdx.flatMap (fun v =>
      if r.w.st.stateFmt = 9 then leBytes 2 (storeBf16 r.w.st (first + v.2) v.1.1) else leBytes 4 v.1.1),
    if r.w.st.comp then vs.flatMap (fun v => leBytes 2 v.2) else [])

/-- Elements of a slice that are stored as NaN or an infinity (R161, R162). -/
def ScanRow.bad (r : ScanRow) (b : ScanBlk) (vs : List (Nat × Nat)) : Nat :=
  let first := b.slice * 256 / r.w.st.elemSize
  (vs.zipIdx.filter (fun v =>
    if r.w.st.stateFmt = 9 then (bf16.decode (storeBf16 r.w.st (first + v.2) v.1.1)).nonfinite
    else (f32 v.1.1).nonfinite)).length

/-- Store a row's slice in job memory. -/
def ScanRow.store (r : ScanRow) (b : ScanBlk) (vs : List (Nat × Nat)) (j : Job) : Job :=
  let (x, y) := r.bytes b vs
  (j.store (r.sliceAt b) x).store (r.termAt b) y

/-! ## The recurrence over a row (R148) -/

/-- Word `i` of a PREP record (R149). -/
def ScanBlk.prep (b : ScanBlk) (m : NMap Byte) (v i : Nat) : Nat :=
  memWord m (b.input + (v * (b.chans + 2 * b.n) + i) * 4) 4

/-- Element `c` of a token's x, exactly in FP32 (R150). -/
def ScanBlk.xAt (b : ScanBlk) (m : NMap Byte) (v c : Nat) : Nat :=
  if b.xf = 9 then memWord m (b.x + (v * b.chans + c) * 2) 2 * 2 ^ 16 else memWord m (b.x + (v * b.chans + c) * 4) 4

/-- The tokens of a row for element (`c`, `k`). -/
def ScanRow.toks (r : ScanRow) (b : ScanBlk) (m : NMap Byte) (a : Nat) (c k : Nat) : List ScanTok :=
  (List.range r.w.tokens).map (fun t =>
    { dt := b.prep m (r.v0 + t) c, a, b := b.prep m (r.v0 + t) (b.chans + k), x := b.xAt m (r.v0 + t) c })

/-- y of one channel at a token: ascending fused multiply-adds, then the D term (R148). -/
def readoutOf (d : Option Nat) (x : Nat) (cr hs : List Nat) : Nat :=
  let y := (cr.zip hs).foldl (fun y t => fmaF32 t.1 t.2 y) 0
  match d with
  | some d => fmaF32 d x y
  | none => y

/-- One channel of a row: y at each token, and the values stored. -/
def ScanRow.channel (r : ScanRow) (b : ScanBlk) (j : Job) (m : NMap Byte) (c : Nat) : List Nat × List (Nat × Nat) :=
  let runs := (List.range b.n).map (fun k =>
    let a := memWord j.run.mem ((j.image.tensor b.aT).addr + (c * b.n + k) * 4) 4
    let e := r.elem b j.run.mem (c * b.n + k)
    scanElem r.w.st.comp b.zoh b.lc (ScanPos.enter (r.carried e) e.1) e (r.toks b m a c k))
  let d := if b.skip then some (memWord j.run.mem ((j.image.tensor b.dT).addr + 4 * c) 4) else none
  let ys := (List.range r.w.tokens).map (fun t =>
    let cr := (List.range b.n).map (fun k => b.prep m (r.v0 + t) (b.chans + b.n + k))
    readoutOf d (b.xAt m (r.v0 + t) c) cr (runs.map (fun x => x.1.getD t 0)))
  (ys, runs.map (·.2))

/-- A factor of a renormalised channel (R160). The product is rounded to FP32, and a BF16 state is then stored from that (log entry
122). -/
def ScanRow.renormed (r : ScanRow) (b : ScanBlk) (j : Job) : List (Nat × Nat) :=
  (List.range b.elems).map (fun i =>
    let f := f32 (memWord j.run.mem ((j.image.tensor b.fT).addr + 4 * (i / b.n)) 4)
    let v := (r.carried (r.elem b j.run.mem i)).mul f
    if r.w.st.comp then splitState v else (toF32 v, 0))

/-! ## The command -/

/-- What a scan has done over its rows so far. -/
structure Scanning where
  job     : Job
  scratch : NMap Byte
  bad     : Nat := 0

/-- Write y of one token in the y format. -/
def ScanBlk.putY (b : ScanBlk) (m : NMap Byte) (v c y : Nat) : NMap Byte :=
  if !b.readout then m
  else if b.yf = 9 then memWrite m (b.out + (v * b.chans + c) * 2) (leBytes 2 (bf16.encode (f32 y)))
  else memWrite m (b.out + (v * b.chans + c) * 4) (leBytes 4 y)

/-- Scan one row. -/
def ScanRow.run (r : ScanRow) (b : ScanBlk) (m : NMap Byte) (z : Scanning) : Scanning :=
  if b.renorm then
    let vs := r.renormed b z.job
    { z with job := r.store b vs z.job, bad := z.bad + r.bad b vs }
  else
    let cs := (List.range b.chans).map (r.channel b z.job m)
    let vs := cs.flatMap (·.2)
    let scratch := cs.zipIdx.foldl (fun (s : NMap Byte) c =>
      c.1.1.zipIdx.foldl (fun (s : NMap Byte) y => b.putY s (r.v0 + y.2) c.2 y.1) s) z.scratch
    { job := r.store b vs z.job, scratch, bad := z.bad + r.bad b vs }

/-- Bytes of a row's slice with its compensation. -/
def ScanRow.size (r : ScanRow) (b : ScanBlk) : Nat := b.elems * (r.w.st.elemSize + (if r.w.st.comp then 2 else 0))

/-- State bytes that a row reads and writes: a RESET row reads none (R155, R165). -/
def ScanRow.moved (r : ScanRow) (b : ScanBlk) : Nat := (if r.w.isReset then 1 else 2) * r.size b

/-- Compute beats of a row (R152). -/
def ScanRow.beats (r : ScanRow) (b : ScanBlk) : Nat :=
  let l := if b.renorm then 1 else r.w.tokens
  let v := if r.w.st.comp then 512 else 1024
  ((List.range (cdiv b.chans 256)).map (fun g => cdiv (l * min 256 (b.chans - 256 * g) * b.n) v)).sum

/-- ⌈log2⌉ of a positive number. -/
def clog2 (n : Nat) : Nat := if n ≤ 1 then 0 else bitLen (n - 1)

/-- Beats of the command (R152). -/
def scanBeats (b : ScanBlk) (rs : List ScanRow) : Nat :=
  let longest := if b.renorm then 1 else rs.foldl (fun m r => max m r.w.tokens) 0
  let compute := (rs.map (fun r => r.beats b)).sum + 2 * clog2 (min b.lc longest)
  let moved := (rs.map (fun r => r.moved b)).sum
  max compute (cdiv moved 1536) + 32

/-- A slice as accesses: its values, and its compensation (R280). -/
def ScanRow.accesses (r : ScanRow) (b : ScanBlk) (write : Bool) : List Access :=
  if !write && r.w.isReset then []
  else
    [({ addr := r.sliceAt b, len := b.elems * r.w.st.elemSize, write } : Access)] ++
    (if r.w.st.comp then [({ addr := r.termAt b, len := b.elems * 2, write } : Access)] else [])

/-- The tensors that the command reads. -/
def ScanBlk.tensorReads (b : ScanBlk) (i : Image) : List Access :=
  if b.renorm then [({ addr := (i.tensor b.fT).addr, len := 4 * b.chans } : Access)]
  else
    [({ addr := (i.tensor b.aT).addr, len := 4 * b.elems } : Access)] ++
    (if b.skip then [({ addr := (i.tensor b.dT).addr, len := 4 * b.chans } : Access)] else [])

/-- Run-time extents beyond the shape limits of the tensors that the command names: its rows, its token total and its channels
(R54, R151; log entry 102). -/
def ScanBlk.overPlan (b : ScanBlk) (i : Image) (ws : List Row) : Bool :=
  let ts := [b.aT, b.dT, b.fT]
  decide (4096 < ws.length) || i.over ts 0 ws.length || i.over ts 1 (ws.map (·.tokens)).sum || i.over ts 2 b.chans

/-- Rows whose state takes random bits have drawn (R128, R158). -/
def JobRun.drawn (r : JobRun) (rs : List ScanRow) : JobRun :=
  { r with queue := r.queue.map (fun q => { q with rows := q.rows.map (fun (w : Row) =>
      if w.phase = 2 && w.st.stoch && rs.any (fun x => x.w.stream == w.stream) then { w with drew := true } else w) }) }

/-- The slices and tensors that a scan over rows reads. -/
def ScanBlk.reads (b : ScanBlk) (i : Image) (rs : List ScanRow) : List Access :=
  rs.flatMap (fun r => r.accesses b false) ++ b.tensorReads i

/-- Run a scan over its rows, and count it (R152, R161). -/
def ScanBlk.run (b : ScanBlk) (n : Nat) (rs : List ScanRow) (j : Job) (c : Core) : Done :=
  let z := rs.foldl (fun z r => r.run b c.scratch z) { job := j, scratch := c.scratch }
  let r := (z.job.run.drawn rs).countCore n 0xA0 (scanBeats b rs)
  let r := r.countCore n 0xA8 (rs.map (fun x => x.moved b)).sum
  let r := (r.countCore n 0xB8 z.bad).countCore n 0xC0 (b2n b.renorm)
  { job := { z.job with run := r }, core := { c with scratch := z.scratch }
    accesses := b.reads j.image rs ++ rs.flatMap (fun r => r.accesses b true) }

/-- SCAN. -/
def effectScan (s : State) (n : Nat) (f : FmtA) (j : Job) (c : Core) : Effect :=
  let b := (j.image.sec n).scanBlk f.ctrl
  let ws := j.batchRows c
  let rs := scanRows 0 ws
  if b.overPlan j.image ws then .stop .shape
  else if rs.isEmpty then .done { job := j, core := c, status := 1 }
  else s.orFetch n (b.reads j.image rs) j c (.done (b.run n rs j c))

def execScan (n : Nat) (f : FmtA) (s : State) : Host.Outcome State Fault Refusal :=
  checked s (coreOk n && fmtAOk f) (s.retire n (wordA 0x30 f) (effectScan s n f))

end Sys2Proof.Machine
end

