-- ==== Sys2Proof/Machine/FireBlocks.lean ====
section
/-! DEFINITION. Firing, step 4 of R67: the checks of precision words and of the blocks that instructions name (R78, R142,
R143, R150, R177, R178, R143, R150, R177, R178, R205, R244 to R249, R527). -/

namespace Sys2Proof.Machine

/-! ## Precision words (R77, R78) -/

/-- Bits of a precision word that no field holds are 0, and MODE is 0 or 1: the instruction decodes (R77, R200). -/
def precForm (w : Nat) : Bool :=
  nfld w 56 8 == 0 && nfld w 34 6 == 0 && nfld w 29 3 == 0 && nfld w 21 3 == 0 && nfld w 5 11 == 0 &&
    decide (nfld w 40 2 < 2)

/-- The checks of R78. -/
def precOk (w : Nat) : Bool :=
  let act := nfld w 48 4
  let full := fullBits act
  let bits := nfld w 0 5
  let budget := if bits = 0 then full else bits
  wgtFmt (nfld w 44 4) && actFmt act && decide (bits ≤ full) &&
    (!w.testBit 32 || (decide (1 ≤ nfld w 16 5) && decide (nfld w 16 5 ≤ budget))) &&
    (nfld w 42 2 == 0 || nfld w 44 4 == 7 || act == 7) &&
    decide (1 ≤ nfld w 52 4) && decide (nfld w 52 4 ≤ 13) && !w.testBit 33

/-- Weights per cell that a command's passes need (R92, R527). -/
def precTiles (w : Nat) : Nat := if nfld w 40 2 = 1 then 1 else perCell (nfld w 44 4)

/-! ## The gate control block (R142, R143, R144) -/

/-- What a gate control block is checked against: section offset of the block, where block data lies in scratchpad, and the
command's output format, columns to a group and outputs. -/
structure GateCtx where
  at'  : Nat
  lo   : Nat
  hi   : Nat
  out  : Nat
  cols : Nat
  outs : Nat

/-- Stage flags, GATE and SOFTMAX with their combinations. -/
def GateBlk.modes (g : GateBlk) (x : GateCtx) : List Breach :=
  let last := if x.outs % x.cols = 0 then x.cols else x.outs % x.cols
  let prepBad := g.prep && !((g.fn == 0 || g.fn == 5) && g.gate == 0 && !g.rope && x.out == 11)
  let softBad := g.softmax != 0 && !(g.fn == 0 && g.gate == 0 && !g.rope && !g.prep)
  let scores := g.softmax == 1 || g.softmax == 2
  range (decide (8 < g.fn)) x.at' ++ range (decide (32 ≤ g.flags) || prepBad) (x.at' + 1) ++
  range (decide (2 < g.gate) || (g.gate == 1 && last % 2 == 1)) (x.at' + 2) ++
  range (decide (4 < g.softmax) || softBad || (scores && !(decide (x.outs ≤ x.cols) && actFmt x.out)) ||
    (g.softmax == 3 && x.out != 11)) (x.at' + 3)

/-- Head dimension, rotated pairs, tensors, PREP shape and OUT_GROUP. -/
def GateBlk.shape (g : GateBlk) (i : Image) (x : GateCtx) : List Breach :=
  let heads := g.d == 64 || g.d == 128 || g.d == 256
  range (if g.rope || g.softmax != 0 then !heads else g.d != 0) (x.at' + 4) ++
  range (g.rope && heads && x.cols % g.d != 0) (x.at' + 4) ++
  range (if g.rope then !(decide (1 ≤ g.w) && decide (2 * g.w ≤ g.d)) else g.w != 0) (x.at' + 6) ++
  tensorField i g.bias g.biasT (x.at' + 8) ++
  range (g.bias && decide (g.biasT < i.tensors.length) && !((i.tensor g.biasT).fmt == 9 || (i.tensor g.biasT).fmt == 11))
    (x.at' + 8) ++
  tensorField i (g.gate == 2) g.gateT (x.at' + 10) ++
  range (if g.prep then !(decide (1 ≤ g.prepC) && decide (g.prepC ≤ 4096)) else g.prepC != 0) (x.at' + 12) ++
  range (if g.prep then !(decide (1 ≤ g.prepN) && decide (g.prepN ≤ 16)) else g.prepN != 0) (x.at' + 14) ++
  range (if x.out = 7 then decide (3 < g.outGroup) else g.outGroup != 0) (x.at' + 15)

/-- Regions and numbers. -/
def GateBlk.places (g : GateBlk) (x : GateCtx) : List Breach :=
  let none32 := 0xFFFFFFFF
  let scores := g.softmax == 1 || g.softmax == 2
  range (if g.rope then g.rotary % 8 != 0 || decide (g.rotary < x.lo) || decide (x.hi < g.rotary + 8 * g.w)
    else g.rotary != none32) (x.at' + 16) ++
  range (g.softmax != 0 && (g.rowState == none32 || g.rowState % 64 != 0)) (x.at' + 24) ++
  range ((g.softmax == 3 || g.softmax == 4) && g.merge == none32) (x.at' + 28) ++
  range (g.prep && (g.scanIn == none32 || g.scanIn % 64 != 0)) (x.at' + 32) ++
  range (scores && !(finite32 g.score && less32 0 g.score)) (x.at' + 36) ++
  range (g.scaled && !finite32 g.oscale) (x.at' + 40) ++
  range (g.prep && !(finite32 g.dtMin && !less32 g.dtMin 0)) (x.at' + 44) ++
  range (g.prep && !(finite32 g.dtMax && !less32 g.dtMax g.dtMin)) (x.at' + 48)

/-- Every check of a gate control block. -/
def GateBlk.breaches (g : GateBlk) (i : Image) (raw : List Byte) (x : GateCtx) : List Breach :=
  g.modes x ++ g.shape i x ++ g.places x ++ reserved raw x.at' 52 12

/-! ## The scan control block (R150) -/

def ScanBlk.breaches (b : ScanBlk) (i : Image) (raw : List Byte) (at' : Nat) : List Breach :=
  let f32Tensor := fun (used : Bool) (t off : Nat) => tensorField i used t off ++
    range (used && decide (t < i.tensors.length) && (i.tensor t).fmt != 11) off
  range (!(decide (1 ≤ b.chans) && decide (b.chans ≤ 4096))) at' ++
  range (!(decide (1 ≤ b.n) && decide (b.n ≤ 16))) (at' + 2) ++ range (decide (16 ≤ b.flags)) (at' + 3) ++
  f32Tensor true b.aT (at' + 8) ++ f32Tensor b.skip b.dT (at' + 10) ++ f32Tensor b.renorm b.fT (at' + 12) ++
  range (!(decide (1 ≤ b.lc) && decide (b.lc ≤ 256))) (at' + 14) ++
  range ((b.out == 0xFFFFFFFF) == b.readout) (at' + 24) ++
  range (!(b.xf == 9 || b.xf == 11)) (at' + 28) ++ range (!(b.yf == 9 || b.yf == 11)) (at' + 29) ++
  reserved raw at' 30 2

/-- The slice of a scan control block in 256 B units, at FP32 size (R150, R153): first unit and the one past the last. -/
def ScanBlk.span (b : ScanBlk) : Nat × Nat := (b.slice, b.slice + cdiv (b.elems * 4) 256)

/-! ## The attention control block (R177, R178) -/

/-- What an attention control block is checked against: section offset, role of its opcode, width of a page, batch extent,
and the regions of the core. -/
structure AttnCtx where
  at'  : Nat
  role : Nat
  w    : Nat
  ext  : Nat
  regions : List RegionE

/-- The row table lies in a region that holds 32 × (C + 1) bytes from it (R178). -/
def AttnCtx.tableFits (x : AttnCtx) (rowTab : Nat) : Bool :=
  x.regions.any (fun r => decide (r.off ≤ rowTab) && decide (rowTab + 32 * (x.ext + 1) ≤ r.off + r.size))

def AttnBlk.breaches (a : AttnBlk) (i : Image) (raw : List Byte) (x : AttnCtx) : List Breach :=
  let q := a.heads * a.hq
  range (a.role != x.role) x.at' ++
  range (decide (16 ≤ a.masks) || (a.masks.testBit 0 && (a.masks.testBit 1 || a.visT != 0xFFFF))) (x.at' + 1) ++
  range (!(a.d == 64 || a.d == 128 || a.d == 256)) (x.at' + 2) ++ range (decide (4095 < a.g)) (x.at' + 4) ++
  range (a.heads == 0 || decide (x.w < a.heads * a.d)) (x.at' + 6) ++
  range (!(decide (1 ≤ a.hq) && decide (a.hq ≤ 64))) (x.at' + 7) ++ range (decide (q ≤ a.first)) (x.at' + 8) ++
  range (a.count == 0 || decide (q < a.first + a.count) || decide (4096 < a.count * x.ext)) (x.at' + 10) ++
  range (a.rowTab % 64 != 0 || !x.tableFits a.rowTab) (x.at' + 12) ++
  range (if x.role = 3 then decide (6291456 ≤ a.status) else a.status != 0xFFFFFFFF) (x.at' + 20) ++
  tensorField i (a.masks.testBit 3) a.bmT (x.at' + 24) ++
  (if a.segT = 0xFFFF then [] else tensorField i (x.role == 1) a.segT (x.at' + 26)) ++
  (if a.posT = 0xFFFF then [] else tensorField i (x.role == 1) a.posT (x.at' + 28)) ++
  (if a.visT = 0xFFFF then [] else tensorField i (x.role != 1) a.visT (x.at' + 30)) ++
  reserved raw x.at' 32 32

/-! ## The operand block (R205, R244, R249, R527) -/

/-- The weight tensor of an operand block, and the weight offset, which lies within that tensor (R205). -/
def OpBlk.weights (o : OpBlk) (i : Image) (at' : Nat) : List Breach :=
  tensorRef i o.wt at' true ++ range (decide (o.wt < i.tensors.length) && decide ((i.tensor o.wt).pages ≤ o.woff)) (at' + 8)

/-- The operand block of a MATMUL. -/
def OpBlk.matmul (o : OpBlk) (i : Image) (diag : Bool) (at' : Nat) : List Breach :=
  o.weights i at' ++ range (o.k == 0 || decide (16384 < o.k)) (at' + 4) ++
  range (o.outs == 0 || decide (16384 < o.outs) || (diag && o.outs != o.k)) (at' + 6)

/-- The operand block of a QK or PV, which takes its shape from its attention control block. -/
def OpBlk.attention (o : OpBlk) (at' : Nat) : List Breach :=
  range (o.wt != 0xFFFF) at' ++ range (o.k != 0) (at' + 4) ++ range (o.outs != 0) (at' + 6)

/-- The operand block of a CONV (R244) or FCONV (R249); a diagonal one has as many outputs as its reduction (R527). -/
def OpBlk.conv (o : OpBlk) (i : Image) (b : ConvBlk) (freq diag : Bool) (at' : Nat) : List Breach :=
  let k := if freq then 2 * b.cin else b.cin * b.kh * b.kw
  let ow := (b.planned i).2
  o.weights i at' ++ range (freq && o.gate != 0xFFFF) (at' + 2) ++
  range (o.k != k || decide (16384 < k)) (at' + 4) ++ range (o.outs != (if freq then 2 * b.cout else b.cout) || (diag && o.outs != o.k)) (at' + 6) ++
  range (!freq && o.plan != b.nr * ow) (at' + 20) ++ range (!freq && o.vreg != 0) (at' + 22)

/-- The checks that every operand block shares. -/
def OpBlk.common (o : OpBlk) (raw : List Byte) (at' : Nat) : List Breach :=
  range (decide (4096 < o.plan)) (at' + 20) ++ range (decide (31 < o.vreg)) (at' + 22) ++ reserved raw at' 23 9

/-- ACT_FMT, OUT_FMT and ADAPTIVE of a CONV (R244) or FCONV (R249). -/
def convPrecOk (i : Image) (b : ConvBlk) (freq : Bool) (w : Nat) : Bool :=
  planarFmt (nfld w 52 4) &&
    (if freq then nfld w 48 4 == 9 && !w.testBit 32
     else nfld w 48 4 == (i.tensor b.inT).fmt && [9, 10, 12, 13].contains (nfld w 48 4))

end Sys2Proof.Machine
end

