-- ==== Sys2Proof/Machine/FireCore.lean ====
section
/-! DEFINITION. Firing, step 4 of R67: reading a core section and checking it (R58 to R64, R92, R200 to R205, R216, R224,
R347, R523, R524). -/

namespace Sys2Proof.Machine

/-! ## Tables of a section (R524) -/

/-- A table: the section offset of its offset field, where it lies, its bytes and its alignment. -/
structure TableAt where
  field : Nat
  off   : Nat
  len   : Nat
  align : Nat

/-- Two tables of a section overlap, and `t` is the one that begins in the other. -/
def TableAt.inside (t u : TableAt) : Bool :=
  u.field != t.field && u.len != 0 && decide (u.off ≤ t.off) && decide (t.off < u.off + u.len) &&
    (decide (u.off < t.off) || decide (u.field < t.field))

/-- A table is out of its place (R524). A table of no bytes may have any offset. -/
def TableAt.bad (t : TableAt) (size fixed : Nat) (ts : List TableAt) : Bool :=
  t.len != 0 && (decide (t.off < fixed) || decide (size < t.off + t.len) || t.off % t.align != 0 || ts.any t.inside)

/-- The breaches of R524. -/
def tablePlaces (size fixed : Nat) (ts : List TableAt) : List Breach :=
  ts.flatMap (fun t => range (t.bad size fixed ts) t.field)

/-- The offsets of the `n` entries of a table. -/
def entriesAt (off n size : Nat) : List Nat := (List.range n).map (fun i => off + i * size)

/-! ## Reading a core section (R58 to R64) -/

/-- The tables of a core section. -/
def coreTables (bs : List Byte) : List TableAt :=
  let w := headWord bs
  [ { field := 12, off := w 12 4, len := w 8 4 + w 48 4, align := 16 },
    { field := 28, off := w 28 4, len := 16 * w 16 2, align := 8 }, { field := 32, off := w 32 4, len := 8 * w 18 2, align := 8 },
    { field := 36, off := w 36 4, len := 4 * w 20 2, align := 8 }, { field := 40, off := w 40 4, len := 16 * w 22 2, align := 8 },
    { field := 44, off := w 44 4, len := 8 * w 24 2, align := 8 } ]

/-- A core section as the job keeps it. -/
def coreSecOf (bs : List Byte) : CoreSec :=
  let w := headWord bs
  { progLen := w 8 4, blockLen := w 48 4, code := (bs.drop (w 12 4)).take (w 8 4 + w 48 4)
    regions := (entriesAt (w 28 4) (w 16 2) 16).map (fun o => { off := w o 4, size := w (o + 4) 4, kind := w (o + 8) 1, chan := w (o + 10) 2 })
    pads := (entriesAt (w 32 4) (w 18 2) 8).map (fun o => (w o 2, BitVec.ofNat 32 (w (o + 4) 4)))
    beds := (entriesAt (w 36 4) (w 20 2) 4).map (fun o => w o 4)
    live := (entriesAt (w 40 4) (w 22 2) 16).map (fun o => { boundary := w o 4, tiles := w (o + 4) 1, regions := w (o + 8) 8 })
    uses := (entriesAt (w 44 4) (w 24 2) 8).map (fun o => (w o 4, w (o + 4) 2))
    tiles := w 26 1, order := w 27 1 }

/-- What a core section is checked against: the core, whether it has a stage, the rest of the image, the group count of its
cluster, the batch extent, the formats of QK and PV weights, and every core's scan slices. -/
structure FireEnv where
  core  : Nat
  busy  : Bool
  image : Image
  pgt   : Nat
  ext   : Nat
  keyF  : Option Nat
  valF  : Option Nat
  spans : List (Nat × Nat × Nat)

/-- Channels that enter the core. -/
def FireEnv.ins (e : FireEnv) : List Nat :=
  (List.range e.image.chans.length).filter (fun c => (e.image.chans.getD c {}).consumer == e.core)

/-- Channels that leave the core. -/
def FireEnv.outs (e : FireEnv) : List Nat :=
  (List.range e.image.chans.length).filter (fun c => (e.image.chans.getD c {}).producer == e.core)

/-! ## The fixed part (R58, R60) -/

/-- An idle core's section names nothing (R58). -/
def coreIdle (bs : List Byte) : List Breach :=
  [(8, 4), (16, 2), (18, 2), (20, 2), (22, 2), (24, 2), (26, 1), (48, 4)].flatMap (fun (f : Nat × Nat) => range (headWord bs f.1 f.2 != 0) f.1)

/-- An array command is among the program's words (R92). -/
def CoreSec.usesArray (c : CoreSec) : Bool :=
  (List.range c.length).any (fun i => arrayOp (c.wordAt i % 256))

/-- The checks of the fixed part and of where the tables lie. No accumulator tile at all is too few for an array command,
reason ACCUMULATOR (R92), and out of range on a busy core without one (R58). -/
def coreFixed (e : FireEnv) (bs : List Byte) : List Breach :=
  let w := headWord bs
  if bs.length < 64 then range (w 0 2 != 3) 0 ++ range (w 2 2 != e.core) 2 ++ [(4, 0x031)]
  else
    range (w 0 2 != 3) 0 ++ range (w 2 2 != e.core) 2 ++ range (w 4 4 != bs.length) 4 ++
    range (w 8 4 % 16 != 0 || decide (2 ^ 20 < w 8 4)) 8 ++ range (decide (64 < w 16 2)) 16 ++
    breach (e.busy && w 26 1 == 0) 26 (if (coreSecOf bs).usesArray then 0x036 else 0x031) ++
    breach (e.busy && decide (8 < w 26 1)) 26 0x036 ++
    range (decide (2 < w 27 1)) 27 ++ range (w 48 4 % 16 != 0) 48 ++ reserved bs 0 52 12 ++
    (if e.busy then [] else coreIdle bs) ++ tablePlaces bs.length 64 (coreTables bs)

/-! ## Regions (R59) -/

/-- Two regions share a byte. -/
def RegionE.meets (a b : RegionE) : Bool := decide (a.off < b.off + b.size) && decide (b.off < a.off + a.size)

/-- One region entry, at section offset `o`. -/
def regionBreaches (e : FireEnv) (bs : List Byte) (c : CoreSec) (o i : Nat) : List Breach :=
  let r := c.regions.getD i {}
  let chan := r.chan != 0xFFFF
  let mine := e.ins.contains r.chan
  let d := e.image.chans.getD r.chan {}
  breach (r.off % 64 != 0 || decide (6291456 < r.off + r.size) || (List.range i).any (fun k => (c.regions.getD k {}).meets r)) o 0x035 ++
  breach (r.kind == 0 && decide (r.size < c.progLen + c.blockLen)) (o + 4) 0x035 ++
  breach (chan && mine && (r.kind == 1 || r.kind == 5) && r.size != d.depth * d.slotBytes) (o + 4) 0x035 ++
  range (decide (5 < r.kind)) (o + 8) ++ reserved bs 0 (o + 9) 1 ++
  breach (chan && (r.kind == 1 || r.kind == 5) && !mine) (o + 10) 0x035 ++
  range (chan && !(r.kind == 1 || r.kind == 5) && !mine && !e.outs.contains r.chan) (o + 10) ++ reserved bs 0 (o + 12) 4

/-- Every region, exactly one PROGRAM region, and one region for each incoming channel; a missing or doubled one is reported
at the region count. -/
def coreRegions (e : FireEnv) (bs : List Byte) (c : CoreSec) : List Breach :=
  let o := headWord bs 28 4
  let named := fun (ch : Nat) => (c.regions.filter (fun r => (r.kind == 1 || r.kind == 5) && r.chan == ch)).length
  (List.range c.regions.length).flatMap (fun i => regionBreaches e bs c (o + 16 * i) i) ++
  breach ((c.regions.filter (fun r => r.kind == 0)).length != 1 || e.ins.any (fun ch => named ch != 1) ||
    decide (6291456 < (c.regions.map (·.size)).sum)) 16 0x035

/-! ## Padding, bed points, live ranges, tensor use (R61 to R64, R347) -/

/-- A NaN padding pattern for a format that holds none (R61). -/
def padBad (fmt : Nat) (v : W32) : Bool :=
  decide (0x7F800000 < v.toNat % 2 ^ 31) && [1, 4, 5, 6, 7, 8, 12, 13].contains fmt

def corePads (e : FireEnv) (bs : List Byte) (c : CoreSec) : List Breach :=
  let o := headWord bs 32 4
  (List.range c.pads.length).flatMap (fun i =>
    let p := c.pads.getD i (0, 0)
    let a := o + 8 * i
    breach ((c.pads.take i).any (fun x => x.1 == p.1)) a 0x032 ++ tensorRef e.image p.1 a false ++ reserved bs 0 (a + 2) 2 ++
    range (padBad (e.image.tensor p.1).fmt p.2) (a + 4))

/-- Boundaries at which a live-range entry applies. -/
def CoreSec.liveSpan (c : CoreSec) (i : Nat) : List Nat :=
  let b := (c.live.getD i {}).boundary
  let stop := match c.live[i + 1]? with
    | some l => l.boundary
    | none => c.length + 1
  List.range' b (stop - b)

/-- The mask of the INPUT and HALO regions (R347). -/
def CoreSec.inMask (c : CoreSec) : Nat :=
  (c.regions.zipIdx.map (fun (r : RegionE × Nat) => if r.1.kind == 1 || r.1.kind == 5 then 2 ^ r.2 else 0)).sum

/-- Live ranges (R62) and the regions that must be live away from bed points (R347). -/
def coreLive (bs : List Byte) (c : CoreSec) : List Breach :=
  let o := headWord bs 40 4
  (List.range c.live.length).flatMap (fun i =>
    let l := c.live.getD i {}
    let a := o + 16 * i
    let prog := c.regions.findIdx (fun r => r.kind == 0)
    breach (i == 0 && l.boundary != 0) a 0x037 ++
    breach (i != 0 && decide (l.boundary ≤ (c.live.getD (i - 1) {}).boundary)) a 0x032 ++
    range (decide (c.length < l.boundary)) a ++ breach (decide (2 ^ c.tiles ≤ l.tiles)) (a + 4) 0x036 ++
    reserved bs 0 (a + 5) 3 ++
    breach (decide (2 ^ c.regions.length ≤ l.regions) || l.regions.testBit prog ||
      (l.regions &&& c.inMask != c.inMask && (c.liveSpan i).any (fun b => !c.beds.contains b))) (a + 8) 0x037)

/-- Bed points: ascending, inside the program, with nothing live (R63). -/
def coreBeds (bs : List Byte) (c : CoreSec) : List Breach :=
  let o := headWord bs 36 4
  (List.range c.beds.length).flatMap (fun i =>
    let b := c.beds.getD i 0
    let l := c.live? b
    breach (i != 0 && decide (b ≤ c.beds.getD (i - 1) 0)) (o + 4 * i) 0x032 ++ range (decide (c.length < b)) (o + 4 * i) ++
    breach (l.tiles != 0 || l.regions != 0) (o + 4 * i) 0x037)

/-- Tensor use: sorted by instruction, no entry twice (R64). -/
def coreUses (e : FireEnv) (bs : List Byte) (c : CoreSec) : List Breach :=
  let o := headWord bs 44 4
  (List.range c.uses.length).flatMap (fun i =>
    let u := c.uses.getD i (0, 0)
    let a := o + 8 * i
    breach ((i != 0 && decide (u.1 < (c.uses.getD (i - 1) (0, 0)).1)) || (c.uses.take i).contains u) a 0x032 ++
    range (decide (c.length ≤ u.1)) a ++ tensorRef e.image u.2 (a + 4) false ++ reserved bs 0 (a + 6) 2)

/-! ## Instructions and their blocks (R78, R92, R200, R203 to R205, R224, R523) -/

/-- A block of `n` bytes at an index lies wholly inside the block data (R523). -/
def CoreSec.holds (c : CoreSec) (index n : Nat) : Bool :=
  decide (c.progLen ≤ 16 * index) && decide (16 * index + n ≤ c.progLen + c.blockLen)

/-- The bytes of a block. -/
def CoreSec.raw (c : CoreSec) (index n : Nat) : List Byte := (c.code.drop (16 * index)).take n

/-- Where the PROGRAM region lies in scratchpad. -/
def CoreSec.progBase (c : CoreSec) : Nat := ((c.regions.find? (fun r => r.kind == 0)).map (·.off)).getD 0

/-- The gate control block that an operand block at section offset `oat` names. -/
def gateBreaches (e : FireEnv) (c : CoreSec) (po oat : Nat) (o : OpBlk) (out cols outs : Nat) : List Breach :=
  if o.gate = 0xFFFF then []
  else if !c.holds o.gate 64 then [(oat + 2, 0x031)]
  else
    (c.gateBlk o.gate).breaches e.image (c.raw o.gate 64)
      { at' := po + 16 * o.gate, lo := c.progBase + c.progLen, hi := c.progBase + c.progLen + c.blockLen, out, cols, outs }

/-- A MATMUL. -/
def matmulBreaches (e : FireEnv) (c : CoreSec) (po at' : Nat) (f : FmtA) : List Breach :=
  let w := f.prec.toNat
  let diag := nfld w 40 2 == 1
  let o := c.opBlk f.operand
  let oat := po + 16 * f.operand
  if !c.holds f.operand 32 then [(at', 0x031)]
  else o.matmul e.image diag oat ++ o.common (c.raw f.operand 32) oat ++
    gateBreaches e c po oat o (nfld w 52 4) (256 * precTiles w) o.outs

/-- A CONV or FCONV. -/
def convBreaches (e : FireEnv) (c : CoreSec) (po at' : Nat) (f : FmtA) (freq : Bool) : List Breach :=
  let w := f.prec.toNat
  let o := c.opBlk f.operand
  let b := c.convBlk f.ctrl
  let oat := po + 16 * f.operand
  if !c.holds f.operand 32 || !c.holds f.ctrl 64 || f.ctrl % 4 != 0 then [(at', 0x031)]
  else o.conv e.image b freq (nfld w 40 2 == 1) oat ++ o.common (c.raw f.operand 32) oat ++
    b.breaches e.image (c.raw f.ctrl 64) (if freq then .fconv else .conv) (nfld w 52 4) (po + 16 * f.ctrl) ++ range (!convPrecOk e.image b freq w) (at' + 8) ++
    (if freq then [] else gateBreaches e c po oat o (nfld w 52 4) (256 * precTiles w) o.outs)

/-- A QK (role 2) or PV (role 3): SOFTMAX and head dimension agree with the attention control block, and the weight format
with every other such command (R178). -/
def attnBreaches (e : FireEnv) (c : CoreSec) (po at' : Nat) (f : FmtA) (role : Nat) : List Breach :=
  let w := f.prec.toNat
  let o := c.opBlk f.operand
  let a := c.attnBlk f.ctrl
  let g := c.gateBlk o.gate
  let oat := po + 16 * f.operand
  let gat := po + 16 * o.gate
  let cols := 256 * precTiles w
  let same := if role = 2 then e.keyF else e.valF
  if !c.holds f.operand 32 || !c.holds f.ctrl 64 then [(at', 0x031)]
  else o.attention oat ++ o.common (c.raw f.operand 32) oat ++ range (same != some (nfld w 44 4)) (at' + 8) ++
    a.breaches e.image (c.raw f.ctrl 64)
      { at' := po + 16 * f.ctrl, role, w := pageWidth (e.keyF.getD 6) (e.valF.getD 6), ext := e.ext, regions := c.regions } ++
    range (o.gate == 0xFFFF) (oat + 2) ++
    (if o.gate = 0xFFFF then [] else range (g.softmax != (if role = 2 then 1 else 4)) (gat + 3) ++ range (g.d != a.d) (gat + 4)) ++
    gateBreaches e c po oat o (nfld w 52 4) cols cols

/-- An APPEND. -/
def appendBreaches (e : FireEnv) (c : CoreSec) (po at' : Nat) (f : FmtA) : List Breach :=
  if !c.holds f.ctrl 64 then [(at', 0x031)]
  else (c.attnBlk f.ctrl).breaches e.image (c.raw f.ctrl 64)
    { at' := po + 16 * f.ctrl, role := 1, w := pageWidth (e.keyF.getD 6) (e.valF.getD 6), ext := e.ext, regions := c.regions }

/-- Instruction indices with their words. -/
def CoreSec.words (c : CoreSec) : List (Nat × Nat) := (List.range c.length).map (fun i => (i, c.wordAt i))

/-- PREP channels of an instruction that writes scan records at a scratchpad offset (R149). -/
def CoreSec.prepOf (c : CoreSec) (input w : Nat) : Option Nat :=
  let o := c.opBlk (fieldsA w).operand
  let g := c.gateBlk o.gate
  if (w % 256 = 0x20 || w % 256 = 0x24) && o.gate != 0xFFFF && g.prep && g.scanIn == input then some g.prepC else none

/-- PREP channels of the command that produces the records of the SCAN at instruction `at'`: the nearest MATMUL or CONV before
it in the program that writes records at that offset, or, with none before it, the last one after it, as in a loop (R150). DESIGN
CHOICE (log entry 127). -/
def CoreSec.prepChannels (c : CoreSec) (at' input : Nat) : Option Nat :=
  let made := c.words.filterMap (fun x => (c.prepOf input x.2).map (fun k => (x.1, k)))
  (((made.filter (fun p => decide (p.1 < at'))).getLast?.orElse (fun _ => made.getLast?)).map (·.2))

/-- A SCAN: its block, its channels against the command that produces its records, and its slice apart from those of other
cores (R150), of which the later core is reported. -/
def scanBreaches (e : FireEnv) (c : CoreSec) (po at' insn : Nat) (f : FmtA) : List Breach :=
  let b := c.scanBlk f.ctrl
  let s := b.span
  if !c.holds f.ctrl 32 then [(at', 0x031)]
  else b.breaches e.image (c.raw f.ctrl 32) (po + 16 * f.ctrl) ++
    range (!b.renorm && (c.prepChannels insn b.input).any (fun k => k != b.chans)) (po + 16 * f.ctrl) ++
    range (e.spans.any (fun x => decide (x.1 < e.core) && decide (x.2.1 < s.2) && decide (s.1 < x.2.2))) (po + 16 * f.ctrl + 4)

/-- A word writes a scalar register (R202, R203, R216, R357). -/
def writesReg (w r : Nat) : Bool :=
  let op := w % 256
  let rd := nfld w 8 5
  if decide (1 ≤ op) && decide (op ≤ 8) || op = 0x0A then rd == r
  else if op = 0x0D then decide (rd ≤ r) && decide (r ≤ rd + 2)
  else if op = 0x11 then rd == r
  else if op = 0x1A then nfld w 23 5 == r
  else op == 0xA0 && nfld w 31 5 == r

/-- The constant that a register holds at an instruction as far as firing knows it: 0 for s0, and what the nearest write before
it in the program gives where that is an SLI. DESIGN CHOICE (log entry 73). -/
def CoreSec.constAt (c : CoreSec) (insn r : Nat) : Option Nat :=
  if r = 0 then some 0
  else
    match ((c.words.take insn).filter (fun x => writesReg x.2 r)).getLast? with
    | some x => if x.2 % 256 = 1 then some (nfld x.2 64 64) else none
    | none => none

/-- The index of the convolution control block of a POOL at an instruction, where firing knows SRC3: some index, or none where
the offset is off its grid or outside the block data (R252, R523). -/
def CoreSec.poolIndex (c : CoreSec) (insn w : Nat) : Option (Option Nat) :=
  (c.constAt insn (fieldsV w).src3).map (fun a =>
    let i := (a - c.progBase) / 16
    if a % 64 = 0 && decide (c.progBase ≤ a) && c.holds i 64 then some i else none)

/-- A POOL whose control block firing knows (R240, R252, R257). -/
def poolBreaches (e : FireEnv) (c : CoreSec) (po at' insn w : Nat) : List Breach :=
  match c.poolIndex insn w with
  | none => []
  | some none => [(at', 0x031)]
  | some (some i) =>
    let b := c.convBlk i
    let fmt := tyFmt (fieldsV w).type
    range (decide (b.inT < e.image.tensors.length) && planarFmt (e.image.tensor b.inT).fmt && (e.image.tensor b.inT).fmt != fmt) at' ++
      b.breaches e.image (c.raw i 64) .pool fmt (po + 16 * i)

/-- The precision word of an array command, then the rest; tiles below what the weight format needs are reported at the
tiles field (R78, R92). -/
def withPrec (c : CoreSec) (at' : Nat) (f : FmtA) (rest : List Breach) : List Breach :=
  let w := f.prec.toNat
  if !precForm w then [(at', 0x034)]
  else range (!precOk w) (at' + 8) ++ breach (wgtFmt (nfld w 44 4) && decide (c.tiles < precTiles w)) 26 0x036 ++ rest

/-- Instruction `insn`, by its word, at section offset `at'`. -/
def insnBreaches (e : FireEnv) (c : CoreSec) (po at' insn w : Nat) : List Breach :=
  let f := fieldsA w
  let ch := fieldsC w
  let v := fieldsV w
  let op := w % 256
  let d := e.image.chans.getD ch.chan {}
  match op with
  | 0x0C => breach (decide (c.length ≤ nfld w 64 16)) at' 0x034
  | 0x10 => if e.outs.contains ch.chan then range (decide (d.largest * d.slotBytes < ch.imm.toNat)) at' else [(at', 0x034)]
  | 0x11 => breach (!e.ins.contains ch.chan) at' 0x034
  | 0x12 => breach (!e.ins.contains ch.chan) at' 0x034
  | 0x20 => withPrec c at' f (matmulBreaches e c po at' f)
  | 0x21 => withPrec c at' f (attnBreaches e c po at' f 2)
  | 0x22 => withPrec c at' f (attnBreaches e c po at' f 3)
  | 0x23 => appendBreaches e c po at' f
  | 0x24 => withPrec c at' f (convBreaches e c po at' f false)
  | 0x25 => withPrec c at' f (convBreaches e c po at' f true)
  | 0x30 => scanBreaches e c po at' insn f
  | 0x82 => poolBreaches e c po at' insn w
  | _ =>
    range (decide (0x40 ≤ op) && decide (op < 0x90) && v.pgt &&
      (v.bcast != 1 || decide (3 ≤ v.type) || fld v.imm 8 3 == 7 || decide (e.pgt ≤ fld v.imm 0 8))) at'

/-! ## Tensors that instructions name and read (R64, R116) -/

/-- Tensors that an instruction reads from job memory (R53, R64). -/
def CoreSec.insnReads (c : CoreSec) (w : Nat) : List Nat :=
  let f := fieldsA w
  let a := c.attnBlk f.ctrl
  let b := c.scanBlk f.ctrl
  let ts := match w % 256 with
    | 0x20 => c.opReads f.operand true
    | 0x21 => c.opReads f.operand false ++ [a.bmT, a.visT]
    | 0x22 => c.opReads f.operand false ++ [a.bmT, a.visT]
    | 0x23 => [a.segT, a.posT]
    | 0x24 => c.opReads f.operand true
    | 0x25 => c.opReads f.operand true
    | 0x30 => [b.aT, b.dT, b.fT]
    | _ => []
  ts.filter (· != 0xFFFF)

/-- Tensors that the blocks of instruction `insn` name (R116). -/
def CoreSec.insnNames (c : CoreSec) (insn w : Nat) : List Nat :=
  let f := fieldsA w
  let conv := fun (i : Nat) => [(c.convBlk i).inT, (c.convBlk i).outT]
  c.insnReads w ++
    (match w % 256 with
     | 0x23 => [(c.attnBlk f.ctrl).bmT].filter (· != 0xFFFF)
     | 0x24 => conv f.ctrl
     | 0x25 => conv f.ctrl
     | 0x82 => (match c.poolIndex insn w with
       | some (some i) => conv i
       | _ => [])
     | _ => [])

/-- The whole program: each word decodes (R200, R523) and passes its checks. -/
def coreProgram (e : FireEnv) (bs : List Byte) (c : CoreSec) : List Breach :=
  let po := headWord bs 12 4
  c.words.flatMap (fun (x : Nat × Nat) =>
    if (decodeInsn e.core x.2).isNone then [(po + 16 * x.1, 0x034)] else insnBreaches e c po (po + 16 * x.1) x.1 x.2)

/-- The tensor-use table lists every tensor that an instruction reads (R64), or the use count is reported. -/
def coreListed (e : FireEnv) (c : CoreSec) : List Breach :=
  breach (c.words.any (fun x => (decodeInsn e.core x.2).isSome && (c.insnReads x.2).any (fun t => !c.uses.contains (x.1, t)))) 24
    0x032

/-- The table whose offset field stands at `field` lies inside the section, so that its entries can be read. -/
def readable (size : Nat) (ts : List TableAt) (field : Nat) : Bool :=
  ts.all (fun t => t.field != field || t.len == 0 || decide (t.off + t.len ≤ size))

/-- Every check of a core section. A table that does not lie inside it hides what it holds, and nothing else. -/
def coreBreaches (e : FireEnv) (bs : List Byte) : List Breach :=
  let c := coreSecOf bs
  let ok := readable bs.length (coreTables bs)
  let when' := fun (fields : List Nat) (xs : List Breach) => if fields.all ok then xs else []
  coreFixed e bs ++
    (if e.busy && decide (64 ≤ bs.length) then
      breach c.live.isEmpty 22 0x037 ++ when' [28] (coreRegions e bs c) ++ when' [32] (corePads e bs c) ++
      when' [40] (coreLive bs c) ++ when' [36, 40] (coreBeds bs c) ++ when' [44] (coreUses e bs c) ++
      when' [12] (coreProgram e bs c) ++ when' [12, 44] (coreListed e c)
     else [])

/-! ## What firing works out of a core section -/

/-- A core's share of the save need: the most live bytes over its live-range entries (R348). -/
def CoreSec.saveBytes (c : CoreSec) : Nat :=
  c.live.foldl (fun m l =>
    max m ((c.regions.zipIdx.map (fun (r : RegionE × Nat) => if l.regions.testBit r.2 then r.1.size else 0)).sum +
      262144 * ((List.range 8).filter (fun t => l.tiles.testBit t)).length)) 0

/-- Tensors that a core names, in its tensor-use table or its blocks (R116). -/
def CoreSec.names (c : CoreSec) : List Nat := c.uses.map (·.2) ++ c.words.flatMap (fun x => c.insnNames x.1 x.2)

/-- The slices of a core's scan control blocks. -/
def CoreSec.spans (c : CoreSec) : List (Nat × Nat) :=
  c.words.filterMap (fun x => if x.2 % 256 = 0x30 then some (c.scanBlk (fieldsA x.2).ctrl).span else none)

/-- The weight formats of a core's commands of an opcode (R178). -/
def CoreSec.fmtsOf (c : CoreSec) (op : Nat) : List Nat :=
  c.words.filterMap (fun x => if x.2 % 256 = op then some (nfld (fieldsA x.2).prec.toNat 44 4) else none)

/-- The groups that a core's attention commands name. -/
def CoreSec.groups (c : CoreSec) : List Nat :=
  c.words.filterMap (fun x =>
    if decide (0x21 ≤ x.2 % 256) && decide (x.2 % 256 ≤ 0x23) then some (c.attnBlk (fieldsA x.2).ctrl).g else none)

end Sys2Proof.Machine
end

