-- ==== Sys2Proof/Machine/FireImage.lean ====
section
/-! DEFINITION. Firing: the checks of the header, the directory, the device section and the cluster sections, and the checks
that join them (R38 to R57, R67 to R70, R253). -/

namespace Sys2Proof.Machine

/-! ## The header and the directory (R39, R40; step 1) -/

/-- Directory entry `k`: offset and size of its section. -/
def sectionAt (bs : List Byte) (k : Nat) : Nat × Nat := (headWord bs (128 + 16 * k) 8, headWord bs (136 + 16 * k) 4)

/-- The bytes of the section of a directory entry. -/
def sectionOf (bs : List Byte) (k : Nat) : List Byte := (bs.drop (sectionAt bs k).1).take (sectionAt bs k).2

/-- Signature bytes that the flags call for (R39). -/
def sigBytes (bs : List Byte) : Nat := if nfld (headWord bs 6 2) 0 1 = 1 then 5312 else 0

/-- The header's sizes and its count (R39, R70). -/
def headerBreaches (bs : List Byte) : List Breach :=
  let w := headWord bs
  let total := w 16 8
  breach (w 0 4 != 0x4E4C494B) 0 0x001 ++ breach (w 4 2 != 3) 4 0x002 ++
  breach (total % 64 != 0 || decide (total < 8896) || decide (1088 * 2 ^ 20 < total) || total + sigBytes bs != bs.length) 16 0x003 ++
  breach (w 24 4 != sigBytes bs) 24 0x003 ++ breach (w 28 4 != 545) 28 0x004

/-- Kind, unit and greatest size of directory entry `k` (R40). -/
def entryWant (k : Nat) : Nat × Nat × Nat :=
  if k = 0 then (1, 0, 2 ^ 24) else if k ≤ 32 then (2, k - 1, 2 ^ 20) else (3, k - 33, 2 ^ 21)

/-- Two sections share a byte. -/
def sectionsMeet (a b : Nat × Nat) : Bool := decide (a.1 < b.1 + b.2) && decide (b.1 < a.1 + a.2)

/-- The directory (R40, R70). -/
def dirBreaches (bs : List Byte) : List Breach :=
  (List.range 545).flatMap (fun k =>
    let s := sectionAt bs k
    let o := 128 + 16 * k
    let t := entryWant k
    breach (s.1 % 64 != 0 || decide (s.1 < 8848) || decide (headWord bs 16 8 < s.1 + s.2) ||
      (List.range k).any (fun i => sectionsMeet (sectionAt bs i) s)) o 0x004 ++
    breach (decide (t.2.2 < s.2)) (o + 8) 0x004 ++
    breach (headWord bs (o + 12) 2 != t.1 || headWord bs (o + 14) 2 != t.2.1) (o + 12) 0x004)

/-- Reserved fields of the header (step 4). -/
def headerReserved (bs : List Byte) : List Breach :=
  breach (decide (4 ≤ headWord bs 6 2)) 6 0x030 ++ reserved bs 0 12 4 ++ reserved bs 0 80 48

/-! ## The device section (R44 to R54) -/

/-- The tables of a device section. -/
def deviceTables (bs : List Byte) : List TableAt :=
  let w := headWord bs
  [ { field := 272, off := w 272 4, len := 16 * w 8 2, align := 8 }, { field := 276, off := w 276 4, len := 16 * w 10 2, align := 8 },
    { field := 280, off := w 280 4, len := 16 * w 12 2, align := 8 }, { field := 284, off := w 284 4, len := 8 * w 14 2, align := 8 } ]

/-- A device section as the job keeps it. -/
def deviceOf (bs : List Byte) : Image :=
  let w := headWord bs
  { stages := (entriesAt (w 272 4) (w 8 2) 16).map (fun o =>
      { width := w (o + 2) 2, split := w (o + 4) 1, flags := w (o + 5) 1, halo := w (o + 6) 2, first := w (o + 8) 4, layers := w (o + 12) 2 })
    chans := (entriesAt (w 276 4) (w 10 2) 16).map (fun o =>
      { producer := w (o + 2) 2, consumer := w (o + 4) 2, flags := w (o + 6) 1, depth := w (o + 8) 2, slot := w (o + 10) 2
        rate := w (o + 12) 2, largest := w (o + 14) 2 })
    tensors := (entriesAt (w 280 4) (w 12 2) 16).map (fun o => { fmt := w (o + 2) 1 % 16, pages := w (o + 4) 4, addr := w (o + 8) 8 })
    limits := (entriesAt (w 284 4) (w 14 2) 8).map (fun o => { tensor := w o 2, dim := w (o + 2) 1, extent := w (o + 4) 4 })
    regs := (entriesAt 128 9 16).map (fun o =>
      { flags := w (o + 1) 1, guaranteed := w (o + 2) 2, ceiling := w (o + 4) 2, depth := w (o + 6) 2, window := w (o + 8) 4 })
    cacheUnits := (entriesAt 16 32 1).map (fun o => w o 1), promote := w 48 1, demote := w 49 1, shift := w 50 1
    interval := w 52 4, sliceFirst := w 56 4, sliceCount := w 60 4, options := w 64 4, peatUnits := w 72 8
    links := (entriesAt 80 48 1).map (fun o => w o 1) }

/-- One regulator entry (R47, R48). -/
def regulatorBreaches (bs : List Byte) (k : Nat) : List Breach :=
  let w := headWord bs
  let o := 128 + 16 * k
  breach (w o 1 != k) o 0x032 ++ breach (decide (2 ≤ w (o + 1) 1)) (o + 1) 0x030 ++
  range (decide (1024 < w (o + 2) 2) || (k == 8 && decide (w (o + 2) 2 < 8))) (o + 2) ++
  range (decide (w (o + 4) 2 < w (o + 2) 2) || decide (1024 < w (o + 4) 2)) (o + 4) ++ range (decide (w (o + 6) 2 < 4)) (o + 6) ++
  range (decide (w (o + 8) 4 < 100) || decide (10 ^ 6 < w (o + 8) 4)) (o + 8) ++ reserved bs 0 (o + 12) 4

/-- The fixed part of the device section (R44 to R48). -/
def deviceFixed (bs : List Byte) : List Breach :=
  let w := headWord bs
  let shares := ((entriesAt 128 9 16).map (fun o => w (o + 2) 2)).sum
  range (w 0 2 != 1) 0 ++ reserved bs 0 2 2 ++ range (w 4 4 != bs.length) 4 ++ range (w 8 2 == 0 || decide (512 < w 8 2)) 8 ++
  range (decide (8192 < w 10 2)) 10 ++ range (w 12 2 == 0) 12 ++ range (decide (4096 < w 14 2)) 14 ++
  (entriesAt 16 32 1).flatMap (fun o => range (decide (w o 1 < 2) || decide (16 < w o 1)) o) ++
  range (w 48 1 == 0) 48 ++ range (decide (w 48 1 ≤ w 49 1)) 49 ++ range (w 50 1 == 0 || decide (7 < w 50 1)) 50 ++
  reserved bs 0 51 1 ++ range (w 52 4 == 0 || decide (65535 < w 52 4)) 52 ++ range (w 56 4 % 256 != 0) 56 ++
  range (w 60 4 % 256 != 0 || decide (w 60 4 < 256) || decide (2 ^ 20 < w 56 4 + w 60 4)) 60 ++
  breach (w 64 4 / 512 != 0 || nfld (w 64 4) 3 5 != 0) 64 0x030 ++ range (w 64 4 % 8 == 0) 64 ++ reserved bs 0 68 4 ++
  range (w 72 8 == 0 || decide (2621440 < w 72 8)) 72 ++ (entriesAt 80 48 1).flatMap (fun o => range (decide (230 < w o 1)) o) ++
  range (decide (1024 < shares)) 130 ++ (List.range 9).flatMap (regulatorBreaches bs) ++ reserved bs 0 288 224

/-- The stage table (R49). -/
def stageBreaches (bs : List Byte) : List Breach :=
  let w := headWord bs
  (List.range (w 8 2)).flatMap (fun i =>
    let o := w 272 4 + 16 * i
    let width := w (o + 2) 2
    let split := w (o + 4) 1
    let halo := w (o + 6) 2
    breach (w o 2 != i) o 0x032 ++ range (width == 0 || decide (64 < width)) (o + 2) ++
    range (decide (3 < split) || ((split == 0) != (width == 1))) (o + 4) ++ breach (decide (8 ≤ w (o + 5) 1)) (o + 5) 0x030 ++
    range (if split = 3 then halo == 0 || decide (64 < halo) else halo != 0) (o + 6) ++ range (w (o + 12) 2 == 0) (o + 12) ++
    reserved bs 0 (o + 14) 2)

/-- The channel table (R51). One row of a stripe is one transfer of a HALO channel (R253). -/
def chanBreaches (bs : List Byte) : List Breach :=
  let w := headWord bs
  (List.range (w 10 2)).flatMap (fun i =>
    let o := w 276 4 + 16 * i
    let inR := fun (v hi : Nat) => decide (1 ≤ v) && decide (v ≤ hi)
    breach (w o 2 != i) o 0x032 ++ range (decide (511 < w (o + 2) 2)) (o + 2) ++
    range (decide (511 < w (o + 4) 2) || w (o + 4) 2 == w (o + 2) 2) (o + 4) ++ breach (decide (2 ≤ w (o + 6) 1)) (o + 6) 0x030 ++
    reserved bs 0 (o + 7) 1 ++ range (!inR (w (o + 8) 2) 1024) (o + 8) ++ range (!inR (w (o + 10) 2) 256) (o + 10) ++
    range (w (o + 12) 2 % 64 != 0 || !inR (w (o + 12) 2) 512) (o + 12) ++
    range (!inR (w (o + 14) 2) 1024 || (w (o + 6) 1 % 2 == 1 && w (o + 14) 2 != 1)) (o + 14))

/-- The tensor table (R53). -/
def tensorBreaches (bs : List Byte) : List Breach :=
  let w := headWord bs
  (List.range (w 12 2)).flatMap (fun i =>
    let o := w 280 4 + 16 * i
    breach (w o 2 != i) o 0x032 ++ breach (decide (16 ≤ w (o + 2) 1)) (o + 2) 0x030 ++
    range (w (o + 2) 1 % 16 == 0 || decide (13 < w (o + 2) 1 % 16)) (o + 2) ++ reserved bs 0 (o + 3) 1 ++
    range (w (o + 8) 8 % 65536 != 0 || decide (2 ^ 57 ≤ w (o + 8) 8)) (o + 8))

/-- The shape limits (R54). -/
def limitBreaches (bs : List Byte) : List Breach :=
  let w := headWord bs
  (List.range (w 14 2)).flatMap (fun i =>
    let o := w 284 4 + 8 * i
    let key := fun (a : Nat) => w a 2 * 256 + w (a + 2) 1
    breach (i != 0 && decide (key o ≤ key (o - 8))) o 0x032 ++ breach (decide (w 12 2 ≤ w o 2)) o 0x038 ++
    range (decide (4 < w (o + 2) 1)) (o + 2) ++ reserved bs 0 (o + 3) 1 ++ range (w (o + 4) 4 == 0) (o + 4))

/-! ## The stage graph (R37, R38, R50, R52, R253) -/

/-- What joins the sections: the device section's bytes, the image so far, and the stage of each core, by core. -/
structure Joined where
  dev   : List Byte
  image : Image
  stage : NMap Nat

/-- The cores of a stage, ascending. -/
def Joined.cores (x : Joined) (st : Nat) : List Nat := (x.stage.filter (fun e => e.2 == st)).map (·.1)

/-- The stages of a channel's ends. -/
def Joined.ends (x : Joined) (c : ChanE) : Option (Nat × Nat) :=
  match NMap.find x.stage c.producer, NMap.find x.stage c.consumer with
  | some a, some b => some (a, b)
  | _, _ => none

/-- The edges of the stage graph, halo channels left out (R38). -/
def Joined.edges (x : Joined) : List (Nat × Nat) :=
  x.image.chans.filterMap (fun c => if c.flags.testBit 0 then none else
    match x.ends c with
    | some (a, b) => if a = b then none else some (a, b)
    | none => none)

/-- Leave out, `n` times, the stages that no edge among those left enters or that none leaves: what stays lies on cycles or
between them. -/
def trimStages (es : List (Nat × Nat)) (n : Nat) (left : List Nat) : List Nat :=
  match n with
  | 0 => left
  | k + 1 =>
    trimStages es k (left.filter (fun s =>
      es.any (fun e => e.2 == s && left.contains e.1) && es.any (fun e => e.1 == s && left.contains e.2)))

/-- Two stages of one direction share a layer (R50). -/
def layersMeet (a b : StageE) : Bool :=
  a.flags.testBit 2 == b.flags.testBit 2 && decide (a.first < b.first + b.layers) && decide (b.first < a.first + a.layers)

/-- The breaches of the stage graph, reported in the stage and channel tables. -/
def Joined.graph (x : Joined) : List Breach :=
  let w := headWord x.dev
  let st := x.image.stages
  let n := st.length
  let at' := fun (i : Nat) => w 272 4 + 16 * i
  let loops := trimStages x.edges n (List.range n)
  (List.range n).flatMap (fun i =>
    let s := st.getD i {}
    breach (loops.contains i) (at' i) 0x033 ++ breach ((x.cores i).length != s.width) (at' i + 2) 0x033 ++
    breach ((List.range i).any (fun k => layersMeet (st.getD k {}) s)) (at' i + 8) 0x033) ++
  (List.range x.image.chans.length).flatMap (fun i =>
    let c := x.image.chans.getD i {}
    let o := w 276 4 + 16 * i
    match x.ends c with
    | some (a, b) =>
      let s := st.getD a {}
      range (c.flags.testBit 0 && a == b && s.split == 3 && c.depth != s.halo) (o + 8)
    | none => [])

/-- Some stage is FIRST and some is LAST (R50), or the stage count is reported. -/
def Joined.firstLast (x : Joined) : List Breach :=
  let st := x.image.stages
  breach (st.all (fun s => !s.flags.testBit 0) || st.all (fun s => !s.flags.testBit 1)) 8 0x033

/-- Every check of step 4 in the device section. A section too short hides the rest of it, and a table that does not lie inside it
what that table holds. -/
def Joined.device (x : Joined) : List Breach :=
  let bs := x.dev
  let w := headWord bs
  if bs.length < 512 then range (w 0 2 != 1) 0 ++ breach (w 2 2 != 0) 2 0x030 ++ [(4, 0x031)]
  else
    let ok := readable bs.length (deviceTables bs)
    let when' := fun (fields : List Nat) (xs : List Breach) => if fields.all ok then xs else []
    deviceFixed bs ++ tablePlaces bs.length 512 (deviceTables bs) ++ when' [272] (x.firstLast ++ stageBreaches bs) ++
      when' [276] (chanBreaches bs) ++ when' [280] (tensorBreaches bs) ++ when' [284] (limitBreaches bs) ++
      when' [272, 276] x.graph

/-! ## Cluster sections (R55 to R57) -/

/-- The tables of a cluster section. -/
def clusterTables (bs : List Byte) : List TableAt :=
  let w := headWord bs
  [ { field := 48, off := w 48 4, len := 8 * w 42 2, align := 8 }, { field := 52, off := w 52 4, len := 16 * w 44 2, align := 8 } ]

/-- A cluster section as the job keeps it. -/
def clusterOf (bs : List Byte) : ClusterSec :=
  let w := headWord bs
  { map := (entriesAt 8 16 2).map (fun o => w o 2), pgt := w 40 2
    routes := (entriesAt (w 48 4) (w 42 2) 8).map (fun o => { chan := w o 2, order := w (o + 2) 1, port := w (o + 3) 1 })
    pins := (entriesAt (w 52 4) (w 44 2) 16).map (fun o => { tensor := w o 2, pages := w (o + 4) 4, off := w (o + 8) 8 }) }

/-- A channel has an end in a logical cluster. -/
def ChanE.touches (c : ChanE) (cl : Nat) : Bool := c.producer / 16 == cl || c.consumer / 16 == cl

/-- A channel joins two clusters. -/
def ChanE.crosses (c : ChanE) : Bool := c.producer / 16 != c.consumer / 16

/-- The mesh-route table: one entry for each channel with an end here (R56). -/
def routeBreaches (i : Image) (cl : Nat) (bs : List Byte) (c : ClusterSec) : List Breach :=
  (List.range c.routes.length).flatMap (fun k =>
    let r := c.routes.getD k {}
    let o := headWord bs 48 4 + 8 * k
    let ch := i.chans.getD r.chan {}
    range (decide (i.chans.length ≤ r.chan) || !ch.touches cl) o ++ breach ((c.routes.take k).any (fun x => x.chan == r.chan)) o 0x032 ++
    range (decide (1 < r.order)) (o + 2) ++ range (decide (3 < r.port) || ((r.port == 0) == ch.crosses)) (o + 3) ++
    reserved bs 0 (o + 4) 4) ++
  breach ((List.range i.chans.length).any (fun k => (i.chans.getD k {}).touches cl && !c.routes.any (fun r => r.chan == k))) 42 0x032

/-- The pinned list (R57). -/
def pinBreaches (i : Image) (bs : List Byte) (c : ClusterSec) : List Breach :=
  (List.range c.pins.length).flatMap (fun k =>
    let p := c.pins.getD k {}
    let o := headWord bs 52 4 + 16 * k
    let t := i.tensor p.tensor
    let known := decide (p.tensor < i.tensors.length)
    breach (!known) o 0x038 ++ range (known && t.addr == 0) o ++ reserved bs 0 (o + 2) 2 ++
    range (known && t.addr != 0 && decide (t.pages < p.off / 65536 + p.pages)) (o + 4) ++ range (p.off % 65536 != 0) (o + 8))

/-- Every check of a cluster section. -/
def clusterBreaches (i : Image) (cl : Nat) (bs : List Byte) : List Breach :=
  let w := headWord bs
  let c := clusterOf bs
  if bs.length < 64 then range (w 0 2 != 2) 0 ++ range (w 2 2 != cl) 2 ++ [(4, 0x031)]
  else
    let ok := readable bs.length (clusterTables bs)
    range (w 0 2 != 2) 0 ++ range (w 2 2 != cl) 2 ++ range (w 4 4 != bs.length) 4 ++
    (List.range 16).flatMap (fun k => range (c.map.getD k 0 != 0xFFFF && decide (i.stages.length ≤ c.map.getD k 0)) (8 + 2 * k)) ++
    range (decide (256 < w 40 2)) 40 ++ reserved bs 0 46 2 ++ reserved bs 0 56 8 ++
    tablePlaces bs.length 64 (clusterTables bs) ++ (if ok 48 then routeBreaches i cl bs c else []) ++
    (if ok 52 then pinBreaches i bs c else [])

/-! ## Routes (R52, R253; step 6) -/

/-- Position of a core among the cores of its stage (R253). -/
def Joined.pos (x : Joined) (st core : Nat) : Nat := (x.cores st).idxOf core

/-- The cores that a channel joins are not ones that the stage graph allows (R52, R253). -/
def Joined.badEnds (x : Joined) (c : ChanE) : Bool :=
  match x.ends c with
  | none => true
  | some (a, b) =>
    if c.flags.testBit 0 then
      let p := x.pos a c.producer
      let q := x.pos a c.consumer
      a != b || (x.image.stages.getD a {}).split != 3 || !(p + 1 == q || q + 1 == p)
    else a == b

/-- A HALO channel that doubles an earlier one between the same two cores (R253). -/
def doubledHalo (cs : List ChanE) (i : Nat) : Bool :=
  let c := cs.getD i {}
  c.flags.testBit 0 && (cs.take i).any (fun d => d.flags.testBit 0 && d.producer == c.producer && d.consumer == c.consumer)

/-- Some pair of adjacent cores of a stripe-split stage lacks a HALO channel in one direction (R253). -/
def Joined.haloMissing (x : Joined) : Bool :=
  let has := fun (a b : Nat) => x.image.chans.any (fun c => c.flags.testBit 0 && c.producer == a && c.consumer == b)
  (List.range x.image.stages.length).any (fun st =>
    let cs := x.cores st
    (x.image.stages.getD st {}).split == 3 && (cs.zip cs.tail).any (fun p => !has p.1 p.2 || !has p.2 p.1))

/-- Step 6: every channel routable. A missing HALO channel is reported at the channel count (log entry 73). -/
def Joined.routes (x : Joined) : List Breach :=
  let cs := x.image.chans
  breach x.haloMissing 10 0x050 ++
  (List.range cs.length).flatMap (fun i =>
    let c := cs.getD i {}
    let o := headWord x.dev 276 4 + 16 * i
    let upTo := cs.take (i + 1)
    breach (decide (32 < (upTo.filter (fun d => d.producer == c.producer)).length) ||
      decide (32 < (upTo.filter (fun d => d.consumer == c.consumer)).length)) o 0x051 ++
    breach (x.badEnds c || doubledHalo cs i) (o + 2) 0x050 ++ breach (decide (c.depth < c.largest)) (o + 8) 0x053 ++
    breach (decide ((if c.crosses then 512 else 256) < c.rate)) (o + 12) 0x051)

end Sys2Proof.Machine
end

