-- ==== Sys2Proof/Machine/Herd.lean ====
section
/-! DEFINITION. The herd: end-to-end delivery, packets received, ring-pass engines, census and routing (R356, R358,
R379 to R395, R400 to R404). -/

namespace Sys2Proof.Machine

/-- A packet is of a transfer. -/
def Transfer2.owns (t : Transfer2) (id : Nat) (p : Packet) : Bool :=
  p.job == id && p.type == (if t.mirror then 7 else 1) && p.msg == t.msg && p.dest == t.peer

/-! ## Timers of end-to-end delivery (R382) -/

/-- Resend a packet: its timeout doubles up to 12.8 ms, and it leaves by the link allowed now, if there is one (R382, R400). -/
def State.resend (s : State) (u : Unacked) : State :=
  let wait := min (u.timeout * 2) 12800
  let now := fun (u' : Unacked) => { s with herd := { s.herd with unacked := s.herd.unacked.map (fun x => if x == u then u' else x) } }
  match s.linkAgain u.pkt with
  | none => now { u with timeout := wait }
  | some n => ((now { u with timeout := wait, link := n }).herdCount 0x30).putOn n u.pkt

/-- Resend listed packets. -/
def State.resendAll (s : State) (us : List Unacked) : State :=
  match us with
  | [] => s
  | u :: rest => (s.resend u).resendAll rest

def execE2eRetransmitTimeout (dest : E2eEnd) (chan seq : Nat) (s : State) : Host.Outcome State Fault Refusal :=
  checked s (decide (dest.peer < 65536) && decide (1 ≤ chan) && decide (chan ≤ 3)) (s.resendAll
    (s.herd.unacked.filter (fun u => u.pkt.job == dest.job && u.pkt.dest == dest.peer && u.pkt.chan == chan && u.pkt.seq == seq)))

/-- How far a sequence number lies after another, in the 32-bit space of R382. -/
def seqAfter (base seq : Nat) : Nat := (seq % 2 ^ 32 + 2 ^ 32 - base % 2 ^ 32) % 2 ^ 32

/-- The map of the 64 sequence numbers after the cumulative point (R380). -/
def RxFlow.map (f : RxFlow) : Nat := ((List.range 64).map (fun i => if f.got.contains ((f.cum + 1 + i) % 2 ^ 32) then 2 ^ i else 0)).sum

/-- The ACK of a flow (R380, R382). -/
def RxFlow.ack (f : RxFlow) (own : Nat) : Packet :=
  { packetTo own f.src f.job 0x05 2 with
    opA := BitVec.ofNat 64 (f.cum % 2 ^ 32 + f.chan * 2 ^ 32), opB := BitVec.ofNat 64 f.map }

/-- Whether a flow is of a job, source and channel. -/
def RxFlow.is (f : RxFlow) (job src chan : Nat) : Bool := f.job == job && f.src == src && f.chan == chan

/-- Acknowledge listed flows. -/
def State.ackFlows (s : State) (fs : List RxFlow) : State :=
  match fs with
  | [] => s
  | f :: rest =>
    let clear := fun (x : RxFlow) => if x.is f.job f.src f.chan then { x with since := 0 } else x
    ({ s with herd := { s.herd with flows := s.herd.flows.map clear } }.sendReply (f.ack s.herd.addr)).ackFlows rest

def execE2eAckTimer (src : E2eEnd) (chan : Nat) (s : State) : Host.Outcome State Fault Refusal :=
  checked s (decide (src.peer < 65536) && decide (1 ≤ chan) && decide (chan ≤ 3)) (s.ackFlows
    (s.herd.flows.filter (fun f => f.is src.job src.peer chan && f.since != 0)))

/-! ## Receipt (R382, R383) -/

/-- A received packet is handled once: it leaves the inbox, and the flits of the receive buffer that it held give their credits back
(R377, R378). -/
def State.takePacket (s : State) (p : Packet) : State :=
  let s := { s with herd := { s.herd with inbox := s.herd.inbox.erase p } }
  match s.herd.held.find? (fun e => e.1 == p) with
  | some e =>
    let l := s.link e.2.1
    { s.setLink e.2.1 { l with control := l.control ++ [(2 + p.chan, e.2.2)] } with herd := { s.herd with held := s.herd.held.erase e } }
  | none => s

/-- The receive flow of a packet. -/
def State.flowFor (s : State) (p : Packet) : RxFlow :=
  (s.herd.flows.find? (fun f => f.is p.job p.src p.chan)).getD
    { job := p.job, src := p.src, chan := p.chan, cum := 0, got := [], since := 0 }

/-- A packet received before (R382). -/
def RxFlow.seen (f : RxFlow) (seq : Nat) : Bool :=
  seqAfter f.cum seq == 0 || decide (2 ^ 31 ≤ seqAfter f.cum seq) || f.got.contains (seq % 2 ^ 32)

/-- A packet received before, or beyond the map of 1,024 numbers (R382). -/
def RxFlow.stale (f : RxFlow) (seq : Nat) : Bool := f.seen seq || decide (1024 < seqAfter f.cum seq)

/-- Raise the cumulative point over what has arrived. -/
def RxFlow.advance (f : RxFlow) (fuel : Nat) : RxFlow :=
  match fuel with
  | 0 => f
  | k + 1 =>
    let next := (f.cum + 1) % 2 ^ 32
    if f.got.contains next then { f with cum := next, got := f.got.erase next }.advance k else f

/-- Note a packet as received; every 16 are acknowledged (R382). Packets that this module sent itself need none. -/
def State.received (s : State) (p : Packet) : State :=
  if p.src = s.herd.addr then s
  else
    let f := s.flowFor p
    let f := { f with got := p.seq % 2 ^ 32 :: f.got, since := f.since + 1 }
    let f := f.advance (f.got.length)
    let rest := s.herd.flows.filter (fun x => !x.is p.job p.src p.chan)
    let s := { s with herd := { s.herd with flows := rest ++ [f] } }
    if 16 ≤ f.since then s.ackFlows [f] else s

/-- A packet that has not been received before. -/
def State.fresh? (s : State) (p : Packet) : Bool := p.src == s.herd.addr || !(s.flowFor p).stale p.seq

/-- A copy of a packet that was received before is discarded and acknowledged anew, for its acknowledgement may be lost (R382, R400); one
beyond the map belongs to an ended job and is refused (R402; log entry 141). -/
def State.receipt (s : State) (p : Packet) (refuse take : State) : State :=
  if s.fresh? p then take
  else if (s.flowFor p).seen p.seq then s.ackFlows [s.flowFor p]
  else refuse

/-- An ORDERED packet from another module that comes before an earlier one of its space: it stays in the inbox until its
turn (R384, log entry 20). -/
def State.outOfTurn (s : State) (p : Packet) : Bool :=
  p.ordered && p.src != s.herd.addr && seqAfter (s.flowFor p).cum p.seq != 1

/-- Refuse a packet (R380, R383): reasons 1 NO_JOB, 2 BUSY. -/
def State.refusePacket (s : State) (p : Packet) (reason : Nat) : State :=
  (s.herdCount 0x38).sendReply { packetTo s.herd.addr p.src p.job 0x06 2 with
    opA := BitVec.ofNat 64 (p.seq % 2 ^ 32 + p.chan * 2 ^ 32), opB := BitVec.ofNat 64 reason }

/-- States of a job that accept a read (R383). -/
def JobState.readable : JobState → Bool
  | .armed => true
  | .resuming => true
  | .running => true
  | .pausing => true
  | .paused => true
  | _ => false

/-- The slot of a packet's job where its state accepts the type. -/
def State.accepting (s : State) (p : Packet) (ok : Job → Bool) : Option Nat :=
  match s.slotOf p.job with
  | some k => if ok (s.job k) then some k else none
  | none => none

/-- Count the bytes of an open message; the whole message raises its semaphore (R357, R395). -/
def State.messageBytes (s : State) (k : Nat) (p : Packet) : State :=
  let whole := fld p.opB 0 32
  let raise := if bit p.opB 44 then some (fld p.opB 32 12) else none
  let m : OpenMsg := (s.herd.messages.find? (fun m => m.job == p.job && m.src == p.src && m.msg == p.msg)).getD
    { job := p.job, src := p.src, msg := p.msg, left := whole, raise := none }
  let rest := s.herd.messages.filter (fun x => !(x.job == p.job && x.src == p.src && x.msg == p.msg))
  let m : OpenMsg := { m with left := m.left - p.payload.length, raise := if raise.isSome then raise else m.raise }
  if m.left = 0 then
    let s := { s with herd := { s.herd with messages := rest } }
    match m.raise with
    | some n => s.raiseFrom k n 1
    | none => s
  else { s with herd := { s.herd with messages := rest ++ [m] } }

/-- The table of open messages has no room for a new one (R383). -/
def State.tableFull (s : State) (p : Packet) : Bool :=
  decide (4096 ≤ s.herd.messages.length) &&
    !s.herd.messages.any (fun m => m.job == p.job && m.src == p.src && m.msg == p.msg)

/-- A WRITE outside the target job's memory drops the transfer there, and is recorded as the receiver's own fault
(R357, R383). -/
def State.writeFault (s : State) (k a : Nat) : State :=
  let j := s.job k
  s.setJob k { j with fault := some { core := 0xFFFF, insn := 0, lane := 0, addr := a } }

/-- A WRITE's payload lands, every cluster's copy of it invalidated (R264, R290, R395). -/
def State.landWrite (s : State) (k : Nat) (p : Packet) : State :=
  let a := fld p.opA 0 57
  let j := s.job k
  if p.payload ≠ [] && !j.mapped a p.payload.length then s.writeFault k a
  else ((s.setJob k (j.hostWrite a p.payload)).hubWrite k 6 a p.payload.length).messageBytes k p

/-- Receive a WRITE, SIGNAL or READ_REQ: refused where no job accepts it or the table is full, held until its turn, and else taken once (R382 to
R384). `held` is the state with the packet still in the inbox. -/
def State.receive (s : State) (p : Packet) (ok : Job → Bool) (take : State → State → Nat → State) : State :=
  let t := s.takePacket p
  match t.accepting p ok with
  | none => t.refusePacket p 1
  | some k =>
    t.receipt p (t.refusePacket p 1) (
      if t.tableFull p then t.refusePacket p 2
      else if t.outOfTurn p then s
      else take s t k)

def execPacketWrite (p : Packet) (s : State) : Host.Outcome State Fault Refusal :=
  checked s (p.type == 0x01) (s.receive p (fun j => j.info.state == .running) (fun held s k =>
    if (s.job k).blocked (fld p.opA 0 57) p.payload.length true then held
    else if p.payload ≠ [] && s.journalFull k then held.journalStall k else (s.landWrite k p).received p))

def execPacketSignal (p : Packet) (s : State) : Host.Outcome State Fault Refusal :=
  checked s (p.type == 0x02) (s.receive p (fun j => j.info.state == .running) (fun _ s k =>
    (s.raiseFrom k (fld p.opA 0 12) (fld p.opB 0 32)).received p))

/-- READ_DATA packets that answer a request, 4 KiB each (R380). -/
def readAnswers (own : Nat) (j : Job) (p : Packet) (off n : Nat) : List Packet :=
  match n with
  | 0 => []
  | k + 1 =>
    let total := fld p.opB 0 32
    { packetTo own p.src p.job 0x04 2 with
      msg := p.msg, opA := BitVec.ofNat 64 off, opB := BitVec.ofNat 64 total
      payload := memRead j.run.mem (p.opA.toNat + off) (min 4096 (total - off)) } :: readAnswers own j p (off + 4096) k

def execPacketReadReq (p : Packet) (s : State) : Host.Outcome State Fault Refusal :=
  checked s (p.type == 0x03) (s.receive p (fun j => j.info.state.readable) (fun held s k =>
    if (s.job k).blocked p.opA.toNat (fld p.opB 0 32) false then held else
    ((s.received p).hubRead k 6 p.opA.toNat (fld p.opB 0 32)).sendAll
      (readAnswers s.herd.addr (s.job k) p 0 (cdiv (fld p.opB 0 32) 4096))))

/-- Give a completed read to what asked for it: an import's header, or a stream's record (R136). -/
def State.giveRead (s : State) (r : ReadReq) : State :=
  let bytes := memRead r.data 0 r.total
  let j := s.job r.slot
  if r.body then
    let e := j.run.stream r.key
    s.setJob r.slot { j with run := j.run.setStream r.key { e with peerBuf := bytes } }
  else
    match j.run.findQ r.key with
    | some q => s.setJob r.slot { j with run := j.run.setQ { q with data := bytes } }
    | none => s

/-- READ_DATA answers a read of this module's; the last one gives it to what asked (R136, R380). -/
def State.takeData (s : State) (p : Packet) : State :=
  match s.herd.reads.find? (fun r => r.msg == p.msg && r.peer == p.src) with
  | none => s
  | some r =>
    let r' := { r with data := memWrite r.data p.opA.toNat p.payload, got := r.got + p.payload.length }
    let rest := s.herd.reads.filter (fun x => x.msg != r.msg)
    if r'.total ≤ r'.got then { s with herd := { s.herd with reads := rest } }.giveRead r'
    else { s with herd := { s.herd with reads := rest ++ [r'] } }

def execPacketReadData (p : Packet) (s : State) : Host.Outcome State Fault Refusal :=
  checked s (p.type == 0x04) (
    let t := s.takePacket p
    t.receipt p t (if t.outOfTurn p then s else (t.received p).takeData p))

/-- An ACK covers a sequence number (R380). -/
def ackCovers (p : Packet) (seq : Nat) : Bool :=
  let d := seqAfter (fld p.opA 0 32) seq
  d == 0 || decide (2 ^ 31 ≤ d) || (decide (d ≤ 64) && p.opB.getLsbD (d - 1))

/-- Flows that waited to re-pin and have drained choose anew (R393). -/
def State.drainPins (s : State) : State :=
  let busy := fun (x : Nat × Nat × Nat × Nat × Nat) => s.herd.unacked.any (fun u => u.pkt.ordered && sameFlow u.pkt x)
  { s with herd := { s.herd with repin := s.herd.repin.filter busy } }

/-- The buddy has acknowledged a whole mirror transfer (R360). -/
def State.mirrorAcked (s : State) (job : Nat) : State :=
  match s.slotOf job with
  | none => s
  | some k =>
    let busy := s.herd.unacked.any (fun u => u.pkt.job == job && u.pkt.type == 7) ||
      s.herd.waiting.any (fun p => p.job == job && p.type == 7) ||
      s.herd.engines.any (fun ts => ts.any (fun t => t.slot == k && t.mirror && !t.started))
    if busy then s else s.setJob k { s.job k with mirrorSent := [] }

def execPacketAck (p : Packet) (s : State) : Host.Outcome State Fault Refusal :=
  checked s (p.type == 0x05) (
    let s := s.takePacket p
    let gone := fun (u : Unacked) => u.pkt.dest == p.src && u.pkt.job == p.job && u.pkt.chan == fld p.opA 32 2 &&
      ackCovers p u.pkt.seq
    let s := { s with herd := { s.herd with unacked := s.herd.unacked.filter (fun u => !gone u) } }
    ((s.drainPins.mirrorAcked p.job)).wakeSenders)

/-- The refused packet stays to be resent at its timeouts; the wait is counted for its job, and a MIRROR refused NO_JOB
stops mirroring (R358, R361, R383). -/
def execPacketRefuse (p : Packet) (s : State) : Host.Outcome State Fault Refusal :=
  checked s (p.type == 0x06) (
    let s := (s.takePacket p).herdCount 0x38
    let hit := s.herd.unacked.find? (fun u => u.pkt.dest == p.src && u.pkt.job == p.job &&
      u.pkt.chan == fld p.opA 32 2 && u.pkt.seq == fld p.opA 0 32)
    match hit, s.slotOf p.job with
    | some u, some k =>
      if u.pkt.type == 7 && p.opB == 1 then s.mirrorLost k
      else
        let (n, s) := s.fresh
        s.jobCount k 0x30 n
    | _, _ => s)

/-- The first packet of a mirror transfer carries the measurement (R361). -/
def mirrorFirst (p : Packet) : Bool := fld p.opA 0 57 == 2 ^ 57 - 4096

/-- The transfer that a MIRROR belongs to, as far as it has come: another message abandons one that is not whole. -/
def Job.mirrorOf (j : Job) (p : Packet) : MirrorIn :=
  match j.mirrorIn with
  | some x => if x.src = p.src && x.msg = p.msg then x else { src := p.src, msg := p.msg, left := fld p.opB 0 32 }
  | none => { src := p.src, msg := p.msg, left := fld p.opB 0 32 }

/-- A packet joins its transfer. -/
def MirrorIn.take (x : MirrorIn) (j : Job) (p : Packet) : MirrorIn :=
  let a := fld p.opA 0 57
  let x := { x with left := x.left - p.payload.length }
  if mirrorFirst p then { x with ok := true }
  else if a = 2 ^ 57 - 8192 then { x with items := p.payload }
  else if j.mapped a p.payload.length then { x with data := x.data ++ [(a, p.payload)] }
  else x

/-- A whole transfer takes effect at once: the buddy's copy stands at that commit point (R360). -/
def Job.mirrored (j : Job) (x : MirrorIn) : Job :=
  if x.left = 0 && x.ok then
    { j with mirrorIn := none, mirrorItems := x.items
             run := { j.run with mem := x.data.foldl (fun m e => memWrite m e.1 e.2) j.run.mem } }
  else { j with mirrorIn := some x }

/-- A MIRROR of an image that is not this job's, or of a transfer whose first packet was. -/
def Job.mirrorDiffers (j : Job) (p : Packet) : Bool :=
  (mirrorFirst p && p.payload != leBytes 48 j.image.measurement.toNat) || (j.mirrorOf p).bad

/-- A MIRROR into the buddy's ARMED copy (R360, R361, R383): a differing measurement refuses its transfer. -/
def execPacketMirror (p : Packet) (s : State) : Host.Outcome State Fault Refusal :=
  checked s (p.type == 0x07) (
    let t := s.takePacket p
    match t.accepting p (fun j => j.info.state == .armed && j.info.mirror) with
    | none => t.refusePacket p 1
    | some k =>
      let j := t.job k
      if j.mirrorDiffers p then
        (t.setJob k { j with mirrorIn := some { src := p.src, msg := p.msg, left := 0, bad := true } }).refusePacket p 1
      else
        t.receipt p (t.refusePacket p 1) (
          if t.outOfTurn p then s
          else
            let a := fld p.opA 0 57
            let t := t.setJob k (j.mirrored ((j.mirrorOf p).take j p))
            (if mirrorFirst p || a = 2 ^ 57 - 8192 || j.mapped a p.payload.length then t else t.writeFault k a).received p))

/-! ## Packets of a reserved type (R380) -/

def execPacketReservedType (p : Packet) (s : State) : Host.Outcome State Fault Refusal :=
  checked s (reservedType p.type) ((s.takePacket p).herdCount 0x40)

/-! ## Ring-pass engines (R357, R395, R400, R401) -/

/-- An engine's transfers. -/
def State.engine (s : State) (e : Nat) : List Transfer2 := s.herd.engines.getD e []

/-- Replace an engine's transfers. -/
def State.setEngine (s : State) (e : Nat) (ts : List Transfer2) : State :=
  { s with herd := { s.herd with engines := s.herd.engines.set e ts } }

/-- WRITE packets of a transfer from its byte `off`, 4 KiB each, the last with RAISE (R395). -/
def rpassPackets (own id : Nat) (j : Job) (t : Transfer2) (off n : Nat) : List Packet :=
  match n with
  | 0 => []
  | k + 1 =>
    let raise := if k = 0 then 2 ^ 44 + t.semb * 2 ^ 32 else 0
    { packetTo own t.peer id 0x01 3 with
      msg := t.msg, opA := BitVec.ofNat 64 (t.dst + off), opB := BitVec.ofNat 64 (t.len + raise)
      payload := memRead j.run.mem (t.src + off) (min 4096 (t.len - off)) } :: rpassPackets own id j t (off + 4096) k

/-- The transfer goes to the local module (R357). -/
def State.localPeer (s : State) (peer : Nat) : Bool := peer == 0 || peer == s.herd.addr

/-- An engine takes its first transfer: a local one is copied, another is sent as WRITE packets of one message, its job running (R395,
R401), and a mirror transfer as its MIRROR packets (R360). -/
def State.rpassSend (s : State) (e : Nat) : State :=
  match s.engine e with
  | [] => s
  | t :: rest =>
    if t.started then s
    else if t.mirror then
      let s := (s.jobCount t.slot 0x48 t.len).hubReads t.slot 6 (t.pkts.map (fun p => (fld p.opA 0 57, p.payload.length)))
      (s.setEngine e ({ t with started := true, sent := t.len, pkts := [] } :: rest)).sendAll t.pkts
    else if s.runningJob != some t.slot || (s.job t.slot).blocked t.src t.len false ||
        (s.localPeer t.peer && (s.job t.slot).blocked t.dst t.len true) then s
    else if s.localPeer t.peer && t.len ≠ 0 && s.journalFull t.slot then s.journalStall t.slot
    else
      let j := s.job t.slot
      let s := (s.jobCount t.slot 0x38 t.len).hubRead t.slot 6 t.src t.len
      if s.localPeer t.peer then
        let j := s.job t.slot
        ((s.setJob t.slot (j.store t.dst (memRead j.run.mem t.src t.len))).hubWrite t.slot 6 t.dst t.len).setEngine e
          ({ t with started := true, sent := t.len } :: rest)
      else
        let (msg, s) := s.message
        let t := { t with started := true, sent := t.len, msg }
        (s.setEngine e (t :: rest)).sendAll (rpassPackets s.herd.addr j.info.id j t 0 (max 1 (cdiv t.len 4096)))

def execRpassSend (engine : Nat) (s : State) : Host.Outcome State Fault Refusal :=
  checked s (decide (engine < 8)) (s.rpassSend engine)

/-- Packets of a transfer that are not acknowledged. -/
def State.rpassOpen (s : State) (t : Transfer2) : Bool :=
  let id := (s.job t.slot).info.id
  s.herd.unacked.any (fun u => t.owns id u.pkt) || s.herd.waiting.any (t.owns id) || (s.job t.slot).run.captured.any (t.owns id)

/-- Every packet of the transfer is acknowledged: the local semaphore rises; a local copy raises both (R357, R395). Cores that found the
queue full try again. -/
def State.rpassComplete (s : State) (e : Nat) : State :=
  match s.engine e with
  | [] => s
  | t :: rest =>
    if !t.started then s
    else if t.mirror then (if s.rpassOpen t then s else ((s.setEngine e rest).mirrorAcked (s.job t.slot).info.id).wakeCores .rpassFull)
    else if s.localPeer t.peer then
      (((s.setEngine e rest).raiseSem t.slot t.semb 1).raiseSem t.slot t.sem 1).wakeCores .rpassFull
    else if s.rpassOpen t then s
    else ((s.setEngine e rest).raiseSem t.slot t.sem 1).wakeCores .rpassFull

def execRpassComplete (engine : Nat) (s : State) : Host.Outcome State Fault Refusal :=
  checked s (decide (engine < 8)) (s.rpassComplete engine)

/-! ## Census (R386 to R389, R403, R404) -/

/-- HELLO_TIMER: every 10 ms the module looks for its leader, and a HELLO goes out on each UP link (R386). Census waits for sapwood
(R499). -/
def execHelloTimer (s : State) : Host.Outcome State Fault Refusal := .next (if s.censusRuns then s.follow.sendHellos else s)

/-- The beat advanced since the last HELLO on the link for the same leader (R386). -/
def advanced (old : Option HelloMsg) (h : HelloMsg) : Bool :=
  match old with
  | none => true
  | some o => o.lead != h.lead || decide (o.lbeat < h.lbeat)

/-- A HELLO updates the choice of leader and parent; one that turns the link's direction, the tables too (R386, R390, R393). -/
def State.hello (s : State) (n : Nat) (h : HelloMsg) : State :=
  let l := s.link n
  let turns := l.peerDepth != h.dist || l.peerAddr != h.addr % 65536
  let l := { l with fresh := if advanced l.heard h then true else l.fresh, heard := some h
                    peerDepth := h.dist, peerAddr := h.addr % 65536 }
  let s := (s.setLink n l).follow
  if turns then s.reroute else s

def execHello (link : Nat) (h : HelloMsg) (s : State) : Host.Outcome State Fault Refusal :=
  checked s (decide (link < 48)) (if (s.link link).state != .up || !s.censusRuns then s else s.hello link h)

/-- The leader's beat has not risen for 40 ms: it is dropped (R386). A module that has found no other since an earlier loss runs alone
(R403; log entry 140). -/
def State.beatLost (s : State) : State :=
  let drop := fun (l : Link) => match l.heard with
    | some h => if h.lead == some s.herd.leader then { l with fresh := false } else l
    | none => l
  let t := { s with links := s.links.map drop, herd := { s.herd with relearn := false } }.follow
  if s.herd.adrift && t.herd.adrift then t.standAlone else t

def execLeaderBeatTimeout (s : State) : Host.Outcome State Fault Refusal :=
  .next (if s.herd.role = 2 || !s.censusRuns then s else s.beatLost)

/-- What a JOIN tells on its way: the link that it came by, by which answers go back, and the links that its module reports (R387). -/
def Herd.heardJoin (h : Herd) (j : JoinMsg) : Herd :=
  { h with via := match j.via with
             | some n => (j.id, n) :: h.via.filter (fun e => e.1 != j.id)
             | none => h.via
           ties := (j.id, j.links) :: h.ties.filter (fun e => e.1 != j.id) }

/-- A JOIN: a member passes it on up the tree. The leader gives the module an address, or excludes it; every other member hears of a new
member and of the change of the address book (R387 to R389). -/
def State.join (s : State) (j : JoinMsg) : State :=
  let s := { s with herd := s.herd.heardJoin j }
  let h := s.herd
  if h.role = 1 then s.sendJoin { j with via := none }
  else if h.role ≠ 2 then s
  else
    let known := h.member.contains j.id
    if (!known && decide (16384 ≤ h.member.length)) || 8 < j.depth then s.tell j.id (h.notice none true 5)
    else
      let (a, book) := assignAddr h.book h.member h.absent j.id j.want
      let member := if known then h.member else h.member ++ [j.id]
      let n := { h with book, member, members := member.length, absent := h.absent.filter (fun x => x != j.id) }
      let others := if known && book == h.book then [] else member.filter (fun x => x != j.id && x != Config.identity)
      let s := ({ s with herd := n } : State).keepBook h.addr (some book)
      let s := (s.tell j.id (n.notice (some a) false 1)).tellAll others (n.notice none false 1)
      (if known then s else s.reroute.herdChange 1).settleMembers [j.id]

def execCensusJoin (j : JoinMsg) (s : State) : Host.Outcome State Fault Refusal := .next (if s.censusRuns then s.join j else s)

/-- Packets of this module that wait or are not acknowledged take its new address as their source (R404). -/
def State.readdress (s : State) (a : Nat) : State :=
  let at' := fun (p : Packet) => { p with src := a }
  let h := s.herd
  { s with herd := { h with unacked := h.unacked.map (fun u => { u with pkt := at' u.pkt }), waiting := h.waiting.map at' }
           jobs := s.jobs.map (fun j => { j with run := { j.run with captured := j.run.captured.map at' } }) }

/-- A module receives its address or a change of the address book and stores it (R387, R389), and its traffic goes on. -/
def State.census (s : State) (m : CensusMsg) : State :=
  let h := s.herd
  if m.excluded then
    if h.role = 3 then s
    else { s with herd := { h with role := 3, addr := 0, epoch := m.epoch, members := m.members } }.herdChange 5
  else
    let a := m.addr.getD h.addr
    let cause := if a = h.addr then m.cause else if h.addr = 0 then 1 else 4
    let changed := a ≠ h.addr || m.members ≠ h.members || m.leader ≠ h.leader || m.epoch ≠ h.epoch
    let book := if m.book.isEmpty then h.book else m.book
    let s' := { s with herd := { h with role := if m.leader == Config.identity then 2 else 1, addr := a, epoch := m.epoch
                                        members := m.members, leader := m.leader, book } }.keepBook a
        (if s.eligible then some book else none)
    let s' := if a = h.addr then s' else s'.readdress a
    if changed then s'.reroute.herdChange cause else s'

/-- A census answer for another module goes on by the link that its JOIN came by (R387). -/
def State.censusFor (s : State) (m : CensusMsg) : State :=
  match m.dest with
  | some x => if x = Config.identity then s.census m else s.tell x m
  | none => s.census m

def execCensus (m : CensusMsg) (s : State) : Host.Outcome State Fault Refusal :=
  .next (if s.censusRuns then s.censusFor m else s)

/-- An EXCLUDED module repeats its JOIN (R388). -/
def execJoinRetryTimer (s : State) : Host.Outcome State Fault Refusal :=
  .next (if s.herd.role = 3 && s.censusRuns then s.sendJoin s.joinMsg else s)

/-! ## Routing (R391, R393) -/

/-- A neighbour's VECTOR updates the tables to be installed; one that changes no entry ends the exchange (R391). -/
def execVectorMsg (link : Nat) (v : List VectorEntry) (s : State) : Host.Outcome State Fault Refusal :=
  checked s (decide (link < 48)) (
    let l := s.link link
    if l.state == .up && s.censusRuns && l.vec != v then (s.setLink link { l with vec := v }).reroute else s)

/-- New tables are installed in one step; pinned flows wait until they have drained and then choose anew (R393). -/
def execRouteInstall (s : State) : Host.Outcome State Fault Refusal :=
  .next (
    match s.herd.newRoutes with
    | none => s
    | some t =>
      let s := { s with herd := { s.herd with routes := t, newRoutes := none, repin := s.herd.repin ++ s.herd.pins, pins := [] } }
      ((s.herdCount 0x20).drainPins).wakeSenders)

end Sys2Proof.Machine
end

