-- ==== Sys2Proof/Machine/Jobs.lean ====
section
/-! DEFINITION. The job commands and the scheduler's events (chapter 11), but for loading a job. -/

namespace Sys2Proof.Machine

/-! ## JOB_START and JOB_RESUME (R334, R335, R340, R360, R361) -/

/-- The commit interval of a descriptor in ms; none outside its range (R334). -/
def commitInterval (w : W64) : Option Nat :=
  let v := fld w 0 32
  if v = 0 then some 250 else if decide (10 ≤ v) && decide (v ≤ 60000) then some v else none

/-- The slot's registers as JOB_START or JOB_RESUME sets them (R334, R340, R360). -/
def JobInfo.started (i : JobInfo) (d : Desc) (ms : Nat) : JobInfo :=
  { i with prio := d.prio, slice := fld d.w8 0 32, yieldUs := if fld d.w16 0 32 = 0 then 10000 else fld d.w16 0 32
           buddy := bit d.w24 16, buddyAddr := fld d.w24 0 16, commitMs := ms }

/-- Queue the job of a JOB_START or JOB_RESUME: it completes when the job is RUNNING (R340). Whether the running job then yields is
decided when what meets the job at once has acted (R341, R368). -/
def State.startJob (s : State) (k : Nat) (c : Cmd) (ms : Nat) : State :=
  let j := s.job k
  let i := j.info.started c.desc ms
  let s := s.setJob k { j with info := { i with starts := i.starts ++ [c] }, mirrorAll := j.mirrorAll || i.buddy }
  if i.state == .resuming then s else s.queueJob k c.seq

/-- Restore mirroring of a running job (R361). -/
def State.restoreMirror (s : State) (k : Nat) (c : Cmd) : State :=
  let j := s.job k
  let s := s.setJob k { j with info := { j.info with buddy := true, buddyAddr := fld c.desc.w24 0 16 }, mirrorAll := true }
  s.complete k c 0 0 0 1

/-- JOB_START and JOB_RESUME, which are interchangeable (R335). -/
def State.startOrResume (s : State) (c : Cmd) : State :=
  if !s.schedServes then s
  else if !s.versionOk c.port then (s.takeCmd c).completeFree c 0x0102 0 0
  else
    s.onJob c (fun k s =>
      let i := (s.job k).info
      match commitInterval c.desc.w32 with
      | none => (s.complete k c 0x0203 0 0 0).hostCount c.port 0x50
      | some ms =>
        match i.state with
        | .loading => s.setInfo k { i with waiting := i.waiting ++ [c] }
        | .running => if bit c.desc.w24 16 && !i.buddy then s.restoreMirror k c else s.complete k c 0 0 0 0
        | _ => (s.startJob k c ms).checkYield)

def execJobStart (c : Cmd) (s : State) : Host.Outcome State Fault Refusal :=
  checked s (c.desc.opcode == 0x02) (s.startOrResume c)

def execJobResume (c : Cmd) (s : State) : Host.Outcome State Fault Refusal :=
  checked s (c.desc.opcode == 0x04) (s.startOrResume c)

/-! ## JOB_PAUSE (R335, R348, R362, R366, R368) -/

/-- Withdraw a job from the run queue: its JOB_START or JOB_RESUME completes as PAUSED_AT_BED (R368). -/
def State.withdraw (s : State) (k : Nat) : State :=
  let i := (s.job k).info
  (s.setInfo k { i with queued := false, starts := [] }).completeAll k i.starts 0x0501 0

/-- A pause of a RUNNING job, at a bed point or by force (R345, R346, R348). -/
def State.pauseRunning (s : State) (k : Nat) (c : Cmd) : State :=
  let force := c.desc.flags.testBit 0
  s.beginPause k { forced := force, cause := if force then 2 else 1, yields := false
                   bounded := fld c.desc.w8 0 32 != 0xFFFFFFFF, cmds := [c], status := 0, tag := 0 }

/-- A JOB_PAUSE joins the pause in progress; FORCE forces it (R362, R366). -/
def State.joinPause (s : State) (c : Cmd) : State :=
  match s.sched.pausing with
  | none => s
  | some p =>
    let p := { p with cmds := p.cmds ++ [c], forced := p.forced || c.desc.flags.testBit 0
                      bounded := p.bounded || fld c.desc.w8 0 32 != 0xFFFFFFFF }
    { s with sched := { s.sched with pausing := some p } }

/-- JOB_PAUSE on a loaded job. -/
def State.pauseJob (s : State) (k : Nat) (c : Cmd) : State :=
  let i := (s.job k).info
  match i.state with
  | .loading => s.setInfo k { i with waiting := i.waiting ++ [c] }
  | .resuming => s.setInfo k { i with waiting := i.waiting ++ [c] }
  | .running => s.pauseRunning k c
  | .pausing => if i.queued then (s.withdraw k).joinPause c else s.joinPause c
  | _ => if i.queued then (s.withdraw k).complete k c 0 0 0 0 else s.complete k c 0 0 0 0

def execJobPause (c : Cmd) (s : State) : Host.Outcome State Fault Refusal :=
  checked s (c.desc.opcode == 0x03) (s.onJob c (fun k s => s.pauseJob k c))

/-! ## JOB_END, COMMIT, adoption -/

/-- JOB_END takes effect; what the tiers hold of the job, running or just stopped, is written back and leaves them (R291). -/
def State.finishJob (s : State) (k : Nat) (c : Cmd) : State :=
  let held := (s.sched.running == some k && (s.job k).info.state != .resuming) || (s.job k).info.wbPending
  let s := if held then s.drainTiers k else s
  let s := s.endJob k c
  if held then { s with tiers := { salt := s.tiers.salt } } else s

/-- JOB_END on a loaded job (R337, R368). -/
def State.endOrWait (s : State) (k : Nat) (c : Cmd) : State :=
  let i := (s.job k).info
  match i.state with
  | .loading => s.setInfo k { i with waiting := i.waiting ++ [c] }
  | .running => { s with sched := { s.sched with ending := s.sched.ending ++ [(k, c)] } }
  | .pausing => { s with sched := { s.sched with ending := s.sched.ending ++ [(k, c)] } }
  | _ => s.finishJob k c

def execJobEnd (c : Cmd) (s : State) : Host.Outcome State Fault Refusal :=
  checked s (c.desc.opcode == 0x05) (s.onJob c (fun k s => s.endOrWait k c))

/-- A waiting JOB_END of the running job takes effect once every core stands at a boundary between its instructions (R337,
R362). -/
def execJobEndTakesEffect (slot : Nat) (s : State) : Host.Outcome State Fault Refusal :=
  checked s (decide (slot < 64)) (
    match s.sched.ending.find? (fun e => e.1 == slot) with
    | some (_, c) => if s.schedServes && (s.job slot).atPoint true then s.finishJob slot c else s
    | none => s)

/-- COMMIT requests a commit point and completes when one is taken (R353): of a job that does not run, once it does. -/
def State.commitJob (s : State) (k : Nat) (c : Cmd) : State :=
  let i := (s.job k).info
  let s := s.setInfo k { i with commits := i.commits ++ [c] }
  if s.sched.running == some k then s.seekCommit else s

def execCommit (c : Cmd) (s : State) : Host.Outcome State Fault Refusal :=
  checked s (c.desc.opcode == 0x06) (s.onJob c (fun k s => s.commitJob k c))

/-- The token a descriptor carries at offsets 8 and 16 (R425). -/
def tokenOf (d : Desc) : BitVec 128 := d.w16 ++ d.w8

/-- Completions of the job that a set holds. -/
def heldOf (h : List Completion) (id : Nat) : List Completion := h.filter (fun c => c.job == id)

/-- A successful adoption (R426): the run time of a running job is added up at the old owner's island and goes on at the new
owner's, since stamps compare only within one island (R5); held completions move to the new home set with ADOPTED, and JOB_STATE events go to the
new home set and to the old one where it is enabled. -/
def State.adopt (s : State) (k : Nat) (c : Cmd) : State :=
  let runs := (s.job k).info.state == .running
  let s := if runs then s.tallyRun k else s
  let i := (s.job k).info
  let old := s.ring i.owner i.homeSet
  let held := (heldOf old.hold i.id).map (fun x => { x with flags := x.flags ||| 8 })
  let s := s.setRing i.owner i.homeSet { old with hold := old.hold.filter (fun x => x.job != i.id) }
  let s := s.setInfo k { i with owner := c.port, homeSet := c.set, token := 0, adoptMark := s.sched.cmdSeq
                                outstanding := i.outstanding.filter (fun d => d.seq != c.seq) }
  let s := if runs then
      let (t, s) := s.look (portIsland c.port)
      s.setInfo k { (s.job k).info with runSince := t }
    else s
  let s := held.foldl (fun s x => s.deliver c.port c.set x) s
  let st := match i.state with
    | .empty => 0 | .loading => 1 | .armed => 2 | .running => 3 | .pausing => 4 | .paused => 5 | .resuming => 6
    | .ending => 7 | .ended => 8
  let e : Event := { code := 0x0E01, job := i.id, a := jobStateA st st i.cause 0x0503 c.desc.tag true false, b := 0 }
  let s := if (s.ring i.owner i.homeSet).enabled && !(i.owner == c.port && i.homeSet == c.set) then
      s.deliverEvent i.owner i.homeSet e else s
  let s := s.deliverEvent c.port c.set e
  let n := (i.outstanding.filter (fun d => d.seq != c.seq)).length
  (s.notOutstanding c).deliver c.port c.set
    { tag := c.desc.tag, status := 0x0503, job := i.id, flags := 0, stream := 0, count := n, cookie := c.desc.cookie }

/-- A JOB_END or JOB_PAUSE of the job was taken before this command and has not acted yet: it acts first (R432). -/
def State.actsAfter (s : State) (c : Cmd) : Bool :=
  let first := fun (d : Cmd) => (d.desc.opcode == 3 || d.desc.opcode == 5) && d.desc.job == c.desc.job && decide (d.seq < c.seq)
  s.sched.taken.any first || s.sched.ending.any (fun e => first e.2)

/-- JOB_ADOPT (R425 to R427, R432): refused unless the token is the job's non-zero token and the issuing port is the owner
or the owner is absent; of a confidential job only a SEALED set's is taken. -/
def execJobAdopt (c : Cmd) (s : State) : Host.Outcome State Fault Refusal :=
  checked s (c.desc.opcode == 0x07) (
    if !s.schedServes || s.actsAfter c then s
    else if !s.versionOk c.port then (s.takeCmd c).completeFree c 0x0102 0 0
    else
      let s := s.takeCmd c
      match s.slotOf c.desc.job with
      | none => (s.refuseCmd c 0x0203).hostCount c.port 0x68
      | some k =>
        let i := (s.job k).info
        let may := i.owner == c.port || (s.port i.owner).absentNow
        let open' := !(i.confidential && !c.sealed)
        if i.state != .ending && i.token != 0 && tokenOf c.desc == i.token && may && open' then s.adopt k c
        else (s.refuseCmd c 0x0203).hostCount c.port 0x68)

/-- JOB_SET_TOKEN by the owning port (R425). -/
def State.setToken (s : State) (k : Nat) (c : Cmd) : State :=
  (s.setInfo k { (s.job k).info with token := tokenOf c.desc }).complete k c 0 0 0 0

def execJobSetToken (c : Cmd) (s : State) : Host.Outcome State Fault Refusal :=
  checked s (c.desc.opcode == 0x08) (s.onJob c (fun k s => s.setToken k c))

/-! ## The run queue (R340, R341, R352) -/

/-- The device is free and the first queued job whose save need fits leaves the queue (R340, R348, R352 step 1). -/
def execJobRunSelect (s : State) : Host.Outcome State Fault Refusal :=
  .next (
    match s.sched.running, s.nextJob with
    | none, some k =>
      let i := (s.job k).info
      if !s.schedServes then s else
      let s := s.setInfo k { i with state := .resuming, queued := false, holdsSave := true }
      let s := if i.confidential then (s.statusChange .a).statusChange .b else s
      { s with sched := { s.sched with running := some k } }
    | _, _ => s)

/-- Waiting JOB_PAUSEs of a job that has just begun to run (R368). -/
def State.waitingPauses (s : State) (k : Nat) (cs : List Cmd) : State :=
  match cs with
  | [] => s
  | c :: rest => (s.pauseJob k c).waitingPauses k rest

/-- The job as its restore leaves it: each core's PROGRAM region holds its program and block data again (R63, R523), the
staging copy is loaded from the live tables (R227), and the fault record is clear (R230). -/
def Job.restored (j : Job) : Job :=
  let fill := fun (e : Nat × Core) =>
    let c := j.image.sec e.1
    let base := ((c.regions.find? (fun r => r.kind == 0)).map (·.off)).getD 0
    (e.1, { e.2 with scratch := memWrite e.2.scratch base c.code })
  { j with run := { j.run with cores := j.run.cores.map fill }, stage := j.run.pgt, fault := none }

/-- A buddy's copy that is resumed runs from the last commit point it acknowledged (R360). -/
def Job.fromMirror (j : Job) : Job :=
  if j.info.mirror && j.mirrorItems != [] then
    { j with run := { Config.itemsRun j.mirrorItems with mem := j.run.mem }, mirrorItems := [] }
  else j

/-- A second's tallies begin with the job that begins to run (R344, R493). -/
def State.markSecond (s : State) (k : Nat) : State :=
  let r := (s.job k).run
  let late := (List.range 32).map (fun c => (c, NMap.getD r.ctrCluster (c * 0x80 + 0x58) 0))
  let stall := (List.range 512).map (fun n => (n, NMap.getD r.ctrCore (n * 0x400 + 0x140) 0))
  { s with sched := { s.sched with secJob := some k, lateMark := late, stallMark := stall, lateCount := 0, batchesSec := 0, allBehind := true
                                   deferredSec := 0, guardSec := 0 } }

/-- Restore is complete: the job is RUNNING (R331, R352), its JOB_START completes, the saved packets go out again (R401),
and pinned pages and buckets are set (R268, R283). What the host wrote to a stopped job's memory
stands in its commit point, for no journal records it (R354, R423). The previous job's write-back must have finished (R351 step 7). -/
def execResumeDone (s : State) : Host.Outcome State Fault Refusal :=
  .next (
    match s.sched.running with
    | none => s
    | some k =>
      let j := s.job k
      if j.info.state == .resuming && s.jobs.all (fun x => !x.info.wbPending) && s.schedServes && s.health.replace.isEmpty && !s.health.exhausted then
        let (t, s) := s.look (portIsland j.info.owner)
        let i := { j.info with state := .running, runSince := t, starts := [], waiting := [] }
        let j := j.fromMirror.restored.settleRoutes s.health
        let s := s.setJob k { j with info := i, commit := some { j.commit.getD j.run with mem := j.run.mem } }
        let s := (s.loadPinned k).releaseCaptured k
        let s := s.completeAll k j.info.starts 0 0
        let s := if i.confidential then s.coarseOn else s
        let s := ({ s with sched := { s.sched with intakeOpen := true, sliceOver := false } } : State).markSecond k
        let s := if i.commits.isEmpty then s else s.seekCommit
        (s.waitingPauses k j.info.waiting).checkYield
      else s)

/-- The time slice has elapsed: the job yields to one of equal or higher priority, now or as soon as one waits (R341). -/
def execTimeSliceExpired (s : State) : Host.Outcome State Fault Refusal :=
  .next (
    match s.runningJob with
    | some k => if (s.job k).info.slice = 0 then s else ({ s with sched := { s.sched with sliceOver := true } } : State).checkYield
    | none => s)

/-- The yield bound has elapsed: the yield is forced if the pool can hold its save (R341). -/
def execYieldBoundExpired (s : State) : Host.Outcome State Fault Refusal :=
  .next (
    match s.sched.running, s.sched.pausing with
    | some k, some p =>
      if p.yields && s.fits k then { s with sched := { s.sched with pausing := some { p with forced := true } } } else s
    | _, _ => s)

/-- The bound of a JOB_PAUSE has elapsed: the pause is forced (R348). -/
def execPauseBoundExpired (s : State) : Host.Outcome State Fault Refusal :=
  .next (
    match s.sched.pausing with
    | some p =>
      if p.bounded then { s with sched := { s.sched with pausing := some { p with forced := true } } } else s
    | none => s)

/-! ## The pause point (R345, R346, R349 to R351) -/

/-- CAUSE of a completed pause: a host pause or a yield that was forced counts as its forced kind (R332). -/
def Pausing.finalCause (p : Pausing) : Nat := if p.forced && (p.cause == 1 || p.cause == 3) then p.cause + 1 else p.cause

/-- The pause saves state and the job is PAUSED; it is itself a commit point (R349, R351, R353). -/
def State.pauseDone (s : State) (k : Nat) (p : Pausing) : State :=
  let j := s.job k
  let cause := p.finalCause
  let s := (s.tallyRun k).capturePackets k
  let r := (s.job k).run
  let s := s.setJob k { s.job k with
    run := { j.saved p.forced with captured := r.captured, seqs := r.seqs, passes := r.passes, msgs := r.msgs } }
  let s := s.setInfo k { (s.job k).info with state := .paused, cause, wbPending := true, holdsSave := p.forced }
  let s := ((s.commitNow k 0).mirrorTransfer k).releaseHeld k
  let s := s.jobCount k (if p.forced then 0x08 else 0x00) 1
  let s := { s with sched := { s.sched with running := none, previous := some k, pausing := none, seekCommit := none
                                            intakeOpen := true }
                    codecs := s.codecs.map Engine.idle }
  let s := s.completeAll k p.cmds (if p.forced then 0x0502 else 0x0501) 0
  let yielded := p.yields && p.cause != 5
  let s := if yielded then s.jobCount k 0x10 1 else s
  let s := if yielded || p.cause == 5 then s.jobStateEvent k 3 5 cause p.status p.tag false false else s
  let s := if j.info.confidential then (s.statusChange .a).statusChange .b else s
  if yielded && p.cmds.isEmpty && !j.info.queued then s.requeue k else s

/-- Every busy core has stopped and nothing is in flight (R345, R346); not before a lost cluster is replaced and the replay over (R363), and not where a JOB_END
that waits ends the job instead (R362). -/
def execPausePointReached (s : State) : Host.Outcome State Fault Refusal :=
  .next (
    match s.sched.running, s.sched.pausing with
    | some k, some p =>
      let mayEnd := s.sched.ending.any (fun e => e.1 == k)
      if (s.job k).atPoint p.forced && s.schedServes && s.health.replay.isNone && s.health.replace.isEmpty && !mayEnd then s.pauseDone k p else s
    | _, _ => s)

/-- Write-back of a stopped job's dirty SRAM has finished: all of it is in the peat tier, WB_PENDING clears, the tiers are emptied and
the on-chip memories cleared (R291, R351 step 7, R471). -/
def execWritebackDone (s : State) : Host.Outcome State Fault Refusal :=
  .next (
    match (List.range s.jobs.length).find? (fun k => (s.job k).info.wbPending) with
    | none => s
    | some k =>
      let s := s.drainTiers k
      let clear := fun (j : Job) => { j with info := { j.info with wbPending := false } }
      { s with jobs := s.jobs.map clear, tiers := { salt := s.tiers.salt }, sched := { s.sched with previous := none } })

/-! ## Commit points (R353) -/

def execCommitIntervalExpired (s : State) : Host.Outcome State Fault Refusal := .next s.seekCommit

def execJournalThreeQuarters (s : State) : Host.Outcome State Fault Refusal :=
  .next (
    match s.workingJob with
    | some k => if 3 * journalSize ≤ 4 * (s.job k).journalBytes then s.seekCommit else s
    | none => s)

def execCommitBedTimeout (s : State) : Host.Outcome State Fault Refusal :=
  .next (
    match s.sched.seekCommit with
    | some false => { s with sched := { s.sched with seekCommit := some true } }
    | _ => s)

/-- The commit point is taken once the cores stand where it may be (R345, R346, R353): dirty SRAM is written back, the
journal empties, intake reopens unless a pause is in progress, the buddy is sent its transfer (R360) and clusters to be migrated move
(R486). -/
def execCommitPointReached (s : State) : Host.Outcome State Fault Refusal :=
  .next (
    match s.workingJob, s.sched.seekCommit with
    | some k, some forced =>
      let j := s.job k
      if j.atPoint forced && s.schedServes && s.health.replay.isNone && s.health.replace.isEmpty then
        let s := s.commitNow k (if forced then j.liveBytes else 0)
        let s := if forced then (s.setInfo k { (s.job k).info with cause := 6 }).jobCount k 0x18 1 else s
        let s := { s with sched := { s.sched with seekCommit := none, intakeOpen := s.sched.pausing.isNone } }
        (((s.onTiers k (fun _ a => a.cleanAll)).mirrorTransfer k).releaseHeld k).migrateClusters
      else s
    | _, _ => s)

/-! ## Summaries of a second (R344, R493) -/

/-- The fullest submission ring of a port: occupancy and set (R344, R494). -/
def HostPort.fullest (h : HostPort) : Nat × Nat :=
  h.sets.foldl (fun m e =>
    let n := (e.2.sqTail - e.2.sqHead).toNat
    if m.1 < n then (n, e.1) else m) (0, 0)

/-- A second at the owning port's island ends: it is saturated when every batch formed in it left waiting work behind, though the
job that formed them may have been paused since (R344, R494). -/
def execSaturated (s : State) : Host.Outcome State Fault Refusal :=
  .next (
    match s.sched.secJob with
    | none => s
    | some k =>
      let d := s.sched
      let clear := { s with sched := { d with batchesSec := 0, allBehind := true, deferredSec := 0, guardSec := 0
                                              secJob := if s.workingJob == some k then some k else none } }
      if d.batchesSec ≠ 0 && d.allBehind then
        let f := (s.port (s.job k).info.owner).fullest
        (clear.jobCount k 0x40 1).healthEvent (some k)
          { code := 0x0F04, job := 0, a := BitVec.ofNat 64 (f.1 + f.2 * 2 ^ 32)
            b := BitVec.ofNat 64 (d.deferredSec % 2 ^ 32 + d.guardSec * 2 ^ 32) }
      else clear)

end Sys2Proof.Machine
end

