-- ==== Sys2Proof/Machine/Lose.lean ====
section
/-! DEFINITION. Lost units (R484 to R489): replays, cores, clusters, ports and banks. -/

namespace Sys2Proof.Machine

/-! ## Replay (R355, R363) -/

/-- The running job has work under way that a replay repeats (R363, R485). -/
def State.liveJob (s : State) : Option Nat :=
  match s.sched.running with
  | some k => if (s.job k).info.state == .running || (s.job k).info.state == .pausing then some k else none
  | none => none

/-- The job as a replay restores it: its last commit point, with the NOTIFY copies written since not to be written again
(R355). Its counters of pauses, yields, forced commit points, stalls, saturated seconds and mirrored bytes count what a replay does not
do again, and stay (R369). -/
def Job.rewound (j : Job) (r : JobRun) : Job :=
  let at' : Job := { j with run := r }
  let t := ({ j with run := at'.saved true } : Job).restored
  let own := fun (off : Nat) => off == 0x28 || off == 0x30 || off == 0x38
  let ctrJob := r.ctrJob.filter (fun e => own e.1) ++ j.run.ctrJob.filter (fun e => !own e.1)
  { t with stage := j.stage, fault := j.fault, info := { j.info with mute := j.info.notified }, run := { t.run with ctrJob } }

/-- A replay of the running job from its last commit point begins, for the loss of a unit (R355, R497): RECOVERED is reported
as a move where no job runs. -/
def State.startReplay (s : State) (kind unit : Nat) : State :=
  match s.liveJob with
  | none => s.recovered kind 2 unit 0 0
  | some k =>
    let s := s.tallyRun k
    let j := s.job k
    match j.commit with
    | none => s.recovered kind 2 unit 0 0
    | some r =>
      let us := (j.info.runNs - j.info.commitRun) / 1000
      let s := ((s.setJob k ((j.rewound r).settleRoutes s.health)).rewindHerd k).healthCount 0x68 1
      let s := s.healthCount 0x70 us
      let x : Replay := { recs := j.journal, kind, unit, us, seq := j.info.commitSeq }
      ({ s with health := { s.health with replay := some x }, codecs := s.codecs.map Engine.idle } : State).replayOn k j.journal

/-! ## Lost clusters (R485, R488, R489) -/

/-- The clusters that may host a lost one: in service, hosting nothing, and not spoken for (R488). -/
def Health.hosts (h : Health) : List Nat :=
  (List.range h.clusters.length).filter (fun p =>
    (h.cluster p).state == 1 && h.replace.all (fun r => r.physical != p && r.lost != p) &&
      (h.coresServing p).all (fun i => (h.serves (coreNum p i)).length == 1))

/-- Where a lost cluster's logical cluster goes: a woodpile cluster, else a host, one that shares a hub first (R485,
R488). -/
def Health.nextHome (h : Health) (lost : Nat) : Option (Nat × Bool) :=
  match h.woodClusters.head? with
  | some w => some (w, false)
  | none =>
    let near := h.hosts.filter (fun p => (hubsOf p).any (fun x => (hubsOf lost).contains x))
    ((near ++ h.hosts).head?).map (fun p => (p, true))

/-- A hosted logical cluster takes its place: logical core `k` on the host's core that serves its own logical core `k`, and
the SRAM starts cold (R488). The host's control core serves its number too (R434). -/
def State.hostCluster (s : State) (cl p : Nat) : State :=
  let own := (s.health.cluster p).logical
  let s := (List.range 16).foldl (fun (s : State) k =>
    let at' := s.health.map.getD (16 * own + k) {}
    s.place1 (16 * cl + k) at'.cluster at'.core) s
  let s := { s with fw := { s.fw with cores := s.fw.cores.set (6 + cl) (s.fw.cores.getD (6 + own) {}) } }
  let h := s.health
  ({ s with health := h.setCluster p { h.cluster p with state := 2, guest := some cl } } : State).coldTier cl |>.rechoose cl

/-- A replacement cluster's rail is brought to the lost one's setpoint (R485 step 3). -/
def State.bringRail (s : State) (lost p : Nat) : State :=
  let rs := s.power.rails
  { s with power := { s.power with rails := rs.set p { rs.getD p {} with v := (rs.getD lost {}).v } } }

/-- A replacement takes its place (R19, R485 step 3, R488). -/
def State.install (s : State) (r : Replace) : State :=
  if r.hosting then s.hostCluster r.logical r.physical else (s.moveCluster r.logical r.physical).bringRail r.lost r.physical

/-- Find a place for a logical cluster whose physical one is lost: at once while no job runs (R363), else with the
replacement that CLUSTER_REPLACE_DONE ends (R485 step 2). With no place, work stops (R489). -/
def State.rehome (s : State) (lost cl : Nat) : State :=
  match s.health.nextHome lost with
  | none => ({ s with health := { s.health with exhausted := true } } : State).unitEvent 0x0F02 3 2 lost cl 0
  | some (p, hosting) =>
    let r : Replace := { lost, logical := cl, physical := p, hosting }
    match s.liveJob with
    | none =>
      let s := s.install r
      let s := if hosting then s.unitEvent 0x0F02 3 3 p cl 0 else s.unitEvent 0x0F01 3 1 p cl 0
      s.recovered 3 2 lost 0 0
    | some _ =>
      let s := { s with health := { s.health with replace := s.health.replace ++ [r] }
                        sched := { s.sched with intakeOpen := false } }
      if hosting then s.unitEvent 0x0F02 3 3 p cl 0 else s.unitEvent 0x0F01 3 1 p cl 0

/-- The logical clusters that a physical cluster serves or is to serve. -/
def Health.clustersOf (h : Health) (p : Nat) : List Nat :=
  let c := h.cluster p
  (if c.inService then c.logical :: c.guest.toList else []) ++
    (h.replace.filter (fun r => r.physical == p)).map (·.logical)

/-- A physical cluster is lost (R485). -/
def State.loseCluster (s : State) (p : Nat) : State :=
  let h := s.health
  if (h.cluster p).state = 4 then s
  else
    let cls := h.clustersOf p
    let s := s.leaveWood p
    let h := h.setCluster p { h.cluster p with state := 4, guest := none }
    let h := { h with replace := h.replace.filter (fun r => r.physical != p)
                      migrate := h.migrate.filter (fun m => m.2 != p && !cls.contains m.1) }
    let s := ({ s with health := h } : State).noteRetired { kind := 3, unit := p }
    if cls.isEmpty then s.unitEvent 0x0F02 3 2 p 0xFFFF 0 else cls.foldl (fun s cl => s.rehome p cl) s

/-! ## Lost cores (R484, R486, R487) -/

/-- The host of a logical core: of the cores in service in its cluster that serve fewer than two, the one that serves the
fewest, the lowest among equals (R487). -/
def Health.coreHost (h : Health) (p : Nat) : Option Nat :=
  (h.coresServing p).find? (fun i => !(h.cluster p).retired.testBit i && (h.serves (coreNum p i)).length == 1)

/-- A logical core is hosted, and a woodpile cluster is brought up for its cluster where one is free (R486, R487). -/
def State.hostCore (s : State) (n : Nat) : State :=
  let p := (s.health.map.getD n {}).cluster
  match s.health.coreHost p with
  | none => s.loseCluster p
  | some i =>
    let s := (s.place1 n p i).unitEvent 0x0F02 1 3 (coreNum p i) n 0
    let cl := n / 16
    match s.health.woodClusters.head? with
    | some w =>
      if s.health.migrate.any (fun m => m.1 == cl) then s
      else ({ s with health := { s.health with migrate := s.health.migrate ++ [(cl, w)] } } : State).unitEvent 0x0F01 3 1 w cl 0
    | none => s

/-- A logical core of a lost physical core takes its new place (R484, R487). -/
def State.replaceCore (s : State) (n : Nat) : State := (s.takeSpare n false).getD (s.hostCore n)

/-- The stages of a lost physical core move, and, where its state cannot be read, the job is replayed; a command that was in progress is
run again and counted (R484, R496). While the cluster's control core is down all this waits (R444). -/
def State.moveStages (s : State) (p i : Nat) (readable : Bool) : State :=
  let u := coreNum p i
  let ns := s.health.serves u
  if ns.isEmpty || (s.health.cluster p).state == 4 then s
  else if s.remapWaits p then s.hold (.remap p i readable)
  else
    let cores := match s.liveJob with
      | some k => ns.filterMap (NMap.find (s.job k).run.cores)
      | none => []
    let s := if readable then s.healthCount 0x20 (cores.filter (·.inCmd)).length else s
    let s := ns.foldl (fun s n => s.replaceCore n) s
    if (s.health.cluster p).state == 4 then s
    else if readable || cores.isEmpty then s.recovered 1 2 u 0 0 else s.startReplay 1 u

/-- A physical core is lost (R484, R485). A cluster left with fewer than 8 cores, or a woodpile cluster with fewer than 16, is lost. -/
def State.loseCore (s : State) (p i : Nat) (readable : Bool) : State :=
  let h := s.health
  let c := h.cluster p
  let u := coreNum p i
  if c.retired.testBit i || c.state == 4 then s
  else
    let ns := h.serves u
    let h := h.setCluster p { c with retired := c.retired + 2 ^ i }
    let h := { h with verifying := h.verifying.filter (· != u) }
    let s := ({ s with health := h } : State).noteRetired { kind := 1, unit := u }
    let left := 17 - ones 17 (c.retired + 2 ^ i)
    if left < 8 then s.loseCluster p
    else if ns.isEmpty then
      let s := s.unitEvent 0x0F02 1 2 u 0xFFFF 0
      if c.state == 0 && decide (left < 16) then s.loseCluster p else s
    else s.moveStages p i readable

/-! ## Lost ports, banks and engines (R16, R94, R482, R490) -/

/-- The logical cluster that a physical one serves, as events name it (R494). -/
def Health.logicalOf (h : Health) (p : Nat) : Nat := if (h.cluster p).inService then (h.cluster p).logical else 0xFFFF

/-- Commands in flight on the cores of a physical cluster. -/
def State.busyCores (s : State) (p : Nat) : Nat :=
  match s.liveJob with
  | some k => ((s.job k).run.cores.filter (fun e => (s.health.map.getD e.1 {}).cluster == p && e.2.inCmd)).length
  | none => 0

/-- A die-to-die port is retired, and the commands in flight are run again; a cluster with none left is unreachable and lost (R16,
R485, R490). -/
def State.losePort (s : State) (p port : Nat) : State :=
  let h := s.health
  let c := h.cluster p
  if !c.ports.testBit port || c.state == 4 then s
  else
    let s := ({ s with health := h.setCluster p { c with ports := c.ports - 2 ^ port } } : State).noteRetired { kind := 4, unit := p, sub := port }
    let s := (s.healthCount 0x20 (s.busyCores p)).unitEvent 0x0F02 4 2 p (s.health.logicalOf p) port
    if c.ports - 2 ^ port = 0 then s.loseCluster p else s

/-- Accumulator tiles that the array command in progress on core `n` uses; 0 where none is (R92). -/
def Job.tilesInUse (j : Job) (n : Nat) : Nat :=
  let c := j.run.core n
  let sec := j.image.sec n
  let w := sec.wordAt c.insn
  let f := fieldsA w
  let o := sec.opBlk f.operand
  let p := precOf f.prec.toNat (j.forcedPrec c)
  let used := fun (m : Nat) => (matPlan j.image sec o p m).used
  let g := (sec.convBlk f.ctrl).geo j.image c
  let x := j.attnCmd c (sec.attnBlk f.ctrl)
  if !c.inCmd then 0
  else
    match w % 256 with
    | 0x20 => used ((o.vectors c).getD 0)
    | 0x21 => used (x.vectors.filter (fun q => x.sees q (c.reg f.span).toNat)).length
    | 0x22 => used (x.vectors.filter (fun q => x.sees q (c.reg f.span).toNat)).length
    | 0x24 => used g.pixels
    | 0x25 => used (fconvPlan g { base := o.act, geo := g, fmt := 9, pad := 0 }).tiles.length
    | _ => 0

/-- The logical cores of a physical core whose command in progress uses one of its accumulator banks: a plan's tiles take the banks in
service in ascending order (R94). -/
def State.bankUsers (s : State) (u bank : Nat) : List Nat :=
  let out := NMap.getD s.health.banksOut u 0
  let at' := ((List.range bank).filter (fun b => !out.testBit b)).length
  match s.liveJob with
  | some k => (s.health.serves u).filter (fun n => decide (at' < (s.job k).tilesInUse n))
  | none => []

/-- An accumulator bank of a physical core is retired; a command that uses it re-runs, and a core left with fewer than 4
banks is retired whole (R94). -/
def State.loseBank (s : State) (p i bank : Nat) : State :=
  let h := s.health
  let u := coreNum p i
  let out := NMap.getD h.banksOut u 0
  if out.testBit bank || (h.cluster p).retired.testBit i || (h.cluster p).state == 4 then s
  else
    let reruns := (s.bankUsers u bank).length
    let s := ({ s with health := { h with banksOut := NMap.put h.banksOut u (out + 2 ^ bank) } } : State).noteRetired
      { kind := 2, unit := u, sub := bank }
    let s := (s.healthCount 0x20 reruns).unitEvent 0x0F02 2 2 u ((h.serves u).head?.getD 0xFFFF) bank
    if s.health.banks u < 4 then s.loseCore p i true else s

/-- A ring-pass engine is retired: its transfers go on at the engines of their clusters' port B hubs, and what of a transfer under way is
not acknowledged is sent again, under the same numbers (R357, R382, R490; log entry 144). -/
def State.loseRing (s : State) (e : Nat) : State :=
  if !s.health.engines.testBit e then s
  else
    let moved := s.herd.engines.getD e []
    let s := ({ s with health := { s.health with engines := s.health.engines - 2 ^ e } } : State).noteRetired { kind := 10, unit := e }
    let put := fun (es : List (List Transfer2)) (t : Transfer2) =>
      let h := s.hubOf t.core
      es.set h (es.getD h [] ++ [t])
    let s := { s with herd := { s.herd with engines := moved.foldl put (s.herd.engines.set e []) } }
    let owned := fun (u : Unacked) => moved.any (fun t => t.started && t.owns (s.job t.slot).info.id u.pkt)
    let s := s.resendAll (s.herd.unacked.filter owned)
    s.unitEvent 0x0F02 10 2 e 0xFFFF 0

/-- A codec engine is retired: its command waits again and runs from its start on another (R327, R490). -/
def State.loseCodec (s : State) (e : Nat) : State :=
  let x := s.codecs.getD e {}
  if !x.inService then s
  else
    let s := ({ s with codecs := s.codecs.set e { inService := false } } : State).noteRetired { kind := 9, unit := e }
    let s := match s.liveJob, x.busy with
      | some k, some uid =>
        let r := (s.job k).run
        let back := fun (q : QCmd) => if q.uid = uid && q.phase == 2 then { q with phase := 1, enc := none } else q
        (s.setJob k { s.job k with run := { r with queue := r.queue.map back } }).healthCount 0x20 1
      | _, _ => s
    s.unitEvent 0x0F02 9 2 e 0xFFFF 0

end Sys2Proof.Machine
end

