-- ==== Sys2Proof/Machine/Firmware.lean ====
section
/-! DEFINITION. The firmware cores: crashes, recovery and takeovers, sapwood and heartwood images, their fetch and live
updates (R434 to R450). -/

namespace Sys2Proof.Machine

/-! ## Crashes and recovery (R443 to R446) -/

/-- Replace a firmware core. -/
def State.setFw (s : State) (n : Nat) (c : FwCore) : State := { s with fw := { s.fw with cores := s.fw.cores.set n c } }

/-- The physical cluster that a cluster control core belongs to: cores 6 to 37 serve logical clusters, 38 and 39 stand for
those of the woodpile clusters (R434). -/
def State.controlled (s : State) (n : Nat) : Nat :=
  if n < 38 then s.health.home (n - 6)
  else s.health.woodpile.getD (n - 38) 34

/-- The island that counts a core's heartbeats (R443). -/
def State.heartIsland (s : State) (n : Nat) : Nat :=
  if n < 6 then 98 + n % 2 else if s.controlled n % 8 < 4 then 98 else 99

/-- Nanoseconds of an hour (R446). -/
def hourNs : Nat := 3600 * 10 ^ 9

/-- An update ends with a result (R447 to R450). -/
def State.endUpdate (s : State) (result : Nat) : State :=
  { s with fw := { s.fw with busy := false, fetch := none, result
                             updates := if result = 1 then s.fw.updates + 1 else s.fw.updates } }

/-- A firmware core's number: those of R434, and the two woodpile clusters' control cores after them. -/
def fwCoreOk (n : Nat) : Bool := decide (n < 40)

/-- The other twin of a pair (R434). -/
def twinOf (n : Nat) : Nat := if n % 2 = 0 then n + 1 else n - 1

/-- The other twin stands by. -/
def State.standby (s : State) (n : Nat) : Bool :=
  decide (n < 6) && (s.fwCore (twinOf n)).role == 2 && (s.fwCore (twinOf n)).state == 2

/-- A new primary scheduler abandons a commit point being taken and takes a fresh one, and learns the census anew from the next HELLOs: no
leader is chosen before each link has had one (R445; log entry 143). -/
def State.newScheduler (s : State) : State :=
  let s := if s.sched.seekCommit == some true then { s with sched := { s.sched with seekCommit := some false } } else s
  { s with herd := { s.herd with relearn := true }, links := s.links.map (fun l => { l with heard := none, fresh := false }) }

/-- The standby becomes primary; the core it takes over from keeps the role given (R435, R444, R446). -/
def State.takeOver (s : State) (n role : Nat) : State :=
  let m := twinOf n
  let s := (s.setFw n { s.fwCore n with role }).setFw m { s.fwCore m with role := 1 }
  let s := { s with fw := { s.fw with takeovers := s.fw.takeovers + 1 } }
  let s := if n / 2 = 2 then s.newScheduler else s
  ((s.unitEvent 0x0F01 11 1 m 0xFFFF 0).recovered 11 4 n 0 0).takeGo

/-- The number under which health telemetry shows a firmware core: the control core of a woodpile cluster has its physical one (R434,
R494; log entry 143). -/
def State.fwUnit (s : State) (n : Nat) : Nat := if n < 38 then n else s.controlled n

/-- A core runs again (R444, R450). A twin whose primary has FAILED meanwhile takes the function over (R446). -/
def State.restarted (s : State) (n : Nat) : State :=
  let c := s.fwCore n
  let s := s.setFw n { c with state := 2, restarts := min 255 (c.restarts + 1) }
  let s := { s with fw := { s.fw with restarts := s.fw.restarts + 1 } }
  let s := if n / 2 = 2 && c.role == 1 then s.newScheduler else s
  let s := s.recovered 11 5 (s.fwUnit n) 0 0
  if n < 6 && c.role == 2 && (s.fwCore (twinOf n)).state == 5 then s.takeOver (twinOf n) 0 else s.takeGo

/-- Both twins of a pair have failed: heartwood, once it serves, reloads them, once, with the fallback sapwood (R446). -/
def State.reloadPair (s : State) (n : Nat) : State :=
  let a := n - n % 2
  if (s.fwCore a).state == 5 && (s.fwCore (a + 1)).state == 5 && 2 ≤ n && !s.fw.reloaded.contains a then
    if !s.roleServes 0 then s.hold (.reload n)
    else
      let s := (s.setFw a { s.fwCore a with state := 1, role := 1, crashes := [] }).setFw (a + 1)
        { s.fwCore (a + 1) with state := 1, role := 2, crashes := [] }
      { s with fw := { s.fw with reloaded := s.fw.reloaded ++ [a] } }
  else s

/-- A core whose recovery fails is FAILED: its twin takes its function, and a cluster whose control core failed is lost
(R446). The control core of the cluster that replaces it serves its number. -/
def State.fwFailed (s : State) (n : Nat) : State :=
  let c := s.fwCore n
  if n < 6 then
    let stands := s.standby n
    let s := s.setFw n { c with state := 5 }
    let s := if c.role == 1 && stands then s.takeOver n 0 else s.setFw n { c with state := 5, role := 0 }
    s.reloadPair n
  else (s.setFw n { c with state := 5 }).loseCluster (s.controlled n)

/-- A firmware core crashes and is held in reset while its recovery runs; a crash of the primary security core abandons an
update (R443, R444, R449). The third crash within an hour makes it FAILED (R446). -/
def State.fwCrash (s : State) (n : Nat) : State :=
  let c := s.fwCore n
  if c.state ≠ 2 then s
  else
    let (t, s) := s.look (s.heartIsland n)
    let queued := match s.liveJob with
      | some k => (s.job k).run.batchNext
      | none => 0
    let crashes := c.crashes.filter (fun x => decide (t < x + hourNs)) ++ [t]
    let s := s.setFw n { c with state := 3, queued, crashes }
    let s := if n < 2 && c.role == 1 && s.fw.busy then s.endUpdate 6 else s
    if 3 ≤ crashes.length then s.fwFailed n else s

/-- A core runs heartwood (R434). -/
def runsHeart (n : Nat) : Bool := decide (n < 2)

/-- Whether heartwood, or sapwood, may access a resource (R436, R439). What a table gives as ciphertext is reached, as ciphertext; the flash's
herd address and address book sapwood writes by a request to heartwood alone. -/
def fwMay (heart : Bool) (r : FwRes) (write : Bool) : Bool :=
  match r with
  | .keys => heart
  | .rom => heart && !write
  | .flash => heart
  | .flashCfg => heart || !write
  | .flashBook => heart
  | .area => true
  | .heartRegion => heart
  | .sapCode => heart || !write
  | .openTables => true
  | .confTables => true
  | .openMemory => true
  | .confMemory => heart
  | .sealedHead => !heart && !write
  | .sealedBody => false
  | .image => true
  | .peatRepair => true

/-- A firmware core's trap (R443): an access that R436 allows is none; a forbidden one gives zeros, is discarded, and is recorded as a fault. -/
def State.fwTrap (s : State) (n : Nat) (w : FwTrap) : State :=
  match w with
  | .access r write =>
    if fwMay (runsHeart n) r write || (s.fwCore n).state != 2 then s
    else ({ s with fw := { s.fw with faults := s.fw.faults ++ [(n, r, write)] } } : State).fwCrash n
  | .trap => s.fwCrash n
  | .memory => s.fwCrash n

def execFwHeartbeatTimeout (core : Nat) (s : State) : Host.Outcome State Fault Refusal :=
  checked s (fwCoreOk core) (s.fwCrash core)

def execFwCoreTrap (core : FwStop) (s : State) : Host.Outcome State Fault Refusal :=
  checked s (fwCoreOk core.core) (s.fwTrap core.core core.why)

/-- A crashed core's recovery ends. Of a primary scheduler the takeover ends first, and then the reload. Sapwood is reloaded by heartwood, and
waits while no security core serves (R444). -/
def State.fwRecovered (s : State) (n : Nat) (ok : Bool) : State :=
  let c := s.fwCore n
  if c.state ≠ 3 && c.state ≠ 1 then s
  else if n / 2 = 2 && c.role == 1 && c.state == 3 && s.standby n then s.takeOver n 2
  else if 2 ≤ n && !s.roleServes 0 then s.hold (.recover n ok)
  else if !ok then s.fwFailed n
  else s.restarted n

/-! ## Images (R42, R438, R439) -/

/-- Least security version that the fuses admit (R438, R451). -/
def State.minSvn (s : State) (heart : Bool) : Nat := if heart then s.fuses.svnHeart else s.fuses.svnSap

/-- The bytes that a measurement covers: bytes 32 to 79 taken as zero (R41, R438). -/
def measured (bs : List Byte) (total : Nat) : List Byte :=
  bs.take 32 ++ List.replicate 48 0 ++ (bs.take total).drop 80

/-- The 48 B digest at an offset. -/
def digestAt (bs : List Byte) (off : Nat) : BitVec 384 := BitVec.ofNat 384 (leNat ((bs.drop off).take 48))

/-- A signature block verifies over a measurement under a prefix, by a signer that the list of digests names (R42, R438). -/
def signedBy (keys : List (BitVec 384)) (tag : String) (measure blk : List Byte) : Bool :=
  let key := (blk.drop 8).take 1952
  decide (5312 ≤ blk.length) && headWord blk 0 4 == 1 && keys.contains (Config.sha3 key) &&
    Config.dsaVerify key (ascii tag ++ measure) ((blk.drop 1960).take 3309) []

/-- The reserved bytes and the padding of a signature block are 0 (R42, R438). -/
def signatureClear (blk : List Byte) : Bool := ((blk.drop 4).take 4).all (· == 0) && ((blk.drop 5269).take 43).all (· == 0)

/-- Entries of a component directory: offset, size and the reserved bytes (R438). -/
def dirEntry (bs : List Byte) (i : Nat) : Nat × Nat × Nat :=
  (headWord bs (128 + 16 * i) 8, headWord bs (136 + 16 * i) 4, headWord bs (140 + 16 * i) 4)

/-- The directory's entries lie inside the image, aligned, apart from each other and with no reserved field set (R438,
R439). -/
def dirOk (bs : List Byte) (n total : Nat) : Bool :=
  (List.range n).all (fun i =>
    let e := dirEntry bs i
    e.1 % 64 == 0 && decide (e.1 + e.2.1 ≤ total) && e.2.2 == 0 && (List.range n).all (fun k =>
      let x := dirEntry bs k
      k == i || decide (e.1 + e.2.1 ≤ x.1) || decide (x.1 + x.2.1 ≤ e.1)))

/-- What a firmware image says (R438). -/
def fwImageOf (bs : List Byte) : FwImage :=
  { version := headWord bs 8 4, svn := headWord bs 12 4, lo := headWord bs 16 4, hi := headWord bs 20 4
    partner := headWord bs 24 4, measure := digestAt bs 32 }

/-- Heartwood accepts an image, or gives the RESULT that its refusal reports (R439, R450): 4 ROLLBACK where only the security
version falls short, else 3 UNVERIFIED. -/
def State.fwAccept (s : State) (heart : Bool) (bs : List Byte) : FwImage × Nat :=
  let total := headWord bs 28 4
  let magic := if heart then ascii "HRTW" else ascii "SAPW"
  let n := if heart then 1 else 3
  let i := fwImageOf bs
  let sizes := total % 64 == 0 && decide (176 ≤ total) && decide (total ≤ 48 * 2 ^ 20) && decide (total + 5312 ≤ bs.length)
  let clear := headWord bs 6 2 == 0 && ((bs.drop 80).take 48).all (· == 0) && ((bs.drop (128 + 16 * n)).take (48 - 16 * n)).all (· == 0)
  let kind := if heart then i.lo == 0 && i.hi == 0 && i.partner == 0 && decide ((dirEntry bs 0).2.1 ≤ 262144)
    else decide (i.lo ≤ i.hi)
  let good := bs.take 4 == magic && headWord bs 4 2 == 1 && sizes && clear && kind && dirOk bs n total &&
    i.measure == Config.sha3 (measured bs total) &&
    signatureClear (bs.drop total) &&
    signedBy Config.whFwKeys (if heart then "HRTW-SIG-1" else "SAPW-SIG-1") ((bs.drop 32).take 48) ((bs.drop total).take 5312)
  if !good then (i, 3) else if i.svn < s.minSvn heart then (i, 4) else (i, 1)

/-! ## Putting firmware in service (R435, R441, R447, R448) -/

/-- A copy of the fallback sapwood is accepted: one that its other checks pass, and whose security version is no less than the fused
minimum (R439, R441). -/
def State.fallbackOk (s : State) (primaryOk mirrorOk : Bool) : Bool :=
  (primaryOk || mirrorOk) && decide (s.minSvn false ≤ fallbackImage.svn)

/-- Every sapwood core that has not failed runs (R434). -/
def Firmware.started (f : Firmware) : Firmware :=
  { f with cores := f.cores.zipIdx.map (fun (x : FwCore × Nat) => if x.2 < 2 || x.1.state == 5 then x.1 else { x.1 with state := 2 }) }

/-- The roles of a pair change in an update where its standby runs (R435, R447, R448). -/
def State.swapRoles (s : State) (a : Nat) : State :=
  let n := if (s.fwCore a).role == 1 then a else a + 1
  if s.standby n then
    let s := (s.setFw n { s.fwCore n with role := 2 }).setFw (twinOf n) { s.fwCore (twinOf n) with role := 1 }
    let s := { s with fw := { s.fw with takeovers := s.fw.takeovers + 1 } }
    if n / 2 = 2 then s.newScheduler else s
  else s

/-- HOST_IF_WINDOW (R410, R441). -/
def State.ifWindow (s : State) : Nat :=
  match s.fw.sapwood with
  | some i => i.lo + 2 ^ 32 * i.hi
  | none => 0

/-- Another sapwood, or none, runs: HOST_IF_WINDOW follows, and vector 128 tells every port where it changes (R422, R442). With the
first, census begins on the links that are UP (R499). -/
def State.setSapwood (s : State) (i : Option FwImage) : State :=
  let t := { s with fw := { s.fw with sapwood := i } }
  let t := if s.ifWindow == t.ifWindow then t else (t.statusChange .a).statusChange .b
  if s.fw.sapwood.isNone then t.linkChanged else t

/-- An accepted sapwood image is applied live (R447 steps 4 to 7), unless the running one is below its partner version. -/
def State.applySapwood (s : State) (i : FwImage) : State :=
  match s.fw.sapwood with
  | some old =>
    if old.version < i.partner then s.endUpdate 5
    else
      let s := (s.swapRoles 4).swapRoles 2
      ({ s with fw := s.fw.started } : State).setSapwood (some i) |>.endUpdate 1
  | none => (({ s with fw := s.fw.started } : State).setSapwood (some i)).endUpdate 1

/-- An accepted heartwood image is written to the mirror, run by the standby and written to the primary (R448). With no
standby to run it the update is abandoned (log entry 39). -/
def State.applyHeartwood (s : State) (i : FwImage) : State :=
  let n := if (s.fwCore 0).role == 1 then 0 else 1
  if s.standby n then
    let s := { s with flash := { s.flash with heartMirror := i, heartPrimary := i }, fw := { s.fw with heartwood := i } }
    (((s.flashEvent 1 2).swapRoles 0).flashEvent 0 2).endUpdate 1
  else s.endUpdate 6

/-! ## The fetch (R440, R441) -/

/-- The configuration names server 0 or 1 (R503, R504). -/
def CfgRec.server (c : CfgRec) (i : Nat) : Bool := ((c.raw.drop (216 + 32 * i)).take 16).any (· != 0)

/-- A server's address is IPv4-mapped (R503). -/
def CfgRec.mapped (c : CfgRec) (i : Nat) : Bool :=
  (c.raw.drop (216 + 32 * i)).take 12 == List.replicate 10 0 ++ [0xFF, 0xFF]

/-- The block size asked for from a source: the path MTU less the headers and 4 bytes (R440). -/
def CfgRec.blockSize (c : CfgRec) (source : Nat) : Nat :=
  headWord c.raw (88 + 64 * ((source - 1) % 2) + 42) 2 - (if c.mapped ((source - 1) / 2) then 32 else 52)

/-- The next source after one: server 1 by ports A and B, then server 2 by ports A and B (R440). -/
def CfgRec.nextSource (c : CfgRec) (source : Nat) : Option Nat :=
  ([1, 2, 3, 4].filter (fun k => decide (source < k) && c.server ((k - 1) / 2))).head?

/-- The file name that the configuration gives for a firmware's kind, NUL-padded (R440, R447, R503). -/
def CfgRec.fileName (c : CfgRec) (heart : Bool) : List Byte :=
  ((c.raw.drop (if heart then 408 else 280)).take 128).takeWhile (· != 0)

/-- Ask a source for a block of the file, with the blksize option (R440). -/
def State.askBlock (s : State) (f : Fetch) : State :=
  let q : TftpReq := { source := f.source, block := f.block % 65536, file := s.cfg.fileName (f.purpose == .heartwood)
                       size := s.cfg.blockSize f.source }
  { s with fw := { s.fw with fetch := some f, requests := s.fw.requests ++ [q] } }

/-- A fetch goes on at the next source, or ends: an update with the result of the last failure (R440, R447). -/
def State.nextFetch (s : State) (f : Fetch) : State :=
  match s.cfg.nextSource f.source with
  | some k => s.askBlock { purpose := f.purpose, source := k, size := s.cfg.blockSize k, last := f.last }
  | none =>
    if f.purpose == .start then { s with fw := { s.fw with fetch := none } } else s.endUpdate f.last

/-- A fetch begins (R440). -/
def State.beginFetch (s : State) (p : FetchFor) : State := s.nextFetch { purpose := p, source := 0 }

/-- A fetched image is whole: it is accepted and used, or the next source is tried (R439, R440). -/
def State.fetched (s : State) (f : Fetch) : State :=
  let heart := f.purpose == .heartwood
  let (i, r) := s.fwAccept heart f.data
  if r ≠ 1 then s.nextFetch { f with last := r }
  else
    match f.purpose with
    | .start => ({ s with fw := { s.fw.started with fetch := none } } : State).setSapwood (some i)
    | .sapwood => s.applySapwood i
    | .heartwood => s.applyHeartwood i

/-- TFTP_BLOCK_TIMEOUT: the block is asked for again, five times in all; then the next source (R440). -/
def execTftpBlockTimeout (s : State) : Host.Outcome State Fault Refusal :=
  .next (
    match s.fw.fetch with
    | none => s
    | some f => if f.tries < 5 then s.askBlock { f with tries := f.tries + 1 } else s.nextFetch { f with last := 2 })

/-- SAPWOOD_RETRY_TIMER: while no sapwood runs, heartwood retries the whole fetch (R441, R446). -/
def execSapwoodRetryTimer (s : State) : Host.Outcome State Fault Refusal :=
  .next (if s.fw.sapwood.isNone && s.fw.fetch.isNone && s.roleServes 0 then s.beginFetch .start else s)

/-! ## Live updates (R447, R448) -/

/-- GO starts an update of the kind that KIND then selects, 0 sapwood or 1 heartwood, a reserved kind starting none (log entry
113); while one is in progress it is ignored, and while no security core serves it waits (R444, R447). -/
def State.goUpdate (s : State) (kind : Nat) : State :=
  if s.fw.busy || decide (1 < kind) then s
  else if !s.roleServes 0 then s.hold (.update kind)
  else
    ({ s with fw := { s.fw with busy := true, kind, result := 0 } } : State).beginFetch (if kind = 1 then .heartwood else .sapwood)

def execSapwoodUpdate (s : State) : Host.Outcome State Fault Refusal := .next (s.goUpdate 0)

def execHeartwoodUpdate (s : State) : Host.Outcome State Fault Refusal := .next (s.goUpdate 1)

end Sys2Proof.Machine
end

