-- ==== Sys2Proof/Machine/Ports.lean ====
section
/-! DEFINITION. The host ports: intake of descriptors, ring sets and doorbells, MSI-X, leases and absence, BAR2, the
semaphore window and port resets (R405 to R427, R432). -/

namespace Sys2Proof.Machine

/-! ## Intake (R343, R414, R417, R427) -/

/-- The descriptor that 64 B spell (R417). The ring field of a host descriptor is ignored. -/
def descOf (bs : List Byte) : Desc :=
  let w := headWord bs
  { opcode := w 0 1, flags := w 1 1, tag := w 2 2, job := w 4 2, ring := w 6 1, prio := w 7 1
    w8 := BitVec.ofNat 64 (w 8 8), w16 := BitVec.ofNat 64 (w 16 8), w24 := BitVec.ofNat 64 (w 24 8)
    w32 := BitVec.ofNat 64 (w 32 8), w40 := BitVec.ofNat 64 (w 40 8), w48 := BitVec.ofNat 64 (w 48 8)
    cookie := BitVec.ofNat 64 (w 56 8) }

/-- The bytes of the entry at a set's submission head (R412, R413). -/
def HostPort.entryAt (h : HostPort) (r : RingSet) : Nat × List Byte :=
  let a := r.sqBase.toNat + r.sqHead.toNat % r.entries 0 * r.sqBytes
  (a, memRead (if bit r.control 1 then h.ringMem else h.hostMem) a r.sqBytes)

/-- The descriptor at a set's head, with its record number in a SEALED set; none where a sealed record fails its check
(R427). -/
def HostPort.headDesc (h : HostPort) (r : RingSet) : Option (Desc × Nat) :=
  let (a, bs) := h.entryAt r
  if r.sealed then
    let no := headWord bs 8 8
    let good := bs.take 4 == [0x53, 0x52, 0x45, 0x43] && headWord bs 4 2 == 1 && headWord bs 6 2 == 1 &&
      decide (r.rxNo < no) && headWord bs 16 4 == 64
    match good, Config.gcmOpen h.session.keyH2d no (bs.take 32 ++ leBytes 8 a) (bs.drop 64 ++ (bs.drop 32).take 16) with
    | true, some p => some (descOf p, no)
    | _, _ => none
  else some (descOf bs, r.rxNo)

/-- Opcodes that R417 defines. -/
def opcodeKnown (o : Nat) : Bool :=
  (1 ≤ o && decide (o ≤ 8)) || (0x10 ≤ o && decide (o ≤ 0x18)) || o == 0x20 || o == 0x21 || o == 0x40 || o == 0x41

/-- Job commands (R333, R425): they act at the scheduler and enter no job's queue. -/
def jobOpcode (o : Nat) : Bool := 1 ≤ o && decide (o ≤ 8)

/-- Intake from a set is open (R414): it is enabled, holds a descriptor, and its completion ring has a free entry for
every command taken from it and not completed, plus one. -/
def RingSet.mayTake (r : RingSet) : Bool :=
  r.enabled && r.sqTail != r.sqHead && decide (r.out + 1 + (r.cqTail - r.cqHead).toNat ≤ r.entries 8)

/-- The job that a descriptor names lets it be taken now (R336, R342, R345): below its limit, from whatever ring, and, for a command of
its queue, running with intake open. A descriptor that names no loaded job of its port is taken to be refused. -/
def State.jobTakes (s : State) (p : Port) (d : Desc) : Bool :=
  match s.slotOf d.job with
  | none => true
  | some k =>
    let i := (s.job k).info
    if 512 ≤ i.outstanding.length then false
    else if i.owner != p || d.opcode == 1 || !opcodeKnown d.opcode then true
    else jobOpcode d.opcode || (i.state == .running && s.sched.intakeOpen)

/-- A set whose head descriptor may be taken, with that descriptor's priority. A head that fails its seal is met once, as one of
priority 0, to be counted (R427). -/
def State.candidate (s : State) (p : Port) (set : Nat) : Option Nat :=
  let r := s.ring p set
  if !r.mayTake then none
  else
    match (s.port p).headDesc r with
    | none => if r.badHead then none else some 0
    | some (d, _) => if s.jobTakes p d then some d.prio else none

/-- The place of a set in the round of service: both ports' sets, from the one after the last served (R343). -/
def State.place (s : State) (p : Port) (set : Nat) : Nat := (portNum p * 64 + set + 127 - s.sched.lastSet % 128) % 128

/-- The sets that could be served, as port number times 64 plus set. -/
def State.servable (s : State) : List Nat :=
  s.portA.sets.map (fun e => e.1) ++ s.portB.sets.map (fun e => e.1 + 64)

/-- The set is the next to be served: no other has a head of higher priority, nor one as high nearer in the round
(R343). -/
def State.servedNext (s : State) (p : Port) (set : Nat) : Bool :=
  match s.candidate p set with
  | none => false
  | some v => s.servable.all (fun n =>
      match s.candidate (portOf (n / 64)) (n % 64) with
      | none => true
      | some w => decide (w < v) || (w == v && decide (s.place p set ≤ s.place (portOf (n / 64)) (n % 64))))

/-- The set's head moves on: RING_SQ_HEAD and the shadow are updated, and the command counts as taken from it (R411,
R414). -/
def State.moveHead (s : State) (p : Port) (set no : Nat) : State :=
  let h := s.port p
  let r := h.ringSet set
  let r' := { r with sqHead := r.sqHead + 1, out := r.out + 1, rxNo := no, badHead := false }
  let h := h.setRing set r'
  let h := if r.shadow = 0 then h else { h with hostMem := memWrite h.hostMem r.shadow.toNat (leBytes 4 r'.sqHead.toNat) }
  { s.setPort p h with sched := { s.sched with lastSet := portNum p * 64 + set, cmdSeq := s.sched.cmdSeq + 1 } }

/-- The record at a set's head fails its check: it is counted and stays, and the round goes on (R343, R427). -/
def State.badSeal (s : State) (p : Port) (set : Nat) : State :=
  let s := (s.setRing p set { s.ring p set with badHead := true }).hostCount p 0x50
  { s with sched := { s.sched with lastSet := portNum p * 64 + set } }

/-- A command of a loaded job that its port owns becomes outstanding (R336), and the running job journals it (R354). -/
def State.noteTaken (s : State) (k : Nat) (c : Cmd) : State :=
  let j := s.job k
  let j := if s.sched.running == some k then j.note (.taken c) else j
  s.setJob k { j with info := { j.info with outstanding := j.info.outstanding ++ [c] } }

/-- A job command taken waits at the scheduler. -/
def State.keepTaken (s : State) (c : Cmd) : State := { s with sched := { s.sched with taken := s.sched.taken ++ [c] } }

/-- Act on a descriptor just taken (R335, R417, R422, R425, R427): an undefined opcode, a job that is not loaded or not the port's,
and an unsealed descriptor for a confidential job are refused; a job command waits at the scheduler; any other enters
its job's queue. What VERSION_OK governs, and an adoption, is decided there whatever job it names. -/
def State.takeDesc (s : State) (c : Cmd) : State :=
  let d := c.desc
  let mine := (s.slotOf d.job).filter (fun k => (s.job k).info.owner == c.port && (s.job k).info.state != .ending)
  if !opcodeKnown d.opcode then s.refuseCmd c 0x0203
  else if d.opcode == 1 then s.keepTaken c
  else
    match mine with
    | none => if d.opcode == 2 || d.opcode == 4 || d.opcode == 7 then s.keepTaken c else s.refuseCmd c 0x0203
    | some k =>
      if (s.job k).info.confidential && !c.sealed && d.opcode != 7 then
        if (d.opcode == 2 || d.opcode == 4) && !s.versionOk c.port then s.completeFree c 0x0102 0 0 else s.refuseCmd c 0x0203
      else
        let s := s.noteTaken k c
        if jobOpcode d.opcode then s.keepTaken c else s.setJob k ((s.job k).enqueue c)

/-- Take the descriptor at the head of a set. -/
def State.intake (s : State) (p : Port) (set : Nat) : State :=
  let s := s.takeGo
  if !(s.schedServes && s.servedNext p set) then s
  else
    let r := s.ring p set
    match (s.port p).headDesc r with
    | none => s.badSeal p set
    | some (d, no) =>
      let c : Cmd := { desc := d, port := p, set, sealed := r.sealed, dev := false, caddr := 0, seq := s.sched.cmdSeq }
      (s.moveHead p set no).takeDesc c

/-- A ring set's number (R411). -/
def setOk (n : Nat) : Bool := decide (n < 64)

def execDescriptorIntake (p : Port) (set : Nat) (s : State) : Host.Outcome State Fault Refusal :=
  checked s (setOk set) (s.intake p set)

/-! ## Ring sets (R412, R413) -/

/-- The three rings of a set as base and length in bytes. -/
def RingSet.extents (r : RingSet) : List (Nat × Nat) :=
  [(r.sqBase.toNat, r.entries 0 * r.sqBytes), (r.cqBase.toNat, r.entries 8 * r.recBytes),
   (r.eqBase.toNat, r.entries 16 * r.recBytes)]

/-- Two extents share a byte. -/
def overlap (a b : Nat × Nat) : Bool := decide (a.1 < b.1 + b.2) && decide (b.1 < a.1 + a.2)

/-- Rings in ring memory lie inside its 32 MiB and clear of every other enabled set's (R412). -/
def HostPort.ringsFit (h : HostPort) (set : Nat) (r : RingSet) : Bool :=
  r.extents.all (fun e => decide (e.1 + e.2 ≤ 2 ^ 25)) &&
  h.sets.all (fun o => o.1 == set || !o.2.enabled || !bit o.2.control 1 ||
    o.2.extents.all (fun x => r.extents.all (fun y => !overlap x y)))

/-- Why an enable fails (R411 ERROR, R412): 0 none, 1 BAD_BASE, 2 BAD_SIZE, 3 NO_SESSION, 4 NOT_READY. Rings on a host bus that a
port served only through emulated registers does not have are BAD_BASE (R430, log entry 123). -/
def State.enableError (s : State) (p : Port) (set : Nat) (r : RingSet) : Nat :=
  let sizes := [fld r.sizes 0 5, fld r.sizes 8 5, fld r.sizes 16 5]
  if !(r.sqBase.toNat % 4096 == 0 && r.cqBase.toNat % 4096 == 0 && r.eqBase.toNat % 4096 == 0) ||
      (if bit r.control 1 then !(s.port p).ringsFit set r else !(s.port p).hosted) then 1
  else if !sizes.all (fun n => decide (6 ≤ n) && decide (n ≤ 16)) then 2
  else if r.sealed && !(s.port p).session.up then 3
  else if s.board.phase != .ready then 4
  else 0

/-- A write to RING_CONTROL with ENABLE 1 (R411, R412): while the set runs, SEALED does not change; otherwise the enable
is checked, and on success PHASE starts afresh (R418) and held records are delivered (R415, R416). -/
def State.enableRing (s : State) (p : Port) (set : Nat) (v : W32) : State :=
  let r := s.ring p set
  let keep : W32 := if r.enabled then r.control &&& 8 else v &&& 8
  let r := { r with control := (v &&& 7) ||| keep }
  if r.enabled then s.setRing p set r
  else
    let e := s.enableError p set r
    if e ≠ 0 then s.setRing p set { r with control := r.control &&& 0xE, error := e }
    else
      let s := s.setRing p set { r with enabled := true, error := 0, badHead := false, cqPass := 0, eqPass := 0 }
      let s := s.flushCompletions p set r.hold
      s.flushEvents p set (s.ring p set).holdEv

def execRingEnable (p : Port) (set : Nat) (v : W32) (s : State) : Host.Outcome State Fault Refusal :=
  checked s (setOk set && bit v 0) (s.enableRing p set v)

/-- Clearing ENABLE stops intake at once (R412). -/
def RingSet.disabled (r : RingSet) : RingSet := { r with enabled := false, control := r.control &&& 0xE }

def execRingDisable (p : Port) (set : Nat) (s : State) : Host.Outcome State Fault Refusal :=
  checked s (setOk set) (s.setRing p set (s.ring p set).disabled)

/-- A doorbell value that would make the distance from the P6's own index negative, or more than the ring's entries, is ignored,
counted in HOST_DOORBELL_BAD and flagged in DOORBELL_BAD; any other becomes the index, whether or not the set is enabled (R413,
R432). A distance is taken modulo 2^32, where a negative one is more than any ring's entries. -/
def State.badDoorbell (s : State) (p : Port) (set : Nat) : State :=
  (s.setRing p set { s.ring p set with bad := true }).hostCount p 0x58

/-- RING_SQ_TAIL (R413): its distance from RING_SQ_HEAD is at most the ring's entries. -/
def State.sqDoorbell (s : State) (p : Port) (set : Nat) (v : W32) : State :=
  let r := s.ring p set
  if (v - r.sqHead).toNat ≤ r.entries 0 then s.setRing p set { r with sqTail := v } else s.badDoorbell p set

/-- RING_CQ_HEAD (R413, R415): slots return, and held completions take them. -/
def State.cqDoorbell (s : State) (p : Port) (set : Nat) (v : W32) : State :=
  let r := s.ring p set
  if (r.cqTail - v).toNat ≤ r.entries 8 then (s.setRing p set { r with cqHead := v }).flushCompletions p set r.hold
  else s.badDoorbell p set

/-- RING_EQ_HEAD (R413, R416). -/
def State.eqDoorbell (s : State) (p : Port) (set : Nat) (v : W32) : State :=
  let r := s.ring p set
  if (r.eqTail - v).toNat ≤ r.entries 16 then (s.setRing p set { r with eqHead := v }).flushEvents p set r.holdEv
  else s.badDoorbell p set

def execRingSqTail (p : Port) (set : Nat) (v : W32) (s : State) : Host.Outcome State Fault Refusal :=
  checked s (setOk set) (s.sqDoorbell p set v)

def execRingCqHead (p : Port) (set : Nat) (v : W32) (s : State) : Host.Outcome State Fault Refusal :=
  checked s (setOk set) (s.cqDoorbell p set v)

def execRingEqHead (p : Port) (set : Nat) (v : W32) (s : State) : Host.Outcome State Fault Refusal :=
  checked s (setOk set) (s.eqDoorbell p set v)

/-! ## MSI-X (R420) -/

/-- A word of the MSI-X table; the vector control words come up masked (log entry 23). -/
def HostPort.msixWord (h : HostPort) (i : Nat) : Nat := NMap.getD h.msixTbl i (if i % 4 = 3 then 1 else 0)

/-- Records have been written that a vector announces: COUNT of them, or, when TIME is not 0, any (R420). -/
def RingSet.due (r : RingSet) (n : Nat) : Bool :=
  decide (max 1 (fld r.irq 0 8) ≤ n) || (fld r.irq 16 16 != 0 && decide (1 ≤ n))

/-- Send a vector's message, or mark it pending where its entry is masked. A port without a PCIe link sends none
(R430). -/
def HostPort.signal (h : HostPort) (vec : Nat) : HostPort :=
  if !h.linkUp then h
  else if (h.msixWord (vec * 4 + 3)).testBit 0 then
    { h with msixPba := if h.msixPba.contains vec then h.msixPba else h.msixPba ++ [vec] }
  else { h with msixSent := h.msixSent ++ [vec], msixPba := h.msixPba.filter (· != vec) }

/-- Send the message of a vector that is due; its count restarts (R420). -/
def HostPort.message (h : HostPort) (vec : Nat) : HostPort :=
  if vec = 128 then (if h.statusDue then { h with statusDue := false }.signal vec else h)
  else
    let r := h.ringSet (vec / 2)
    if vec % 2 = 0 then
      if r.due r.cqSince then (h.setRing (vec / 2) { r with cqSince := 0 }).signal vec else h
    else if r.due r.eqSince then (h.setRing (vec / 2) { r with eqSince := 0 }).signal vec else h

def execMsixMessage (p : Port) (vec : Nat) (s : State) : Host.Outcome State Fault Refusal :=
  checked s (decide (vec ≤ 128)) (s.setPort p ((s.port p).message vec))

/-! ## Absence (R425, R493) -/

/-- A port became absent or present: a PORT event, and the other port's PEER_ABSENT changes (R410, R425, R494). -/
def State.absence (s : State) (p : Port) (was : Bool) (reason : Nat) : State :=
  let now := (s.port p).absentNow
  if was == now then s
  else
    let a := BitVec.ofNat 64 (portNum p + (if now then 1 else 2) * 2 ^ 8 + reason * 2 ^ 16)
    (s.healthEvent none { code := 0x0F0D, job := 0, a, b := 0 }).statusChange (portOther p)

/-- A write to HOST_LEASE sets the period and renews the lease (R410, R425, R432). -/
def State.writeLease (s : State) (p : Port) (v : W32) : State :=
  let h := s.port p
  (s.setPort p { h with lease := v &&& 0xFFFF, leaseLapsed := false }).absence p h.absentNow 2

def execHostLease (p : Port) (v : W32) (s : State) : Host.Outcome State Fault Refusal := .next (s.writeLease p v)

def execLeaseExpired (p : Port) (s : State) : Host.Outcome State Fault Refusal :=
  let h := s.port p
  .next (if fld h.lease 0 16 = 0 then s else (s.setPort p { h with leaseLapsed := true }).absence p h.absentNow 2)

/-- A write of the driver's version recomputes VERSION_OK (R422). -/
def State.writeDriver (s : State) (p : Port) (v : W32) : State :=
  let was := s.versionOk p
  let s := s.setPort p { s.port p with driver := v }
  if s.versionOk p == was then s else s.statusChange p

def execHostDriverVersion (p : Port) (v : W32) (s : State) : Host.Outcome State Fault Refusal := .next (s.writeDriver p v)

/-! ## BAR2 and the semaphore window (R423, R424) -/

/-- HOST_BAR2_CONTROL (R410, R423): JOB and ENABLE are stored; ACTIVE is worked out. -/
def execBar2Enable (p : Port) (v : W32) (s : State) : Host.Outcome State Fault Refusal :=
  .next (s.setPort p { s.port p with bar2 := v &&& 0x1FFFF })

/-- The slot BAR2 maps while ACTIVE: loaded, owned by the port and not confidential (R423). -/
def State.bar2Slot (s : State) (p : Port) : Option Nat :=
  let h := s.port p
  if !bit h.bar2 16 then none
  else
    match s.slotOf (fld h.bar2 0 16) with
    | some k => if (s.job k).info.owner == p && !(s.job k).info.confidential then some k else none
    | none => none

/-- Offsets that BAR2 has (R405). -/
def bar2Ok (off len : Nat) : Bool := decide (off + len ≤ 2 ^ 38)

/-- Job memory as the host sees it: its own writes that wait for journal space show (R423). -/
def Job.hostSees (j : Job) (a len : Nat) : List Byte :=
  memRead (j.heldWrites.foldl (fun m w => memWrite m w.1 w.2) j.run.mem) a len

/-- A read through BAR2 (R423): zeros, and counted, where it maps nothing. One of withheld data waits (R492). -/
def State.readBar2 (s : State) (p : Port) (off len : Nat) : State :=
  let a := (s.port p).bar2Base.toNat + off
  let none' := (s.setPort p { s.port p with reply := leBytes len 0 }).hostCount p 0x60
  match s.bar2Slot p with
  | some k =>
    if (s.job k).mapped a len && (s.job k).blocked a len false then
      s.setPort p { s.port p with heldReads := (s.port p).heldReads ++ [(off, len)] }
    else if (s.job k).mapped a len then (s.setPort p { s.port p with reply := (s.job k).hostSees a len }).hubRead k 5 a len
    else none'
  | none => none'

def execBar2Read (p : Port) (off len : Nat) (s : State) : Host.Outcome State Fault Refusal :=
  checked s (bar2Ok off len) (s.readBar2 p off len)

/-- A write through BAR2 (R423): dropped and counted where it maps nothing, journalled while the job runs, for which it waits while
the journal is full (R354). A write of part of a withheld unit waits (R492). -/
def State.writeBar2 (s : State) (p : Port) (off : Nat) (data : List Byte) : State :=
  let a := (s.port p).bar2Base.toNat + off
  match s.bar2Slot p with
  | some k =>
    let j := s.job k
    if !j.mapped a data.length then s.hostCount p 0x60
    else if j.blocked a data.length true then s.setJob k { j with heldWrites := j.heldWrites ++ [(a, data)] }
    else if s.journalFull k then (s.setJob k { j with heldWrites := j.heldWrites ++ [(a, data)] }).journalStall k
    else if s.sched.running == some k then (s.setJob k (j.hostWrite a data)).hubWrite k 5 a data.length
    else s.setJob k (j.fill a data)
  | none => s.hostCount p 0x60

def execBar2Write (p : Port) (off : Nat) (data : List Byte) (s : State) : Host.Outcome State Fault Refusal :=
  checked s (bar2Ok off data.length) (s.writeBar2 p off data)

/-- The running job that a port owns and may reach through a window: RUNNING or PAUSING, not confidential (R409, R424). -/
def State.windowJob (s : State) (p : Port) : Option Nat :=
  match s.sched.running with
  | some k =>
    let i := (s.job k).info
    if (i.state == .running || i.state == .pausing) && i.owner == p && !i.confidential then some k else none
  | none => none

/-- JOB_SEM_ADD (R424): adds modulo 2^32, journalled for a replay (log entry 142), or is dropped and counted. -/
def State.semAdd (s : State) (p : Port) (n : Nat) (v : W32) : State :=
  match s.windowJob p with
  | some k => s.raiseFrom k n v.toNat
  | none => s.hostCount p 0x70

def execJobSemAdd (p : Port) (n : Nat) (v : W32) (s : State) : Host.Outcome State Fault Refusal :=
  checked s (decide (n < 4096)) (s.semAdd p n v)

/-! ## Resets and links (R406, R432) -/

/-- Whether a reset of a port takes its link down. -/
def dropsLink : ResetKind → Bool
  | .flr => false
  | _ => true

/-- A port's session ends: SEALED sets of the port are disabled, and its key is retained while an image needs it (R432,
R463, R464). The epoch stays. -/
def State.endSession (s : State) (p : Port) : State :=
  let h := s.port p
  let kept := if h.session.up then s.sec.epochKeys ++ [(p, h.session.epoch, h.session.keyD2h)] else s.sec.epochKeys
  let h := { h with session := { epoch := h.session.epoch }
                    sets := h.sets.map (fun e => (e.1, if e.2.sealed then e.2.disabled else e.2)) }
  ({ s.setPort p h with sec := { s.sec with epochKeys := kept } } : State).trimKeys

/-- A reset of one port (R406): its ring sets are disabled, its HOST_ registers return to reset but for the island count
and the counters, HOST_SESSION and its epoch among them, and its session ends. -/
def HostPort.afterReset (h : HostPort) (k : ResetKind) : HostPort :=
  { h with
    sets := h.sets.map (fun e => (e.1, e.2.disabled))
    session := {}, driver := 0, lease := 0, leaseLapsed := false, bar2 := 0, bar2Base := 0, streamBase := 0
    heldReads := []
    linkUp := if dropsLink k then false else h.linkUp
    inReset := if k == .perst then true else h.inReset
    speed := if dropsLink k then 0 else h.speed
    width := if dropsLink k then 0 else h.width
    statusDue := true }

def execPortReset (p : Port) (k : ResetKind) (s : State) : Host.Outcome State Fault Refusal :=
  let h := s.port p
  let s := s.endSession p
  .next ((s.setPort p ((s.port p).afterReset k)).absence p h.absentNow 1)

/-- A speed and width that a link can train to (R405). -/
def linkKind (speed width : Nat) : Bool :=
  decide (4 ≤ speed) && decide (speed ≤ 6) && (width == 4 || width == 8 || width == 16)

/-- A host port's PCIe link completes training, or retrains: HOST_STATUS changes, and the port is present again (R406,
R420, R425, R432). -/
def execPcieLinkUp (p : Port) (speed width : Nat) (s : State) : Host.Outcome State Fault Refusal :=
  checked s (linkKind speed width) (
    let h := s.port p
    if !(s.board.phase == .ready || s.board.phase == .stopped) then s
    else
      let s := s.setPort p { h with linkUp := true, inReset := false, hosted := true, speed, width }
      (s.statusChange p).absence p h.absentNow 1)

end Sys2Proof.Machine
end

