-- ==== Sys2Proof/Machine/Health.lean ====
section
/-! DEFINITION. The events of health (R482 to R497): detection, cores held and hosted, clusters replaced, HBM units lost and
rebuilt, lost data, and the summaries of a second. -/

namespace Sys2Proof.Machine

/-- A physical cluster's number (R14). -/
def physOk (p : Nat) : Bool := decide (p < 34)

/-! ## Detection (R482, R483) -/

/-- A unit is lost (R484 to R490). -/
def State.loseUnit (s : State) (u : UnitRef) : State :=
  match u with
  | .core p i readable => s.loseCore p i readable
  | .cluster p => s.loseCluster p
  | .d2dPort p port => s.losePort p port
  | .codec e => s.loseCodec e
  | .ringPass e => s.loseRing e

/-- A unit's numbers are the P6's (R494). -/
def unitOk : UnitRef → Bool
  | .core p i _ => physOk p && decide (i < 17)
  | .cluster p => physOk p
  | .d2dPort p port => physOk p && decide (port < 2)
  | .codec e => decide (e < 16)
  | .ringPass e => decide (e < 8)

/-- STALL_MONITOR_TRIP (R483): the block that failed to acknowledge is a lost unit of its kind. -/
def execStallMonitorTrip (u : UnitRef) (s : State) : Host.Outcome State Fault Refusal :=
  checked s (unitOk u) ((s.healthCount 0x58 1).loseUnit u)

/-- Times within a window that ends now, with now. -/
def recent (ts : List Nat) (now window : Nat) : List Nat := ts.filter (fun t => decide (now < t + window)) ++ [now]

/-- Nanoseconds of 24 hours (R94). -/
def dayNs : Nat := 24 * hourNs

/-- A corrected error of an accumulator bank; the 16th within 24 hours retires the bank (R94). -/
def State.bankCorrected (s : State) (p i bank : Nat) : State :=
  let (t, s) := s.look 98
  let key := coreNum p i * 8 + bank
  let ts := recent (NMap.getD s.health.bankErrs key []) t dayNs
  let s := { s with health := { s.health with bankErrs := NMap.put s.health.bankErrs key ts } }
  if 16 ≤ ts.length then s.loseBank p i bank else s

/-- A place's numbers are the P6's. -/
def placeOk : EccPlace → Bool
  | .scratchpad p i => physOk p && decide (i < 17)
  | .bank p i b => physOk p && decide (i < 17) && decide (b < 8)
  | .clusterSram p => physOk p
  | .hubBuffer h => decide (h < 8)
  | .firmware n => fwCoreOk n

/-- ECC_ERROR (R94, R443, R482, R484, R485): a corrected error is counted; an uncorrectable one loses its unit. The loss of a
hub is outside what the manual describes (R479). -/
def execEccError (place : EccPlace) (corrected : Bool) (s : State) : Host.Outcome State Fault Refusal :=
  if !placeOk place then .next s
  else if corrected then
    let s := s.healthCount 0x38 1
    match place with
    | .bank p i b => .next (s.bankCorrected p i b)
    | _ => .next s
  else
    match place with
    | .scratchpad p i => .next (s.loseCore p i false)
    | .bank p i b => .next (s.loseBank p i b)
    | .clusterSram p => .next (s.loseCluster p)
    | .hubBuffer _ => .fault .moduleLost
    | .firmware n => .next (s.fwCrash n)

/-- D2D_WORD_ERROR (R16, R482): the word is sent again; after 16 within 1 ms the port is retired. -/
def State.wordError (s : State) (p port : Nat) : State :=
  let (t, s) := s.look 98
  let key := 2 * p + port
  let ts := recent (NMap.getD s.health.wordErrs key []) t (10 ^ 6)
  let s := { s with health := { s.health with wordErrs := NMap.put s.health.wordErrs key ts } }
  if 16 ≤ ts.length then s.losePort p port else s

def execD2dWordError (cluster port : Nat) (s : State) : Host.Outcome State Fault Refusal :=
  checked s (physOk cluster && decide (port < 2)) (s.wordError cluster port)

/-! ## Held and hosted cores (R85, R487) -/

/-- CORE_VERIFY_DONE (R85 step 3): a held core that passes returns to service or to the woodpile; one that fails is
retired. Verification waits while the cluster's control core is down (R444). -/
def State.verified (s : State) (p i : Nat) (pass : Bool) : State :=
  let u := coreNum p i
  let cl := s.health.logicalOf p
  if !s.health.verifying.contains u || (decide (cl < 32) && (s.fwCore (6 + cl)).state != 2) then s
  else
    let s := { s with health := { s.health with verifying := s.health.verifying.filter (· != u) } }
    if pass then s.unitEvent 0x0F0F 1 7 u ((s.health.serves u).head?.getD 0xFFFF) 0 else s.loseCore p i true

def execCoreVerifyDone (cluster core : Nat) (pass : Bool) (s : State) : Host.Outcome State Fault Refusal :=
  checked s (physOk cluster && decide (core < 17)) (s.verified cluster core pass)

/-- A core that waits at NEXT, RECV, SEND or WAIT (R487). -/
def CoreWait.yields : CoreWait → Bool
  | .next _ => true
  | .recv .. => true
  | .send _ => true
  | .sem .. => true
  | _ => false

/-- HOSTED_CORE_SWITCH (R487): of two logical cores on one physical core, the one that has the turn would wait, and the other
gets it; each keeps its live set and control state. -/
def State.switchHosted (s : State) (p i : Nat) : State :=
  let u := coreNum p i
  match s.health.serves u, s.sched.running with
  | [a, b], some k =>
    let on := NMap.getD s.health.turns u a
    let other := if on = a then b else a
    let j := s.job k
    let idle := (NMap.find j.run.cores on).isNone
    if idle || (j.run.core on).wait.yields then
      let s := s.carry on
      { s with health := { s.health with turns := NMap.put s.health.turns u other } }
    else s
  | _, _ => s

def execHostedCoreSwitch (cluster core : Nat) (s : State) : Host.Outcome State Fault Refusal :=
  checked s (physOk cluster && decide (core < 17)) (s.switchHosted cluster core)

/-! ## Clusters (R485, R497) -/

/-- CLUSTER_REPLACE_DONE: every replacement is in place, the job replays, and intake reopens (R485 steps 3 to 5). -/
def State.replaced (s : State) : State :=
  match s.health.replace with
  | [] => s
  | r :: rest =>
    let s := (r :: rest).foldl (fun s x => s.install x) s
    let s := { s with health := { s.health with replace := [] }
                      sched := { s.sched with intakeOpen := s.sched.pausing.isNone && s.sched.seekCommit.isNone } }
    let s := rest.foldl (fun (s : State) x => s.recovered 3 2 x.lost 0 0) s
    s.startReplay 3 r.lost

def execClusterReplaceDone (s : State) : Host.Outcome State Fault Refusal := .next s.replaced

/-! ## HBM (R491, R492) -/

/-- Units of half a stack (R490). -/
def halfUnits : Nat := 2 ^ 24

/-- The halves of a stack whose units lie on failed pseudo-channels: those below 16, and those from 16 (R273, R490). -/
def halvesOf (mask : Nat) : List Nat := [0, 1].filter (fun h => (List.range 16).any (fun i => mask.testBit (16 * h + i)))

/-- Device virtual addresses of the pages that a job has (R53, R119). -/
def Job.pageList (j : Job) : List Nat :=
  (j.image.tensors.filter (fun t => t.addr != 0)).flatMap (fun t => (List.range t.pages).map (fun i => t.addr / 65536 + i)) ++
    j.run.held.map (fun e => e.1 / 65536)

/-- Units of a job whose stripe row has lost two members: the unit lies on a failed part, and another stack of its parity
group has lost the same row, not yet rebuilt (R273, R492). -/
def State.doubleLost (s : State) (k stack : Nat) (halves : List Nat) : List Nat :=
  let h := s.health
  let bad := fun (x : Nat) (half : Nat) => (halvesOf (h.hbm.getD x {}).unbuilt).contains half
  ((s.job k).pageList.flatMap (fun p => (List.range 16).map (fun i => 16 * p + i))).filter (fun u =>
    let d := (s.job k).dataAddr (u * 4096)
    let pl := peatPlace s.tiers.salt d
    let half := pl.chan / 16
    let others := (List.range 48).filter (fun x => x != stack && x % 4 == stack % 4 && bad x half)
    halves.contains half && pl.stack % 4 == stack % 4 && !others.isEmpty &&
      (pl.stack == stack || others.contains pl.stack) && Config.rowLost s.freeCtr pl.row &&
      !h.moved.contains (rowUnit (d / 4096 / 11) (d / 4096 % 11)))

/-- Withhold the units of a job. -/
def State.loseAll (s : State) (k : Nat) (us : List Nat) : State :=
  match us with
  | [] => s
  | u :: rest => (s.loseData k u).loseAll k rest

/-- Units of a stripe row that two members have lost are withheld, job by job (R492). -/
def State.loseRows (s : State) (stack : Nat) (halves : List Nat) (jobs : List Nat) : State :=
  match jobs with
  | [] => s
  | k :: rest =>
    let s' := if (s.job k).info.state.loaded then s.loseAll k (s.doubleLost k stack halves) else s
    s'.loseRows stack halves rest

/-- REBUILD starts, ends or halts (R493, R494). -/
def State.rebuildEvent (s : State) (stack action : Nat) : State :=
  let x := s.health.hbm.getD stack {}
  let (t, s) := s.look 98
  s.healthEvent none
    { code := 0x0F0A, job := 0, a := BitVec.ofNat 64 (stack + action * 2 ^ 8 + x.left * 2 ^ 32)
      b := BitVec.ofNat 64 ((t - x.began) / 1000 % 2 ^ 32) }

/-- A stack's rebuild begins after those under way; a further loss in a stack that is rebuilding extends its rebuild (R491, R493, R497). -/
def State.beginRebuild (s : State) (stack : Nat) : State :=
  let (t, s) := s.look 98
  let h := s.health
  let x := h.hbm.getD stack {}
  if h.rebuilds.contains stack then s
  else
    let h := { h with hbm := h.hbm.set stack { x with state := 2, began := t }, rebuilds := h.rebuilds ++ [stack] }
    ({ s with health := h } : State).rebuildEvent stack 1

/-- HBM_UNIT_FAIL (R490 to R492): a pseudo-channel, or a whole stack. Its units are served by reconstruction and rebuilt; the
rows that have then lost two members are withheld. -/
def State.hbmFails (s : State) (stack : Nat) (pc : Option Nat) : State :=
  let h := s.health
  let x := h.hbm.getD stack {}
  let mask := match pc with
    | some i => x.failed ||| 2 ^ i
    | none => 2 ^ 32 - 1
  let fresh := (halvesOf mask).filter (fun n => !(halvesOf x.failed).contains n)
  if mask = x.failed then s
  else
    let x := { x with failed := mask, left := x.left + halfUnits * fresh.length, unbuilt := x.unbuilt + maskOf (fresh.map (16 * ·)) }
    let h := { h with hbm := h.hbm.set stack x }
    let kind := if pc.isSome then 5 else 6
    let s := ({ s with health := h } : State).noteRetired { kind, unit := stack, sub := pc.getD 0 }
    let code := if h.repairUsed + halfUnits * fresh.length ≤ reserveUnits then 0x0F01 else 0x0F02
    let s := s.unitEvent code kind (if code = 0x0F01 then 1 else 2) stack 0xFFFF (pc.getD 0)
    if fresh.isEmpty then s
    else
      let s := (s.loseRows stack fresh (List.range s.jobs.length))
      ({ s with freeCtr := s.freeCtr + 1 } : State).beginRebuild stack

def execHbmUnitFail (stack : Nat) (pc : Option Nat) (s : State) : Host.Outcome State Fault Refusal :=
  checked s (decide (stack < 48) && pc.all (fun i => decide (i < 32))) (s.hbmFails stack pc)

/-- REBUILD_DONE (R491): the units of the first stack in rebuild are relocated into the reserve, then into free data space,
which usable capacity loses; a unit with no place stays in reconstruction, with the stack DEGRADED. -/
def State.rebuilt (s : State) : State :=
  let h := s.health
  match h.rebuilds with
  | [] => s
  | k :: rest =>
    let x := h.hbm.getD k {}
    let a := min x.left (reserveUnits - h.repairUsed)
    let b := min (x.left - a) s.freeUnits
    let left := x.left - a - b
    let x := { x with left, unbuilt := if left = 0 then 0 else x.unbuilt, state := if left = 0 then 3 else 1 }
    let h := { h with repairUsed := h.repairUsed + a, lost := h.lost + 4096 * b, rebuilds := rest, hbm := h.hbm.set k x }
    ({ s with health := h } : State).rebuildEvent k (if left = 0 then 2 else 3)

def execRebuildDone (s : State) : Host.Outcome State Fault Refusal := .next s.rebuilt

/-- Data space has been freed: the rebuild pass resumes for the stacks with units left (R491). -/
def State.resumeRebuild (s : State) : State :=
  ((List.range 48).filter (fun k => (s.health.hbm.getD k {}).state == 1)).foldl (fun s k => s.beginRebuild k) s

/-- The data pages that a job's reservation is backed by (R279). -/
def Job.dataPagesOf (j : Job) : List Nat := j.backing.map (·.2) ++ j.pool.flatMap (fun r => List.range' r.1 r.2)

/-- The data space of a job is overwritten with zeros in whole stripes, charged to the firmware partition (R472). -/
def State.scrubJob (s : State) (j : Job) : State :=
  j.dataPagesOf.foldl (fun (s : State) p => s.firmwareWrite (p * 65536) 65536) s

/-- SCRUB_DONE (R331, R472): the scrub pool is overwritten, jobs that were ENDING are ENDED, and the rebuild pass resumes. -/
def execScrubDone (s : State) : Host.Outcome State Fault Refusal :=
  let done := fun (j : Job) => if j.info.state == .ending then { info := { j.info with state := .ended } } else j
  let s := (s.jobs.filter (fun j => j.info.state == .ending)).foldl State.scrubJob s
  .next (({ s with sec := { s.sec with scrub := 0 }, jobs := s.jobs.map done } : State).resumeRebuild)

/-! ## Lost data (R492) -/

/-- The job and the unit of job memory that a withheld data unit is. -/
def State.lostAt (s : State) (unit : Nat) : Option (Nat × Nat) :=
  ((List.range s.jobs.length).flatMap (fun k => (s.job k).lost.map (fun u => (k, u)))).find? (fun e =>
    (s.job e.1).dataAddr (e.2 * 4096) / 4096 == unit)

/-- Reads through BAR2 that waited are answered, in order, where their data is good again (R492). -/
def State.serveReads (s : State) (p : Port) : State :=
  (s.port p).heldReads.foldl (fun (s : State) r => s.readBar2 p r.1 r.2) (s.setPort p { s.port p with heldReads := [] })

/-- A unit is good again: it leaves the withheld ones, a core that waits for it reads on, and so do the host's accesses. -/
def State.madeGood (s : State) (k u : Nat) : State :=
  let j := s.job k
  let free := fun (c : Core) => match c.wait with
    | .held a => if a / 4096 = u then { c with wait := .run } else c
    | _ => c
  let s := s.setJob k { j with lost := j.lost.filter (· != u), made := j.made.filter (· != u)
                               run := { j.run with cores := j.run.cores.map (fun e => (e.1, free e.2)) } }
  let s := if s.journalFull k then s else s.releaseHeld k
  (s.serveReads .a).serveReads .b

/-- DATA_RESTORED (R492, R497): by the buddy's commit copy, after which the job replays from that commit point, or by a
whole-unit write. -/
def State.dataRestored (s : State) (unit : Nat) (means : RestoreMeans) : State :=
  match s.lostAt unit with
  | none => s
  | some (k, u) =>
    match means with
    | .written =>
      if (s.job k).made.contains u then (s.madeGood k u).dataEvent 0x0F09 k u 2 else s
    | .buddy =>
      if (s.job k).info.buddy then
        let s := (s.madeGood k u).dataEvent 0x0F09 k u 1
        if s.liveJob == some k then s.startReplay 6 (peatPlace s.tiers.salt (unit * 4096)).stack else s
      else s

def execDataRestored (unit : Nat) (means : RestoreMeans) (s : State) : Host.Outcome State Fault Refusal :=
  .next (s.dataRestored unit means)

/-! ## Timers and phases (R485, R490, R493) -/

def execMarginForecast (s : State) : Host.Outcome State Fault Refusal := .next s.forecastEvent

/-- WOODPILE_TEST_TIMER (R91, R485): the woodpile units run their in-service test on the fawn path; those that fail, given as
cluster and core, are retired. -/
def State.woodpileTest (s : State) (bad : List (Nat × Nat)) : State :=
  let (v, s) := s.fresh
  let idle := bad.filter (fun b => (s.health.cluster b.1).state == 0 || (s.health.woodCores b.1).contains b.2)
  idle.foldl (fun (s : State) b => s.loseCore b.1 b.2 true) (s.healthCount 0x78 v)

def execWoodpileTestTimer (bad : List (Nat × Nat)) (s : State) : Host.Outcome State Fault Refusal :=
  checked s (bad.all (fun b => physOk b.1 && decide (b.2 < 17))) (s.woodpileTest bad)

/-- PHASE_FAIL on a cluster rail (R485, R490): a spare phase takes its share, or the rail's current is capped; a rail left
with fewer than 5 phases makes its cluster a lost cluster. -/
def State.phaseFails (s : State) (rail phase : Nat) : State :=
  let h := s.health
  let c := h.cluster rail
  let out := c.phasesOut + 2 ^ phase
  if c.phasesOut.testBit phase then s
  else
    let s := ({ s with health := h.setCluster rail { c with phasesOut := out } } : State).noteRetired { kind := 13, unit := rail, sub := phase }
    let spare := decide (ones 12 out ≤ 2)
    let s := s.unitEvent (if spare then 0x0F01 else 0x0F02) 13 (if spare then 1 else 2) rail (s.health.logicalOf rail) phase
    if 12 - ones 12 out < 5 then s.loseCluster rail else s

/-- PHASE_FAIL (R490): a hub rail has 3 spare phases, and one that falls below its need is a hub loss, outside what the
manual describes (R479). -/
def execPhaseFail (rail phase : Nat) (s : State) : Host.Outcome State Fault Refusal :=
  if rail < 34 then checked s (decide (phase < 12)) (s.phaseFails rail phase)
  else if 42 ≤ rail || 16 ≤ phase then .next s
  else
    let h := s.health
    let m := h.hubPhasesOut.getD (rail - 34) 0
    if m.testBit phase then .next s
    else if 3 ≤ ones 16 m then .fault .moduleLost
    else
      let s := ({ s with health := { h with hubPhasesOut := h.hubPhasesOut.set (rail - 34) (m + 2 ^ phase) } } : State).noteRetired
        { kind := 13, unit := rail, sub := phase }
      .next (s.unitEvent 0x0F01 13 1 rail 0xFFFF phase)

/-! ## Summaries of a second (R493, R494) -/

/-- The key with the greatest value, the first among equals. -/
def greatest (m : List (Nat × Nat)) : Nat :=
  ((m.find? (fun e => m.all (fun x => decide (x.2 ≤ e.2)))).map (·.1)).getD 0

/-- PREFETCH_LATE_SUMMARY: a second at the owning port's island in which the late beats of all clusters rose by 2^26
(R493). -/
def execPrefetchLateSummary (s : State) : Host.Outcome State Fault Refusal :=
  .next (
    match s.runningJob with
    | none => s
    | some k =>
      let r := (s.job k).run
      let now := (List.range 32).map (fun c => (c, NMap.getD r.ctrCluster (c * 0x80 + 0x58) 0))
      let rise := now.map (fun e => (e.1, e.2 - NMap.getD s.sched.lateMark e.1 0))
      let total := (rise.map (·.2)).sum
      let waits := s.sched.lateCount
      let s := { s with sched := { s.sched with lateMark := now, lateCount := 0 } }
      if total < 2 ^ 26 then s
      else s.healthEvent (some k)
        { code := 0x0F05, job := 0, a := BitVec.ofNat 64 total
          b := BitVec.ofNat 64 (waits % 2 ^ 32 + greatest rise * 2 ^ 32) })

/-- BANK_STALL_SUMMARY: a second in which the browse bank stalls of all cores rose by 2^24 (R221, R493). -/
def execBankStallSummary (s : State) : Host.Outcome State Fault Refusal :=
  .next (
    match s.runningJob with
    | none => s
    | some k =>
      let r := (s.job k).run
      let now := (List.range 512).map (fun n => (n, NMap.getD r.ctrCore (n * 0x400 + 0x140) 0))
      let rise := now.map (fun e => (e.1, e.2 - NMap.getD s.sched.stallMark e.1 0))
      let total := (rise.map (·.2)).sum
      let s := { s with sched := { s.sched with stallMark := now } }
      if total < 2 ^ 24 then s
      else s.healthEvent (some k)
        { code := 0x0F06, job := 0, a := BitVec.ofNat 64 total, b := BitVec.ofNat 64 (greatest rise) })

end Sys2Proof.Machine
end

