-- ==== Sys2Proof/Machine/Fire.lean ====
section
/-! DEFINITION. JOB_LOAD and the firing of an image (R67 to R71, R116, R154, R178, R338, R339, R348, R368, R422, R427, R467). -/

namespace Sys2Proof.Machine

/-! ## The life-cycle (R451, R473) -/

/-- The life-cycle state: 0 BLANK, 1 MAKER, 2 FIELD, 3 RETURNED, 4 SCRAPPED, by the last bit blown (R451). -/
def Fuses.state (f : Fuses) : Nat :=
  if f.lc.testBit 3 then 4 else if f.lc.testBit 2 then 3 else if f.lc.testBit 1 then 2 else if f.lc.testBit 0 then 1 else 0

/-! ## The image as fired -/

/-- The core sections that have a stage. -/
def firedCores (bs : List Byte) (stage : NMap Nat) : NMap CoreSec := stage.map (fun e => (e.1, coreSecOf (sectionOf bs (33 + e.1))))

/-- The stage of each core, from the cluster sections' maps; a stage that does not exist gives none. -/
def stageMap (i : Image) (bs : List Byte) : NMap Nat :=
  (List.range 512).filterMap (fun n =>
    let st := headWord (sectionOf bs (1 + n / 16)) (8 + 2 * (n % 16)) 2
    if st < i.stages.length then some (n, st) else none)

/-- The batch extent (R116): the least token limit among the tensors that cores of FIRST stages name. -/
def batchExtent (i : Image) (stage : NMap Nat) (cores : NMap CoreSec) : Nat :=
  let named := (cores.filter (fun e => (i.stages.getD (NMap.getD stage e.1 0) {}).flags.testBit 0)).flatMap (fun e => e.2.names)
  let lims := (i.limits.filter (fun l => l.dim == 1 && named.contains l.tensor)).map (·.extent)
  match lims with
  | [] => 256
  | x :: rest => min 4096 (rest.foldl min x)

/-- The image that a firing of these bytes gives, before it is known to pass. -/
def imageOf (bs : List Byte) : Image :=
  let w := headWord bs
  let i := deviceOf (sectionOf bs 0)
  let stage := stageMap i bs
  let cores := firedCores bs stage
  let groups := cores.flatMap (fun e => e.2.groups)
  { i with
    confidential := bit (BitVec.ofNat 16 (w 6 2)) 1, hostIf := w 8 4, measurement := digestAt bs 32
    clusters := (List.range 32).map (fun c => (c, clusterOf (sectionOf bs (1 + c)))), cores
    extent := batchExtent i stage cores
    stateExtent := (cores.flatMap (fun e => e.2.spans.map (·.2))).foldl max 0
    attnKey := (cores.flatMap (fun e => e.2.fmtsOf 0x21)).head?
    attnVal := (cores.flatMap (fun e => e.2.fmtsOf 0x22)).head?
    attnGroups := if groups = [] then none else some (groups.foldl max 0 + 1) }

/-! ## The checks in order (R67) -/

/-- A refused firing: status, reason, section and byte offset (R69). -/
structure Refused where
  status  : Nat
  reason  : Nat
  sect    : Nat
  off     : Nat

/-- The lowest section with a breach, and its lowest offset (R67). -/
def firstRefusal (status : Nat) (secs : List (Nat × List Breach)) : Option Refused :=
  match secs with
  | [] => none
  | (n, bs) :: rest =>
    match firstBreach bs with
    | some b => some { status, reason := b.2, sect := n, off := b.1 }
    | none => firstRefusal status rest

/-- Step 3, in its fixed order (R67, R42, R458, R467). A return or scrap in progress refuses any image (R476). -/
def State.verifyImage (s : State) (bs : List Byte) : Option Refused :=
  let flags := headWord bs 6 2
  let signed := flags.testBit 0
  let conf := flags.testBit 1
  let no := fun (reason off : Nat) => some ({ status := 0x0104, reason, sect := 0, off } : Refused)
  let total := headWord bs 16 8
  let blk := bs.drop total
  let key := (blk.drop 8).take 1952
  let must := s.cfg.flags.testBit 1 || (conf && s.cfg.flags.testBit 2)
  if s.sec.noLoads || s.fuses.intent != 0 || (conf && s.fuses.state != 2) then no 0x024 6
  else if digestAt bs 32 != Config.sha3 (measured bs total) then no 0x020 32
  else if !signed && must then no 0x022 6
  else if !signed then none
  else if !s.cfg.anchors.contains (Config.sha3 key) then no 0x023 24
  else if signedBy s.cfg.anchors "KILN-SIG-3" ((bs.drop 32).take 48) blk then none else no 0x021 24

/-- Reserved bytes and padding of a signature block, which step 4 holds to 0 (R12, R42). A breach is reported at the header's
signature block size, since the block lies beyond what a word offset reaches (log entry 73). -/
def signatureReserved (bs : List Byte) : List Breach :=
  breach ((headWord bs 6 2).testBit 0 && !signatureClear (bs.drop (headWord bs 16 8))) 24 0x030

/-- Steps 4 to 6 (R67). -/
def checkImage (bs : List Byte) (i : Image) : Option Refused :=
  let dev := sectionOf bs 0
  let stage := stageMap i bs
  let x : Joined := { dev, image := i, stage }
  let spans := i.cores.flatMap (fun e => e.2.spans.map (fun p => (e.1, p)))
  let env := fun (n : Nat) => ({ core := n, busy := (NMap.find stage n).isSome, image := i, pgt := (NMap.getD i.clusters (n / 16) {}).pgt
                                 ext := i.extent, keyF := i.attnKey, valF := i.attnVal, spans } : FireEnv)
  let pinned := fun (c : Nat) => ((NMap.getD i.clusters c {}).pins.map (·.pages)).sum
  let need := (i.tensors.map (fun t => if t.addr = 0 then 0 else t.pages)).sum
  let four := firstRefusal 0x0103 ((0, headerReserved bs ++ signatureReserved bs) :: (1, x.device) ::
    (List.range 32).map (fun c => (2 + c, clusterBreaches i c (sectionOf bs (1 + c)))) ++
    (List.range 512).map (fun n => (34 + n, coreBreaches (env n) (sectionOf bs (33 + n)))))
  let five := firstRefusal 0x0103 ((1, breach (decide (i.peatUnits * 32 < need)) 72 0x040) ::
    (List.range 32).map (fun c => (2 + c, breach (decide ((16 - i.cacheUnits.getD c 0) * 1024 < pinned c)) 44 0x040)))
  four <|> five <|> firstRefusal 0x0103 [(1, x.routes)]

/-- Steps 1 to 6 on the bytes delivered. -/
def State.checkFiring (s : State) (bs : List Byte) (i : Image) : Option Refused :=
  let inWindow := match s.fw.sapwood with
    | some w => decide (w.lo ≤ i.hostIf) && decide (i.hostIf ≤ w.hi)
    | none => false
  match firstRefusal 0x0103 [(0, headerBreaches bs)] <|> firstRefusal 0x0103 [(0, dirBreaches bs)] with
  | some r => some r
  | none => if !inWindow then some { status := 0x0102, reason := 0x010, sect := 0, off := 8 } else s.verifyImage bs <|> checkImage bs i

/-- The loaded jobs but for slot `k`. -/
def State.others (s : State) (k : Nat) : List Job := ((s.jobs.zipIdx).filter (fun e => e.2 != k && e.1.info.state.loaded)).map (·.1)

/-- Those of them that hold a reservation: a job that is ENDING has released its own (R472). -/
def State.holders (s : State) (k : Nat) : List Job := (s.others k).filter (fun j => j.info.state != .ending)

/-- Two stream slices share an entry (R68). -/
def Image.sliceMeets (a b : Image) : Bool :=
  decide (a.sliceFirst < b.sliceFirst + b.sliceCount) && decide (b.sliceFirst < a.sliceFirst + a.sliceCount)

/-- Step 7 for a firing into slot `k`, or into none (R68, R285, R472). -/
def State.grant (s : State) (k id : Nat) (i : Image) : Option Refused :=
  let js := s.holders k
  let no := fun (reason sect off : Nat) => some ({ status := 0x0101, reason, sect, off } : Refused)
  let cap := usableUnits - s.health.lost / 4096
  let held := (js.map (fun j => j.image.peatUnits * 512)).sum
  let link := (List.range 48).findSome? (fun n =>
    let share := i.links.getD n 0
    if share = 0 then none
    else if (s.links.getD n {}).state != .up then no 0x072 1 (80 + n)
    else if 230 < share + (js.map (fun j => j.image.links.getD n 0)).sum then no 0x062 1 (80 + n)
    else none)
  if id ≠ 0 && (s.others k).any (fun j => j.info.id == id) then no 0x064 0 0
  else if cap < i.peatUnits * 512 then no 0x070 1 72
  else if cap < i.peatUnits * 512 + held + cdiv s.sec.scrub 4096 then no 0x060 1 72
  else if js.any (fun j => i.sliceMeets j.image) then no 0x061 1 56
  else link <|> (if 64 ≤ (s.others k).length then no 0x063 0 0 else none)

/-! ## Bytes from the host (R338, R339, R427) -/

/-- Read a buffer of a JOB_LOAD at its port: sealed data records through a SEALED set, which no bytes stand for where a record
fails its check. -/
def State.readLoad (s : State) (c : Cmd) (addr n : Nat) : Option (List Byte) :=
  let h := s.port c.port
  if c.sealed then openBuffer h.session.keyH2d addr (cdiv n 4096) (memRead h.hostMem addr (hostSize true n))
  else some (memRead h.hostMem addr n)

/-- The image that a JOB_LOAD delivers. -/
def State.delivered (s : State) (c : Cmd) : List Byte := (s.readLoad c c.desc.w8.toNat c.desc.w16.toNat).getD []

/-- A confidential image in plain view of an unsealed set (R70, R427). Bytes that do not begin with the magic are no image
whose flags could say so: they go to step 1, which refuses them as BAD_MAGIC (log entry 101). -/
def unsealedConf (c : Cmd) (bs : List Byte) : Bool := !c.sealed && headWord bs 0 4 == 0x4E4C494B && (headWord bs 6 2).testBit 1

/-- A manifest entry: tensor, bytes, offset into the tensor and host address (R339). -/
structure ManifestE where
  tensor : Nat
  len    : Nat
  off    : Nat
  host   : Nat
  clear  : Bool

/-- The bytes of a JOB_LOAD's manifest. -/
def State.manifestBytes (s : State) (c : Cmd) : Option (List Byte) := s.readLoad c c.desc.w24.toNat (32 * fld c.desc.w32 0 16)

/-- The manifest of a JOB_LOAD. -/
def State.manifest (s : State) (c : Cmd) : List ManifestE :=
  let n := fld c.desc.w32 0 16
  let w := headWord ((s.manifestBytes c).getD [])
  (entriesAt 0 n 32).map (fun o =>
    { tensor := w o 2, len := w (o + 4) 4, off := w (o + 8) 8, host := w (o + 16) 8, clear := w (o + 2) 2 == 0 && w (o + 24) 8 == 0 })

/-- An entry that the manifest may hold (R339). -/
def ManifestE.ok (e : ManifestE) (i : Image) : Bool :=
  let t := i.tensor e.tensor
  decide (e.tensor < i.tensors.length) && t.addr != 0 && decide (e.off + e.len ≤ t.pages * 65536) && e.len % 64 == 0 &&
    e.off % 64 == 0 && e.clear

/-- Copy the manifest's entries into job memory in list order (R339). -/
def State.loadManifest (s : State) (c : Cmd) (i : Image) (es : List ManifestE) : NMap Byte :=
  es.foldl (fun m e => memWrite m ((i.tensor e.tensor).addr + e.off) ((s.readLoad c e.host e.len).getD [])) []

/-- The number of the first entry that the manifest may not hold, or whose data or whose own record fails its check (R339, R427; log
entry 126). -/
def State.badEntry (s : State) (c : Cmd) (i : Image) (es : List ManifestE) : Option Nat :=
  if (s.manifestBytes c).isNone then some 0
  else
    let n := es.findIdx (fun e => !(e.ok i && (s.readLoad c e.host e.len).isSome))
    if n < es.length then some n else none

/-- The whole verdict on a JOB_LOAD into slot `k` for identifier `id`: the refusal, or none (R67 to R70, R339). -/
def State.fireVerdict (s : State) (k id : Nat) (c : Cmd) : Option Refused :=
  let bs := s.delivered c
  let i := imageOf bs
  let es := s.manifest c
  if unsealedConf c bs then some { status := 0x0203, reason := 0x081, sect := 0, off := 6 }
  else
    s.checkFiring bs i <|> s.grant k id i <|>
      (s.badEntry c i es).map (fun n => { status := 0x0203, reason := 0x080, sect := 0, off := 4 * n })

/-! ## The end of a firing (R69, R338, R368) -/

/-- The count field that carries the firing fault word (R69). -/
def Refused.count (r : Refused) : Nat := r.reason * 2 ^ 32 + r.sect * 2 ^ 22 + r.off / 4

/-- Complete a refused JOB_LOAD with its fault word. -/
def State.refuseLoad (s : State) (i : JobInfo) (c : Cmd) (r : Refused) : State :=
  let s := s.completeUnder i c r.status 0 0 r.count
  if r.status = 0x0203 then s.hostCount c.port 0x50 else s

/-- A JOB_START or JOB_RESUME that a later waiting JOB_PAUSE withdraws (R368). -/
def pausedLater (cs : List Cmd) (c : Cmd) : Bool := cs.any (fun d => d.desc.opcode == 3 && decide (c.seq < d.seq))

/-- A command that waited for a load which was refused: a JOB_END or JOB_PAUSE completes DONE with a count of 0, a start that
a JOB_PAUSE withdrew PAUSED_AT_BED, and any other names a job that is not loaded (R335, R368). -/
def State.settleOrphan (s : State) (i : JobInfo) (c : Cmd) : State :=
  if c.desc.opcode = 5 || c.desc.opcode = 3 then s.completeUnder i c 0 0 0 0
  else if pausedLater i.waiting c then s.completeUnder i c 0x0501 0 0 0
  else (s.completeUnder i c 0x0203 0 0 0).hostCount c.port 0x50

/-- A refused load leaves nothing behind (R69). -/
def State.loadRefused (s : State) (k : Nat) (c : Cmd) (r : Refused) : State :=
  let i := (s.job k).info
  let s := (s.setJob k {}).refuseLoad { i with id := if i.id < 2 ^ 16 then i.id else c.desc.job } c r
  ((i.outstanding.filter (fun d => d.seq != c.seq)).foldl (fun s d => s.settleOrphan i d) s).resumeRebuild

/-! ## Backing (R272, R279, R284) -/

/-- Mark the data pages that the loaded jobs' reservations are backed by. -/
def State.usedPages (s : State) : NMap Unit :=
  (s.jobs.flatMap Job.dataPagesOf).foldl (fun m p => NMap.put m p ()) []

/-- Data pages of a residue class modulo 11. -/
def classSize (c : Nat) : Nat := (dataPages - c + 10) / 11

/-- The first free data page of a class from its `x`-th on, wrapping. -/
def seekPage (used : NMap Unit) (c x fuel : Nat) : Option Nat :=
  match fuel with
  | 0 => none
  | k + 1 =>
    let p := c + 11 * (x % classSize c)
    if (NMap.find used p).isNone then some p else seekPage used c (x + 1) k

/-- A free data page for virtual page `v`: of its own class, else of the next class that has one (R279). -/
def freePage (used : NMap Unit) (x v : Nat) : Option Nat :=
  (List.range 11).findSome? (fun i => seekPage used ((v + i) % 11) x (classSize 0))

/-- The first wholly free run of 11 data pages, aligned to 704 KiB, from the `x`-th on, wrapping. -/
def seekRun (used : NMap Unit) (x fuel : Nat) : Option Nat :=
  match fuel with
  | 0 => none
  | k + 1 =>
    let p := 11 * (x % (dataPages / 11))
    if (List.range' p 11).all (fun q => (NMap.find used q).isNone) then some p else seekRun used (x + 1) k

/-- The backing as tensor pages are placed: of each virtual page, the data pages taken, and the aligned run that the present 704 KiB of
virtual pages lies in. -/
structure Backing where
  at'  : NMap Nat
  used : NMap Unit
  run  : Option (Nat × Nat) := none

/-- Virtual page `v` is backed: in the run of its 704 KiB, for which a wholly free one is sought, else by a page of its own class, else
of another (R279). -/
def Backing.page (x : Backing) (ctr v : Nat) : Backing :=
  let c := Config.dataPage ctr v
  let run := match x.run with
    | some (g, p) => if g = v / 11 then some (g, p) else (seekRun x.used c (dataPages / 11)).map (fun p => (v / 11, p))
    | none => (seekRun x.used c (dataPages / 11)).map (fun p => (v / 11, p))
  let place := match run with
    | some (_, p) => some (p + v % 11)
    | none => freePage x.used c v
  match place with
  | some p => { at' := NMap.put x.at' v p, used := NMap.put x.used p (), run }
  | none => { x with run }

/-- Back the pages of the tensors with peat addresses (R279). -/
def backTensors (ctr : Nat) (vs : List Nat) (used : NMap Unit) : NMap Nat × NMap Unit :=
  let x := vs.foldl (fun (x : Backing) v => x.page ctr v) { at' := [], used }
  (x.at', x.used)

/-- Back `left` pages of the stream pool in aligned runs, and by single pages where no run is wholly free (R279; log entry 12). -/
def backPool (ctr fuel left : Nat) (used : NMap Unit) : List (Nat × Nat) :=
  match fuel with
  | 0 => []
  | k + 1 =>
    if left = 0 then []
    else
      let x := Config.dataPage ctr (2 ^ 41 + left)
      let run := match seekRun used x (dataPages / 11) with
        | some p => some (p, min 11 left)
        | none => (freePage used x 0).map (fun p => (p, 1))
      match run with
      | none => []
      | some r => r :: backPool ctr k (left - r.2) ((List.range' r.1 r.2).foldl (fun m p => NMap.put m p ()) used)

/-- Virtual pages of the tensors with peat addresses. -/
def Image.tensorPages (i : Image) : List Nat :=
  i.tensors.flatMap (fun t => if t.addr = 0 then [] else List.range' (t.addr / 65536) t.pages)

/-- Back a fired job's whole reservation (R279, R284). -/
def State.backJob (s : State) (j : Job) : Job :=
  let (backing, used) := backTensors s.freeCtr j.image.tensorPages s.usedPages
  let n := j.image.poolPages
  { j with backing, pool := (backPool s.freeCtr n n used).insertionSort (fun a b => a.1 ≤ b.1) }

/-- Tensor pages backed outside their class: JOB_PEAT_OFF_CLASS_PAGES (R279, R297). -/
def Job.offClass (j : Job) : Nat := (j.backing.filter (fun e => e.1 % 11 != e.2 % 11)).length

/-- What a firing writes is charged to the firmware partition of the job that runs meanwhile: the staged image, the slice of the
stream table, and the manifest's copies (R71, R103, R280, R339). -/
def State.firingTraffic (s : State) (k : Nat) (c : Cmd) (j : Job) (es : List ManifestE) : State :=
  let s := s.firmwareWrite (stagedData k) (s.delivered c).length
  let s := s.firmwareWrite (entryData j.image.sliceFirst) (128 * j.image.sliceCount)
  es.foldl (fun (s : State) e => s.firmwareFill j ((j.image.tensor e.tensor).addr + e.off) e.len) s

/-- The run of a job just fired: its busy cores at their start with every register 0 (R199), every channel with its credits
(R21), its slice and tables zero (R103, R223), its manifest loaded, and the stream commands that waited for it. -/
def Image.firstRun (i : Image) (mem : NMap Byte) (old : JobRun) : JobRun :=
  { old with
    mem, cores := i.cores.map (fun e => (e.1, {}))
    chans := i.chans.zipIdx.map (fun (e : ChanE × Nat) => (e.2, { credits := e.1.depth })) }

/-- The key of a job, drawn at firing (R452, R453). -/
def State.jobKey (s : State) (id : Nat) : Nat :=
  Config.kmac (leBytes 32 s.fuses.dataRoot) (leBytes 32 (Config.random s.freeCtr).toNat ++ leBytes 2 id) 1024 (ascii "P6-JOB")

/-- The save need (R348). -/
def Image.saveNeed (i : Image) : Nat := 32 * 2 ^ 20 + (i.cores.map (fun e => e.2.saveBytes)).sum

/-- A command that waited while the job was LOADING acts on it, now that it is ARMED (R335, R368); an unsealed one is refused where the
job is confidential (R427). -/
def State.actWaiting (s : State) (k : Nat) (cs : List Cmd) : State :=
  match cs with
  | [] => s
  | c :: rest =>
    if !(s.job k).info.state.loaded || (s.job k).info.state == .ending then s
    else if (s.job k).info.shuns c then (s.refuseCmd c 0x0203).actWaiting k rest
    else if c.desc.opcode = 3 then (s.pauseJob k c).actWaiting k rest
    else if c.desc.opcode = 5 then (s.endOrWait k c).actWaiting k rest
    else if c.desc.opcode = 6 then (s.commitJob k c).actWaiting k rest
    else if c.desc.opcode = 8 then (s.setToken k c).actWaiting k rest
    else (s.startJob k c ((commitInterval c.desc.w32).getD 250)).actWaiting k rest

/-- A firing that passed: the reservation is granted, the key slot loaded, the image staged, the manifest loaded, and the job
is ARMED (R67, R338, R453). -/
def State.fired (s : State) (k : Nat) (c : Cmd) : State :=
  let i := imageOf (s.delivered c)
  let j := s.job k
  let id := if j.info.id < 2 ^ 16 then j.info.id else c.desc.job
  let mem := s.loadManifest c i (s.manifest c)
  let key := s.jobKey id
  let info := { j.info with state := .armed, id, confidential := i.confidential, saveNeed := i.saveNeed, waiting := [], loadCmd := none }
  let chosen := (List.range 32).foldl (fun (x : Job) cl => x.rechoose s.health cl) { info, image := i, run := i.firstRun mem j.run }
  let backed := s.backJob chosen
  let backed := { backed with run := { backed.run with ctrDev := bump [] 0x318 backed.offClass } }
  let s := (s.setJob k backed).firingTraffic k c backed (s.manifest c)
  let s := { s with freeCtr := s.freeCtr + 1, sec := { s.sec with jobKeys := NMap.put s.sec.jobKeys k key } }
  ((s.complete k c 0 0 0 0).actWaiting k j.info.waiting).checkYield

/-! ## JOB_LOAD (R338, R422) -/

/-- The lowest identifier above the last one assigned that no loaded job has, wrapping to 1 (R338). -/
def State.nextId (s : State) : Nat :=
  let order := List.range' (s.sched.lastId + 1) (65535 - s.sched.lastId) ++ List.range' 1 s.sched.lastId
  (order.find? (fun n => (s.slotOf n).isNone)).getD 0

/-- The identifier of a job that loads in slot `k`: the one asked for, or one assigned. One already loaded is kept out of use until the
firing refuses it. -/
def State.loadId (s : State) (k req : Nat) : Nat × State :=
  if req = 0 then (s.nextId, { s with sched := { s.sched with lastId := s.nextId } })
  else if (s.slotOf req).isSome then (2 ^ 16 + k, s) else (req, s)

/-- The scheduler takes a JOB_LOAD: the job is LOADING in the lowest free slot. With none free the firing can only be
refused, and is at once. -/
def State.loadJob (s : State) (c : Cmd) : State :=
  if !s.schedServes then s
  else if !s.versionOk c.port then (s.takeCmd c).completeFree c 0x0102 0 0
  else
    let s := s.takeCmd c
    let k := s.jobs.findIdx (fun j => !j.info.state.loaded)
    let (id, s) := s.loadId k c.desc.job
    if k < s.jobs.length then
      s.setJob k { info := { state := .loading, id, mirror := c.desc.flags.testBit 0, owner := c.port, homeSet := c.set
                             loadCmd := some c, outstanding := [c] } }
    else
      match s.fireVerdict s.jobs.length c.desc.job c with
      | some r => s.refuseLoad { id := if id < 2 ^ 16 then id else c.desc.job } c r
      | none => s

def execJobLoad (c : Cmd) (s : State) : Host.Outcome State Fault Refusal := checked s (c.desc.opcode == 1) (s.loadJob c)

/-- The order in which the scheduler took a loading job's JOB_LOAD. -/
def Job.loadSeq (j : Job) : Option Nat := if j.info.state == .loading then j.info.loadCmd.map (·.seq) else none

/-- A firing ends: firings run one after another in the order in which their JOB_LOADs were taken. -/
def State.endFiring (s : State) (k : Nat) : State :=
  let j := s.job k
  match j.loadSeq, j.info.loadCmd with
  | some n, some c =>
    if !s.schedServes || s.jobs.any (fun x => match x.loadSeq with | some m => decide (m < n) | none => false) then s
    else
      match s.fireVerdict k c.desc.job c with
      | some r => s.loadRefused k c r
      | none => s.fired k c
  | _, _ => s

def execFiringDone (slot : Nat) (s : State) : Host.Outcome State Fault Refusal := checked s (decide (slot < 64)) (s.endFiring slot)

end Sys2Proof.Machine
end

