-- ==== Sys2Proof/Machine/Issue.lean ====
section
/-! DEFINITION. ISSUE: a core places a STEP, FORK or PRUNE into its job's own queue (R126, R127, R216). -/

namespace Sys2Proof.Machine

/-- Fields of an ISSUE that name registers. -/
def fmtIOk (f : FmtI) : Bool :=
  decide (f.res < 32) && decide (f.pred < 32) && decide (f.caddr < 32) && decide (f.desc < 32) && decide (f.cmd < 256)

/-- Device-issued commands of the job not yet completed: they draw on a pool of 4,096 (R126). -/
def JobRun.issued (r : JobRun) : Nat :=
  (r.queue.filter (fun q => q.cmd.dev)).length + (r.publish.filter (fun p => p.cmd.dev)).length

/-- Port and ring set of the originating descriptor: the oldest that contributed to the core's batch, else the job's home
set (R127). -/
def Job.origin (j : Job) (c : Core) : Port × Nat :=
  match (j.run.batchOf c).bind (·.oldest) with
  | some o => (o.port, o.set)
  | none => (j.info.owner, j.info.homeSet)

/-- The command that the 64 B body spells, with the fields that the P6 replaces (R216). -/
def Job.issueCmd (j : Job) (c : Core) (f : FmtI) (seq : Nat) : Cmd :=
  let m := c.scratch
  let a := (c.reg f.desc).toNat
  let w := fun (off n : Nat) => memWord m (a + off) n
  let (p, set) := j.origin c
  let flags := w 1 1
  { desc := { opcode := f.cmd, flags := flags - 16 * nfld flags 4 1 + 16 * b2n f.notify, tag := w 2 2, job := j.info.id
              ring := set, prio := w 7 1, w8 := BitVec.ofNat 64 (w 8 8), w16 := BitVec.ofNat 64 (w 16 8)
              w24 := BitVec.ofNat 64 (w 24 8), w32 := BitVec.ofNat 64 (w 32 8), w40 := BitVec.ofNat 64 (w 40 8)
              w48 := BitVec.ofNat 64 (w 48 8), cookie := BitVec.ofNat 64 (w 56 8) }
    port := p, set, sealed := false, dev := true, caddr := c.reg f.caddr, seq }

/-- The predicate lets the command be issued. -/
def issueGoes (f : FmtI) (c : Core) : Bool := f.pred == 0 || ((c.reg f.pred == 0) == f.pneg)

/-- ISSUE (R216): a failed predicate, a fault of one lane, a full pool, or a command in the queue. -/
def effectIssue (n seq : Nat) (f : FmtI) (j : Job) (c : Core) : Effect :=
  let a := (c.reg f.desc).toNat
  let r := (c.reg f.caddr).toNat
  if !issueGoes f c then
    .done { job := { j with run := j.run.countCore n 0x120 1 }, core := c.setReg f.res 2 }
  else if a % 64 ≠ 0 || !inScratch a 64 then .stop (.lane 0 a)
  else if r % 32 ≠ 0 || !j.mapped r 32 then .stop (.lane 0 r)
  else if 4096 ≤ j.run.issued then
    .done { job := { j with run := j.run.count 0x58 1 }, core := c.setReg f.res 0 }
  else
    let j' := j.enqueue (j.issueCmd c f seq)
    .done { job := { j' with run := j'.run.countCore n 0x118 1 }, core := c.setReg f.res 1 }

def execIssue (n : Nat) (f : FmtI) (s : State) : Host.Outcome State Fault Refusal :=
  checked s (coreOk n && fmtIOk f) (s.retireThen n (wordI 0xA0 f) (effectIssue n s.sched.cmdSeq f)
    (fun _ _ _ s => { s with sched := { s.sched with cmdSeq := s.sched.cmdSeq + 1 } }))

end Sys2Proof.Machine
end

