-- ==== Sys2Proof/Machine/Boot.lean ====
section
/-! DEFINITION. Without power and start-up: the configuration record, what a module without power keeps, the resumption of a
life-cycle transition, and the sequence from a feed to READY (R476, R498 to R505, R515, R516). -/

namespace Sys2Proof.Machine

/-! ## The configuration record (R503 to R505) -/

/-- Only zero bytes. -/
def allZero (bs : List Byte) : Bool := bs.all (· == 0)

/-- A management port entry keeps its ranges and its reserved bytes (R503). -/
def mgmtOk (bs : List Byte) (off : Nat) : Bool :=
  let mtu := headWord bs (off + 42) 2
  decide (1280 ≤ mtu) && decide (mtu ≤ 9000) && decide (headWord bs (off + 44) 1 ≤ 1) && allZero ((bs.drop (off + 45)).take 19)

/-- A record passes its own checks: magic, version, size, measurement, every range and reserved field (R503, R505). -/
def cfgOk (bs : List Byte) : Bool :=
  let w := headWord bs
  let head := bs.length == 1152 && bs.take 4 == ascii "WCFG" && w 4 2 == 1 && w 6 2 == 0 && w 8 4 == 1152 && w 12 4 == 0
  let digest := digestAt bs 16 == Config.sha3 (bs.take 16 ++ List.replicate 48 0 ++ bs.drop 64)
  let counts := decide (w 64 1 < 8) && decide (w 65 1 ≤ 8) && decide (w 66 1 ≤ 4) && decide (w 67 1 ≤ 16)
  let power := decide (800 ≤ w 68 2) && decide (w 68 2 ≤ 1350) && decide (650 ≤ w 70 2) && decide (w 70 2 ≤ 850) && w 70 2 % 5 == 0
  let clear := w 74 6 == 0 && w 86 2 == 0 && w 1144 8 == 0 && w 234 14 == 0 && w 266 14 == 0
  head && digest && counts && power && w 72 2 != 0 && clear && mgmtOk bs 88 && mgmtOk bs 152

/-- What a record says; entries beyond each count are ignored (R503). -/
def cfgOf (bs : List Byte) : CfgRec :=
  let w := headWord bs
  { flags := w 64 1
    anchors := (List.range (w 65 1)).map (fun i => digestAt bs (568 + 48 * i))
    opKeys := (List.range (w 66 1)).map (fun i => digestAt bs (952 + 48 * i))
    controllers := (List.range (w 67 1)).map (fun i => w (536 + 2 * i) 2)
    cap := w 68 2, setpoint := w 70 2, udp := w 72 2, linkEn := w 80 8
    measure := digestAt bs 16, raw := bs }

/-- The customer's configuration scrubbed apart from the network addresses: the fixed configuration with the entries of the
management ports and servers (R476 step 4, R504). -/
def CfgRec.scrubbed (c : CfgRec) : CfgRec :=
  if c.raw = [] then c
  else
    let raw := List.replicate 88 0 ++ ((c.raw.drop 88).take 192) ++ List.replicate 872 0
    { fixedCfg with raw, measure := Config.sha3 raw }

/-! ## A module without power or in reset (R515, R516) -/

/-- A host port with no module behind it: the host's own memory stays. -/
def HostPort.dark (h : HostPort) : HostPort := { linkUp := false, speed := 0, width := 0, hosted := false, hostMem := h.hostMem }

/-- A link with no module behind it: a retired one stays retired (R481). -/
def Link.dark (l : Link) : Link := if l.state == .retired then { state := .retired, failed := l.failed } else {}

/-- Retirements stay (R481), and so do the time of service and the draws of the health history (R495). -/
def Health.dark (h : Health) (ran : Nat) : Health :=
  { clusters := h.clusters.map (fun c =>
      { state := if c.state == 4 then 4 else 0, retired := c.retired, ports := c.ports, phasesOut := c.phasesOut })
    map := List.replicate 512 {}
    banksOut := h.banksOut
    hbm := h.hbm.map (fun x => { failed := x.failed })
    engines := h.engines, hubPhasesOut := h.hubPhasesOut, began := h.began + ran, drawn := h.drawn }

/-- The rails are removed; feeds and THROTTLE_N are the rack's. -/
def Power.dark (p : Power) : Power :=
  { feedA := p.feedA, feedB := p.feedB, lostA := p.lostA, lostB := p.lostB, throttlePin := p.throttlePin
    rails := List.replicate 34 { v := 0 } }

/-- Every job ends without save or completion, the contents of every memory are gone, and the boot flash, the fuses and the
health history stay (R516). -/
def State.dark (s : State) (ph : Phase) : State :=
  { pending := s.pending, freeCtr := s.freeCtr
    islands := List.replicate 100 0
    jobs := List.replicate 64 {}
    portA := s.portA.dark, portB := s.portB.dark
    links := s.links.map Link.dark
    codecs := s.codecs.map Engine.idle
    fw := { cores := List.replicate 40 { state := 0, role := 0 } }
    fuses := s.fuses, flash := s.flash
    health := s.health.dark (s.islands.getD 98 0)
    power := s.power.dark
    board := { phase := ph } }

/-- Heartwood runs: the module is READY, or start-up has stopped at step 8 (R500). -/
def State.powered (s : State) : Bool := s.board.phase == .ready || s.board.phase == .stopped

/-! ## The destruction of keys (R474, R476) -/

/-- LC_INTENT is blown and the data seed destroyed: step 3 of R476. -/
def State.killed (s : State) (intent : Nat) : State :=
  { s with fuses := { s.fuses with intent := s.fuses.intent ||| intent, killData := true
                                   uds := s.fuses.uds.map (fun x => (x.1, BitVec.allOnes 256)) } }

/-- The data seed is destroyed and the customer's configuration scrubbed: steps 3 and 4 of R476, which are harmless to
repeat. Memory is gone with the restart that follows. -/
def State.destroyed (s : State) (intent : Nat) : State :=
  { s.killed intent with
    flash := { s.flash with cfgPrimary := s.flash.cfgPrimary.scrubbed, cfgMirror := s.flash.cfgMirror.scrubbed } }

/-- The SCRAPPED bit is blown: heartwood stops, and only the lid marking remains (R473, R474). -/
def State.scrap (s : State) : State := ({ s with fuses := { s.fuses with lc := s.fuses.lc ||| 8 } } : State).dark .scrapped

/-- The RETURNED bit is blown, and the module restarts (R476 step 5): START_UP follows. -/
def State.return' (s : State) : State := ({ s with fuses := { s.fuses with lc := s.fuses.lc ||| 4 } } : State).dark .off

/-! ## Parts at start-up (R481, R500) -/

/-- Cores of a cluster that are not retired. -/
def Health.good (h : Health) (p : Nat) : List Nat := (List.range 17).filter (fun i => !(h.cluster p).retired.testBit i)

/-- Clusters that can serve: not retired, reachable and with at least 8 cores (R485). -/
def Health.fit (h : Health) : List Nat :=
  (List.range h.clusters.length).filter (fun p =>
    (h.cluster p).state != 4 && decide (8 ≤ (h.good p).length) && (h.cluster p).ports != 0)

/-- The clusters that serve after start-up: those with 16 cores before those with fewer, 32 at most. -/
def Health.chosen (h : Health) : List Nat :=
  let full := h.fit.filter (fun p => decide (16 ≤ (h.good p).length))
  let part := h.fit.filter (fun p => decide ((h.good p).length < 16))
  h.fit.filter (fun p => ((full ++ part).take 32).contains p)

/-- The woodpile is chosen and the logical map built (R14, R19, R488, R498 step 8): logical cluster `n` on the `n`th cluster
that serves, those that have none left on hosts, and logical core `k` on the `k`th good core of its cluster in turn. -/
def Health.built (h : Health) : Health :=
  let use := h.chosen
  let n := use.length
  let home := fun (cl : Nat) => use.getD (if cl < n then cl else cl - n) 34
  let slot := fun (m : Nat) =>
    let g := h.good (home (m / 16))
    ({ cluster := home (m / 16), core := g.getD (m % 16 % g.length) 0 } : CorePlace)
  let put := fun (e : PhysCluster × Nat) =>
    let k := use.findIdx (· == e.2)
    if k < n then
      { e.1 with state := if k + n < 32 then 2 else 1, logical := k, guest := if k + n < 32 then some (k + n) else none }
    else { e.1 with state := if h.fit.contains e.2 && decide (16 ≤ (h.good e.2).length) then 0 else 4, guest := none }
  { h with map := (List.range 512).map slot, clusters := h.clusters.zipIdx.map put }

/-- Failed stacks and pseudo-channels are retired, and their units placed in the reserve at once; what it cannot hold, usable capacity
loses (R491, R500). -/
def Health.placeHbm (h : Health) (bad : List Nat) : Health :=
  let hbm := h.hbm.zipIdx.map (fun (x : Stack × Nat) =>
    let failed := if bad.contains x.2 then 2 ^ 32 - 1 else x.1.failed
    ({ state := if failed = 0 then 0 else if failed = 2 ^ 32 - 1 then 4 else 3, failed } : Stack))
  let units := (hbm.map (fun x => halfUnits * (halvesOf x.failed).length)).sum
  { h with hbm, repairUsed := min units reserveUnits, lost := 4096 * (units - reserveUnits) }

/-- Parts that fail the start-up test are retired (R500). -/
def State.testParts (s : State) (i : StartIn) : State :=
  let s := i.badStacks.foldl (fun (s : State) k => s.noteRetired { kind := 6, unit := k }) s
  let s := i.badCores.foldl (fun (s : State) b =>
    let c := s.health.cluster b.1
    if c.retired.testBit b.2 || 17 ≤ b.2 then s
    else ({ s with health := s.health.setCluster b.1 { c with retired := c.retired + 2 ^ b.2 } } : State).noteRetired { kind := 1, unit := coreNum b.1 b.2 }) s
  i.badClusters.foldl (fun (s : State) p =>
    let c := s.health.cluster p
    if c.state == 4 then s
    else ({ s with health := s.health.setCluster p { c with state := 4 } } : State).noteRetired { kind := 3, unit := p }) s

/-- The health events of the parts that failed, after READY (R500): of a kind that spares cover, SPARE_USED. -/
def State.testEvents (s : State) (i : StartIn) : State :=
  let code := fun (spare : Bool) => if spare then 0x0F01 else 0x0F02
  let act := fun (spare : Bool) => if spare then 1 else 2
  let s := i.badCores.foldl (fun (s : State) b =>
    let spare := decide (16 ≤ (s.health.good b.1).length)
    s.unitEvent (code spare) 1 (act spare) (coreNum b.1 b.2) (s.health.logicalOf b.1) 0) s
  let s := i.badClusters.foldl (fun (s : State) p =>
    let spare := decide (32 ≤ s.health.chosen.length)
    s.unitEvent (code spare) 3 (act spare) p 0xFFFF 0) s
  i.badStacks.foldl (fun (s : State) k =>
    let spare := s.health.lost == 0
    s.unitEvent (code spare) 6 (act spare) k 0xFFFF 0) s

/-! ## From feed to READY (R498) -/

/-- A feed's voltage lies within 48–58 V (R498, R512). -/
def feedOk (mV : Nat) : Bool := decide (48000 ≤ mV) && decide (mV ≤ 58000)

/-- A feed's voltage takes it as lost (R512). -/
def feedGone (mV : Nat) : Bool := decide (mV < 44000) || decide (60000 < mV)

/-- A POWER event (R493, R494): 1 lost, 2 returned, 3 out of range. -/
def State.powerEvent (s : State) (feed action mV : Nat) : State :=
  s.healthEvent none { code := 0x0F0B, job := 0, a := BitVec.ofNat 64 (feed + action * 2 ^ 8), b := BitVec.ofNat 64 mV }

/-- Step 4: configuration read, pending retirements fused, the salt and the firmware key drawn, and the limits loaded (R275,
R452, R481, R504, R508). -/
def State.configure (s : State) (i : StartIn) : State :=
  let cfg := if i.cfgPrimary && s.flash.cfgPrimary.raw != [] then s.flash.cfgPrimary
    else if i.cfgMirror && s.flash.cfgMirror.raw != [] then s.flash.cfgMirror else fixedCfg
  let key := firmwareKey s.fuses (Config.random (s.freeCtr + 1))
  { s with
    cfg
    fuses := { s.fuses with repairs := s.fuses.repairs ++ s.flash.retired }
    flash := { s.flash with retired := [] }
    tiers := { salt := (Config.random s.freeCtr).setWidth 64 }
    sec := { fwKey := key }
    power := { s.power with cap := cfg.cap, setpoint := cfg.setpoint
                            rails := List.replicate 34 { v := if s.power.throttlePin then 650 else cfg.setpoint } }
    freeCtr := s.freeCtr + 2 }

/-- A host port released at step 5, with the link that the host trains, if any (R406). -/
def HostPort.released (h : HostPort) (link : Nat × Nat) : HostPort :=
  if link.1 = 0 then h else { h with linkUp := true, hosted := true, speed := link.1, width := link.2 }

/-- Step 7: the sapwood fetched from a server that the configuration names, or a fallback copy, or none (R440, R441). -/
def State.bootSapwood (s : State) (i : StartIn) : Option FwImage :=
  match (if (s.cfg.nextSource 0).isSome then i.fetched else none).map (s.fwAccept false) with
  | some (f, 1) => some f
  | _ => if s.fallbackOk i.flashCopies.1 i.flashCopies.2 then some fallbackImage else none

/-- The firmware of step 8: the twins on hub 0 are primary; without sapwood only the security cores run (R435, R441). -/
def Firmware.booted (f : Firmware) (sap : Option FwImage) : Firmware :=
  { f with sapwood := sap
           cores := State.resetFwCores.zipIdx.map (fun (c : FwCore × Nat) =>
             if sap.isNone && decide (2 ≤ c.2) then { c.1 with state := 0 } else c.1) }

/-- Which regions of a copy of the boot flash fail their measurement: heartwood's, and the configuration's (R501, R504). -/
def State.badFlash (s : State) (i : StartIn) (mirror : Bool) : Bool × Bool :=
  let f := s.flash
  if mirror then (!i.heartMirror, !(i.cfgMirror && f.cfgMirror.raw != [])) else (!i.heartPrimary, !(i.cfgPrimary && f.cfgPrimary.raw != []))

/-- A bad region of one copy is rewritten from the other's good one (R490). -/
def State.mendFlash (s : State) (i : StartIn) : State :=
  let (hp, cp) := s.badFlash i false
  let (hm, cm) := s.badFlash i true
  let f := s.flash
  { s with flash := { f with
    heartPrimary := if hp && !hm then f.heartMirror else f.heartPrimary
    heartMirror := if hm && !hp then f.heartPrimary else f.heartMirror
    cfgPrimary := if cp && !cm then f.cfgMirror else f.cfgPrimary
    cfgMirror := if cm && !cp then f.cfgPrimary else f.cfgMirror } }

/-- FLASH events of a copy after READY: it failed, and it is rewritten where its bad regions have good counterparts (R490, R493,
R504). -/
def State.tellFlash (s : State) (copy : Nat) (bad other : Bool × Bool) : State :=
  if !(bad.1 || bad.2) then s
  else
    let s := s.flashEvent copy 1
    if (bad.1 && other.1) || (bad.2 && other.2) then s else s.flashEvent copy 2

/-- Steps 5 to 8: release, HBM, sapwood, tests, the logical map and READY; a module that cannot fill 16 clusters stops
(R498, R500). -/
def State.finish (s : State) (i : StartIn) : State :=
  let s := { s with portA := s.portA.released i.pcieA, portB := s.portB.released i.pcieB
                    islands := (List.range 100).map (fun n => Config.elapsed (s.freeCtr + n)), freeCtr := s.freeCtr + 100 }
  let s := { s with fw := s.fw.booted (s.bootSapwood i), health := s.health.placeHbm i.badStacks }
  let (badA, badB) := (s.badFlash i false, s.badFlash i true)
  let s := (s.mendFlash i).testParts i
  if s.health.chosen.length < 16 then { s with board := { s.board with phase := .stopped } }
  else
    let s := { s with health := s.health.built, board := { s.board with phase := .ready } }
    let s := (s.statusChange .a).statusChange .b
    let s := (s.tellFlash 0 badA badB).tellFlash 1 badB badA
    let s := if s.power.lostA then s.powerEvent 0 1 i.feedAmV else s
    let s := if s.power.lostB then s.powerEvent 1 1 i.feedBmV else s
    s.testEvents i

/-- From the end of step 3: the boot ROM loads heartwood from the primary flash or the mirror, a copy that its other checks pass and whose
security version is no less than the fused minimum (R439, R449), or halts (R501); heartwood
resumes an interrupted transition before it releases anything (R476). -/
def State.boot (s : State) (i : StartIn) : State :=
  let good := fun (ok : Bool) (x : FwImage) => ok && decide (s.minSvn true ≤ x.svn)
  let first := good i.heartPrimary s.flash.heartPrimary
  if !(first || good i.heartMirror s.flash.heartMirror) then { s with board := { s.board with phase := .halted } }
  else
    let s := { s with fw := { s.fw with heartwood := if first then s.flash.heartPrimary else s.flash.heartMirror } }
    if s.fuses.intent.testBit 1 && !s.fuses.lc.testBit 3 then (s.destroyed 2).scrap
    else if s.fuses.intent.testBit 0 && !s.fuses.lc.testBit 2 then (s.destroyed 1).return'
    else (s.configure i).finish i

/-- Step 1 to step 3: a feed in range, rails, and the fuse load (R498); a scrapped module stops there (R473). -/
def State.startUp (s : State) (i : StartIn) : State :=
  let s := s.dark .off
  let s := { s with power := { s.power with feedA := i.feedAmV, feedB := i.feedBmV, lostA := feedGone i.feedAmV, lostB := feedGone i.feedBmV } }
  if !(feedOk i.feedAmV || feedOk i.feedBmV) then s
  else if s.fuses.state = 4 then { s with board := { s.board with phase := .scrapped } }
  else s.boot i

end Sys2Proof.Machine
end

