-- ==== Sys2Proof/Machine/Security.lean ====
section
/-! DEFINITION. Attestation, sessions of the host ports and the management ports, the security version fuses and the
life-cycle (R459 to R478). -/

namespace Sys2Proof.Machine

/-! ## Messages (R462, R465) -/

/-- Heartwood serves: a primary security core runs (R434, R444). -/
def State.secServes (s : State) : Bool := s.powered && s.roleServes 0

/-- A message as a DOE mailbox carries it: Waonhorn's vendor ID, the data object type, and the object's length in words of 4 B, the header
with it (R462; log entry 145). -/
def doeObject (msg : List Byte) : List Byte :=
  let words := cdiv msg.length 4
  leBytes 2 0x1F6A ++ leBytes 2 1 ++ leBytes 4 ((words + 2) % 2 ^ 18) ++ padTo (4 * words) msg

/-- Answer a session message: into the port's DOE mailbox, or over the management port behind the request number (R462,
R465). -/
def State.answer (s : State) (src : SessSrc) (code : Nat) (body : List Byte) : State :=
  let msg := leBytes 1 code ++ leBytes 3 0 ++ body
  match src with
  | .doe p => s.setPort p { s.port p with doe := doeObject msg }
  | .mgmt p req => { s with sec := { s.sec with replies := s.sec.replies ++ [(p, leBytes 4 req ++ msg)] } }

/-- Answer with ERROR: 1 MALFORMED, 2 ORDER, 3 BUSY, 4 LIFE_CYCLE (R462). -/
def State.refuseMsg (s : State) (src : SessSrc) (reason : Nat) : State := s.answer src 0xFF (leBytes 4 reason)

/-- A message of a management port (R465). -/
def mgmtSrc : SessSrc → Bool
  | .doe _ => false
  | .mgmt .. => true

/-- Act on a session request: BUSY while heartwood restarts, LIFE_CYCLE in RETURNED and SCRAPPED (R444, R462). A module that
is not powered answers nothing (R515). A management port's request waits while the power core is down (R444). -/
def State.onRequest (s : State) (src : SessSrc) (h : Held) (f : State → State) : State :=
  if !s.powered then s
  else if mgmtSrc src && !s.roleServes 2 then s.hold h
  else if !s.secServes then s.refuseMsg src 3
  else if 3 ≤ s.fuses.state then s.refuseMsg src 4
  else f s

/-- The session that a source holds: one for each port's DOE mailbox, one for each management port (R463, R465). -/
def State.session (s : State) (src : SessSrc) : Session :=
  match src with
  | .doe p => (s.port p).session
  | .mgmt .a _ => s.sec.mgmtA
  | .mgmt .b _ => s.sec.mgmtB

/-- Replace the session of a source. -/
def State.setSession (s : State) (src : SessSrc) (x : Session) : State :=
  match src with
  | .doe p => s.setPort p { s.port p with session := x }
  | .mgmt .a _ => { s with sec := { s.sec with mgmtA := x } }
  | .mgmt .b _ => { s with sec := { s.sec with mgmtB := x } }

/-- End a source's session, with the effects of R432 for a host port's. -/
def State.dropSession (s : State) (src : SessSrc) : State :=
  match src with
  | .doe p => s.endSession p
  | .mgmt .a _ => { s with sec := { s.sec with mgmtA := { epoch := s.sec.mgmtA.epoch } } }
  | .mgmt .b _ => { s with sec := { s.sec with mgmtB := { epoch := s.sec.mgmtB.epoch } } }

/-! ## Attestation (R460, R461) -/

/-- The stepping in one byte (R460). -/
def steppingByte : Nat := Config.stepping.1 % 16 * 16 + Config.stepping.2 % 16

/-- The debug doors are open: BLANK, MAKER and RETURNED (R473). -/
def Fuses.debugOpen (f : Fuses) : Bool := f.state == 0 || f.state == 1 || f.state == 3

/-- A job state as JOB_INFO codes it (R330). -/
def JobState.code : JobState → Nat
  | .empty => 0
  | .loading => 1
  | .armed => 2
  | .running => 3
  | .pausing => 4
  | .paused => 5
  | .resuming => 6
  | .ending => 7
  | .ended => 8

/-- A unit of the repair fuses in bytes, with the numbers of R494 (log entry 5). -/
def UnitId.bytes (u : UnitId) : List Byte := leBytes 1 u.kind ++ leBytes 2 u.unit ++ leBytes 1 u.sub

/-- The fuse record without the seeds (R451, R460), in an order of the model's own (log entry 5). -/
def Fuses.record (f : Fuses) : List Byte :=
  leBytes 8 Config.identity.toNat ++ Config.whFwKeys.flatMap (fun k => leBytes 48 k.toNat) ++ leBytes 48 Config.whLcKey.toNat ++
    leBytes 8 (2 ^ f.svnHeart - 1) ++ leBytes 8 (2 ^ f.svnSap - 1) ++ leBytes 1 f.lc ++ leBytes 1 f.intent ++
    leBytes 1 (b2n f.killData) ++ f.repairs.flatMap UnitId.bytes

/-- The first 384 B of a report: what its signature covers (R460). -/
def State.reportHead (s : State) (nonce : BitVec 256) (job : Nat) (t : BitVec 384) : List Byte :=
  let k := if job = 0 then none else s.slotOf job
  let i := (k.map (fun (n : Nat) => (s.job n).info)).getD {}
  let sap := s.fw.sapwood.getD {}
  let flags := b2n k.isSome + 2 * b2n i.confidential + 4 * b2n sap.fallback + 8 * b2n s.fuses.debugOpen + 16 * b2n s.fuses.killData
  let image := (k.map (fun (n : Nat) => (s.job n).image.measurement)).getD 0
  [0x41, 0x54, 0x52, 0x50] ++ leBytes 2 1 ++ leBytes 2 flags ++ leBytes 8 Config.identity.toNat ++ leBytes 1 s.fuses.state ++
    leBytes 1 steppingByte ++ leBytes 2 (if k.isSome then job else 0) ++ leBytes 1 (if k.isSome then i.state.code else 0) ++
    leBytes 3 0 ++ leBytes 8 s.sec.reports ++ leBytes 32 nonce.toNat ++ leBytes 48 s.fw.heartwood.measure.toNat ++
    leBytes 48 sap.measure.toNat ++ leBytes 48 image.toNat ++ leBytes 48 (Config.sha3 s.fuses.record).toNat ++
    leBytes 48 s.cfg.measure.toNat ++ leBytes 4 s.fw.heartwood.svn ++ leBytes 4 sap.svn ++ leBytes 1 s.fuses.svnHeart ++
    leBytes 1 s.fuses.svnSap ++ leBytes 6 0 ++ leBytes 48 t.toNat ++ leBytes 16 0

/-- The report, 5,648 B (R460). -/
def State.reportBytes (s : State) (nonce : BitVec 256) (job : Nat) (t : BitVec 384) : List Byte :=
  let head := s.reportHead nonce job t
  head ++ padTo 1952 (Config.dsaPublic idSeed) ++ padTo 3309 (Config.dsaSign idSeed head (ascii "P6-ATTEST-1")) ++ leBytes 3 0

/-- One more report is signed (R460). -/
def State.countReport (s : State) : State := { s with sec := { s.sec with reports := s.sec.reports + 1 } }

/-- The certificate's header of 64 B: magic, version, identity, stepping, year and week of manufacture, in this order (R461; log entry
138). -/
def certHead : List Byte :=
  ascii "WHID" ++ leBytes 2 1 ++ leBytes 8 Config.identity.toNat ++ leBytes 1 steppingByte ++ leBytes 2 Config.made.1 ++
    leBytes 1 Config.made.2 ++ leBytes 46 0

/-- The identity certificate, 5,376 B (R461): its header, the identity public key, Waonhorn's signature over both, and zeros. -/
def certificate : List Byte :=
  certHead ++ padTo 1952 (Config.dsaPublic idSeed) ++ padTo 3309 Config.certSig ++ List.replicate 51 0

/-- GET_CERT (R461, R462). -/
def execGetCert (src : SessSrc) (s : State) : Host.Outcome State Fault Refusal :=
  .next (s.onRequest src (.cert src) (fun (s : State) => s.answer src 0x81 certificate))

/-- GET_REPORT (R460, R462): T is zero. -/
def execGetReport (src : SessSrc) (nonce : BitVec 256) (job : Nat) (s : State) : Host.Outcome State Fault Refusal :=
  .next (s.onRequest src (.report src nonce job) (fun (s : State) =>
    let s := s.countReport
    s.answer src 0x82 (s.reportBytes nonce (job % 2 ^ 16) 0)))

/-! ## Sessions (R463, R465) -/

/-- Bits of a derived key (R463). -/
def keyBits (k lo len : Nat) : Nat := k / 2 ^ lo % 2 ^ len

/-- SESSION_INIT (R463): the present session ends; the P6 encapsulates under a random draw, derives the keys of the attempt,
and answers with the ciphertext and a report that carries T. -/
def State.initSession (s : State) (src : SessSrc) (ek : List Byte) (nonce : BitVec 256) (job : Nat) : State :=
  if ek.length ≠ 1184 then s.refuseMsg src 1
  else
    let s := (s.dropSession src).countReport
    let draw := Config.random s.freeCtr
    let s := { s with freeCtr := s.freeCtr + 1 }
    let ct := padTo 1088 (Config.kemCipher ek draw)
    let t := Config.sha3 (ascii "P6-SESSION-1" ++ ek ++ leBytes 32 nonce.toNat ++ leBytes 2 job ++ ct)
    let k := Config.kmac (Config.kemSecret ek draw) (leBytes 48 t.toNat) 832 (ascii "P6-SESSION-KEYS")
    let s := s.setSession src { s.session src with attempt := some (k, t) }
    s.answer src 0x83 (ct ++ s.reportBytes nonce (job % 2 ^ 16) t)

def execSessionInit (src : SessSrc) (ek : List Byte) (nonce : BitVec 256) (job : Nat) (s : State) :
    Host.Outcome State Fault Refusal :=
  .next (s.onRequest src (.sessInit src ek nonce job) (fun (s : State) => s.initSession src ek nonce job))

/-- The session that an attempt with derived bits `k` and transcript `t` establishes: each direction's key with its fixed
field above it, and the epoch raised modulo 256 (R463). -/
def Session.establish (x : Session) (k : Nat) (t : BitVec 384) : Session :=
  { up := true, epoch := (x.epoch + 1) % 256
    keyH2d := keyBits k 0 256 + 2 ^ 256 * keyBits k 512 32
    keyD2h := keyBits k 256 256 + 2 ^ 256 * keyBits k 544 32
    attempt := none, transcript := t }

/-- An operator authorises a management session: none is needed where none is listed (R465). -/
def State.operatorOk (s : State) (src : SessSrc) (t : BitVec 384) (key sig : List Byte) : Bool :=
  match src with
  | .doe _ => true
  | .mgmt .. => s.cfg.opKeys.isEmpty ||
      (s.cfg.opKeys.contains (Config.sha3 key) && Config.dsaVerify key (leBytes 48 t.toNat) sig (ascii "P6-MGMT-1"))

/-- Under a host session's new keys the record numbers of both directions start afresh (R427, R463). -/
def State.newNumbers (s : State) (src : SessSrc) : State :=
  match src with
  | .doe p =>
    let h := s.port p
    s.setPort p { h with txNo := 0, sets := h.sets.map (fun e => (e.1, { e.2 with rxNo := 0 })) }
  | .mgmt .. => s

/-- SESSION_FINISH (R463, R465): a confirmation that verifies establishes the session; one that fails ends the attempt, and its
keys are discarded. -/
def State.finishSession (s : State) (src : SessSrc) (confirm : BitVec 384) (key sig : List Byte) : State :=
  let x := s.session src
  match x.attempt with
  | none => s.refuseMsg src 2
  | some (k, t) =>
    let want := Config.kmac (leBytes 32 (keyBits k 576 256)) (leBytes 48 t.toNat) 384 (ascii "FINISH")
    let s := s.setSession src { x with attempt := none }
    if confirm.toNat ≠ want % 2 ^ 384 then s.refuseMsg src 1
    else if !s.operatorOk src t key sig then s.refuseMsg src 2
    else
      let s := (s.setSession src (x.establish k t)).newNumbers src
      ({ s with sec := { s.sec with sessions := s.sec.sessions + 1 } } : State).answer src 0x84 []

def execSessionFinish (src : SessSrc) (confirm : BitVec 384) (opKey opSig : List Byte) (s : State) :
    Host.Outcome State Fault Refusal :=
  .next (s.onRequest src (.sessFinish src confirm opKey opSig) (fun (s : State) => s.finishSession src confirm opKey opSig))

/-- SESSION_END (R432, R462, R478): out of order where there is neither a session nor an attempt. -/
def execSessionEnd (src : SessSrc) (s : State) : Host.Outcome State Fault Refusal :=
  .next (s.onRequest src (.sessEnd src) (fun (s : State) =>
    let x := s.session src
    if !x.up && x.attempt.isNone then s.refuseMsg src 2 else (s.dropSession src).answer src 0x85 []))

/-! ## Security versions (R459) -/

/-- The fused minimum rises to a running security version, 64 at most; it never falls (R459). -/
def raiseMin (old svn : Nat) : Nat := max old (min 64 svn)

/-- The fuses take a security version that ran as the minimum was raised (R459, R478); heartwood, which serves the register, does it once it
runs (R477; log entry 114). -/
def State.commitSvn (s : State) (heart : Bool) (svn : Nat) : State :=
  if !s.powered then s
  else if !s.roleServes 0 then s.hold (.svn heart svn)
  else if heart then { s with fuses := { s.fuses with svnHeart := raiseMin s.fuses.svnHeart svn } }
  else { s with fuses := { s.fuses with svnSap := raiseMin s.fuses.svnSap svn } }

/-- SEC_SVN_COMMIT.HEARTWOOD (R459, R478). -/
def execSecSvnCommitHeartwood (s : State) : Host.Outcome State Fault Refusal := .next (s.commitSvn true s.fw.heartwood.svn)

/-- SEC_SVN_COMMIT.SAPWOOD (R459, R478). -/
def execSecSvnCommitSapwood (s : State) : Host.Outcome State Fault Refusal :=
  .next (
    match s.fw.sapwood with
    | some i => s.commitSvn false i.svn
    | none => s)

/-! ## The life-cycle (R473 to R476, R478) -/

/-- LC_REQUEST.NONCE (R475): a new nonce, which invalidates every token signed over the old one; drawn once heartwood serves (R477; log entry
114). -/
def State.drawNonce (s : State) : State :=
  if !s.powered then s
  else if !s.roleServes 0 then s.hold .nonce
  else { s with sec := { s.sec with nonce := Config.random s.freeCtr }, freeCtr := s.freeCtr + 1 }

def execLcRequestNonce (s : State) : Host.Outcome State Fault Refusal := .next s.drawNonce

/-- The token staged at an offset of LC_TOKEN (R475). -/
def State.tokenAt (s : State) (off : Nat) : List Byte := memRead s.sec.token off 5376

/-- A token's header and signature hold, and its key's digest is accepted (R475): kind 1 Waonhorn, 2 customer. -/
def State.tokenOk (s : State) (off kind : Nat) (keys : List (BitVec 384)) : Bool :=
  let bs := s.tokenAt off
  let w := headWord bs
  let key := (bs.drop 64).take 1952
  bs.take 4 == ascii "LCTK" && w 4 2 == 1 && w 6 1 == s.sec.target && w 7 1 == kind && w 8 8 == Config.identity.toNat &&
    w 16 32 == s.sec.nonce.toNat && allZero ((bs.drop 48).take 16) && allZero (bs.drop 5325) && keys.contains (Config.sha3 key) &&
    Config.dsaVerify key (bs.take 64) ((bs.drop 2016).take 3309) (ascii "P6-LIFECYCLE-1")

/-- A customer authorises: by a listed operator key, or, where none is listed, a request through an established management
session stands in (R474). -/
def State.customerOk (s : State) (viaMgmt : Bool) : Bool :=
  if s.cfg.opKeys.isEmpty then viaMgmt && (s.sec.mgmtA.up || s.sec.mgmtB.up) else s.tokenOk 5376 2 s.cfg.opKeys

/-- Which authorisations a transition needs: the Waonhorn token, the customer's; none where there is no such transition
(R474). -/
def lcNeeds (state target : Nat) : Option (Bool × Bool) :=
  match state, target with
  | 0, 1 => some (false, false)
  | 1, 2 => some (true, false)
  | 2, 3 => some (true, true)
  | 2, 4 => some (false, true)
  | 1, 4 => some (true, false)
  | 3, 4 => some (true, false)
  | _, _ => none

/-- The outcome of a GO: 1 DONE, 2 BAD_TOKEN, 3 BAD_AUTHORISATION, 4 WRONG_STATE, 5 JOBS_LOADED, 6 BUSY (R474, R475, R478). -/
def State.lcVerdict (s : State) (viaMgmt : Bool) : Nat :=
  match lcNeeds s.fuses.state s.sec.target with
  | none => 4
  | some (wh, cust) =>
    if s.jobs.any (fun j => j.info.state.loaded) then 5
    else if s.fw.busy then 6
    else if wh && !s.tokenOk 0 1 [Config.whLcKey] then 2
    else if cust && !s.customerOk viaMgmt then 3
    else 1

/-- The transition that a GO performs (R474, R476): entering MAKER draws and fuses the seeds (R451); entering FIELD blows its bit, closed at the next start-up; a return or a
scrap ends every session and clears every key slot, destroys the data seed, scrubs, blows its bit, and restarts or
stops. -/
def State.transition (s : State) : State :=
  if s.sec.target = 1 then
    { s with fuses := { s.fuses with lc := s.fuses.lc ||| 1, uds := some (Config.udsId, Config.udsData) } }
  else if s.sec.target = 2 then { s with fuses := { s.fuses with lc := s.fuses.lc ||| 2 } }
  else if s.sec.target = 3 then (s.destroyed 1).return'
  else if s.fuses.state = 2 then (s.destroyed 2).scrap
  else (s.killed 2).scrap

/-- LC_REQUEST.GO (R474): checked and done once heartwood serves (R477; log entry 114). -/
def State.lifeCycle (s : State) (viaMgmt : Bool) : State :=
  if !s.powered then s
  else if !s.roleServes 0 then s.hold (.lifeCycle viaMgmt)
  else
    let r := s.lcVerdict viaMgmt
    let s := { s with sec := { s.sec with lcResult := r } }
    if r = 1 then s.transition else s

def execLcRequestGo (viaMgmt : Bool) (s : State) : Host.Outcome State Fault Refusal := .next (s.lifeCycle viaMgmt)

end Sys2Proof.Machine
end

