-- ==== Sys2Proof/Machine/Links.lean ====
section
/-! DEFINITION. The Mbazen links: bring-up, lanes, flits and replay (R370 to R378, R394, R397). -/

namespace Sys2Proof.Machine

/-- A link number (R370). -/
def linkOk (n : Nat) : Bool := decide (n < 48)

/-- Lanes of a mask, lowest first. -/
def lanesOf (m : Nat) : List Nat := (List.range 9).filter (fun i => m.testBit i)

/-- Width, active lanes and spare for the usable lanes; none where the link is retired (R373). -/
def laneSet (usable : Nat) : Option (Nat × Nat × Option Nat) :=
  let ls := lanesOf usable
  if 9 ≤ ls.length then some (8, maskOf (ls.take 8), some 8)
  else if ls.length = 8 then some (8, maskOf ls, none)
  else if 4 ≤ ls.length then some (4, maskOf (ls.take 4), none)
  else none

/-- A replay starts (R376, R399): of the retry buffer from its `i`th flit on, the flits before it being acknowledged. It is in
progress until its last flit is acknowledged (log entry 110). -/
def Link.replayFrom (l : Link) (i : Nat) : Link :=
  let retry := l.retry.drop i
  let ends := retry.head?.bind (fun a => retry.getLast?.map (fun b => (a.seq, b.seq)))
  ({ l with retry, replay := ends }.count 0x38 1).count 0x48 retry.length

/-- After a lane exchange or a retraining the outstanding flits are replayed; a replay that was in progress has stopped, and
starts again from the oldest unacknowledged flit (R373, R376, R399). -/
def Link.replayAll (l : Link) : Link := if l.retry = [] then { l with replay := none } else l.replayFrom 0

/-! ## Key agreement (R381, R466) -/

/-- What the transcript takes of one end: its key part, nonce, certificate and life-cycle state. -/
def authPart (x : LinkAuth) : List Byte := x.kem ++ x.nonce ++ x.cert ++ leBytes 1 x.life

/-- A certificate is Waonhorn's for an identity: its signature over header and key verifies against the device root (R461, R466). -/
def certOk (cert : List Byte) (id : W64) : Bool :=
  cert.take 4 == ascii "WHID" && headWord cert 4 2 == 1 && headWord cert 6 8 == id.toNat &&
    Config.dsaVerify Config.deviceRoot (cert.take 2016) ((cert.drop 2016).take 3309) []

/-- Key agreement of a link with a peer: the end with the lower identity sends an encapsulation key and the other the ciphertext, each its
nonce and certificate; each signs the transcript. Gives the transmit and receive keys, each with its fixed field above it, where the peer
is accepted, and what this end sends (R466). -/
def State.agree (s : State) (peer : W64) (x : LinkAuth) : Option (Nat × Nat) × LinkAuth :=
  let seed := Config.random s.freeCtr
  let lower := decide (Config.identity < peer)
  let mine : LinkAuth := { kem := if lower then Config.kemPublic seed else Config.kemCipher x.kem seed
                           nonce := leBytes 32 (Config.random (s.freeCtr + 1)).toNat, cert := certificate, life := s.fuses.state }
  let ss := if lower then Config.kemOpen seed x.kem else Config.kemSecret x.kem seed
  let t := leBytes 48 (Config.sha3 (if lower then authPart mine ++ authPart x else authPart x ++ authPart mine)).toNat
  let k := Config.kmac ss t 576 (ascii "P6-LINK-KEYS")
  let a := keyBits k 0 256 + 2 ^ 256 * keyBits k 512 32
  let b := keyBits k 256 256 + 2 ^ 256 * keyBits k 544 32
  let good := certOk x.cert peer && Config.dsaVerify ((x.cert.drop 64).take 1952) t x.sig (ascii "P6-LINK-1") && x.life == 2
  (if good then some (if lower then (a, b) else (b, a)) else none,
   { mine with sig := Config.dsaSign idSeed t (ascii "P6-LINK-1") })

/-- A link takes fresh keys: the records of both directions are counted anew, and what the peer has sealed before still opens (R381). -/
def Link.rekeyed (l : Link) (ks : Nat × Nat) (own : LinkAuth) : Link :=
  { l with txKey := ks.1, rxKeys := (l.rxKeys.drop (l.rxKeys.length - 1)) ++ [(ks.2, 0)], own, keyEpoch := l.keyEpoch + 1, records := 0
           authAt := [] }

/-- What a retraining has cost a link in service: a drop to four lanes, or the spare (R373). -/
def State.retrained (s : State) (n : Nat) (old : Link) (w : Nat) (spare : Option Nat) (lost : Nat) : State :=
  let lane := (lanesOf lost).head?.getD 0
  if old.width = 8 && w = 4 then s.unitEvent 0x0F02 7 5 n 0xFFFF lane
  else if old.spare.isSome && spare.isNone && w = 8 then s.unitEvent 0x0F01 7 1 n 0xFFFF lane
  else s

/-- Bring-up of a released link that is DOWN, TRAINING or KEYING (R372, R373, R381, R466): it comes UP with fresh keys, is
RETIRED for want of lanes, or fails, once with a second try. After a first failure it stays TRAINING, or KEYING where the peer
was not accepted. -/
def State.bringUp (s : State) (n : Nat) (i : BringUp) : State :=
  let l := s.link n
  let again := (l.state == .training || l.state == .keying) && l.encrypted
  if !(l.state == .down || l.state == .training || l.state == .keying) || l.adminDown || !(s.cfg.linkEn.testBit n) || decide (2 ≤ l.failures) then s
  else
    let usable := maskOf ((lanesOf i.lanes.toNat).filter (fun x => !l.failed.testBit x))
    match laneSet usable with
    | none =>
      let s := s.setLink n { l with state := .retired, width := 0, active := 0, encrypted := false, failed := 511 - usable
                                    txKey := 0, rxKeys := [] }
      ((s.noteRetired { kind := 8, unit := n }).unitEvent 0x0F02 8 2 n 0xFFFF 0).linkChanged
    | some (w, act, sp) =>
      let (keys, own) := s.agree i.peerId i.auth
      let s := if i.trained then { s with freeCtr := s.freeCtr + 2 } else s
      match i.trained, keys with
      | true, some ks =>
        let fresh : Link := if again then l.replayAll else { ctr := l.ctr, keyEpoch := l.keyEpoch, failed := l.failed }
        let up : Link := { fresh with
          state := .up, width := w, active := act, spare := sp, encrypted := true, failures := 0, nakSent := false
          peerId := i.peerId, peerAddr := i.peerAddr % 65536, peerLink := i.peerLink % 64, rttNs := i.rttNs
          naks := 0, failed := 511 - usable }
        let s := s.setLink n (up.rekeyed ks own)
        let s := if again then s.retrained n l w sp (511 - usable - l.failed) else s
        (s.linkChanged.pumpLink n).wakeSenders
      | _, _ =>
        let first := l.failures == 0
        s.setLink n { l with failures := l.failures + 1, width := if first then l.width else 0, encrypted := first && l.encrypted
                             peerId := if i.trained then i.peerId else 0
                             state := if !first then .down else if i.trained then .keying else .training }

def execLinkBringUp (link : Nat) (i : BringUp) (s : State) : Host.Outcome State Fault Refusal :=
  checked s (linkOk link) (s.bringUp link i)

/-- A transit packet goes on, or is discarded and counted where it has no allowed link or has come within 16 hops of none
(R392, R394). -/
def State.passOn (s : State) (p : Packet) : State :=
  if 16 ≤ p.hops then s.herdCount 0x28
  else
    match s.linkFor p with
    | some n => s.putOn n p
    | none => s.herdCount 0x28

/-- What waited at the output of a link that is no longer UP: packets passing through find another way or are discarded and counted (R394),
acknowledgements and refusals of this module too, its other packets are resent at their timeouts (R382), and link-local ones are void. -/
def State.shed (s : State) (n : Nat) : State :=
  let l := s.link n
  let back := fun (p : Packet) => { p with hops := p.hops - 1 }
  l.outQ.foldl (fun (s : State) p =>
    if p.chan = 0 then s
    else if transit s.herd.addr p then s.passOn (back p)
    else if p.type = 5 || p.type = 6 then s.sendReply (back p)
    else s) (s.setLink n { l with outQ := [] })

/-- A link leaves UP. -/
def State.linkLost (s : State) (n : Nat) : State := (s.shed n).linkChanged

/-- A lane fails: the spare takes its place, or the link drops to the lowest four good lanes, with the outstanding flits
replayed once the lanes are exchanged, or the link retires (R373, R399). -/
def State.laneFails (s : State) (n lane : Nat) : State :=
  let l := s.link n
  if l.failed.testBit lane || l.state == .retired then s
  else
    let failed := l.failed + 2 ^ lane
    let good := (lanesOf 511).filter (fun x => !failed.testBit x)
    if !(l.active.testBit lane) then
      s.setLink n { l with failed, spare := if l.spare == some lane then none else l.spare }
    else
      match l.spare with
      | some x =>
        let s := s.setLink n { l.replayAll with failed, spare := none, active := l.active - 2 ^ lane + 2 ^ x }
        s.unitEvent 0x0F01 7 1 n 0xFFFF lane
      | none =>
        if 4 ≤ good.length then
          let s' := s.setLink n { l.replayAll with failed, width := 4, active := maskOf (good.take 4) }
          if l.width = 8 then s'.unitEvent 0x0F02 7 5 n 0xFFFF lane else s'
        else
          let s := s.setLink n { l with failed, state := .retired, width := 0, active := 0, encrypted := false, replay := none
                                        txKey := 0, rxKeys := [] }
          ((s.noteRetired { kind := 8, unit := n }).unitEvent 0x0F02 8 2 n 0xFFFF 0).linkLost n

def execLaneFail (link lane : Nat) (s : State) : Host.Outcome State Fault Refusal :=
  checked s (linkOk link && decide (lane < 9)) (s.laneFails link lane)

/-! ## Flits (R375, R376, R378) -/

/-- Send a CONTROL flit: kinds 0 acknowledgement, 1 NAK, 2 + channel a credit return. -/
def Link.say (l : Link) (kind value : Nat) : Link := { l with control := l.control ++ [(kind, value)] }

/-- Acknowledge what was received (R376). -/
def Link.ackNow (l : Link) : Link := { l.say 0 ((l.rxSeq + 1023) % 1024) with rxSince := 0 }

/-- Drop the retry buffer's flits up to an acknowledged one (R376). -/
def Link.acked (l : Link) (q : Nat) : Link :=
  let i := l.retry.findIdx (fun e => e.seq == q)
  if i < l.retry.length then
    { l with retry := l.retry.drop (i + 1), naks := 0
             replay := l.replay.bind (fun r => if (l.retry.take (i + 1)).any (fun e => e.seq == r.2) then none else some r) }
  else l

/-- Credits of each channel returned by a CONTROL flit (R378). -/
def Link.credited (l : Link) (cs : List Nat) : Link :=
  { l with credits := (List.range 4).map (fun c => l.credits.getD c 0 + cs.getD c 0) }

/-- Make a link retrain its lanes and agree keys anew (R376, R381). -/
def State.retrain (s : State) (n : Nat) : State :=
  let l := s.link n
  if l.state == .up then (s.setLink n { l with state := .training, naks := 0, authAt := [] }).linkLost n else s

/-- One packet arrives whole, `flits` of the receive buffer its own: authenticated, four failures within 1 ms of the link's island making
the link retrain; a reserved type is discarded and counted; then for this module, its links, or on its way elsewhere (R380, R381, R394). One
of channel 1 or 3 for this module keeps its flits until it is handled; the credits of others go back at once (R377, R378). -/
def State.arrive (s : State) (n : Nat) (p : Packet) (authOk : Bool) (flits : Nat) : State :=
  let free := fun (s : State) => if flits = 0 then s else s.setLink n ((s.link n).say (2 + p.chan % 4) flits)
  if !authOk then
    let (t, s) := (free s).look (48 + n)
    let l := s.link n
    let l := { l with authAt := l.authAt.filter (fun x => decide (t ≤ x + 10 ^ 6)) ++ [t] }.count 0x40 1
    let s := s.setLink n l
    if 4 ≤ l.authAt.length then s.retrain n else s
  else if 0x20 ≤ p.type && decide (p.type ≤ 0x22) then free s
  else if p.dest = s.herd.addr then
    let s := { s with herd := { s.herd with inbox := s.herd.inbox ++ [p] } }
    if (p.chan = 1 || p.chan = 3) && flits ≠ 0 then { s with herd := { s.herd with held := s.herd.held ++ [(p, n, flits)] } } else free s
  else if reservedType p.type then (free s).herdCount 0x40
  else (free s).passOn p

/-- The records that a flit completes on a channel, in order: the first takes the flits held so far (R375, R377, R381). -/
def State.arriveAll (s : State) (n chan : Nat) (rs : List (List Byte)) : State :=
  match rs with
  | [] => s
  | r :: rest =>
    let l := s.link n
    let flits := l.rxFlits.getD chan 0
    let (p, ok, rxKeys) := openUnder l.rxKeys r
    ((s.setLink n { l with rxKeys, rxFlits := l.rxFlits.set chan 0 }).arrive n { p with chan } ok flits).arriveAll n chan rest

/-- A flit that brings nothing of a packet still to come gives its credit back. -/
def State.spare (s : State) (n chan : Nat) : State :=
  let l := s.link n
  let flits := l.rxFlits.getD chan 0
  if flits ≠ 0 && l.rxBuf.getD chan [] == [] then s.setLink n ({ l with rxFlits := l.rxFlits.set chan 0 }.say (2 + chan) flits) else s

/-- Discard a flit: the first of those discarded draws a NAK that names the expected one (R376). -/
def Link.discard (l : Link) : Link := if l.nakSent then l else { l.say 1 l.rxSeq with nakSent := true }

/-- A DATA flit in sequence is taken; any other is discarded (R376). -/
def State.dataFlit (s : State) (n : Nat) (f : Flit) : State :=
  let l := s.link n
  if flitSeq f == l.rxSeq then
    let c := flitChan f
    let l := { l with rxSeq := (l.rxSeq + 1) % 1024, rxSince := l.rxSince + 1, nakSent := false }.count 0x50 1
    let l := if 32 ≤ l.rxSince then l.ackNow else l
    let (rs, rest) := splitRecords (l.rxBuf.getD c [] ++ flitPayload f) 8
    let l := { l with rxBuf := l.rxBuf.set c rest, rxFlits := l.rxFlits.set c (l.rxFlits.getD c 0 + 1) }
    ((s.setLink n l).arriveAll n c rs).spare n c
  else s.setLink n l.discard

/-- A CONTROL flit brings an acknowledgement and credits (R376, R378). -/
def State.controlFlit (s : State) (n : Nat) (f : Flit) : State :=
  let l := s.link n
  let l := match f.ack with
    | some q => l.acked q
    | none => l
  ((s.setLink n (l.credited f.credits)).pumpLink n).wakeSenders

/-- A flit arrives: one with a bad CRC is counted and discarded, whatever it was; IDLE and reserved kinds bring nothing (R375, R376). -/
def State.flit (s : State) (n : Nat) (f : Flit) : State :=
  let l := s.link n
  if l.state != .up then s
  else if !flitGood f then s.setLink n (l.discard.count 0x30 1)
  else if flitKind f = 1 then s.dataFlit n f
  else if flitKind f = 2 then s.controlFlit n f
  else s

def execFlitReceive (link : Nat) (f : Flit) (s : State) : Host.Outcome State Fault Refusal :=
  checked s (linkOk link) (s.flit link f)

/-- A NAK: flits before the named one are acknowledged, and the rest of the retry buffer is sent again, go-back-N; eight
NAKs for one number make the link retrain (R376). -/
def State.nak (s : State) (n q : Nat) : State :=
  let l := s.link n
  if l.state != .up then s
  else
    let i := l.retry.findIdx (fun e => e.seq == q)
    let naks := if l.nakSeq = q then l.naks + 1 else 1
    let s := s.setLink n { l.replayFrom (if i < l.retry.length then i else 0) with nakSeq := q, naks }
    if 8 ≤ naks then s.retrain n else s

def execNakReceive (link seq : Nat) (s : State) : Host.Outcome State Fault Refusal :=
  checked s (linkOk link && decide (seq < 1024)) (s.nak link seq)

def execFlitAckTimer (link : Nat) (s : State) : Host.Outcome State Fault Refusal :=
  checked s (linkOk link) (
    let l := s.link link
    if l.state == .up && l.rxSince != 0 then s.setLink link l.ackNow else s)

/-- The retry buffer is full: it has no room for the flits of a packet that waits (R376). -/
def Link.retryFull (l : Link) : Bool :=
  decide (512 ≤ l.retry.length) || l.outQ.any (fun p => decide (512 < l.retry.length + l.cost p))

def execRetryBufferStall (link : Nat) (s : State) : Host.Outcome State Fault Refusal :=
  checked s (linkOk link) (if (s.link link).retryFull then s.retrain link else s)

/-- Fresh keys are agreed without pausing traffic, on channel 0; a failed agreement makes the link retrain (R381, R466). -/
def State.rekey (s : State) (n : Nat) (x : LinkAuth) : State :=
  let l := s.link n
  if l.state != .up then s
  else
    let (keys, own) := s.agree l.peerId x
    let s := { s with freeCtr := s.freeCtr + 2 }
    match keys with
    | some ks => ({ s.setLink n (l.rekeyed ks own) with sec := { s.sec with rekeys := s.sec.rekeys + 1 } } : State).pumpLink n
    | none => s.retrain n

def execLinkRekey (link : Nat) (auth : LinkAuth) (s : State) : Host.Outcome State Fault Refusal :=
  checked s (linkOk link) (s.rekey link auth)

/-- A transit packet that waits 100 µs at the head of an output for a credit is discarded and counted (R394). -/
def execTransitCreditTimeout (link chan : Nat) (s : State) : Host.Outcome State Fault Refusal :=
  checked s (linkOk link && decide (chan < 4)) (
    let l := s.link link
    match l.outQ.find? (fun p => p.chan == chan && transit s.herd.addr p) with
    | some p => ((s.setLink link { l with outQ := l.outQ.erase p }).herdCount 0x28).pumpLink link
    | none => s)

/-- A write of 1 to ADMIN_DOWN takes the link down at once (R397). -/
def State.adminDown (s : State) (n : Nat) : State :=
  let l := s.link n
  (s.setLink n { l with adminDown := true, state := if l.state == .retired then .retired else .adminDown
                        width := 0, active := 0, encrypted := false, heard := none, vec := [], txKey := 0, rxKeys := [] }).linkLost n

/-- A write of 0 to ADMIN_DOWN starts bring-up at step 2, with its tries anew (R372, R397). -/
def State.adminUp (s : State) (n : Nat) : State :=
  let l := s.link n
  if l.state == .retired || l.state == .up then s.setLink n { l with adminDown := false }
  else s.setLink n { l with adminDown := false, state := .training, failures := 0 }

def execLinkAdminDown (link : Nat) (s : State) : Host.Outcome State Fault Refusal :=
  checked s (linkOk link) (s.adminDown link)

def execLinkAdminUp (link : Nat) (s : State) : Host.Outcome State Fault Refusal :=
  checked s (linkOk link) (s.adminUp link)

end Sys2Proof.Machine
end

