-- ==== Sys2Proof/Machine/Pgt.lean ====
section
/-! DEFINITION. Publications of the parameter-group tables: the PARAM_GROUP_WRITE command and the window (R223 to R229,
R232). -/

namespace Sys2Proof.Machine

def execParamGroupWrite (c : Cmd) (s : State) : Host.Outcome State Fault Refusal :=
  checked s (c.desc.opcode == 0x18) (s.paramGroupWrite c)

/-! ## The window (R227, R228) -/

/-- What a write to the window finds: a job to write, a confidential job, a job of the other port, or none. -/
inductive PgtTarget where
  | job (k : Nat)
  | secret (k : Nat)
  | foreign
  | none
  deriving DecidableEq, Repr

/-- The job that the window reaches at a port (R227, R228, R409). -/
def State.pgtTarget (s : State) (p : Port) : PgtTarget :=
  match s.sched.running with
  | .none => .none
  | .some k =>
    let i := (s.job k).info
    if !(i.state == .running || i.state == .pausing) then .none
    else if i.owner != p then .foreign
    else if i.confidential then .secret k
    else .job k

/-- A window write that has no effect is counted with the job (R227, R228). -/
def State.pgtDropped (s : State) (k : Nat) : State :=
  let j := s.job k
  s.setJob k { j with run := j.run.count 0x708 1 }

/-- A staged write (R227). -/
def State.pgtStage (s : State) (p : Port) (off : Nat) (v : W32) : State :=
  match s.pgtTarget p with
  | .none => s
  | .foreign => s.hostCount p 0x70
  | .secret k => s.pgtDropped k
  | .job k =>
    let j := s.job k
    if off % 0x2000 / 0x20 < j.image.groupCount (off / 0x2000) then
      s.setJob k { j with stage := NMap.put j.stage (off / 4) v }
    else s.pgtDropped k

/-- JOB_PGT_STAGE; a write that is not at the offset of a staged word is ignored and counted (R10). -/
def execJobPgtStage (p : Port) (off : Nat) (v : W32) (s : State) : Host.Outcome State Fault Refusal :=
  checked s (decide (off < 0x40000)) (if off % 4 = 0 then s.pgtStage p off v else s.hostCount p 0x48)

/-- JOB_PGT_PUBLISH: a write of 1 to GO publishes once the scheduler takes it (R225, R227). -/
def State.pgtPublish (s : State) (p : Port) (v : W32) : State :=
  match s.pgtTarget p with
  | .none => s
  | .foreign => s.hostCount p 0x70
  | .secret k => s.pgtDropped k
  | .job k => if bit v 0 then (s.setJob k { s.job k with goDue := some p }).takeGo else s

/-- A write to a word of the window that no write changes: counted as every ignored one is (R228, R409). -/
def State.pgtIgnored (s : State) (p : Port) : State :=
  match s.pgtTarget p with
  | .foreign => s.hostCount p 0x70
  | .secret k => s.pgtDropped k
  | _ => s

def execJobPgtPublish (p : Port) (v : W32) (s : State) : Host.Outcome State Fault Refusal := .next (s.pgtPublish p v)

end Sys2Proof.Machine
end

