-- ==== Sys2Proof/Machine/Power.lean ====
section
/-! DEFINITION. Power and the board: start-up and resets, the governor and its limits, the configuration write, feeds, the
SMBus target and JTAG (R498 to R518, R521). -/

namespace Sys2Proof.Machine

/-! ## Start-up and resets (R498, R501, R516) -/

/-- START_UP (R498): from a module that is off; RESET_N held low keeps it in reset. -/
def execStartUp (i : StartIn) (s : State) : Host.Outcome State Fault Refusal :=
  .next (if s.board.phase == .off then s.startUp i else s)

/-- BOOT_RETRY_TIMER (R501): a halted module tries both copies again. -/
def execBootRetryTimer (i : StartIn) (s : State) : Host.Outcome State Fault Refusal :=
  .next (if s.board.phase == .halted then s.boot i else s)

/-- RESET_N_ASSERT (R515, R516). -/
def execResetNAssert (s : State) : Host.Outcome State Fault Refusal := .next (s.dark .inReset)

/-- RESET_N_RELEASE (R516): restarts from step 1 of R498. -/
def execResetNRelease (i : StartIn) (s : State) : Host.Outcome State Fault Refusal :=
  .next (if s.board.phase == .inReset then s.startUp i else s)

/-- A count that saturates at 16 bits (R510 PWR_GLITCHES). -/
def sat16 (n : Nat) : Nat := min 65535 (n + 1)

/-- IGNORED_PULSE (R516): counted only. -/
def execIgnoredPulse (pin : PinIn) (s : State) : Host.Outcome State Fault Refusal :=
  .next (
    if !s.powered then s
    else
      let g := s.power.glitches
      { s with power := { s.power with glitches := match pin with
          | .resetN => (sat16 g.1, g.2)
          | .throttleN => (g.1, sat16 g.2) } })

/-! ## The governor (R506 to R509) -/

/-- Rails at the floor (R506). -/
def Power.floor (p : Power) : Power := { p with rails := p.rails.map (fun r => { r with v := 650 }) }

/-- THROTTLE_N_ASSERT (R506): every rail slews to the floor. A module that is not powered sees the pin when it starts
(R521). -/
def execThrottleNAssert (s : State) : Host.Outcome State Fault Refusal :=
  let p := { s.power with throttlePin := true }
  .next { s with power := if s.powered then p.floor else p }

/-- THROTTLE_N_RELEASE (R507): the governor may raise the rails again. -/
def execThrottleNRelease (s : State) : Host.Outcome State Fault Refusal :=
  .next { s with power := { s.power with throttlePin := false } }

/-- A limit moves one step: down while `hot`, up while `under`, within the rail's range (R506, R507). -/
def limitStep (lim : Nat) (hot under : Bool) : Nat :=
  if hot then max 650 (lim - 5) else if under then min 850 (lim + 5) else lim

/-- One governor period of one cluster's rail (R507). -/
def Rail.govern (r : Rail) (p : Power) (power tj : Nat) (hot : Bool) : Rail :=
  let therm := limitStep r.therm (decide (400 < tj)) (decide (tj < 388))
  let cur := limitStep r.cur hot (!hot)
  let lim := min p.setpoint (min therm cur)
  let v :=
    if p.throttlePin then 650
    else if lim < r.v then r.v - 5
    else if 10 * p.cap < power ∧ 650 < r.v then r.v - 5
    else if 1000 * power < 9800 * p.cap ∧ r.v < lim then r.v + 5
    else r.v
  { v, therm, cur, tj }

/-- A rail draws more than its current rating, less a tenth of it for each phase left below ten (R490, R507). -/
def PhysCluster.overRated (c : PhysCluster) (amps : Nat) : Bool := decide (Config.railRating * min 10 (12 - ones 12 c.phasesOut) < 10 * amps)

/-- The rails of clusters in service, after one period. -/
def State.governed (s : State) (i : GovIn) : List Rail :=
  s.power.rails.zipIdx.map (fun (e : Rail × Nat) =>
    let tj := i.tj.getD e.2 e.1.tj
    let c := s.health.cluster e.2
    if c.inService then e.1.govern s.power i.power tj (c.overRated (i.amps.getD e.2 0)) else { e.1 with tj })

/-- A thermal limit acts (R510). -/
def State.actsThermal (s : State) : Bool := s.liveRails.any (fun r => decide (r.therm < s.power.setpoint))

/-- A rail current limit acts (R510). -/
def State.actsCurrent (s : State) : Bool := s.liveRails.any (fun r => decide (r.cur < s.power.setpoint))

/-- The cap acts (R507, R510): the module draws more, or too little less for a rail below its limit to rise. -/
def State.actsCap (s : State) : Bool :=
  let power := s.power.samples.headD 0
  decide (10 * s.power.cap < power) || (decide (9800 * s.power.cap ≤ 1000 * power) &&
    s.liveRails.any (fun r => decide (r.v < min s.power.setpoint (min r.therm r.cur))))

/-- The cause of throttling: 1 THROTTLE_N, 2 power cap, 3 thermal, 4 rail current, 0 none; the first that acts (R494). -/
def State.throttleCause (s : State) : Nat :=
  if s.power.throttlePin then 1 else if s.actsCap then 2 else if s.actsThermal then 3 else if s.actsCurrent then 4 else 0

/-- A THROTTLED event: 1 began, 2 ended, 3 continuing (R493, R494). -/
def State.throttleEvent (s : State) (cause phase ticks : Nat) : State :=
  s.healthEvent none { code := 0x0F0C, job := 0, a := BitVec.ofNat 64 (cause + phase * 2 ^ 8), b := BitVec.ofNat 64 (ticks / 100 % 2 ^ 32) }

/-- Throttling is counted, and its beginning and end reported once it has lasted longer than a governor period (R509). -/
def State.tellThrottle (s : State) : State :=
  let c := s.throttleCause
  let p := s.power
  if c = 0 then
    let s := { s with power := { p with runTicks := 0, began := 0 } }
    if p.began = 0 then s else s.throttleEvent p.began 2 p.runTicks
  else
    let s := { s with power := { p with ticks := p.ticks + 1, runTicks := p.runTicks + 1
                                        began := if p.runTicks = 0 then 0 else if p.began = 0 then c else p.began } }
    if p.began = 0 && p.runTicks != 0 then s.throttleEvent c 1 (p.runTicks + 1) else s

/-- GOVERNOR_TICK (R507): every 10 µs. -/
def execGovernorTick (i : GovIn) (s : State) : Host.Outcome State Fault Refusal :=
  .next (
    if !s.powered then s
    else
      let p := { s.power with rails := s.governed i, samples := (i.power :: s.power.samples).take 100
                              summed := (s.power.summed.1 + i.power, s.power.summed.2 + 1) }
      ({ s with power := p } : State).tellThrottle)

/-- GOVERNOR_FAIL (R507, R521): the hub 4 governor takes over from the rails' present values. -/
def execGovernorFail (s : State) : Host.Outcome State Fault Refusal :=
  .next (if s.powered then { s with power := { s.power with hub4 := true } } else s)

/-- THROTTLED (R493, R509): throttling goes on for another second. -/
def execThrottled (s : State) : Host.Outcome State Fault Refusal :=
  .next (if s.powered && s.power.began != 0 then s.throttleEvent s.power.began 3 s.power.runTicks else s)

/-! ## Limits and the configuration (R505, R508) -/

/-- PWR_CAP (R508): a value out of range is ignored. -/
def execPwrCap (v : W32) (s : State) : Host.Outcome State Fault Refusal :=
  let n := fld v 0 16
  .next (if s.powered && decide (800 ≤ n) && decide (n ≤ 1350) then { s with power := { s.power with cap := n } } else s)

/-- PWR_SETPOINT (R508): a multiple of 5 in range. -/
def execPwrSetpoint (v : W32) (s : State) : Host.Outcome State Fault Refusal :=
  let n := fld v 0 10
  .next (if s.powered && decide (650 ≤ n) && decide (n ≤ 850) && n % 5 == 0 then
    { s with power := { s.power with setpoint := n } } else s)

/-- The RESULT of a configuration write: 1 DONE, 2 BAD_RECORD, 3 NOT_AUTHORISED (R505, R510). -/
def State.configVerdict (s : State) (viaMgmt : Bool) : Nat :=
  let bs := memRead s.power.stage 0 1152
  let key := memRead s.power.stage 0x480 1952
  let signed := s.cfg.opKeys.isEmpty || (s.cfg.opKeys.contains (Config.sha3 key) &&
    Config.dsaVerify key ((bs.drop 16).take 48) (memRead s.power.stage 0xC20 3309) (ascii "P6-CONFIG-1"))
  if !(viaMgmt && (s.sec.mgmtA.up || s.sec.mgmtB.up)) then 3 else if !cfgOk bs then 2 else if !signed then 3 else 1

/-- A configuration write is in progress: it waits for the security core (R444, R510 BUSY). -/
def State.cfgHeld (s : State) : Bool := s.fw.held.contains (.config true) || s.fw.held.contains (.config false)

/-- PWR_CONFIG_CONTROL.GO (R505): the mirror is written, then the primary; the record takes effect at the next start-up.
It waits while the security core is down, which writes the boot flash (R444), and another GO meanwhile is BUSY (R510). -/
def execPwrConfigGo (viaMgmt : Bool) (s : State) : Host.Outcome State Fault Refusal :=
  .next (
    if !s.powered then s
    else if !s.roleServes 0 then
      (if s.cfgHeld then { s with power := { s.power with cfgResult := 4 } } else s.hold (.config viaMgmt))
    else
      let r := s.configVerdict viaMgmt
      let s := { s with power := { s.power with cfgResult := r } }
      if r ≠ 1 then s
      else
        let c := cfgOf (memRead s.power.stage 0 1152)
        ((({ s with flash := { s.flash with cfgMirror := c, cfgPrimary := c } } : State).flashEvent 1 2).flashEvent 0 2))

/-! ## Feeds and temperatures (R509, R512) -/

/-- Record a feed's voltage and whether it is lost. -/
def Power.setFeed (p : Power) (f : Port) (mV : Nat) (lost : Bool) : Power :=
  match f with
  | .a => { p with feedA := mV, lostA := lost }
  | .b => { p with feedB := mV, lostB := lost }

/-- A feed is lost. -/
def Power.lost (p : Power) (f : Port) : Bool :=
  match f with
  | .a => p.lostA
  | .b => p.lostB

/-- A feed's voltage in mV. -/
def Power.feed (p : Power) (f : Port) : Nat :=
  match f with
  | .a => p.feedA
  | .b => p.feedB

/-- FEED_LOST (R493, R512): a feed leaves 48–58 V, or is taken as lost; with both lost the module rides through. -/
def State.feedFails (s : State) (f : Port) (mV : Nat) : State :=
  let gone := feedGone mV
  let was := s.power.lost f
  let left := feedOk (s.power.feed f)
  let t := { s with power := s.power.setFeed f mV (gone || was) }
  let t := { t with board := { t.board with rideThrough := t.powered && t.power.lostA && t.power.lostB } }
  if !s.powered || feedOk mV then t
  else if gone && !was then t.powerEvent (portNum f) 1 mV
  else if gone || !left then t
  else t.powerEvent (portNum f) 3 mV

def execFeedLost (feed : Port) (mV : Nat) (s : State) : Host.Outcome State Fault Refusal := .next (s.feedFails feed mV)

/-- FEED_RETURNED (R493, R512): back within 48–58 V. -/
def State.feedBack (s : State) (f : Port) (mV : Nat) : State :=
  if !feedOk mV then { s with power := s.power.setFeed f mV (s.power.lost f) }
  else
    let t := { s with power := s.power.setFeed f mV false, board := { s.board with rideThrough := false } }
    if s.powered then t.powerEvent (portNum f) 2 mV else t

def execFeedReturned (feed : Port) (mV : Nat) (s : State) : Host.Outcome State Fault Refusal := .next (s.feedBack feed mV)

/-- RIDE_THROUGH_EXPIRED (R512): the module loses power. -/
def execRideThroughExpired (s : State) : Host.Outcome State Fault Refusal :=
  .next (if s.board.rideThrough then s.dark .off else s)

/-- THERMAL_SHUTDOWN (R509): the rails are removed and the cause is recorded: 1 a cluster, 2 a stack. -/
def execThermalShutdown (s : State) : Host.Outcome State Fault Refusal :=
  .next (
    if !s.powered then s
    else
      let cause := if s.power.rails.any (fun r => decide (460 ≤ r.tj)) then 1 else 2
      ({ s with flash := { s.flash with cause } } : State).dark .off)

/-- HBM_THERMAL_PACE (R509): a stack above 95 °C is paced until it falls below 92 °C. -/
def State.pace (s : State) (stack quarterC : Nat) : State :=
  let p := s.power
  let rest := p.paced.filter (· != stack)
  let paced := if 380 < quarterC then rest ++ [stack] else if quarterC < 368 then rest else p.paced
  { s with power := { p with stackT := NMap.put p.stackT stack quarterC, paced } }

def execHbmThermalPace (stack : Nat) (quarterC : Nat) (s : State) : Host.Outcome State Fault Refusal :=
  checked s (decide (stack < 48)) (if s.powered then s.pace stack quarterC else s)

/-! ## Measurements (R510, R511, R514) -/

/-- Module input power, the mean over the last 1 ms (R510): of ten means over 100 µs. A free value before the first governor
period (log entry 7). -/
def State.inputPower (s : State) : Nat × State :=
  let xs := (List.range 10).filterMap (fun k => s.power.samples[10 * k]?)
  if xs.isEmpty then
    let (v, s) := s.fresh
    (v % 2 ^ 32, s)
  else (xs.sum / xs.length, s)

/-- A reading of the power window that a confidential job coarsens (R468, R511): the last value refreshed, in steps. -/
def State.coarsePower (s : State) (key step v : Nat) : Nat :=
  if !s.sec.coarse then v
  else
    match s.sec.shownPower with
    | some m => NMap.getD m key 0
    | none => v / step * step

/-- Coolant temperatures: inlet and outlet in 0.1 °C, free measurements (R510, log entry 7). -/
def State.coolantTemps (s : State) : (Nat × Nat) × State :=
  let (a, s) := s.fresh
  let (b, s) := s.fresh
  ((a % 2 ^ 16, b % 2 ^ 16), s)

/-- PWR_INPUT as it is shown (R510, R511). -/
def State.shownInput (s : State) : Nat × State :=
  let (v, s) := s.inputPower
  (s.coarsePower 0x0C 10 v, s)

/-- PWR_COOLANT as it is shown (R510, R511). -/
def State.shownCoolant (s : State) : Nat × State :=
  let (t, s) := s.coolantTemps
  (s.coarsePower 0x18 50 t.1 % 2 ^ 16 + 2 ^ 16 * (s.coarsePower 0x1A 50 t.2 % 2 ^ 16), s)

/-- ALERT_N is asserted (R500, R514). -/
def State.alert (s : State) : Bool :=
  s.board.phase == .halted || s.board.phase == .stopped || (s.powered &&
    (!feedOk s.power.feedA || !feedOk s.power.feedB || decide (2 ≤ s.marginClass) || s.power.rails.any (fun r => decide (420 ≤ r.tj))))

/-! ## SMBus and JTAG (R517, R518) -/

/-- Put the SMBus answer. -/
def State.smbus (s : State) (bs : Option (List Byte)) : State := { s with board := { s.board with smbus := bs } }

/-- The boot ROM or the runtime answers (R517): before fuse load, and after a scrap, the target is silent. -/
def State.smbusRom (s : State) : Bool := s.powered || s.board.phase == .halted

/-- IDENTITY (R517). -/
def execIdentity (s : State) : Host.Outcome State Fault Refusal :=
  .next (s.smbus (if s.smbusRom then some (leBytes 8 Config.identity.toNat) else none))

/-- The ordering number in ASCII (R1, R517). -/
def orderingNumber : List Byte := ascii "WP6-4832-L"

/-- INVENTORY (R517). -/
def execInventory (s : State) : Host.Outcome State Fault Refusal :=
  let step := Config.stepping.1 % 16 * 16 + Config.stepping.2 % 16
  .next (s.smbus (if s.smbusRom then
    some (orderingNumber ++ leBytes 1 step ++ leBytes 2 Config.made.1 ++ leBytes 1 Config.made.2 ++ leBytes 2 0) else none))

/-- STAGE (R517): 9 READY, 8 stopped at step 8, 10 halted. -/
def execStage (s : State) : Host.Outcome State Fault Refusal :=
  .next (s.smbus (
    match s.board.phase with
    | .ready => some [9]
    | .stopped => some [8]
    | .halted => some [10]
    | .off => none
    | .inReset => none
    | .scrapped => none))

/-- POWER (R517): PWR_INPUT, from the runtime only. -/
def execPower (s : State) : Host.Outcome State Fault Refusal :=
  .next (
    if s.powered then
      let (v, s) := s.shownInput
      s.smbus (some (leBytes 4 v))
    else s.smbus none)

/-- COOLANT (R517): PWR_COOLANT, from the runtime only. -/
def execCoolant (s : State) : Host.Outcome State Fault Refusal :=
  .next (
    if s.powered then
      let (v, s) := s.shownCoolant
      s.smbus (some (leBytes 4 v))
    else s.smbus none)

/-- MARGIN (R495, R517), from the runtime only. -/
def execMargin (s : State) : Host.Outcome State Fault Refusal :=
  .next (s.smbus (if s.powered then some [BitVec.ofNat 8 s.marginClass] else none))

/-- RECOVER (R501, R517): accepted only at STAGE 10; an image accepted under R439 is written to the mirror and the primary,
and start-up resumes at step 4. -/
def execRecover (image : List Byte) (i : StartIn) (s : State) : Host.Outcome State Fault Refusal :=
  .next (
    if s.board.phase != .halted then s.smbus none
    else
      let r := s.fwAccept true image
      let s := s.smbus (some [])
      if r.2 ≠ 1 then s
      else
        let s := { s with flash := { s.flash with heartMirror := r.1, heartPrimary := r.1 } }
        let s := s.boot { i with heartPrimary := true, heartMirror := true }
        if s.powered then (s.flashEvent 1 2).flashEvent 0 2 else s)

/-- The word of IDCODE (R518); bits 11:1 are free (log entry 5). -/
def idcodeWord : W32 :=
  BitVec.ofNat 32 (1 + Config.jtagMaker % 2 ^ 11 * 2 + 0x0A06 * 2 ^ 12 + Config.stepping.2 % 16 * 2 ^ 28)

/-- The module has power, so that its JTAG port answers (R515, R518). -/
def State.jtagLive (s : State) : Bool := s.board.phase != .off && s.board.phase != .inReset

/-- IDCODE (R518). -/
def execIdcode (s : State) : Host.Outcome State Fault Refusal :=
  .next (if s.jtagLive then { s with board := { s.board with jtag := idcodeWord } } else s)

/-- BYPASS (R518): the one-bit register captures 0, as IEEE 1149.1 has it. -/
def execBypass (s : State) : Host.Outcome State Fault Refusal :=
  .next (if s.jtagLive then { s with board := { s.board with jtag := 0 } } else s)

end Sys2Proof.Machine
end

