-- ==== Sys2Proof/Machine/Windows.lean ====
section
/-! DEFINITION. What the registers of BAR0 read: each window as its chapter lays it out, visible as R409 has it, and coarse
while a confidential job runs (R408 to R411, R423, R424, R468, R469). A register is given by its width in bytes and its
value. -/

namespace Sys2Proof.Machine

/-! ## What is shown (R409, R468, R469) -/

/-- A counter that is coarse while a confidential job runs: as last refreshed, or, before the first refresh, rounded down. -/
def State.dim (s : State) (key v : Nat) : Nat :=
  if !s.sec.coarse then v
  else
    match s.sec.shown with
    | some m => NMap.getD m key 0
    | none => v / 65536 * 65536

/-- The running job, as the running-job windows show it to a port: only where the port owns it (R409). -/
def State.seenJob (s : State) (p : Port) : Option Nat :=
  match s.sched.running with
  | some k =>
    let i := (s.job k).info
    if (i.state == .running || i.state == .pausing) && i.owner == p then some k else none
  | none => none

/-- A value of the running job: 0 at a port that does not own it, coarse where the job is confidential. -/
def State.jobValue (s : State) (p : Port) (key : Nat) (f : Job → Nat) : Nat :=
  match s.seenJob p with
  | some k =>
    let v := f (s.job k)
    if (s.job k).info.confidential then (if s.sec.coarse then s.dim key v else v / 65536 * 65536) else v
  | none => 0

/-! ## Host ports (R410, R411, R413, R420, R431) -/

/-- HOST_STATUS (R410). -/
def State.hostStatus (s : State) (p : Port) : Nat :=
  let h := s.port p
  let secret := match s.sched.running with
    | some k => (s.job k).info.confidential
    | none => false
  b2n (s.board.phase == .ready) + 2 * b2n (s.versionOk p) + 4 * b2n secret + 8 * b2n (s.port (portOther p)).absentNow +
    2 ^ 16 * h.speed + 2 ^ 19 * h.width

/-- HOST_ID (R405, R410). -/
def hostId (p : Port) : Nat :=
  0x1F6A + 0x0A06 * 2 ^ 16 + Config.stepping.2 % 16 * 2 ^ 32 + Config.stepping.1 % 16 * 2 ^ 36 + portNum p * 2 ^ 40

/-- The HOST_ block (R410). -/
def State.hostReg (s : State) (p : Port) (o : Nat) : Option (Nat × Nat) :=
  let h := s.port p
  match o with
  | 0x00 => some (8, hostId p)
  | 0x08 => some (8, Config.identity.toNat)
  | 0x10 => some (8, s.ifWindow)
  | 0x18 => some (4, h.driver.toNat)
  | 0x1C => some (4, s.hostStatus p)
  | 0x20 => some (8, s.islands.getD (portIsland p) 0)
  | 0x28 => some (4, h.lease.toNat)
  | 0x30 => some (4, h.bar2.toNat + 2 ^ 17 * b2n (s.bar2Slot p).isSome)
  | 0x38 => some (8, h.bar2Base.toNat)
  | 0x40 => some (4, h.streamBase.toNat)
  | 0x44 => some (4, b2n h.session.up + 2 ^ 8 * h.session.epoch)
  | _ => if hostCoarse.contains o then some (8, s.dim (portNum p * 2 ^ 26 + o) (NMap.getD h.ctr o 0)) else none

/-- RING_STATUS (R411). -/
def RingSet.status (r : RingSet) : Nat :=
  b2n r.enabled + r.error * 2 ^ 4 + b2n r.cqFull * 2 ^ 8 + b2n r.eqFull * 2 ^ 9 + b2n r.bad * 2 ^ 10

/-- A ring set block (R411). -/
def RingSet.reg (r : RingSet) (o : Nat) : Option (Nat × Nat) :=
  match o with
  | 0x00 => some (4, r.control.toNat)
  | 0x04 => some (4, r.status)
  | 0x08 => some (8, r.sqBase.toNat)
  | 0x10 => some (8, r.cqBase.toNat)
  | 0x18 => some (8, r.eqBase.toNat)
  | 0x20 => some (4, r.sizes.toNat)
  | 0x24 => some (4, r.irq.toNat)
  | 0x28 => some (4, r.sqHead.toNat)
  | 0x2C => some (4, r.cqTail.toNat)
  | 0x30 => some (4, r.eqTail.toNat)
  | 0x34 => some (4, min 65535 r.hold.length + 2 ^ 16 * min 65535 r.holdEv.length)
  | 0x38 => some (8, r.shadow.toNat)
  | _ => none

/-- The MSI-X table of 129 entries and the pending bits, by words (R408, R420). -/
def HostPort.msixReg (h : HostPort) (o : Nat) : Option (Nat × Nat) :=
  if o % 4 ≠ 0 then none
  else if o < 129 * 16 then some (4, h.msixWord (o / 4))
  else if 0x1000 ≤ o ∧ o < 0x1014 then
    some (4, ((List.range 32).map (fun b => if h.msixPba.contains ((o - 0x1000) * 8 + b) then 2 ^ b else 0)).sum)
  else none

/-- The EMU_ block (R431). -/
def HostPort.emuReg (h : HostPort) (o : Nat) : Option (Nat × Nat) :=
  match o with
  | 0x00 => some (4, h.emuTarget.toNat)
  | 0x08 => some (4, h.emuBase.toNat)
  | 0x0C => some (4, 2 * b2n h.emuRefused + 4 * b2n h.emuTimeout + 2 ^ 16 * min 65535 h.emuWrites.length)
  | 0x10 => some (8, h.emuErrors)
  | _ => if 0x8000 ≤ o ∧ o % 4 = 0 then some (4, 0) else none

/-! ## Jobs (R332, R369) -/

/-- JOB_INFO (R332). -/
def JobInfo.word (i : JobInfo) : Nat :=
  i.id % 2 ^ 16 + i.state.code * 2 ^ 16 + i.cause * 2 ^ 28 + b2n i.wbPending * 2 ^ 34 + b2n i.queued * 2 ^ 35 +
    portNum i.owner * 2 ^ 36 + b2n i.confidential * 2 ^ 37 + b2n i.mirror * 2 ^ 38 + b2n i.buddy * 2 ^ 39 + i.prio * 2 ^ 48

/-- A slot's registers (R332, R468). -/
def State.slotReg (s : State) (k o : Nat) : Option (Nat × Nat) :=
  let j := s.job k
  let i := j.info
  let key := 0x100000 + k * 0x40 + o
  let slow := fun (v step : Nat) =>
    if !i.confidential then v
    else
      match s.sec.coarse && s.sched.running == some k, s.sec.shown with
      | true, some m => NMap.getD m key 0
      | _, _ => v / step * step
  match o with
  | 0x00 => some (8, i.word)
  | 0x08 => some (8, i.saveNeed)
  | 0x10 => some (8, i.commitSeq)
  | 0x18 => some (8, slow (s.runNow k) (10 ^ 7))
  | 0x20 => some (8, slow j.journalBytes 65536)
  | _ => none

/-- A loaded job's counters, at the port that owns it (R369, R409, R468). -/
def State.jobCounter (s : State) (p : Port) (k o : Nat) : Option (Nat × Nat) :=
  if o % 8 ≠ 0 ∨ 0x50 ≤ o then none
  else
    let j := s.job k
    let v := NMap.getD j.run.ctrJob o 0
    let runs := s.sched.running == some k
    if !(j.info.state.loaded && j.info.owner == p) then some (8, 0)
    else if !j.info.confidential then some (8, v)
    else if runs then some (8, s.dim (0x101000 + k * 0x80 + o) (v / 65536 * 65536)) else some (8, v / 65536 * 65536)

/-! ## The running job (R97, R139, R161, R198, R230, R237, R258, R295 to R297, R329) -/

/-- Offsets of the device-wide counters: streams, attention, codec, peat, and the regulators of 9 partitions. -/
def deviceCtr (o : Nat) : Bool :=
  o % 8 == 0 && (decide (o < 0x60) || (0x100 ≤ o && decide (o < 0x150)) || (0x200 ≤ o && decide (o < 0x250)) ||
    (0x300 ≤ o && decide (o < 0x320)) || (0x400 ≤ o && decide (o < 0x400 + 9 * 0x20)))

/-- The fault record (R230): a confidential job shows the core and the instruction only (R468). -/
def State.faultReg (s : State) (p : Port) (o : Nat) : Option (Nat × Nat) :=
  let j := (s.seenJob p).map (fun (k : Nat) => s.job k)
  let f := (j.bind (fun (j : Job) => j.fault)).getD {}
  let open' := match j with
    | some j => !j.info.confidential
    | none => true
  match o with
  | 0x00 => some (4, f.core)
  | 0x04 => some (4, f.insn)
  | 0x08 => some (4, if open' then f.lane else 0)
  | 0x10 => some (8, if open' then f.addr else 0)
  | _ => none

/-- The running job's device-wide window (R408). -/
def State.deviceReg (s : State) (p : Port) (o : Nat) : Option (Nat × Nat) :=
  if 0x600 ≤ o then s.faultReg p (o - 0x600)
  else if deviceCtr o then some (8, s.jobValue p (0x103000 + o) (fun j => j.deviceValue o))
  else none

/-- The counters of a logical cluster (R295); the ember pages are a gauge. -/
def State.clusterReg (s : State) (p : Port) (o : Nat) : Option (Nat × Nat) :=
  let c := o / 0x80
  let x := o % 0x80
  if x % 8 ≠ 0 ∨ 0x68 ≤ x ∨ 32 ≤ c then none
  else some (8, s.jobValue p (0x104000 + o) (fun j =>
    if x = 0x60 then (NMap.getD s.tiers.clusters c {}).ember.length else NMap.getD j.run.ctrCluster o 0))

/-- Offsets of the counters of a logical core: array, gate and scan, vector and browse, convolution. -/
def coreCtr (x : Nat) : Bool :=
  x % 8 == 0 && (decide (x < 0x50) || (0x80 ≤ x && decide (x < 0xC8)) || (0x100 ≤ x && decide (x < 0x158)) ||
    (0x180 ≤ x && decide (x < 0x1B0)))

/-- The counters of a logical core; publications and dropped window writes are device-wide (R237). -/
def State.coreReg (s : State) (p : Port) (o : Nat) : Option (Nat × Nat) :=
  let x := o % 0x400
  if !coreCtr x then none
  else if x = 0x148 then some (8, s.jobValue p 0x103700 (fun j => j.deviceValue 0x700))
  else if x = 0x150 then some (8, s.jobValue p 0x103708 (fun j => j.deviceValue 0x708))
  else some (8, s.jobValue p (0x180000 + o) (fun j => NMap.getD j.run.ctrCore o 0))

/-- The parameter-group window (R227, R228). -/
def State.pgtReg (s : State) (p : Port) (o : Nat) : Option (Nat × Nat) :=
  let j := match s.pgtTarget p with
    | .job k => some (s.job k)
    | .secret _ => none
    | .foreign => none
    | .none => none
  if o % 4 ≠ 0 ∨ 0x40008 ≤ o then none
  else if o < 0x40000 then some (4, ((j.map (fun (j : Job) => (NMap.getD j.stage (o / 4) 0).toNat)).getD 0))
  else if o = 0x40000 then some (4, 2 * ((j.map (fun (j : Job) => b2n j.goDue.isSome)).getD 0))
  else some (4, (j.map (fun (j : Job) => NMap.getD j.run.ctrDev 0x710 0 % 2 ^ 32)).getD 0)

/-- The loaded job whose stream slice holds an entry (R103). -/
def State.sliceOwner (s : State) (n : Nat) : Option Nat :=
  (List.range s.jobs.length).find? (fun k =>
    let j := s.job k
    j.info.state.loaded && j.info.state != .loading && decide (j.image.sliceFirst ≤ n) &&
      decide (n < j.image.sliceFirst + j.image.sliceCount))

/-- LOCATION (R105). -/
def Loc.code : Loc → Nat
  | .resident => 0
  | .cold => 1
  | .moving => 2
  | .exported => 3
  | .peer => 4

/-- A stream-table entry of a job as it reads (R105). -/
def Job.entryReg (j : Job) (n o : Nat) : Nat :=
  let r := j.run
  let e := r.stream n
  let live := fun (v : Nat) => if e.kind = 0 then 0 else v
  match o with
  | 0x00 => n + live (e.kind * 2 ^ 20 + e.loc.code * 2 ^ 22 + b2n e.resetNext * 2 ^ 25 + b2n (e.parked != 0) * 2 ^ 26 +
      b2n (r.forked e) * 2 ^ 27 + e.parked * 2 ^ 28)
  | 0x04 => live j.info.id + e.gen * 2 ^ 16
  | 0x08 => live e.statePtrReg
  | 0x10 => live e.kvRootReg
  | 0x18 => live e.length
  | 0x20 => live e.stepCount
  | 0x28 => live (e.parent + e.depth * 2 ^ 32 + e.parentGen * 2 ^ 48)
  | 0x30 => live (r.pendingOn n + e.committed * 2 ^ 16)
  | 0x38 => live (e.stateFmt + b2n e.comp * 2 ^ 4 + b2n e.stoch * 2 ^ 5 + e.keyFmt * 2 ^ 8 + e.valFmt * 2 ^ 12 +
      e.groups * 2 ^ 16 + e.stateSize * 2 ^ 32)
  | 0x40 => live e.rngKey
  | 0x48 => live e.rngCtr
  | 0x50 => live (e.segment + e.posBase * 2 ^ 16)
  | 0x58 => live (e.winPages + e.promise * 2 ^ 32)
  | _ => 0

/-- The stream window (R424): an entry of no job is FREE and reads its own index. -/
def State.streamReg (s : State) (p : Port) (o : Nat) : Option (Nat × Nat) :=
  let n := fld (s.port p).streamBase 0 20 + o / 0x80
  let x := o % 0x80
  let w := if x = 0 ∨ x = 4 then some 4 else if x % 8 = 0 ∧ x < 0x60 then some 8 else none
  w.map (fun (w : Nat) =>
    (w, if 2 ^ 20 ≤ n then 0
        else
          match s.sliceOwner n with
          | none => if x = 0 then n else 0
          | some k => if (s.job k).info.owner == p && !(s.job k).info.confidential then (s.job k).entryReg n x else 0))

/-! ## Links and the herd (R396 to R398) -/

/-- LINK_STATUS.STATE (R397). -/
def LinkState.code : LinkState → Nat
  | .down => 0
  | .training => 1
  | .keying => 2
  | .up => 3
  | .retired => 4
  | .adminDown => 5

/-- A link's block (R396, R397, R468). -/
def State.linkReg (s : State) (o : Nat) : Option (Nat × Nat) :=
  let n := o / 0x100
  let x := o % 0x100
  let l := s.link n
  let dir := if l.state != .up then 0 else if s.upEnd n then 1 else 2
  if 48 ≤ n then none
  else
    match x with
    | 0x00 => some (4, l.state.code + l.width * 2 ^ 4 + dir * 2 ^ 8 + b2n (l.encrypted && l.state == .up) * 2 ^ 10)
    | 0x04 => some (4, b2n l.adminDown)
    | 0x08 => some (8, l.peerId.toNat)
    | 0x10 => some (4, l.peerAddr + l.peerLink * 2 ^ 16)
    | 0x14 => some (4, l.active + l.failed * 2 ^ 16)
    | 0x18 => some (4, l.rttNs % 2 ^ 32)
    | _ =>
      if x % 8 ≠ 0 ∨ x < 0x20 ∨ 0x58 ≤ x then none
      else
        let v := NMap.getD l.ctr x 0
        some (8, if linkCoarse.contains x then s.dim (0x2A0000 + o) v else v)

/-- The herd block (R398, R468). -/
def State.herdReg (s : State) (o : Nat) : Option (Nat × Nat) :=
  let h := s.herd
  match o with
  | 0x00 => some (8, Config.identity.toNat)
  | 0x08 => some (4, h.role + 4 * b2n s.eligible + 8 * (h.depth % 16))
  | 0x0C => some (4, h.addr)
  | 0x10 => some (8, h.leader.toNat)
  | 0x18 => some (4, h.epoch % 2 ^ 32)
  | 0x1C => some (4, h.members)
  | _ =>
    if o % 8 ≠ 0 ∨ o < 0x20 ∨ 0x48 ≤ o then none
    else
      let v := NMap.getD h.ctr o 0
      some (8, if o = herdCoarse then s.dim (0x2A4000 + o) v else v)

/-! ## Health (R496) -/

/-- HEALTH_SUMMARY. -/
def State.healthSummary (s : State) : Nat :=
  let h := s.health
  s.marginClass + (h.clusters.filter PhysCluster.inService).length * 2 ^ 8 + h.servingCores.length * 2 ^ 16 +
    (s.codecs.filter (fun e => e.inService)).length * 2 ^ 32 + (s.links.filter (fun l => l.state == .up)).length * 2 ^ 40

/-- HEALTH_CLUSTER. -/
def Health.clusterWord (h : Health) (p : Nat) : Nat :=
  let c := h.cluster p
  maskOf (h.coresServing p) + (2 - ones 12 c.phasesOut) * 2 ^ 17 + c.logical * 2 ^ 32 + c.state * 2 ^ 40 +
    c.guest.getD 0 * 2 ^ 43

/-- HEALTH_CORE_MAP. -/
def Health.mapWord (h : Health) (n : Nat) : Nat :=
  let m := h.map.getD n {}
  m.core + m.cluster * 2 ^ 5 + b2n (h.hosted n) * 2 ^ 11 + h.banks (h.placed n) * 2 ^ 12

/-- HEALTH_STACK. -/
def Health.stackWord (h : Health) (k : Nat) : Nat :=
  let x := h.hbm.getD k {}
  x.failed + x.state * 2 ^ 32 + x.left * 2 ^ 38

/-- The HEALTH_ window. -/
def State.healthReg (s : State) (o : Nat) : Option (Nat × Nat) :=
  let h := s.health
  match o with
  | 0x00 => some (8, s.healthSummary)
  | 0x08 => some (4, h.woodTotal + h.woodClusters.length * 2 ^ 8)
  | 0x0C => some (4, h.repairUsed)
  | 0x10 => some (8, h.lost)
  | 0x80 => some (8, h.forecast.toNat)
  | 0x88 => some (4, h.logCount.toNat)
  | _ =>
    if o < 0x80 then (if o % 8 = 0 then some (8, NMap.getD h.ctr o 0) else none)
    else if 0x100 ≤ o ∧ o < 0x210 ∧ o % 8 = 0 then some (8, h.clusterWord ((o - 0x100) / 8))
    else if 0x400 ≤ o ∧ o < 0xC00 ∧ o % 4 = 0 then some (4, h.mapWord ((o - 0x400) / 4))
    else if 0xC00 ≤ o ∧ o < 0xD80 ∧ o % 8 = 0 then some (8, h.stackWord ((o - 0xC00) / 8))
    else if 0x1000 ≤ o ∧ o < 0x2000 ∧ o % 32 = 0 then some (32, leNat (NMap.getD h.log ((o - 0x1000) / 32) []))
    else none

/-! ## Power (R510, R511) -/

/-- PWR_STATUS. -/
def State.powerStatus (s : State) : Nat :=
  let p := s.power
  b2n (s.throttleCause != 0) + 4 * b2n (feedOk p.feedA) + 8 * b2n (feedOk p.feedB) + 2 ^ 5 * b2n p.hub4 +
    2 ^ 8 * b2n p.throttlePin + 2 ^ 9 * b2n s.actsCap + 2 ^ 10 * b2n s.actsThermal + 2 ^ 11 * b2n s.actsCurrent

/-- A feed's current in 0.1 A as shown: in steps of what 10 W draws at its voltage (R511). -/
def State.feedCurrent (s : State) (key mV v : Nat) : Nat :=
  if !s.sec.coarse then v
  else
    match s.sec.shownPower with
    | some m => NMap.getD m key 0
    | none => if mV = 0 then 0 else v * mV / 100000 * 100000 / mV

/-- PWR_CLUSTER of a physical cluster: rail power and measured voltage are free measurements (log entry 7), the rate is the
cluster's (R22, R23); under a confidential job voltages and rates are module means (R468, R511). -/
def State.clusterPower (s : State) (p : Nat) : Nat :=
  let r := s.power.rails.getD p {}
  let k := 0x100 + 8 * p
  let mean := fun (key v m : Nat) => if s.sec.coarse then s.coarsePower key 1 m else v
  mean 0x92 r.v s.meanSetpoint + mean 0x91 (s.reading 0 10) (s.reading 0 10) * 2 ^ 10 +
    mean 0x90 (r.rate (Config.freeNat (s.freeCtr + 1))) (s.meanRate 6) % 2 ^ 12 * 2 ^ 20 + s.coarsePower (k + 4) 20 r.tj % 2 ^ 10 * 2 ^ 32 +
    s.coarsePower (k + 5) 10 (s.reading 2 16) * 2 ^ 42

/-- PWR_HUB: hub temperature and power are free measurements (log entry 7). -/
def State.hubPower (s : State) (h : Nat) : Nat :=
  let k := 0x300 + 8 * h
  s.coarsePower k 20 (s.reading 3 10) + s.coarsePower (k + 2) 20 (s.hubHbm h) % 2 ^ 10 * 2 ^ 10 +
    s.coarsePower (k + 3) 10 (s.reading 5 16) * 2 ^ 20

/-- The PWR_ window. -/
def State.powerReg (s : State) (o : Nat) : Option (Nat × Nat) :=
  let p := s.power
  match o with
  | 0x00 => some (4, s.powerStatus)
  | 0x04 => some (4, p.cap)
  | 0x08 => some (4, p.setpoint)
  | 0x0C => some (4, s.shownInput.1)
  | 0x10 => some (4, p.feedA / 10 % 2 ^ 16 + s.feedCurrent 0x12 p.feedA (s.reading 0 16) * 2 ^ 16)
  | 0x14 => some (4, p.feedB / 10 % 2 ^ 16 + s.feedCurrent 0x16 p.feedB (s.reading 0 16) * 2 ^ 16)
  | 0x18 => some (4, s.shownCoolant.1)
  | 0x1C => some (4, p.glitches.1 + p.glitches.2 * 2 ^ 16)
  | 0x20 => some (8, p.ticks / 100)
  | 0x30 => some (4, p.cfgResult * 2 + 2 ^ 4 * b2n s.cfgHeld)
  | _ =>
    if 0x100 ≤ o ∧ o < 0x210 ∧ o % 8 = 0 then some (8, s.clusterPower ((o - 0x100) / 8))
    else if 0x300 ≤ o ∧ o < 0x340 ∧ o % 8 = 0 then some (8, s.hubPower ((o - 0x300) / 8))
    else if 0x1000 ≤ o ∧ o < 0x3000 ∧ o % 4 = 0 then some (4, memWord p.stage (o - 0x1000) 4)
    else none

/-! ## Security, life-cycle and firmware (R450, R477) -/

/-- LC_STATE (R477). -/
def Fuses.lcState (f : Fuses) : Nat := f.state + b2n f.killData * 2 ^ 8 + b2n f.debugOpen * 2 ^ 9

/-- A firmware value that a confidential job's run shows as of the last refresh (R450, R468). -/
def State.fwShown (s : State) (key v : Nat) : Nat :=
  match s.sec.coarse, s.sec.shown with
  | true, some m => NMap.getD m key 0
  | _, _ => v

/-- The firmware block (R450). -/
def State.fwReg (s : State) (o : Nat) : Option (Nat × Nat) :=
  let f := s.fw
  match o with
  | 0x00 => some (8, f.heartwood.version + f.heartwood.svn * 2 ^ 32)
  | 0x08 => some (8, match f.sapwood with
      | some i => i.version + i.svn % 2 ^ 31 * 2 ^ 32 + b2n i.fallback * 2 ^ 63
      | none => 0)
  | 0x10 => some (4, f.kind * 2 + b2n f.busy * 2 ^ 3)
  | 0x14 => some (4, f.result + f.updates % 2 ^ 16 * 2 ^ 16)
  | 0x18 => some (8, s.fwShown 0x2E0018 f.restarts)
  | 0x20 => some (8, f.takeovers)
  | _ =>
    if 0x40 ≤ o ∧ o < 0xD8 ∧ o % 4 = 0 then
      let c := s.fwCore ((o - 0x40) / 4)
      some (4, c.state + c.role * 2 ^ 8 + s.fwShown (0x2E0000 + o) c.restarts * 2 ^ 16)
    else none

/-- The SEC_ and LC_ windows (R477). -/
def State.secReg (s : State) (o : Nat) : Option (Nat × Nat) :=
  let x := s.sec
  let c := s.cfg
  match o with
  | 0x00 => some (4, b2n (c.flags.testBit 1) + 2 * b2n (c.flags.testBit 2) + c.anchors.length * 2 ^ 4 + c.opKeys.length * 2 ^ 8)
  | 0x04 => some (4, b2n x.coarse)
  | 0x08 => some (4, s.fuses.svnHeart + s.fuses.svnSap * 2 ^ 8)
  | 0x0C => some (4, 0)
  | 0x10 => some (8, x.scrub)
  | 0x18 => some (8, x.tagRepairs)
  | 0x20 => some (8, x.sessions)
  | 0x28 => some (8, x.rekeys)
  | 0x100 => some (4, s.fuses.lcState)
  | 0x108 => some (32, x.nonce.toNat)
  | 0x128 => some (4, x.target * 2 ^ 4)
  | 0x12C => some (4, x.lcResult)
  | _ =>
    if 0x8000 ≤ o ∧ o < 0xC000 ∧ o % 4 = 0 then some (4, memWord x.token (o - 0x8000) 4)
    else if 0x10000 ≤ o then s.fwReg (o - 0x10000)
    else none

/-! ## BAR0 (R408) -/

/-- First byte of ring memory in BAR0, and the end of BAR0 (R405, R408). -/
def ringMemAt : Nat := 0x2000000

/-- A block of BAR0: where it lies and how it reads. -/
def State.readReg (s : State) (p : Port) (off : Nat) : Option (Nat × Nat) :=
  let h := s.port p
  if off < 0x10000 then s.hostReg p off
  else if off < 0x14000 then (h.ringSet ((off - 0x10000) / 0x100)).reg (off % 0x100)
  else if off < 0x20000 then none
  else if off < 0x60000 then (if off % 0x1000 = 0 ∨ off % 0x1000 = 4 ∨ off % 0x1000 = 8 then some (4, 0) else none)
  else if off < 0x62000 then h.msixReg (off - 0x60000)
  else if off < 0x80000 then none
  else if off < 0x90000 then h.emuReg (off - 0x80000)
  else if off < 0x100000 then none
  else if off < 0x101000 then s.slotReg ((off - 0x100000) / 0x40) (off % 0x40)
  else if off < 0x103000 then s.jobCounter p ((off - 0x101000) / 0x80) (off % 0x80)
  else if off < 0x104000 then s.deviceReg p (off - 0x103000)
  else if off < 0x105000 then s.clusterReg p (off - 0x104000)
  else if off < 0x180000 then none
  else if off < 0x200000 then s.coreReg p (off - 0x180000)
  else if off < 0x280000 then s.pgtReg p (off - 0x200000)
  else if off < 0x284000 then (if off % 4 = 0 then some (4, 0) else none)
  else if off < 0x290000 then none
  else if off < 0x2A0000 then s.streamReg p (off - 0x290000)
  else if off < 0x2A4000 then s.linkReg (off - 0x2A0000)
  else if off < 0x2A5000 then s.herdReg (off - 0x2A4000)
  else if off < 0x2B0000 then none
  else if off < 0x2C0000 then s.healthReg (off - 0x2B0000)
  else if off < 0x2D0000 then s.powerReg (off - 0x2C0000)
  else if off < 0x2F0000 then s.secReg (off - 0x2D0000)
  else none

/-! ## Coarse refreshes (R468, R469) -/

/-- COARSE_REFRESH (R469): while a confidential job runs. -/
def execCoarseRefresh (k : CoarseKind) (s : State) : Host.Outcome State Fault Refusal :=
  .next (
    if !s.sec.coarse then s
    else
      match k with
      | .counters => { s with sec := { s.sec with shown := some s.refreshed } }
      | .readings =>
        { s with sec := { s.sec with shownPower := some s.refreshedPower }, power := { s.power with summed := (0, 0) }
                 freeCtr := s.freeCtr + 91 })

end Sys2Proof.Machine
end

