-- ==== Sys2Proof/Machine/Regs.lean ====
section
/-! DEFINITION. Register writes through BAR0, and the same registers reached from elsewhere: the EMU_ block, the management
network and FIRMWARE packets (R10, R408, R429 to R431). -/

namespace Sys2Proof.Machine

/-! ## Writes (R10, R408 to R411, R413) -/

/-- The state that a command ends in, where it ends in one. -/
def ranTo (s : State) (o : Host.Outcome State Fault Refusal) : State :=
  match o with
  | .next t => t
  | .fault _ => s
  | .refused _ => s

/-- Store a whole register of the HOST_ block (R410). -/
def State.writeHost (s : State) (p : Port) (o : Nat) (v : W64) : State :=
  let w : W32 := v.setWidth 32
  let h := s.port p
  match o with
  | 0x18 => s.writeDriver p w
  | 0x28 => s.writeLease p w
  | 0x30 => ranTo s (execBar2Enable p w s)
  | 0x38 => s.setPort p { h with bar2Base := v &&& 0xFFFFFFFFFFE00000 }
  | 0x40 => s.setPort p { h with streamBase := w &&& 0xFFFFFE00 }
  | _ => s

/-- Store a register of a ring set block (R411, R412): the bases and RING_SIZES hold while the set runs. -/
def State.writeRing (s : State) (p : Port) (set o : Nat) (v : W64) : State :=
  let w : W32 := v.setWidth 32
  let r := s.ring p set
  let idle := fun (x : RingSet) => if r.enabled then s else s.setRing p set x
  match o with
  | 0x00 =>
    if bit w 0 then s.enableRing p set w
    else s.setRing p set { r.disabled with control := (w &&& 6) ||| (if r.enabled then r.control &&& 8 else w &&& 8) }
  | 0x04 => s.setRing p set { r with bad := r.bad && !bit w 10 }
  | 0x08 => idle { r with sqBase := v }
  | 0x10 => idle { r with cqBase := v }
  | 0x18 => idle { r with eqBase := v }
  | 0x20 => idle { r with sizes := w &&& 0x1F1F1F }
  | 0x24 => s.setRing p set { r with irq := w &&& 0xFFFF00FF }
  | 0x38 => s.setRing p set { r with shadow := v }
  | _ => s

/-- A doorbell (R413). -/
def State.writeDoorbell (s : State) (p : Port) (set o : Nat) (w : W32) : State :=
  if o = 0 then s.sqDoorbell p set w else if o = 4 then s.cqDoorbell p set w else s.eqDoorbell p set w

/-- A word of the MSI-X table; an entry unmasked while its bit is pending sends its message (R420, log entry 23). -/
def State.writeMsix (s : State) (p : Port) (o : Nat) (w : W32) : State :=
  if 129 * 16 ≤ o then s
  else
    let h := s.port p
    let h := { h with msixTbl := NMap.put h.msixTbl (o / 4) w.toNat }
    s.setPort p (if o / 4 % 4 = 3 && h.msixPba.contains (o / 16) then h.signal (o / 16) else h)

/-- A FIRMWARE packet (R380, R430). -/
def firmwarePacket (own dest chan op port off len seq : Nat) (payload : List Byte) : Packet :=
  { packetTo own dest 0 0x10 chan with
    opA := BitVec.ofNat 64 (off % 2 ^ 26 + port % 2 * 2 ^ 26 + op * 2 ^ 28), opB := BitVec.ofNat 64 (len + seq * 2 ^ 32), payload }

/-- The next sequence number of a port's EMU_ block; the two ports of a module never share one. -/
def HostPort.emuNext (h : HostPort) (p : Port) : Nat := (2 * h.emuSeq + portNum p) % 2 ^ 32

/-- Send an aperture access to the target (R431): 1 READ, 2 WRITE. -/
def State.emuSend (s : State) (p : Port) (op o : Nat) (payload : List Byte) : State :=
  let h := s.port p
  let seq := h.emuNext p
  let h := { h with emuSeq := h.emuSeq + 1
                    emuReads := if op = 1 then h.emuReads ++ [seq] else h.emuReads
                    emuWrites := if op = 2 then h.emuWrites ++ [seq] else h.emuWrites }
  let s := s.setPort p h
  s.sendPacket (firmwarePacket s.herd.addr (fld h.emuTarget 0 16) 1 op (fld h.emuTarget 16 1) (h.emuBase.toNat + (o - 0x8000)) 4 seq payload)

/-- Store a register of the EMU_ block (R431). -/
def State.writeEmu (s : State) (p : Port) (o : Nat) (w : W32) : State :=
  let h := s.port p
  match o with
  | 0x00 => s.setPort p { h with emuTarget := w &&& 0x1FFFF }
  | 0x08 => s.setPort p { h with emuBase := w &&& 0xFFFF8000 }
  | 0x0C => s.setPort p { h with emuTimeout := h.emuTimeout && !bit w 2, emuRefused := h.emuRefused && !bit w 1 }
  | _ => if 0x8000 ≤ o then s.emuSend p 2 o (leBytes 4 w.toNat) else s

/-- Store a register of the PWR_ window (R508, R510). -/
def State.writePower (s : State) (o : Nat) (w : W32) (viaMgmt : Bool) : State :=
  match o with
  | 0x04 => ranTo s (execPwrCap w s)
  | 0x08 => ranTo s (execPwrSetpoint w s)
  | 0x30 => if bit w 0 then ranTo s (execPwrConfigGo viaMgmt s) else s
  | _ =>
    if 0x1000 ≤ o ∧ o < 0x3000 then
      { s with power := { s.power with stage := memWrite s.power.stage (o - 0x1000) (leBytes 4 w.toNat) } }
    else s

/-- LC_REQUEST: TARGET is stored, then NONCE and GO act (R477). -/
def State.writeLc (s : State) (w : W32) (viaMgmt : Bool) : State :=
  let s := { s with sec := { s.sec with target := fld w 4 3 } }
  let s := if bit w 0 then ranTo s (execLcRequestNonce s) else s
  if bit w 1 then ranTo s (execLcRequestGo viaMgmt s) else s

/-- SEC_FW_UPDATE: KIND is stored, then GO acts (R450). -/
def State.writeUpdate (s : State) (w : W32) : State :=
  let s := { s with fw := { s.fw with kind := fld w 1 2 } }
  if bit w 0 then s.goUpdate (fld w 1 2) else s

/-- Store a register of the SEC_ and LC_ windows (R450, R459, R477). -/
def State.writeSec (s : State) (o : Nat) (w : W32) (viaMgmt : Bool) : State :=
  match o with
  | 0x0C =>
    let s := if bit w 0 then ranTo s (execSecSvnCommitHeartwood s) else s
    if bit w 1 then ranTo s (execSecSvnCommitSapwood s) else s
  | 0x128 => s.writeLc w viaMgmt
  | 0x10010 => s.writeUpdate w
  | _ =>
    if 0x8000 ≤ o ∧ o < 0xC000 then
      { s with sec := { s.sec with token := memWrite s.sec.token (o - 0x8000) (leBytes 4 w.toNat) } }
    else s

/-- A write to an owner-only counter window at the port that does not own the job is dropped and counted; at the owner's it is one
to registers that no write changes (R10, R409). -/
def State.ownerWrite (s : State) (p : Port) (foreign : Bool) : State := if foreign then s.hostCount p 0x70 else s

/-- The slot holds a loaded job of the other port. -/
def State.foreignSlot (s : State) (p : Port) (k : Nat) : Bool := (s.job k).info.state.loaded && (s.job k).info.owner != p

/-- The running job is the other port's. -/
def State.foreignRun (s : State) (p : Port) : Bool := (s.seenJob (portOther p)).isSome

/-- A whole-register write acts as its register states (R10, R408). -/
def State.storeReg (s : State) (p : Port) (off : Nat) (v : W64) (viaMgmt : Bool) : State :=
  let w : W32 := v.setWidth 32
  if off < 0x10000 then s.writeHost p off v
  else if off < 0x14000 then s.writeRing p ((off - 0x10000) / 0x100) (off % 0x100) v
  else if off < 0x60000 then s.writeDoorbell p ((off - 0x20000) / 0x1000) (off % 0x1000) w
  else if off < 0x62000 then s.writeMsix p (off - 0x60000) w
  else if off < 0x90000 then s.writeEmu p (off - 0x80000) w
  else if off < 0x101000 then s
  else if off < 0x103000 then s.ownerWrite p (s.foreignSlot p ((off - 0x101000) / 0x80))
  else if off < 0x200000 then s.ownerWrite p (s.foreignRun p)
  else if off < 0x240000 then s.pgtStage p (off - 0x200000) w
  else if off = 0x240000 then s.pgtPublish p w
  else if off = 0x240004 then s.pgtIgnored p
  else if off < 0x280000 then s
  else if off < 0x284000 then s.semAdd p ((off - 0x280000) / 4) w
  else if off < 0x2A0000 then s
  else if off < 0x2A4000 then
    let n := (off - 0x2A0000) / 0x100
    if off % 0x100 = 4 then (if bit w 0 then s.adminDown n else s.adminUp n) else s
  else if off < 0x2C0000 then s
  else if off < 0x2D0000 then s.writePower (off - 0x2C0000) w viaMgmt
  else if off < 0x2F0000 then s.writeSec (off - 0x2D0000) w viaMgmt
  else s

/-- Write ring memory (R408, R412). -/
def State.writeRingMem (s : State) (p : Port) (off : Nat) (bs : List Byte) : State :=
  let h := s.port p
  s.setPort p { h with ringMem := memWrite h.ringMem (off - ringMemAt) bs }

/-- The register of BAR0 that a byte lies in: its offset, its width in bytes and its value. Registers begin at multiples of 4. -/
def State.covering (s : State) (p : Port) (off : Nat) : Option (Nat × Nat × Nat) :=
  ((List.range 8).filterMap (fun i =>
    let at' := off / 4 * 4 - 4 * i
    if decide (4 * i ≤ off) then
      match s.readReg p at' with
      | some (n, v) => if off < at' + n then some (at', n, v) else none
      | none => none
    else none)).head?

/-- The bytes of a write meet some register (R10, R408). -/
def State.meets (s : State) (p : Port) (off width : Nat) : Bool :=
  (List.range width).any (fun d => decide (off + d < ringMemAt) && (s.covering p (off + d)).isSome)

/-- A write to an offset of BAR0 (R10, R12): a write of a width other than the register's own is ignored and counted, also where it
begins inside a register; reserved offsets ignore writes. Ring memory takes any width. -/
def State.writeReg (s : State) (p : Port) (off : Nat) (data : List Byte) (viaMgmt : Bool) : State :=
  if !s.powered then s
  else if ringMemAt ≤ off then s.writeRingMem p off data
  else
    match s.readReg p off with
    | none => if s.meets p off data.length then s.hostCount p 0x48 else s
    | some (n, _) =>
      if data.length = n then s.storeReg p off (BitVec.ofNat 64 (leNat (data.take 8))) viaMgmt else s.hostCount p 0x48

/-- REGISTER_WRITE (R10). -/
def execRegisterWrite (p : Port) (off width v : Nat) (s : State) : Host.Outcome State Fault Refusal :=
  checked s (decide (off + width ≤ 2 ^ 26)) (s.writeReg p off (leBytes width v) false)

/-! ## Ranges of registers (R429) -/

/-- What hardware corrects in line is counted alone (R396, R482, R496): peat words, soft repairs, and the FEC code words of each UP
link, by free numbers since the last read, the `n`th draw on (log entry 7). -/
def State.corrections (s : State) (n : Nat) : State :=
  let draw := fun (i : Nat) => Config.freeNat (s.freeCtr + n + i)
  let fec := fun (e : Link × Nat) =>
    if e.1.state == .up then (e.1.count 0x20 (draw (2 + 2 * e.2))).count 0x28 (draw (3 + 2 * e.2)) else e.1
  (({ s with links := s.links.zipIdx.map fec } : State).healthCount 0x40 (draw 0)).healthCount 0x50 (draw 1)

/-- A read looks at the port's island, and draws what hardware has counted and the free measurements it may show. -/
def State.afterRead (s : State) (p : Port) : State :=
  let (_, s) := s.look (portIsland p)
  let s := s.corrections 40
  { s with freeCtr := s.freeCtr + 138 }

/-- Four bytes of BAR0 at an aligned offset: of ring memory, or of the register that they lie in. -/
def State.readWord (s : State) (p : Port) (off : Nat) : List Byte :=
  if ringMemAt ≤ off then memRead (s.port p).ringMem (off - ringMemAt) 4
  else
    match s.covering p off with
    | some (at', _, v) => leBytes 4 (v / 2 ^ (8 * (off - at')))
    | none => leBytes 4 0

/-- A range of `n` words. -/
def State.readWords (s : State) (p : Port) (off n : Nat) : List Byte := (List.range n).flatMap (fun i => s.readWord p (off + 4 * i))

/-- A written range splits no register. -/
def State.wholeRegs (s : State) (p : Port) (off len : Nat) : Bool :=
  (decide (ringMemAt ≤ off) || (s.covering p off).all (fun r => r.1 == off)) &&
    (decide (ringMemAt ≤ off + len - 4) || (s.covering p (off + len - 4)).all (fun r => decide (r.1 + r.2.1 ≤ off + len)))

/-- Write a range, register by register (R10, R429). -/
def State.writeWords (s : State) (p : Port) (off : Nat) (data : List Byte) (viaMgmt : Bool) (fuel : Nat) : State :=
  match fuel with
  | 0 => s
  | k + 1 =>
    if data = [] then s
    else
      let n := if ringMemAt ≤ off then 4 else ((s.readReg p off).map (·.1)).getD 4
      (s.writeReg p off (data.take n) viaMgmt).writeWords p (off + n) (data.drop n) viaMgmt k

/-- Serve a request at a port's BAR0 view (R429): the operation of the answer and its data. ERROR reasons are 1 BAD_OFFSET and 2
BAD_WIDTH; a write that splits a wider register is ignored and counted too (R10). -/
def State.serve (s : State) (op : Nat) (p : Port) (off len limit : Nat) (data : List Byte) (viaMgmt : Bool) :
    Nat × List Byte × State :=
  if 2 ^ 26 < off + len then (4, leBytes 4 1, s)
  else if len % 4 ≠ 0 ∨ len < 4 ∨ limit < len ∨ off % 4 ≠ 0 then (4, leBytes 4 2, s)
  else if op = 1 then
    let s := s.afterRead p
    (3, s.readWords p off (len / 4), s)
  else if data.length ≠ len then (4, leBytes 4 2, s)
  else if !s.wholeRegs p off len then (4, leBytes 4 2, s.hostCount p 0x48)
  else (3, [], s.writeWords p off data viaMgmt (len / 4))

/-- The answer given before to a request of a source (R429). -/
def State.answered (s : State) (src seq : Nat) : Option (List Byte) :=
  (s.herd.fwSeen.find? (fun e => e.1 == src && e.2.1 == seq)).map (fun e => e.2.2)

/-- Remember an answer: the last 1,024 sequence numbers of each source (R429). -/
def State.remember (s : State) (src seq : Nat) (a : List Byte) : State :=
  let mine := (s.herd.fwSeen.filter (fun e => e.1 == src)) ++ [(src, seq, a)]
  let rest := s.herd.fwSeen.filter (fun e => e.1 != src)
  { s with herd := { s.herd with fwSeen := rest ++ mine.drop (mine.length - 1024) } }

/-- Serve a request once per source and sequence, and answer a repeated one as before (R429). The answer is the operation in
its first byte, then the data. -/
def State.serveOnce (s : State) (src seq op : Nat) (p : Port) (off len limit : Nat) (data : List Byte) (viaMgmt : Bool) :
    List Byte × State :=
  match s.answered src seq with
  | some a => (a, s)
  | none =>
    let (r, bs, s) := s.serve op p off len limit data viaMgmt
    let a := leBytes 1 r ++ bs
    (a, s.remember src seq a)

/-! ## Reads that reach through the aperture (R429, R431) -/

/-- The words of a range that lie in the EMU_APERTURE, by their place in the range. -/
def apertureWords (off len : Nat) : List Nat :=
  (List.range (len / 4)).filter (fun i => decide (0x88000 ≤ off + 4 * i) && decide (off + 4 * i < 0x90000))

/-- A READ that can be served and takes in words of the aperture. -/
def throughAperture (op off len limit : Nat) : Bool :=
  op == 1 && decide (off + len ≤ 2 ^ 26) && len % 4 == 0 && decide (len ≤ limit) && off % 4 == 0 && apertureWords off len != []

/-- Forward a READ's words of the aperture, in order; its answer waits for theirs. A repeat of a READ that waits asks nothing. -/
def State.askAperture (s : State) (x : ApWait) : State :=
  if s.herd.apWaits.any (fun y => y.src == x.src && y.seq == x.seq) then s
  else
    let (s, rs) := (apertureWords x.off x.len).foldl (fun (z : State × List (Nat × Nat × Option (List Byte))) i =>
      let n := (z.1.port x.port).emuNext x.port
      (z.1.emuSend x.port 1 (x.off + 4 * i - 0x80000) [], z.2 ++ [(i, n, none)])) (s.afterRead x.port, [])
    { s with herd := { s.herd with apWaits := s.herd.apWaits ++ [{ x with reads := rs }] } }

/-- The bytes of a READ whose words of the aperture have all been answered. -/
def State.apertureData (s : State) (x : ApWait) : List Byte :=
  (List.range (x.len / 4)).flatMap (fun i =>
    match x.reads.find? (fun r => r.1 == i) with
    | some (_, _, v) => v.getD (leBytes 4 0)
    | none => s.readWord x.port (x.off + 4 * i))

/-! ## The management network (R429, R465) -/

/-- The session of a management port. -/
def State.mgmtSession (s : State) (p : Port) : Session :=
  match p with
  | .a => s.sec.mgmtA
  | .b => s.sec.mgmtB

/-- The header of a management message before its session tag: operation, port, length, offset and sequence (R429). -/
def wemuHead (m : WemuMsg) (op : List Byte) : List Byte :=
  ascii "WEMU" ++ op ++ leBytes 1 (portNum m.port) ++ leBytes 2 m.len ++ leBytes 4 m.off ++ leBytes 4 m.seq

/-- The answer on the management network: the header, its session tag and the data sealed under the response key (R429,
R465). -/
def wemuAnswer (x : Session) (m : WemuMsg) (a : List Byte) : List Byte :=
  let bs := a.drop 1
  let head := wemuHead m (a.take 1)
  let body := Config.gcmSeal x.keyD2h m.seq (head ++ leBytes 16 0) bs
  head ++ padTo 16 (body.drop bs.length) ++ padTo bs.length body

/-- The plaintext of a request's data under the session's request key, its header with the tag taken as zero authenticated with it; none
where the tag fails (R465). -/
def Session.opens (x : Session) (m : WemuMsg) : Option (List Byte) :=
  Config.gcmOpen x.keyH2d m.seq (wemuHead m (leBytes 1 m.op) ++ leBytes 16 0) (m.data ++ m.tag)

/-- A request on a management port (R429): served by sapwood within an established session; a message whose tag fails is
discarded without answer (R465), and a request waits while the power core is down (R444). -/
def State.wemu (s : State) (p : Port) (op : Nat) (m : WemuMsg) : State :=
  let x := s.mgmtSession p
  if !(s.powered && s.fw.sapwood.isSome && x.up && m.op == op) then s
  else
  match x.opens m with
  | none => s
  | some data =>
  if !s.roleServes 2 then s.hold (.wemu p op m)
  else
    let src := 2 ^ 16 + portNum p + 2 * x.epoch
    if throughAperture op m.off m.len 1024 && (s.answered src m.seq).isNone then
      s.askAperture { src, seq := m.seq, port := m.port, off := m.off, len := m.len, msg := some (p, m) }
    else
    let (a, s) := s.serveOnce src m.seq op m.port m.off m.len 1024 data true
    { s with sec := { s.sec with replies := s.sec.replies ++ [(p, wemuAnswer x m a)] } }

/-- WEMU_READ (R429). -/
def execWemuRead (p : Port) (m : WemuMsg) (s : State) : Host.Outcome State Fault Refusal := .next (s.wemu p 1 m)

/-- WEMU_WRITE (R429). -/
def execWemuWrite (p : Port) (m : WemuMsg) (s : State) : Host.Outcome State Fault Refusal := .next (s.wemu p 2 m)

/-! ## The herd (R430, R431) -/

/-- The answer to a request of a herd module (R430). -/
def State.firmwareReply (s : State) (q : Packet) (a : List Byte) : State :=
  s.sendPacket (firmwarePacket s.herd.addr q.src 2 (leNat (a.take 1)) (fld q.opA 26 1) (fld q.opA 0 26) (fld q.opB 0 16)
    (fld q.opB 32 32) (a.drop 1))

/-- A READ through the aperture is answered, and its answer remembered (R429). -/
def State.apertureReply (s : State) (x : ApWait) : State :=
  let a := leBytes 1 3 ++ s.apertureData x
  let s := s.remember x.src x.seq a
  match x.msg, x.packet with
  | some (p, m), _ => { s with sec := { s.sec with replies := s.sec.replies ++ [(p, wemuAnswer (s.mgmtSession p) m a)] } }
  | _, some q => s.firmwareReply q a
  | _, _ => s

/-- A word of the aperture has its value: READs that wait for nothing more are answered. -/
def State.apertureGives (s : State) (seq : Nat) (bs : List Byte) : State :=
  let ws := s.herd.apWaits.map (fun x =>
    { x with reads := x.reads.map (fun r => if r.2.1 = seq ∧ r.2.2 = none then (r.1, r.2.1, some bs) else r) })
  let full := fun (x : ApWait) => x.reads.all (fun r => r.2.2.isSome)
  (ws.filter full).foldl (fun (s : State) x => s.apertureReply x)
    { s with herd := { s.herd with apWaits := ws.filter (fun x => !full x) } }

/-- An access through the aperture is some READ's, not the host's own. -/
def State.apertureAsked (s : State) (seq : Nat) : Bool := s.herd.apWaits.any (fun x => x.reads.any (fun r => r.2.1 == seq))

/-- An aperture access is answered: a read returns its value, an error reads 0 and is counted (R431). -/
def State.emuAnswer (s : State) (seq op : Nat) (data : List Byte) : State :=
  let p := portOf seq
  let h := s.port p
  let isRead := h.emuReads.contains seq
  if !(isRead || h.emuWrites.contains seq) then s
  else
    let bad := op == 4
    let h := { h with emuReads := h.emuReads.filter (· != seq), emuWrites := h.emuWrites.filter (· != seq)
                      emuRefused := h.emuRefused || bad, emuErrors := min (2 ^ 64 - 1) (h.emuErrors + b2n bad)
                      reply := if isRead && !s.apertureAsked seq then (if bad then leBytes 4 0 else data.take 4) else h.reply }
    (s.setPort p h).apertureGives seq (if bad then leBytes 4 0 else data.take 4)

/-- A request from a controller is served and answered on channel 2; another's is answered NOT_CONTROLLER (R429, R430). -/
def State.firmwareRequest (s : State) (q : Packet) : State :=
  let op := fld q.opA 28 4
  let off := fld q.opA 0 26
  let len := fld q.opB 0 16
  let seq := fld q.opB 32 32
  let p := portOf (fld q.opA 26 1)
  if !s.cfg.controllers.contains q.src then s.firmwareReply q (leBytes 1 4 ++ leBytes 4 3)
  else if throughAperture op off len 4096 && (s.answered q.src seq).isNone then
    s.askAperture { src := q.src, seq, port := p, off, len, packet := some q }
  else
    let (a, s) := s.serveOnce q.src seq op p off len 4096 q.payload false
    s.firmwareReply q a

/-- PACKET_FIRMWARE (R430): requests 1 and 2 are served while sapwood runs, a request waiting while
the power core is down (R444); answers 3 and 4 end aperture accesses. -/
def State.firmware (s : State) (q : Packet) : State :=
  let t := s.takePacket q
  t.receipt q t (
    let s := t.received q
    let op := fld q.opA 28 4
    if op = 3 ∨ op = 4 then s.emuAnswer (fld q.opB 32 32) op q.payload
    else if (op = 1 ∨ op = 2) ∧ s.powered ∧ s.fw.sapwood.isSome then
      if s.roleServes 2 then s.firmwareRequest q else s.hold (.firmware q)
    else s)

def execPacketFirmware (p : Packet) (s : State) : Host.Outcome State Fault Refusal := checked s (p.type == 0x10) (s.firmware p)

/-- An offset of the aperture (R431). -/
def apertureOk (o : Nat) : Bool := decide (0x8000 ≤ o) && decide (o < 0x10000) && o % 4 == 0

/-- EMU_APERTURE_READ (R431): completes when the answer returns. -/
def execEmuApertureRead (p : Port) (off : Nat) (s : State) : Host.Outcome State Fault Refusal :=
  checked s (apertureOk off) (if s.powered then s.emuSend p 1 off [] else s)

/-- EMU_APERTURE_WRITE (R431): posted, and forwarded in order. -/
def execEmuApertureWrite (p : Port) (off : Nat) (v : W32) (s : State) : Host.Outcome State Fault Refusal :=
  checked s (apertureOk off) (if s.powered then s.emuSend p 2 off (leBytes 4 v.toNat) else s)

/-- EMU_READ_TIMEOUT (R431): the oldest aperture read went unanswered for 2 ms, and reads 0. -/
def execEmuReadTimeout (p : Port) (s : State) : Host.Outcome State Fault Refusal :=
  .next (
    let h := s.port p
    match h.emuReads with
    | [] => s
    | n :: rest =>
      let own := !s.apertureAsked n
      (s.setPort p { h with emuReads := rest, emuTimeout := true, emuErrors := min (2 ^ 64 - 1) (h.emuErrors + 1)
                            reply := if own then leBytes 4 0 else h.reply }).apertureGives n (leBytes 4 0))

end Sys2Proof.Machine
end

