-- ==== Sys2Proof/Machine/Recovery.lean ====
section
/-! DEFINITION. What ends a firmware core's absence, and the requests that waited for it (R440, R441, R444). -/

namespace Sys2Proof.Machine

/-- 10 s of a fetch have gone. A start-up's gives way to the fallback sapwood, if a flash copy is accepted (R441); an update fails (R447).
Heartwood does either, once it serves (R446). -/
def State.fetchOver (s : State) (primaryOk mirrorOk : Bool) : State :=
  if !s.roleServes 0 then s.hold (.fetchOver primaryOk mirrorOk)
  else
    match s.fw.fetch.map (fun (f : Fetch) => f.purpose) with
    | some .sapwood => s.endUpdate 2
    | some .heartwood => s.endUpdate 2
    | _ =>
      if s.fw.sapwood.isSome then s
      else if s.fallbackOk primaryOk mirrorOk then
        ({ s with fw := { s.fw.started with fetch := none } } : State).setSapwood (some fallbackImage)
      else { s with fw := { s.fw with fetch := none } }

/-- Serve a request that waited; it waits on where its core is still down (R444). -/
def State.serveOne (s : State) (h : Held) : State :=
  match h with
  | .config viaMgmt => ranTo s (execPwrConfigGo viaMgmt s)
  | .update kind => s.goUpdate kind
  | .wemu p op m => s.wemu p op m
  | .firmware q => if s.roleServes 2 then s.firmwareRequest q else s.hold h
  | .cert src => ranTo s (execGetCert src s)
  | .report src nonce job => ranTo s (execGetReport src nonce job s)
  | .sessInit src ek nonce job => ranTo s (execSessionInit src ek nonce job s)
  | .sessFinish src confirm opKey opSig => ranTo s (execSessionFinish src confirm opKey opSig s)
  | .sessEnd src => ranTo s (execSessionEnd src s)
  | .recover n ok => s.fwRecovered n ok
  | .reload n => s.reloadPair n
  | .book a b => s.keepBook a b
  | .retire u => s.noteRetired u
  | .remap p i r => s.moveStages p i r
  | .spare n =>
    if !s.onFawn n then s
    else if s.remapWaits (s.health.map.getD n {}).cluster then s.hold (.spare n)
    else (s.moveToSpare n false).getD s
  | .svn heart v => s.commitSvn heart v
  | .nonce => s.drawNonce
  | .lifeCycle viaMgmt => s.lifeCycle viaMgmt
  | .fetchOver a b => s.fetchOver a b

/-- Serve listed requests in order. -/
def State.serveEach (s : State) (hs : List Held) : State :=
  match hs with
  | [] => s
  | h :: rest => (s.serveOne h).serveEach rest

/-- A firmware core may have begun to serve: the requests that waited are taken in order (R444). -/
def State.serveHeld (s : State) : State := ({ s with fw := { s.fw with held := [] } } : State).serveEach s.fw.held

/-- FW_RECOVERY_DONE (R444 to R446). -/
def execFwRecoveryDone (core : Nat) (ok : Bool) (s : State) : Host.Outcome State Fault Refusal :=
  checked s (fwCoreOk core) (s.fwRecovered core ok).serveHeld

/-- TFTP_BLOCK_RECEIVE: a first block of 512 B shows that the server did not acknowledge the option; a short block ends the
file (R440). -/
def execTftpBlockReceive (block : Nat) (data : List Byte) (s : State) : Host.Outcome State Fault Refusal :=
  .next (
    match s.fw.fetch with
    | none => s
    | some f =>
      if !s.roleServes 0 then s
      else
      let size := if f.block = 1 && data.length = 512 then 512 else f.size
      if block ≠ f.block % 65536 || size < data.length then s
      else
        let f := { f with size, data := f.data ++ data, block := f.block + 1, tries := 1 }
        if data.length < size then (s.fetched f).serveHeld else s.askBlock f)

/-- SAPWOOD_FETCH_TIMEOUT (R441, R447). -/
def execSapwoodFetchTimeout (primaryOk mirrorOk : Bool) (s : State) : Host.Outcome State Fault Refusal :=
  .next (s.fetchOver primaryOk mirrorOk).serveHeld

end Sys2Proof.Machine
end

