-- ==== Sys2Proof/Machine/Sems.lean ====
section
/-! DEFINITION. The semaphore instructions (R356 to R358). -/

namespace Sys2Proof.Machine

/-- Fields of a semaphore instruction that name registers and semaphores. -/
def fmtMOk (f : FmtM) : Bool :=
  decide (f.ra < 32) && decide (f.rb < 32) && decide (f.rc < 32) && decide (f.rd < 32) && decide (f.sem < 4096) &&
  decide (f.semb < 4096)

/-- The value v: RA + IMM modulo 2^32. -/
def semValue (f : FmtM) (c : Core) : W32 := (c.reg f.ra).setWidth 32 + f.imm

/-- A semaphore of the job. -/
def JobRun.sem (r : JobRun) (n : Nat) : W32 := NMap.getD r.sems n 0

/-- Set a semaphore. -/
def JobRun.setSem (r : JobRun) (n : Nat) (v : W32) : JobRun := { r with sems := NMap.put r.sems n v }

/-- The peer's herd address a register holds. -/
def peerOf (c : Core) (r : Nat) : Nat := (c.reg r).toNat % 65536

/-- An instruction whose effect lies outside its core. -/
def effectNone (j : Job) (c : Core) : Effect := .done { job := j, core := c }

/-- The SIGNAL packet of a core, ordered by its issuing core (R357, R380, R384). -/
def signalPacket (own id n : Nat) (f : FmtM) (c : Core) : Packet :=
  { packetTo own (peerOf c f.rb) id 0x02 1 with
    ordered := true, flow := n, opA := BitVec.ofNat 64 f.sem, opB := BitVec.ofNat 64 (semValue f c).toNat }

/-- A SIGNAL to another module waits at its core until its packet finds a link and credit units (R385). -/
def effectSignal (s : State) (n : Nat) (f : FmtM) (j : Job) (c : Core) : Effect :=
  if s.localPeer (peerOf c f.rb) || s.mayLeave (signalPacket s.herd.addr j.info.id n f c) then effectNone j c
  else .wait .signalFull j

/-- SIGNAL adds to the semaphore here, or sends a SIGNAL packet (R357, R380). -/
def State.signalOut (n : Nat) (f : FmtM) (k : Nat) (c : Core) (_ : Done) (s : State) : State :=
  if s.localPeer (peerOf c f.rb) then s.raiseSem k f.sem (semValue f c).toNat
  else s.sendPacket (signalPacket s.herd.addr (s.job k).info.id n f c)

def execSignal (n : Nat) (f : FmtM) (s : State) : Host.Outcome State Fault Refusal :=
  checked s (coreOk n && fmtMOk f) (s.retireThen n (wordM 0x18 f) (effectSignal s n f) (State.signalOut n f))

/-- WAIT: the semaphore must be at least v, unsigned; v is subtracted in the same step. -/
def effectWait (f : FmtM) (j : Job) (c : Core) : Effect :=
  let v := semValue f c
  let w := j.run.sem f.sem
  if w.ult v then .wait (.sem f.sem v) j
  else .done { job := { j with run := j.run.setSem f.sem (w - v) }, core := c }

def execWait (n : Nat) (f : FmtM) (s : State) : Host.Outcome State Fault Refusal :=
  checked s (coreOk n && fmtMOk f) (s.retire n (wordM 0x19 f) (effectWait f))

/-- A waiting WAIT subtracts and continues; its beats are not stated (R357, R369; log entry 7). -/
def execWaitSatisfied (n : Nat) (s : State) : Host.Outcome State Fault Refusal :=
  checked s (coreOk n) (
    match s.working n with
    | none => s
    | some k =>
      let j := s.job k
      let c := j.run.core n
      match c.wait with
      | .sem m v =>
        let w := j.run.sem m
        if w.ult v then s
        else
          let (b, s) := s.fresh
          let r := (j.run.setSem m (w - v)).setCore n { c with wait := .run, insn := c.insn + 1 }
          (s.setJob k { j with run := r }).jobCount k 0x28 b
      | _ => s)

def execSread (n : Nat) (f : FmtM) (s : State) : Host.Outcome State Fault Refusal :=
  checked s (coreOk n && fmtMOk f) (s.retire n (wordM 0x1A f) (fun j c =>
    .done { job := j, core := c.setReg f.rd ((j.run.sem f.sem).setWidth 64) }))

def execSset (n : Nat) (f : FmtM) (s : State) : Host.Outcome State Fault Refusal :=
  checked s (coreOk n && fmtMOk f) (s.retire n (wordM 0x1B f) (fun j c =>
    .done { job := { j with run := j.run.setSem f.sem (semValue f c) }, core := c }))

/-- What an RPASS names: source, destination, length, peer (R357). -/
def rpassOf (f : FmtM) (c : Core) : Nat × Nat × Nat × Nat :=
  ((c.reg f.ra).toNat, (c.reg f.rb).toNat, (c.reg f.rc).toNat, peerOf c f.rd)

/-- The address that a refused RPASS reports; none where it may go (R357). A bad length reports the source (log
entry 28). -/
def rpassFault (j : Job) (toSelf : Bool) (src dst len : Nat) : Option Nat :=
  if len % 65536 ≠ 0 || decide (64 * 2 ^ 20 < len) then some src
  else if src % 65536 ≠ 0 || (len ≠ 0 && !j.mapped src len) then some src
  else if dst % 65536 ≠ 0 || (toSelf && len ≠ 0 && !j.mapped dst len) then some dst
  else none

/-- RPASS: the checks at issue, then a place in its hub's engine, which has 16 (R357, R395). -/
def effectRpass (s : State) (n : Nat) (f : FmtM) (j : Job) (c : Core) : Effect :=
  let (src, dst, len, peer) := rpassOf f c
  match rpassFault j (s.localPeer peer) src dst len with
  | some a => .stop (.lane 0 a)
  | none => if 16 ≤ (s.engine (s.hubOf n)).length then .wait .rpassFull j else .done { job := j, core := c }

/-- A transfer joins its engine's queue. -/
def State.rpassQueue (n : Nat) (f : FmtM) (k : Nat) (c : Core) (_ : Done) (s : State) : State :=
  let (src, dst, len, peer) := rpassOf f c
  let e := s.hubOf n
  s.setEngine e (s.engine e ++ [{ slot := k, core := n, src, dst, len, peer, sem := f.sem, semb := f.semb, sent := 0
                                  msg := 0, started := false }])

def execRpass (n : Nat) (f : FmtM) (s : State) : Host.Outcome State Fault Refusal :=
  checked s (coreOk n && fmtMOk f) (s.retireThen n (wordM 0x1C f) (effectRpass s n f) (State.rpassQueue n f))

end Sys2Proof.Machine
end

