-- ==== Sys2Proof/Machine/Tiers.lean ====
section
/-! DEFINITION. The events of the memory tiers: the prefetcher, late data, heat, page moves, parity assembly and regulators
(R263 to R297). -/

namespace Sys2Proof.Machine

/-- A logical cluster's number (R14). -/
def clusterOk (cl : Nat) : Bool := decide (cl < 32)

/-- Let an event act on the tiers of the running job. -/
def State.onRunning (s : State) (f : Image → Acc → Acc) : State :=
  match s.sched.running with
  | some k => s.onTiers k f
  | none => s

/-! ## The run-ahead prefetcher (R286, R287) -/

/-- The tiles of an array command. -/
def Job.tileReads (j : Job) (sec : CoreSec) (c : Core) (f : FmtA) (m : OpBlk → Nat) : List Access :=
  let o := sec.opBlk f.operand
  (matPlan j.image sec o (precOf f.prec.toNat (j.forcedPrec c)) (m o)).reads c

/-- The units that an array, attention or scan instruction will consume, in its order (R286). -/
def Job.unitsOf (j : Job) (n : Nat) (c : Core) (i : Instr) : List Access :=
  let sec := j.image.sec n
  let attn := fun (qk : Bool) (f : FmtA) =>
    (j.attnCmd c (sec.attnBlk f.ctrl)).spanReads qk (c.reg f.span).toNat
  match i with
  | .matmul _ f => j.tileReads sec c f (fun o => (o.vectors c).getD 0)
  | .conv _ f =>
    let g := (sec.convBlk f.ctrl).geo j.image c
    j.tileReads sec c f (fun _ => g.pixels)
  | .fconv _ f => j.tileReads sec c f (fun _ => 1)
  | .qk _ f => attn true f
  | .pv _ f => attn false f
  | .scan _ f =>
    let b := sec.scanBlk f.ctrl
    (scanRows 0 (j.batchRows c)).flatMap (fun r => r.accesses b false)
  | _ => []

/-- The units of the instruction at an index. -/
def Job.unitsAt (j : Job) (n insn : Nat) (c : Core) : List Access :=
  match decodeInsn n ((j.image.sec n).wordAt insn) with
  | some i => j.unitsOf n c i
  | none => []

/-- The units ahead of a core: of the command it is at, and of the next in program order (R286). -/
def Job.unitsAhead (j : Job) (n : Nat) (c : Core) : List Access := j.unitsAt n c.insn c ++ j.unitsAt n (c.insn + 1) c

/-- The mapping page of an address: 2 MiB where the P6 maps it large, else 64 KiB. The spec gives no rule by which a page is mapped
large, so which are is free, but only where the 2 MiB lie in one tensor (R287; log entry 36). -/
def Job.mapPage (j : Job) (k a : Nat) : Nat × Nat :=
  let big := a / 2 ^ 21 * 2 ^ 21
  let whole := j.image.tensors.any (fun t => t.addr != 0 && decide (t.addr ≤ big) && decide (big + 2 ^ 21 ≤ t.addr + t.pages * 65536))
  if whole && Config.largePage k (a / 2 ^ 21) then (big, 2 ^ 21) else (a / 65536 * 65536, 65536)

/-- A unit lies where the prefetcher may read: in mapped pages, and in a confidential job within one page that the running command
has read on demand (R287). -/
def Job.mayPrefetch (j : Job) (k : Nat) (c : Core) (x : Access) : Bool :=
  let p := j.mapPage k x.addr
  j.mapped x.addr x.len &&
    (!j.info.confidential ||
      (decide (x.addr + x.len ≤ p.1 + p.2) && c.arrived.any (fun a => decide (p.1 ≤ a) && decide (a < p.1 + p.2))))

/-- Fetch a unit into the hinted cache with ordinary replacement. -/
def Acc.fetchUnit (a : Acc) (i : Image) (cl : Nat) (x : Access) : Acc :=
  (linesOf x.addr x.len).foldl (fun (a : Acc) u =>
    let mask := maskIn x.addr x.len u
    let t := a.tiers.tier cl
    if t.holds (u / 4096) mask then a
    else
      let a := a.peatRead cl (u / 4096) mask x.part
      match NMap.find t.cache (u / 4096) with
      | some l => a.setTier cl { a.tiers.tier cl with
          cache := NMap.put (a.tiers.tier cl).cache (u / 4096) { l with valid := l.valid ||| mask } }
      | none => a.install i cl (u / 4096) { valid := mask, tensor := i.tensorAt u, part := x.part }) a

/-- PREFETCH_ISSUE: the next unit that is not held is fetched, up to 16 for a core; a unit beyond what the prefetcher may
read stops it, which is counted in an open job (R286, R287, R295). It waits for request slots as every agent does (R276). -/
def State.prefetch (s : State) (k n : Nat) : State :=
  let j := s.job k
  let c := j.run.core n
  let t := s.tiers.tier (n / 16)
  if 16 ≤ c.ahead.length then s
  else
    match (j.unitsAhead n c).find? (fun x => !c.ahead.contains x.addr && !c.arrived.contains x.addr && !t.holdsAll x) with
    | none => s
    | some x =>
      if s.noSlot k (fun i a => a.fetchUnit i (n / 16) x) then s
      else if j.mayPrefetch k c x then
        let s := s.setCore k n { c with ahead := c.ahead ++ [x.addr] }
        s.onTiers k (fun i a => (a.fetchUnit i (n / 16) x).countCluster (n / 16) 0x38 1)
      else if j.info.confidential then s
      else s.onTiers k (fun _ a => a.countCluster (n / 16) 0x48 1)

def execPrefetchIssue (n : Nat) (s : State) : Host.Outcome State Fault Refusal :=
  checked s (coreOk n) (
    match s.working n with
    | some k => s.prefetch k n
    | none => s)

/-! ## Late data (R288, R456, R492) -/

/-- Peat words corrected and rows repaired since a core last got data of the stacks: free counts (R482, R490; log entry 64). -/
def State.hbmFixes (s : State) : State :=
  let f := Config.hbmFixes s.freeCtr
  (({ s with freeCtr := s.freeCtr + 1 } : State).healthCount 0x40 f.1).healthCount 0x50 f.2

/-- PEAT_DATA_RETURN: what core `n` waits for arrives and its beats are counted; a sector that fails its tag is rebuilt and
rewritten, or its unit is withheld. -/
def State.dataReturn (s : State) (k n : Nat) (tagBad rebuilt : Bool) : State :=
  let j := s.job k
  let c := j.run.core n
  match c.wait with
  | .peat a _ part =>
    if s.withheld k a 1 || !s.mayAnswer k (.core n) part then s
    else if tagBad && !rebuilt then
      (s.hbmFixes.setCore k n { c with wait := .held a }).loseData k (a / 4096)
    else
      let s := s.hbmFixes
      let s := if tagBad then { s with sec := { s.sec with tagRepairs := s.sec.tagRepairs + 1 } } else s
      let (v, s) := s.fresh
      let r := j.run.setCore n { c with wait := .run, arrived := c.arrived ++ [a] }
      let s := { s with sched := { s.sched with lateCount := s.sched.lateCount + 1 } }
      (s.setJob k { j with run := r.countCluster (n / 16) 0x58 v }).rampBack k n
  | _ => s

def execPeatDataReturn (n : Nat) (tagBad rebuilt : Bool) (s : State) : Host.Outcome State Fault Refusal :=
  checked s (coreOk n) (
    match s.working n with
    | some k => s.dataReturn k n tagBad rebuilt
    | none => s)

/-! ## Heat and pages (R265, R267) -/

/-- HEAT_DECAY: once the interval's accesses have passed, every count of the cluster is shifted right. -/
def Acc.decay (a : Acc) (i : Image) (cl : Nat) : Acc :=
  let t := a.tiers.tier cl
  if t.accesses < i.interval * 4096 then a
  else a.setTier cl { t with accesses := t.accesses - i.interval * 4096
                             heat := t.heat.map (fun h => (h.1, h.2 / 2 ^ i.shift)) }

def execHeatDecay (cluster : Nat) (s : State) : Host.Outcome State Fault Refusal :=
  checked s (clusterOk cluster) (s.onRunning (fun i a => a.decay i cluster))

def execPageMoveDone (cluster page : Nat) (s : State) : Host.Outcome State Fault Refusal :=
  checked s (clusterOk cluster) (s.onRunning (fun _ a => a.moveDone cluster page))

/-! ## Assembly and regulators (R277, R281) -/

/-- An entry's 512 ns pass at the island of its parity stack: it closes and its parity is written (R277). -/
def Acc.windowOver (a : Acc) (stripe : Nat) : Acc :=
  match NMap.find a.tiers.asm stripe with
  | none => a
  | some x =>
    let island := (peatPlace a.tiers.salt (stripe * 11 * 4096)).parity
    (a.setTime island (max (a.time island) (x.opened + 512))).closeStripe stripe

/-- ASSEMBLY_WINDOW_EXPIRED. -/
def execAssemblyWindowExpired (stripe : Nat) (s : State) : Host.Outcome State Fault Refusal :=
  .next (
    match s.sched.running with
    | some k => s.onTiers k (fun _ a => a.windowOver stripe)
    | none => { s with tiers := { s.tiers with asm := NMap.del s.tiers.asm stripe } })

/-- REGULATOR_WINDOW_START: a PHY island's clock reaches the next window of a partition, whose bucket is refilled (R281). -/
def Acc.windowStart (a : Acc) (regs : List RegE) (island partition : Nat) : Acc :=
  let e := regs.getD partition {}
  let key := island * 9 + partition
  let now := a.time island
  let b := NMap.getD a.tiers.buckets key (e.fresh now)
  let t := max now ((b.window + 1) * e.window)
  { a.setTime island t with tiers := { a.tiers with buckets := NMap.put a.tiers.buckets key (e.at' t b) } }

def execRegulatorWindowStart (island partition : Nat) (s : State) : Host.Outcome State Fault Refusal :=
  checked s (decide (island < 48) && decide (partition < 9)) (s.onRunning (fun i a => a.windowStart i.regs island partition))

end Sys2Proof.Machine
end

