-- ==== Sys2Proof/Machine/Dispatch.lean ====
section
/-! DEFINITION. One arm for each command: a direct call of its meaning. -/

namespace Sys2Proof.Machine

def exec (i : Instr) (s : State) : Host.Outcome State Fault Refusal :=
  match i with
  | .jobLoad c => Sys2Proof.Machine.execJobLoad c s
  | .firingDone slot => Sys2Proof.Machine.execFiringDone slot s
  | .jobStart c => Sys2Proof.Machine.execJobStart c s
  | .jobResume c => Sys2Proof.Machine.execJobResume c s
  | .jobPause c => Sys2Proof.Machine.execJobPause c s
  | .jobEnd c => Sys2Proof.Machine.execJobEnd c s
  | .jobEndTakesEffect slot => Sys2Proof.Machine.execJobEndTakesEffect slot s
  | .commit c => Sys2Proof.Machine.execCommit c s
  | .jobAdopt c => Sys2Proof.Machine.execJobAdopt c s
  | .jobSetToken c => Sys2Proof.Machine.execJobSetToken c s
  | .stepCmd c => Sys2Proof.Machine.execStepCmd c s
  | .chunk c => Sys2Proof.Machine.execChunk c s
  | .fork c => Sys2Proof.Machine.execFork c s
  | .prune c => Sys2Proof.Machine.execPrune c s
  | .exportState c => Sys2Proof.Machine.execExportState c s
  | .importState c => Sys2Proof.Machine.execImportState c s
  | .swapOut c => Sys2Proof.Machine.execSwapOut c s
  | .swapIn c => Sys2Proof.Machine.execSwapIn c s
  | .streamMoveDone stream => Sys2Proof.Machine.execStreamMoveDone stream s
  | .paramGroupWrite c => Sys2Proof.Machine.execParamGroupWrite c s
  | .copyIn c => Sys2Proof.Machine.execCopyIn c s
  | .copyOut c => Sys2Proof.Machine.execCopyOut c s
  | .codecDecode c => Sys2Proof.Machine.execCodecDecode c s
  | .codecEncode c => Sys2Proof.Machine.execCodecEncode c s
  | .codecDispatch => Sys2Proof.Machine.execCodecDispatch s
  | .codecWindowLoaded engine => Sys2Proof.Machine.execCodecWindowLoaded engine s
  | .descriptorIntake p set => Sys2Proof.Machine.execDescriptorIntake p set s
  | .batchForm => Sys2Proof.Machine.execBatchForm s
  | .batchCommit => Sys2Proof.Machine.execBatchCommit s
  | .commandPublish k => Sys2Proof.Machine.execCommandPublish k s
  | .sli n f => Sys2Proof.Machine.execSli n f s
  | .sadd n f => Sys2Proof.Machine.execSadd n f s
  | .smul n f => Sys2Proof.Machine.execSmul n f s
  | .sand n f => Sys2Proof.Machine.execSand n f s
  | .sshr n f => Sys2Proof.Machine.execSshr n f s
  | .scmp n f => Sys2Proof.Machine.execScmp n f s
  | .sld n f => Sys2Proof.Machine.execSld n f s
  | .sst n f => Sys2Proof.Machine.execSst n f s
  | .spg n f => Sys2Proof.Machine.execSpg n f s
  | .br n f => Sys2Proof.Machine.execBr n f s
  | .next n f => Sys2Proof.Machine.execNext n f s
  | .nextBatchDelivered n => Sys2Proof.Machine.execNextBatchDelivered n s
  | .send n f => Sys2Proof.Machine.execSend n f s
  | .recv n f => Sys2Proof.Machine.execRecv n f s
  | .free n f => Sys2Proof.Machine.execFree n f s
  | .creditReturn chan => Sys2Proof.Machine.execCreditReturn chan s
  | .transferArrive chan => Sys2Proof.Machine.execTransferArrive chan s
  | .signal n f => Sys2Proof.Machine.execSignal n f s
  | .wait n f => Sys2Proof.Machine.execWait n f s
  | .waitSatisfied n => Sys2Proof.Machine.execWaitSatisfied n s
  | .sread n f => Sys2Proof.Machine.execSread n f s
  | .sset n f => Sys2Proof.Machine.execSset n f s
  | .rpass n f => Sys2Proof.Machine.execRpass n f s
  | .rpassSend engine => Sys2Proof.Machine.execRpassSend engine s
  | .rpassComplete engine => Sys2Proof.Machine.execRpassComplete engine s
  | .matmul n f => Sys2Proof.Machine.execMatmul n f s
  | .qk n f => Sys2Proof.Machine.execQk n f s
  | .pv n f => Sys2Proof.Machine.execPv n f s
  | .append n f => Sys2Proof.Machine.execAppend n f s
  | .scan n f => Sys2Proof.Machine.execScan n f s
  | .conv n f => Sys2Proof.Machine.execConv n f s
  | .fconv n f => Sys2Proof.Machine.execFconv n f s
  | .pool n f => Sys2Proof.Machine.execPool n f s
  | .arrayRampWaitEnd n => Sys2Proof.Machine.execArrayRampWaitEnd n s
  | .arrayIdleRampDown n => Sys2Proof.Machine.execArrayIdleRampDown n s
  | .vadd n f => Sys2Proof.Machine.execVadd n f s
  | .vsub n f => Sys2Proof.Machine.execVsub n f s
  | .vmul n f => Sys2Proof.Machine.execVmul n f s
  | .vfma n f => Sys2Proof.Machine.execVfma n f s
  | .vfnma n f => Sys2Proof.Machine.execVfnma n f s
  | .vmax n f => Sys2Proof.Machine.execVmax n f s
  | .vmin n f => Sys2Proof.Machine.execVmin n f s
  | .vabs n f => Sys2Proof.Machine.execVabs n f s
  | .vneg n f => Sys2Proof.Machine.execVneg n f s
  | .vand n f => Sys2Proof.Machine.execVand n f s
  | .vor n f => Sys2Proof.Machine.execVor n f s
  | .vxor n f => Sys2Proof.Machine.execVxor n f s
  | .vshl n f => Sys2Proof.Machine.execVshl n f s
  | .vshr n f => Sys2Proof.Machine.execVshr n f s
  | .vdiv n f => Sys2Proof.Machine.execVdiv n f s
  | .vsqrt n f => Sys2Proof.Machine.execVsqrt n f s
  | .vrsqrt n f => Sys2Proof.Machine.execVrsqrt n f s
  | .vrecip n f => Sys2Proof.Machine.execVrecip n f s
  | .vexp n f => Sys2Proof.Machine.execVexp n f s
  | .vlog n f => Sys2Proof.Machine.execVlog n f s
  | .vcmp n f => Sys2Proof.Machine.execVcmp n f s
  | .vsel n f => Sys2Proof.Machine.execVsel n f s
  | .vcvt n f => Sys2Proof.Machine.execVcvt n f s
  | .vrand n f => Sys2Proof.Machine.execVrand n f s
  | .vsum n f => Sys2Proof.Machine.execVsum n f s
  | .vrmax n f => Sys2Proof.Machine.execVrmax n f s
  | .vrmin n f => Sys2Proof.Machine.execVrmin n f s
  | .vld n f => Sys2Proof.Machine.execVld n f s
  | .vst n f => Sys2Proof.Machine.execVst n f s
  | .vcopy n f => Sys2Proof.Machine.execVcopy n f s
  | .vfft n f => Sys2Proof.Machine.execVfft n f s
  | .vtopk n f => Sys2Proof.Machine.execVtopk n f s
  | .bgather n f => Sys2Proof.Machine.execBgather n f s
  | .bscatter n f => Sys2Proof.Machine.execBscatter n f s
  | .bscatadd n f => Sys2Proof.Machine.execBscatadd n f s
  | .browseMissReturn n miss => Sys2Proof.Machine.execBrowseMissReturn n miss s
  | .issue n f => Sys2Proof.Machine.execIssue n f s
  | .jobRunSelect => Sys2Proof.Machine.execJobRunSelect s
  | .resumeDone => Sys2Proof.Machine.execResumeDone s
  | .timeSliceExpired => Sys2Proof.Machine.execTimeSliceExpired s
  | .yieldBoundExpired => Sys2Proof.Machine.execYieldBoundExpired s
  | .pauseBoundExpired => Sys2Proof.Machine.execPauseBoundExpired s
  | .pausePointReached => Sys2Proof.Machine.execPausePointReached s
  | .writebackDone => Sys2Proof.Machine.execWritebackDone s
  | .commitIntervalExpired => Sys2Proof.Machine.execCommitIntervalExpired s
  | .journalThreeQuarters => Sys2Proof.Machine.execJournalThreeQuarters s
  | .commitBedTimeout => Sys2Proof.Machine.execCommitBedTimeout s
  | .commitPointReached => Sys2Proof.Machine.execCommitPointReached s
  | .saturated => Sys2Proof.Machine.execSaturated s
  | .prefetchLateSummary => Sys2Proof.Machine.execPrefetchLateSummary s
  | .bankStallSummary => Sys2Proof.Machine.execBankStallSummary s
  | .prefetchIssue n => Sys2Proof.Machine.execPrefetchIssue n s
  | .peatDataReturn n tagBad rebuilt => Sys2Proof.Machine.execPeatDataReturn n tagBad rebuilt s
  | .heatDecay cluster => Sys2Proof.Machine.execHeatDecay cluster s
  | .pageMoveDone cluster page => Sys2Proof.Machine.execPageMoveDone cluster page s
  | .assemblyWindowExpired stripe => Sys2Proof.Machine.execAssemblyWindowExpired stripe s
  | .regulatorWindowStart island partition => Sys2Proof.Machine.execRegulatorWindowStart island partition s
  | .scrubDone => Sys2Proof.Machine.execScrubDone s
  | .linkBringUp link x => Sys2Proof.Machine.execLinkBringUp link x s
  | .laneFail link lane => Sys2Proof.Machine.execLaneFail link lane s
  | .flitReceive link f => Sys2Proof.Machine.execFlitReceive link f s
  | .nakReceive link seq => Sys2Proof.Machine.execNakReceive link seq s
  | .flitAckTimer link => Sys2Proof.Machine.execFlitAckTimer link s
  | .retryBufferStall link => Sys2Proof.Machine.execRetryBufferStall link s
  | .linkRekey link x => Sys2Proof.Machine.execLinkRekey link x s
  | .e2eRetransmitTimeout dest chan seq => Sys2Proof.Machine.execE2eRetransmitTimeout dest chan seq s
  | .e2eAckTimer src chan => Sys2Proof.Machine.execE2eAckTimer src chan s
  | .packetWrite p => Sys2Proof.Machine.execPacketWrite p s
  | .packetSignal p => Sys2Proof.Machine.execPacketSignal p s
  | .packetReadReq p => Sys2Proof.Machine.execPacketReadReq p s
  | .packetReadData p => Sys2Proof.Machine.execPacketReadData p s
  | .packetAck p => Sys2Proof.Machine.execPacketAck p s
  | .packetRefuse p => Sys2Proof.Machine.execPacketRefuse p s
  | .packetMirror p => Sys2Proof.Machine.execPacketMirror p s
  | .packetFirmware p => Sys2Proof.Machine.execPacketFirmware p s
  | .packetReservedType p => Sys2Proof.Machine.execPacketReservedType p s
  | .transitCreditTimeout link chan => Sys2Proof.Machine.execTransitCreditTimeout link chan s
  | .helloTimer => Sys2Proof.Machine.execHelloTimer s
  | .hello link h => Sys2Proof.Machine.execHello link h s
  | .leaderBeatTimeout => Sys2Proof.Machine.execLeaderBeatTimeout s
  | .censusJoin j => Sys2Proof.Machine.execCensusJoin j s
  | .census m => Sys2Proof.Machine.execCensus m s
  | .joinRetryTimer => Sys2Proof.Machine.execJoinRetryTimer s
  | .vectorMsg link v => Sys2Proof.Machine.execVectorMsg link v s
  | .routeInstall => Sys2Proof.Machine.execRouteInstall s
  | .linkAdminDown link => Sys2Proof.Machine.execLinkAdminDown link s
  | .linkAdminUp link => Sys2Proof.Machine.execLinkAdminUp link s
  | .ringEnable p set v => Sys2Proof.Machine.execRingEnable p set v s
  | .ringDisable p set => Sys2Proof.Machine.execRingDisable p set s
  | .ringSqTail p set v => Sys2Proof.Machine.execRingSqTail p set v s
  | .ringCqHead p set v => Sys2Proof.Machine.execRingCqHead p set v s
  | .ringEqHead p set v => Sys2Proof.Machine.execRingEqHead p set v s
  | .msixMessage p vec => Sys2Proof.Machine.execMsixMessage p vec s
  | .hostLease p v => Sys2Proof.Machine.execHostLease p v s
  | .leaseExpired p => Sys2Proof.Machine.execLeaseExpired p s
  | .hostDriverVersion p v => Sys2Proof.Machine.execHostDriverVersion p v s
  | .bar2Enable p v => Sys2Proof.Machine.execBar2Enable p v s
  | .bar2Read p off len => Sys2Proof.Machine.execBar2Read p off len s
  | .bar2Write p off data => Sys2Proof.Machine.execBar2Write p off data s
  | .jobSemAdd p n v => Sys2Proof.Machine.execJobSemAdd p n v s
  | .jobPgtStage p off v => Sys2Proof.Machine.execJobPgtStage p off v s
  | .jobPgtPublish p v => Sys2Proof.Machine.execJobPgtPublish p v s
  | .portReset p k => Sys2Proof.Machine.execPortReset p k s
  | .emuApertureRead p off => Sys2Proof.Machine.execEmuApertureRead p off s
  | .emuApertureWrite p off v => Sys2Proof.Machine.execEmuApertureWrite p off v s
  | .emuReadTimeout p => Sys2Proof.Machine.execEmuReadTimeout p s
  | .wemuRead p m => Sys2Proof.Machine.execWemuRead p m s
  | .wemuWrite p m => Sys2Proof.Machine.execWemuWrite p m s
  | .getCert src => Sys2Proof.Machine.execGetCert src s
  | .getReport src nonce job => Sys2Proof.Machine.execGetReport src nonce job s
  | .sessionInit src ek nonce job => Sys2Proof.Machine.execSessionInit src ek nonce job s
  | .sessionFinish src confirm opKey opSig => Sys2Proof.Machine.execSessionFinish src confirm opKey opSig s
  | .sessionEnd src => Sys2Proof.Machine.execSessionEnd src s
  | .fwHeartbeatTimeout core => Sys2Proof.Machine.execFwHeartbeatTimeout core s
  | .fwCoreTrap core => Sys2Proof.Machine.execFwCoreTrap core s
  | .fwRecoveryDone core ok => Sys2Proof.Machine.execFwRecoveryDone core ok s
  | .sapwoodUpdate => Sys2Proof.Machine.execSapwoodUpdate s
  | .heartwoodUpdate => Sys2Proof.Machine.execHeartwoodUpdate s
  | .tftpBlockReceive block data => Sys2Proof.Machine.execTftpBlockReceive block data s
  | .tftpBlockTimeout => Sys2Proof.Machine.execTftpBlockTimeout s
  | .sapwoodFetchTimeout primaryOk mirrorOk => Sys2Proof.Machine.execSapwoodFetchTimeout primaryOk mirrorOk s
  | .sapwoodRetryTimer => Sys2Proof.Machine.execSapwoodRetryTimer s
  | .secSvnCommitHeartwood => Sys2Proof.Machine.execSecSvnCommitHeartwood s
  | .secSvnCommitSapwood => Sys2Proof.Machine.execSecSvnCommitSapwood s
  | .lcRequestNonce => Sys2Proof.Machine.execLcRequestNonce s
  | .lcRequestGo viaMgmt => Sys2Proof.Machine.execLcRequestGo viaMgmt s
  | .stallMonitorTrip u => Sys2Proof.Machine.execStallMonitorTrip u s
  | .eccError place corrected => Sys2Proof.Machine.execEccError place corrected s
  | .d2dWordError cluster port => Sys2Proof.Machine.execD2dWordError cluster port s
  | .coreVerifyDone cluster core pass => Sys2Proof.Machine.execCoreVerifyDone cluster core pass s
  | .clusterReplaceDone => Sys2Proof.Machine.execClusterReplaceDone s
  | .hostedCoreSwitch cluster core => Sys2Proof.Machine.execHostedCoreSwitch cluster core s
  | .hbmUnitFail stack pc => Sys2Proof.Machine.execHbmUnitFail stack pc s
  | .rebuildDone => Sys2Proof.Machine.execRebuildDone s
  | .dataRestored unit means => Sys2Proof.Machine.execDataRestored unit means s
  | .marginForecast => Sys2Proof.Machine.execMarginForecast s
  | .woodpileTestTimer bad => Sys2Proof.Machine.execWoodpileTestTimer bad s
  | .phaseFail rail phase => Sys2Proof.Machine.execPhaseFail rail phase s
  | .registerWrite p off width v => Sys2Proof.Machine.execRegisterWrite p off width v s
  | .startUp x => Sys2Proof.Machine.execStartUp x s
  | .bootRetryTimer x => Sys2Proof.Machine.execBootRetryTimer x s
  | .resetNAssert => Sys2Proof.Machine.execResetNAssert s
  | .resetNRelease x => Sys2Proof.Machine.execResetNRelease x s
  | .throttleNAssert => Sys2Proof.Machine.execThrottleNAssert s
  | .throttleNRelease => Sys2Proof.Machine.execThrottleNRelease s
  | .governorTick x => Sys2Proof.Machine.execGovernorTick x s
  | .pwrCap v => Sys2Proof.Machine.execPwrCap v s
  | .pwrSetpoint v => Sys2Proof.Machine.execPwrSetpoint v s
  | .pwrConfigGo viaMgmt => Sys2Proof.Machine.execPwrConfigGo viaMgmt s
  | .feedLost feed mV => Sys2Proof.Machine.execFeedLost feed mV s
  | .feedReturned feed mV => Sys2Proof.Machine.execFeedReturned feed mV s
  | .thermalShutdown => Sys2Proof.Machine.execThermalShutdown s
  | .hbmThermalPace stack quarterC => Sys2Proof.Machine.execHbmThermalPace stack quarterC s
  | .throttled => Sys2Proof.Machine.execThrottled s
  | .identity => Sys2Proof.Machine.execIdentity s
  | .inventory => Sys2Proof.Machine.execInventory s
  | .stage => Sys2Proof.Machine.execStage s
  | .power => Sys2Proof.Machine.execPower s
  | .coolant => Sys2Proof.Machine.execCoolant s
  | .margin => Sys2Proof.Machine.execMargin s
  | .recover image x => Sys2Proof.Machine.execRecover image x s
  | .idcode => Sys2Proof.Machine.execIdcode s
  | .bypass => Sys2Proof.Machine.execBypass s
  | .pcieLinkUp p speed width => Sys2Proof.Machine.execPcieLinkUp p speed width s
  | .governorFail => Sys2Proof.Machine.execGovernorFail s
  | .rideThroughExpired => Sys2Proof.Machine.execRideThroughExpired s
  | .ignoredPulse pin => Sys2Proof.Machine.execIgnoredPulse pin s
  | .coarseRefresh k => Sys2Proof.Machine.execCoarseRefresh k s

end Sys2Proof.Machine
end

