-- ==== Sys2Proof/WellFormed.lean ====
section
/-! DEFINITION. Well-formed commands: operands that name units the P6 has and values that their fields can hold (R9, R14,
R24, R200 to R207, R333, R379, R405, R411, R417). -/

namespace Sys2Proof

/-- A number held in `n` bits. -/
def fits (n v : Nat) : Bool := decide (v < 2 ^ n)

/-- A logical core (R14). -/
def wfCore (n : Nat) : Bool := decide (n < 512)

/-- A physical cluster, and a physical core of one (R14). -/
def wfCluster (p : Nat) : Bool := decide (p < 34)

/-- A physical core within its cluster (R14). -/
def wfPhys (p i : Nat) : Bool := wfCluster p && decide (i < 17)

/-- A link (R370). -/
def wfLink (n : Nat) : Bool := decide (n < 48)

/-- A job slot (R330). -/
def wfSlot (n : Nat) : Bool := decide (n < 64)

/-- A descriptor's fields hold what their bits can (R417). -/
def Desc.wf (d : Desc) : Bool :=
  fits 8 d.opcode && fits 8 d.flags && fits 16 d.tag && fits 16 d.job && fits 8 d.ring && fits 8 d.prio

/-- A command of one opcode, from a ring set that a port has (R333, R411, R417). -/
def Cmd.wf (op : Nat) (c : Cmd) : Bool := c.desc.opcode == op && c.desc.wf && decide (c.set < 64)

/-- Format S (R202). -/
def FmtS.wf (f : FmtS) : Bool := fits 5 f.rd && fits 5 f.ra && fits 5 f.rb && fits 4 f.cond

/-- Format C (R203). -/
def FmtC.wf (f : FmtC) : Bool := fits 5 f.reg && fits 16 f.chan

/-- Format M (R357). -/
def FmtM.wf (f : FmtM) : Bool :=
  fits 5 f.ra && fits 5 f.rb && fits 5 f.rc && fits 5 f.rd && fits 12 f.sem && fits 12 f.semb

/-- Format A (R204). -/
def FmtA.wf (f : FmtA) : Bool := fits 5 f.span && fits 16 f.ctrl && fits 16 f.operand

/-- Format V (R207). -/
def FmtV.wf (f : FmtV) : Bool :=
  fits 8 f.aux && fits 5 f.creg && fits 15 f.rowlen && fits 5 f.mreg && fits 5 f.src3 && fits 5 f.src2 && fits 5 f.src1 &&
    fits 5 f.dst && fits 14 f.count && fits 2 f.bcast && decide (f.type < 6)

/-- Format B (R219). -/
def FmtB.wf (f : FmtB) : Bool :=
  fits 32 f.rowbytes && fits 2 f.hint && fits 5 f.creg && fits 15 f.stride && fits 5 f.mreg && fits 5 f.rows &&
    fits 5 f.base && fits 5 f.idx && fits 5 f.data && fits 14 f.count && decide (f.type < 6)

/-- Format I (R216). -/
def FmtI.wf (f : FmtI) : Bool := fits 5 f.res && fits 5 f.pred && fits 5 f.caddr && fits 5 f.desc && fits 8 f.cmd

/-- A packet of one type, with the header's widths and at most 4,096 B of payload (R379, R380). -/
def Packet.wf (types : Nat → Bool) (p : Packet) : Bool :=
  types p.type && fits 16 p.dest && fits 16 p.src && fits 16 p.job && fits 8 p.type && decide (p.chan < 4) &&
    fits 8 p.hops && fits 32 p.flow && fits 32 p.seq && fits 32 p.msg && decide (p.payload.length ≤ 4096)

/-- A flit is 256 B (R375). -/
def Flit.wf (f : Flit) : Bool := f.bytes.length == 256

/-- Types of R380 that a module knows. -/
def knownType (t : Nat) : Bool := (decide (1 ≤ t) && decide (t ≤ 7)) || t == 0x10 || (decide (0x20 ≤ t) && decide (t ≤ 0x22))

/-- A unit that can be lost (R494). -/
def UnitRef.wf : UnitRef → Bool
  | .core p i _ => wfPhys p i
  | .cluster p => wfCluster p
  | .d2dPort p k => wfCluster p && decide (k < 2)
  | .codec e => decide (e < 16)
  | .ringPass e => decide (e < 8)

/-- A place where an ECC error can strike (R434, R482). -/
def EccPlace.wf : EccPlace → Bool
  | .scratchpad p i => wfPhys p i
  | .bank p i b => wfPhys p i && decide (b < 8)
  | .clusterSram p => wfCluster p
  | .hubBuffer h => decide (h < 8)
  | .firmware n => decide (n < 40)

/-- A command is well formed: exactly these can be given to the P6. -/
def Instr.wf (c : Instr) : Bool :=
  match c with
  | .jobLoad c => c.wf 0x01
  | .jobStart c => c.wf 0x02
  | .jobPause c => c.wf 0x03
  | .jobResume c => c.wf 0x04
  | .jobEnd c => c.wf 0x05
  | .commit c => c.wf 0x06
  | .jobAdopt c => c.wf 0x07
  | .jobSetToken c => c.wf 0x08
  | .stepCmd c => c.wf 0x10
  | .chunk c => c.wf 0x11
  | .fork c => c.wf 0x12
  | .prune c => c.wf 0x13
  | .exportState c => c.wf 0x14
  | .importState c => c.wf 0x15
  | .swapOut c => c.wf 0x16
  | .swapIn c => c.wf 0x17
  | .paramGroupWrite c => c.wf 0x18
  | .copyIn c => c.wf 0x20
  | .copyOut c => c.wf 0x21
  | .codecDecode c => c.wf 0x40
  | .codecEncode c => c.wf 0x41
  | .firingDone slot => wfSlot slot
  | .jobEndTakesEffect slot => wfSlot slot
  | .streamMoveDone n => fits 20 n
  | .codecWindowLoaded e => decide (e < 16)
  | .descriptorIntake _ set => decide (set < 64)
  | .sli n f => wfCore n && f.wf
  | .sadd n f => wfCore n && f.wf
  | .smul n f => wfCore n && f.wf
  | .sand n f => wfCore n && f.wf
  | .sshr n f => wfCore n && f.wf
  | .scmp n f => wfCore n && f.wf
  | .sld n f => wfCore n && f.wf
  | .sst n f => wfCore n && f.wf
  | .spg n f => wfCore n && f.wf
  | .br n f => wfCore n && f.wf
  | .next n f => wfCore n && f.wf
  | .nextBatchDelivered n => wfCore n
  | .send n f => wfCore n && f.wf
  | .recv n f => wfCore n && f.wf
  | .free n f => wfCore n && f.wf
  | .creditReturn ch => fits 16 ch
  | .transferArrive ch => fits 16 ch
  | .signal n f => wfCore n && f.wf
  | .wait n f => wfCore n && f.wf
  | .waitSatisfied n => wfCore n
  | .sread n f => wfCore n && f.wf
  | .sset n f => wfCore n && f.wf
  | .rpass n f => wfCore n && f.wf
  | .rpassSend e => decide (e < 8)
  | .rpassComplete e => decide (e < 8)
  | .matmul n f => wfCore n && f.wf
  | .qk n f => wfCore n && f.wf
  | .pv n f => wfCore n && f.wf
  | .append n f => wfCore n && f.wf
  | .scan n f => wfCore n && f.wf
  | .conv n f => wfCore n && f.wf
  | .fconv n f => wfCore n && f.wf
  | .arrayRampWaitEnd n => wfCore n
  | .arrayIdleRampDown n => wfCore n
  | .pool n f => wfCore n && f.wf
  | .vadd n f => wfCore n && f.wf
  | .vsub n f => wfCore n && f.wf
  | .vmul n f => wfCore n && f.wf
  | .vfma n f => wfCore n && f.wf
  | .vfnma n f => wfCore n && f.wf
  | .vmax n f => wfCore n && f.wf
  | .vmin n f => wfCore n && f.wf
  | .vabs n f => wfCore n && f.wf
  | .vneg n f => wfCore n && f.wf
  | .vand n f => wfCore n && f.wf
  | .vor n f => wfCore n && f.wf
  | .vxor n f => wfCore n && f.wf
  | .vshl n f => wfCore n && f.wf
  | .vshr n f => wfCore n && f.wf
  | .vdiv n f => wfCore n && f.wf
  | .vsqrt n f => wfCore n && f.wf
  | .vrsqrt n f => wfCore n && f.wf
  | .vrecip n f => wfCore n && f.wf
  | .vexp n f => wfCore n && f.wf
  | .vlog n f => wfCore n && f.wf
  | .vcmp n f => wfCore n && f.wf
  | .vsel n f => wfCore n && f.wf
  | .vcvt n f => wfCore n && f.wf
  | .vrand n f => wfCore n && f.wf
  | .vsum n f => wfCore n && f.wf
  | .vrmax n f => wfCore n && f.wf
  | .vrmin n f => wfCore n && f.wf
  | .vld n f => wfCore n && f.wf
  | .vst n f => wfCore n && f.wf
  | .vcopy n f => wfCore n && f.wf
  | .vfft n f => wfCore n && f.wf
  | .vtopk n f => wfCore n && f.wf
  | .bgather n f => wfCore n && f.wf
  | .bscatter n f => wfCore n && f.wf
  | .bscatadd n f => wfCore n && f.wf
  | .browseMissReturn n _ => wfCore n
  | .issue n f => wfCore n && f.wf
  | .prefetchIssue n => wfCore n
  | .peatDataReturn n _ _ => wfCore n
  | .heatDecay c => decide (c < 32)
  | .pageMoveDone c _ => decide (c < 32)
  | .regulatorWindowStart island part => decide (island < 48) && decide (part < 9)
  | .linkBringUp n _ => wfLink n
  | .laneFail n lane => wfLink n && decide (lane < 9)
  | .flitReceive n f => wfLink n && f.wf
  | .nakReceive n seq => wfLink n && fits 10 seq
  | .flitAckTimer n => wfLink n
  | .retryBufferStall n => wfLink n
  | .linkRekey n _ => wfLink n
  | .e2eRetransmitTimeout e chan seq => fits 16 e.job && fits 32 seq && fits 16 e.peer && decide (1 ≤ chan) && decide (chan ≤ 3)
  | .e2eAckTimer e chan => fits 16 e.job && fits 16 e.peer && decide (1 ≤ chan) && decide (chan ≤ 3)
  | .packetWrite p => p.wf (· == 0x01)
  | .packetSignal p => p.wf (· == 0x02)
  | .packetReadReq p => p.wf (· == 0x03)
  | .packetReadData p => p.wf (· == 0x04)
  | .packetAck p => p.wf (· == 0x05)
  | .packetRefuse p => p.wf (· == 0x06)
  | .packetMirror p => p.wf (· == 0x07)
  | .packetFirmware p => p.wf (· == 0x10)
  | .packetReservedType p => p.wf (fun t => !knownType t)
  | .transitCreditTimeout n chan => wfLink n && decide (chan < 4)
  | .hello n _ => wfLink n
  | .vectorMsg n _ => wfLink n
  | .linkAdminDown n => wfLink n
  | .linkAdminUp n => wfLink n
  | .ringEnable _ set v => decide (set < 64) && bit v 0
  | .ringDisable _ set => decide (set < 64)
  | .ringSqTail _ set _ => decide (set < 64)
  | .ringCqHead _ set _ => decide (set < 64)
  | .ringEqHead _ set _ => decide (set < 64)
  | .msixMessage _ vec => decide (vec ≤ 128)
  | .bar2Read _ off len => decide (off + len ≤ 2 ^ 38)
  | .bar2Write _ off data => decide (off + data.length ≤ 2 ^ 38)
  | .jobSemAdd _ n _ => fits 12 n
  | .jobPgtStage _ off _ => decide (off < 0x40000) && off % 4 == 0
  | .emuApertureRead _ off => decide (0x8000 ≤ off) && decide (off < 0x10000) && off % 4 == 0
  | .emuApertureWrite _ off _ => decide (0x8000 ≤ off) && decide (off < 0x10000) && off % 4 == 0
  | .fwHeartbeatTimeout n => decide (n < 40)
  | .fwCoreTrap x => decide (x.core < 40)
  | .fwRecoveryDone n _ => decide (n < 40)
  | .stallMonitorTrip u => u.wf
  | .eccError p _ => p.wf
  | .d2dWordError p k => wfCluster p && decide (k < 2)
  | .coreVerifyDone p i _ => wfPhys p i
  | .hostedCoreSwitch p i => wfPhys p i
  | .hbmUnitFail k pc => decide (k < 48) && pc.all (fun i => decide (i < 32))
  | .woodpileTestTimer bad => bad.all (fun b => wfPhys b.1 b.2)
  | .phaseFail rail phase => (decide (rail < 34) && decide (phase < 12)) || (decide (34 ≤ rail) && decide (rail < 42) && decide (phase < 16))
  | .registerWrite _ off width v => decide (off + width ≤ 2 ^ 26) && decide (v < 256 ^ width)
  | .hbmThermalPace k _ => decide (k < 48)
  | .pcieLinkUp _ speed width => decide (4 ≤ speed) && decide (speed ≤ 6) && (width == 4 || width == 8 || width == 16)
  | .codecDispatch => true
  | .batchForm => true
  | .batchCommit => true
  | .commandPublish _ => true
  | .jobRunSelect => true
  | .resumeDone => true
  | .timeSliceExpired => true
  | .yieldBoundExpired => true
  | .pauseBoundExpired => true
  | .pausePointReached => true
  | .writebackDone => true
  | .commitIntervalExpired => true
  | .journalThreeQuarters => true
  | .commitBedTimeout => true
  | .commitPointReached => true
  | .saturated => true
  | .prefetchLateSummary => true
  | .bankStallSummary => true
  | .assemblyWindowExpired _ => true
  | .scrubDone => true
  | .helloTimer => true
  | .leaderBeatTimeout => true
  | .censusJoin _ => true
  | .census _ => true
  | .joinRetryTimer => true
  | .routeInstall => true
  | .hostLease _ _ => true
  | .leaseExpired _ => true
  | .hostDriverVersion _ _ => true
  | .bar2Enable _ _ => true
  | .jobPgtPublish _ _ => true
  | .portReset _ _ => true
  | .emuReadTimeout _ => true
  | .wemuRead _ _ => true
  | .wemuWrite _ _ => true
  | .getCert _ => true
  | .getReport _ _ _ => true
  | .sessionInit _ _ _ _ => true
  | .sessionFinish _ _ _ _ => true
  | .sessionEnd _ => true
  | .sapwoodUpdate => true
  | .heartwoodUpdate => true
  | .tftpBlockReceive _ _ => true
  | .tftpBlockTimeout => true
  | .sapwoodFetchTimeout _ _ => true
  | .sapwoodRetryTimer => true
  | .secSvnCommitHeartwood => true
  | .secSvnCommitSapwood => true
  | .lcRequestNonce => true
  | .lcRequestGo _ => true
  | .clusterReplaceDone => true
  | .rebuildDone => true
  | .dataRestored _ _ => true
  | .marginForecast => true
  | .startUp _ => true
  | .bootRetryTimer _ => true
  | .resetNAssert => true
  | .resetNRelease _ => true
  | .throttleNAssert => true
  | .throttleNRelease => true
  | .governorTick _ => true
  | .pwrCap _ => true
  | .pwrSetpoint _ => true
  | .pwrConfigGo _ => true
  | .feedLost _ _ => true
  | .feedReturned _ _ => true
  | .thermalShutdown => true
  | .throttled => true
  | .identity => true
  | .inventory => true
  | .stage => true
  | .power => true
  | .coolant => true
  | .margin => true
  | .recover _ _ => true
  | .idcode => true
  | .bypass => true
  | .governorFail => true
  | .rideThroughExpired => true
  | .ignoredPulse _ => true
  | .coarseRefresh _ => true

end Sys2Proof
end

