-- ==== Sys2Proof/Safety.lean ====
section
/-! DEFINITION. The terms in which claims are made: what every step keeps, when a core stands at an instruction and may
retire it, and what a retired instruction leaves of its core. -/

namespace Sys2Proof.Machine

/-! ## What every step keeps -/

/-- The P6's fixed numbers of things: 64 job slots (R330), 48 links (R370), 16 codec engines (R298) and 100 timed islands
(R24). -/
def State.sized (s : State) : Prop :=
  s.jobs.length = 64 ∧ s.links.length = 48 ∧ s.codecs.length = 16 ∧ s.islands.length = 100

/-- Fuses only rise (R451): no security-version minimum falls (R459), no LC or intent bit clears (R473, R476), KILL_DATA
stays blown (R476), and a unit in the repair fuses stays there (R481). -/
def Fuses.risen (a b : Fuses) : Prop :=
  a.svnHeart ≤ b.svnHeart ∧ a.svnSap ≤ b.svnSap ∧ a.lc ||| b.lc = b.lc ∧ a.intent ||| b.intent = b.intent ∧
    (a.killData = true → b.killData = true) ∧ ∀ u ∈ a.repairs, u ∈ b.repairs

/-! ## A core at an instruction (R199, R350) -/

/-- Core `n` works for slot `k`, waits for nothing, and its program holds the word `w` where it stands. -/
def State.atInsn (s : State) (n k w : Nat) : Prop :=
  s.mayIssue n = some k ∧ ((s.job k).run.core n).insn < ((s.job k).image.sec n).length ∧
    ((s.job k).image.sec n).wordAt ((s.job k).run.core n).insn = w

/-- The core that a retired instruction leaves, before its own effect: at instruction `next`, waiting for nothing, with no
command in progress. -/
def Core.stepped (c : Core) (next : Nat) : Core :=
  { c with insn := next, wait := .run, arrived := [], misses := [], scatDone := none, inCmd := false, ramping := false }

/-- The core that core `n` of slot `k` is. -/
def State.coreOf (s : State) (k n : Nat) : Core := (s.job k).run.core n

/-! ## Accesses that go on (R276, R354, R492) -/

/-- The accesses of an instruction of core `n` meet no withheld data, a write finds room in the journal, and each finds a request slot. -/
def State.goesOn (s : State) (k n : Nat) (d : Done) : Prop :=
  s.withheldRead k d.accesses = none ∧ ((∃ a ∈ d.accesses, a.write = true) → s.journalFull k = false) ∧
    s.noSlot k (fun i a => a.accesses i n d.accesses) = false

/-! ## Vector instructions (R207 to R212) -/

/-- An element-wise instruction: its opcode, which of SRC2 and SRC3 it reads, the beats of a count, and the element that it
writes for the elements it reads. -/
structure LaneOp where
  insn  : Instr
  op    : Nat
  two   : Bool
  three : Bool
  beats : Nat → Nat
  elem  : Nat → Nat → Nat → Nat

/-- The element-wise instructions of R208, and VCOPY: FP operations are exact and then rounded once, INT ones wrap or, where
AUX bit 7 asks it of VADD, VSUB and VMUL, saturate (R210). -/
def elementwise (n : Nat) (f : FmtV) : List LaneOp :=
  let ty := f.type
  let sat := f.aux.testBit 7
  [ ⟨.vadd n f, 0x40, true, false, vecBeats ty, tyOp ty sat (fun a b _ => a.add b) (fun a b _ => a + b)⟩,
    ⟨.vsub n f, 0x41, true, false, vecBeats ty, tyOp ty sat (fun a b _ => a.sub b) (fun a b _ => a - b)⟩,
    ⟨.vmul n f, 0x42, true, false, vecBeats ty, tyOp ty sat (fun a b _ => a.mul b) (fun a b _ => a * b)⟩,
    ⟨.vfma n f, 0x43, true, true, vecBeats ty, tyOp ty false (fun a b c => (a.mul b).add c) (fun a b c => a * b + c)⟩,
    ⟨.vfnma n f, 0x44, true, true, vecBeats ty, tyOp ty false (fun a b c => c.sub (a.mul b)) (fun a b c => c - a * b)⟩,
    ⟨.vmax n f, 0x45, true, false, vecBeats ty, tyOp ty false (fun a b _ => a.max b) (fun a b _ => max a b)⟩,
    ⟨.vmin n f, 0x46, true, false, vecBeats ty, tyOp ty false (fun a b _ => a.min b) (fun a b _ => min a b)⟩ ] ++
  [ ⟨.vabs n f, 0x47, false, false, vecBeats ty, fun a _ _ => vabsCode ty a⟩,
    ⟨.vneg n f, 0x48, false, false, vecBeats ty, fun a _ _ => vnegCode ty a⟩,
    ⟨.vand n f, 0x49, true, false, vecBeats ty, fun a b _ => (a &&& b) % 2 ^ tyBits ty⟩,
    ⟨.vor n f, 0x4A, true, false, vecBeats ty, fun a b _ => (a ||| b) % 2 ^ tyBits ty⟩,
    ⟨.vxor n f, 0x4B, true, false, vecBeats ty, fun a b _ => (a ^^^ b) % 2 ^ tyBits ty⟩,
    ⟨.vshl n f, 0x4C, false, false, vecBeats ty, fun a _ _ => a * 2 ^ (f.aux % 32) % 2 ^ tyBits ty⟩,
    ⟨.vshr n f, 0x4D, false, false, vecBeats ty, fun a _ _ =>
      codeOf (tyBits ty) (signedBits (tyBits ty) a / 2 ^ (f.aux % 32))⟩ ] ++
  [ ⟨.vdiv n f, 0x50, true, false, slow, tyOp ty false (fun a b _ => a.div b) (fun a _ _ => a)⟩,
    ⟨.vsqrt n f, 0x51, false, false, slow, tyOp ty false (fun a _ _ => a.sqrt) (fun a _ _ => a)⟩,
    ⟨.vrsqrt n f, 0x52, false, false, slow, fun a _ _ => tyCode ty (f32 (rsqrtF32 (toF32 (tyNum ty a))))⟩,
    ⟨.vrecip n f, 0x53, false, false, slow, fun a _ _ => tyCode ty (f32 (recipF32 (toF32 (tyNum ty a))))⟩,
    ⟨.vexp n f, 0x54, false, false, slow, fun a _ _ => tyCode ty (f32 (expF32 (toF32 (tyNum ty a))))⟩,
    ⟨.vlog n f, 0x55, false, false, slow, fun a _ _ => tyCode ty (f32 (logF32 (toF32 (tyNum ty a))))⟩,
    ⟨.vcopy n f, 0x6A, false, false, vecBeats ty, fun a _ _ => a⟩ ]

/-- The other vector instructions, each with its opcode and plan: comparison, selection, conversion, draws, reductions, moves
to and from job memory, transforms and selection of the greatest (R208, R214, R215). -/
def otherVectors (n : Nat) (f : FmtV) : List (Instr × Nat × (Job → Core → VecPlan)) :=
  [ (.vcmp n f, 0x58, vcmpPlan n f), (.vsel n f, 0x59, vselPlan n f), (.vcvt n f, 0x5A, vcvtPlan f),
    (.vrand n f, 0x5B, vrandPlan f), (.vsum n f, 0x60, vsumPlan f), (.vrmax n f, 0x61, extremePlan f Num.max),
    (.vrmin n f, 0x62, extremePlan f Num.min), (.vld n f, 0x68, vldPlan f), (.vst n f, 0x69, vstPlan f) ]

/-- The mask that a vector instruction applies (R211). -/
def vecMask (f : FmtV) (c : Core) (masked : Bool) : Mask :=
  { on := f.masked && masked, base := (c.reg f.mreg).toNat, inv := f.minv }

/-- A plan with a count above 0 and no lane that faults (R212, R230). -/
def laneClear (n : Nat) (f : FmtV) (p : VecPlan) (j : Job) (c : Core) (count : Nat) : Prop :=
  runCount c f.creg (f.count + 1) = some count ∧ count ≠ 0 ∧
    firstFault n j c (vecMask f c p.masked) count (max count p.slots) p.ops = none

/-- What a vector instruction leaves: its own effect, then the beats it took and the lanes it masked off (R237). -/
def vecDone (n : Nat) (f : FmtV) (p : VecPlan) (j : Job) (c : Core) (count : Nat) : Done :=
  let lanes := (vecMask f c p.masked).lanes c.scratch count
  let d := p.run lanes count j c
  { d with job := { d.job with
      run := (d.job.run.countCore n 0x100 (p.beats count)).countCore n 0x108 (count - lanes.length) } }

/-! ## Array, attention, scan, convolution and pooling commands (R93, R205) -/

/-- Core `n`'s array is in use: its column groups are all enabled, or the core runs on the fawn path, which needs none (R86,
R91). -/
def State.arrayOn (s : State) (n : Nat) (c : Core) : Prop := s.onFawn n = true ∨ c.groupsOn = 8

/-- What an array command leaves: its own effect, its run that publishes on the fawn path where the array is held or the command fails over,
and the failures that it met (R84, R85, R91). -/
def State.ran (s : State) (n : Nat) (go : Bool → Done) : Done :=
  { go (s.onFawn n || s.failsOver n) with fails := some s.failures }

/-- An array command's plan fits its core: its tiles and its spill space suffice, and a PREP stage has the outputs it needs
(R92, R95, R96, R149). -/
def State.planFits (s : State) (n : Nat) (sec : CoreSec) (x : MatPlan) (c : Core) : Prop :=
  let g := sec.gateBlk x.o.gate
  (sec.order = 1 → x.used ≤ sec.tiles) ∧ (g.prep = true → x.outs = g.prepC + 2 * g.prepN) ∧
    x.used - s.banksOf n ≤ (sec.spillSlots c.insn).length

/-- The plan of a MATMUL of `m` vectors. -/
def matmulPlan (n : Nat) (f : FmtA) (j : Job) (c : Core) (m : Nat) : MatPlan :=
  let sec := j.image.sec n
  matPlan j.image sec (sec.opBlk f.operand) (precOf f.prec.toNat (j.forcedPrec c)) m

/-- A MATMUL of `m` vectors within its shape limits (R54, R93). -/
def matmulShape (n : Nat) (f : FmtA) (j : Job) (c : Core) (m : Nat) : Prop :=
  let sec := j.image.sec n
  let o := sec.opBlk f.operand
  let names := sec.opReads f.operand true
  o.vectors c = some m ∧ j.image.over names 0 (j.rowCount c) = false ∧ j.image.over names 1 m = false ∧
    j.image.over [o.wt] 2 o.outs = false

/-- A MATMUL of at least one vector that may run at once: within its shape, its plan fits, its tiles are at hand, its array is in
use (R86, R93, R288). -/
def matmulReady (s : State) (n : Nat) (f : FmtA) (j : Job) (c : Core) (m : Nat) : Prop :=
  let sec := j.image.sec n
  let x := matmulPlan n f j c m
  matmulShape n f j c m ∧ m ≠ 0 ∧ s.planFits n sec x c ∧ s.lacks n c (x.allReads (sec.gateUse n x) j c) = none ∧ s.arrayOn n c

/-- What a MATMUL leaves: the products of its vectors and the weight matrix, put through the gate pipeline (R82, R90, R205). -/
def matmulDone (s : State) (n : Nat) (f : FmtA) (j : Job) (c : Core) (m : Nat) : Done :=
  let sec := j.image.sec n
  let x := matmulPlan n f j c m
  let u := sec.gateUse n x
  s.ran n (fun fawn => x.run n (s.banksOf n) fawn sec u (x.allReads u j c) (stage c.scratch x.p x.o.act x.o.k x.m) j c)

/-- A QK or PV that may run at once at its register's span: it is within its shape limits, it has vectors, its visiting pages have the formats of its own, some
vector sees a key of the span, whose pages are at hand, and its array is in use (R180 to R183, R191). -/
def attnReady (s : State) (qk : Bool) (n : Nat) (f : FmtA) (j : Job) (c : Core) : Prop :=
  let x := j.attnCmd c ((j.image.sec n).attnBlk f.ctrl)
  let span := (c.reg f.span).toNat
  x.overPlan j c = false ∧ x.vectors ≠ [] ∧ x.badVisitor span = false ∧ x.vectors.filter (fun q => x.sees q span) ≠ [] ∧
    s.lacks n (x.tabled c) (x.spanReads qk span) = none ∧ s.arrayOn n c

/-- What a QK or PV leaves (R180 to R185). -/
def attnDone (s : State) (qk : Bool) (n : Nat) (f : FmtA) (j : Job) (c : Core) : Done :=
  let sec := j.image.sec n
  let o := sec.opBlk f.operand
  let p := precOf f.prec.toNat (j.forcedPrec c)
  let x := j.attnCmd c (sec.attnBlk f.ctrl)
  s.ran n (fun fawn => x.run qk fawn n (c.reg f.span).toNat p (x.gateUse qk n sec o p) j (x.tabled c))

/-- The window of a CONV, and its plan for its output pixels (R244, R245). -/
def convWin (n : Nat) (f : FmtA) (j : Job) (c : Core) : ConvWin :=
  let sec := j.image.sec n
  let b := sec.convBlk f.ctrl
  let act := (precOf f.prec.toNat (j.forcedPrec c)).act
  { base := (sec.opBlk f.operand).act, geo := b.geo j.image c, fmt := act, pad := sec.padOf b.inT act }

/-- A CONV that may run at once: within its limits, some output pixel, its plan fits, its window's rows are in place, its tiles are
at hand, its array is in use (R243, R255, R256, R262). -/
def convReady (s : State) (n : Nat) (f : FmtA) (j : Job) (c : Core) : Prop :=
  let sec := j.image.sec n
  let win := convWin n f j c
  let g := win.geo
  let x := matmulPlan n f j c g.pixels
  g.tall j.image (j.rowCount c) = false ∧ g.pixels ≤ x.o.plan ∧ g.ow ≤ 4096 ∧ g.pixels ≠ 0 ∧ s.planFits n sec x c ∧
    win.missing (g.tapRows g.y0 g.rows) = none ∧ s.lacks n c (x.allReads (g.gateUse n sec x) j c) = none ∧ s.arrayOn n c

/-- What a CONV leaves (R244 to R246). -/
def convDone (s : State) (n : Nat) (f : FmtA) (j : Job) (c : Core) : Done :=
  let sec := j.image.sec n
  let win := convWin n f j c
  let x := matmulPlan n f j c win.geo.pixels
  s.ran n (fun fawn => win.run x n (s.banksOf n) fawn sec (x.allReads (win.geo.gateUse n sec x) j c) j c)

/-- The plan of an FCONV (R247, R248). -/
def fconvOf (n : Nat) (f : FmtA) (j : Job) (c : Core) : FconvPlan :=
  let sec := j.image.sec n
  let b := sec.convBlk f.ctrl
  let g := b.geo j.image c
  let fmt := (j.image.tensor b.inT).fmt
  fconvPlan g { base := (sec.opBlk f.operand).act, geo := g, fmt, pad := sec.padOf b.inT fmt }

/-- An FCONV that may run at once (R247 to R251, R255, R256). -/
def fconvReady (s : State) (n : Nat) (f : FmtA) (j : Job) (c : Core) : Prop :=
  let sec := j.image.sec n
  let x := fconvOf n f j c
  let y := matmulPlan n f j c x.tiles.length
  x.g.tall j.image (j.rowCount c) = false ∧ x.g.hollow = false ∧ x.tiles ≠ [] ∧
    y.used - s.banksOf n ≤ (sec.spillSlots c.insn).length ∧ x.win.missing x.rows = none ∧ s.lacks n c (x.reads y) = none ∧
    s.arrayOn n c

/-- What an FCONV leaves (R247 to R251). -/
def fconvDone (s : State) (n : Nat) (f : FmtA) (j : Job) (c : Core) : Done :=
  let x := fconvOf n f j c
  let y := matmulPlan n f j c x.tiles.length
  s.ran n (fun fawn => x.run y n y.o.out fawn (x.reads y) j c)

/-- The control block of a scan and its rows (R150, R151). -/
def scanOf (n : Nat) (f : FmtA) (j : Job) : ScanBlk := (j.image.sec n).scanBlk f.ctrl

/-- A scan that may run at once: within its shape limits, some row, its slices and tensors at hand (R54, R151). -/
def scanReady (s : State) (n : Nat) (f : FmtA) (j : Job) (c : Core) : Prop :=
  let b := scanOf n f j
  let rs := scanRows 0 (j.batchRows c)
  b.overPlan j.image (j.batchRows c) = false ∧ rs ≠ [] ∧ s.lacks n c (b.reads j.image rs) = none

/-- The window of a POOL (R252). -/
def poolOf (n : Nat) (f : FmtV) (j : Job) (c : Core) : ConvWin :=
  poolWin f (j.image.sec n) ((convFields c.scratch (c.reg f.src3).toNat).geo j.image c) (c.reg f.src1).toNat

/-- A POOL that may run: its control block meets its rules, it is within its limits, it has an output element, and all that it
reads and writes is in place (R252, R256). -/
def poolReady (n : Nat) (f : FmtV) (j : Job) (c : Core) : Prop :=
  let win := poolOf n f j c
  let g := win.geo
  j.poolBlockOk n f.type c (c.reg f.src3).toNat = true ∧ g.tall j.image (j.rowCount c) = false ∧ g.ow ≤ 4096 ∧
    g.hollow = false ∧ g.y0 < g.oh ∧ win.poolBad (j.image.sec n) (tyBytes f.type) (c.reg f.dst).toNat = none

/-! ## The word of an instruction -/

/-- An instruction of a command program: its core, its word, and whether its fields are values that its format admits. None
for every other command. -/
def insnParts (i : Instr) : Option (Nat × Nat × Bool) :=
  match i with
  | .sli n f => some (n, wordS 0x01 f, f.wf && okS 0x01 f)
  | .sadd n f => some (n, wordS 0x02 f, f.wf && okS 0x02 f)
  | .smul n f => some (n, wordS 0x03 f, f.wf && okS 0x03 f)
  | .sand n f => some (n, wordS 0x04 f, f.wf && okS 0x04 f)
  | .sshr n f => some (n, wordS 0x05 f, f.wf && okS 0x05 f)
  | .scmp n f => some (n, wordS 0x06 f, f.wf && okS 0x06 f)
  | .sld n f => some (n, wordS 0x08 f, f.wf && okS 0x08 f)
  | .sst n f => some (n, wordS 0x09 f, f.wf && okS 0x09 f)
  | .spg n f => some (n, wordS 0x0A f, f.wf && okS 0x0A f)
  | .br n f => some (n, wordS 0x0C f, f.wf && okS 0x0C f)
  | .next n f => some (n, wordS 0x0D f, f.wf && okS 0x0D f)
  | .send n f => some (n, wordC 0x10 f, f.wf)
  | .recv n f => some (n, wordC 0x11 f, f.wf)
  | .free n f => some (n, wordC 0x12 f, f.wf)
  | .signal n f => some (n, wordM 0x18 f, f.wf && okM 0x18 f)
  | .wait n f => some (n, wordM 0x19 f, f.wf && okM 0x19 f)
  | .sread n f => some (n, wordM 0x1A f, f.wf && okM 0x1A f)
  | .sset n f => some (n, wordM 0x1B f, f.wf && okM 0x1B f)
  | .rpass n f => some (n, wordM 0x1C f, f.wf && okM 0x1C f)
  | .matmul n f => some (n, wordA 0x20 f, f.wf && okA 0x20 f)
  | .qk n f => some (n, wordA 0x21 f, f.wf && okA 0x21 f)
  | .pv n f => some (n, wordA 0x22 f, f.wf && okA 0x22 f)
  | .append n f => some (n, wordA 0x23 f, f.wf && okA 0x23 f)
  | .conv n f => some (n, wordA 0x24 f, f.wf && okA 0x24 f)
  | .fconv n f => some (n, wordA 0x25 f, f.wf && okA 0x25 f)
  | .scan n f => some (n, wordA 0x30 f, f.wf && okA 0x30 f)
  | .vadd n f => some (n, wordV 0x40 f, f.wf && okV 0x40 f)
  | .vsub n f => some (n, wordV 0x41 f, f.wf && okV 0x41 f)
  | .vmul n f => some (n, wordV 0x42 f, f.wf && okV 0x42 f)
  | .vfma n f => some (n, wordV 0x43 f, f.wf && okV 0x43 f)
  | .vfnma n f => some (n, wordV 0x44 f, f.wf && okV 0x44 f)
  | .vmax n f => some (n, wordV 0x45 f, f.wf && okV 0x45 f)
  | .vmin n f => some (n, wordV 0x46 f, f.wf && okV 0x46 f)
  | .vabs n f => some (n, wordV 0x47 f, f.wf && okV 0x47 f)
  | .vneg n f => some (n, wordV 0x48 f, f.wf && okV 0x48 f)
  | .vand n f => some (n, wordV 0x49 f, f.wf && okV 0x49 f)
  | .vor n f => some (n, wordV 0x4A f, f.wf && okV 0x4A f)
  | .vxor n f => some (n, wordV 0x4B f, f.wf && okV 0x4B f)
  | .vshl n f => some (n, wordV 0x4C f, f.wf && okV 0x4C f)
  | .vshr n f => some (n, wordV 0x4D f, f.wf && okV 0x4D f)
  | .vdiv n f => some (n, wordV 0x50 f, f.wf && okV 0x50 f)
  | .vsqrt n f => some (n, wordV 0x51 f, f.wf && okV 0x51 f)
  | .vrsqrt n f => some (n, wordV 0x52 f, f.wf && okV 0x52 f)
  | .vrecip n f => some (n, wordV 0x53 f, f.wf && okV 0x53 f)
  | .vexp n f => some (n, wordV 0x54 f, f.wf && okV 0x54 f)
  | .vlog n f => some (n, wordV 0x55 f, f.wf && okV 0x55 f)
  | .vcmp n f => some (n, wordV 0x58 f, f.wf && okV 0x58 f)
  | .vsel n f => some (n, wordV 0x59 f, f.wf && okV 0x59 f)
  | .vcvt n f => some (n, wordV 0x5A f, f.wf && okV 0x5A f)
  | .vrand n f => some (n, wordV 0x5B f, f.wf && okV 0x5B f)
  | .vsum n f => some (n, wordV 0x60 f, f.wf && okV 0x60 f)
  | .vrmax n f => some (n, wordV 0x61 f, f.wf && okV 0x61 f)
  | .vrmin n f => some (n, wordV 0x62 f, f.wf && okV 0x62 f)
  | .vld n f => some (n, wordV 0x68 f, f.wf && okV 0x68 f)
  | .vst n f => some (n, wordV 0x69 f, f.wf && okV 0x69 f)
  | .vcopy n f => some (n, wordV 0x6A f, f.wf && okV 0x6A f)
  | .vfft n f => some (n, wordV 0x80 f, f.wf && okV 0x80 f)
  | .vtopk n f => some (n, wordV 0x81 f, f.wf && okV 0x81 f)
  | .pool n f => some (n, wordV 0x82 f, f.wf && okV 0x82 f)
  | .bgather n f => some (n, wordB 0x90 f, f.wf && okB 0x90 f)
  | .bscatter n f => some (n, wordB 0x91 f, f.wf && okB 0x91 f)
  | .bscatadd n f => some (n, wordB 0x92 f, f.wf && okB 0x92 f)
  | .issue n f => some (n, wordI 0xA0 f, f.wf && (f.cmd == 0x10 || f.cmd == 0x12 || f.cmd == 0x13))
  | _ => none

end Sys2Proof.Machine
end

