-- ==== Sys2Proof/Certificates/Slice0/Obligations.lean ====
section
/-! DEFINITION. The statements for the provers. Each docstring names the rule of spec/ that the statement formalises, or the
log entry of a choice that it rests on. `s.setJob`, `s.setCore` and the record updates in a conclusion give the whole next
state, so whatever they do not name is unchanged. -/

open Sys2Proof Sys2Proof.Machine

/-! ## The machine -/

/-- One step takes the command at the front of the queue and runs it with the queue's rest; with no command waiting the block
idles (log entry 1, DESIGN CHOICE). -/
def Obligations.StepRunsFrontCommand : Prop :=
  (∀ (c : Instr) (rest : List Instr) (s : State), step { s with pending := c :: rest } = exec c { s with pending := rest }) ∧
  (∀ s : State, s.pending = [] → step s = .next s)

/-- The machine after reset. It has the P6's numbers of slots, links, engines and islands (R330, R370, R298, R24). R332: a
slot's registers read 0 and the slot is EMPTY. R410, R411: host registers and ring sets are 0 and no set runs. R377: link
credits. R504, R508: cap and setpoint of the fixed configuration (that it is in force is log entry 98, and that the links
are up log entry 76). -/
def Obligations.ResetValues : Prop :=
  State.reset.sized ∧ State.reset.pending = [] ∧ State.reset.board.phase = .ready ∧
  (∀ k, k < 64 → (State.reset.job k).info = {}) ∧
  (∀ p n, (State.reset.port p).ringSet n = {}) ∧
  (∀ p, (State.reset.port p).driver = 0 ∧ (State.reset.port p).lease = 0 ∧ (State.reset.port p).bar2 = 0 ∧
    (State.reset.port p).session.up = false) ∧
  (∀ n, n < 48 → (State.reset.link n).state = .down ∧ (State.reset.link n).credits = [32, 192, 192, 608]) ∧
  State.reset.sched.running = none ∧ State.reset.power.cap = 1200 ∧ State.reset.power.setpoint = 750 ∧
  State.reset.sec.nonce = 0 ∧ State.reset.sec.lcResult = 0 ∧ State.reset.health.logCount = 0

/-- INVARIANT. Every step keeps the numbers of job slots, links, codec engines and islands, in every state. -/
def Obligations.EveryStepKeepsSizes : Prop := ∀ s t : State, s.sized → step s = .next t → t.sized

/-- INVARIANT. No step of any command lowers a security-version minimum, clears an LC or intent bit, unkills the data seed or
takes a unit out of the repair fuses (R451, R459, R473, R481). -/
def Obligations.FusesOnlyRise : Prop := ∀ s t : State, step s = .next t → s.fuses.risen t.fuses

/-- No command adds to, drops from or reorders the queue of waiting commands. -/
def Obligations.CommandsKeepQueue : Prop := ∀ (i : Instr) (s t : State), exec i s = .next t → t.pending = s.pending

/-- Every well-formed command completes in every state, but for the two that may lose the module: an uncorrectable error of a
hub buffer and a failed phase of a hub rail (R479, R490). -/
def Obligations.WellFormedCompletes : Prop :=
  ∀ (i : Instr) (s : State), i.wf = true → (∀ h, i ≠ .eccError (.hubBuffer h) false) →
    (∀ r ph, i = .phaseFail r ph → r < 34) → ∃ t, exec i s = .next t

/-! ## Program words -/

/-- Decoding the word of an instruction of a command program, encoded by its format, gives that instruction back, with every
field at every value the format admits (R199 to R204, R207, R216, R219, R357). -/
def Obligations.ProgramWordsRoundTrip : Prop :=
  ∀ (i : Instr) (n w : Nat), insnParts i = some (n, w, true) → decodeInsn n w = some i


/-! ## Scalar and control instructions (R199, R202) -/

/-- R199: s0 reads 0 and a write to it is discarded; a write to any other register changes that register and no other. R202: SLI
writes IMM, SADD RA + (RB + IMM), SMUL RA × (RB + IMM), SAND RA AND (RB + IMM), SSHR RA shifted right by (RB + IMM) modulo
64, SCMP 1 where COND holds of RA and RB + IMM and 0 otherwise. Only RD and the place in the program change. -/
def Obligations.ScalarResults : Prop :=
  (∀ (c : Core) (v : W64) (r q : Nat), r < 32 → q < 32 →
    (c.setReg r v).reg q = (if q = 0 then 0 else if q = r then v else c.reg q) ∧
    (c.setReg r v).insn = c.insn ∧ (c.setReg r v).scratch = c.scratch ∧ (c.setReg r v).batch = c.batch) ∧
  (∀ (n k : Nat) (f : FmtS) (s : State), n < 512 → fmtSOk f = true →
    let c := s.coreOf k n
    let a := c.reg f.ra
    let b := c.reg f.rb + f.imm
    let put := fun (v : W64) => Host.Outcome.next (s.setCore k n ((c.setReg f.rd v).stepped (c.insn + 1)))
    (s.atInsn n k (wordS 0x01 f) → exec (.sli n f) s = put f.imm) ∧
    (s.atInsn n k (wordS 0x02 f) → exec (.sadd n f) s = put (a + b)) ∧
    (s.atInsn n k (wordS 0x03 f) → exec (.smul n f) s = put (a * b)) ∧
    (s.atInsn n k (wordS 0x04 f) → exec (.sand n f) s = put (a &&& b)) ∧
    (s.atInsn n k (wordS 0x05 f) → exec (.sshr n f) s = put (a >>> (b.toNat % 64))) ∧
    (s.atInsn n k (wordS 0x06 f) → exec (.scmp n f) s = put (if condHolds f.cond a b then 1 else 0)))

/-- R202, R230: SLD and SST move 8 B between RD or RB and the scratchpad at RA + IMM where the address is a multiple of 8 inside
the scratchpad, for SST outside the PROGRAM region; anywhere else the job stops with a lane fault at that address and
nothing is moved. R230, R350, R366: a lane fault writes the fault record and stops the job by force at the boundary before
the instruction; the core keeps its registers and its scratchpad. -/
def Obligations.ScalarMemoryAndFaults : Prop :=
  (∀ (n k : Nat) (f : FmtS) (s : State), n < 512 → fmtSOk f = true →
    let c := s.coreOf k n
    let a := (c.reg f.ra + f.imm).toNat
    let fits := a % 8 = 0 ∧ a + 8 ≤ 6291456
    let clear := ((s.job k).image.sec n).inProgram a 8 = false
    (s.atInsn n k (wordS 0x08 f) → fits → exec (.sld n f) s = .next (s.setCore k n
      ((c.setReg f.rd (BitVec.ofNat 64 (memWord c.scratch a 8))).stepped (c.insn + 1)))) ∧
    (s.atInsn n k (wordS 0x09 f) → fits → clear → exec (.sst n f) s = .next (s.setCore k n
      ({ c with scratch := memWrite c.scratch a (leBytes 8 (c.reg f.rb).toNat) }.stepped (c.insn + 1)))) ∧
    (s.atInsn n k (wordS 0x08 f) → ¬ fits → exec (.sld n f) s = .next (s.stopCore k n (.lane 0 a))) ∧
    (s.atInsn n k (wordS 0x09 f) → ¬ (fits ∧ clear) → exec (.sst n f) s = .next (s.stopCore k n (.lane 0 a)))) ∧
  (∀ (s : State) (k n l a : Nat), k < s.jobs.length → s.sched.pausing = none →
    let t := s.stopCore k n (.lane l a)
    let c := s.coreOf k n
    (t.job k).fault = some { core := n, insn := c.insn, lane := l, addr := a } ∧
    (t.job k).info.state = .pausing ∧
    (∃ p, t.sched.pausing = some p ∧ p.forced = true ∧ p.cause = 5 ∧ p.status = 0x0204) ∧
    (t.coreOf k n).sregs = c.sregs ∧ (t.coreOf k n).scratch = c.scratch ∧ (t.coreOf k n).insn = c.insn ∧
    (t.job k).run.mem = (s.job k).run.mem)

/-- R202, R225: SPG reads word COND of parameter group (RA + IMM) mod 256 of the core's own cluster, as the tables stood when
the batch was formed, and 0 at or beyond the group count; BR goes to its target where COND holds and on to the next
instruction otherwise; NEXT gives up the batch and waits at its own boundary. R444: the next batch of its stage reaches a
core that waits in NEXT: RD takes the row count, RD + 1 the input base, RD + 2 the output base, and the core goes on. -/
def Obligations.ParametersBranchesAndNext : Prop :=
  ∀ (n k : Nat) (f : FmtS) (s : State), n < 512 → fmtSOk f = true →
    let c := s.coreOf k n
    let j := s.job k
    let g := (c.reg f.ra + f.imm).toNat % 256
    (s.atInsn n k (wordS 0x0A f) → exec (.spg n f) s = .next (s.setCore k n ((c.setReg f.rd
      (if g < j.image.groupCount (n / 16) then
        (NMap.getD (j.run.tables c) (pgtIndex (n / 16) g f.cond) 0).setWidth 64 else 0)).stepped (c.insn + 1)))) ∧
    (s.atInsn n k (wordS 0x0C f) → exec (.br n f) s = .next (s.setCore k n (c.stepped
      (if condHolds f.cond (c.reg f.ra) (c.reg f.rb) then f.imm.toNat % 65536 else c.insn + 1)))) ∧
    (s.atInsn n k (wordS 0x0D f) → ∃ t, exec (.next n f) s = .next t ∧ (k < s.jobs.length →
      t.coreOf k n = { c with batch := none, wait := .next f.rd, inCmd := false })) ∧
    (∀ rd b, s.working n = some k → c.wait = .next rd → j.run.nextBatch c = some b →
      s.clusterServes (n / 16) c.seen b.id = true → exec (.nextBatchDelivered n) s = .next (s.setCore k n
        { (((c.setReg rd (BitVec.ofNat 64 b.rows.length)).setReg (rd + 1) b.inBase).setReg (rd + 2) b.outBase) with
          wait := .run, insn := c.insn + 1, batch := some b.id, seen := b.id + 1 }))

/-! ## Channels (R21, R203) -/

/-- R203: SEND takes its slots' credits and queues its bytes, and waits while credits are short; RECV returns the address of the
oldest arrived transfer not yet returned, and waits where there is none; FREE releases the oldest returned transfer, whose
slots travel back as credits. -/
def Obligations.ChannelInstructions : Prop :=
  ∀ (n k : Nat) (f : FmtC) (s : State), n < 512 → fmtCOk f = true →
    let c := s.coreOf k n
    let j := s.job k
    let x := j.run.chan f.chan
    let e := j.image.chanE f.chan
    let a := (c.reg f.reg).toNat
    let len := f.imm.toNat
    let go := fun (c : Core) (x' : Chan) =>
      Host.Outcome.next (s.setJob k { j with run := (j.run.setChan f.chan x').setCore n (c.stepped (c.insn + 1)) })
    (s.atInsn n k (wordC 0x10 f) → a + len ≤ 6291456 → e.slotsOf len ≤ x.credits → exec (.send n f) s = go c
      { x with credits := x.credits - e.slotsOf len, nextSlot := (x.nextSlot + e.slotsOf len) % e.depth
               transfers := x.transfers ++ [{ slot := x.nextSlot, slots := e.slotsOf len, data := memRead c.scratch a len
                                              arrived := false, recved := false }] }) ∧
    (s.atInsn n k (wordC 0x10 f) → a + len ≤ 6291456 → x.credits < e.slotsOf len →
      exec (.send n f) s = .next (s.setCore k n { c with wait := .send f.chan, inCmd := false })) ∧
    (∀ old t rest, s.atInsn n k (wordC 0x11 f) → x.transfers = old ++ t :: rest → (∀ o ∈ old, o.recved = true) →
      t.recved = false → t.arrived = true →
      exec (.recv n f) s = go (c.setReg f.reg (BitVec.ofNat 64
        ((((j.image.sec n).chanRegion f.chan).map (·.off)).getD 0 + t.slot * e.slotBytes)))
        { x with transfers := old ++ { t with recved := true } :: rest }) ∧
    (s.atInsn n k (wordC 0x11 f) → (∀ o ∈ x.transfers, o.recved = true) →
      exec (.recv n f) s = .next (s.setCore k n { c with wait := .recv f.chan f.reg, inCmd := false })) ∧
    (∀ t rest, s.atInsn n k (wordC 0x12 f) → x.transfers = t :: rest → t.recved = true →
      exec (.free n f) s = go c { x with transfers := rest, returning := x.returning ++ [t.slots] }) ∧
    (s.atInsn n k (wordC 0x12 f) → x.transfers = [] → exec (.free n f) s = .next (s.stopCore k n (.lane 0 f.chan)))

/-- R21: an acknowledge gives the oldest returning credits back to the producer, and a SEND that waits on the channel goes on; a
transfer arrives wholly at its consumer, and a RECV that waits for it returns it (R203, R254). A wait on a HALO channel that ends
is counted: its beats are free (log entry 7, DESIGN CHOICE). Route choices that waited for the channel are made (R56). -/
def Obligations.ChannelEvents : Prop :=
  ∀ (ch k : Nat) (s : State), ch < 65536 → s.sched.running = some k → k < s.jobs.length →
    let j := s.job k
    let x := j.run.chan ch
    let p := (j.image.chanE ch).producer
    let n := (j.image.chanE ch).consumer
    (∀ m rest, x.returning = m :: rest →
      let s' := s.setJob k { j with run := j.run.setChan ch { x with credits := x.credits + m, returning := rest } }
      (j.run.core p).wait ≠ .send ch → exec (.creditReturn ch) s = .next s') ∧
    (∀ m rest, x.returning = m :: rest → (j.run.core p).wait = .send ch →
      let s' := s.setJob k { j with run := j.run.setChan ch { x with credits := x.credits + m, returning := rest } }
      exec (.creditReturn ch) s = .next ((s'.setCore k p { j.run.core p with wait := .run }).countHalo k p ch 0x1A0)) ∧
    (x.returning = [] → exec (.creditReturn ch) s = .next s) ∧
    (∀ m rest, x.returning = m :: rest → ∃ t, exec (.creditReturn ch) s = .next t ∧
      ((t.job k).run.chan ch).credits = x.credits + m ∧ ((t.job k).run.chan ch).returning = rest ∧
      ((s.coreOf k p).wait = .send ch → (t.coreOf k p).wait = .run)) ∧
    (let j' := (j.arriveOne ch).settleRoutes s.health
     ((∀ r, (j'.run.core n).wait ≠ .recv ch r) → exec (.transferArrive ch) s = .next (s.setJob k j')) ∧
     (∀ r j2 c2, (j'.run.core n).wait = .recv ch r → (s.working n).isSome = true →
       recvOne j' (j'.run.core n) n ch r = some (j2, c2) → exec (.transferArrive ch) s = .next
         ((s.setJob k { j2 with run := j2.run.setCore n { c2 with wait := .run, insn := c2.insn + 1 } }).countHalo k n ch 0x198))) ∧
    (∀ old y rest, x.transfers = old ++ y :: rest → (∀ o ∈ old, o.arrived = true) → y.arrived = false →
      (s.coreOf k n).wait = .run → ∃ t, exec (.transferArrive ch) s = .next t ∧
        ((t.job k).run.chan ch).transfers = old ++ { y with arrived := true } :: rest ∧
        (t.coreOf k n).scratch = placeBytes (s.coreOf k n).scratch (j.image.chanE ch)
          ((((j.image.sec n).chanRegion ch).map (·.off)).getD 0) y.slot 0 y.data)

/-! ## Semaphores and the ring pass (R356 to R358, R395) -/

/-- R357: SREAD reads a semaphore, SSET sets it to v = RA + IMM modulo 2^32, WAIT subtracts v where the semaphore is at least v
and otherwise waits, a waiting WAIT subtracts and goes on once it is, and SIGNAL to this module adds v; to another module it sends its
packet, and R385: it waits at its core until the packet finds a link and credit units. -/
def Obligations.SemaphoreInstructions : Prop :=
  ∀ (n k : Nat) (f : FmtM) (s : State), n < 512 → fmtMOk f = true →
    let c := s.coreOf k n
    let j := s.job k
    let v : W32 := (c.reg f.ra).setWidth 32 + f.imm
    let w := NMap.getD j.run.sems f.sem 0
    let go := fun (c : Core) (sems : NMap W32) =>
      s.setJob k { j with run := ({ j.run with sems } : JobRun).setCore n (c.stepped (c.insn + 1)) }
    (s.atInsn n k (wordM 0x1A f) → exec (.sread n f) s = .next (go (c.setReg f.rd (w.setWidth 64)) j.run.sems)) ∧
    (s.atInsn n k (wordM 0x1B f) → exec (.sset n f) s = .next (go c (NMap.put j.run.sems f.sem v))) ∧
    (s.atInsn n k (wordM 0x19 f) → v.toNat ≤ w.toNat → exec (.wait n f) s = .next (go c (NMap.put j.run.sems f.sem (w - v)))) ∧
    (s.atInsn n k (wordM 0x19 f) → w.toNat < v.toNat →
      exec (.wait n f) s = .next (s.setCore k n { c with wait := .sem f.sem v, inCmd := false })) ∧
    (s.atInsn n k (wordM 0x18 f) → s.localPeer ((c.reg f.rb).toNat % 65536) = true → k < s.jobs.length →
      exec (.signal n f) s = .next (go c (NMap.put j.run.sems (f.sem % 4096) (NMap.getD j.run.sems (f.sem % 4096) 0 + v)))) ∧
    (s.atInsn n k (wordM 0x18 f) → s.localPeer ((c.reg f.rb).toNat % 65536) = false → let p := signalPacket s.herd.addr j.info.id n f c
      (s.mayLeave p = true → exec (.signal n f) s = .next ((go c j.run.sems).sendPacket p)) ∧
      (s.mayLeave p = false → exec (.signal n f) s = .next (s.setCore k n { c with wait := .signalFull, inCmd := false }))) ∧
    (∀ m u, s.working n = some k → c.wait = .sem m u → u.toNat ≤ (NMap.getD j.run.sems m 0).toNat → k < s.jobs.length →
      ∃ t, exec (.waitSatisfied n) s = .next t ∧ (t.job k).run.sems = NMap.put j.run.sems m (NMap.getD j.run.sems m 0 - u) ∧
        t.coreOf k n = { c with wait := .run, insn := c.insn + 1 })

/-- R357, R395: an RPASS whose length, source and destination are in order joins the end of its hub's engine, which takes 16; a
full engine makes it wait; a refused one is a lane fault. An engine copies a local transfer and sends another as the WRITE
packets of one message, a mirror transfer as its MIRROR packets (R360); a transfer that is done raises its semaphore, a local one both,
and cores that found the queue full try again. R354: a local copy waits while the journal is
full, and any transfer of withheld data waits (R492). Model's choices: the time of that wait is free (log entry 7, DESIGN CHOICE). -/
def Obligations.RingPass : Prop :=
  ∀ (n k : Nat) (f : FmtM) (s : State), n < 512 → fmtMOk f = true →
    let c := s.coreOf k n
    let j := s.job k
    let src := (c.reg f.ra).toNat
    let dst := (c.reg f.rb).toNat
    let len := (c.reg f.rc).toNat
    let peer := (c.reg f.rd).toNat % 65536
    let e := s.hubOf n
    let bad := rpassFault j (s.localPeer peer) src dst len
    (s.atInsn n k (wordM 0x1C f) → bad = none → (s.engine e).length < 16 → ∃ t, exec (.rpass n f) s = .next t ∧
      t.herd.engines = s.herd.engines.set e (s.engine e ++
        [{ slot := k, core := n, src, dst, len, peer, sem := f.sem, semb := f.semb, sent := 0, msg := 0, started := false }]) ∧
      (k < s.jobs.length → t.coreOf k n = c.stepped (c.insn + 1))) ∧
    (s.atInsn n k (wordM 0x1C f) → bad = none → 16 ≤ (s.engine e).length →
      exec (.rpass n f) s = .next (s.setCore k n { c with wait := .rpassFull, inCmd := false })) ∧
    (∀ a, s.atInsn n k (wordM 0x1C f) → bad = some a → exec (.rpass n f) s = .next (s.stopCore k n (.lane 0 a))) ∧
    (∀ g x rest, g < 8 → g < s.herd.engines.length → s.engine g = x :: rest → x.started = false → x.mirror = false →
      s.runningJob = some x.slot → s.localPeer x.peer = true → (x.len = 0 ∨ s.journalFull x.slot = false) → x.slot < s.jobs.length →
      (s.job x.slot).blocked x.src x.len false = false → (s.job x.slot).blocked x.dst x.len true = false →
      (let r := (s.jobCount x.slot 0x38 x.len).hubRead x.slot 6 x.src x.len
       let j' := (r.job x.slot).store x.dst (memRead (r.job x.slot).run.mem x.src x.len)
       exec (.rpassSend g) s = .next (((r.setJob x.slot j').hubWrite x.slot 6 x.dst x.len).setEngine g
         ({ x with started := true, sent := x.len } :: rest))) ∧
      ∃ t, exec (.rpassSend g) s = .next t ∧ t.engine g = { x with started := true, sent := x.len } :: rest ∧
        (t.job x.slot).run.mem = memWrite (s.job x.slot).run.mem x.dst (memRead (s.job x.slot).run.mem x.src x.len)) ∧
    (∀ g x rest, g < 8 → s.engine g = x :: rest → x.started = false → x.mirror = false → s.runningJob = some x.slot →
      s.localPeer x.peer = false → (s.job x.slot).blocked x.src x.len false = false →
      let r := (s.jobCount x.slot 0x38 x.len).hubRead x.slot 6 x.src x.len
      let x' := { x with started := true, sent := x.len, msg := r.message.1 }
      exec (.rpassSend g) s = .next ((r.message.2.setEngine g (x' :: rest)).sendAll
        (rpassPackets r.herd.addr (s.job x.slot).info.id (s.job x.slot) x' 0 (max 1 (cdiv x.len 4096))))) ∧
    (∀ g x rest, g < 8 → s.engine g = x :: rest → x.started = false → x.mirror = false → s.runningJob = some x.slot →
      ((s.job x.slot).blocked x.src x.len false = true ∨
        (s.localPeer x.peer = true ∧ (s.job x.slot).blocked x.dst x.len true = true) → exec (.rpassSend g) s = .next s) ∧
      ((s.job x.slot).blocked x.src x.len false = false → (s.job x.slot).blocked x.dst x.len true = false →
        s.localPeer x.peer = true → x.len ≠ 0 → s.journalFull x.slot = true →
        exec (.rpassSend g) s = .next (s.journalStall x.slot))) ∧
    (∀ g x rest, g < 8 → s.engine g = x :: rest → x.started = true → x.mirror = false →
      (s.localPeer x.peer = true → exec (.rpassComplete g) s =
        .next ((((s.setEngine g rest).raiseSem x.slot x.semb 1).raiseSem x.slot x.sem 1).wakeCores .rpassFull)) ∧
      (s.localPeer x.peer = false → s.rpassOpen x = false → exec (.rpassComplete g) s =
        .next (((s.setEngine g rest).raiseSem x.slot x.sem 1).wakeCores .rpassFull)) ∧
      (s.localPeer x.peer = false → s.rpassOpen x = true → exec (.rpassComplete g) s = .next s)) ∧
    (∀ g x rest, g < 8 → s.engine g = x :: rest → x.mirror = true →
      (x.started = false → exec (.rpassSend g) s = .next ((((s.jobCount x.slot 0x48 x.len).hubReads x.slot 6
        (x.pkts.map (fun p => (fld p.opA 0 57, p.payload.length)))).setEngine g
          ({ x with started := true, sent := x.len, pkts := [] } :: rest)).sendAll x.pkts)) ∧
      (x.started = true → s.rpassOpen x = false → ∃ t, exec (.rpassComplete g) s = .next t ∧
        (g < s.herd.engines.length → t.engine g = rest))) ∧
    (∀ g x rest, g < 8 → g < s.herd.engines.length → s.engine g = x :: rest → x.started = true → x.mirror = false →
      s.localPeer x.peer = true ∨ s.rpassOpen x = false → x.slot < s.jobs.length →
      ∃ t, exec (.rpassComplete g) s = .next t ∧ t.engine g = rest ∧
        ((s.localPeer x.peer = false ∨ x.semb % 4096 ≠ x.sem % 4096) → NMap.getD (t.job x.slot).run.sems (x.sem % 4096) 0 =
          NMap.getD (s.job x.slot).run.sems (x.sem % 4096) 0 + 1))

/-! ## Retired instructions and job memory -/

/-- What a retired instruction leaves alone, beyond its own effect: every other job; of its own job memory, semaphores,
channels, streams, registers and image; of every core all but the units fetched ahead, which the cache may drop (R295); the
queue, the number of islands, ports, links, herd, scheduler, codecs, firmware, keys, fuses, configuration, power and board. R85, R213: the checks
that end a vector or array command change nothing of a job but a core that moves, and nothing of the queue, scheduler,
links, herd, codecs, firmware, keys, fuses, configuration, flash, power and board; failures are counted, and only a second
one within a command holds the core and may move its stage. Model's choices: how many beat groups and array commands fail a check is free (log entries 37 and 43, DESIGN CHOICE). -/
def Obligations.RetiredInstructionFrame : Prop :=
  (∀ (s t : State) (n : Nat), (t = s.vecChecks n ∨ ∃ k d, t = s.arrayChecks k n d) →
    (∀ q, (t.job q).run.mem = (s.job q).run.mem ∧ (t.job q).run.sems = (s.job q).run.sems ∧
      (t.job q).run.chans = (s.job q).run.chans ∧ (t.job q).run.streams = (s.job q).run.streams ∧
      (t.job q).info = (s.job q).info ∧ (t.job q).image = (s.job q).image) ∧
    t.pending = s.pending ∧ t.sched = s.sched ∧ t.links = s.links ∧ t.herd = s.herd ∧ t.codecs = s.codecs ∧ t.fw = s.fw ∧
    t.fuses = s.fuses ∧ t.sec = s.sec ∧ t.cfg = s.cfg ∧ t.flash = s.flash ∧ t.power = s.power ∧ t.board = s.board) ∧
  (∀ (s : State) (n : Nat),
    let f := Config.groupFailures s.freeCtr
    let t := s.vecChecks n
    NMap.getD t.health.ctr 0x30 0 = NMap.getD (bump s.health.ctr 0x30 f) 0x30 0 ∧
    (f < 2 → t.jobs = s.jobs ∧ t.health.map = s.health.map ∧ t.health.verifying = s.health.verifying) ∧
    (2 ≤ f → s.health.placed n ∈ t.health.verifying)) ∧
  ∀ (s : State) (k n : Nat) (d : Done), k < s.jobs.length →
    let t := s.finishInsn k n d
    (∀ q, q ≠ k → t.job q = s.job q) ∧ (∀ m, m ≠ n → { t.coreOf k m with ahead := [] } = { d.job.run.core m with ahead := [] }) ∧
    { t.coreOf k n with ahead := [] } =
      { d.core.stepped (d.next.getD (d.core.insn + 1)) with ahead := [], ramping := d.ramp } ∧
    (t.job k).run.mem = d.job.run.mem ∧ (t.job k).run.sems = d.job.run.sems ∧ (t.job k).run.chans = d.job.run.chans ∧
    (t.job k).run.streams = d.job.run.streams ∧ (t.job k).info = d.job.info ∧ (t.job k).image = d.job.image ∧
    t.pending = s.pending ∧ t.islands.length = s.islands.length ∧ t.sched = s.sched ∧ t.portA = s.portA ∧ t.portB = s.portB ∧
    t.links = s.links ∧ t.herd = s.herd ∧ t.codecs = s.codecs ∧ t.fw = s.fw ∧ t.fuses = s.fuses ∧ t.sec = s.sec ∧
    t.cfg = s.cfg ∧ t.flash = s.flash ∧ t.power = s.power ∧ t.board = s.board

/-! ## Vector instructions (R206 to R215) -/

/-- R207, R208, R210 to R212: an element-wise instruction whose count is above 0 and whose lanes do not fault walks its enabled
lanes in ascending order, writing for each the element of R208 computed from what its operands then hold, and counts its
beats and the lanes masked off; then its beat groups meet the check of R213. Nothing else changes. Model's choices: the mask
is read before the first lane is written (log entry 49, DEDUCED), and special operands follow IEEE 754 with free NaN codes
(24, 51). -/
def Obligations.VectorElementwise : Prop :=
  ∀ (n k : Nat) (f : FmtV) (s : State) (x : LaneOp) (count : Nat), n < 512 → fmtVOk f = true → x ∈ elementwise n f →
    s.atInsn n k (wordV x.op f) → laneClear n f (mapPlan n f x.two x.three x.beats x.elem (s.job k) (s.coreOf k n))
      (s.job k) (s.coreOf k n) count →
    let c := s.coreOf k n
    let j := s.job k
    let z := tyBytes f.type
    let lanes := (vecMask f c true).lanes c.scratch count
    let elem := fun (m : NMap Byte) (i : Nat) => x.elem (memWord m ((c.reg f.src1).toNat + i * z) z)
      (if x.two then src2Code n f j c m i else 0) (if x.three then memWord m ((c.reg f.src3).toNat + i * z) z else 0)
    let scratch := walk { base := (c.reg f.dst).toNat, size := z, write := true } elem lanes c.scratch
    let run := (j.run.countCore n 0x100 (x.beats count)).countCore n 0x108 (count - lanes.length)
    exec x.insn s = .next
      ((s.setJob k { j with run := run.setCore n ({ c with scratch }.stepped (c.insn + 1)) }).vecEnd n x.op)

/-- R210, R211: a walk leaves every byte outside the elements of its enabled lanes alone; and where no enabled lane reads what
another writes, each enabled lane holds the element computed from the operands as they stood before the instruction. -/
def Obligations.VectorWalk : Prop :=
  ∀ (d : Opnd) (g : NMap Byte → Nat → Nat) (lanes : List Nat) (m : NMap Byte), memWf m = true → lanes.Pairwise (· < ·) →
    d.at' = id →
    memWf (walk d g lanes m) = true ∧
    (∀ a, (∀ i ∈ lanes, a < d.base + i * d.size ∨ d.base + (i + 1) * d.size ≤ a) →
      memGet (walk d g lanes m) a = memGet m a) ∧
    ((∀ m' i, i ∈ lanes → (∀ a, (∀ q ∈ lanes, a < d.base + q * d.size ∨ d.base + (q + 1) * d.size ≤ a) →
        memGet m' a = memGet m a) → g m' i = g m i) →
      ∀ i ∈ lanes, memWord (walk d g lanes m) (d.base + i * d.size) d.size = g m i % 256 ^ d.size)

/-- R212: a run-time count of 0 writes nothing and gives the commands of the batch status 1; a count above the plan is a shape
error; R230: the lowest lane that faults is reported with its address, and nothing is written. For every element-wise
instruction. Model's choices: the address that a fault outside the scratchpad reports (log entry 50, DEDUCED). -/
def Obligations.VectorCountsAndFaults : Prop :=
  ∀ (n k : Nat) (f : FmtV) (s : State) (x : LaneOp), n < 512 → fmtVOk f = true → x ∈ elementwise n f →
    s.atInsn n k (wordV x.op f) →
    let c := s.coreOf k n
    let p := mapPlan n f x.two x.three x.beats x.elem (s.job k) c
    (f.creg ≠ 0 → (c.reg f.creg).toNat = 0 → k < s.jobs.length →
      ∃ t, exec x.insn s = .next t ∧ t.coreOf k n = c.stepped (c.insn + 1) ∧
        (t.job k).run.mem = (s.job k).run.mem ∧
        ∀ b, (s.job k).run.batchOf c = some b → (t.job k).run.queue = (s.job k).run.queue.map (fun q =>
          if b.rows.any (fun r => r.1 == q.uid) then { q with status := max q.status 1 } else q)) ∧
    (f.creg ≠ 0 → f.count + 1 < (c.reg f.creg).toNat → exec x.insn s = .next (s.stopCore k n .shape)) ∧
    (∀ count i a, runCount c f.creg (f.count + 1) = some count →
      firstFault n (s.job k) c (vecMask f c true) count (max count p.slots) p.ops = some (i, a) →
      exec x.insn s = .next (s.stopCore k n (.lane i a)))

/-- R208, R211, R212: comparison, selection, conversion, draws, reductions and the moves to and from job memory retire with the
effect of their plan where their count is above 0, no lane faults and their accesses go on. Model's choices: the effects of
the plans rest on log entries 24, 48 and 51 (NaN codes, IMM, special operands). -/
def Obligations.OtherVectorsRetire : Prop :=
  ∀ (n k : Nat) (f : FmtV) (s : State) (i : Instr) (op : Nat) (plan : Job → Core → VecPlan) (count : Nat), n < 512 →
    fmtVOk f = true → (i, op, plan) ∈ otherVectors n f → s.atInsn n k (wordV op f) →
    laneClear n f (plan (s.job k) (s.coreOf k n)) (s.job k) (s.coreOf k n) count →
    let d := vecDone n f (plan (s.job k) (s.coreOf k n)) (s.job k) (s.coreOf k n) count
    s.goesOn k n d → exec i s = .next ((s.finishInsn k n d).vecEnd n op)

/-- R208, R212: VSUM writes the FP32 or INT32 sum of the enabled lanes at DST and 0 over no lane; VRMAX and VRMIN write the
greatest and the least element, and IMM converted to the type over no lane. Only those bytes of the scratchpad change.
Model's choices: the order of the tree of VSUM is a constant without a value (log entry 29, DESIGN CHOICE), and how IMM is
converted is log entry 48 (DEDUCED). -/
def Obligations.ReductionResults : Prop :=
  ∀ (f : FmtV) (j : Job) (c : Core) (lanes : List Nat) (count : Nat),
    let src := fun i => memWord c.scratch ((c.reg f.src1).toNat + i * tyBytes f.type) (tyBytes f.type)
    let dst := (c.reg f.dst).toNat
    let none' := tyCode f.type (f32 f.imm.toNat)
    let put := fun (size v : Nat) => { c with scratch := memWrite c.scratch dst (leBytes size v) }
    ((vsumPlan f j c).run lanes count j c).core =
      put 4 (if lanes.isEmpty then 0 else vsumOf f.type lanes src) ∧
    ((extremePlan f Num.max j c).run lanes count j c).core =
      put (tyBytes f.type) (if lanes.isEmpty then none' else extreme f.type Num.max (lanes.map src)) ∧
    ((extremePlan f Num.min j c).run lanes count j c).core =
      put (tyBytes f.type) (if lanes.isEmpty then none' else extreme f.type Num.min (lanes.map src)) ∧
    (∀ a, a < dst ∨ dst + 4 ≤ a → memGet ((vsumPlan f j c).run lanes count j c).core.scratch a = memGet c.scratch a)

/-- R214, R215: VFFT transforms its tiles in order, each read whole before it is written, and counts them; VTOPK writes the
greatest values with their indices, ties to the lower index, and fills what is left with IMM and -1. Model's choices: what
VFFT writes is free within the tolerance of R214 (log entry 11, DESIGN CHOICE). -/
def Obligations.TransformAndSelection : Prop :=
  ∀ (n k : Nat) (f : FmtV) (s : State) (count : Nat), n < 512 → fmtVOk f = true →
    let c := s.coreOf k n
    let j := s.job k
    (s.atInsn n k (wordV 0x80 f) → laneClear n f (vfftPlan f j c) j c count → ∃ t : State, exec (.vfft n f) s = .next (t.vecEnd n 0x80) ∧
      (k < s.jobs.length → (t.coreOf k n).insn = c.insn + 1 ∧
        (t.coreOf k n).scratch = ((vfftPlan f j c).run (List.range count) count j c).core.scratch)) ∧
    (s.atInsn n k (wordV 0x81 f) → laneClear n f (vtopkPlan f j c) j c count → ∃ t : State, exec (.vtopk n f) s = .next (t.vecEnd n 0x81) ∧
      (k < s.jobs.length → (t.coreOf k n).insn = c.insn + 1 ∧
        let z := tyBytes f.type
        let src := fun i => memWord c.scratch ((c.reg f.src1).toNat + i * z) z
        let picks := topLanes (fun i => tyNum f.type (src i)) (f.aux + 1) ((vecMask f c true).lanes c.scratch count)
        let left := f.aux + 1 - picks.length
        (t.coreOf k n).scratch = memWrite
          (memWrite c.scratch (c.reg f.dst).toNat
            ((picks.map src ++ List.replicate left (tyCode f.type (f32 f.imm.toNat))).flatMap (leBytes z)))
          (c.reg f.src2).toNat ((picks ++ List.replicate left (2 ^ 32 - 1)).flatMap (leBytes 4))))

/-! ## Array, attention, scan, convolution and pooling commands (R204, R205) -/

/-- R54, R93, R96, R205, R244, R252: an array, attention, scan, convolution or pooling command that is within its limits, whose tiles,
pages or slices are at hand and whose array is in use, retires with its own effect where its accesses go on; array commands then meet
the checks of R84 and R85. R93, R255: one with nothing to do completes as DONE_EMPTY; R54, R93: a shape beyond its limits is a shape
error, R191: visiting pages of other formats give the batch 0x0303, and a QK or PV of a span that no vector sees streams nothing. Model's choices: the counts of mismatches that a
command meets are free (log entry 37, DESIGN CHOICE), which tensors a shape limit is held against is log entry 102 (DEDUCED), and that
a SCAN passes over streams without state is log entry 131 (DESIGN CHOICE). -/
def Obligations.ArrayCommandsRetire : Prop :=
  ∀ (n k : Nat) (s : State), n < 512 →
    let c := s.coreOf k n
    let j := s.job k
    let sec := j.image.sec n
    let ends := fun (d : Done) => Host.Outcome.next (s.finishInsn k n d)
    let checked := fun (d : Done) => Host.Outcome.next ((s.finishInsn k n d).arrayChecks k n d)
    let emptyRun := j.run.countCore n 0x1A8 1
    let empty := ends { job := { j with run := emptyRun.countCore n 0x48 1 }, core := c, status := 1 }
    let shapeError := Host.Outcome.next (s.stopCore k n .shape)
    (∀ f : FmtA, fmtAOk f = true →
      let o := sec.opBlk f.operand
      let x := j.attnCmd c (sec.attnBlk f.ctrl)
      let rs := scanRows 0 (j.batchRows c)
      (∀ m, s.atInsn n k (wordA 0x20 f) → matmulReady s n f j c m → s.goesOn k n (matmulDone s n f j c m) →
        exec (.matmul n f) s = checked (matmulDone s n f j c m)) ∧
      (s.atInsn n k (wordA 0x20 f) → matmulShape n f j c 0 → exec (.matmul n f) s =
        ends { job := { j with run := j.run.countCore n 0x48 1 }, core := c, status := 1 }) ∧
      (s.atInsn n k (wordA 0x20 f) → o.vreg ≠ 0 → o.plan < (c.reg o.vreg).toNat → exec (.matmul n f) s = shapeError) ∧
      (∀ op i qk, (op, i, qk) ∈ [(0x21, Instr.qk n f, true), (0x22, Instr.pv n f, false)] → s.atInsn n k (wordA op f) →
        (attnReady s qk n f j c → s.goesOn k n (attnDone s qk n f j c) → exec i s = checked (attnDone s qk n f j c)) ∧
        (x.overPlan j c = true → exec i s = shapeError) ∧
        (x.overPlan j c = false → x.vectors = [] → exec i s =
          ends { job := { j with run := j.run.countCore n 0x48 1 }, core := x.tabled c, status := 1 }) ∧
        (x.overPlan j c = false → x.vectors ≠ [] → x.badVisitor (c.reg f.span).toNat = true → exec i s =
          ends { job := j, core := x.tabled c, status := 0x0303 }) ∧
        (let p := precOf f.prec.toNat (j.forcedPrec c)
         let d := x.run qk false n (c.reg f.span).toNat p (x.gateUse qk n sec o p) j (x.tabled c)
         x.overPlan j c = false → x.vectors ≠ [] → x.badVisitor (c.reg f.span).toNat = false →
          x.vectors.filter (fun q => x.sees q (c.reg f.span).toNat) = [] → s.goesOn k n d → exec i s = ends d)) ∧
      (s.atInsn n k (wordA 0x23 f) →
        (x.overPlan j c = true → exec (.append n f) s = shapeError) ∧
        (x.overPlan j c = false → x.queryTokens ≠ 0 → s.goesOn k n (x.append j (x.tabled c)) →
          exec (.append n f) s = ends (x.append j (x.tabled c))) ∧
        (x.overPlan j c = false → x.queryTokens = 0 →
          exec (.append n f) s = ends { job := j, core := x.tabled c, status := 1 })) ∧
      (s.atInsn n k (wordA 0x24 f) → let g := (convWin n f j c).geo
        (convReady s n f j c → s.goesOn k n (convDone s n f j c) → exec (.conv n f) s = checked (convDone s n f j c)) ∧
        (g.tall j.image (j.rowCount c) = true ∨ o.plan < g.pixels ∨ 4096 < g.ow → exec (.conv n f) s = shapeError) ∧
        (g.tall j.image (j.rowCount c) = false → g.ow ≤ 4096 → g.pixels = 0 → exec (.conv n f) s = empty)) ∧
      (s.atInsn n k (wordA 0x25 f) → let y := fconvOf n f j c
        (fconvReady s n f j c → s.goesOn k n (fconvDone s n f j c) → exec (.fconv n f) s = checked (fconvDone s n f j c)) ∧
        (y.g.tall j.image (j.rowCount c) = true → exec (.fconv n f) s = shapeError) ∧
        (y.g.tall j.image (j.rowCount c) = false → y.g.hollow = true ∨ y.tiles = [] → exec (.fconv n f) s = empty)) ∧
      (s.atInsn n k (wordA 0x30 f) →
        (scanReady s n f j c → s.goesOn k n ((scanOf n f j).run n rs j c) →
          exec (.scan n f) s = ends ((scanOf n f j).run n rs j c)) ∧
        ((scanOf n f j).overPlan j.image (j.batchRows c) = true → exec (.scan n f) s = shapeError) ∧
        ((scanOf n f j).overPlan j.image (j.batchRows c) = false → rs = [] →
          exec (.scan n f) s = ends { job := j, core := c, status := 1 }))) ∧
    (∀ f : FmtV, fmtVOk f = true → s.atInsn n k (wordV 0x82 f) →
      (poolReady n f j c → exec (.pool n f) s =
        .next ((s.finishInsn k n (poolRun f n (c.reg f.dst).toNat (poolOf n f j c) j c)).vecEnd n 0x82)) ∧
      (let g := (poolOf n f j c).geo
       j.poolBlockOk n f.type c (c.reg f.src3).toNat = true →
        (g.tall j.image (j.rowCount c) = true ∨ 4096 < g.ow → exec (.pool n f) s = shapeError) ∧
        (g.tall j.image (j.rowCount c) = false → g.ow ≤ 4096 → g.hollow = true ∨ g.oh ≤ g.y0 → exec (.pool n f) s =
          .next ((s.finishInsn k n { job := { j with run := emptyRun }, core := c, status := 1 }).vecEnd n 0x82))) ∧
      (j.poolBlockOk n f.type c (c.reg f.src3).toNat = false →
        exec (.pool n f) s = .next (s.stopCore k n (.lane 0 (c.reg f.src3).toNat))))

/-- R82, R90, R205: a MATMUL that may run at once is done: its outputs are those of its vectors and the weight matrix, put through the
gate pipeline vector by vector; each output is the FP32 sum of its slices' block sums in order, and a diagonal one is its element
times its weight. Only the scratchpad, the accumulators and what the cells hold change in the core. Model's choices: accumulators are
kept as bytes of the core (log entry 42, DESIGN CHOICE), and NaN weights are log entry 53 (DEDUCED). -/
def Obligations.MatmulEffect : Prop :=
  (∀ (s : State) (n : Nat) (f : FmtA) (j : Job) (c : Core) (m : Nat), matmulReady s n f j c m →
    effectMatmul s n f j c = .done (matmulDone s n f j c m)) ∧
  (∀ (s : State) (n : Nat) (f : FmtA) (j : Job) (c : Core) (m : Nat),
    let d := matmulDone s n f j c m
    let x := matmulPlan n f j c m
    let sec := j.image.sec n
    let u := sec.gateUse n x
    let ys := (stage c.scratch x.p x.o.act x.o.k x.m).map (fun v => (List.range x.outs).map (x.output j.run.mem v))
    d.core.sregs = c.sregs ∧ d.core.insn = c.insn ∧ d.core.batch = c.batch ∧ d.job.run.mem = j.run.mem ∧
    d.job.run.streams = j.run.streams ∧
    (x.used ≤ s.banksOf n → d.core.scratch = (ys.zipIdx.foldl (fun a y =>
      u.vector j c y.2 u.g.softmax (fun _ => false) y.1 a) { scratch := c.scratch }).scratch)) ∧
  (∀ (x : MatPlan) (mem : NMap Byte) (v : Staged) (o : Nat),
    x.p.diag = false → x.output mem v o = (List.range x.slices).foldl (fun acc q =>
      addBlocks x.p (tileAt mem x.p (x.tile (o / x.cols) q)) (o % x.cols) (v.getD q []) (x.rows q) acc 256 0) 0)

/-- R86, R87, R102: an array in use runs the command at once, an array out of use ramps up with it where fewer than four others
of the cluster ramp, and otherwise waits; a ramp that ends lets the lowest waiting core begin; an idle array ramps down; on the
fawn path no ramp is needed (R91). Model's choices: an array out of use waits once for its ramp (log entry 41, DEDUCED), and the
beats of that wait are free within R87's 144 (log entry 7, DESIGN CHOICE). -/
def Obligations.ArrayRamps : Prop :=
  ∀ (n k : Nat) (s : State) (j : Job) (c : Core) (go : Job → Core → Done) (run : Bool → Job → Core → Done), n < 512 →
    (c.groupsOn = 8 → rampUp n j c go = .done (go j c)) ∧
    (s.onFawn n = true → s.useArray n j c run = .done (s.ran n (fun fawn => run fawn j c))) ∧
    (s.onFawn n = false → s.useArray n j c run = rampUp n j c (fun j c => s.ran n (fun fawn => run fawn j c))) ∧
    (c.groupsOn ≠ 8 → 4 ≤ j.run.ramping n → rampUp n j c go = .wait .ramp j) ∧
    (c.groupsOn ≠ 8 → j.run.ramping n < 4 → ∃ d, rampUp n j c go = .done d ∧ d.ramp = true ∧
      d.core = (go { j with run := j.run.countCore n 0x10 1 } { c with groupsOn := 8 }).core) ∧
    (s.working n = some k → (s.coreOf k n).wait = .ramp → k < s.jobs.length →
      (∀ e ∈ (s.job k).run.cores, e.1 / 16 = n / 16 → e.2.wait = .ramp → n ≤ e.1) →
      (∃ t, exec (.arrayRampWaitEnd n) s = .next t ∧ (t.coreOf k n).wait = .run ∧ (t.coreOf k n).groupsOn = 8 ∧
        (t.coreOf k n).ramping = true) ∧
      (∀ e, ((s.job k).run.cores.filter (fun e => e.1 / 16 == n / 16)).find? (fun e => e.2.ramping) = some e →
        let r := (s.job k).run.setCore e.1 { e.2 with ramping := false }
        let r := r.setCore n { r.core n with wait := .run, groupsOn := 8, ramping := true }
        exec (.arrayRampWaitEnd n) s = .next (s.fresh.2.setJob k { s.job k with
          run := (r.countCore n 0x10 1).countCore n 0x18 (s.fresh.1 % 145) }))) ∧
    (s.sched.running = some k →
      exec (.arrayIdleRampDown n) s = .next (s.setCore k n { s.coreOf k n with groupsOn := 0, ramping := false }))

/-! ## Browse and issue (R216 to R220) -/

/-- R217, R219, R220: a browse instruction with a count above 0, no position that faults and every granule at hand retires with
its operation: BGATHER fills the packed rows of its enabled positions in ascending order, BSCATTER writes them to job memory, and
BSCATADD adds them there. One whose granules are not all at hand waits with its misses in their slots, which the hubs are asked for; a
miss that its hub may answer frees its slot, and the unit issues on. R212: a count of 0 is done with status 1, one above the plan is a
shape error. Model's choices: the draws of BSCATADD's prefix and of idle beats are free (log entry 7, DESIGN CHOICE). -/
def Obligations.BrowseRetires : Prop :=
  ∀ (n k : Nat) (f : FmtB) (s : State), n < 512 → fmtBOk f = true → s.sched.running = some k →
    let c := s.coreOf k n
    let j := s.job k
    let s2 := { s with freeCtr := s.freeCtr + 2 }
    let idle := Config.freeNat (s.freeCtr + 1)
    let x := fun (op count : Nat) => (browseCmd op f c count).issue s k n c
    let run := fun (op count : Nat) => j.run.countIssue n idle (x op count).1 (x op count).2
    let done := fun (op count : Nat) => (browseCmd op f c count).run n { j with run := run op count } (c.issued (x op count).1)
    (∀ op i, (op, i) ∈ [(0x90, Instr.bgather n f), (0x91, Instr.bscatter n f), (0x92, Instr.bscatadd n f)] →
      s.atInsn n k (wordB op f) →
      (∀ count, runCount c f.creg (f.count + 1) = some count → (browseCmd op f c count).firstFault n j c = none → count ≠ 0 →
        ((x op count).1.misses = [] → s2.goesOn k n (done op count) → exec i s = .next (s2.finishInsn k n (done op count))) ∧
        ((x op count).1.misses ≠ [] → exec i s = .next ((s2.setJob k { j with
          run := (run op count).setCore n { c.issued (x op count).1 with wait := .browse, inCmd := true } }).askMisses k n))) ∧
      (runCount c f.creg (f.count + 1) = some 0 → exec i s = .next (s2.finishInsn k n { job := j, core := c, status := 1 })) ∧
      (runCount c f.creg (f.count + 1) = none → exec i s = .next (s2.stopCore k n .shape))) ∧
    (∀ count, ((browseCmd 0x90 f c count).run n j { c with scatDone := none }).core.scratch =
      ((browseCmd 0x90 f c count).lanes c.scratch).foldl
        (fun m p => memWrite m ((c.reg f.data).toNat + p * f.rowbytes)
          (j.readMem ((browseCmd 0x90 f c count).rowAddr c.scratch p) f.rowbytes)) c.scratch) ∧
    (∀ miss m, c.wait = .browse → c.misses[miss]? = some m → s.mayAnswer k (.miss n m.no) 3 = true →
      let w := (j.image.sec n).wordAt c.insn
      let g := fieldsB w
      let c' := { c with misses := c.misses.eraseIdx miss, arrived := c.arrived ++ [m.no] }
      let y := (browseCmd (w % 256) g c' ((runCount c' g.creg (g.count + 1)).getD 0)).issue s k n c'
      exec (.browseMissReturn n miss) s = .next ((s.fresh.2.setJob k { j with
        run := (j.run.setCore n { c'.issued y.1 with wait := if y.1.misses.isEmpty then .run else .browse }).countIssue n
          s.fresh.1 y.1 y.2 }).askMisses k n)) ∧
    (∀ miss m, c.wait = .browse → c.misses[miss]? = some m → s.mayAnswer k (.miss n m.no) 3 = true → k < s.jobs.length →
      ∃ t, exec (.browseMissReturn n miss) s = .next t ∧ m.no ∈ (t.coreOf k n).arrived ∧
        (t.coreOf k n).scratch = c.scratch ∧ ∀ q ∈ c.misses.eraseIdx miss, q ∈ (t.coreOf k n).misses)

/-- R216, R126: ISSUE whose predicate fails writes 2; with 4,096 commands of the job outstanding it writes 0; otherwise it
writes 1 and the command of its 64 B body joins the job's queue. -/
def Obligations.IssueResults : Prop :=
  ∀ (n k : Nat) (f : FmtI) (s : State), n < 512 → fmtIOk f = true → s.atInsn n k (wordI 0xA0 f) → k < s.jobs.length →
    let c := s.coreOf k n
    let j := s.job k
    let a := (c.reg f.desc).toNat
    let r := (c.reg f.caddr).toNat
    let placed := a % 64 = 0 ∧ a + 64 ≤ 6291456 ∧ r % 32 = 0 ∧ j.mapped r 32 = true
    (issueGoes f c = false → ∃ t, exec (.issue n f) s = .next t ∧ t.coreOf k n = (c.setReg f.res 2).stepped (c.insn + 1) ∧
      (t.job k).run.queue = j.run.queue) ∧
    (issueGoes f c = true → placed → 4096 ≤ j.run.issued → ∃ t, exec (.issue n f) s = .next t ∧
      t.coreOf k n = (c.setReg f.res 0).stepped (c.insn + 1) ∧ (t.job k).run.queue = j.run.queue) ∧
    (issueGoes f c = true → placed → j.run.issued < 4096 → ∃ t, exec (.issue n f) s = .next t ∧
      t.coreOf k n = (c.setReg f.res 1).stepped (c.insn + 1) ∧
      (t.job k).run.queue = (j.enqueue (j.issueCmd c f s.sched.cmdSeq)).run.queue ∧
      t.sched.cmdSeq = s.sched.cmdSeq + 1) ∧
    (issueGoes f c = true → ¬ (a % 64 = 0 ∧ a + 64 ≤ 6291456) → exec (.issue n f) s = .next (s.stopCore k n (.lane 0 a)))

/-! ## Jobs (chapter 11) -/

/-- R334, R335, R340: JOB_START and JOB_RESUME, which are interchangeable, put an ARMED or PAUSED job of their port in the run
queue at the place of its descriptor among those of its priority, with the priority, slice, yield bound and commit interval of the
descriptor; the command completes when the job is RUNNING. It waits while its job is LOADING; an interval out of range is BAD_PARAMETER;
of a RUNNING job it completes at once. From a driver outside sapwood's window it is refused with VERSION and changes no job (R422), and a
confidential job takes none from an unsealed set (R427). -/
def Obligations.StartQueuesJob : Prop :=
  ∀ (s : State) (c : Cmd) (k ms : Nat) (i : Instr), s.schedServes = true →
    (i = .jobStart c ∧ c.desc.opcode = 0x02) ∨ (i = .jobResume c ∧ c.desc.opcode = 0x04) →
    (s.versionOk c.port = false → exec i s = .next ((s.takeCmd c).completeFree c 0x0102 0 0) ∧ ∃ t, exec i s = .next t ∧
      t.sched.running = s.sched.running ∧ ∀ q, (t.job q).run = (s.job q).run ∧ (t.job q).info.state = (s.job q).info.state ∧
        (t.job q).info.queued = (s.job q).info.queued) ∧
    (s.versionOk c.port = true → s.slotOf c.desc.job = some k → (s.job k).info.owner = c.port → (s.job k).info.state ≠ .ending →
      (s.job k).info.shuns c = true → (s.job k).info.state ≠ .loading → exec i s = .next ((s.takeCmd c).refuseCmd c 0x0203)) ∧
    (s.versionOk c.port = true → s.slotOf c.desc.job = some k → (s.job k).info.owner = c.port → (s.job k).info.shuns c = false →
      (commitInterval c.desc.w32 = none → (s.job k).info.state ≠ .ending →
        exec i s = .next (((s.takeCmd c).complete k c 0x0203 0 0 0).hostCount c.port 0x50)) ∧
      (commitInterval c.desc.w32 = some ms → (s.job k).info.state = .loading → exec i s = .next ((s.takeCmd c).setInfo k
        { (s.job k).info with waiting := (s.job k).info.waiting ++ [c] })) ∧
      (commitInterval c.desc.w32 = some ms → (s.job k).info.state = .running → bit c.desc.w24 16 = false ∨ (s.job k).info.buddy = true →
        exec i s = .next ((s.takeCmd c).complete k c 0 0 0 0))) ∧
    (s.versionOk c.port = true → s.slotOf c.desc.job = some k → (s.job k).info.owner = c.port → (s.job k).info.shuns c = false →
      (s.job k).info.state = .armed ∨ (s.job k).info.state = .paused → commitInterval c.desc.w32 = some ms →
      ∃ t, exec i s = .next t ∧ (t.job k).info.queued = true ∧ (t.job k).info.qTime = c.seq ∧
        (t.job k).info.starts = (s.job k).info.starts ++ [c] ∧ (t.job k).info.prio = c.desc.prio ∧
        (t.job k).info.slice = fld c.desc.w8 0 32 ∧ (t.job k).info.commitMs = ms ∧
        (t.job k).info.yieldUs = (if fld c.desc.w16 0 32 = 0 then 10000 else fld c.desc.w16 0 32) ∧
        (t.job k).info.state = (s.job k).info.state ∧ (t.job k).run = (s.job k).run)

/-- R345, R346, R348, R368: a JOB_PAUSE starts a pause of a RUNNING job, forced with FORCE, joins one in progress, takes a
waiting job out of the run queue, and completes at once where there is nothing to pause; of a LOADING or RESUMING job it waits. -/
def Obligations.PauseCommand : Prop :=
  ∀ (s : State) (c : Cmd) (k : Nat), s.schedServes = true → c.desc.opcode = 0x03 → s.slotOf c.desc.job = some k →
    (s.job k).info.owner = c.port → (s.job k).info.shuns c = false →
    ((s.job k).info.state = .running → ∃ t, exec (.jobPause c) s = .next t ∧ (t.job k).info.state = .pausing ∧
      t.sched.intakeOpen = false ∧ (t.job k).run = (s.job k).run ∧ t.sched.pausing = some {
        forced := c.desc.flags.testBit 0, cause := if c.desc.flags.testBit 0 then 2 else 1, yields := false
        bounded := fld c.desc.w8 0 32 != 0xFFFFFFFF, cmds := [c], status := 0, tag := 0 }) ∧
    (∀ p, (s.job k).info.state = .pausing → s.sched.pausing = some p →
      ∃ t q, exec (.jobPause c) s = .next t ∧ t.sched.pausing = some q ∧ q.cmds = p.cmds ++ [c] ∧
        q.forced = (p.forced || c.desc.flags.testBit 0) ∧ q.cause = p.cause ∧ (t.job k).info.queued = false ∧
        ((s.job k).info.queued = false → t.jobs = s.jobs) ∧ ((s.job k).info.queued = true → (t.job k).info.starts = [])) ∧
    ((s.job k).info.state = .loading ∨ (s.job k).info.state = .resuming → exec (.jobPause c) s = .next ((s.takeCmd c).setInfo k
      { (s.job k).info with waiting := (s.job k).info.waiting ++ [c] })) ∧
    ((s.job k).info.state = .armed ∨ (s.job k).info.state = .paused → ∃ t, exec (.jobPause c) s = .next t ∧
      (t.job k).info.queued = false ∧ ((s.job k).info.queued = true → (t.job k).info.starts = []) ∧
      (t.job k).info.state = (s.job k).info.state ∧ (t.job k).run = (s.job k).run)

/-- R331, R337, R471, R472: JOB_END of a job that is not running takes effect at once, and of a running one once every core stands
at a boundary: the slot is ENDING with nothing of its run kept, its key slot is cleared, its space enters the scrub pool, and the
device is free; of a LOADING one it waits. R402: nothing of the job is left in the herd. -/
def Obligations.JobEnds : Prop :=
  ∀ (s : State) (c : Cmd) (k : Nat), s.schedServes = true →
    (c.desc.opcode = 0x05 → s.slotOf c.desc.job = some k → (s.job k).info.owner = c.port → (s.job k).info.shuns c = false →
      ((s.job k).info.state = .loading → exec (.jobEnd c) s = .next ((s.takeCmd c).setInfo k
        { (s.job k).info with waiting := (s.job k).info.waiting ++ [c] })) ∧
      ((s.job k).info.state = .armed ∨ (s.job k).info.state = .paused → ∃ t, exec (.jobEnd c) s = .next t ∧
        t.job k = (s.job k).ended ∧ t.sec.jobKeys = NMap.del s.sec.jobKeys k ∧
        t.sec.scrub = s.sec.scrub + (s.job k).scrubBytes) ∧
      ((s.job k).info.state = .running ∨ (s.job k).info.state = .pausing → ∃ t, exec (.jobEnd c) s = .next t ∧
        t.sched.ending = s.sched.ending ++ [(k, c)] ∧ t.jobs = s.jobs)) ∧
    (k < 64 → k < s.jobs.length → s.sched.ending.find? (fun e => e.1 == k) = some (k, c) → (s.job k).atPoint true = true →
      ∃ t, exec (.jobEndTakesEffect k) s = .next t ∧ t.job k = (s.job k).ended ∧ t.sec.jobKeys = NMap.del s.sec.jobKeys k ∧
        t.sec.scrub = s.sec.scrub + (s.job k).scrubBytes ∧
        (let id := (s.job k).info.id
         (∀ u ∈ t.herd.unacked, u.pkt.job ≠ id) ∧ (∀ x ∈ t.herd.flows, x.job ≠ id) ∧ (∀ m ∈ t.herd.messages, m.job ≠ id) ∧
          ∀ ts ∈ t.herd.engines, ∀ x ∈ ts, x.slot ≠ k) ∧
        (s.sched.running = some k → t.health.replay = none ∧ t.sched.running = none ∧ t.sched.pausing = none ∧ t.sched.seekCommit = none ∧
          ((s.job k).info.state ≠ .resuming → t.tiers = { salt := s.tiers.salt }) ∧
          ((s.job k).info.state = .resuming → (s.job k).info.wbPending = false → t.tiers = s.tiers)))

/-- R353: COMMIT waits with its job, and of a running job it makes a commit point be sought. R425: JOB_SET_TOKEN sets the token
that offsets 8 and 16 carry. R425, R426: JOB_ADOPT with the job's token, from its owner or while the owner is absent, makes
the issuing port its owner and the issuing set its home set, and clears the token; with any other token nothing is adopted. R432: it waits
behind a JOB_PAUSE or JOB_END of its job that was taken before it. R427: a confidential job takes neither from an unsealed set.
Model's choices: a COMMIT of a stopped job waits for its next commit point (log entry 100, DEDUCED). -/
def Obligations.JobSettings : Prop :=
  ∀ (s : State) (c : Cmd) (k : Nat), s.schedServes = true → s.slotOf c.desc.job = some k → (s.job k).info.state ≠ .ending →
    (c.desc.opcode = 0x06 → (s.job k).info.owner = c.port → (s.job k).info.shuns c = false → ∃ t, exec (.commit c) s = .next t ∧
      (t.job k).info.commits = (s.job k).info.commits ++ [c] ∧ (t.job k).run = (s.job k).run ∧
      ((s.job k).info.state = .running ∨ (s.job k).info.state = .pausing → s.sched.running = some k → s.sched.seekCommit = none →
        t.sched.seekCommit = some false ∧ t.sched.intakeOpen = false)) ∧
    (c.desc.opcode = 0x08 → (s.job k).info.owner = c.port → (s.job k).info.shuns c = false → ∃ t, exec (.jobSetToken c) s = .next t ∧
      (t.job k).info.token = c.desc.w16 ++ c.desc.w8 ∧ (t.job k).run = (s.job k).run) ∧
    (c.desc.opcode = 0x07 → s.actsAfter c = true → exec (.jobAdopt c) s = .next s) ∧
    (c.desc.opcode = 0x07 → s.versionOk c.port = true → s.actsAfter c = false → (s.job k).info.token ≠ 0 →
      ((s.job k).info.confidential = true → c.sealed = true) →
      (s.job k).info.token = c.desc.w16 ++ c.desc.w8 →
      (s.job k).info.owner = c.port ∨ (s.port (s.job k).info.owner).absentNow = true →
      ∃ t, exec (.jobAdopt c) s = .next t ∧ (t.job k).info.owner = c.port ∧ (t.job k).info.homeSet = c.set ∧
        (t.job k).info.token = 0 ∧ (t.job k).run = (s.job k).run) ∧
    (c.desc.opcode = 0x07 → (s.job k).info.token ≠ c.desc.w16 ++ c.desc.w8 → ∃ t, exec (.jobAdopt c) s = .next t ∧
      (t.job k).info.owner = (s.job k).info.owner ∧ (t.job k).info.token = (s.job k).info.token)

/-- R338, R422: JOB_LOAD from a driver that sapwood accepts makes the lowest free slot LOADING for its port and set. R69: a
firing that a check refuses leaves an EMPTY slot. R67, R103, R199, R453: one that passes leaves an ARMED job with a key in
its slot of the key RAM, its cores at instruction 0 with every register 0 and its channels with their credits. Model's
choices: the reasons of a refusal, where the manual leaves an offset or an order to a reading, are log entries 72 to 74
(DEDUCED). -/
def Obligations.LoadAndFire : Prop :=
  ∀ (s : State) (c : Cmd) (k : Nat),  s.schedServes = true → k < s.jobs.length → k < 64 →
    (c.desc.opcode = 0x01 → s.versionOk c.port = true → s.jobs.findIdx (fun j => !j.info.state.loaded) = k →
      ∃ t, exec (.jobLoad c) s = .next t ∧ (t.job k).info.state = .loading ∧ (t.job k).info.owner = c.port ∧
        (t.job k).info.homeSet = c.set ∧ (t.job k).info.loadCmd = some c ∧ (t.job k).run = {}) ∧
    ((s.job k).info.state = .loading → (s.job k).info.loadCmd = some c →
      (∀ q < s.jobs.length, ∀ m, (s.job q).loadSeq = some m → c.seq ≤ m) →
      (∀ r, s.fireVerdict k c.desc.job c = some r → ∃ t, exec (.firingDone k) s = .next t ∧
        (t.job k).info.state = .empty ∧ (t.job k).run = {}) ∧
      ((s.job k).info.waiting = [] → ∃ t, exec (.firingDone k) s = .next t ∧
        match s.fireVerdict k c.desc.job c with
        | some _ => (t.job k).info.state = .empty
        | none => (t.job k).info.state = .armed ∧ (t.job k).image = imageOf (s.delivered c) ∧
          (∀ n, (t.job k).run.core n = {}) ∧ (NMap.find t.sec.jobKeys k).isSome = true ∧
          (t.job k).info.confidential = (imageOf (s.delivered c)).confidential))

/-- R340, R348, R352: the device, when free, takes the first queued job whose save need fits the pool: of those, none has a
higher priority, or the same and an earlier place; the job is RESUMING until its restore is complete. R230, R227, R331: once
it is, and the last job's write-back has finished, the job (a buddy's copy from what it has acknowledged, R360) is RUNNING, its fault record is clear, the staging copy holds the
live tables, its start commands have completed and intake opens, or a commit point is sought for COMMITs that waited (R353). -/
def Obligations.RunQueueAndRestore : Prop :=
  ∀ (s : State) (k : Nat),
    (s.sched.running = none → s.schedServes = true → s.nextJob = some k →
      (s.mayRun k = true ∧ s.fits k = true ∧
        ∀ q < s.jobs.length, s.mayRun q = true → s.fits q = true → q = k ∨
          (s.job q).info.prio < (s.job k).info.prio ∨
          ((s.job q).info.prio = (s.job k).info.prio ∧ (s.job k).info.qTime < (s.job q).info.qTime)) ∧
      ∃ t, exec .jobRunSelect s = .next t ∧ t.sched.running = some k ∧
        t.job k = { s.job k with info := { (s.job k).info with state := .resuming, queued := false, holdsSave := true } }) ∧
    (s.sched.running = some k → (s.job k).info.state = .resuming → (∀ x ∈ s.jobs, x.info.wbPending = false) →
      s.schedServes = true → s.health.replace = [] → s.health.exhausted = false → (s.job k).info.waiting = [] →
      (∀ q < s.jobs.length, s.mayRun q = true → (s.job q).info.prio ≤ (s.job k).info.prio) →
      ∃ t, exec .resumeDone s = .next t ∧ (t.job k).info.state = .running ∧ (t.job k).fault = none ∧
        (t.job k).stage = (s.job k).fromMirror.run.pgt ∧ (t.job k).info.starts = [] ∧ ((s.job k).info.commits = [] → t.sched.intakeOpen = true) ∧
        ((s.job k).info.commits ≠ [] → s.sched.seekCommit = none → t.sched.seekCommit = some false ∧ t.sched.intakeOpen = false) ∧
        (t.job k).run.streams = (s.job k).fromMirror.run.streams ∧ (t.job k).run.mem = (s.job k).run.mem) ∧
    ((s.job k).info.mirror = false ∨ (s.job k).mirrorItems = [] → (s.job k).fromMirror = s.job k)

/-- R341, R348: an elapsed time slice makes the job yield to a queued one of equal or higher priority, at a bed point, or to the next such
that is queued; the yield
bound forces the yield where the pool can hold its save, and the bound of a JOB_PAUSE forces the pause. R332, R349, R351,
R353: at its pause point the job is PAUSED with its cause, the pause is a commit point whose journal is empty, what the job
holds of the pool is its save where the pause was forced, and the device is free; once dirty SRAM is written back WB_PENDING
clears and the tiers are empty (R291, R471). Host writes that waited for journal space take effect at the commit point (R354, R423). -/
def Obligations.YieldsAndPauses : Prop :=
  ∀ (s : State) (k : Nat),
    (∀ q, s.sched.running = some k → (s.job k).info.state = .running → (s.job k).info.slice ≠ 0 → q < s.jobs.length → q ≠ k →
      s.mayRun q = true → (s.job k).info.prio ≤ (s.job q).info.prio → ∃ t, exec .timeSliceExpired s = .next t ∧
        (t.job k).info.state = .pausing ∧ t.sched.intakeOpen = false ∧
        t.sched.pausing = some { forced := false, cause := 3, yields := true, bounded := false, cmds := [], status := 0, tag := 0 }) ∧
    (s.sched.running = some k → (s.job k).info.state = .running → (s.job k).info.slice ≠ 0 → (∀ q < s.jobs.length, q ≠ k →
      s.mayRun q = true → (s.job q).info.prio < (s.job k).info.prio) →
      exec .timeSliceExpired s = .next { s with sched := { s.sched with sliceOver := true } }) ∧
    (∀ q, s.sched.running = some k → (s.job k).info.state = .running → s.sched.sliceOver = true → q < s.jobs.length → q ≠ k →
      s.mayRun q = true → (s.job k).info.prio ≤ (s.job q).info.prio → s.checkYield =
        s.beginPause k { forced := false, cause := 3, yields := true, bounded := false, cmds := [], status := 0, tag := 0 }) ∧
    (∀ p, s.sched.running = some k → s.sched.pausing = some p → p.yields = true → s.fits k = true →
      exec .yieldBoundExpired s = .next { s with sched := { s.sched with pausing := some { p with forced := true } } }) ∧
    (∀ p, s.sched.pausing = some p → p.bounded = true →
      exec .pauseBoundExpired s = .next { s with sched := { s.sched with pausing := some { p with forced := true } } }) ∧
    (∀ p, s.sched.running = some k → s.sched.pausing = some p → k < s.jobs.length → (s.job k).atPoint p.forced = true →
      s.schedServes = true → s.health.replay = none → s.health.replace = [] → (∀ e ∈ s.sched.ending, e.1 ≠ k) →
      ∃ t, exec .pausePointReached s = .next t ∧
        (t.job k).info.state = .paused ∧ (t.job k).info.wbPending = true ∧ (t.job k).info.holdsSave = p.forced ∧
        (t.job k).info.cause = (if p.forced = true ∧ (p.cause = 1 ∨ p.cause = 3) then p.cause + 1 else p.cause) ∧
        (t.job k).info.commitSeq = (s.job k).info.commitSeq + 1 ∧
        ((s.job k).heldWrites = [] → (t.job k).journalBytes = 0) ∧
        t.sched.running = none ∧ t.sched.previous = some k ∧ t.sched.pausing = none ∧ t.sched.intakeOpen = true) ∧
    ((List.range s.jobs.length).find? (fun q => (s.job q).info.wbPending) = some k →
      (let r := s.drainTiers k
       exec .writebackDone s = .next { r with
         jobs := r.jobs.map (fun j => { j with info := { j.info with wbPending := false } }), tiers := { salt := r.tiers.salt }
         sched := { r.sched with previous := none } }) ∧
      ∃ t, exec .writebackDone s = .next t ∧ t.tiers = { salt := s.tiers.salt } ∧ t.sched.previous = none ∧
        ∀ q, (t.job q).info.wbPending = false ∧ (t.job q).run.mem = (s.job q).run.mem ∧
          (t.job q).run.streams = (s.job q).run.streams ∧ (q ≠ k → (t.job q).run = (s.job q).run)) ∧
    ((∀ q < s.jobs.length, (s.job q).info.wbPending = false) → exec .writebackDone s = .next s)

/-- R353: the commit interval and three quarters of a full journal make a commit point be sought, of a job that pauses too; a timeout takes it by force;
once the cores stand where it may be taken, the present run, with what the herd holds of it outbound (R356), is the commit point, the sequence number rises, the COMMITs
complete, dirty SRAM is written back, the host writes that waited for journal space take effect (R354, R423), and intake opens. -/
def Obligations.CommitPoint : Prop :=
  ∀ (s : State) (k : Nat), s.sched.running = some k → (s.job k).info.state = .running ∨ (s.job k).info.state = .pausing →
    (s.sched.seekCommit = none → ∀ i, i = .commitIntervalExpired ∨
        (i = .journalThreeQuarters ∧ 3 * journalSize ≤ 4 * (s.job k).journalBytes) →
      exec i s = .next { s with sched := { s.sched with seekCommit := some false, intakeOpen := false } }) ∧
    (s.sched.seekCommit = some false →
      exec .commitBedTimeout s = .next { s with sched := { s.sched with seekCommit := some true } }) ∧
    (∀ forced, s.sched.seekCommit = some forced → (s.job k).atPoint forced = true → s.schedServes = true →
      s.health.replay = none → s.health.replace = [] → s.health.migrate = [] → ∃ t, exec .commitPointReached s = .next t ∧
        (t.job k).commit = some (s.withHerd k (s.job k).run) ∧ (t.job k).info.commitSeq = (s.job k).info.commitSeq + 1 ∧
        (t.job k).info.commits = [] ∧ t.sched.seekCommit = none ∧ t.sched.intakeOpen = s.sched.pausing.isNone ∧
        (t.job k).info.state = (s.job k).info.state ∧ (forced = true → (t.job k).info.cause = 6) ∧
        ((s.job k).lost = [] → (t.job k).heldWrites = []) ∧ ((s.job k).heldWrites = [] → (t.job k).journal = [] ∧ ∀ cl,
          (∀ x ∈ (t.tiers.tier cl).ember, x.2.dirty = 0) ∧ ∀ x ∈ (t.tiers.tier cl).cache, x.2.dirty = 0))

/-- R344, R493, R494: a second in which every batch formed left work behind counts in JOB_SATURATED and is reported, one in
which the late beats of all clusters rose by 2^26, or the bank stalls of all cores by 2^24, is reported; the second's
tallies start afresh. A second that ends as its job pauses counts for the job that formed its batches (R344). -/
def Obligations.SecondSummaries : Prop :=
  ∀ s : State,
    let full := s.sched.batchesSec ≠ 0 ∧ s.sched.allBehind = true
    (s.sched.secJob = none → exec .saturated s = .next s) ∧
    (∀ k, s.sched.secJob = some k → k < s.jobs.length → ∃ t, exec .saturated s = .next t ∧ t.sched.batchesSec = 0 ∧
      t.sched.allBehind = true ∧ t.sched.deferredSec = 0 ∧ t.sched.guardSec = 0 ∧
      t.sched.secJob = (if s.workingJob = some k then some k else none) ∧
      (full → (t.job k).run.ctrJob = bump (s.job k).run.ctrJob 0x40 1 ∧ t.health.logCount = s.health.logCount + 1) ∧
      (¬ full → (t.job k).run = (s.job k).run ∧ t.health = s.health)) ∧
    (∀ k, s.sched.running = some k → (s.job k).info.state = .running →
      let late := ((List.range 32).map (fun c => NMap.getD (s.job k).run.ctrCluster (c * 0x80 + 0x58) 0 -
        NMap.getD s.sched.lateMark c 0)).sum
      let stalls := ((List.range 512).map (fun n => NMap.getD (s.job k).run.ctrCore (n * 0x400 + 0x140) 0 -
        NMap.getD s.sched.stallMark n 0)).sum
      (∃ t, exec .prefetchLateSummary s = .next t ∧ t.sched.lateCount = 0 ∧ (t.job k).run = (s.job k).run ∧
        t.health.logCount = (if 2 ^ 26 ≤ late then s.health.logCount + 1 else s.health.logCount)) ∧
      (∃ t, exec .bankStallSummary s = .next t ∧ (t.job k).run = (s.job k).run ∧
        t.health.logCount = (if 2 ^ 24 ≤ stalls then s.health.logCount + 1 else s.health.logCount)))

/-! ## Streams, batches and copies (chapters 4, 7 and 10) -/

/-- The stream commands with their opcodes (R111). -/
def streamCommands (c : Cmd) : List (Instr × Nat) :=
  [ (.stepCmd c, 0x10), (.chunk c, 0x11), (.fork c, 0x12), (.prune c, 0x13), (.exportState c, 0x14), (.importState c, 0x15),
    (.swapOut c, 0x16), (.swapIn c, 0x17) ]

/-- R35, R113, R117: a stream command of the running job enters its queue; a condition of R117 refuses it whole, with that
status and no output, a CHUNK with its sequence number (R118); otherwise it waits in the queue for its batch, or has finished where
its rows all met a condition of R108, and the moves that its rows need start (R108). R34: a device-issued one waits until all ahead of
it on its streams is published, and R35: so does an IMPORT_STATE; R426: an import from host memory waits while its port is absent, and R492: one
that would read withheld data. Model's
choices: a confidential job's transfer waits for a session of its port (log entry 125, DESIGN CHOICE). -/
def Obligations.StreamCommandsDispatch : Prop :=
  ∀ (s : State) (c : Cmd) (k : Nat) (e : Instr × Nat) (q : QCmd), s.sched.running = some k → (s.job k).info.state = .running →
    (s.job k).info.id = c.desc.job → e ∈ streamCommands c → c.desc.opcode = e.2 →
    (∀ x ∈ (s.job k).run.queue, x.cmd ≠ c) → ((s.job k).enqueue c).run.queue.getLast? = some q →
    let j := (s.job k).enqueue c
    let held := ((c.dev = true ∨ c.desc.opcode = 0x15) ∧ j.run.clearBefore q.uid q.streams = false) ∨
      (c.desc.opcode = 0x15 ∧ fld c.desc.w24 48 2 = 1 ∧ (s.port c.port).absentNow = true) ∨
      (j.info.confidential = true ∧ usesHost c.desc = true ∧ (s.port c.port).session.up = false) ∨
      j.readsWait (descReads c.desc) = true
    let q' := { q with phase := 1, under := ((s.port c.port).session.epoch, (s.port c.port).session.keyD2h) }
    let s' := (s.setJob k { j with run := (earlyMoves j q' (j.run.setQ q') q'.rows).finishDone [q'] }).startFetches k j.run
    (held → exec e.1 s = .next (s.setJob k j)) ∧
    (∀ st, ¬ held → j.dispatchRefusal q = some st →
      exec e.1 s = .next (s.setJob k { j with run := j.run.refuseWhole q st })) ∧
    (¬ held → j.dispatchRefusal q = none → c.desc.opcode ≠ 0x15 → exec e.1 s = .next s') ∧
    (¬ held → j.dispatchRefusal q = none → c.desc.opcode = 0x15 → exec e.1 s = .next (s'.startImport k q')) ∧
    (¬ held → j.dispatchRefusal q = none → k < s.jobs.length → ∃ t, exec e.1 s = .next t ∧
      ((∃ x ∈ (t.job k).run.queue, x.cmd = c ∧ x.phase = 1) ∨ (∃ p ∈ (t.job k).run.publish, p.cmd = c)))

/-- R116, R345, R353: the batcher forms no batch while a commit point is sought or no job is RUNNING; what it forms stands
behind the batches before it and is journalled (R354), its tail copies are made (R174), and its rows' table traffic is charged (R280);
where the journal is full, or a page to copy is withheld (R492), it waits; what it cannot place stays as settled. A waiting CHUNK that fits the extent and names a live stream in peat that needs no page becomes the next batch. -/
def Obligations.BatchForms : Prop :=
  ∀ (s : State) (k : Nat), s.health.replay = none → s.sched.running = some k →
    (s.sched.seekCommit ≠ none → exec .batchForm s = .next s) ∧
    ((s.job k).info.state ≠ .running → exec .batchForm s = .next s) ∧
    (s.sched.seekCommit = none → (s.job k).info.state = .running →
      let j := s.job k
      let f := (formNext j j.run).1
      let s' := (s.setJob k { j with run := f.run }).startFetches k j.run
      ((formNext j j.run).2 = none → exec .batchForm s = .next s') ∧
      ((formNext j j.run).2.isSome = true → s.journalFull k = true → exec .batchForm s = .next (s.journalStall k)) ∧
      (∀ b, (formNext j j.run).2 = some b → s.journalFull k = false → j.readsWait (b.rows.flatMap f.run.copySources) = true →
        exec .batchForm s = .next s) ∧
      (∀ b, (formNext j j.run).2 = some b → s.journalFull k = false → j.readsWait (b.rows.flatMap f.run.copySources) = false →
        ∃ d, exec .batchForm s = .next
        ((({ s'.setJob k ((s'.job k).note (.batch (f.run.parts b))) with sched := d }).tailCopies k
          (b.rows.flatMap f.run.copiesOf)).tableTraffic k b.rows) ∧
          d = { s'.sched with
            batchesSec := s'.sched.batchesSec + 1, allBehind := s'.sched.allBehind && f.run.behind
            deferredSec := s'.sched.deferredSec + (if j.run.guarded then f.run.deferredRows else 0)
            guardSec := s'.sched.guardSec + (if j.run.guarded then 1 else 0) })) ∧
    (s.sched.seekCommit = none → (s.job k).info.state = .running → k < s.jobs.length → ∃ t, exec .batchForm s = .next t ∧
      (∃ new, (t.job k).run.batches = (s.job k).run.batches ++ new ∧ new.length ≤ 1 ∧
        (t.job k).run.batchNext = (s.job k).run.batchNext + new.length ∧
        ∀ b ∈ new, b.id = (s.job k).run.batchNext ∧ (b.rows ≠ [] ∨ b.riders ≠ [])) ∧
      ((s.job k).run.queue = [] → (t.job k).run = (s.job k).run)) ∧
    (∀ q w, (s.job k).lost = [] → s.journalFull k = false → s.sched.seekCommit = none → (s.job k).info.state = .running → k < s.jobs.length → (s.job k).run.queue = [q] →
      q.cmd.desc.opcode = 0x11 → q.phase = 1 → q.go = false → q.rows = [w] → w.phase = 0 → w.isOpen = false →
      w.tokens ≤ (s.job k).image.extent →
      let e := (s.job k).run.stream w.stream
      e.kind = 1 → e.gen = w.gen → e.loc = .resident → e.parked = 0 → e.statePtr ≠ 0 → (s.job k).run.forked e = false →
      ∃ t b, exec .batchForm s = .next t ∧ (t.job k).run.batches = (s.job k).run.batches ++ [b] ∧
        b.id = (s.job k).run.batchNext ∧ b.rows = [(q.uid, w.ix)] ∧ b.riders = [] ∧ b.oldest = some q.cmd ∧
        b.pgt = (s.job k).run.pgt)

/-- R113, R114: an advance that commits gives its stream its last token's length, raises the count of steps by its tokens and
ends its reset and its parking; its random counter rises where it drew (R128); a CLOSE frees the stream, of which only the
generation is kept, one higher, with the number from which waiting advances of that generation go on (R104, R113). Model's
choices: when the batch of the advance is over is log entry 21 (DEDUCED). -/
def Obligations.AdvanceCommits : Prop :=
  ∀ (r : JobRun) (w : Row), 
    let e := (r.commitRow w).stream w.stream
    (w.isClose = false → e.stepCount = min (2 ^ 64 - 1) (w.st.stepCount + w.tokens) ∧ e.committed = w.seq ∧
      e.length = (if w.st.kind = 2 ∨ w.st.kind = 3 then w.st.length + w.tokens else w.st.length) ∧
      e.parked = 0 ∧ e.resetNext = false ∧ e.promise = w.st.promise - w.spend ∧ e.kind = w.st.kind ∧
      e.rngCtr = (if w.drew = true then (w.st.rngCtr + 1) % 2 ^ 64 else w.st.rngCtr) ∧ w.seq ≤ e.assigned) ∧
    (w.isClose = true → { e with assigned := 0 } = { gen := (w.st.gen + 1) % 65536 }) ∧
    (∀ n, n ≠ w.stream → (r.commitRow w).stream n = r.stream n)

/-- R49, R122, R125, R129, R134: the oldest batch commits once every core of the LAST stages has finished with it: its advances, then
its riders, not while the journal is full (R354) or a state that goes out is withheld (R492). A PRUNE frees its stream; a SWAP_OUT, whose stream is MOVING from its start (R107), makes it COLD and writes its image to
the host buffer; a FORK makes children of the parent's length, state and page table, one deeper, that name it; an EXPORT_STATE that
moves leaves it EXPORTED; an IMPORT_STATE makes its stream. Model's choices: when a batch is over is log entry 21 (DEDUCED), the
bytes of a swap image are the P6's own (log entry 14, DESIGN CHOICE). -/
def Obligations.RidersCommit : Prop :=
  (∀ (s : State) (k : Nat) (b : Batch) (rest : List Batch), s.sched.running = some k → k < s.jobs.length →
    (s.job k).run.batches = b :: rest →
    ((s.job k).batchOver b = false → exec .batchCommit s = .next s) ∧
    ((s.job k).batchOver b = true → s.journalFull k = true → exec .batchCommit s = .next (s.journalStall k)) ∧
    let reads := (s.job k).readsWait ((s.job k).run.riderRanges b 0x14 ++ (s.job k).run.riderRanges b 0x16)
    ((s.job k).batchOver b = true → s.journalFull k = false → reads = true → exec .batchCommit s = .next s) ∧
    ((s.job k).batchOver b = true → s.journalFull k = false → reads = false →
      let s1 := s.hubReads k 7 ((s.job k).run.riderRanges b 0x14 ++ (s.job k).run.riderRanges b 0x16)
      let j := s1.job k
      let s2 := ((s1.setJob k (j.commitBatch b rest)).trimKeys).dropFreed k j.run
      let s3 := (j.run.importsOf b).foldl (fun (s : State) n => s.stateIn k n) s2
      exec .batchCommit s = .next ((s3.flushFilled k (j.run.filled b)).writeEntries k j.run) ∧
      ∃ t, exec .batchCommit s = .next t ∧ (t.job k).run.batches = rest ∧ (t.job k).run.mem = (j.commitBatch b rest).run.mem ∧
        (t.job k).run.publish = (j.commitBatch b rest).run.publish)) ∧
  (∀ (s : State) (k n gen u : Nat) (b : Batch) (rest : List Batch) (q : QCmd), s.sched.running = some k → k < s.jobs.length →
    s.journalFull k = false → (s.job k).lost = [] → (s.job k).run.batches = b :: rest → b.rows = [] → b.riders = [u] → (s.job k).run.findQ u = some q → q.refs = [(n, gen)] →
    ∃ t, exec .batchCommit s = .next t ∧ (t.job k).run.batches = rest ∧
      let e := (s.job k).run.stream n
      let e' := (t.job k).run.stream n
      (q.cmd.desc.opcode = 0x13 → e.kind ≠ 0 → e.gen = gen → { e' with assigned := 0 } = { gen := (e.gen + 1) % 65536 }) ∧
      (q.cmd.desc.opcode = 0x13 → e.kind = 0 ∨ e.gen ≠ gen → e' = e) ∧
      (q.cmd.desc.opcode = 0x16 → e.loc = .moving →
        e'.loc = .cold ∧ e'.statePtr = 0 ∧ e'.awayAddr = e.awayAddr ∧ e'.awaySize = e.awaySize ∧ e'.length = e.length ∧
          e'.promise = 0 ∧ ∃ p ∈ (t.job k).run.publish, p.cmd = q.cmd ∧ p.count = e.awaySize / 4096 ∧
            p.writes = [((s.job k).hostSpace e.swapPort q.under.2, e.awayAddr, swapBytes e.awaySize e.swapState e.swapPages)]) ∧
      (q.cmd.desc.opcode = 0x12 → n ∉ q.kids → q.kids.Nodup → ∀ c ∈ q.kids,
        let x := (t.job k).run.stream c
        x.parent = n ∧ x.parentGen = e.gen ∧ x.depth = e.depth + 1 ∧ x.kind = e.kind ∧ x.length = e.length ∧
          x.stepCount = e.stepCount ∧ x.statePtr = e.statePtr ∧ x.pages = e.pages ∧ x.root = e.root ∧
          x.gen = ((s.job k).run.stream c).gen) ∧
      (q.cmd.desc.opcode = 0x14 → bit q.cmd.desc.w40 0 = true → bit q.cmd.desc.w40 1 = false →
        e.recordSize ≤ q.cmd.desc.w24.toNat → e'.loc = .exported ∧ e'.pages = [] ∧ e'.statePtr = 0) ∧
      (q.cmd.desc.opcode = 0x15 → e'.kind = q.made.kind ∧ e'.length = q.made.length ∧ e'.gen = q.made.gen ∧
        e'.loc = q.made.loc)) ∧
  (∀ (r : JobRun) (q : QCmd) (n : Nat),
    let e := r.stream n
    let size := swapSize e.stateBytes (r.swapParts e).2.length
    let e' := (settleSwapOut r q n).stream n
    (size ≤ q.cmd.desc.w24.toNat → q.cmd.desc.w16.toNat % 4096 = 0 → e'.loc = .moving ∧ e'.cameFrom = .resident ∧
      e'.awayAddr = q.cmd.desc.w16.toNat ∧ e'.awaySize = size ∧ e'.swapPort = q.cmd.port ∧ e'.statePtr = e.statePtr ∧ e'.pages = e.pages) ∧
    (q.cmd.desc.w24.toNat < size ∨ q.cmd.desc.w16.toNat % 4096 ≠ 0 → e' = e))

/-- R6, R130, R136: the move of a COLD stream whose host buffer still holds the image makes it RESIDENT, with its pages in the pages that
the move took, and completes its SWAP_IN, its table entry written (R103); one whose buffer has changed stays COLD, and the command that needed it fails with
STATE_FORMAT. A move from a PEER puts the record into its pages once all of it has come and its size and digest are right, else the
stream stays PEER. A move waits behind an absent port (R426) and behind the unpublished SWAP_OUT of its image (R35). Model's choices:
the bytes of a swap image are the P6's own (log entry 14, DESIGN CHOICE). -/
def Obligations.StreamMoves : Prop :=
  ∀ (s : State) (k n : Nat), n < 2 ^ 20 → s.sched.running = some k → (s.job k).info.state = .running →
    let j := s.job k
    let r := j.run
    let e := r.stream n
    let h := s.port e.swapPort
    let back := r.setStream n e.away
    let fails := (s.setJob k { j with run := failMove back n 0x0303 back.queue }).trimKeys
    e.kind ≠ 0 → e.loc = .moving →
    (e.cameFrom = .cold → h.absentNow = false → (∀ p ∈ r.publish, p.cmd.desc.opcode = 0x16 → n ∉ p.streams) →
      let size := hostSize j.info.confidential e.awaySize
      let same := memRead h.hostMem e.awayAddr size = j.swapStored e
      (same → exec (.streamMoveDone n) s = .next
        (((s.setJob k { j with run := (r.restore n size).swapInDone n e.swapNeed }).stateIn k n).writeEntries k r).trimKeys) ∧
      (same → k < s.jobs.length → ∃ t, exec (.streamMoveDone n) s = .next t ∧ ((t.job k).run.stream n).loc = .resident ∧
        ((t.job k).run.stream n).parked = 0 ∧ ((t.job k).run.stream n).length = e.length ∧
        (t.job k).run.mem = (r.restore n size).mem) ∧
      (¬ same → exec (.streamMoveDone n) s = .next fails) ∧
      (¬ same → r.queue = [] → k < s.jobs.length → ∃ t, exec (.streamMoveDone n) s = .next t ∧
        ((t.job k).run.stream n).loc = .cold ∧ (t.job k).run.mem = r.mem)) ∧
    (e.cameFrom = .peer → min e.awaySize e.room ≤ e.peerBuf.length →
      let placed := r.placeBody { e with loc := .resident, parked := 0, promise := e.promise - e.need } e.moveBase e.peerBuf
      let e' := { placed.2 with peerBuf := [], moveBase := 0, herdAddr := 0, awayAddr := 0, awaySize := 0 }
      (bodyOk e.peerBuf e.room = true → exec (.streamMoveDone n) s =
        .next (((s.setJob k { j with run := placed.1.setStream n e' }).stateIn k n).writeEntries k r).trimKeys) ∧
      (bodyOk e.peerBuf e.room = true → k < s.jobs.length → ∃ t, exec (.streamMoveDone n) s = .next t ∧
        ((t.job k).run.stream n).loc = .resident ∧ ((t.job k).run.stream n).length = e.length ∧
        (t.job k).run.mem = placed.1.mem) ∧
      (bodyOk e.peerBuf e.room = false → exec (.streamMoveDone n) s = .next fails)) ∧
    (e.cameFrom = .cold → h.absentNow = true ∨ (∃ p ∈ r.publish, p.cmd.desc.opcode = 0x16 ∧ n ∈ p.streams) →
      exec (.streamMoveDone n) s = .next s.trimKeys) ∧
    (e.cameFrom = .peer → e.peerBuf.length < min e.awaySize e.room → exec (.streamMoveDone n) s = .next s.trimKeys)

/-- R225, R226, R232: a PARAM_GROUP_WRITE whose list is in order publishes all its entries at once, where every command before
it in the queue has been given to a batch; a list that is empty, too long, outside job memory or of a group a cluster does
not have changes nothing, and one of withheld data waits (R492). -/
def Obligations.ParameterPublication : Prop :=
  ∀ (s : State) (c : Cmd) (k : Nat), s.sched.running = some k → (s.job k).info.state = .running →
    (s.job k).info.id = c.desc.job → c.desc.opcode = 0x18 → (s.job k).run.queue = [] →
    let n := fld c.desc.w16 0 32
    let good := 1 ≤ n ∧ n ≤ 8192 ∧ (s.job k).mapped c.desc.w8.toNat (48 * n) = true ∧
      (s.job k).image.entriesOk n (memRead (s.job k).run.mem c.desc.w8.toNat (48 * n)) = true
    let reads := (s.job k).readsWait (descReads c.desc)
    (1 ≤ n → n ≤ 8192 → (s.job k).mapped c.desc.w8.toNat (48 * n) = true → reads = true →
      exec (.paramGroupWrite c) s = .next (s.setJob k ((s.job k).enqueue c))) ∧
    (good → reads = false → ∃ t, exec (.paramGroupWrite c) s = .next t ∧
      (t.job k).run.pgt = applyEntries n (s.job k).run.pgt (memRead (s.job k).run.mem c.desc.w8.toNat (48 * n)) ∧
      ∃ p ∈ (t.job k).run.publish, p.cmd = c ∧ p.status = 0 ∧ p.count = n) ∧
    (¬ good → reads = false → ∃ t, exec (.paramGroupWrite c) s = .next t ∧ (t.job k).run.pgt = (s.job k).run.pgt ∧
      ∃ p ∈ (t.job k).run.publish, p.cmd = c ∧ p.status = (if n = 0 then 0x0001 else 0x0203))

/-- R421: COPY_IN and COPY_OUT of a range that is a multiple of 64 B and lies in job memory move it between host memory and job
memory, at publication; any other range is refused; a COPY_IN waits while the port of its ring is absent (R426). R427, R428: of a
confidential job the host's data is sealed records, which a COPY_IN opens, and a COPY_OUT's are sealed as they are written. R276, R492: a
COPY_OUT waits for a request slot of each hub and for withheld data. Model's choices: it waits for a session of its port, too (log entry
125, DESIGN CHOICE). -/
def Obligations.CopiesMoveBytes : Prop :=
  ∀ (s : State) (c : Cmd) (k : Nat), s.sched.running = some k → (s.job k).info.state = .running →
    (s.job k).info.id = c.desc.job → (∀ x ∈ (s.job k).run.queue, x.cmd ≠ c) →
    let a := c.desc.w8.toNat
    let h := c.desc.w16.toNat
    let n := fld c.desc.w24 0 32
    let good := n ≠ 0 ∧ a % 64 = 0 ∧ h % 64 = 0 ∧ n % 64 = 0 ∧ (s.job k).mapped a n = true
    let host := s.port c.port
    let conf := (s.job k).info.confidential
    let key := host.session.keyD2h
    let busy := s.noSlot k (fun _ x => x.hubLines false 5 (n / 4096 + 2) a n)
    let publishes := fun (i : Instr) (st : Nat) (ws : List (Space × Nat × List Byte)) => ∃ t p, exec i s = .next t ∧
      (t.job k).run.publish = (s.job k).run.publish ++ [p] ∧ p.cmd = c ∧ p.status = st ∧ p.writes = ws
    let waits := fun (i : Instr) => exec i s = .next (s.setJob k ((s.job k).enqueue c))
    (c.desc.opcode = 0x20 → good → host.absentNow = false →
      (conf = false → publishes (.copyIn c) 0 [(Space.job, a, memRead host.hostMem h n)]) ∧
      (∀ bs, s.readHost k c.port h n = some bs → publishes (.copyIn c) 0 [(Space.job, a, bs)]) ∧
      (s.readHost k c.port h n = none → publishes (.copyIn c) 0x0203 [])) ∧
    (c.desc.opcode = 0x21 → good → (s.job k).withheld a n = false → busy = false →
      (conf = false → publishes (.copyOut c) 0 [(Space.host c.port, h, memRead (s.job k).run.mem a n)]) ∧
      (conf = true → host.session.up = true →
        publishes (.copyOut c) 0 [(Space.sealedAt c.port key, h, memRead (s.job k).run.mem a n)])) ∧
    (c.desc.opcode = 0x20 → good → host.absentNow = true → waits (.copyIn c)) ∧
    (c.desc.opcode = 0x21 → good → (s.job k).withheld a n = true ∨ (conf = true ∧ host.session.up = false) → waits (.copyOut c)) ∧
    (∀ i, ((i = .copyIn c ∧ c.desc.opcode = 0x20) ∨ (i = .copyOut c ∧ c.desc.opcode = 0x21)) → ¬ good →
      publishes i (if n = 0 then 0x0001 else 0x0203) [])

/-- R33, R126: a finished host command of the running job publishes all its outputs and then its completion; a device-issued one
writes its completion record, and both leave the list of the finished. R35: one that stands behind an unpublished command on a stream
of its own waits; R426: so does one whose host buffer lies behind an absent port; R276: one whose writes find no request slot; R492: one that writes part of
a withheld unit; R354: and
one whose outputs find the journal full. R427, R428: sealed outputs take the next record numbers of their port. Model's choices: the time of that last wait is free (log entry 7, DESIGN CHOICE). -/
def Obligations.PublicationCompletes : Prop :=
  ∀ (s : State) (k i : Nat) (p : Publication), s.sched.running = some k → (s.job k).run.publish[i]? = some p →
    let j := s.job k
    let clear := j.run.clearBefore p.uid p.streams = true ∧ s.behindAbsent p = false ∧ s.outputsBlocked k p = false ∧ p.meetsLost j = false
    let room := p.writesJob = false ∨ s.journalFull k = false
    let taken := s.setJob k { j with run := { j.run with publish := j.run.publish.eraseIdx i } }
    let s' := (taken.stampSwaps k p).outputs k p.cmd.desc.opcode p.writes
    (¬ clear → exec (.commandPublish i) s = .next s) ∧
    (clear → ¬ room → exec (.commandPublish i) s = .next (s.journalStall k)) ∧
    (clear → room → p.cmd.dev = true → exec (.commandPublish i) s = .next (s'.completeDevice k p)) ∧
    (clear → room → p.cmd.dev = false → p.cmd ∈ j.info.outstanding →
      exec (.commandPublish i) s = .next (s'.complete k p.cmd p.status p.flags p.stream p.count)) ∧
    (clear → room → p.cmd.dev = false → p.cmd ∉ j.info.outstanding → exec (.commandPublish i) s = .next s') ∧
    (clear → room → k < s.jobs.length → ∃ t, exec (.commandPublish i) s = .next t ∧
      (t.job k).run.publish = j.run.publish.eraseIdx i ∧
      (p.cmd.dev = false → p.writes = [] → (t.job k).run.mem = j.run.mem) ∧
      (∀ a bs, p.cmd.dev = false → p.writes = [(Space.job, a, bs)] → (t.job k).run.mem = memWrite j.run.mem a bs) ∧
      (∀ x a bs, p.cmd.dev = false → p.cmd ∉ j.info.outstanding → p.writes = [(Space.host x, a, bs)] →
        (t.port x).hostMem = memWrite (s.port x).hostMem a bs) ∧
      (∀ x key a bs, p.cmd.dev = false → p.cmd ∉ j.info.outstanding → p.writes = [(Space.sealedAt x key, a, bs)] →
        let no := (s.port x).txNo
        (t.port x).txNo = no + cdiv bs.length 4096 ∧ (t.port x).hostMem = memWrite (s.port x).hostMem a
          (sealBuffer key j.info.id a (no + 1) (cdiv bs.length 4096) bs)) ∧
      (p.cmd.dev = false → p.cmd ∈ j.info.outstanding →
        (t.job k).info.outstanding = j.info.outstanding.filter (fun d => d.seq != p.cmd.seq)))

/-- R298, R299, R304: a codec command is refused by the first condition of R304 that it meets; otherwise it runs where an engine
of the 16 is free, and waits where none is; one that waits starts on an engine that is free, and an encode that waits for the windows of
a frame codes it with the last of them and goes on (R324), its completed frames kept with it (R326). Model's choices: the checks run when the command is dispatched and
the windows loaded are those of log entry 75 (DEDUCED); what a standard decodes is log entry 13. -/
def Obligations.CodecCommands : Prop :=
  ∀ (s : State) (c : Cmd) (k : Nat), s.sched.running = some k → (s.job k).info.state = .running →
    (s.job k).info.id = c.desc.job →
    (∀ i, ((i = .codecDecode c ∧ c.desc.opcode = 0x40) ∨ (i = .codecEncode c ∧ c.desc.opcode = 0x41)) →
      (s.job k).run.queue = [] → 
      (∀ st, (s.job k).codecRefusal c.desc = some st → ∃ t p, exec i s = .next t ∧
        (t.job k).run.publish = (s.job k).run.publish ++ [p] ∧ p.cmd = c ∧ p.status = st ∧ p.writes = []) ∧
      ((s.job k).codecRefusal c.desc = none → (s.job k).lost = [] → s.freeEngine = none → ∃ t, exec i s = .next t ∧
        ∃ x ∈ (t.job k).run.queue, x.cmd = c ∧ x.phase = 1) ∧
      ((s.job k).codecRefusal c.desc = none → (s.job k).lost = [] → ∀ e, s.freeEngine = some e → ∃ t, exec i s = .next t ∧
        ((∃ p ∈ (t.job k).run.publish, p.cmd = c) ∨
          (∃ x ∈ (t.job k).run.queue, x.cmd = c ∧ x.phase = 2 ∧ x.engine = e ∧
            (t.codecs.getD e {}).busy = some x.uid)))) ∧
    (∀ i q e, ((i = .codecDecode c ∧ c.desc.opcode = 0x40) ∨ (i = .codecEncode c ∧ c.desc.opcode = 0x41)) →
      (s.job k).run.queue = [] → ((s.job k).enqueue c).run.queue.getLast? = some q → (s.job k).codecRefusal c.desc = none →
      (s.job k).lost = [] → s.freeEngine = some e → k < s.jobs.length →
      let j := (s.job k).enqueue c
      let q' := { q with phase := 1 }
      let s0 := s.setJob k { j with run := j.run.setQ q' }
      let s1 := s0.hubReads k 4 ((s0.job k).codecReads q')
      let j1 := s1.job k
      let a := codecArgs c.desc
      let y := j1.encodeOn q' (a.slots + 1) (j1.encodingOf q')
      (c.desc.opcode = 0x40 → exec i s = .next (s1.setJob k { j1 with run := j1.decode q' })) ∧
      (c.desc.opcode = 0x41 → y.2 = 0 → exec i s = .next { s1.setJob k { j1 with
          run := j1.run.endCodec j1 q' a (j1.headOf q').1 y.1.work y.1.pos } with
        codecs := s1.codecs.set e (s1.codecs.getD e {}).idle }) ∧
      (c.desc.opcode = 0x41 → y.2 ≠ 0 → exec i s = .next (({ s1.setJob k { j1 with
          run := j1.run.setQ { q' with phase := 2, engine := e, enc := some y.1 } } with
        codecs := s1.codecs.set e { inService := true, busy := some q.uid, loads := y.2, windows := rowWindows 0 } } : State).hubReads
          k 4 (j1.headOf q').1.searchReads))) ∧
    (∀ e q, s.freeEngine = some e → (s.job k).run.queue.find? (s.job k).run.codecReady = some q →
      exec .codecDispatch s = .next (s.startCodec k e q)) ∧
    (∀ e q, s.freeEngine = some e → (s.job k).run.queue = [q] → q.isCodec = true → q.phase = 1 → (s.job k).lost = [] →
      ∃ t, exec .codecDispatch s = .next t ∧ ((∃ p ∈ (t.job k).run.publish, p.cmd = q.cmd) ∨
        (∃ x ∈ (t.job k).run.queue, x.cmd = q.cmd ∧ x.phase = 2 ∧ x.engine = e))) ∧
    (∀ e uid q, e < 16 → e < s.codecs.length → (s.codecs.getD e {}).busy = some uid → (s.job k).run.findQ uid = some q →
      ∃ t, exec (.codecWindowLoaded e) s = .next t ∧
        (1 < (s.codecs.getD e {}).loads → (t.codecs.getD e {}).loads = (s.codecs.getD e {}).loads - 1 ∧
          (t.codecs.getD e {}).busy = some uid ∧ (t.job k).run = (s.job k).run.count 0x240 1) ∧
        ((s.codecs.getD e {}).loads ≤ 1 →
          let a := codecArgs q.cmd.desc
          let j := { s.job k with run := (s.job k).run.count 0x240 1 }
          let y := j.encodeOn q (a.slots + 1) (((s.job k).encodingOf q).frame (s.job k) a ((s.job k).headOf q).1 ((s.job k).headOf q).2)
          (y.2 = 0 → (t.codecs.getD e {}).busy = none ∧ ∃ p ∈ (t.job k).run.publish, p.cmd = q.cmd) ∧
          (y.2 ≠ 0 → (t.codecs.getD e {}).busy = some uid ∧ (t.codecs.getD e {}).loads = y.2 ∧
            ∃ x ∈ (t.job k).run.queue, x.cmd = q.cmd ∧ x.enc = some y.1)))

/-! ## Memory tiers (chapter 9) -/

/-- R265, R267, R277, R281, R286 to R288, R472: what the tiers' events do for the running job. A unit ahead of a core is fetched
and counted, and one beyond what the prefetcher may read is not, which an open job counts; data that a hub's slots admit ends
its core's wait, an array that had begun to ramp down ramping up again (R98), and data that cannot be rebuilt is withheld; heat is shifted down once the interval's accesses have passed; a
promotion whose reads hold their slots puts its page into the ember tier; a parity window closes its entry; the next window of
an island's clock refills a bucket; and a scrub empties the scrub pool and ends the jobs that were ENDING. Model's choices: what
a prefetch looks to is log entry 60 (DEDUCED), which pages are mapped large log entry 36 (DESIGN CHOICE), when an island's
window begins log entry 27 (DESIGN CHOICE). -/
def Obligations.TierEvents : Prop :=
  ∀ (s : State) (k : Nat), s.sched.running = some k → k < s.jobs.length →
    let i := (s.job k).image
    (∀ n x, n < 512 → s.working n = some k → (s.coreOf k n).ahead.length < 16 →
      ((s.job k).unitsAhead n (s.coreOf k n)).find? (fun x => !(s.coreOf k n).ahead.contains x.addr &&
        !(s.coreOf k n).arrived.contains x.addr && !(s.tiers.tier (n / 16)).holdsAll x) = some x →
      let full := s.noSlot k (fun i a => a.fetchUnit i (n / 16) x)
      (full = true → exec (.prefetchIssue n) s = .next s) ∧
      (full = false → (s.job k).mayPrefetch k (s.coreOf k n) x = true → ∃ t, exec (.prefetchIssue n) s = .next t ∧
        t.coreOf k n = { s.coreOf k n with ahead := (s.coreOf k n).ahead ++ [x.addr] } ∧
        NMap.getD (t.job k).run.ctrCluster (n / 16 * 0x80 + 0x38) 0 =
          min (2 ^ 64 - 1) (NMap.getD (s.job k).run.ctrCluster (n / 16 * 0x80 + 0x38) 0 + 1)) ∧
      (full = false → (s.job k).mayPrefetch k (s.coreOf k n) x = false → (s.job k).info.confidential = false →
        ∃ t, exec (.prefetchIssue n) s = .next t ∧ t.coreOf k n = s.coreOf k n ∧ t.tiers = s.tiers ∧
          NMap.getD (t.job k).run.ctrCluster (n / 16 * 0x80 + 0x48) 0 =
            min (2 ^ 64 - 1) (NMap.getD (s.job k).run.ctrCluster (n / 16 * 0x80 + 0x48) 0 + 1)) ∧
      ((s.job k).mayPrefetch k (s.coreOf k n) x = false → (s.job k).info.confidential = true →
        exec (.prefetchIssue n) s = .next s)) ∧
    (∀ n a len part bad built, n < 512 → s.working n = some k → (s.coreOf k n).wait = .peat a len part →
      s.withheld k a 1 = false →
      let c := { s.coreOf k n with wait := .run, arrived := (s.coreOf k n).arrived ++ [a] }
      let back := arrayOp ((i.sec n).wordAt c.insn % 256) = true ∧ s.onFawn n = false ∧ c.groupsOn < 8 ∧ (s.job k).run.ramping n < 4
      (s.mayAnswer k (.core n) part = true → ∃ t, exec (.peatDataReturn n bad built) s = .next t ∧
        (bad = false ∨ built = true → (¬ back → t.coreOf k n = c) ∧
          (back → t.coreOf k n = { c with groupsOn := 8, ramping := true } ∧
            NMap.getD (t.job k).run.ctrCore (n * 0x400 + 0x10) 0 =
              min (2 ^ 64 - 1) (NMap.getD (s.job k).run.ctrCore (n * 0x400 + 0x10) 0 + 1)) ∧
          t.sec.tagRepairs = s.sec.tagRepairs + (if bad then 1 else 0)) ∧
        (bad = true → built = false → (t.coreOf k n).wait = .held a ∧ a / 4096 ∈ (t.job k).lost)) ∧
      (s.mayAnswer k (.core n) part = false → exec (.peatDataReturn n bad built) s = .next s)) ∧
    (∀ cl, cl < 32 → i.interval * 4096 ≤ (s.tiers.tier cl).accesses → ∃ t, exec (.heatDecay cl) s = .next t ∧
      t.tiers.tier cl = { s.tiers.tier cl with accesses := (s.tiers.tier cl).accesses - i.interval * 4096
                                               heat := (s.tiers.tier cl).heat.map (fun h => (h.1, h.2 / 2 ^ i.shift)) }) ∧
    (∀ cl page m, cl < 32 → (s.tiers.tier cl).moves.find? (fun m => m.page == page) = some m →
      s.tiers.slotted (s.job k).run (.move cl page) = true →
      ∃ t e, exec (.pageMoveDone cl page) s = .next t ∧ NMap.find (t.tiers.tier cl).ember page = some e ∧ e.pinned = false ∧
        (t.tiers.tier cl).moves = (s.tiers.tier cl).moves.filter (fun x => x.page != page) ∧
        ∀ l ∈ (t.tiers.tier cl).cache, l.1 / 16 ≠ page) ∧
    (∀ stripe, ∃ t, exec (.assemblyWindowExpired stripe) s = .next t ∧ t.tiers.asm = NMap.del s.tiers.asm stripe ∧
      (t.job k).run.mem = (s.job k).run.mem) ∧
    (∀ isl part, isl < 48 → isl < s.islands.length → part < 9 → 0 < (i.regs.getD part {}).window →
      let e := i.regs.getD part {}
      let now := s.islands.getD isl 0
      let b := NMap.getD s.tiers.buckets (isl * 9 + part) (e.fresh now)
      let at' := max now ((b.window + 1) * e.window)
      ∃ t, exec (.regulatorWindowStart isl part) s = .next t ∧ t.islands = s.islands.set isl at' ∧
        t.tiers.buckets = NMap.put s.tiers.buckets (isl * 9 + part)
          { bytes := min (b.bytes + (at' / e.window - b.window) * shareBytes e.guaranteed e.window) (e.depth * 1024)
            issued := 0, window := at' / e.window }) ∧
    (∃ t, exec .scrubDone s = .next t ∧ t.sec.scrub = 0 ∧ ∀ q < s.jobs.length,
      ((s.job q).info.state = .ending → t.job q = { info := { (s.job q).info with state := .ended } }) ∧
      ((s.job q).info.state ≠ .ending → (t.job q).info = (s.job q).info ∧ (t.job q).run.mem = (s.job q).run.mem ∧
        (q ≠ k → t.job q = s.job q)))

/-! ## Links (R370 to R378, R394, R397) -/

/-- R372, R373, R381, R394, R397, R399, R466: a released link that is DOWN, TRAINING or KEYING, trains and accepts its peer comes UP
encrypted, under the keys agreed, with the lanes of R373; it is RETIRED with fewer than four, and after a first failure tries once more.
The spare takes a failed lane's place, else the link drops to the lowest four good lanes or retires, and outstanding flits are replayed
after the exchange. ADMIN_DOWN takes it down at once, what waited at its output leaves it, a packet passing through that no other link may
take is counted, and clearing it starts the bring-up again. -/
def Obligations.LinkStates : Prop :=
  ∀ (s : State) (n : Nat), n < 48 → n < s.links.length →
    let l := s.link n
    let again := fun (x : Link) => l.retry ≠ [] → x.retry = l.retry ∧
      NMap.getD x.ctr 0x38 0 = min (2 ^ 64 - 1) (NMap.getD l.ctr 0x38 0 + 1)
    (∀ b : BringUp, l.state = .down ∨ l.state = .training ∨ l.state = .keying → l.adminDown = false →
      s.cfg.linkEn.testBit n = true → l.failures < 2 →
      let good := maskOf ((lanesOf b.lanes.toNat).filter (fun x => !l.failed.testBit x))
      let keys := (s.agree b.peerId b.auth).1
      ∃ t, exec (.linkBringUp n b) s = .next t ∧
        (laneSet good = none → (t.link n).state = .retired ∧ (t.link n).width = 0) ∧
        (∀ w act sp ks, laneSet good = some (w, act, sp) → b.trained = true → keys = some ks → (t.link n).state = .up ∧
          (t.link n).width = w ∧ (t.link n).active = act ∧ (t.link n).spare = sp ∧ (t.link n).encrypted = true ∧
          (t.link n).peerId = b.peerId ∧ (t.link n).failures = 0 ∧ (t.link n).keyEpoch = l.keyEpoch + 1 ∧
          (t.link n).txKey = ks.1 ∧ (t.link n).rxKeys.getLast? = some (ks.2, 0) ∧
          (l.encrypted = true → l.state ≠ .down → l.retry ≠ [] →
            NMap.getD (t.link n).ctr 0x38 0 = min (2 ^ 64 - 1) (NMap.getD l.ctr 0x38 0 + 1))) ∧
        ((laneSet good).isSome = true → b.trained = false ∨ keys = none →
          (t.link n).failures = l.failures + 1 ∧ (t.link n).state =
            (if l.failures ≠ 0 then .down else if b.trained then .keying else .training))) ∧
    (∀ lane, lane < 9 → l.state = .up → l.failed.testBit lane = false → l.active.testBit lane = true →
      ∃ t, exec (.laneFail n lane) s = .next t ∧
        (∀ x, l.spare = some x → (t.link n).state = .up ∧ (t.link n).width = l.width ∧ (t.link n).spare = none ∧
          (t.link n).active = l.active - 2 ^ lane + 2 ^ x ∧ (t.link n).failed = l.failed + 2 ^ lane ∧ again (t.link n)) ∧
        (l.spare = none →
          let good := (lanesOf 511).filter (fun x => !(l.failed + 2 ^ lane).testBit x)
          (4 ≤ good.length → (t.link n).state = .up ∧ (t.link n).width = 4 ∧ (t.link n).active = maskOf (good.take 4) ∧
            again (t.link n)) ∧
          (good.length < 4 → (t.link n).state = .retired ∧ (t.link n).width = 0 ∧ (t.link n).encrypted = false ∧
            (t.link n).txKey = 0 ∧ (t.link n).outQ = []))) ∧
    (l.state ≠ .retired → ∃ t, exec (.linkAdminDown n) s = .next t ∧ (t.link n).state = .adminDown ∧
      (t.link n).adminDown = true ∧ (t.link n).width = 0 ∧ (t.link n).encrypted = false ∧ (t.link n).txKey = 0 ∧
      (t.link n).outQ = [] ∧
      (∀ p, l.outQ = [p] → p.chan ≠ 0 → transit s.herd.addr p = true → (∀ m, m ≠ n → (s.link m).state ≠ .up) →
        NMap.getD t.herd.ctr 0x28 0 = min (2 ^ 64 - 1) (NMap.getD s.herd.ctr 0x28 0 + 1))) ∧
    (l.state = .adminDown → exec (.linkAdminUp n) s =
      .next (s.setLink n { l with adminDown := false, state := .training, failures := 0 }))

/-- R371, R375, R379: a packet's header carries its fields, and an active lane carries an equal piece of each flit, which is 256 B with its
CRC; what a flit and a header carry is read back. R376, R378, R381: a flit with a bad CRC or out of sequence is discarded, and the
first of these draws a NAK of the expected number; one in sequence is taken, a record that it completes opens under the direction's key
and its packet goes to its place, or is discarded and counted where it does not verify or its type is reserved (R380), and the credit goes
back, of a packet on channel 1 or 3 for this module once it is handled. A waiting packet that has credits and room is sealed and goes
out as flits. An acknowledgement drops the retry buffer up to its number, a NAK all before it, and starts a replay of the rest; the
eighth NAK of one number, a full retry buffer and failed keys make the link retrain; fresh keys serve at once; a transit packet
without credit is discarded and counted (R394). Model's choices: the reading of a CRC-32C, and where a packet begins in a flit, are log
entry 138. -/
def Obligations.FlitsAndReplay : Prop :=
  (∀ (kind chan seq : Nat) (bs : List Byte) (a : Option Nat) (cs : List Nat), kind < 256 → bs.length ≤ 248 →
    let f : Flit := ⟨flitBytes kind chan seq bs, a, cs⟩
    f.bytes.length = 256 ∧ flitGood f = true ∧ flitKind f = kind ∧ flitChan f = chan % 4 ∧ flitSeq f = seq % 1024 ∧
      flitPayload f = padTo 248 bs) ∧
  (∀ (lanes : List Nat) (flit : List Byte), lanes.length = 4 ∨ lanes.length = 8 → flit.length = 256 →
    (dealt lanes flit).map (·.1) = lanes ∧ (dealt lanes flit).flatMap (·.2) = flit ∧
      ∀ e ∈ dealt lanes flit, e.2.length = 256 / lanes.length) ∧
  (∀ (p : Packet) (tag : List Byte), p.wf (fun _ => true) = true → (packetHeader p tag).length = 64 ∧
    packetOf (packetHeader p tag) p.payload = p) ∧
  (∀ (s : State) (n : Nat), n < 48 → n < s.links.length → (s.link n).state = .up →
    let l := s.link n
    let nak := if l.nakSent then l.control else l.control ++ [(1, l.rxSeq)]
    (∀ f : Flit, flitGood f = false → ∃ t, exec (.flitReceive n f) s = .next t ∧ (t.link n).rxSeq = l.rxSeq ∧
      (t.link n).control = nak ∧ t.herd = s.herd ∧
      NMap.getD (t.link n).ctr 0x30 0 = min (2 ^ 64 - 1) (NMap.getD l.ctr 0x30 0 + 1)) ∧
    (∀ f : Flit, flitGood f = true → flitKind f = 1 → flitSeq f ≠ l.rxSeq → ∃ t, exec (.flitReceive n f) s = .next t ∧
      (t.link n).rxSeq = l.rxSeq ∧ (t.link n).control = nak ∧ t.herd = s.herd) ∧
    (∀ (f : Flit) (r : List Byte) (p : Packet) (ok : Bool) (keys : List (Nat × Nat)), flitGood f = true → flitKind f = 1 →
      flitSeq f = l.rxSeq → l.rxBuf = [[], [], [], []] → l.rxFlits = [0, 0, 0, 0] → splitRecords (flitPayload f) 8 = ([r], []) →
      openUnder l.rxKeys r = (p, ok, keys) → l.rxSince < 31 →
      let c := flitChan f
      let p' := { p with chan := c }
      let keep := ok = true ∧ (p.type < 0x20 ∨ 0x22 < p.type) ∧ p.dest = s.herd.addr ∧ (c = 1 ∨ c = 3)
      ∃ t, exec (.flitReceive n f) s = .next t ∧
        (ok = true → (t.link n).rxSeq = (l.rxSeq + 1) % 1024 ∧ (t.link n).rxKeys = keys) ∧
        (¬ keep → ok = true → (t.link n).control = l.control ++ [(2 + c, 1)]) ∧
        (keep → (t.link n).control = l.control ∧ t.herd.held = s.herd.held ++ [(p', n, 1)]) ∧
        (ok = true → p.type < 0x20 ∨ 0x22 < p.type → p.dest = s.herd.addr → t.herd.inbox = s.herd.inbox ++ [p']) ∧
        (ok = true → p.dest ≠ s.herd.addr → reservedType p.type = true → t.herd.inbox = s.herd.inbox ∧
          NMap.getD t.herd.ctr 0x40 0 = min (2 ^ 64 - 1) (NMap.getD s.herd.ctr 0x40 0 + 1)) ∧
        (ok = false → (l.authAt.length < 3 → t.herd.inbox = s.herd.inbox ∧ (t.link n).state = .up) ∧
          NMap.getD (t.link n).ctr 0x40 0 = min (2 ^ 64 - 1) (NMap.getD l.ctr 0x40 0 + 1))) ∧
    (∀ (f : Flit) (q : Nat) (x : TxFlit) (old rest : List TxFlit), flitGood f = true → flitKind f = 2 → f.ack = some q →
      l.retry = old ++ x :: rest → x.seq = q → (∀ e ∈ old, e.seq ≠ q) → l.outQ = [] → s.herd.waiting = [] →
      ∃ t, exec (.flitReceive n f) s = .next t ∧ (t.link n).retry.map TxFlit.wire = rest.map TxFlit.wire ∧
        ∀ c < 4, (t.link n).credits.getD c 0 = l.credits.getD c 0 + f.credits.getD c 0) ∧
    (∀ (f : Flit) (p : Packet), flitGood f = true → flitKind f = 2 → f.ack = none → l.outQ = [p] → l.retry = [] → p.chan < 4 →
      1 ≤ l.turn → l.turn ≤ 3 → (l.credited f.credits).clear? p = true → s.herd.waiting = [] →
      ∃ t, exec (.flitReceive n f) s = .next t ∧ (t.link n).outQ = [] ∧
        (t.link n).retry.flatMap (·.bytes) = recordOf l.txKey l.records p ∧
        (∀ x ∈ (t.link n).retry, x.chan = p.chan ∧ x.bytes.length ≤ 248) ∧ (t.link n).retry.length = flitsOf p ∧
        (t.link n).records = l.records + 1 ∧
        (t.link n).credits.getD p.chan 0 = l.credits.getD p.chan 0 + f.credits.getD p.chan 0 - flitsOf p ∧
        NMap.getD (t.link n).ctr 0x48 0 = min (2 ^ 64 - 1) (NMap.getD l.ctr 0x48 0 + flitsOf p)) ∧
    (∀ (q : Nat) (x : TxFlit) (old rest : List TxFlit), q < 1024 → l.retry = old ++ x :: rest → x.seq = q →
      (∀ e ∈ old, e.seq ≠ q) → ∃ t, exec (.nakReceive n q) s = .next t ∧ (t.link n).retry = x :: rest ∧
        NMap.getD (t.link n).ctr 0x38 0 = min (2 ^ 64 - 1) (NMap.getD l.ctr 0x38 0 + 1) ∧
        (l.nakSeq ≠ q → (t.link n).naks = 1 ∧ (t.link n).state = .up) ∧
        (l.nakSeq = q → l.naks = 7 → (t.link n).state = .training)) ∧
    (l.rxSince ≠ 0 → exec (.flitAckTimer n) s = .next (s.setLink n
      { l with control := l.control ++ [(0, (l.rxSeq + 1023) % 1024)], rxSince := 0 })) ∧
    (512 ≤ l.retry.length ∨ (∃ p ∈ l.outQ, 512 < l.retry.length + l.cost p) →
      ∃ t, exec (.retryBufferStall n) s = .next t ∧ (t.link n).state = .training) ∧
    (∀ (a : LinkAuth) (ks : Nat × Nat), (s.agree l.peerId a).1 = some ks → ∃ t, exec (.linkRekey n a) s = .next t ∧
      (t.link n).state = .up ∧ (t.link n).txKey = ks.1 ∧ (t.link n).rxKeys.getLast? = some (ks.2, 0) ∧
      (t.link n).keyEpoch = l.keyEpoch + 1 ∧ t.sec.rekeys = s.sec.rekeys + 1) ∧
    (∀ a : LinkAuth, (s.agree l.peerId a).1 = none → ∃ t, exec (.linkRekey n a) s = .next t ∧ (t.link n).state = .training) ∧
    (∀ c p, c < 4 → l.outQ.find? (fun p => p.chan == c && transit s.herd.addr p) = some p →
      ∃ t, exec (.transitCreditTimeout n c) s = .next t ∧ (t.link n).outQ.length < l.outQ.length ∧
        NMap.getD t.herd.ctr 0x28 0 = min (2 ^ 64 - 1) (NMap.getD s.herd.ctr 0x28 0 + 1)))

/-! ## Packets end to end (R380 to R383, R430) -/

/-- R382, R400: a retransmission doubles its packet's timeout up to 12.8 ms, and where a link may carry it it leaves by that link and is
counted; the timer of a flow acknowledges all that is not yet acknowledged; an ACK takes the packets that it covers from the
unacknowledged. R380: a packet of a reserved type, and a REFUSE, are counted; R361: a MIRROR refused NO_JOB stops mirroring. Model's
choices: ACK and REFUSE carry no sequence number of a space (log entry 20, DEDUCED). -/
def Obligations.EndToEnd : Prop :=
  ∀ s : State,
    (∀ u : Unacked, s.herd.unacked = [u] → u.pkt.dest < 65536 → 1 ≤ u.pkt.chan → u.pkt.chan ≤ 3 →
      ∃ t v, exec (.e2eRetransmitTimeout ⟨u.pkt.job, u.pkt.dest⟩ u.pkt.chan u.pkt.seq) s = .next t ∧ t.herd.unacked = [v] ∧
        v.pkt = u.pkt ∧ v.timeout = min (u.timeout * 2) 12800 ∧
        (s.linkAgain u.pkt = none → t.herd.ctr = s.herd.ctr) ∧
        (∀ n, s.linkAgain u.pkt = some n → v.link = n ∧
          NMap.getD t.herd.ctr 0x30 0 = min (2 ^ 64 - 1) (NMap.getD s.herd.ctr 0x30 0 + 1))) ∧
    (∀ job src chan, src < 65536 → 1 ≤ chan → chan ≤ 3 → ∃ t, exec (.e2eAckTimer ⟨job, src⟩ chan) s = .next t ∧
      ∀ f ∈ t.herd.flows, f.job = job → f.src = src → f.chan = chan → f.since = 0) ∧
    (∀ p : Packet, p.type = 0x05 → s.herd.waiting = [] → ∃ t, exec (.packetAck p) s = .next t ∧
      t.herd.unacked = s.herd.unacked.filter (fun u => !(u.pkt.dest == p.src && u.pkt.job == p.job &&
        u.pkt.chan == fld p.opA 32 2 && (seqAfter (fld p.opA 0 32) u.pkt.seq == 0 ||
          decide (2 ^ 31 ≤ seqAfter (fld p.opA 0 32) u.pkt.seq) || (decide (seqAfter (fld p.opA 0 32) u.pkt.seq ≤ 64) &&
            p.opB.getLsbD (seqAfter (fld p.opA 0 32) u.pkt.seq - 1)))))) ∧
    (∀ p : Packet, p.type = 0x06 → (∀ u ∈ s.herd.unacked, u.pkt.type ≠ 7) → ∃ t, exec (.packetRefuse p) s = .next t ∧
      t.herd.unacked = s.herd.unacked ∧
      NMap.getD t.herd.ctr 0x38 0 = min (2 ^ 64 - 1) (NMap.getD s.herd.ctr 0x38 0 + 1)) ∧
    (∀ (p : Packet) (u : Unacked) (k : Nat), p.type = 0x06 → s.herd.unacked = [u] → u.pkt.type = 7 → u.pkt.dest = p.src →
      u.pkt.job = p.job → u.pkt.chan = fld p.opA 32 2 → u.pkt.seq = fld p.opA 0 32 → p.opB = 1 → s.slotOf p.job = some k →
      (s.job k).info.buddy = true → ∃ t, exec (.packetRefuse p) s = .next t ∧ (t.job k).info.buddy = false ∧ t.herd.unacked = []) ∧
    (∀ p : Packet, p.type = 0 ∨ (7 < p.type ∧ p.type ≠ 0x10 ∧ (p.type < 0x20 ∨ 0x22 < p.type)) →
      ∃ t, exec (.packetReservedType p) s = .next t ∧ t.jobs = s.jobs ∧ t.herd.inbox = s.herd.inbox.erase p ∧
        NMap.getD t.herd.ctr 0x40 0 = min (2 ^ 64 - 1) (NMap.getD s.herd.ctr 0x40 0 + 1))

/-- A packet that names a job (R383). -/
def jobPacket (i : Instr) (p : Packet) : Prop :=
  (i = .packetWrite p ∧ p.type = 0x01) ∨ (i = .packetSignal p ∧ p.type = 0x02) ∨ (i = .packetReadReq p ∧ p.type = 0x03) ∨
    (i = .packetMirror p ∧ p.type = 0x07)

/-- R356, R360, R383, R395: a packet new to its flow that its job's state accepts has its effect: a WRITE's payload lands where the
journal has room for it, the whole message raising its semaphore, and one outside the job's memory is dropped and recorded (R357); a SIGNAL
adds to its semaphore; a READ_REQ is answered 4 KiB a packet; READ_DATA adds to its read; and a MIRROR joins its transfer, which takes effect
in the buddy's ARMED copy once it is whole, while one of another image is refused (R361). An ORDERED SIGNAL that comes before an earlier
packet of its space waits, and so does a WRITE of part of a withheld unit and a READ_REQ that meets one (R492). A packet for a job that is not there, and one that finds the table of open messages full, is refused and
counted, and changes no job; a copy of one received before is acknowledged again (R382). Model's choices: the first packet of a space
carries number 1, and where an ORDERED packet waits (log entry 20, DEDUCED); a packet beyond the map of 1,024 is refused (log entry
141, DEDUCED). -/
def Obligations.PacketEffects : Prop :=
  ∀ (s : State) (p : Packet),
    let counted := fun (t : State) => t.jobs = s.jobs ∧
      NMap.getD t.herd.ctr 0x38 0 = min (2 ^ 64 - 1) (NMap.getD s.herd.ctr 0x38 0 + 1)
    (s.fresh? p = true →
      (∀ k, s.slotOf p.job = some k → (s.job k).info.state = .running → s.tableFull p = false → p.ordered = true →
        p.src ≠ s.herd.addr → seqAfter (s.flowFor p).cum p.seq ≠ 1 → p.type = 0x02 → exec (.packetSignal p) s = .next s) ∧
      (∀ k i, s.slotOf p.job = some k → (s.job k).info.state = .running → s.tableFull p = true → jobPacket i p → p.type ≠ 0x07 →
        ∃ t, exec i s = .next t ∧ counted t) ∧
      (s.outOfTurn p = false →
        (∀ k, s.slotOf p.job = some k → (s.job k).info.state = .running → s.tableFull p = false →
          let a := fld p.opA 0 57
          let hit := (s.job k).mapped a p.payload.length
          let sem := fld p.opB 32 12
          let lost := (s.job k).blocked a p.payload.length true
          (p.type = 0x01 → lost = true → exec (.packetWrite p) s = .next s) ∧
          (p.type = 0x01 → lost = false → s.journalFull k = true → p.payload ≠ [] → exec (.packetWrite p) s = .next (s.journalStall k)) ∧
          (p.type = 0x01 → hit = true → lost = false → s.journalFull k = false → ∃ t, exec (.packetWrite p) s = .next t ∧
            (t.job k).run.mem = memWrite (s.job k).run.mem a p.payload ∧
            (bit p.opB 44 = true → fld p.opB 0 32 = p.payload.length →
              (∀ m ∈ s.herd.messages, ¬ (m.job = p.job ∧ m.src = p.src ∧ m.msg = p.msg)) →
              (t.job k).run.sems = NMap.put (s.job k).run.sems sem (NMap.getD (s.job k).run.sems sem 0 + 1))) ∧
          (p.type = 0x01 → hit = false → lost = false → p.payload ≠ [] → s.journalFull k = false → ∃ t, exec (.packetWrite p) s = .next t ∧
            (t.job k).run.mem = (s.job k).run.mem ∧ (t.job k).fault = some { core := 0xFFFF, insn := 0, lane := 0, addr := a }) ∧
          (p.type = 0x02 → ∃ t, exec (.packetSignal p) s = .next t ∧ (t.job k).run.sems =
            NMap.put (s.job k).run.sems (fld p.opA 0 12)
              (NMap.getD (s.job k).run.sems (fld p.opA 0 12) 0 + BitVec.ofNat 32 (fld p.opB 0 32)))) ∧
        (∀ k, s.slotOf p.job = some k → (s.job k).info.state.readable = true → s.tableFull p = false → p.type = 0x03 →
          ((s.job k).blocked p.opA.toNat (fld p.opB 0 32) false = true → exec (.packetReadReq p) s = .next s) ∧
          ((s.job k).blocked p.opA.toNat (fld p.opB 0 32) false = false → ∃ t, exec (.packetReadReq p) s = .next t ∧ (∀ q, (t.job q).run.mem = (s.job q).run.mem) ∧
            NMap.getD t.herd.sendSeq (spaceKey p.job p.src 2) 0 =
              NMap.getD s.herd.sendSeq (spaceKey p.job p.src 2) 0 + cdiv (fld p.opB 0 32) 4096)) ∧
        (∀ r, p.type = 0x04 → s.herd.reads.find? (fun r => r.msg == p.msg && r.peer == p.src) = some r →
          ∃ t, exec (.packetReadData p) s = .next t ∧
            (r.got + p.payload.length < r.total → t.herd.reads = s.herd.reads.filter (fun x => x.msg != r.msg) ++
              [{ r with data := memWrite r.data p.opA.toNat p.payload, got := r.got + p.payload.length }]) ∧
            (r.total ≤ r.got + p.payload.length → t.herd.reads = s.herd.reads.filter (fun x => x.msg != r.msg) ∧
              (r.body = true → r.slot < s.jobs.length → ((t.job r.slot).run.stream r.key).peerBuf =
                memRead (memWrite r.data p.opA.toNat p.payload) 0 r.total))) ∧
        (∀ k, p.type = 0x07 → s.slotOf p.job = some k → (s.job k).info.state = .armed → (s.job k).info.mirror = true →
          (s.job k).mirrorDiffers p = false →
          let x := ((s.job k).mirrorOf p).take (s.job k) p
          ∃ t, exec (.packetMirror p) s = .next t ∧
            (x.left = 0 → x.ok = true → (t.job k).mirrorIn = none ∧ (t.job k).mirrorItems = x.items ∧
              (t.job k).run.mem = x.data.foldl (fun m e => memWrite m e.1 e.2) (s.job k).run.mem) ∧
            (x.left ≠ 0 ∨ x.ok = false → (t.job k).mirrorIn = some x ∧ (t.job k).run.mem = (s.job k).run.mem)))) ∧
    (∀ k, p.type = 0x07 → s.slotOf p.job = some k → (s.job k).info.state = .armed → (s.job k).info.mirror = true →
      (s.job k).mirrorDiffers p = true → ∃ t, exec (.packetMirror p) s = .next t ∧ (t.job k).run = (s.job k).run ∧
        NMap.getD t.herd.ctr 0x38 0 = min (2 ^ 64 - 1) (NMap.getD s.herd.ctr 0x38 0 + 1)) ∧
    (∀ k i, s.slotOf p.job = some k → (s.job k).info.state = .running → jobPacket i p → p.type ≠ 0x07 → s.fresh? p = false →
      ∃ t, exec i s = .next t ∧ t.jobs = s.jobs ∧
        ((s.flowFor p).seen p.seq = true → t.herd.ctr = s.herd.ctr ∧
          ∀ f ∈ t.herd.flows, f.job = p.job → f.src = p.src → f.chan = p.chan → f.since = 0) ∧
        ((s.flowFor p).seen p.seq = false → counted t)) ∧
    (∀ i, s.slotOf p.job = none → jobPacket i p → ∃ t, exec i s = .next t ∧ counted t)

/-! ## Census and routing (R386 to R393) -/

/-- R386 to R389, R391, R393, R403, R404, R499: while sapwood runs, HELLOs go out on every UP link and a leader's beat rises with them; a
HELLO is noted with its link, and one that turns it makes new tables; a leader whose beat has stopped is dropped on every link, and a
module that finds no other keeps its address and its tables, until a second loss leaves it alone; the leader answers a JOIN with an
address, or with exclusion beyond depth 8 or 16,384 members, and tells the other members of a new member or a changed book; a member passes
a JOIN on; a member that no link ties to the herd has left; a module takes the address it is sent, its packets too; an EXCLUDED one repeats
its JOIN and makes no tables; a neighbour's VECTOR that changes an entry makes new tables, which are installed in one step. While no
sapwood runs, there is no census. Model's choices: how members are found to have left, and when a module is alone, are log entry 140
(DEDUCED). -/
def Obligations.CensusAndRoutes : Prop :=
  ∀ s : State,
    (∀ tbl, s.herd.newRoutes = some tbl → ∃ t, exec .routeInstall s = .next t ∧ t.herd.routes = tbl ∧
      t.herd.newRoutes = none ∧ NMap.getD t.herd.ctr 0x20 0 = min (2 ^ 64 - 1) (NMap.getD s.herd.ctr 0x20 0 + 1)) ∧
    (s.fw.sapwood = none → ∀ c n h v j m, n < 48 → c ∈ [Instr.helloTimer, .leaderBeatTimeout, .joinRetryTimer, .hello n h,
      .vectorMsg n v, .censusJoin j, .census m] → exec c s = .next s) ∧
    (s.fw.sapwood.isSome = true →
    (∃ t, exec .helloTimer s = .next t ∧ t.herd.hellos.map (·.1) = s.upLinks ∧ (∀ e ∈ t.herd.hellos, e.2 = t.helloMsg) ∧
      t.herd.beat = s.follow.herd.beat + (if s.follow.herd.role = 2 then 1 else 0)) ∧
    (∀ n h, n < 48 → n < s.links.length → (s.link n).state = .up → ∃ t, exec (.hello n h) s = .next t ∧
      (t.link n).heard = some h ∧ (t.link n).peerDepth = h.dist ∧ (t.link n).peerAddr = h.addr % 65536 ∧
      ((s.link n).peerDepth ≠ h.dist → t.herd.role = 1 ∨ t.herd.role = 2 → t.herd.newRoutes.isSome = true)) ∧
    (s.herd.role ≠ 2 → ∃ t, exec .leaderBeatTimeout s = .next t ∧
      (∀ n h, (s.link n).heard = some h → (t.link n).heard = some h ∧ (h.lead = some s.herd.leader → (t.link n).fresh = false)) ∧
      (s.eligible = false → (∀ n h, (s.link n).heard = some h → h.lead = some s.herd.leader ∨ h.lead = none) → s.herd.role ≠ 0 →
        (s.herd.adrift = false → t.herd.adrift = true ∧ t.herd.addr = s.herd.addr ∧ t.herd.routes = s.herd.routes ∧
          t.herd.role = s.herd.role) ∧
        (s.herd.adrift = true → t.herd.role = 0 ∧ t.herd.addr = 0))) ∧
    (∀ j : JoinMsg, s.herd.role = 2 → ∃ t m told later, exec (.censusJoin j) s = .next t ∧
      t.herd.answers = s.herd.answers ++ (j.id, m) :: told ++ later ∧
      let refused := 8 < j.depth ∨ (j.id ∉ s.herd.member ∧ 16384 ≤ s.herd.member.length)
      (∀ x ∈ told, x.1 ∈ s.herd.member ∧ x.1 ≠ j.id ∧ x.1 ≠ Config.identity ∧ x.2.addr = none ∧ x.2.excluded = false ∧
        x.2.book = t.herd.book ∧ x.2.members = m.members ∧ x.2.cause = 1) ∧
      (∀ x ∈ later, x.1 ∈ t.herd.member ∧ x.2.cause = 2 ∧ x.2.members = t.herd.members) ∧
      (refused → m.excluded = true ∧ m.addr = none ∧ told = [] ∧ later = [] ∧ t.herd.member = s.herd.member) ∧
      (¬ refused → j.id ∉ s.herd.member ∨ t.herd.book ≠ s.herd.book →
        ∀ x ∈ s.herd.member, x ≠ j.id → x ≠ Config.identity → x ∈ told.map (·.1)) ∧
      (¬ refused → m.excluded = false ∧ j.id ∈ t.herd.member ∧ (s.roleServes 0 = true → t.flash.book = t.herd.book) ∧
        (∀ e, s.herd.book.find? (fun e => e.2 == j.id) = some e → m.addr = some e.1) ∧
        ((∀ e ∈ s.herd.book, e.2 ≠ j.id ∧ e.1 ≠ j.want) → 0 < j.want → j.want < 0xFFFF → m.addr = some j.want))) ∧
    (∀ (j : JoinMsg) (n : Nat), s.herd.role = 1 → s.herd.parent = some n → ∃ t, exec (.censusJoin j) s = .next t ∧
      t.herd.joins = s.herd.joins ++ [{ j with via := none }]) ∧
    (∀ n x, n < 48 → n < s.links.length → (s.link n).state = .up → s.herd.role = 2 → x ≠ Config.identity →
      s.herd.via.find? (fun e => e.1 == x) = some (x, n) → (∀ e ∈ s.herd.ties, e.1 ≠ x ∧ x ∉ e.2) →
      ∃ t, exec (.linkAdminDown n) s = .next t ∧ (t.herd.role = 2 → x ∉ t.herd.member)) ∧
    (∀ m : CensusMsg, m.dest = none ∨ m.dest = some Config.identity → m.excluded = false →
      let a := m.addr.getD s.herd.addr
      ∃ t, exec (.census m) s = .next t ∧ t.herd.addr = a ∧ (s.roleServes 0 = true → t.flash.addr = a) ∧
        t.herd.epoch = m.epoch ∧ t.herd.members = m.members ∧ t.herd.leader = m.leader ∧
        (a ≠ s.herd.addr → ∀ u ∈ t.herd.unacked, u.pkt.src = a)) ∧
    (∀ m : CensusMsg, m.dest = none ∨ m.dest = some Config.identity → m.excluded = true → s.herd.role ≠ 3 →
      ∃ t, exec (.census m) s = .next t ∧ t.herd.role = 3 ∧ t.herd.addr = 0) ∧
    (∀ (m : CensusMsg) (x : W64), m.dest = some x → x ≠ Config.identity → ∃ t, exec (.census m) s = .next t ∧
      t.herd.answers = s.herd.answers ++ [(x, m)] ∧ t.herd.addr = s.herd.addr ∧ t.herd.role = s.herd.role) ∧
    (∀ n, s.herd.role = 3 → s.herd.parent = some n → ∃ t, exec .joinRetryTimer s = .next t ∧
      t.herd.joins = s.herd.joins ++ [s.joinMsg]) ∧
    (∀ n v, n < 48 → n < s.links.length → (s.link n).state = .up →
      let s' := s.setLink n { s.link n with vec := v }
      ((s.link n).vec = v → exec (.vectorMsg n v) s = .next s) ∧
      ((s.link n).vec ≠ v → ∃ t, exec (.vectorMsg n v) s = .next t ∧ (t.link n).vec = v ∧ t.herd.routes = s.herd.routes ∧
        (s.herd.role = 0 ∨ s.herd.role = 3 → t.herd.newRoutes = s.herd.newRoutes) ∧
        (s.herd.role ≠ 0 → s.herd.role ≠ 3 → ∃ tbl, t.herd.newRoutes = some tbl ∧
          ∀ d ∈ s'.destinations, d ≠ s.herd.addr → NMap.getD tbl d (0, 0) = s'.routeTo d))))

/-! ## Host ports (chapter 13) -/

/-- R343, R414, R336: the descriptor at the head of the set that is served next is taken: the head moves on, and a command of a
job that its port owns becomes outstanding and waits at the scheduler or in the job's queue; a JOB_LOAD waits at the scheduler; an undefined
opcode, and a command of a queue that names no loaded job, is refused FIELD_RANGE; a sealed record that fails its check stays and is counted,
and the round goes on past it (R427). R411 to R413, R415: a set whose
bases, sizes and session are in order is enabled, clearing ENABLE stops it, and a doorbell in range is stored, one out of
range ignored, flagged and counted. R420: the message of a vector with records due is sent or, where it is masked, marked
pending, and its count restarts. Model's choices: masked vectors keep their message pending as PCI Express has it (log entry
23, PRESUMED). -/
def Obligations.RingSets : Prop :=
  ∀ (s : State) (p : Port) (set : Nat), set < 64 →
    let r := s.ring p set
    (∀ d no k, s.schedServes = true → (∀ q, s.sched.running = some q → (s.job q).goDue = none) → s.servedNext p set = true → (s.port p).headDesc r = some (d, no) →
      s.slotOf d.job = some k → (s.job k).info.owner = p → (s.job k).info.state ≠ .ending →
      ((s.job k).info.confidential = true → r.sealed = true) → d.opcode ≠ 1 → opcodeKnown d.opcode = true →
      let c : Cmd := { desc := d, port := p, set, sealed := r.sealed, dev := false, caddr := 0, seq := s.sched.cmdSeq }
      ∃ t, exec (.descriptorIntake p set) s = .next t ∧ (t.ring p set).sqHead = r.sqHead + 1 ∧
        (t.ring p set).out = r.out + 1 ∧ (t.job k).info.outstanding = (s.job k).info.outstanding ++ [c] ∧
        (d.opcode ≤ 8 → t.sched.taken = s.sched.taken ++ [c] ∧ (t.job k).run = (s.job k).run) ∧
        (8 < d.opcode → t.sched.taken = s.sched.taken ∧ (t.job k).run = ((s.job k).enqueue c).run)) ∧
    (∀ d no, s.schedServes = true → (∀ q, s.sched.running = some q → (s.job q).goDue = none) → s.servedNext p set = true →
      (s.port p).headDesc r = some (d, no) →
      let c : Cmd := { desc := d, port := p, set, sealed := r.sealed, dev := false, caddr := 0, seq := s.sched.cmdSeq }
      (d.opcode = 1 → ∃ t, exec (.descriptorIntake p set) s = .next t ∧ (t.ring p set).sqHead = r.sqHead + 1 ∧
        t.sched.taken = s.sched.taken ++ [c] ∧ t.jobs = s.jobs) ∧
      (opcodeKnown d.opcode = false ∨ (s.slotOf d.job = none ∧ 8 < d.opcode) →
        exec (.descriptorIntake p set) s = .next ((s.moveHead p set no).refuseCmd c 0x0203))) ∧
    (s.schedServes = true → (∀ q, s.sched.running = some q → (s.job q).goDue = none) → s.servedNext p set = true →
      (s.port p).headDesc r = none → ∃ t, exec (.descriptorIntake p set) s = .next t ∧ t.ring p set = { r with badHead := true } ∧
        t.sched.lastSet = portNum p * 64 + set ∧ t.jobs = s.jobs ∧
        NMap.getD (t.port p).ctr 0x50 0 = min (2 ^ 64 - 1) (NMap.getD (s.port p).ctr 0x50 0 + 1)) ∧
    (∀ v : W32, bit v 0 = true → r.enabled = false → 
      let e := s.enableError p set { r with control := (v &&& 7) ||| (v &&& 8) }
      ∃ t, exec (.ringEnable p set v) s = .next t ∧ (t.ring p set).enabled = decide (e = 0) ∧ (t.ring p set).error = e) ∧
    (exec (.ringDisable p set) s = .next (s.setRing p set { r with enabled := false, control := r.control &&& 0xE })) ∧
    (∀ v : W32, (v - r.sqHead).toNat ≤ 2 ^ fld r.sizes 0 5 →
      exec (.ringSqTail p set v) s = .next (s.setRing p set { r with sqTail := v })) ∧
    (∀ v : W32, (r.cqTail - v).toNat ≤ 2 ^ fld r.sizes 8 5 → ∃ t, exec (.ringCqHead p set v) s = .next t ∧
      (t.ring p set).cqHead = v ∧ (r.hold = [] → (t.ring p set).cqTail = r.cqTail)) ∧
    (∀ v : W32, (r.eqTail - v).toNat ≤ 2 ^ fld r.sizes 16 5 → ∃ t, exec (.ringEqHead p set v) s = .next t ∧
      (t.ring p set).eqHead = v ∧ (r.holdEv = [] → (t.ring p set).eqTail = r.eqTail)) ∧
    (∀ (c : Instr) (v : W32), (c = .ringSqTail p set v ∧ 2 ^ fld r.sizes 0 5 < (v - r.sqHead).toNat) ∨
        (c = .ringCqHead p set v ∧ 2 ^ fld r.sizes 8 5 < (r.cqTail - v).toNat) ∨
        (c = .ringEqHead p set v ∧ 2 ^ fld r.sizes 16 5 < (r.eqTail - v).toNat) →
      ∃ t, exec c s = .next t ∧ t.ring p set = { r with bad := true } ∧
        NMap.getD (t.port p).ctr 0x58 0 = min (2 ^ 64 - 1) (NMap.getD (s.port p).ctr 0x58 0 + 1)) ∧
    ((s.port p).linkUp = true → max 1 (fld r.irq 0 8) ≤ r.cqSince → ∃ t, exec (.msixMessage p (2 * set)) s = .next t ∧
      (t.ring p set).cqSince = 0 ∧
      (((s.port p).msixWord (2 * set * 4 + 3)).testBit 0 = false → (t.port p).msixSent = (s.port p).msixSent ++ [2 * set]) ∧
      (((s.port p).msixWord (2 * set * 4 + 3)).testBit 0 = true → 2 * set ∈ (t.port p).msixPba ∧
        (t.port p).msixSent = (s.port p).msixSent))

/-- R406, R410, R422 to R425, R227: the registers and windows of a port. A lease is renewed by its write and lapses; the
driver's version and BAR2's job are stored; BAR2 moves bytes of the job that it maps, and reads zeros of any other; the
semaphore and parameter windows act on the port's running job and on no other, a GO waiting while no scheduler serves; a host
write waits for journal space (R354), and an access to withheld data, but for a write of whole units, waits (R492); a reset disables the port's sets and ends its session; a link that trains is up. Model's
choices: a GO enters the queue when the scheduler takes it (log entry 47, DEDUCED), and BAR2 writes wait in order (log entry 112,
DESIGN CHOICE). -/
def Obligations.PortRegisters : Prop :=
  ∀ (s : State) (p : Port),
    (∀ v : W32, ∃ t, exec (.hostLease p v) s = .next t ∧ (t.port p).lease = v &&& 0xFFFF ∧ (t.port p).leaseLapsed = false) ∧
    (fld (s.port p).lease 0 16 ≠ 0 → ∃ t, exec (.leaseExpired p) s = .next t ∧ (t.port p).leaseLapsed = true) ∧
    (∀ v : W32, ∃ t, exec (.hostDriverVersion p v) s = .next t ∧ (t.port p).driver = v ∧ t.jobs = s.jobs ∧
      (s.versionOk p = t.versionOk p → (t.port p).statusDue = (s.port p).statusDue) ∧
      (s.versionOk p ≠ t.versionOk p → (t.port p).statusDue = true)) ∧
    (∀ v : W32, exec (.bar2Enable p v) s = .next (s.setPort p { s.port p with bar2 := v &&& 0x1FFFF })) ∧
    (∀ off len k, off + len ≤ 2 ^ 38 → s.bar2Slot p = some k → (s.job k).mapped ((s.port p).bar2Base.toNat + off) len = true →
      ((s.job k).blocked ((s.port p).bar2Base.toNat + off) len false = false → (s.job k).heldWrites = [] →
        ∃ t, exec (.bar2Read p off len) s = .next t ∧
          (t.port p).reply = memRead (s.job k).run.mem ((s.port p).bar2Base.toNat + off) len ∧
          (t.job k).run.mem = (s.job k).run.mem) ∧
      ((s.job k).blocked ((s.port p).bar2Base.toNat + off) len false = true → exec (.bar2Read p off len) s =
        .next (s.setPort p { s.port p with heldReads := (s.port p).heldReads ++ [(off, len)] }))) ∧
    (∀ off len, off + len ≤ 2 ^ 38 → s.bar2Slot p = none → ∃ t, exec (.bar2Read p off len) s = .next t ∧
      (t.port p).reply = leBytes len 0 ∧
      NMap.getD (t.port p).ctr 0x60 0 = min (2 ^ 64 - 1) (NMap.getD (s.port p).ctr 0x60 0 + 1)) ∧
    (∀ off bs k, off + bs.length ≤ 2 ^ 38 → s.bar2Slot p = some k →
      (s.job k).mapped ((s.port p).bar2Base.toNat + off) bs.length = true → k < s.jobs.length →
      ((s.job k).blocked ((s.port p).bar2Base.toNat + off) bs.length true = true → ∃ t, exec (.bar2Write p off bs) s = .next t ∧
        (t.job k).run.mem = (s.job k).run.mem ∧
        (t.job k).heldWrites = (s.job k).heldWrites ++ [((s.port p).bar2Base.toNat + off, bs)]) ∧
      ((s.job k).blocked ((s.port p).bar2Base.toNat + off) bs.length true = false → s.journalFull k = false →
        ∃ t, exec (.bar2Write p off bs) s = .next t ∧ (t.job k).run.mem = memWrite (s.job k).run.mem ((s.port p).bar2Base.toNat + off) bs) ∧
      ((s.job k).blocked ((s.port p).bar2Base.toNat + off) bs.length true = false → s.journalFull k = true → ∃ t, exec (.bar2Write p off bs) s = .next t ∧ (t.job k).run.mem = (s.job k).run.mem ∧
        (t.job k).heldWrites = (s.job k).heldWrites ++ [((s.port p).bar2Base.toNat + off, bs)])) ∧
    (∀ n v k, n < 4096 → s.windowJob p = some k → ∃ t, exec (.jobSemAdd p n v) s = .next t ∧
      (t.job k).run.sems = NMap.put (s.job k).run.sems n (NMap.getD (s.job k).run.sems n 0 + v)) ∧
    (∀ n v, n < 4096 → s.windowJob p = none → exec (.jobSemAdd p n v) s = .next (s.hostCount p 0x70)) ∧
    (∀ off v k, off < 0x40000 → off % 4 = 0 → s.pgtTarget p = .job k →
      off % 0x2000 / 0x20 < (s.job k).image.groupCount (off / 0x2000) → exec (.jobPgtStage p off v) s =
        .next (s.setJob k { s.job k with stage := NMap.put (s.job k).stage (off / 4) v })) ∧
    (∀ v k, s.pgtTarget p = .job k → bit v 0 = true → 
      (s.schedServes = true → (s.job k).run.queue = [] → ∃ t, exec (.jobPgtPublish p v) s = .next t ∧
        (t.job k).run.pgt = (s.job k).stage ∧ (t.job k).goDue = none) ∧
      (s.schedServes = false → exec (.jobPgtPublish p v) s = .next (s.setJob k { s.job k with goDue := some p }))) ∧
    (∀ k, ∃ t, exec (.portReset p k) s = .next t ∧ (∀ n, (t.ring p n).enabled = false) ∧ (t.port p).session = {} ∧
      (t.port p).driver = 0 ∧ (t.port p).lease = 0 ∧ (t.port p).bar2 = 0 ∧ (t.port p).ctr = (s.port p).ctr ∧
      (k ≠ .flr → (t.port p).linkUp = false) ∧ (k = .flr → (t.port p).linkUp = (s.port p).linkUp) ∧ t.jobs = s.jobs) ∧
    (∀ speed width, 4 ≤ speed → speed ≤ 6 → width = 4 ∨ width = 8 ∨ width = 16 → s.board.phase = .ready →
      ∃ t, exec (.pcieLinkUp p speed width) s = .next t ∧ (t.port p).linkUp = true ∧ (t.port p).speed = speed ∧
        (t.port p).width = width ∧ (t.port p).inReset = false)

/-- R10, R429 to R431, R444: a write of a register's own width acts, one of another width, or that begins inside a register, is
ignored and counted, and one of reserved offsets alone is ignored; an aperture access leaves as a numbered FIRMWARE packet, and a read that
goes unanswered reads 0; a request on the management network or in a FIRMWARE packet from a controller is served once and answered, one from
another module is answered NOT_CONTROLLER, a READ that takes in the aperture is forwarded and answered once its words are, and an
answer ends its aperture access; a message of the management network whose tag fails is discarded (R465); while the power core is down a request waits. Model's choices: which requests wait is log entry
114 (DEDUCED), the numbering of emulated accesses is log entry 92 (DEDUCED), their widths
log entry 91 (DEDUCED). -/
def Obligations.RemoteRegisters : Prop :=
  ∀ (s : State) (p : Port), s.powered = true →
    (∀ off w x n v, off + w ≤ 2 ^ 26 → off < 0x2000000 → s.readReg p off = some (n, v) → w ≠ n →
      exec (.registerWrite p off w x) s = .next (s.hostCount p 0x48)) ∧
    (∀ off w x, off + w ≤ 2 ^ 26 → off < 0x2000000 → s.readReg p off = none → exec (.registerWrite p off w x) s =
      .next (if s.meets p off w then s.hostCount p 0x48 else s)) ∧
    (∀ v : W64, exec (.registerWrite p 0x38 8 v.toNat) s =
      .next (s.setPort p { s.port p with bar2Base := v &&& 0xFFFFFFFFFFE00000 })) ∧
    (∀ off w x, 0x2000000 ≤ off → off + w ≤ 2 ^ 26 → ∃ t, exec (.registerWrite p off w x) s = .next t ∧
      (t.port p).ringMem = memWrite (s.port p).ringMem (off - 0x2000000) (leBytes w x)) ∧
    (∀ off, 0x8000 ≤ off → off < 0x10000 → off % 4 = 0 →
      let seq := (2 * (s.port p).emuSeq + portNum p) % 2 ^ 32
      (∃ t, exec (.emuApertureRead p off) s = .next t ∧ (t.port p).emuReads = (s.port p).emuReads ++ [seq] ∧
        (t.port p).emuSeq = (s.port p).emuSeq + 1) ∧
      (∀ v, ∃ t, exec (.emuApertureWrite p off v) s = .next t ∧ (t.port p).emuWrites = (s.port p).emuWrites ++ [seq] ∧
        (t.port p).emuSeq = (s.port p).emuSeq + 1)) ∧
    (∀ x rest, (s.port p).emuReads = x :: rest → ∃ t, exec (.emuReadTimeout p) s = .next t ∧ (t.port p).emuReads = rest ∧
      (t.port p).reply = (if s.apertureAsked x then (s.port p).reply else [0, 0, 0, 0]) ∧ (t.port p).emuTimeout = true ∧
      (t.port p).emuErrors = min (2 ^ 64 - 1) ((s.port p).emuErrors + 1)) ∧
    (∀ (m : WemuMsg) c, s.fw.sapwood.isSome = true → (s.mgmtSession p).up = true →
      s.answered (2 ^ 16 + portNum p + 2 * (s.mgmtSession p).epoch) m.seq = none → m.off + m.len ≤ 2 ^ 26 → m.off % 4 = 0 →
      m.len % 4 = 0 → 4 ≤ m.len → m.len ≤ 1024 → (c = .wemuRead p m ∧ m.op = 1) ∨ (c = .wemuWrite p m ∧ m.op = 2) →
      ∃ t, exec c s = .next t ∧ ((s.mgmtSession p).opens m = none → t = s) ∧
        (∀ data, (s.mgmtSession p).opens m = some data →
          (s.roleServes 2 = false → t = { s with fw := { s.fw with held := s.fw.held ++ [.wemu p m.op m] } }) ∧
          (s.roleServes 2 = true → m.op = 1 → apertureWords m.off m.len ≠ [] →
            (∀ y ∈ s.herd.apWaits, ¬ (y.src = 2 ^ 16 + portNum p + 2 * (s.mgmtSession p).epoch ∧ y.seq = m.seq)) →
            ∃ x, t.herd.apWaits = s.herd.apWaits ++ [x] ∧ x.msg = some (p, m) ∧
              x.reads.map (·.1) = apertureWords m.off m.len ∧ t.sec.replies = s.sec.replies) ∧
          (s.roleServes 2 = true → m.op = 1 → apertureWords m.off m.len = [] → t.jobs = s.jobs ∧ ∃ body, body.length = m.len ∧
            t.sec.replies = s.sec.replies ++ [(p, wemuAnswer (s.mgmtSession p) m (leBytes 1 3 ++ body))]) ∧
          (s.roleServes 2 = true → m.op = 2 → data.length = 4 → m.len = 4 → 0x2000000 ≤ m.off →
            (t.port m.port).ringMem = memWrite (s.port m.port).ringMem (m.off - 0x2000000) (leBytes 4 (leNat data)) ∧
            t.sec.replies = s.sec.replies ++ [(p, wemuAnswer (s.mgmtSession p) m (leBytes 1 3))]))) ∧
    (∀ q : Packet, q.type = 0x10 → s.fresh? q = true →
      (fld q.opA 28 4 = 1 → s.fw.sapwood.isSome = true → s.roleServes 2 = false → ∃ t, exec (.packetFirmware q) s = .next t ∧
        t.fw.held = s.fw.held ++ [.firmware q]) ∧
      (fld q.opA 28 4 = 1 → s.fw.sapwood.isSome = true → s.roleServes 2 = true →
        s.cfg.controllers.contains q.src = false ∨ apertureWords (fld q.opA 0 26) (fld q.opB 0 16) = [] → ∃ t, exec (.packetFirmware q) s = .next t ∧
        NMap.getD t.herd.sendSeq (spaceKey 0 q.src 2) 0 = NMap.getD s.herd.sendSeq (spaceKey 0 q.src 2) 0 + 1) ∧
      (∀ x rest, fld q.opA 28 4 = 3 → portOf (fld q.opB 32 32) = p → (s.port p).emuReads = x :: rest → fld q.opB 32 32 = x →
        (∀ y ∈ rest, y ≠ x) → s.apertureAsked x = false → ∃ t, exec (.packetFirmware q) s = .next t ∧ (t.port p).emuReads = rest ∧
          (t.port p).reply = q.payload.take 4))

/-! ## Keys, sessions and the life-cycle (chapter 15) -/

/-- R444, R460 to R465: GET_CERT and GET_REPORT are answered, a report is counted and carries 5,648 B; SESSION_INIT ends the
session and begins an attempt; a SESSION_FINISH that confirms it establishes the session and raises its epoch, any other
ends the attempt; SESSION_END ends the session and keeps its epoch. While no security core serves every request is answered
BUSY, while the power core is down one of a management port waits, a nonce, a GO or a rise of a fused minimum waits for the security core (log entry 114, DEDUCED), and in RETURNED and SCRAPPED LIFE_CYCLE.
Under a new session's keys the record numbers of its port start afresh (R427). R451, R474, R475: a request draws a new nonce; a GO that may
not be leaves its reason and the fuses as they are, one that enters MAKER fuses the seeds, and one that enters FIELD blows its bit. Model's
choices: the answers to a failed SESSION_FINISH and in RETURNED and SCRAPPED are log entries 78 and 79 (DEDUCED), the form of a key log
entry 81 (DESIGN CHOICE), the primitives log entry 8, the DOE object's header log entry
145 (PRESUMED), the order of the certificate's header log entry 138 (DESIGN CHOICE). -/
def Obligations.SecurityServices : Prop :=
  ∀ (s : State) (p : Port) (nonce : BitVec 256) (ek key sig : List Byte) (confirm : BitVec 384) (job : Nat), s.powered = true →
    let src := SessSrc.doe p
    let reply := fun (code : Nat) (body : List Byte) => doeObject (BitVec.ofNat 8 code :: ([0, 0, 0] ++ body))
    (∀ c ∈ [Instr.getCert src, .getReport src nonce job, .sessionInit src ek nonce job, .sessionFinish src confirm key sig,
        .sessionEnd src],
      (s.roleServes 0 = false → ∃ t, exec c s = .next t ∧ (t.port p).doe = reply 0xFF [3, 0, 0, 0] ∧
        (t.port p).session = (s.port p).session) ∧
      (s.roleServes 0 = true → 3 ≤ s.fuses.state → ∃ t, exec c s = .next t ∧ (t.port p).doe = reply 0xFF [4, 0, 0, 0] ∧
        (t.port p).session = (s.port p).session)) ∧
    (∀ req, s.roleServes 2 = false → let m := SessSrc.mgmt p req
      ∀ c h, (c, h) ∈ [(Instr.getCert m, Held.cert m), (.getReport m nonce job, .report m nonce job),
          (.sessionInit m ek nonce job, .sessInit m ek nonce job),
          (.sessionFinish m confirm key sig, .sessFinish m confirm key sig), (.sessionEnd m, .sessEnd m)] →
        exec c s = .next { s with fw := { s.fw with held := s.fw.held ++ [h] } }) ∧
    (s.roleServes 0 = true → s.fuses.state < 3 →
      (∃ t, exec (.getCert src) s = .next t ∧ (t.port p).doe = reply 0x81 certificate ∧ certificate.length = 5376 ∧ certificate.take 4 = ascii "WHID" ∧
        (certificate.drop 6).take 8 = leBytes 8 Config.identity.toNat) ∧
      (∃ t body, exec (.getReport src nonce job) s = .next t ∧ (t.port p).doe = reply 0x82 body ∧ body.length = 5648 ∧
        t.sec.reports = s.sec.reports + 1) ∧
      (ek.length = 1184 → ∃ t body, exec (.sessionInit src ek nonce job) s = .next t ∧ (t.port p).doe = reply 0x83 body ∧
        body.length = 6736 ∧ (t.port p).session.up = false ∧ (t.port p).session.epoch = (s.port p).session.epoch ∧
        (t.port p).session.attempt.isSome = true ∧ t.sec.reports = s.sec.reports + 1) ∧
      (∀ k tr, (s.port p).session.attempt = some (k, tr) →
        let want := Config.kmac (leBytes 32 (keyBits k 576 256)) (leBytes 48 tr.toNat) 384 (ascii "FINISH") % 2 ^ 384
        (confirm.toNat = want → ∃ t, exec (.sessionFinish src confirm key sig) s = .next t ∧
          (t.port p).doe = reply 0x84 [] ∧ (t.port p).session.up = true ∧ (t.port p).session.attempt = none ∧
          (t.port p).session.epoch = ((s.port p).session.epoch + 1) % 256 ∧ t.sec.sessions = s.sec.sessions + 1 ∧
          (t.port p).txNo = 0 ∧ ∀ x ∈ (t.port p).sets, x.2.rxNo = 0) ∧
        (confirm.toNat ≠ want → ∃ t, exec (.sessionFinish src confirm key sig) s = .next t ∧
          (t.port p).doe = reply 0xFF [1, 0, 0, 0] ∧ (t.port p).session.attempt = none ∧
          (t.port p).session.up = (s.port p).session.up)) ∧
      ((s.port p).session.up = true → ∃ t, exec (.sessionEnd src) s = .next t ∧ (t.port p).doe = reply 0x85 [] ∧
        (t.port p).session = { epoch := (s.port p).session.epoch })) ∧
    (s.roleServes 0 = false → exec .lcRequestNonce s = .next { s with fw := { s.fw with held := s.fw.held ++ [.nonce] } } ∧
      (∀ via, exec (.lcRequestGo via) s = .next { s with fw := { s.fw with held := s.fw.held ++ [.lifeCycle via] } }) ∧
      exec .secSvnCommitHeartwood s = .next { s with fw := { s.fw with held := s.fw.held ++ [.svn true s.fw.heartwood.svn] } } ∧
      ∀ i, s.fw.sapwood = some i →
        exec .secSvnCommitSapwood s = .next { s with fw := { s.fw with held := s.fw.held ++ [.svn false i.svn] } }) ∧
    (s.roleServes 0 = true →
      exec .lcRequestNonce s = .next { s with
        sec := { s.sec with nonce := Config.random s.freeCtr }, freeCtr := s.freeCtr + 1 } ∧
      (∀ via, s.sec.target = 1 → exec (.lcRequestGo via) s = .next { s with
        sec := { s.sec with lcResult := s.lcVerdict via }
        fuses := if s.lcVerdict via = 1 then
          { s.fuses with lc := s.fuses.lc ||| 1, uds := some (Config.udsId, Config.udsData) } else s.fuses }) ∧
      (∀ via, s.sec.target = 2 → exec (.lcRequestGo via) s = .next { s with
        sec := { s.sec with lcResult := s.lcVerdict via }
        fuses := if s.lcVerdict via = 1 then { s.fuses with lc := s.fuses.lc ||| 2 } else s.fuses }) ∧
      (∀ via, s.lcVerdict via ≠ 1 → exec (.lcRequestGo via) s =
        .next { s with sec := { s.sec with lcResult := s.lcVerdict via } }) ∧
      (∀ via, lcNeeds s.fuses.state s.sec.target = none → s.lcVerdict via = 4) ∧
      (∀ via, (lcNeeds s.fuses.state s.sec.target).isSome = true → (∃ j ∈ s.jobs, j.info.state.loaded = true) →
        s.lcVerdict via = 5))

/-- R459: writing 1 to SEC_SVN_COMMIT.HEARTWOOD or SEC_SVN_COMMIT.SAPWOOD, by command or in a register write, raises that fused minimum to
the running image's security version, at most 64; where the running version is at or below it nothing changes; neither minimum ever falls, and
the P6 raises neither by itself: only a register write, from whatever side, and what ends the wait of one (R444) can. -/
def Obligations.SvnCommitRaisesMinimum : Prop :=
  (∀ s : State, s.powered = true → s.roleServes 0 = true →
    exec .secSvnCommitHeartwood s = .next { s with
      fuses := { s.fuses with svnHeart := max s.fuses.svnHeart (min 64 s.fw.heartwood.svn) } } ∧
    (s.fw.heartwood.svn ≤ s.fuses.svnHeart → exec .secSvnCommitHeartwood s = .next s) ∧
    (∀ i, s.fw.sapwood = some i → exec .secSvnCommitSapwood s = .next { s with
        fuses := { s.fuses with svnSap := max s.fuses.svnSap (min 64 i.svn) } } ∧
      (i.svn ≤ s.fuses.svnSap → exec .secSvnCommitSapwood s = .next s))) ∧
  (∀ (s : State) (p : Port) (v : Nat) t, s.powered = true → s.roleServes 0 = true → exec (.registerWrite p 0x2D000C 4 v) s = .next t →
    t.fuses.svnHeart = (if v.testBit 0 then max s.fuses.svnHeart (min 64 s.fw.heartwood.svn) else s.fuses.svnHeart) ∧
    ∀ i, s.fw.sapwood = some i →
      t.fuses.svnSap = (if v.testBit 1 then max s.fuses.svnSap (min 64 i.svn) else s.fuses.svnSap)) ∧
  (∀ (i : Instr) (s t : State), exec i s = .next t →
    s.fuses.svnHeart ≤ t.fuses.svnHeart ∧ s.fuses.svnSap ≤ t.fuses.svnSap ∧
    (i ≠ .secSvnCommitHeartwood → i ≠ .secSvnCommitSapwood → (∀ p o w v, i ≠ .registerWrite p o w v) →
      (∀ p m, i ≠ .wemuWrite p m) → (∀ q, i ≠ .packetFirmware q) →
      (∀ n ok, i ≠ .fwRecoveryDone n ok) → (∀ n d, i ≠ .tftpBlockReceive n d) → (∀ a b, i ≠ .sapwoodFetchTimeout a b) →
      t.fuses.svnHeart = s.fuses.svnHeart ∧ t.fuses.svnSap = s.fuses.svnSap))

/-! ## Firmware (chapter 14) -/

/-- R436, R443, R444, R446: a core that misses its heartbeats, traps or makes a forbidden access, which is recorded, is held in reset for its
recovery, and its third crash within an hour makes it FAILED; one recovered runs again and is counted, but a primary scheduler's
standby takes over from it first, the standby of a core that fails takes its function, and a twin that recovers after its primary has FAILED
takes it too. What heartwood would reload waits while no security core serves. R439 to R441, R447: an update asks the first source for
block 1 of the file that the configuration names, with the block size, and waits while no security core serves; a whole block is kept
and the next asked for; a short one ends the file, and an accepted sapwood runs; a timeout asks again, five times in all; a fetch that takes
too long gives way to the fallback sapwood, if a copy of it is accepted and not too old, or ends its update, and while no sapwood runs the
fetch is tried again. Model's choices: a live update takes effect in one step (log entry 66, DESIGN CHOICE); requests that wait are log
entry 114 (DEDUCED). -/
def Obligations.FirmwareService : Prop :=
  ∀ (s : State),
    (∀ n c, n < 40 → n < s.fw.cores.length → (s.fwCore n).state = 2 →
      c = .fwHeartbeatTimeout n ∨ c = .fwCoreTrap ⟨n, .trap⟩ ∨ c = .fwCoreTrap ⟨n, .memory⟩ →
      let now := (s.look (s.heartIsland n)).1
      let before := (s.fwCore n).crashes.filter (fun x => decide (now < x + hourNs))
      (before.length < 2 → ∃ t, exec c s = .next t ∧ (t.fwCore n).state = 3 ∧ (t.fwCore n).role = (s.fwCore n).role ∧
        (t.fwCore n).crashes = before ++ [now] ∧ ∀ m, m ≠ n → t.fwCore m = s.fwCore m) ∧
      (2 ≤ before.length → n < 6 → s.fw.cores.length = 40 → (s.fwCore (twinOf n)).state ≠ 5 → ∃ t, exec c s = .next t ∧
        (t.fwCore n).state = 5 ∧ (t.fwCore n).role = 0 ∧
        ((s.fwCore n).role = 1 → s.standby n = true → (t.fwCore (twinOf n)).role = 1 ∧ (t.fwCore (twinOf n)).state = 2 ∧
          t.fw.takeovers = s.fw.takeovers + 1))) ∧
    (∀ n r w, n < 40 → n < s.fw.cores.length → (s.fwCore n).state = 2 → (s.fwCore n).crashes = [] →
      (fwMay (runsHeart n) r w = true → exec (.fwCoreTrap ⟨n, .access r w⟩) s = .next s) ∧
      (fwMay (runsHeart n) r w = false → ∃ t, exec (.fwCoreTrap ⟨n, .access r w⟩) s = .next t ∧ (t.fwCore n).state = 3 ∧
        t.fw.faults = s.fw.faults ++ [(n, r, w)])) ∧
    (∀ n, n < 40 → n < s.fw.cores.length → (s.fwCore n).state = 3 → s.fw.held = [] →
      (n / 2 ≠ 2 ∨ (s.fwCore n).role ≠ 1 ∨ s.standby n = false) →
      (n < 2 ∨ s.roleServes 0 = true → ¬ (n < 6 ∧ (s.fwCore n).role = 2 ∧ (s.fwCore (twinOf n)).state = 5) →
        ∃ t, exec (.fwRecoveryDone n true) s = .next t ∧ (t.fwCore n).state = 2 ∧ (t.fwCore n).role = (s.fwCore n).role ∧
          (t.fwCore n).restarts = min 255 ((s.fwCore n).restarts + 1) ∧ t.fw.restarts = s.fw.restarts + 1) ∧
      (n < 2 ∨ s.roleServes 0 = true → n < 6 → s.fw.cores.length = 40 → (s.fwCore n).role = 2 →
        (s.fwCore (twinOf n)).state = 5 → ∃ t, exec (.fwRecoveryDone n true) s = .next t ∧ (t.fwCore n).state = 2 ∧
          (t.fwCore n).role = 1 ∧ t.fw.takeovers = s.fw.takeovers + 1) ∧
      (2 ≤ n → s.roleServes 0 = false → ∀ ok, exec (.fwRecoveryDone n ok) s =
        .next { s with fw := { s.fw with held := [.recover n ok] } })) ∧
    (∀ n ok, n < 6 → s.fw.cores.length = 40 → (s.fwCore n).state = 3 → (s.fwCore n).role = 1 → s.standby n = true →
      s.fw.held = [] → (n / 2 = 2 ∨ (ok = false ∧ (n < 2 ∨ s.roleServes 0 = true))) →
      ∃ t, exec (.fwRecoveryDone n ok) s = .next t ∧ (t.fwCore (twinOf n)).role = 1 ∧
        (t.fwCore (twinOf n)).state = 2 ∧ t.fw.takeovers = s.fw.takeovers + 1 ∧
        (t.fwCore n).state = (if n / 2 = 2 then 3 else 5) ∧ (t.fwCore n).role = (if n / 2 = 2 then 2 else 0)) ∧
    (∀ c kind purpose k, (c = .sapwoodUpdate ∧ kind = 0 ∧ purpose = .sapwood) ∨
        (c = .heartwoodUpdate ∧ kind = 1 ∧ purpose = .heartwood) →
      s.fw.busy = false → (s.roleServes 0 = false → exec c s =
          .next { s with fw := { s.fw with held := s.fw.held ++ [.update kind] } }) ∧
      (s.roleServes 0 = true → s.cfg.nextSource 0 = some k → ∃ t f, exec c s = .next t ∧ t.fw.busy = true ∧
        t.fw.kind = kind ∧ t.fw.fetch = some f ∧ f.purpose = purpose ∧ f.source = k ∧ f.block = 1 ∧ f.data = [] ∧
        t.fw.requests = s.fw.requests ++ [⟨k, 1, s.cfg.fileName (decide (kind = 1)), s.cfg.blockSize k⟩])) ∧
    (s.roleServes 0 = true →
      (∀ f bs, s.fw.fetch = some f → bs.length = f.size →
        ∃ t, exec (.tftpBlockReceive (f.block % 65536) bs) s = .next t ∧
          t.fw.fetch = some { f with data := f.data ++ bs, block := f.block + 1, tries := 1 } ∧
          t.fw.requests = s.fw.requests ++ [⟨f.source, (f.block + 1) % 65536, s.cfg.fileName (f.purpose == .heartwood),
            s.cfg.blockSize f.source⟩]) ∧
      (∀ f bs i, s.fw.fetch = some f → f.purpose = .start → f.block ≠ 1 → bs.length < f.size → s.fw.held = [] →
        s.fwAccept false (f.data ++ bs) = (i, 1) → ∃ t, exec (.tftpBlockReceive (f.block % 65536) bs) s = .next t ∧
          t.fw.sapwood = some i ∧ t.fw.fetch = none) ∧
      (∀ f a b, s.fw.fetch = some f → f.purpose ≠ .start → s.fw.held = [] → ∃ t, exec (.sapwoodFetchTimeout a b) s = .next t ∧
        t.fw.busy = false ∧ t.fw.fetch = none ∧ t.fw.result = 2 ∧ t.fw.sapwood = s.fw.sapwood) ∧
      (∀ a b, (∀ f, s.fw.fetch = some f → f.purpose = .start) → s.fw.sapwood = none → s.fw.held = [] →
        ∃ t, exec (.sapwoodFetchTimeout a b) s = .next t ∧ t.fw.fetch = none ∧
          t.fw.sapwood = (if (a || b) = true ∧ s.fuses.svnSap ≤ fallbackImage.svn then some fallbackImage else none)) ∧
      (∀ k, s.fw.sapwood = none → s.fw.fetch = none → s.cfg.nextSource 0 = some k → ∃ t f, exec .sapwoodRetryTimer s = .next t ∧
        t.fw.fetch = some f ∧ f.purpose = .start ∧ f.source = k ∧ f.block = 1)) ∧
    (s.roleServes 0 = false → s.fw.held = [] → ∀ a b, exec (.sapwoodFetchTimeout a b) s =
      .next { s with fw := { s.fw with held := [.fetchOver a b] } }) ∧
    (∀ f, s.fw.fetch = some f → f.tries < 5 → ∃ t, exec .tftpBlockTimeout s = .next t ∧
      t.fw.fetch = some { f with tries := f.tries + 1 } ∧ t.fw.requests = s.fw.requests ++
        [⟨f.source, f.block % 65536, s.cfg.fileName (f.purpose == .heartwood), s.cfg.blockSize f.source⟩])

/-! ## Health (chapter 16) -/

/-- R85, R94, R482, R483, R487, R490, R491, R492, R496: what the events of health do. A codec engine that stalls is retired; a
corrected error is counted, an uncorrectable one of a bank retires the bank and of a firmware core crashes it, and the loss
of a hub is a stop, outside what the manual describes (R479); resent words are noted at their port; a held core that passes
leaves verification; two hosted cores change turns; a failed stack is rebuilt, and its units are placed in the reserve;
withheld data that was written whole is good again; a woodpile core that fails its test, and a rail's failed phase, are out
of service. A retirement goes into the boot flash through heartwood, and waits while no security core serves (R436, R444); an event of no
existing unit changes nothing (log entry 133, DEDUCED). Model's choices: when a bank's loss retires a core, where units go and when DATA_LOST is sent follow log entries
62, 63 and 70 (DEDUCED). -/
def Obligations.HealthEvents : Prop :=
  ∀ (s : State),
    (∀ e, e < 16 → e < s.codecs.length → (s.codecs.getD e {}).inService = true →
      ∃ t, exec (.stallMonitorTrip (.codec e)) s = .next t ∧ (t.codecs.getD e {}).inService = false ∧
        (s.roleServes 0 = true → t.flash.retired = s.flash.retired ++ [⟨9, e, 0⟩]) ∧
        (s.roleServes 0 = false → t.flash = s.flash ∧ t.fw.held = s.fw.held ++ [.retire ⟨9, e, 0⟩])) ∧
    (∀ p i, p < 34 → i < 17 → exec (.eccError (.scratchpad p i) true) s =
      .next { s with health := { s.health with ctr := bump s.health.ctr 0x38 1 } }) ∧
    (∀ p i b, p < 34 → i < 17 → b < 8 → (NMap.getD s.health.banksOut (17 * p + i) 0).testBit b = false →
      (s.health.cluster p).retired.testBit i = false → (s.health.cluster p).state ≠ 4 → 5 ≤ s.health.banks (17 * p + i) →
      ∃ t, exec (.eccError (.bank p i b) false) s = .next t ∧ t.health.map = s.health.map ∧
        t.health.banksOut = NMap.put s.health.banksOut (17 * p + i) (NMap.getD s.health.banksOut (17 * p + i) 0 + 2 ^ b)) ∧
    (∀ n, n < 40 → n < s.fw.cores.length → (s.fwCore n).state = 2 → (s.fwCore n).crashes.length < 2 → ∃ t, exec (.eccError (.firmware n) false) s = .next t ∧
      (t.fwCore n).state = 3) ∧
    (∀ h, h < 8 → exec (.eccError (.hubBuffer h) false) s = .fault .moduleLost) ∧
    (∀ place b, placeOk place = false → exec (.eccError place b) s = .next s) ∧
    (∀ p port, p < 34 → port < 2 → (NMap.getD s.health.wordErrs (2 * p + port) []).length < 15 →
      ∃ t x, exec (.d2dWordError p port) s = .next t ∧ t.health.clusters = s.health.clusters ∧
        ∃ before, NMap.getD t.health.wordErrs (2 * p + port) [] = before ++ [x]) ∧
    (∀ p i, p < 34 → i < 17 → 17 * p + i ∈ s.health.verifying → 32 ≤ s.health.logicalOf p ∨
        (s.fwCore (6 + s.health.logicalOf p)).state = 2 → ∃ t, exec (.coreVerifyDone p i true) s = .next t ∧
      t.health.map = s.health.map ∧ t.health.verifying = s.health.verifying.filter (· != 17 * p + i)) ∧
    (∀ r, s.health.replace = [r] → r.hosting = false → s.sched.running = none → r.physical < s.health.clusters.length →
      ∃ t, exec .clusterReplaceDone s = .next t ∧ t.health.replace = [] ∧ (t.health.cluster r.physical).state = 1 ∧
        (t.health.cluster r.physical).logical = r.logical) ∧
    (∀ p i a b k, p < 34 → i < 17 → s.health.serves (17 * p + i) = [a, b] → s.sched.running = some k →
      NMap.find (s.job k).run.cores (NMap.getD s.health.turns (17 * p + i) a) = none →
      let other := if NMap.getD s.health.turns (17 * p + i) a = a then b else a
      exec (.hostedCoreSwitch p i) s =
        .next { s with health := { s.health with turns := NMap.put s.health.turns (17 * p + i) other } }) ∧
    (∀ k, k < 48 → k < s.health.hbm.length → (s.health.hbm.getD k {}).failed = 0 → k ∉ s.health.rebuilds →
      ∃ t, exec (.hbmUnitFail k none) s = .next t ∧
      (t.health.hbm.getD k {}).state = 2 ∧ (t.health.hbm.getD k {}).failed = 2 ^ 32 - 1 ∧
      (t.health.hbm.getD k {}).left = (s.health.hbm.getD k {}).left + 2 ^ 25 ∧
      t.health.rebuilds = s.health.rebuilds ++ [k]) ∧
    (∀ k rest, s.health.rebuilds = k :: rest → k < s.health.hbm.length →
      (s.health.hbm.getD k {}).left ≤ 2 ^ 25 - s.health.repairUsed → ∃ t, exec .rebuildDone s = .next t ∧
        t.health.rebuilds = rest ∧ (t.health.hbm.getD k {}).state = 3 ∧ (t.health.hbm.getD k {}).left = 0 ∧
        t.health.repairUsed = s.health.repairUsed + (s.health.hbm.getD k {}).left ∧ t.health.lost = s.health.lost) ∧
    (∀ u k x, s.lostAt u = some (k, x) → x ∈ (s.job k).made → ∃ t, exec (.dataRestored u .written) s = .next t ∧
      (t.job k).lost = (s.job k).lost.filter (· != x)) ∧
    (∃ t, exec .marginForecast s = .next t ∧ t.health.logCount = s.health.logCount + 1 ∧
      (s.drawnYear = 0 → t.health.forecast = 0xFFFFFFFF)) ∧
    (∀ p i, p < 34 → i < 17 → p < s.health.clusters.length → (s.health.cluster p).state = 0 → (s.health.cluster p).retired = 0 →
      s.health.serves (17 * p + i) = [] → ∃ t, exec (.woodpileTestTimer [(p, i)]) s = .next t ∧
        (t.health.cluster p).retired = 2 ^ i ∧ (t.health.cluster p).state = 0) ∧
    (∀ p ph, p < 34 → ph < 12 → p < s.health.clusters.length → (s.health.cluster p).phasesOut.testBit ph = false →
      ones 12 ((s.health.cluster p).phasesOut + 2 ^ ph) ≤ 7 → ∃ t, exec (.phaseFail p ph) s = .next t ∧
        (t.health.cluster p).phasesOut = (s.health.cluster p).phasesOut + 2 ^ ph ∧
        (t.health.cluster p).state = (s.health.cluster p).state) ∧
    (∀ h ph, h < 8 → ph < 16 → (s.health.hubPhasesOut.getD h 0).testBit ph = false →
      3 ≤ ones 16 (s.health.hubPhasesOut.getD h 0) → exec (.phaseFail (34 + h) ph) s = .fault .moduleLost)

/-! ## Power and the board (chapter 17) -/

/-- R506, R507: in a governor period a rail moves by 5 mV or not at all, but for THROTTLE_N, which slews it to the floor; it
falls while it is above its limit, or above the floor while the module draws more than its cap. R505: a configuration write
that is not authorised leaves the flashes as they are, and one that is accepted writes both copies. R509, R512: stacks are
paced, feeds recorded, a ride-through that expires and a thermal shutdown remove the rails. Model's choices: feeds and
ride-through are log entry 88 (DEDUCED), the configuration write log entry 87 (DEDUCED), the limits log entry 85 (DEDUCED).
-/
def Obligations.PowerControl : Prop :=
  ∀ (s : State), s.powered = true →
    (∀ (i : GovIn) (c : Nat), c < s.power.rails.length → (s.health.cluster c).inService = true →
      ∃ t r, exec (.governorTick i) s = .next t ∧ t.power.rails[c]? = some r ∧
        let old := s.power.rails.getD c {}
        let lim := min s.power.setpoint (min r.therm r.cur)
        (s.power.throttlePin = true → r.v = 650) ∧
        (s.power.throttlePin = false → lim < old.v → r.v = old.v - 5) ∧
        (s.power.throttlePin = false → old.v ≤ lim → 10 * s.power.cap < i.power → 650 < old.v → r.v = old.v - 5) ∧
        (s.power.throttlePin = false → old.v < lim → 1000 * i.power < 9800 * s.power.cap → r.v = old.v + 5) ∧
        (s.power.throttlePin = false → old.v = lim → i.power ≤ 10 * s.power.cap → r.v = old.v) ∧
        t.power.samples = (i.power :: s.power.samples).take 100) ∧
    (exec .governorFail s = .next { s with power := { s.power with hub4 := true } }) ∧
    (∃ t, exec .throttleNAssert s = .next t ∧ t.power.throttlePin = true ∧ ∀ r ∈ t.power.rails, r.v = 650) ∧
    (exec .throttleNRelease s = .next { s with power := { s.power with throttlePin := false } }) ∧
    (s.power.began ≠ 0 → ∃ t, exec .throttled s = .next t ∧ t.health.logCount = s.health.logCount + 1) ∧
    (∀ via, s.roleServes 0 = false → exec (.pwrConfigGo via) s = if s.cfgHeld then
      .next { s with power := { s.power with cfgResult := 4 } } else .next { s with fw := { s.fw with held := s.fw.held ++ [.config via] } }) ∧
    (∀ via, s.roleServes 0 = true → ∃ t, exec (.pwrConfigGo via) s = .next t ∧ t.power.cfgResult = s.configVerdict via ∧
      (via = false → t.power.cfgResult = 3) ∧ t.flash = (if s.configVerdict via = 1 then { s.flash with
        cfgMirror := cfgOf (memRead s.power.stage 0 1152), cfgPrimary := cfgOf (memRead s.power.stage 0 1152) } else s.flash)) ∧
    (∀ mV, 60000 < mV ∨ mV < 44000 → ∃ t, exec (.feedLost .a mV) s = .next t ∧ t.power.feedA = mV ∧ t.power.lostA = true ∧
      t.board.rideThrough = s.power.lostB) ∧
    (∀ mV, 48000 ≤ mV → mV ≤ 58000 → ∃ t, exec (.feedReturned .b mV) s = .next t ∧ t.power.feedB = mV ∧
      t.power.lostB = false ∧ t.board.rideThrough = false) ∧
    (s.board.rideThrough = true → ∃ t, exec .rideThroughExpired s = .next t ∧ t.board.phase = .off ∧
      t.jobs = List.replicate 64 {} ∧ t.fuses = s.fuses ∧ t.flash = s.flash) ∧
    (∃ t, exec .thermalShutdown s = .next t ∧ t.board.phase = .off ∧ t.flash.cause ≠ 0 ∧ ∀ r ∈ t.power.rails, r.v = 0) ∧
    (∀ k q, k < 48 → ∃ t, exec (.hbmThermalPace k q) s = .next t ∧ (380 < q → k ∈ t.power.paced) ∧
      (q < 368 → k ∉ t.power.paced) ∧ (368 ≤ q → q ≤ 380 → t.power.paced = s.power.paced))

/-- R508: PWR_CAP accepts 800 to 1,350 and PWR_SETPOINT 650 to 850 in multiples of 5, and a write outside the range is ignored;
when the module comes to READY both hold the configuration's values. (A value acts from its write on: durations are left
out, log entry 6.) -/
def Obligations.PowerLimitWrites : Prop :=
  (∀ (s : State) (v : W32), s.powered = true →
    let n := v.toNat % 65536
    let m := v.toNat % 1024
    exec (.pwrCap v) s = .next (if 800 ≤ n ∧ n ≤ 1350 then { s with power := { s.power with cap := n } } else s) ∧
    exec (.pwrSetpoint v) s = .next (if 650 ≤ m ∧ m ≤ 850 ∧ m % 5 = 0 then
      { s with power := { s.power with setpoint := m } } else s)) ∧
  (∀ (s t : State) (i : StartIn) (image : List Byte) (c : Instr),
    c ∈ [Instr.startUp i, .resetNRelease i, .bootRetryTimer i, .recover image i] → exec c s = .next t →
    s.board.phase ≠ .ready → t.board.phase = .ready → t.power.cap = t.cfg.cap ∧ t.power.setpoint = t.cfg.setpoint)

/-- R498, R501, R516: a module that starts with a feed in range and a good copy of heartwood comes to READY with no job loaded,
its pending retirements fused and the limits of its configuration in force; it halts where both copies are bad or older than the fused
minimum (R439, R449); RESET_N
stops it at once. R501, R517, R518: what the SMBus target and JTAG answer. R469, R516: coarse values are renewed, and
ignored pulses counted. Model's choices: what BYPASS captures is log entry 89 (PRESUMED), phases without power log entry 88
(DEDUCED), the logical map log entry 84 (DEDUCED), coarse values log entry 90 (DEDUCED). -/
def Obligations.StartAndBoard : Prop :=
  ∀ (s : State) (i : StartIn),
    (∀ c, (c = .startUp i ∧ s.board.phase = .off) ∨ (c = .resetNRelease i ∧ s.board.phase = .inReset) →
      (48000 ≤ i.feedAmV ∧ i.feedAmV ≤ 58000) ∨ (48000 ≤ i.feedBmV ∧ i.feedBmV ≤ 58000) → s.fuses.state < 4 →
      (i.heartPrimary = false ∨ s.flash.heartPrimary.svn < s.fuses.svnHeart →
        i.heartMirror = false ∨ s.flash.heartMirror.svn < s.fuses.svnHeart → ∃ t, exec c s = .next t ∧ t.board.phase = .halted) ∧
      (i.heartPrimary = true → s.fuses.svnHeart ≤ s.flash.heartPrimary.svn → s.fuses.intent = 0 → i.badCores = [] → i.badClusters = [] →
        16 ≤ (s.health.dark (s.islands.getD 98 0)).chosen.length → ∃ t, exec c s = .next t ∧ t.board.phase = .ready ∧
          t.jobs = List.replicate 64 {} ∧ t.fuses.repairs = s.fuses.repairs ++ s.flash.retired ∧
          t.flash.retired = i.badStacks.map (fun n => ⟨6, n, 0⟩) ∧
          t.power.cap = t.cfg.cap ∧ t.power.setpoint = t.cfg.setpoint ∧ t.fw.heartwood = s.flash.heartPrimary)) ∧
    (s.board.phase = .halted → i.heartMirror = true → s.fuses.svnHeart ≤ s.flash.heartMirror.svn →
      i.heartPrimary = false ∨ s.flash.heartPrimary.svn < s.fuses.svnHeart → s.fuses.intent = 0 → i.badCores = [] →
      i.badClusters = [] → 16 ≤ s.health.chosen.length → ∃ t, exec (.bootRetryTimer i) s = .next t ∧
        t.board.phase = .ready ∧ t.fw.heartwood = s.flash.heartMirror) ∧
    (∃ t, exec .resetNAssert s = .next t ∧ t.board.phase = .inReset ∧ t.jobs = List.replicate 64 {} ∧ t.fuses = s.fuses ∧
      t.flash = s.flash ∧ t.herd = {} ∧ t.sec = {}) ∧
    (∀ image, s.board.phase = .halted → s.fuses.intent = 0 → i.badCores = [] → i.badClusters = [] →
      16 ≤ s.health.chosen.length → ∃ t, exec (.recover image i) s = .next t ∧
        (if (s.fwAccept true image).2 = 1 then t.board.phase = .ready ∧
          t.flash.heartPrimary = (s.fwAccept true image).1 ∧ t.flash.heartMirror = (s.fwAccept true image).1
        else t = { s with board := { s.board with smbus := some [] } })) ∧
    (s.board.phase = .ready →
      exec .identity s = .next { s with board := { s.board with smbus := some (leBytes 8 Config.identity.toNat) } } ∧
      (∃ t rest, exec .inventory s = .next t ∧ t.board.smbus = some (orderingNumber ++ rest) ∧ rest.length = 6) ∧
      exec .stage s = .next { s with board := { s.board with smbus := some [9] } } ∧
      (∃ t bs, exec .power s = .next t ∧ t.board.smbus = some bs ∧ bs.length = 4 ∧ t.jobs = s.jobs) ∧
      (∃ t bs, exec .coolant s = .next t ∧ t.board.smbus = some bs ∧ bs.length = 4 ∧ t.jobs = s.jobs) ∧
      exec .margin s = .next { s with board := { s.board with smbus := some [BitVec.ofNat 8 s.marginClass] } } ∧
      (∃ t, exec .idcode s = .next t ∧ t.board.jtag.getLsbD 0 = true ∧ t.jobs = s.jobs) ∧
      exec .bypass s = .next { s with board := { s.board with jtag := 0 } } ∧
      (∃ t, exec (.ignoredPulse .resetN) s = .next t ∧
        t.power.glitches = (min 65535 (s.power.glitches.1 + 1), s.power.glitches.2)) ∧
      (∃ t, exec (.ignoredPulse .throttleN) s = .next t ∧
        t.power.glitches = (s.power.glitches.1, min 65535 (s.power.glitches.2 + 1)))) ∧
    (s.sec.coarse = true →
      exec (.coarseRefresh .counters) s = .next { s with sec := { s.sec with shown := some s.refreshed } } ∧
      (∃ t, exec (.coarseRefresh .readings) s = .next t ∧ t.sec.shownPower = some s.refreshedPower ∧
        t.power.summed = (0, 0)))
end

