-- ==== Sys2Proof/Laws/Bytes.lean ====
section
/-! SUPPORT. Laws of byte strings: little-endian fields are read back, and the CRC of a flit made here holds (R375). -/

namespace Sys2Proof.Laws
open Sys2Proof.Machine Sys2Proof

@[simp] theorem length_leBytes (n v : Nat) : (leBytes n v).length = n := by
  induction n generalizing v with
  | zero => rfl
  | succ n ih => simp [leBytes, ih]

theorem leNat_leBytes (n v : Nat) : leNat (leBytes n v) = v % 256 ^ n := by
  induction n generalizing v with
  | zero => simp [leBytes, leNat, Nat.mod_one]
  | succ n ih => simp [leBytes, leNat, ih, Nat.pow_succ, Nat.mul_comm, Nat.mod_mul]

@[simp] theorem length_padTo (n : Nat) (bs : List Byte) : (padTo n bs).length = n := by simp [padTo]

theorem headWord_append (bs rest : List Byte) (v n : Nat) : headWord (bs ++ leBytes n v ++ rest) bs.length n = v % 256 ^ n := by
  simp [headWord, leNat_leBytes]

/-- The CRC of a flit made here holds (R375). -/
theorem flitGood_flitBytes (kind chan seq : Nat) (bs : List Byte) (a : Option Nat) (cs : List Nat) :
    flitGood { bytes := flitBytes kind chan seq bs, ack := a, credits := cs } = true := by
  have h := headWord_append (leBytes 1 kind ++ leBytes 1 (chan % 4) ++ leBytes 2 (seq % 1024) ++ padTo 248 bs) []
    (crc32c (leBytes 1 kind ++ leBytes 1 (chan % 4) ++ leBytes 2 (seq % 1024) ++ padTo 248 bs)).toNat 4
  simp [-List.append_assoc] at h
  simp [flitGood, flitBytes, -List.append_assoc, h]
  exact BitVec.isLt _

end Sys2Proof.Laws
end

