-- ==== Sys2Proof/Laws/Core.lean ====
section
/-! SUPPORT. What retiring an instruction can do: the lemmas that claims about instructions of a core cite instead of
unfolding `State.retireThen`, `State.finishInsn` and `State.stopCore`. -/

namespace Sys2Proof.Machine

/-! ## Registers -/

@[simp] theorem Core.setReg_insn (c : Core) (r : Nat) (v : W64) : (c.setReg r v).insn = c.insn := by
  unfold Core.setReg; split <;> rfl
@[simp] theorem Core.setReg_wait (c : Core) (r : Nat) (v : W64) : (c.setReg r v).wait = c.wait := by
  unfold Core.setReg; split <;> rfl
@[simp] theorem Core.setReg_batch (c : Core) (r : Nat) (v : W64) : (c.setReg r v).batch = c.batch := by
  unfold Core.setReg; split <;> rfl
@[simp] theorem Core.setReg_seen (c : Core) (r : Nat) (v : W64) : (c.setReg r v).seen = c.seen := by
  unfold Core.setReg; split <;> rfl
@[simp] theorem Core.setReg_scratch (c : Core) (r : Nat) (v : W64) : (c.setReg r v).scratch = c.scratch := by
  unfold Core.setReg; split <;> rfl
@[simp] theorem Core.setReg_acc (c : Core) (r : Nat) (v : W64) : (c.setReg r v).acc = c.acc := by
  unfold Core.setReg; split <;> rfl
@[simp] theorem Core.setReg_cells (c : Core) (r : Nat) (v : W64) : (c.setReg r v).cells = c.cells := by
  unfold Core.setReg; split <;> rfl
@[simp] theorem Core.setReg_tally (c : Core) (r : Nat) (v : W64) : (c.setReg r v).tally = c.tally := by
  unfold Core.setReg; split <;> rfl
@[simp] theorem Core.setReg_lastThread (c : Core) (r : Nat) (v : W64) : (c.setReg r v).lastThread = c.lastThread := by
  unfold Core.setReg; split <;> rfl
@[simp] theorem Core.setReg_groupsOn (c : Core) (r : Nat) (v : W64) : (c.setReg r v).groupsOn = c.groupsOn := by
  unfold Core.setReg; split <;> rfl
@[simp] theorem Core.setReg_ramping (c : Core) (r : Nat) (v : W64) : (c.setReg r v).ramping = c.ramping := by
  unfold Core.setReg; split <;> rfl
@[simp] theorem Core.setReg_misses (c : Core) (r : Nat) (v : W64) : (c.setReg r v).misses = c.misses := by
  unfold Core.setReg; split <;> rfl
@[simp] theorem Core.setReg_scatDone (c : Core) (r : Nat) (v : W64) : (c.setReg r v).scatDone = c.scatDone := by
  unfold Core.setReg; split <;> rfl
@[simp] theorem Core.setReg_ahead (c : Core) (r : Nat) (v : W64) : (c.setReg r v).ahead = c.ahead := by
  unfold Core.setReg; split <;> rfl
@[simp] theorem Core.setReg_arrived (c : Core) (r : Nat) (v : W64) : (c.setReg r v).arrived = c.arrived := by
  unfold Core.setReg; split <;> rfl
@[simp] theorem Core.setReg_inCmd (c : Core) (r : Nat) (v : W64) : (c.setReg r v).inCmd = c.inCmd := by
  unfold Core.setReg; split <;> rfl

/-! ## Retiring -/

variable {s : State} {n k w : Nat} {f : Job → Core → Effect} {g : Nat → Core → Done → State → State}

/-- A core at an instruction whose effect waits. -/
theorem State.retireThen_wait (h : s.atInsn n k w) {x : CoreWait} {j : Job}
    (e : f (s.job k) (s.coreOf k n) = .wait x j) :
    s.retireThen n w f g =
      (s.setJob k { j with run := j.run.setCore n { j.run.core n with wait := x, inCmd := x.inCmd } }).cooled k n x := by
  obtain ⟨h1, h2, h3⟩ := h
  unfold State.coreOf at e
  simp [State.retireThen, h1, Nat.not_le.mpr h2, h3, e]

/-- A wait for no slower tier leaves the array as it is. -/
theorem State.cooled_plain {x : CoreWait} (hp : ∀ a l p, x ≠ .peat a l p) (hb : x ≠ .browse) : s.cooled k n x = s := by
  unfold State.cooled
  split
  · exact absurd rfl (hp _ _ _)
  · exact absurd rfl hb
  · rfl

/-- A core at an instruction that is a program error. -/
theorem State.retireThen_stop (h : s.atInsn n k w) {p : Problem} (e : f (s.job k) (s.coreOf k n) = .stop p) :
    s.retireThen n w f g = s.stopCore k n p := by
  obtain ⟨h1, h2, h3⟩ := h
  unfold State.coreOf at e
  simp [State.retireThen, h1, Nat.not_le.mpr h2, h3, e]

/-- Nothing is asked of the hubs where no job memory is touched. -/
@[simp] theorem State.noSlot_nil (s : State) (k n : Nat) : s.noSlot k (fun i a => a.accesses i n []) = false := by
  simp [State.noSlot, Acc.accesses, State.accFor]

/-- A core at an instruction that retires and touches no job memory. -/
theorem State.retireThen_done (h : s.atInsn n k w) {d : Done} (e : f (s.job k) (s.coreOf k n) = .done d)
    (ha : d.accesses = []) : s.retireThen n w f g = g k (s.coreOf k n) d (s.finishInsn k n d) := by
  obtain ⟨h1, h2, h3⟩ := h
  unfold State.coreOf at e ⊢
  have hn := State.noSlot_nil s k n
  simp [State.retireThen, h1, Nat.not_le.mpr h2, h3, e, State.withheldRead, ha, hn]

/-- A core at an instruction that retires, and whose accesses to job memory meet neither withheld data nor a full journal nor full hubs. -/
theorem State.retireThen_access (h : s.atInsn n k w) {d : Done} (e : f (s.job k) (s.coreOf k n) = .done d)
    (hw : s.withheldRead k d.accesses = none)
    (hj : (d.accesses.any (·.write) && s.journalFull k) = false)
    (hn : s.noSlot k (fun i a => a.accesses i n d.accesses) = false) :
    s.retireThen n w f g = g k (s.coreOf k n) d (s.finishInsn k n d) := by
  obtain ⟨h1, h2, h3⟩ := h
  unfold State.coreOf at e ⊢
  simp only [State.retireThen, h1, if_neg (Nat.not_le.mpr h2), h3, e, hw, hj, hn]
  simp

@[simp] theorem JobRun.sawEmpty_nil (r : JobRun) : r.sawEmpty [] = r := by simp [JobRun.sawEmpty]

@[simp] theorem State.healthCount_zero (s : State) (off : Nat) : s.healthCount off 0 = s := rfl

theorem JobRun.meet_zero (r : JobRun) (b : Option Batch) : r.meet b 0 = r := by
  cases b <;> simp [JobRun.meet]

theorem JobRun.adaptAll_nil (r : JobRun) (b : Option Batch) : r.adaptAll b [] = r := by
  cases b <;> simp [JobRun.adaptAll]

/-- A retired instruction that touches no job memory, takes no status and reports no early stop. -/
theorem State.finishInsn_plain (d : Done) (ha : d.accesses = []) (hs : d.status = 0) (he : d.empties = [])
    (hf : d.fawn = 0) (hd : d.adaptive = []) (hr : d.ramp = false) :
    s.finishInsn k n d = s.setJob k { d.job with
      run := d.job.run.setCore n (d.core.stepped (d.next.getD (d.core.insn + 1))) } := by
  unfold State.finishInsn
  simp [ha, hs, he, hf, hd, hr, JobRun.meet_zero, JobRun.adaptAll_nil, State.accesses, Core.stepped]

/-- Retiring an instruction that only changes its own job. -/
theorem State.retire_plain (h : s.atInsn n k w) {d : Done} (e : f (s.job k) (s.coreOf k n) = .done d)
    (ha : d.accesses = []) (hs : d.status = 0) (he : d.empties = []) (hf : d.fawn = 0) (hd : d.adaptive = [])
    (hr : d.ramp = false) :
    s.retire n w f = s.setJob k { d.job with
      run := d.job.run.setCore n (d.core.stepped (d.next.getD (d.core.insn + 1))) } := by
  rw [State.retire, State.retireThen_done h e ha, State.finishInsn_plain d ha hs he hf hd hr]

@[simp] theorem checked_true (s t : State) : checked s true t = .next t := rfl

@[simp] theorem checked_false (s t : State) : checked s false t = .next s := rfl

theorem checked_of (s : State) (b : Bool) (t : State) (h : b = true) : checked s b t = .next t := by rw [h]; rfl

/-- A command that may name no unit always completes. -/
theorem checked_next (s : State) (b : Bool) (t : State) : ∃ u, checked s b t = .next u := ⟨_, rfl⟩

end Sys2Proof.Machine
end

