-- ==== Sys2Proof/Laws/Memory.lean ====
section
/-! SUPPORT. Keyed lists and memories: reading after writing, what a write leaves alone, and the canonical form that every
memory operation keeps. -/

namespace Sys2Proof

variable {α : Type}

/-! ## Keyed lists -/

@[simp] theorem NMap.find_put_same (m : NMap α) (k : Nat) (v : α) : NMap.find (NMap.put m k v) k = some v := by
  induction m with
  | nil => simp [NMap.put, NMap.find]
  | cons e m ih =>
    obtain ⟨j, w⟩ := e
    unfold NMap.put
    split
    · simp [NMap.find]
    · split
      · simp [NMap.find]
      · rename_i h; simp [NMap.find, Ne.symm h, ih]

theorem NMap.find_put_ne (m : NMap α) (k q : Nat) (v : α) (h : q ≠ k) : NMap.find (NMap.put m k v) q = NMap.find m q := by
  induction m with
  | nil => simp [NMap.put, NMap.find, Ne.symm h]
  | cons e m ih =>
    obtain ⟨j, w⟩ := e
    unfold NMap.put
    split
    · simp [NMap.find, Ne.symm h]
    · split
      · rename_i h2; subst h2; simp [NMap.find, Ne.symm h]
      · simp [NMap.find, ih]

@[simp] theorem NMap.getD_put_same (m : NMap α) (k : Nat) (v d : α) : NMap.getD (NMap.put m k v) k d = v := by
  simp [NMap.getD]

theorem NMap.getD_put_ne (m : NMap α) (k q : Nat) (v d : α) (h : q ≠ k) :
    NMap.getD (NMap.put m k v) q d = NMap.getD m q d := by
  simp [NMap.getD, NMap.find_put_ne m k q v h]

theorem NMap.find_del_ne (m : NMap α) (k q : Nat) (h : q ≠ k) : NMap.find (NMap.del m k) q = NMap.find m q := by
  induction m with
  | nil => rfl
  | cons e m ih =>
    obtain ⟨j, w⟩ := e
    unfold NMap.del
    split
    · rename_i h2; subst h2; simp [NMap.find, Ne.symm h]
    · simp [NMap.find, ih]

/-- Every key of a list that lies above `k`. -/
def NMap.above (m : NMap α) (k : Nat) : Prop := ∀ e ∈ m, k < e.1

theorem NMap.sorted_cons (j : Nat) (w : α) (m : NMap α) :
    NMap.sorted ((j, w) :: m) = true ↔ NMap.above m j ∧ NMap.sorted m = true := by
  induction m generalizing j w with
  | nil => simp [NMap.sorted, NMap.above]
  | cons e m ih =>
    obtain ⟨k, v⟩ := e
    rw [NMap.sorted]
    simp only [Bool.and_eq_true, decide_eq_true_eq]
    constructor
    · rintro ⟨h1, h2⟩
      refine ⟨?_, h2⟩
      intro x hx
      rcases List.mem_cons.mp hx with rfl | hx
      · exact h1
      · exact Nat.lt_trans h1 (((ih k v).mp h2).1 x hx)
    · rintro ⟨h1, h2⟩
      exact ⟨h1 (k, v) (by simp), h2⟩

theorem NMap.above_put (m : NMap α) (k q : Nat) (v : α) (h : NMap.above m q) (hq : q < k) : NMap.above (NMap.put m k v) q := by
  induction m with
  | nil => intro e he; simp [NMap.put] at he; subst he; exact hq
  | cons e m ih =>
    obtain ⟨j, w⟩ := e
    have h1 : q < j := h (j, w) (by simp)
    have h2 : NMap.above m q := fun e he => h e (by simp [he])
    unfold NMap.put
    split
    · intro x hx; rcases List.mem_cons.mp hx with rfl | hx
      · exact hq
      · exact h x hx
    · split
      · intro x hx; rcases List.mem_cons.mp hx with rfl | hx
        · exact hq
        · exact h2 x hx
      · intro x hx; rcases List.mem_cons.mp hx with rfl | hx
        · exact h1
        · exact ih h2 x hx

theorem NMap.sorted_put (m : NMap α) (k : Nat) (v : α) (h : NMap.sorted m = true) : NMap.sorted (NMap.put m k v) = true := by
  induction m with
  | nil => rfl
  | cons e m ih =>
    obtain ⟨j, w⟩ := e
    obtain ⟨h1, h2⟩ := (NMap.sorted_cons j w m).mp h
    unfold NMap.put
    split
    · rename_i hk
      refine (NMap.sorted_cons k v _).mpr ⟨?_, h⟩
      intro x hx; rcases List.mem_cons.mp hx with rfl | hx
      · exact hk
      · exact Nat.lt_trans hk (h1 x hx)
    · split
      · rename_i _ hk; subst hk; exact (NMap.sorted_cons _ v m).mpr ⟨h1, h2⟩
      · rename_i ha hb
        exact (NMap.sorted_cons j w _).mpr ⟨NMap.above_put m k j v h1 (by omega), ih h2⟩

theorem NMap.del_subset (m : NMap α) (k : Nat) : ∀ e ∈ NMap.del m k, e ∈ m := by
  induction m with
  | nil => intro e h; exact h
  | cons e m ih =>
    obtain ⟨j, w⟩ := e
    unfold NMap.del
    split
    · intro x hx; simp [hx]
    · intro x hx; rcases List.mem_cons.mp hx with rfl | hx
      · simp
      · simp [ih x hx]

theorem NMap.sorted_del (m : NMap α) (k : Nat) (h : NMap.sorted m = true) : NMap.sorted (NMap.del m k) = true := by
  induction m with
  | nil => rfl
  | cons e m ih =>
    obtain ⟨j, w⟩ := e
    obtain ⟨h1, h2⟩ := (NMap.sorted_cons j w m).mp h
    unfold NMap.del
    split
    · exact h2
    · exact (NMap.sorted_cons j w _).mpr ⟨fun e he => h1 e (NMap.del_subset m k e he), ih h2⟩

theorem NMap.find_above (m : NMap α) (k : Nat) (h : NMap.above m k) : NMap.find m k = none := by
  induction m with
  | nil => rfl
  | cons e m ih =>
    obtain ⟨j, w⟩ := e
    have h1 : k < j := h (j, w) (by simp)
    simp [NMap.find, Nat.ne_of_gt h1, ih (fun e he => h e (by simp [he]))]

theorem NMap.find_del_same (m : NMap α) (k : Nat) (h : NMap.sorted m = true) : NMap.find (NMap.del m k) k = none := by
  induction m with
  | nil => rfl
  | cons e m ih =>
    obtain ⟨j, w⟩ := e
    obtain ⟨h1, h2⟩ := (NMap.sorted_cons j w m).mp h
    unfold NMap.del
    split
    · rename_i hj; subst hj; exact NMap.find_above m _ h1
    · rename_i hj; simp [NMap.find, hj, ih h2]

theorem NMap.put_mem (m : NMap α) (k : Nat) (v : α) : ∀ e ∈ NMap.put m k v, e = (k, v) ∨ e ∈ m := by
  induction m with
  | nil => intro e h; simp [NMap.put] at h; exact .inl h
  | cons e m ih =>
    obtain ⟨j, w⟩ := e
    unfold NMap.put
    split
    · intro x hx; rcases List.mem_cons.mp hx with rfl | hx
      · exact .inl rfl
      · exact .inr hx
    · split
      · intro x hx; rcases List.mem_cons.mp hx with rfl | hx
        · exact .inl rfl
        · exact .inr (by simp [hx])
      · intro x hx; rcases List.mem_cons.mp hx with rfl | hx
        · exact .inr (by simp)
        · rcases ih x hx with h | h
          · exact .inl h
          · exact .inr (by simp [h])

namespace Machine

/-! ## Memories -/

theorem memGet_memPut_same (m : NMap Byte) (a : Nat) (b : Byte) (h : NMap.sorted m = true) : memGet (memPut m a b) a = b := by
  unfold memGet memPut
  split
  · rename_i hb; simp [NMap.getD, NMap.find_del_same m a h, hb]
  · simp

theorem memGet_memPut_ne (m : NMap Byte) (a q : Nat) (b : Byte) (h : q ≠ a) : memGet (memPut m a b) q = memGet m q := by
  unfold memGet memPut NMap.getD
  split
  · rw [NMap.find_del_ne m a q h]
  · rw [NMap.find_put_ne m a q b h]

theorem memWf_memPut (m : NMap Byte) (a : Nat) (b : Byte) (h : memWf m = true) : memWf (memPut m a b) = true := by
  unfold memWf at *
  simp only [Bool.and_eq_true, List.all_eq_true] at *
  unfold memPut
  split
  · exact ⟨NMap.sorted_del m a h.1, fun e he => h.2 e (NMap.del_subset m a e he)⟩
  · rename_i hb
    refine ⟨NMap.sorted_put m a b h.1, fun e he => ?_⟩
    rcases NMap.put_mem m a b e he with rfl | he
    · simpa using hb
    · exact h.2 e he

/-- Every memory write keeps the canonical form. -/
theorem memWf_memWrite (m : NMap Byte) (a : Nat) (bs : List Byte) (h : memWf m = true) : memWf (memWrite m a bs) = true := by
  induction bs generalizing m a with
  | nil => exact h
  | cons b bs ih => exact ih _ _ (memWf_memPut m a b h)

/-- A write leaves every byte outside it alone. -/
theorem memGet_memWrite_out (m : NMap Byte) (a q : Nat) (bs : List Byte) (h : q < a ∨ a + bs.length ≤ q) :
    memGet (memWrite m a bs) q = memGet m q := by
  induction bs generalizing m a with
  | nil => rfl
  | cons b bs ih =>
    simp only [List.length_cons] at h
    rw [memWrite, ih _ _ (by omega), memGet_memPut_ne m a q b (by omega)]

/-- A byte of a write reads back. -/
theorem memGet_memWrite_in (m : NMap Byte) (a q : Nat) (bs : List Byte) (hm : memWf m = true) (h1 : a ≤ q)
    (h2 : q < a + bs.length) : memGet (memWrite m a bs) q = bs.getD (q - a) 0 := by
  induction bs generalizing m a with
  | nil => simp at h2; omega
  | cons b bs ih =>
    simp only [List.length_cons] at h2
    rw [memWrite]
    by_cases hq : q = a
    · subst hq
      rw [memGet_memWrite_out _ _ _ _ (by omega)]
      have hs : NMap.sorted m = true := by unfold memWf at hm; simp at hm; exact hm.1
      simp [memGet_memPut_same m q b hs]
    · rw [ih _ _ (memWf_memPut m a b hm) (by omega) (by omega)]
      have : q - a = q - (a + 1) + 1 := by omega
      simp [this]

end Machine

end Sys2Proof
end

