-- ==== Sys2Proof/Laws/Shape.lean ====
section
/-! SUPPORT. What the shared operations leave alone: each keeps the queue of waiting commands, the fuses, and the numbers of
job slots, links, codec engines and islands. One lemma an operation; a claim over all commands cites these. -/

set_option linter.all false

namespace Sys2Proof.Machine

/-! ## Ops -/

/-- What the shared operations leave alone. -/
structure Shape where
  pending : List Instr
  fuses : Fuses
  slots : Nat
  links : Nat
  engines : Nat
  islands : Nat
  deriving DecidableEq, Repr

/-- The shape of a state. -/
def State.shape (s : State) : Shape :=
  { pending := s.pending, fuses := s.fuses, slots := s.jobs.length, links := s.links.length, engines := s.codecs.length
    islands := s.islands.length }

@[simp] theorem State.shape_mk (t : State) (a1 a2 a3 a4 a5 a6 a7 a8 a9 a10 a11 a12 a13 a14 a15 a16 a17)
    (h2 : a2.length = t.islands.length) (h3 : a3.length = t.jobs.length) (h8 : a8.length = t.links.length)
    (h10 : a10.length = t.codecs.length) :
    State.shape (State.mk t.pending a1 a2 a3 a4 a5 a6 a7 a8 a9 a10 a11 t.fuses a12 a13 a14 a15 a16 a17) = t.shape := by
  simp [State.shape, h2, h3, h8, h10]

@[simp] theorem State.shape_ite (c : Prop) [Decidable c] (a b : State) :
    State.shape (if c then a else b) = if c then a.shape else b.shape := by split <;> rfl

@[simp] theorem State.shape_foldl {α : Type} (f : State → α → State) (h : ∀ s x, (f s x).shape = s.shape) (l : List α)
    (s : State) : (l.foldl f s).shape = s.shape := by
  induction l generalizing s with
  | nil => rfl
  | cons x l ih => rw [List.foldl_cons, ih, h]

@[simp] theorem State.fresh_shape (s : State) : (State.fresh s).2.shape = s.shape := by
  simp [State.fresh]

@[simp] theorem State.look_shape (s : State) (island : Nat) : (State.look s island).2.shape = s.shape := by
  simp [State.look]

@[simp] theorem State.setPort_shape (s : State) (p : Port) (h : HostPort) :
    (State.setPort s p h).shape = s.shape := by
  unfold State.setPort
  (repeat' split) <;> simp

@[simp] theorem State.setJob_shape (s : State) (k : Nat) (j : Job) : (State.setJob s k j).shape = s.shape := by
  simp [State.setJob]

@[simp] theorem State.setInfo_shape (s : State) (k : Nat) (i : JobInfo) : (State.setInfo s k i).shape = s.shape := by
  simp [State.setInfo]

@[simp] theorem State.hostCount_shape (s : State) (p : Port) (off : Nat) :
    (State.hostCount s p off).shape = s.shape := by
  simp [State.hostCount]

@[simp] theorem State.statusChange_shape (s : State) (p : Port) : (State.statusChange s p).shape = s.shape := by
  simp [State.statusChange]

@[simp] theorem State.setRing_shape (s : State) (p : Port) (set : Nat) (r : RingSet) :
    (State.setRing s p set r).shape = s.shape := by
  simp [State.setRing]

@[simp] theorem State.flushCompletions_shape (s : State) (p : Port) (set : Nat) (held : List Completion) :
    (State.flushCompletions s p set held).shape = s.shape := by
  induction held generalizing s with
  | nil => simp [State.flushCompletions]
  | cons c rest ih =>
    simp only [State.flushCompletions, State.look]
    split <;> simp [ih]

@[simp] theorem State.flushEvents_shape (s : State) (p : Port) (set : Nat) (held : List Event) :
    (State.flushEvents s p set held).shape = s.shape := by
  induction held generalizing s with
  | nil => simp [State.flushEvents]
  | cons c rest ih =>
    simp only [State.flushEvents, State.look]
    split <;> simp [ih]

@[simp] theorem State.deliver_shape (s : State) (p : Port) (set : Nat) (c : Completion) :
    (State.deliver s p set c).shape = s.shape := by
  simp [State.deliver]

@[simp] theorem State.deliverNotify_shape (s : State) (p : Port) (set : Nat) (c : Completion) :
    (State.deliverNotify s p set c).shape = s.shape := by
  simp [State.deliverNotify]

@[simp] theorem State.deliverEvent_shape (s : State) (p : Port) (set : Nat) (e : Event) :
    (State.deliverEvent s p set e).shape = s.shape := by
  simp [State.deliverEvent]

@[simp] theorem State.eventTo_shape (s : State) (p : Port) (e : Event) (sets : List Nat) :
    (State.eventTo s p e sets).shape = s.shape := by
  induction sets generalizing s with
  | nil => rfl
  | cons x l ih =>
    unfold State.eventTo
    first
    | (simp [State.fresh, State.look, ih]; done)
    | (simp only [State.fresh, State.look]; (repeat' split) <;> simp [ih])

@[simp] theorem State.deviceEvent_shape (s : State) (e : Event) : (State.deviceEvent s e).shape = s.shape := by
  simp [State.deviceEvent]

@[simp] theorem State.jobEvent_shape (s : State) (k : Nat) (e : Event) : (State.jobEvent s k e).shape = s.shape := by
  simp [State.jobEvent]

@[simp] theorem State.notOutstanding_shape (s : State) (c : Cmd) : (State.notOutstanding s c).shape = s.shape := by
  simp [State.notOutstanding]

@[simp] theorem State.completeUnder_shape (s : State) (i : JobInfo) (c : Cmd) (status flags stream count : Nat) :
    (State.completeUnder s i c status flags stream count).shape = s.shape := by
  simp [State.completeUnder]

@[simp] theorem State.complete_shape (s : State) (k : Nat) (c : Cmd) (status flags stream count : Nat) :
    (State.complete s k c status flags stream count).shape = s.shape := by
  simp [State.complete]

@[simp] theorem State.completeFree_shape (s : State) (c : Cmd) (status flags count : Nat) :
    (State.completeFree s c status flags count).shape = s.shape := by
  unfold State.completeFree
  (repeat' split) <;> simp


/-! ## JobOps -/

@[simp] theorem State.queueJob_shape (s : State) (k place : Nat) :
    (State.queueJob s k place).shape = s.shape := by
  simp [State.queueJob]

@[simp] theorem State.requeue_shape (s : State) (k : Nat) :
    (State.requeue s k).shape = s.shape := by
  simp [State.requeue]

@[simp] theorem State.coarseOn_shape (s : State) : (State.coarseOn s).shape = s.shape := by
  simp [State.coarseOn]

@[simp] theorem State.coarseOff_shape (s : State) : (State.coarseOff s).shape = s.shape := by
  simp [State.coarseOff]

@[simp] theorem State.tallyRun_shape (s : State) (k : Nat) : (State.tallyRun s k).shape = s.shape := by
  simp [State.tallyRun]

@[simp] theorem State.beginPause_shape (s : State) (k : Nat) (p : Pausing) :
    (State.beginPause s k p).shape = s.shape := by
  simp [State.beginPause]

@[simp] theorem State.checkYield_shape (s : State) :
    (State.checkYield s).shape = s.shape := by
  unfold State.checkYield
  (repeat' split) <;> simp

@[simp] theorem State.programError_shape (s : State) (k status tag : Nat) :
    (State.programError s k status tag).shape = s.shape := by
  unfold State.programError
  (repeat' split) <;> simp

@[simp] theorem State.seekCommit_shape (s : State) : (State.seekCommit s).shape = s.shape := by
  unfold State.seekCommit
  (repeat' split) <;> simp

@[simp] theorem State.completeAll_shape (s : State) (k : Nat) (cs : List Cmd) (status count : Nat) :
    (State.completeAll s k cs status count).shape = s.shape := by
  induction cs generalizing s with
  | nil => simp [State.completeAll]
  | cons x l ih => simp [State.completeAll, ih]

@[simp] theorem State.jobCount_shape (s : State) (k off n : Nat) : (State.jobCount s k off n).shape = s.shape := by
  simp [State.jobCount]

@[simp] theorem State.journalStall_shape (s : State) (k : Nat) : (State.journalStall s k).shape = s.shape := by
  simp [State.journalStall]

@[simp] theorem State.jobStateEvent_shape (s : State) (k old new cause status tag : Nat) (adopted lost : Bool) :
    (State.jobStateEvent s k old new cause status tag adopted lost).shape = s.shape := by
  simp [State.jobStateEvent]

@[simp] theorem State.commitNow_shape (s : State) (k live : Nat) : (State.commitNow s k live).shape = s.shape := by
  simp [State.commitNow]

@[simp] theorem State.raiseSem_shape (s : State) (k sem v : Nat) : (State.raiseSem s k sem v).shape = s.shape := by
  simp [State.raiseSem]

@[simp] theorem State.raiseFrom_shape (s : State) (k sem v : Nat) :
    (State.raiseFrom s k sem v).shape = s.shape := by
  simp [State.raiseFrom]

@[simp] theorem State.discard_shape (s : State) (cs : List Cmd) : (State.discard s cs).shape = s.shape := by
  induction cs generalizing s with
  | nil => simp [State.discard]
  | cons x l ih => simp [State.discard, ih]

@[simp] theorem State.trimKeys_shape (s : State) : (State.trimKeys s).shape = s.shape := by
  simp [State.trimKeys]

@[simp] theorem State.endJob_shape (s : State) (k : Nat) (c : Cmd) : (State.endJob s k c).shape = s.shape := by
  simp [State.endJob]

@[simp] theorem State.hold_shape (s : State) (h : Held) : (State.hold s h).shape = s.shape := by
  simp [State.hold]

@[simp] theorem State.takeGo_shape (s : State) : (State.takeGo s).shape = s.shape := by
  simp only [State.takeGo]
  (repeat' split) <;> simp

@[simp] theorem State.takeCmd_shape (s : State) (c : Cmd) : (State.takeCmd s c).shape = s.shape := by
  simp [State.takeCmd]

@[simp] theorem State.refuseCmd_shape (s : State) (c : Cmd) (status : Nat) :
    (State.refuseCmd s c status).shape = s.shape := by
  simp [State.refuseCmd]

@[simp] theorem State.onJob_shape (s : State) (c : Cmd) (f : Nat → State → State) (h : ∀ k t, (f k t).shape = t.shape) :
    (State.onJob s c f).shape = s.shape := by
  unfold State.onJob
  (repeat' split) <;> simp [h]
  split <;> simp [h]


/-! ## TierOps -/

@[simp] theorem State.placeUnit_shape (s : State) (e : Nat × Nat) : (State.placeUnit s e).shape = s.shape := by
  simp only [State.placeUnit]
  (repeat' split) <;> simp

@[simp] theorem State.onTiers_shape (s : State) (k : Nat) (f : Image → Acc → Acc) :
    (State.onTiers s k f).shape = s.shape := by
  rw [State.onTiers, State.shape_foldl _ (fun s e => by simp)]
  simp [State.shape, State.setJob]

@[simp] theorem State.journalCopies_shape (s : State) (k part : Nat) :
    (State.journalCopies s k part).shape = s.shape := by
  simp [State.journalCopies]

@[simp] theorem State.accesses_shape (s : State) (k n : Nat) (xs : List Access) :
    (State.accesses s k n xs).shape = s.shape := by
  simp [State.accesses]

@[simp] theorem State.hubAccess_shape (s : State) (k : Nat) (write : Bool) (part at' len : Nat) :
    (State.hubAccess s k write part at' len).shape = s.shape := by
  simp [State.hubAccess]

@[simp] theorem State.hubWrite_shape (s : State) (k part at' len : Nat) :
    (State.hubWrite s k part at' len).shape = s.shape := by
  simp [State.hubWrite]

@[simp] theorem State.releaseHeld_shape (s : State) (k : Nat) : (State.releaseHeld s k).shape = s.shape := by
  simp [State.releaseHeld]

@[simp] theorem State.hubRead_shape (s : State) (k part at' len : Nat) :
    (State.hubRead s k part at' len).shape = s.shape := by
  simp [State.hubRead]

@[simp] theorem State.hubReads_shape (s : State) (k part : Nat) (xs : List (Nat × Nat)) :
    (State.hubReads s k part xs).shape = s.shape := by
  simp [State.hubReads]

@[simp] theorem State.encodeAt_shape (s : State) (k n : Nat) (q : QCmd) (e : Encoding) :
    (State.encodeAt s k n q e).shape = s.shape := by
  simp only [State.encodeAt]
  split
  · simp [State.shape, State.setJob]
  · simp

@[simp] theorem State.firmwareRead_shape (s : State) (d n : Nat) :
    (State.firmwareRead s d n).shape = s.shape := by
  unfold State.firmwareRead
  (repeat' split) <;> simp

@[simp] theorem State.firmwareWrite_shape (s : State) (d len : Nat) :
    (State.firmwareWrite s d len).shape = s.shape := by
  unfold State.firmwareWrite
  (repeat' split) <;> simp

@[simp] theorem State.firmwareFill_shape (s : State) (j : Job) (at' len : Nat) :
    (State.firmwareFill s j at' len).shape = s.shape := by
  simp [State.firmwareFill]

@[simp] theorem State.askUnit_shape (s : State) (k n a len part : Nat) :
    (State.askUnit s k n a len part).shape = s.shape := by
  simp [State.askUnit]

@[simp] theorem State.askMisses_shape (s : State) (k n : Nat) : (State.askMisses s k n).shape = s.shape := by
  simp [State.askMisses]

@[simp] theorem State.drainTiers_shape (s : State) (k : Nat) : (State.drainTiers s k).shape = s.shape := by
  simp [State.drainTiers]

@[simp] theorem State.loadPinned_shape (s : State) (k : Nat) : (State.loadPinned s k).shape = s.shape := by
  simp [State.loadPinned]


/-! ## HealthOps -/

@[simp] theorem State.healthCount_shape (s : State) (off n : Nat) : (State.healthCount s off n).shape = s.shape := by
  simp [State.healthCount]

@[simp] theorem State.logEvent_shape (s : State) (e : Event) : (State.logEvent s e).shape = s.shape := by
  simp [State.logEvent]

@[simp] theorem State.healthEvent_shape (s : State) (k : Option Nat) (e : Event) :
    (State.healthEvent s k e).shape = s.shape := by
  unfold State.healthEvent
  (repeat' split) <;> simp

@[simp] theorem State.forecastEvent_shape (s : State) : (State.forecastEvent s).shape = s.shape := by
  simp [State.forecastEvent]

@[simp] theorem State.unitEvent_shape (s : State) (code kind action unit logical sub : Nat) :
    (State.unitEvent s code kind action unit logical sub).shape = s.shape := by
  simp [State.unitEvent]

@[simp] theorem State.recovered_shape (s : State) (kind means unit us seq : Nat) :
    (State.recovered s kind means unit us seq).shape = s.shape := by
  simp [State.recovered]

@[simp] theorem State.flashEvent_shape (s : State) (copy action : Nat) :
    (State.flashEvent s copy action).shape = s.shape := by
  simp [State.flashEvent]

@[simp] theorem State.carry_shape (s : State) (n : Nat) : (State.carry s n).shape = s.shape := by
  simp only [State.carry]
  (repeat' split) <;> simp

@[simp] theorem State.place1_shape (s : State) (n p core : Nat) : (State.place1 s n p core).shape = s.shape := by
  simp [State.place1]

theorem State.takeSpare_shape (s t : State) (n : Nat) (full : Bool) (h : s.takeSpare n full = some t) :
    t.shape = s.shape := by
  simp only [State.takeSpare] at h
  split at h
  · cases h
  · cases h; simp

theorem State.moveToSpare_shape (s t : State) (n : Nat) (full : Bool) (h : s.moveToSpare n full = some t) :
    t.shape = s.shape := by
  simp only [State.moveToSpare, Option.map_eq_some_iff] at h
  obtain ⟨u, hu, rfl⟩ := h
  simp [State.takeSpare_shape _ _ _ _ hu]

@[simp] theorem State.moveToSpare_getD_shape (s t : State) (n : Nat) (full : Bool) (h : t.shape = s.shape) :
    ((s.moveToSpare n full).getD t).shape = s.shape := by
  cases e : s.moveToSpare n full with
  | none => simpa using h
  | some u => simpa using State.moveToSpare_shape _ _ _ _ e

@[simp] theorem State.takeSpare_getD_shape (s t : State) (n : Nat) (full : Bool) (h : t.shape = s.shape) :
    ((s.takeSpare n full).getD t).shape = s.shape := by
  cases e : s.takeSpare n full with
  | none => simpa using h
  | some u => simpa using State.takeSpare_shape _ _ _ _ e

@[simp] theorem State.drainArray_shape (s : State) (n : Nat) : (State.drainArray s n).shape = s.shape := by
  simp only [State.drainArray]
  (repeat' split) <;> simp

@[simp] theorem State.noteRetired_shape (s : State) (u : UnitId) : (State.noteRetired s u).shape = s.shape := by
  simp [State.noteRetired]

@[simp] theorem State.holdFailed_shape (s : State) (n failures : Nat) :
    (State.holdFailed s n failures).shape = s.shape := by
  unfold State.holdFailed
  (repeat' split) <;> simp

@[simp] theorem State.vecChecks_shape (s : State) (n : Nat) : (s.vecChecks n).shape = s.shape := by
  simp [State.vecChecks]

@[simp] theorem State.rechoose_shape (s : State) (cl : Nat) : (State.rechoose s cl).shape = s.shape := by
  simp [State.rechoose]

@[simp] theorem State.placeCluster_shape (s : State) (cl p : Nat) : (State.placeCluster s cl p).shape = s.shape := by
  simp [State.placeCluster]

@[simp] theorem State.coldTier_shape (s : State) (cl : Nat) : (State.coldTier s cl).shape = s.shape := by
  unfold State.coldTier
  (repeat' split) <;> simp

@[simp] theorem State.leaveWood_shape (s : State) (p : Nat) :
    (State.leaveWood s p).shape = s.shape := by
  simp [State.leaveWood]

@[simp] theorem State.takeControl_shape (s : State) (cl p : Nat) :
    (State.takeControl s cl p).shape = s.shape := by
  simp [State.takeControl]

@[simp] theorem State.moveCluster_shape (s : State) (cl p : Nat) : (State.moveCluster s cl p).shape = s.shape := by
  simp [State.moveCluster]

@[simp] theorem State.migrateClusters_shape (s : State) : (State.migrateClusters s).shape = s.shape := by
  simp [State.migrateClusters]

@[simp] theorem State.dataEvent_shape (s : State) (code k u means : Nat) :
    (State.dataEvent s code k u means).shape = s.shape := by
  simp [State.dataEvent]

@[simp] theorem State.loseData_shape (s : State) (k u : Nat) : (State.loseData s k u).shape = s.shape := by
  simp [State.loseData]


/-! ## HerdOps -/

@[simp] theorem State.setLink_shape (s : State) (n : Nat) (l : Link) : (State.setLink s n l).shape = s.shape := by
  simp [State.setLink]

@[simp] theorem State.herdCount_shape (s : State) (off : Nat) : (State.herdCount s off).shape = s.shape := by
  simp [State.herdCount]

@[simp] theorem State.pumpLink_shape (s : State) (n : Nat) : (State.pumpLink s n).shape = s.shape := by
  simp [State.pumpLink]

@[simp] theorem State.sendLocal_shape (s : State) (n type : Nat) (payload : List Byte) :
    (State.sendLocal s n type payload).shape = s.shape := by
  simp [State.sendLocal]

@[simp] theorem State.reroute_shape (s : State) : (State.reroute s).shape = s.shape := by
  simp [State.reroute]

@[simp] theorem State.putOn_shape (s : State) (n : Nat) (p : Packet) : (State.putOn s n p).shape = s.shape := by
  simp [State.putOn]

@[simp] theorem State.trySend_shape (s : State) (p : Packet) : (State.trySend s p).shape = s.shape := by
  unfold State.trySend
  (repeat' split) <;> simp

@[simp] theorem State.sendPacket_shape (s : State) (p : Packet) : (State.sendPacket s p).shape = s.shape := by
  simp [State.sendPacket]

@[simp] theorem State.sendAll_shape (s : State) (ps : List Packet) : (State.sendAll s ps).shape = s.shape := by
  induction ps generalizing s with
  | nil => simp [State.sendAll]
  | cons x l ih => simp [State.sendAll, ih]

@[simp] theorem State.retryWaiting_shape (s : State) (ps : List Packet) :
    (State.retryWaiting s ps).shape = s.shape := by
  induction ps generalizing s with
  | nil => simp [State.retryWaiting]
  | cons x l ih => simp [State.retryWaiting, ih]

@[simp] theorem State.wakeCores_shape (s : State) (w : CoreWait) :
    (State.wakeCores s w).shape = s.shape := by
  unfold State.wakeCores
  (repeat' split) <;> simp

@[simp] theorem State.wakeSenders_shape (s : State) : (State.wakeSenders s).shape = s.shape := by
  simp [State.wakeSenders]

@[simp] theorem State.sendReply_shape (s : State) (p : Packet) : (State.sendReply s p).shape = s.shape := by
  unfold State.sendReply
  (repeat' split) <;> simp

@[simp] theorem State.message_shape (s : State) : (State.message s).2.shape = s.shape := by
  simp [State.message]

@[simp] theorem State.capturePackets_shape (s : State) (k : Nat) : (State.capturePackets s k).shape = s.shape := by
  simp [State.capturePackets]

@[simp] theorem State.requeuePasses_shape (s : State) (xs : List (Nat × Transfer2)) :
    (State.requeuePasses s xs).shape = s.shape := by
  simp [State.requeuePasses]

@[simp] theorem State.releaseCaptured_shape (s : State) (k : Nat) : (State.releaseCaptured s k).shape = s.shape := by
  simp [State.releaseCaptured]

@[simp] theorem State.rewindHerd_shape (s : State) (k : Nat) :
    (State.rewindHerd s k).shape = s.shape := by
  simp [State.rewindHerd]

@[simp] theorem State.mirrorTransfer_shape (s : State) (k : Nat) : (State.mirrorTransfer s k).shape = s.shape := by
  simp [State.mirrorTransfer]

@[simp] theorem State.mirrorLost_shape (s : State) (k : Nat) : (State.mirrorLost s k).shape = s.shape := by
  simp [State.mirrorLost]

@[simp] theorem State.readPeer_shape (s : State) (k peer addr bytes : Nat) (body : Bool) (key : Nat) :
    (State.readPeer s k peer addr bytes body key).shape = s.shape := by
  simp [State.readPeer]

@[simp] theorem State.startFetches_shape (s : State) (k : Nat) (old : JobRun) :
    (State.startFetches s k old).shape = s.shape := by
  simp [State.startFetches]

@[simp] theorem State.herdChange_shape (s : State) (cause : Nat) : (State.herdChange s cause).shape = s.shape := by
  simp [State.herdChange]

@[simp] theorem State.sendJoin_shape (s : State) (j : JoinMsg) :
    (State.sendJoin s j).shape = s.shape := by
  unfold State.sendJoin
  (repeat' split) <;> simp

@[simp] theorem State.sendHellos_shape (s : State) : (State.sendHellos s).shape = s.shape := by
  simp [State.sendHellos]

@[simp] theorem State.standAlone_shape (s : State) : (State.standAlone s).shape = s.shape := by
  simp [State.standAlone]

@[simp] theorem State.keepBook_shape (s : State) (addr : Nat) (book : Option (List (Nat × W64))) :
    (State.keepBook s addr book).shape = s.shape := by
  simp only [State.keepBook]
  split <;> simp

@[simp] theorem State.lead_shape (s : State) :
    (State.lead s).shape = s.shape := by
  unfold State.lead
  dsimp only
  (repeat' split) <;> simp

@[simp] theorem State.follow_shape (s : State) : (State.follow s).shape = s.shape := by
  simp only [State.follow]
  (repeat' split) <;> simp

@[simp] theorem State.tell_shape (s : State) (x : W64) (m : CensusMsg) :
    (State.tell s x m).shape = s.shape := by
  simp only [State.tell, State.fresh, State.look]
  (repeat' split) <;> simp

@[simp] theorem State.tellAll_shape (s : State) (xs : List W64) (m : CensusMsg) :
    (State.tellAll s xs m).shape = s.shape := by
  simp [State.tellAll]

@[simp] theorem State.settleMembers_shape (s : State) (heard : List W64) :
    (State.settleMembers s heard).shape = s.shape := by
  simp [State.settleMembers]

@[simp] theorem State.linkChanged_shape (s : State) : (State.linkChanged s).shape = s.shape := by
  simp [State.linkChanged]


/-! ## CoreOps -/

@[simp] theorem State.stopCore_shape (s : State) (k n : Nat) (p : Problem) :
    (State.stopCore s k n p).shape = s.shape := by
  simp [State.stopCore]

@[simp] theorem State.finishInsn_shape (s : State) (k n : Nat) (d : Done) :
    (State.finishInsn s k n d).shape = s.shape := by
  simp [State.finishInsn]

@[simp] theorem State.rampStops_shape (s : State) (k n : Nat) :
    (State.rampStops s k n).shape = s.shape := by
  simp [State.rampStops]

@[simp] theorem State.rampBack_shape (s : State) (k n : Nat) :
    (State.rampBack s k n).shape = s.shape := by
  simp [State.rampBack]

@[simp] theorem State.cooled_shape (s : State) (k n : Nat) (w : CoreWait) :
    (State.cooled s k n w).shape = s.shape := by
  unfold State.cooled
  split <;> simp

@[simp] theorem State.retireThen_shape (s : State) (n word : Nat) (f : Job → Core → Effect) (then' : Nat → Core → Done → State → State)
    (h : ∀ k c d t, (then' k c d t).shape = t.shape) :
    (State.retireThen s n word f then').shape = s.shape := by
  unfold State.retireThen
  split
  · rfl
  · dsimp only
    (repeat' split) <;> simp [h]

@[simp] theorem State.retire_shape (s : State) (n word : Nat) (f : Job → Core → Effect) :
    (State.retire s n word f).shape = s.shape := by
  simp [State.retire]

@[simp] theorem State.arrayChecks_shape (s : State) (k n : Nat) (d : Done) :
    (State.arrayChecks s k n d).shape = s.shape := by
  unfold State.arrayChecks
  (repeat' split) <;> simp

@[simp] theorem State.setCore_shape (s : State) (k n : Nat) (c : Core) : (State.setCore s k n c).shape = s.shape := by
  simp [State.setCore]


/-! ## Array -/

@[simp] theorem State.rampWaitEnd_shape (s : State) (k n : Nat) : (State.rampWaitEnd s k n).shape = s.shape := by
  simp [State.rampWaitEnd]

@[simp] theorem State.withSpill_shape (s : State) (n : Nat) (short : Bool) :
    (State.withSpill s n short).shape = s.shape := by
  simp [State.withSpill]


/-! ## Vector -/

@[simp] theorem State.vecEnd_shape (s : State) (n op : Nat) :
    (State.vecEnd s n op).shape = s.shape := by
  simp [State.vecEnd]


/-! ## Browse -/

@[simp] theorem State.missReturn_shape (s : State) (k n miss : Nat) :
    (State.missReturn s k n miss).shape = s.shape := by
  simp only [State.missReturn]
  (repeat' split) <;> simp


/-! ## Channels -/

@[simp] theorem State.countHalo_shape (s : State) (k n ch off : Nat) :
    (State.countHalo s k n ch off).shape = s.shape := by
  simp [State.countHalo]

@[simp] theorem State.creditReturn_shape (s : State) (k ch : Nat) : (State.creditReturn s k ch).shape = s.shape := by
  simp only [State.creditReturn]
  (repeat' split) <;> simp

@[simp] theorem State.transferArrive_shape (s : State) (k ch : Nat) :
    (State.transferArrive s k ch).shape = s.shape := by
  simp only [State.transferArrive]
  (repeat' split) <;> simp


/-! ## Streams -/

@[simp] theorem State.startImport_shape (s : State) (k : Nat) (q : QCmd) :
    (State.startImport s k q).shape = s.shape := by
  simp [State.startImport]

@[simp] theorem State.dispatch_shape (s : State) (c : Cmd) : (State.dispatch s c).shape = s.shape := by
  unfold State.dispatch
  (repeat' split) <;> simp

@[simp] theorem State.paramGroupWrite_shape (s : State) (c : Cmd) : (State.paramGroupWrite s c).shape = s.shape := by
  unfold State.paramGroupWrite
  (repeat' split) <;> simp

@[simp] theorem State.retake_shape (s : State) (k : Nat) (c : Cmd) : (State.retake s k c).shape = s.shape := by
  simp only [State.retake]
  (repeat' split) <;> simp

@[simp] theorem State.replayOn_shape (s : State) (k : Nat) (recs : List JournalRec) :
    (State.replayOn s k recs).shape = s.shape := by
  induction recs generalizing s with
  | nil =>
    simp only [State.replayOn]
    split <;> simp
  | cons x l ih => cases x <;> simp [State.replayOn, ih]

@[simp] theorem State.reform_shape (s : State) (k : Nat) (ps : List (Cmd × Option Nat)) (rest : List JournalRec) :
    (State.reform s k ps rest).shape = s.shape := by
  simp only [State.reform]
  (repeat' split) <;> simp

@[simp] theorem State.stateIn_shape (s : State) (k n : Nat) : (State.stateIn s k n).shape = s.shape := by
  simp [State.stateIn]

@[simp] theorem State.tableWrite_shape (s : State) (k d len : Nat) (x : JournalRec) :
    (State.tableWrite s k d len x).shape = s.shape := by
  simp [State.tableWrite]

@[simp] theorem State.writeEntries_shape (s : State) (k : Nat) (old : JobRun) :
    (State.writeEntries s k old).shape = s.shape := by
  simp [State.writeEntries]

@[simp] theorem State.moveDone_shape (s : State) (n : Nat) :
    (State.moveDone s n).shape = s.shape := by
  unfold State.moveDone
  (repeat' split) <;> simp

@[simp] theorem State.tailCopies_shape (s : State) (k : Nat) (ps : List (Nat × Nat × Nat)) :
    (State.tailCopies s k ps).shape = s.shape := by
  simp [State.tailCopies]

@[simp] theorem State.tableTraffic_shape (s : State) (k : Nat) (xs : List (Nat × Nat)) :
    (State.tableTraffic s k xs).shape = s.shape := by
  simp [State.tableTraffic]

@[simp] theorem State.formBatch_shape (s : State) : (State.formBatch s).shape = s.shape := by
  simp only [State.formBatch]
  (repeat' split) <;> simp

@[simp] theorem State.flushFilled_shape (s : State) (k : Nat) (pages : List Nat) :
    (State.flushFilled s k pages).shape = s.shape := by
  simp [State.flushFilled]

@[simp] theorem State.dropFreed_shape (s : State) (k : Nat) (old : JobRun) :
    (State.dropFreed s k old).shape = s.shape := by
  simp [State.dropFreed]

@[simp] theorem State.output_shape (s : State) (k op : Nat) (w : Space × Nat × List Byte) :
    (State.output s k op w).shape = s.shape := by
  unfold State.output
  (repeat' split) <;> simp

@[simp] theorem State.outputs_shape (s : State) (k op : Nat) (ws : List (Space × Nat × List Byte)) :
    (State.outputs s k op ws).shape = s.shape := by
  induction ws generalizing s with
  | nil => simp [State.outputs]
  | cons x l ih => simp [State.outputs, ih]

@[simp] theorem State.completeDevice_shape (s : State) (k : Nat) (p : Publication) :
    (State.completeDevice s k p).shape = s.shape := by
  simp [State.completeDevice]

@[simp] theorem State.stampSwaps_shape (s : State) (k : Nat) (p : Publication) :
    (State.stampSwaps s k p).shape = s.shape := by
  simp [State.stampSwaps]

@[simp] theorem State.publish_shape (s : State) (k i : Nat) : (State.publish s k i).shape = s.shape := by
  simp only [State.publish]
  (repeat' split) <;> simp

@[simp] theorem State.finishCmd_shape (s : State) (k : Nat) (j : Job) (q : QCmd) (status count : Nat) (ws : List (Space × Nat × List Byte)) :
    (State.finishCmd s k j q status count ws).shape = s.shape := by
  simp [State.finishCmd]

@[simp] theorem State.copy_shape (s : State) (c : Cmd) (inward : Bool) : (State.copy s c inward).shape = s.shape := by
  simp only [State.copy]
  (repeat' split) <;> simp


/-! ## Codec -/

@[simp] theorem State.startCodec_shape (s : State) (k e : Nat) (q : QCmd) :
    (State.startCodec s k e q).shape = s.shape := by
  simp [State.startCodec]

@[simp] theorem State.codecCmd_shape (s : State) (c : Cmd) : (State.codecCmd s c).shape = s.shape := by
  simp only [State.codecCmd]
  (repeat' split) <;> simp

@[simp] theorem State.windowLoaded_shape (s : State) (e : Nat) : (State.windowLoaded s e).shape = s.shape := by
  simp only [State.windowLoaded]
  (repeat' split) <;> simp


/-! ## Jobs -/

@[simp] theorem State.startJob_shape (s : State) (k : Nat) (c : Cmd) (ms : Nat) :
    (State.startJob s k c ms).shape = s.shape := by
  simp [State.startJob]

@[simp] theorem State.restoreMirror_shape (s : State) (k : Nat) (c : Cmd) :
    (State.restoreMirror s k c).shape = s.shape := by
  simp [State.restoreMirror]

@[simp] theorem State.startOrResume_shape (s : State) (c : Cmd) : (State.startOrResume s c).shape = s.shape := by
  have h : ∀ k t, (match commitInterval c.desc.w32 with
      | none => (State.complete t k c 0x0203 0 0 0).hostCount c.port 0x50
      | some ms =>
        match (t.job k).info.state with
        | .loading => t.setInfo k { (t.job k).info with waiting := (t.job k).info.waiting ++ [c] }
        | .running => if bit c.desc.w24 16 && !(t.job k).info.buddy then t.restoreMirror k c else t.complete k c 0 0 0 0
        | _ => (t.startJob k c ms).checkYield).shape = t.shape := by
    intro k t
    (repeat' split) <;> simp
  unfold State.startOrResume
  split
  · rfl
  · split
    · simp
    · exact State.onJob_shape _ _ _ h

@[simp] theorem State.withdraw_shape (s : State) (k : Nat) : (State.withdraw s k).shape = s.shape := by
  simp [State.withdraw]

@[simp] theorem State.pauseRunning_shape (s : State) (k : Nat) (c : Cmd) :
    (State.pauseRunning s k c).shape = s.shape := by
  simp [State.pauseRunning]

@[simp] theorem State.joinPause_shape (s : State) (c : Cmd) : (State.joinPause s c).shape = s.shape := by
  unfold State.joinPause
  (repeat' split) <;> simp

@[simp] theorem State.pauseJob_shape (s : State) (k : Nat) (c : Cmd) : (State.pauseJob s k c).shape = s.shape := by
  simp only [State.pauseJob]
  (repeat' split) <;> simp

@[simp] theorem State.finishJob_shape (s : State) (k : Nat) (c : Cmd) : (State.finishJob s k c).shape = s.shape := by
  simp only [State.finishJob]
  (repeat' split) <;> simp

@[simp] theorem State.endOrWait_shape (s : State) (k : Nat) (c : Cmd) : (State.endOrWait s k c).shape = s.shape := by
  simp only [State.endOrWait]
  repeat' (first | split | rfl)
  all_goals simp

@[simp] theorem State.commitJob_shape (s : State) (k : Nat) (c : Cmd) :
    (State.commitJob s k c).shape = s.shape := by
  simp [State.commitJob]

@[simp] theorem State.adopt_shape (s : State) (k : Nat) (c : Cmd) : (State.adopt s k c).shape = s.shape := by
  simp only [State.adopt]
  (repeat' split) <;> simp

@[simp] theorem State.setToken_shape (s : State) (k : Nat) (c : Cmd) :
    (State.setToken s k c).shape = s.shape := by
  simp [State.setToken]

@[simp] theorem State.waitingPauses_shape (s : State) (k : Nat) (cs : List Cmd) :
    (State.waitingPauses s k cs).shape = s.shape := by
  induction cs generalizing s with
  | nil => simp [State.waitingPauses]
  | cons x l ih => simp [State.waitingPauses, ih]

@[simp] theorem State.markSecond_shape (s : State) (k : Nat) :
    (State.markSecond s k).shape = s.shape := by
  simp [State.markSecond]

@[simp] theorem State.pauseDone_shape (s : State) (k : Nat) (p : Pausing) :
    (State.pauseDone s k p).shape = s.shape := by
  simp [State.pauseDone]


/-! ## Resent packets -/

@[simp] theorem State.resend_shape (s : State) (u : Unacked) : (State.resend s u).shape = s.shape := by
  simp only [State.resend]
  (repeat' split) <;> simp

@[simp] theorem State.resendAll_shape (s : State) (us : List Unacked) : (State.resendAll s us).shape = s.shape := by
  induction us generalizing s with
  | nil => simp [State.resendAll]
  | cons x l ih => simp [State.resendAll, ih]

/-! ## Lose -/

@[simp] theorem State.startReplay_shape (s : State) (kind unit : Nat) :
    (State.startReplay s kind unit).shape = s.shape := by
  simp only [State.startReplay]
  (repeat' split) <;> simp

@[simp] theorem State.hostCluster_shape (s : State) (cl p : Nat) : (State.hostCluster s cl p).shape = s.shape := by
  simp [State.hostCluster]

@[simp] theorem State.bringRail_shape (s : State) (lost p : Nat) : (State.bringRail s lost p).shape = s.shape := by
  simp [State.bringRail]

@[simp] theorem State.install_shape (s : State) (r : Replace) : (State.install s r).shape = s.shape := by
  simp [State.install]

@[simp] theorem State.rehome_shape (s : State) (lost cl : Nat) : (State.rehome s lost cl).shape = s.shape := by
  unfold State.rehome
  (repeat' split) <;> simp

@[simp] theorem State.loseCluster_shape (s : State) (p : Nat) : (State.loseCluster s p).shape = s.shape := by
  simp [State.loseCluster]

@[simp] theorem State.hostCore_shape (s : State) (n : Nat) : (State.hostCore s n).shape = s.shape := by
  simp only [State.hostCore]
  (repeat' split) <;> simp

@[simp] theorem State.replaceCore_shape (s : State) (n : Nat) : (State.replaceCore s n).shape = s.shape := by
  simp [State.replaceCore]

@[simp] theorem State.moveStages_shape (s : State) (p i : Nat) (readable : Bool) :
    (State.moveStages s p i readable).shape = s.shape := by
  simp only [State.moveStages]
  (repeat' split) <;> simp

@[simp] theorem State.loseCore_shape (s : State) (p i : Nat) (readable : Bool) :
    (State.loseCore s p i readable).shape = s.shape := by
  simp [State.loseCore]

@[simp] theorem State.losePort_shape (s : State) (p port : Nat) : (State.losePort s p port).shape = s.shape := by
  simp [State.losePort]

@[simp] theorem State.loseBank_shape (s : State) (p i bank : Nat) : (State.loseBank s p i bank).shape = s.shape := by
  simp [State.loseBank]

@[simp] theorem State.loseRing_shape (s : State) (e : Nat) : (State.loseRing s e).shape = s.shape := by
  simp [State.loseRing]

@[simp] theorem State.loseCodec_shape (s : State) (e : Nat) : (State.loseCodec s e).shape = s.shape := by
  simp only [State.loseCodec]
  (repeat' split) <;> simp


/-! ## Firmware -/

@[simp] theorem State.setFw_shape (s : State) (n : Nat) (c : FwCore) : (State.setFw s n c).shape = s.shape := by
  simp [State.setFw]

@[simp] theorem State.endUpdate_shape (s : State) (result : Nat) : (State.endUpdate s result).shape = s.shape := by
  simp [State.endUpdate]

@[simp] theorem State.newScheduler_shape (s : State) :
    (State.newScheduler s).shape = s.shape := by
  simp [State.newScheduler]

@[simp] theorem State.takeOver_shape (s : State) (n role : Nat) : (State.takeOver s n role).shape = s.shape := by
  simp [State.takeOver]

@[simp] theorem State.restarted_shape (s : State) (n : Nat) : (State.restarted s n).shape = s.shape := by
  simp [State.restarted]

@[simp] theorem State.reloadPair_shape (s : State) (n : Nat) : (State.reloadPair s n).shape = s.shape := by
  simp [State.reloadPair]

@[simp] theorem State.fwFailed_shape (s : State) (n : Nat) : (State.fwFailed s n).shape = s.shape := by
  simp [State.fwFailed]

@[simp] theorem State.fwCrash_shape (s : State) (n : Nat) : (State.fwCrash s n).shape = s.shape := by
  simp [State.fwCrash]

@[simp] theorem State.fwTrap_shape (s : State) (n : Nat) (w : FwTrap) :
    (State.fwTrap s n w).shape = s.shape := by
  unfold State.fwTrap
  (repeat' split) <;> simp

@[simp] theorem State.fwRecovered_shape (s : State) (n : Nat) (ok : Bool) :
    (State.fwRecovered s n ok).shape = s.shape := by
  simp [State.fwRecovered]

@[simp] theorem State.swapRoles_shape (s : State) (a : Nat) : (State.swapRoles s a).shape = s.shape := by
  simp [State.swapRoles]

@[simp] theorem State.setSapwood_shape (s : State) (i : Option FwImage) : (State.setSapwood s i).shape = s.shape := by
  simp [State.setSapwood]

@[simp] theorem State.applySapwood_shape (s : State) (i : FwImage) : (State.applySapwood s i).shape = s.shape := by
  unfold State.applySapwood
  (repeat' split) <;> simp

@[simp] theorem State.applyHeartwood_shape (s : State) (i : FwImage) :
    (State.applyHeartwood s i).shape = s.shape := by
  simp [State.applyHeartwood]

@[simp] theorem State.askBlock_shape (s : State) (f : Fetch) : (State.askBlock s f).shape = s.shape := by
  simp [State.askBlock]

@[simp] theorem State.nextFetch_shape (s : State) (f : Fetch) : (State.nextFetch s f).shape = s.shape := by
  unfold State.nextFetch
  (repeat' split) <;> simp

@[simp] theorem State.beginFetch_shape (s : State) (p : FetchFor) : (State.beginFetch s p).shape = s.shape := by
  simp [State.beginFetch]

@[simp] theorem State.fetched_shape (s : State) (f : Fetch) : (State.fetched s f).shape = s.shape := by
  unfold State.fetched
  (repeat' split) <;> simp

@[simp] theorem State.goUpdate_shape (s : State) (kind : Nat) : (State.goUpdate s kind).shape = s.shape := by
  simp [State.goUpdate]


/-! ## Health -/

@[simp] theorem State.loseUnit_shape (s : State) (u : UnitRef) : (State.loseUnit s u).shape = s.shape := by
  unfold State.loseUnit
  (repeat' split) <;> simp

@[simp] theorem State.bankCorrected_shape (s : State) (p i bank : Nat) :
    (State.bankCorrected s p i bank).shape = s.shape := by
  simp [State.bankCorrected]

@[simp] theorem State.wordError_shape (s : State) (p port : Nat) : (State.wordError s p port).shape = s.shape := by
  simp [State.wordError]

@[simp] theorem State.verified_shape (s : State) (p i : Nat) (pass : Bool) :
    (State.verified s p i pass).shape = s.shape := by
  simp [State.verified]

@[simp] theorem State.switchHosted_shape (s : State) (p i : Nat) : (State.switchHosted s p i).shape = s.shape := by
  simp only [State.switchHosted]
  (repeat' split) <;> simp

@[simp] theorem State.replaced_shape (s : State) : (State.replaced s).shape = s.shape := by
  unfold State.replaced
  (repeat' split) <;> simp

@[simp] theorem State.loseAll_shape (s : State) (k : Nat) (us : List Nat) :
    (State.loseAll s k us).shape = s.shape := by
  induction us generalizing s with
  | nil => simp [State.loseAll]
  | cons x l ih => simp [State.loseAll, ih]

@[simp] theorem State.loseRows_shape (s : State) (stack : Nat) (halves : List Nat) (jobs : List Nat) :
    (State.loseRows s stack halves jobs).shape = s.shape := by
  induction jobs generalizing s with
  | nil => simp [State.loseRows]
  | cons x l ih => simp [State.loseRows, ih]

@[simp] theorem State.rebuildEvent_shape (s : State) (stack action : Nat) :
    (State.rebuildEvent s stack action).shape = s.shape := by
  simp [State.rebuildEvent]

@[simp] theorem State.beginRebuild_shape (s : State) (stack : Nat) :
    (State.beginRebuild s stack).shape = s.shape := by
  simp [State.beginRebuild]

@[simp] theorem State.hbmFails_shape (s : State) (stack : Nat) (pc : Option Nat) :
    (State.hbmFails s stack pc).shape = s.shape := by
  simp [State.hbmFails]

@[simp] theorem State.rebuilt_shape (s : State) : (State.rebuilt s).shape = s.shape := by
  simp only [State.rebuilt]
  (repeat' split) <;> simp

@[simp] theorem State.resumeRebuild_shape (s : State) : (State.resumeRebuild s).shape = s.shape := by
  simp [State.resumeRebuild]

@[simp] theorem State.scrubJob_shape (s : State) (j : Job) :
    (State.scrubJob s j).shape = s.shape := by
  simp [State.scrubJob]

@[simp] theorem State.readBar2_shape (s : State) (p : Port) (off len : Nat) :
    (State.readBar2 s p off len).shape = s.shape := by
  unfold State.readBar2
  (repeat' split) <;> simp

@[simp] theorem State.serveReads_shape (s : State) (p : Port) : (State.serveReads s p).shape = s.shape := by
  simp [State.serveReads]

@[simp] theorem State.madeGood_shape (s : State) (k u : Nat) : (State.madeGood s k u).shape = s.shape := by
  simp [State.madeGood]

@[simp] theorem State.dataRestored_shape (s : State) (unit : Nat) (means : RestoreMeans) :
    (State.dataRestored s unit means).shape = s.shape := by
  unfold State.dataRestored
  (repeat' split) <;> simp

@[simp] theorem State.woodpileTest_shape (s : State) (bad : List (Nat × Nat)) :
    (State.woodpileTest s bad).shape = s.shape := by
  simp [State.woodpileTest]

@[simp] theorem State.phaseFails_shape (s : State) (rail phase : Nat) :
    (State.phaseFails s rail phase).shape = s.shape := by
  simp [State.phaseFails]


/-! ## Fire -/

@[simp] theorem State.refuseLoad_shape (s : State) (i : JobInfo) (c : Cmd) (r : Refused) :
    (State.refuseLoad s i c r).shape = s.shape := by
  simp [State.refuseLoad]

@[simp] theorem State.settleOrphan_shape (s : State) (i : JobInfo) (c : Cmd) :
    (State.settleOrphan s i c).shape = s.shape := by
  simp [State.settleOrphan]

@[simp] theorem State.loadRefused_shape (s : State) (k : Nat) (c : Cmd) (r : Refused) :
    (State.loadRefused s k c r).shape = s.shape := by
  simp [State.loadRefused]

@[simp] theorem State.firingTraffic_shape (s : State) (k : Nat) (c : Cmd) (j : Job) (es : List ManifestE) :
    (State.firingTraffic s k c j es).shape = s.shape := by
  simp [State.firingTraffic]

@[simp] theorem State.actWaiting_shape (s : State) (k : Nat) (cs : List Cmd) :
    (State.actWaiting s k cs).shape = s.shape := by
  induction cs generalizing s with
  | nil => simp [State.actWaiting]
  | cons x l ih =>
    unfold State.actWaiting
    (repeat' split) <;> simp [ih]

@[simp] theorem State.fired_shape (s : State) (k : Nat) (c : Cmd) :
    (State.fired s k c).shape = s.shape := by
  simp [State.fired]

@[simp] theorem State.loadId_shape (s : State) (k req : Nat) : (State.loadId s k req).2.shape = s.shape := by
  unfold State.loadId
  (repeat' split) <;> simp

@[simp] theorem State.loadJob_shape (s : State) (c : Cmd) : (State.loadJob s c).shape = s.shape := by
  simp only [State.loadJob]
  (repeat' split) <;> simp

@[simp] theorem State.endFiring_shape (s : State) (k : Nat) : (State.endFiring s k).shape = s.shape := by
  simp only [State.endFiring]
  (repeat' split) <;> simp


/-! ## Herd -/

@[simp] theorem State.ackFlows_shape (s : State) (fs : List RxFlow) : (State.ackFlows s fs).shape = s.shape := by
  induction fs generalizing s with
  | nil => simp [State.ackFlows]
  | cons x l ih => simp [State.ackFlows, ih]

@[simp] theorem State.takePacket_shape (s : State) (p : Packet) :
    (State.takePacket s p).shape = s.shape := by
  simp only [State.takePacket, State.fresh, State.look]
  (repeat' split) <;> simp

@[simp] theorem State.received_shape (s : State) (p : Packet) : (State.received s p).shape = s.shape := by
  simp [State.received]

@[simp] theorem State.refusePacket_shape (s : State) (p : Packet) (reason : Nat) :
    (State.refusePacket s p reason).shape = s.shape := by
  simp [State.refusePacket]

@[simp] theorem State.messageBytes_shape (s : State) (k : Nat) (p : Packet) :
    (State.messageBytes s k p).shape = s.shape := by
  simp only [State.messageBytes]
  (repeat' split) <;> simp

@[simp] theorem State.writeFault_shape (s : State) (k a : Nat) : (State.writeFault s k a).shape = s.shape := by
  simp [State.writeFault]

@[simp] theorem State.landWrite_shape (s : State) (k : Nat) (p : Packet) :
    (State.landWrite s k p).shape = s.shape := by
  simp [State.landWrite]

@[simp] theorem State.giveRead_shape (s : State) (r : ReadReq) : (State.giveRead s r).shape = s.shape := by
  simp only [State.giveRead]
  (repeat' split) <;> simp

@[simp] theorem State.takeData_shape (s : State) (p : Packet) :
    (State.takeData s p).shape = s.shape := by
  unfold State.takeData
  (repeat' split) <;> simp

@[simp] theorem State.drainPins_shape (s : State) : (State.drainPins s).shape = s.shape := by
  simp [State.drainPins]

@[simp] theorem State.mirrorAcked_shape (s : State) (job : Nat) : (State.mirrorAcked s job).shape = s.shape := by
  unfold State.mirrorAcked
  (repeat' split) <;> simp

@[simp] theorem State.setEngine_shape (s : State) (e : Nat) (ts : List Transfer2) :
    (State.setEngine s e ts).shape = s.shape := by
  simp [State.setEngine]

@[simp] theorem State.rpassSend_shape (s : State) (e : Nat) : (State.rpassSend s e).shape = s.shape := by
  unfold State.rpassSend
  (repeat' split) <;> simp

@[simp] theorem State.rpassComplete_shape (s : State) (e : Nat) : (State.rpassComplete s e).shape = s.shape := by
  unfold State.rpassComplete
  (repeat' split) <;> simp

@[simp] theorem State.signalOut_shape (n : Nat) (f : FmtM) (k : Nat) (c : Core) (d : Done) (s : State) :
    (State.signalOut n f k c d s).shape = s.shape := by
  simp [State.signalOut]

@[simp] theorem State.rpassQueue_shape (n : Nat) (f : FmtM) (k : Nat) (c : Core) (d : Done) (s : State) :
    (State.rpassQueue n f k c d s).shape = s.shape := by
  simp [State.rpassQueue]

@[simp] theorem State.hello_shape (s : State) (n : Nat) (h : HelloMsg) :
    (State.hello s n h).shape = s.shape := by
  simp [State.hello]

@[simp] theorem State.beatLost_shape (s : State) :
    (State.beatLost s).shape = s.shape := by
  simp [State.beatLost]

@[simp] theorem State.join_shape (s : State) (j : JoinMsg) :
    (State.join s j).shape = s.shape := by
  unfold State.join
  dsimp only
  (repeat' split) <;> simp

@[simp] theorem State.readdress_shape (s : State) (a : Nat) :
    (State.readdress s a).shape = s.shape := by
  simp [State.readdress]

@[simp] theorem State.census_shape (s : State) (m : CensusMsg) :
    (State.census s m).shape = s.shape := by
  unfold State.census
  dsimp only
  (repeat' split) <;> simp

@[simp] theorem State.censusFor_shape (s : State) (m : CensusMsg) :
    (State.censusFor s m).shape = s.shape := by
  unfold State.censusFor
  (repeat' split) <;> simp


/-! ## Boot -/

@[simp] theorem State.testParts_shape (s : State) (i : StartIn) : (State.testParts s i).shape = s.shape := by
  simp [State.testParts]

@[simp] theorem State.testEvents_shape (s : State) (i : StartIn) : (State.testEvents s i).shape = s.shape := by
  simp [State.testEvents]

@[simp] theorem State.powerEvent_shape (s : State) (feed action mV : Nat) :
    (State.powerEvent s feed action mV).shape = s.shape := by
  simp [State.powerEvent]

@[simp] theorem State.mendFlash_shape (s : State) (i : StartIn) : (State.mendFlash s i).shape = s.shape := by
  simp [State.mendFlash]

@[simp] theorem State.tellFlash_shape (s : State) (copy : Nat) (bad other : Bool × Bool) :
    (State.tellFlash s copy bad other).shape = s.shape := by
  simp only [State.tellFlash]
  (repeat' split) <;> simp


/-! ## Ports -/

@[simp] theorem State.moveHead_shape (s : State) (p : Port) (set no : Nat) :
    (State.moveHead s p set no).shape = s.shape := by
  simp [State.moveHead]

@[simp] theorem State.badSeal_shape (s : State) (p : Port) (set : Nat) :
    (State.badSeal s p set).shape = s.shape := by
  simp [State.badSeal]

@[simp] theorem State.noteTaken_shape (s : State) (k : Nat) (c : Cmd) : (State.noteTaken s k c).shape = s.shape := by
  simp [State.noteTaken]

@[simp] theorem State.keepTaken_shape (s : State) (c : Cmd) :
    (State.keepTaken s c).shape = s.shape := by
  simp [State.keepTaken]

@[simp] theorem State.takeDesc_shape (s : State) (c : Cmd) : (State.takeDesc s c).shape = s.shape := by
  simp only [State.takeDesc]
  (repeat' split) <;> simp

@[simp] theorem State.intake_shape (s : State) (p : Port) (set : Nat) : (State.intake s p set).shape = s.shape := by
  simp only [State.intake]
  (repeat' split) <;> simp

@[simp] theorem State.enableRing_shape (s : State) (p : Port) (set : Nat) (v : W32) :
    (State.enableRing s p set v).shape = s.shape := by
  simp [State.enableRing]

@[simp] theorem State.badDoorbell_shape (s : State) (p : Port) (set : Nat) :
    (State.badDoorbell s p set).shape = s.shape := by
  simp [State.badDoorbell]

@[simp] theorem State.sqDoorbell_shape (s : State) (p : Port) (set : Nat) (v : W32) :
    (State.sqDoorbell s p set v).shape = s.shape := by
  simp [State.sqDoorbell]

@[simp] theorem State.cqDoorbell_shape (s : State) (p : Port) (set : Nat) (v : W32) :
    (State.cqDoorbell s p set v).shape = s.shape := by
  simp [State.cqDoorbell]

@[simp] theorem State.eqDoorbell_shape (s : State) (p : Port) (set : Nat) (v : W32) :
    (State.eqDoorbell s p set v).shape = s.shape := by
  simp [State.eqDoorbell]

@[simp] theorem State.absence_shape (s : State) (p : Port) (was : Bool) (reason : Nat) :
    (State.absence s p was reason).shape = s.shape := by
  simp [State.absence]

@[simp] theorem State.writeLease_shape (s : State) (p : Port) (v : W32) :
    (State.writeLease s p v).shape = s.shape := by
  simp [State.writeLease]

@[simp] theorem State.writeDriver_shape (s : State) (p : Port) (v : W32) :
    (State.writeDriver s p v).shape = s.shape := by
  simp [State.writeDriver]

@[simp] theorem State.writeBar2_shape (s : State) (p : Port) (off : Nat) (data : List Byte) :
    (State.writeBar2 s p off data).shape = s.shape := by
  unfold State.writeBar2
  (repeat' split) <;> simp

@[simp] theorem State.semAdd_shape (s : State) (p : Port) (n : Nat) (v : W32) :
    (State.semAdd s p n v).shape = s.shape := by
  unfold State.semAdd
  (repeat' split) <;> simp

@[simp] theorem State.endSession_shape (s : State) (p : Port) : (State.endSession s p).shape = s.shape := by
  simp [State.endSession]


/-! ## Security -/

@[simp] theorem State.answer_shape (s : State) (src : SessSrc) (code : Nat) (body : List Byte) :
    (State.answer s src code body).shape = s.shape := by
  unfold State.answer
  (repeat' split) <;> simp

@[simp] theorem State.refuseMsg_shape (s : State) (src : SessSrc) (reason : Nat) :
    (State.refuseMsg s src reason).shape = s.shape := by
  simp [State.refuseMsg]

@[simp] theorem State.onRequest_shape (s : State) (src : SessSrc) (x : Held) (f : State → State) (h : ∀ t, (f t).shape = t.shape) :
    (State.onRequest s src x f).shape = s.shape := by
  unfold State.onRequest
  (repeat' split) <;> first | rfl | simp [h]

@[simp] theorem State.setSession_shape (s : State) (src : SessSrc) (x : Session) :
    (State.setSession s src x).shape = s.shape := by
  unfold State.setSession
  (repeat' split) <;> simp

@[simp] theorem State.dropSession_shape (s : State) (src : SessSrc) : (State.dropSession s src).shape = s.shape := by
  unfold State.dropSession
  (repeat' split) <;> simp

@[simp] theorem State.countReport_shape (s : State) : (State.countReport s).shape = s.shape := by
  simp [State.countReport]

@[simp] theorem State.initSession_shape (s : State) (src : SessSrc) (ek : List Byte) (nonce : BitVec 256) (job : Nat) :
    (State.initSession s src ek nonce job).shape = s.shape := by
  simp [State.initSession]

@[simp] theorem State.newNumbers_shape (s : State) (src : SessSrc) :
    (State.newNumbers s src).shape = s.shape := by
  unfold State.newNumbers
  (repeat' split) <;> simp

@[simp] theorem State.finishSession_shape (s : State) (src : SessSrc) (confirm : BitVec 384) (key sig : List Byte) :
    (State.finishSession s src confirm key sig).shape = s.shape := by
  simp only [State.finishSession]
  (repeat' split) <;> simp


/-! ## Links -/

@[simp] theorem State.retrained_shape (s : State) (n : Nat) (old : Link) (w : Nat) (spare : Option Nat) (lost : Nat) :
    (State.retrained s n old w spare lost).shape = s.shape := by
  simp [State.retrained]

@[simp] theorem State.bringUp_shape (s : State) (n : Nat) (i : BringUp) : (State.bringUp s n i).shape = s.shape := by
  simp only [State.bringUp]
  (repeat' split) <;> simp

@[simp] theorem State.passOn_shape (s : State) (p : Packet) : (State.passOn s p).shape = s.shape := by
  unfold State.passOn
  (repeat' split) <;> simp

@[simp] theorem State.shed_shape (s : State) (n : Nat) :
    (State.shed s n).shape = s.shape := by
  simp [State.shed]

@[simp] theorem State.linkLost_shape (s : State) (n : Nat) :
    (State.linkLost s n).shape = s.shape := by
  simp [State.linkLost]

@[simp] theorem State.laneFails_shape (s : State) (n lane : Nat) : (State.laneFails s n lane).shape = s.shape := by
  simp only [State.laneFails]
  (repeat' split) <;> simp

@[simp] theorem State.retrain_shape (s : State) (n : Nat) : (State.retrain s n).shape = s.shape := by
  simp [State.retrain]

@[simp] theorem State.arrive_shape (s : State) (n : Nat) (p : Packet) (authOk : Bool) (flits : Nat) :
    (State.arrive s n p authOk flits).shape = s.shape := by
  simp [State.arrive]

@[simp] theorem State.arriveAll_shape (s : State) (n chan : Nat) (rs : List (List Byte)) :
    (State.arriveAll s n chan rs).shape = s.shape := by
  induction rs generalizing s with
  | nil => simp [State.arriveAll]
  | cons x l ih => simp [State.arriveAll, ih]

@[simp] theorem State.spare_shape (s : State) (n chan : Nat) :
    (State.spare s n chan).shape = s.shape := by
  simp [State.spare]

@[simp] theorem State.dataFlit_shape (s : State) (n : Nat) (f : Flit) : (State.dataFlit s n f).shape = s.shape := by
  simp [State.dataFlit]

@[simp] theorem State.controlFlit_shape (s : State) (n : Nat) (f : Flit) :
    (State.controlFlit s n f).shape = s.shape := by
  simp [State.controlFlit]

@[simp] theorem State.flit_shape (s : State) (n : Nat) (f : Flit) :
    (State.flit s n f).shape = s.shape := by
  simp [State.flit]

@[simp] theorem State.nak_shape (s : State) (n q : Nat) : (State.nak s n q).shape = s.shape := by
  simp [State.nak]

@[simp] theorem State.rekey_shape (s : State) (n : Nat) (x : LinkAuth) :
    (State.rekey s n x).shape = s.shape := by
  simp only [State.rekey, State.fresh, State.look]
  (repeat' split) <;> simp

@[simp] theorem State.adminDown_shape (s : State) (n : Nat) : (State.adminDown s n).shape = s.shape := by
  simp [State.adminDown]

@[simp] theorem State.adminUp_shape (s : State) (n : Nat) : (State.adminUp s n).shape = s.shape := by
  simp [State.adminUp]


/-! ## Pgt -/

@[simp] theorem State.pgtDropped_shape (s : State) (k : Nat) : (State.pgtDropped s k).shape = s.shape := by
  simp [State.pgtDropped]

@[simp] theorem State.pgtStage_shape (s : State) (p : Port) (off : Nat) (v : W32) :
    (State.pgtStage s p off v).shape = s.shape := by
  unfold State.pgtStage
  (repeat' split) <;> simp

@[simp] theorem State.pgtPublish_shape (s : State) (p : Port) (v : W32) :
    (State.pgtPublish s p v).shape = s.shape := by
  unfold State.pgtPublish
  (repeat' split) <;> simp

@[simp] theorem State.pgtIgnored_shape (s : State) (p : Port) : (State.pgtIgnored s p).shape = s.shape := by
  unfold State.pgtIgnored
  split <;> simp


/-! ## Power -/

@[simp] theorem State.throttleEvent_shape (s : State) (cause phase ticks : Nat) :
    (State.throttleEvent s cause phase ticks).shape = s.shape := by
  simp [State.throttleEvent]

@[simp] theorem State.tellThrottle_shape (s : State) : (State.tellThrottle s).shape = s.shape := by
  simp [State.tellThrottle]

@[simp] theorem State.feedFails_shape (s : State) (f : Port) (mV : Nat) :
    (State.feedFails s f mV).shape = s.shape := by
  simp [State.feedFails]

@[simp] theorem State.feedBack_shape (s : State) (f : Port) (mV : Nat) : (State.feedBack s f mV).shape = s.shape := by
  simp [State.feedBack]

@[simp] theorem State.pace_shape (s : State) (stack quarterC : Nat) :
    (State.pace s stack quarterC).shape = s.shape := by
  simp [State.pace]

@[simp] theorem State.inputPower_shape (s : State) : (State.inputPower s).2.shape = s.shape := by
  simp only [State.inputPower]
  (repeat' split) <;> simp

@[simp] theorem State.coolantTemps_shape (s : State) : (State.coolantTemps s).2.shape = s.shape := by
  simp [State.coolantTemps]

@[simp] theorem State.shownInput_shape (s : State) : (State.shownInput s).2.shape = s.shape := by
  simp [State.shownInput]

@[simp] theorem State.shownCoolant_shape (s : State) : (State.shownCoolant s).2.shape = s.shape := by
  simp [State.shownCoolant]

@[simp] theorem State.smbus_shape (s : State) (bs : Option (List Byte)) : (State.smbus s bs).shape = s.shape := by
  simp [State.smbus]


/-! ## Regs -/

@[simp] theorem State.writeRing_shape (s : State) (p : Port) (set o : Nat) (v : W64) :
    (State.writeRing s p set o v).shape = s.shape := by
  unfold State.writeRing
  (repeat' split) <;> simp

@[simp] theorem State.writeDoorbell_shape (s : State) (p : Port) (set o : Nat) (w : W32) :
    (State.writeDoorbell s p set o w).shape = s.shape := by
  simp [State.writeDoorbell]

@[simp] theorem State.writeMsix_shape (s : State) (p : Port) (o : Nat) (w : W32) :
    (State.writeMsix s p o w).shape = s.shape := by
  simp [State.writeMsix]

@[simp] theorem State.emuSend_shape (s : State) (p : Port) (op o : Nat) (payload : List Byte) :
    (State.emuSend s p op o payload).shape = s.shape := by
  simp [State.emuSend]

@[simp] theorem State.writeEmu_shape (s : State) (p : Port) (o : Nat) (w : W32) :
    (State.writeEmu s p o w).shape = s.shape := by
  unfold State.writeEmu
  (repeat' split) <;> simp

@[simp] theorem State.writeUpdate_shape (s : State) (w : W32) : (State.writeUpdate s w).shape = s.shape := by
  simp [State.writeUpdate]

@[simp] theorem State.writeRingMem_shape (s : State) (p : Port) (off : Nat) (bs : List Byte) :
    (State.writeRingMem s p off bs).shape = s.shape := by
  simp [State.writeRingMem]

@[simp] theorem State.corrections_shape (s : State) (n : Nat) : (State.corrections s n).shape = s.shape := by
  simp [State.corrections]

@[simp] theorem State.afterRead_shape (s : State) (p : Port) : (State.afterRead s p).shape = s.shape := by
  simp [State.afterRead]

@[simp] theorem State.remember_shape (s : State) (src seq : Nat) (a : List Byte) :
    (State.remember s src seq a).shape = s.shape := by
  simp [State.remember]


/-! ## Sems -/


/-! ## Tiers -/

@[simp] theorem State.onRunning_shape (s : State) (f : Image → Acc → Acc) :
    (State.onRunning s f).shape = s.shape := by
  unfold State.onRunning
  (repeat' split) <;> simp

@[simp] theorem State.prefetch_shape (s : State) (k n : Nat) : (State.prefetch s k n).shape = s.shape := by
  simp only [State.prefetch]
  (repeat' split) <;> simp

@[simp] theorem State.hbmFixes_shape (s : State) : s.hbmFixes.shape = s.shape := by
  simp [State.hbmFixes]

@[simp] theorem State.dataReturn_shape (s : State) (k n : Nat) (tagBad rebuilt : Bool) :
    (State.dataReturn s k n tagBad rebuilt).shape = s.shape := by
  simp only [State.dataReturn]
  (repeat' split) <;> simp

end Sys2Proof.Machine
end

