-- ==== Sys2Proof/Laws/State.lean ====
section
/-! SUPPORT. The fields of the state under each elementary update, so that no proof unfolds a record update. -/

namespace Sys2Proof.Machine

/-! ## setJob -/

@[simp] theorem State.setJob_pending (s : State) (k : Nat) (j : Job) : (s.setJob k j).pending = s.pending := rfl
@[simp] theorem State.setJob_freeCtr (s : State) (k : Nat) (j : Job) : (s.setJob k j).freeCtr = s.freeCtr := rfl
@[simp] theorem State.setJob_islands (s : State) (k : Nat) (j : Job) : (s.setJob k j).islands = s.islands := rfl
@[simp] theorem State.setJob_sched (s : State) (k : Nat) (j : Job) : (s.setJob k j).sched = s.sched := rfl
@[simp] theorem State.setJob_portA (s : State) (k : Nat) (j : Job) : (s.setJob k j).portA = s.portA := rfl
@[simp] theorem State.setJob_portB (s : State) (k : Nat) (j : Job) : (s.setJob k j).portB = s.portB := rfl
@[simp] theorem State.setJob_tiers (s : State) (k : Nat) (j : Job) : (s.setJob k j).tiers = s.tiers := rfl
@[simp] theorem State.setJob_links (s : State) (k : Nat) (j : Job) : (s.setJob k j).links = s.links := rfl
@[simp] theorem State.setJob_herd (s : State) (k : Nat) (j : Job) : (s.setJob k j).herd = s.herd := rfl
@[simp] theorem State.setJob_codecs (s : State) (k : Nat) (j : Job) : (s.setJob k j).codecs = s.codecs := rfl
@[simp] theorem State.setJob_fw (s : State) (k : Nat) (j : Job) : (s.setJob k j).fw = s.fw := rfl
@[simp] theorem State.setJob_fuses (s : State) (k : Nat) (j : Job) : (s.setJob k j).fuses = s.fuses := rfl
@[simp] theorem State.setJob_sec (s : State) (k : Nat) (j : Job) : (s.setJob k j).sec = s.sec := rfl
@[simp] theorem State.setJob_cfg (s : State) (k : Nat) (j : Job) : (s.setJob k j).cfg = s.cfg := rfl
@[simp] theorem State.setJob_flash (s : State) (k : Nat) (j : Job) : (s.setJob k j).flash = s.flash := rfl
@[simp] theorem State.setJob_health (s : State) (k : Nat) (j : Job) : (s.setJob k j).health = s.health := rfl
@[simp] theorem State.setJob_power (s : State) (k : Nat) (j : Job) : (s.setJob k j).power = s.power := rfl
@[simp] theorem State.setJob_board (s : State) (k : Nat) (j : Job) : (s.setJob k j).board = s.board := rfl

/-! ## setInfo -/

@[simp] theorem State.setInfo_pending (s : State) (k : Nat) (i : JobInfo) : (s.setInfo k i).pending = s.pending := rfl
@[simp] theorem State.setInfo_freeCtr (s : State) (k : Nat) (i : JobInfo) : (s.setInfo k i).freeCtr = s.freeCtr := rfl
@[simp] theorem State.setInfo_islands (s : State) (k : Nat) (i : JobInfo) : (s.setInfo k i).islands = s.islands := rfl
@[simp] theorem State.setInfo_sched (s : State) (k : Nat) (i : JobInfo) : (s.setInfo k i).sched = s.sched := rfl
@[simp] theorem State.setInfo_portA (s : State) (k : Nat) (i : JobInfo) : (s.setInfo k i).portA = s.portA := rfl
@[simp] theorem State.setInfo_portB (s : State) (k : Nat) (i : JobInfo) : (s.setInfo k i).portB = s.portB := rfl
@[simp] theorem State.setInfo_tiers (s : State) (k : Nat) (i : JobInfo) : (s.setInfo k i).tiers = s.tiers := rfl
@[simp] theorem State.setInfo_links (s : State) (k : Nat) (i : JobInfo) : (s.setInfo k i).links = s.links := rfl
@[simp] theorem State.setInfo_herd (s : State) (k : Nat) (i : JobInfo) : (s.setInfo k i).herd = s.herd := rfl
@[simp] theorem State.setInfo_codecs (s : State) (k : Nat) (i : JobInfo) : (s.setInfo k i).codecs = s.codecs := rfl
@[simp] theorem State.setInfo_fw (s : State) (k : Nat) (i : JobInfo) : (s.setInfo k i).fw = s.fw := rfl
@[simp] theorem State.setInfo_fuses (s : State) (k : Nat) (i : JobInfo) : (s.setInfo k i).fuses = s.fuses := rfl
@[simp] theorem State.setInfo_sec (s : State) (k : Nat) (i : JobInfo) : (s.setInfo k i).sec = s.sec := rfl
@[simp] theorem State.setInfo_cfg (s : State) (k : Nat) (i : JobInfo) : (s.setInfo k i).cfg = s.cfg := rfl
@[simp] theorem State.setInfo_flash (s : State) (k : Nat) (i : JobInfo) : (s.setInfo k i).flash = s.flash := rfl
@[simp] theorem State.setInfo_health (s : State) (k : Nat) (i : JobInfo) : (s.setInfo k i).health = s.health := rfl
@[simp] theorem State.setInfo_power (s : State) (k : Nat) (i : JobInfo) : (s.setInfo k i).power = s.power := rfl
@[simp] theorem State.setInfo_board (s : State) (k : Nat) (i : JobInfo) : (s.setInfo k i).board = s.board := rfl

/-! ## setCore -/

@[simp] theorem State.setCore_pending (s : State) (k n : Nat) (c : Core) : (s.setCore k n c).pending = s.pending := rfl
@[simp] theorem State.setCore_freeCtr (s : State) (k n : Nat) (c : Core) : (s.setCore k n c).freeCtr = s.freeCtr := rfl
@[simp] theorem State.setCore_islands (s : State) (k n : Nat) (c : Core) : (s.setCore k n c).islands = s.islands := rfl
@[simp] theorem State.setCore_sched (s : State) (k n : Nat) (c : Core) : (s.setCore k n c).sched = s.sched := rfl
@[simp] theorem State.setCore_portA (s : State) (k n : Nat) (c : Core) : (s.setCore k n c).portA = s.portA := rfl
@[simp] theorem State.setCore_portB (s : State) (k n : Nat) (c : Core) : (s.setCore k n c).portB = s.portB := rfl
@[simp] theorem State.setCore_tiers (s : State) (k n : Nat) (c : Core) : (s.setCore k n c).tiers = s.tiers := rfl
@[simp] theorem State.setCore_links (s : State) (k n : Nat) (c : Core) : (s.setCore k n c).links = s.links := rfl
@[simp] theorem State.setCore_herd (s : State) (k n : Nat) (c : Core) : (s.setCore k n c).herd = s.herd := rfl
@[simp] theorem State.setCore_codecs (s : State) (k n : Nat) (c : Core) : (s.setCore k n c).codecs = s.codecs := rfl
@[simp] theorem State.setCore_fw (s : State) (k n : Nat) (c : Core) : (s.setCore k n c).fw = s.fw := rfl
@[simp] theorem State.setCore_fuses (s : State) (k n : Nat) (c : Core) : (s.setCore k n c).fuses = s.fuses := rfl
@[simp] theorem State.setCore_sec (s : State) (k n : Nat) (c : Core) : (s.setCore k n c).sec = s.sec := rfl
@[simp] theorem State.setCore_cfg (s : State) (k n : Nat) (c : Core) : (s.setCore k n c).cfg = s.cfg := rfl
@[simp] theorem State.setCore_flash (s : State) (k n : Nat) (c : Core) : (s.setCore k n c).flash = s.flash := rfl
@[simp] theorem State.setCore_health (s : State) (k n : Nat) (c : Core) : (s.setCore k n c).health = s.health := rfl
@[simp] theorem State.setCore_power (s : State) (k n : Nat) (c : Core) : (s.setCore k n c).power = s.power := rfl
@[simp] theorem State.setCore_board (s : State) (k n : Nat) (c : Core) : (s.setCore k n c).board = s.board := rfl

/-! ## setLink -/

@[simp] theorem State.setLink_pending (s : State) (n : Nat) (l : Link) : (s.setLink n l).pending = s.pending := rfl
@[simp] theorem State.setLink_freeCtr (s : State) (n : Nat) (l : Link) : (s.setLink n l).freeCtr = s.freeCtr := rfl
@[simp] theorem State.setLink_islands (s : State) (n : Nat) (l : Link) : (s.setLink n l).islands = s.islands := rfl
@[simp] theorem State.setLink_jobs (s : State) (n : Nat) (l : Link) : (s.setLink n l).jobs = s.jobs := rfl
@[simp] theorem State.setLink_sched (s : State) (n : Nat) (l : Link) : (s.setLink n l).sched = s.sched := rfl
@[simp] theorem State.setLink_portA (s : State) (n : Nat) (l : Link) : (s.setLink n l).portA = s.portA := rfl
@[simp] theorem State.setLink_portB (s : State) (n : Nat) (l : Link) : (s.setLink n l).portB = s.portB := rfl
@[simp] theorem State.setLink_tiers (s : State) (n : Nat) (l : Link) : (s.setLink n l).tiers = s.tiers := rfl
@[simp] theorem State.setLink_herd (s : State) (n : Nat) (l : Link) : (s.setLink n l).herd = s.herd := rfl
@[simp] theorem State.setLink_codecs (s : State) (n : Nat) (l : Link) : (s.setLink n l).codecs = s.codecs := rfl
@[simp] theorem State.setLink_fw (s : State) (n : Nat) (l : Link) : (s.setLink n l).fw = s.fw := rfl
@[simp] theorem State.setLink_fuses (s : State) (n : Nat) (l : Link) : (s.setLink n l).fuses = s.fuses := rfl
@[simp] theorem State.setLink_sec (s : State) (n : Nat) (l : Link) : (s.setLink n l).sec = s.sec := rfl
@[simp] theorem State.setLink_cfg (s : State) (n : Nat) (l : Link) : (s.setLink n l).cfg = s.cfg := rfl
@[simp] theorem State.setLink_flash (s : State) (n : Nat) (l : Link) : (s.setLink n l).flash = s.flash := rfl
@[simp] theorem State.setLink_health (s : State) (n : Nat) (l : Link) : (s.setLink n l).health = s.health := rfl
@[simp] theorem State.setLink_power (s : State) (n : Nat) (l : Link) : (s.setLink n l).power = s.power := rfl
@[simp] theorem State.setLink_board (s : State) (n : Nat) (l : Link) : (s.setLink n l).board = s.board := rfl

/-! ## setEngine -/

@[simp] theorem State.setEngine_pending (s : State) (e : Nat) (ts : List Transfer2) : (s.setEngine e ts).pending = s.pending := rfl
@[simp] theorem State.setEngine_freeCtr (s : State) (e : Nat) (ts : List Transfer2) : (s.setEngine e ts).freeCtr = s.freeCtr := rfl
@[simp] theorem State.setEngine_islands (s : State) (e : Nat) (ts : List Transfer2) : (s.setEngine e ts).islands = s.islands := rfl
@[simp] theorem State.setEngine_jobs (s : State) (e : Nat) (ts : List Transfer2) : (s.setEngine e ts).jobs = s.jobs := rfl
@[simp] theorem State.setEngine_sched (s : State) (e : Nat) (ts : List Transfer2) : (s.setEngine e ts).sched = s.sched := rfl
@[simp] theorem State.setEngine_portA (s : State) (e : Nat) (ts : List Transfer2) : (s.setEngine e ts).portA = s.portA := rfl
@[simp] theorem State.setEngine_portB (s : State) (e : Nat) (ts : List Transfer2) : (s.setEngine e ts).portB = s.portB := rfl
@[simp] theorem State.setEngine_tiers (s : State) (e : Nat) (ts : List Transfer2) : (s.setEngine e ts).tiers = s.tiers := rfl
@[simp] theorem State.setEngine_links (s : State) (e : Nat) (ts : List Transfer2) : (s.setEngine e ts).links = s.links := rfl
@[simp] theorem State.setEngine_codecs (s : State) (e : Nat) (ts : List Transfer2) : (s.setEngine e ts).codecs = s.codecs := rfl
@[simp] theorem State.setEngine_fw (s : State) (e : Nat) (ts : List Transfer2) : (s.setEngine e ts).fw = s.fw := rfl
@[simp] theorem State.setEngine_fuses (s : State) (e : Nat) (ts : List Transfer2) : (s.setEngine e ts).fuses = s.fuses := rfl
@[simp] theorem State.setEngine_sec (s : State) (e : Nat) (ts : List Transfer2) : (s.setEngine e ts).sec = s.sec := rfl
@[simp] theorem State.setEngine_cfg (s : State) (e : Nat) (ts : List Transfer2) : (s.setEngine e ts).cfg = s.cfg := rfl
@[simp] theorem State.setEngine_flash (s : State) (e : Nat) (ts : List Transfer2) : (s.setEngine e ts).flash = s.flash := rfl
@[simp] theorem State.setEngine_health (s : State) (e : Nat) (ts : List Transfer2) : (s.setEngine e ts).health = s.health := rfl
@[simp] theorem State.setEngine_power (s : State) (e : Nat) (ts : List Transfer2) : (s.setEngine e ts).power = s.power := rfl
@[simp] theorem State.setEngine_board (s : State) (e : Nat) (ts : List Transfer2) : (s.setEngine e ts).board = s.board := rfl

/-! ## setPort -/

@[simp] theorem State.setPort_pending (s : State) (p : Port) (h : HostPort) : (s.setPort p h).pending = s.pending := by cases p <;> rfl
@[simp] theorem State.setPort_freeCtr (s : State) (p : Port) (h : HostPort) : (s.setPort p h).freeCtr = s.freeCtr := by cases p <;> rfl
@[simp] theorem State.setPort_islands (s : State) (p : Port) (h : HostPort) : (s.setPort p h).islands = s.islands := by cases p <;> rfl
@[simp] theorem State.setPort_jobs (s : State) (p : Port) (h : HostPort) : (s.setPort p h).jobs = s.jobs := by cases p <;> rfl
@[simp] theorem State.setPort_sched (s : State) (p : Port) (h : HostPort) : (s.setPort p h).sched = s.sched := by cases p <;> rfl
@[simp] theorem State.setPort_tiers (s : State) (p : Port) (h : HostPort) : (s.setPort p h).tiers = s.tiers := by cases p <;> rfl
@[simp] theorem State.setPort_links (s : State) (p : Port) (h : HostPort) : (s.setPort p h).links = s.links := by cases p <;> rfl
@[simp] theorem State.setPort_herd (s : State) (p : Port) (h : HostPort) : (s.setPort p h).herd = s.herd := by cases p <;> rfl
@[simp] theorem State.setPort_codecs (s : State) (p : Port) (h : HostPort) : (s.setPort p h).codecs = s.codecs := by cases p <;> rfl
@[simp] theorem State.setPort_fw (s : State) (p : Port) (h : HostPort) : (s.setPort p h).fw = s.fw := by cases p <;> rfl
@[simp] theorem State.setPort_fuses (s : State) (p : Port) (h : HostPort) : (s.setPort p h).fuses = s.fuses := by cases p <;> rfl
@[simp] theorem State.setPort_sec (s : State) (p : Port) (h : HostPort) : (s.setPort p h).sec = s.sec := by cases p <;> rfl
@[simp] theorem State.setPort_cfg (s : State) (p : Port) (h : HostPort) : (s.setPort p h).cfg = s.cfg := by cases p <;> rfl
@[simp] theorem State.setPort_flash (s : State) (p : Port) (h : HostPort) : (s.setPort p h).flash = s.flash := by cases p <;> rfl
@[simp] theorem State.setPort_health (s : State) (p : Port) (h : HostPort) : (s.setPort p h).health = s.health := by cases p <;> rfl
@[simp] theorem State.setPort_power (s : State) (p : Port) (h : HostPort) : (s.setPort p h).power = s.power := by cases p <;> rfl
@[simp] theorem State.setPort_board (s : State) (p : Port) (h : HostPort) : (s.setPort p h).board = s.board := by cases p <;> rfl

/-! ## setRing -/

@[simp] theorem State.setRing_pending (s : State) (p : Port) (n : Nat) (r : RingSet) : (s.setRing p n r).pending = s.pending := by cases p <;> rfl
@[simp] theorem State.setRing_freeCtr (s : State) (p : Port) (n : Nat) (r : RingSet) : (s.setRing p n r).freeCtr = s.freeCtr := by cases p <;> rfl
@[simp] theorem State.setRing_islands (s : State) (p : Port) (n : Nat) (r : RingSet) : (s.setRing p n r).islands = s.islands := by cases p <;> rfl
@[simp] theorem State.setRing_jobs (s : State) (p : Port) (n : Nat) (r : RingSet) : (s.setRing p n r).jobs = s.jobs := by cases p <;> rfl
@[simp] theorem State.setRing_sched (s : State) (p : Port) (n : Nat) (r : RingSet) : (s.setRing p n r).sched = s.sched := by cases p <;> rfl
@[simp] theorem State.setRing_tiers (s : State) (p : Port) (n : Nat) (r : RingSet) : (s.setRing p n r).tiers = s.tiers := by cases p <;> rfl
@[simp] theorem State.setRing_links (s : State) (p : Port) (n : Nat) (r : RingSet) : (s.setRing p n r).links = s.links := by cases p <;> rfl
@[simp] theorem State.setRing_herd (s : State) (p : Port) (n : Nat) (r : RingSet) : (s.setRing p n r).herd = s.herd := by cases p <;> rfl
@[simp] theorem State.setRing_codecs (s : State) (p : Port) (n : Nat) (r : RingSet) : (s.setRing p n r).codecs = s.codecs := by cases p <;> rfl
@[simp] theorem State.setRing_fw (s : State) (p : Port) (n : Nat) (r : RingSet) : (s.setRing p n r).fw = s.fw := by cases p <;> rfl
@[simp] theorem State.setRing_fuses (s : State) (p : Port) (n : Nat) (r : RingSet) : (s.setRing p n r).fuses = s.fuses := by cases p <;> rfl
@[simp] theorem State.setRing_sec (s : State) (p : Port) (n : Nat) (r : RingSet) : (s.setRing p n r).sec = s.sec := by cases p <;> rfl
@[simp] theorem State.setRing_cfg (s : State) (p : Port) (n : Nat) (r : RingSet) : (s.setRing p n r).cfg = s.cfg := by cases p <;> rfl
@[simp] theorem State.setRing_flash (s : State) (p : Port) (n : Nat) (r : RingSet) : (s.setRing p n r).flash = s.flash := by cases p <;> rfl
@[simp] theorem State.setRing_health (s : State) (p : Port) (n : Nat) (r : RingSet) : (s.setRing p n r).health = s.health := by cases p <;> rfl
@[simp] theorem State.setRing_power (s : State) (p : Port) (n : Nat) (r : RingSet) : (s.setRing p n r).power = s.power := by cases p <;> rfl
@[simp] theorem State.setRing_board (s : State) (p : Port) (n : Nat) (r : RingSet) : (s.setRing p n r).board = s.board := by cases p <;> rfl

/-! ## hostCount -/

@[simp] theorem State.hostCount_pending (s : State) (p : Port) (o : Nat) : (s.hostCount p o).pending = s.pending := by cases p <;> rfl
@[simp] theorem State.hostCount_freeCtr (s : State) (p : Port) (o : Nat) : (s.hostCount p o).freeCtr = s.freeCtr := by cases p <;> rfl
@[simp] theorem State.hostCount_islands (s : State) (p : Port) (o : Nat) : (s.hostCount p o).islands = s.islands := by cases p <;> rfl
@[simp] theorem State.hostCount_jobs (s : State) (p : Port) (o : Nat) : (s.hostCount p o).jobs = s.jobs := by cases p <;> rfl
@[simp] theorem State.hostCount_sched (s : State) (p : Port) (o : Nat) : (s.hostCount p o).sched = s.sched := by cases p <;> rfl
@[simp] theorem State.hostCount_tiers (s : State) (p : Port) (o : Nat) : (s.hostCount p o).tiers = s.tiers := by cases p <;> rfl
@[simp] theorem State.hostCount_links (s : State) (p : Port) (o : Nat) : (s.hostCount p o).links = s.links := by cases p <;> rfl
@[simp] theorem State.hostCount_herd (s : State) (p : Port) (o : Nat) : (s.hostCount p o).herd = s.herd := by cases p <;> rfl
@[simp] theorem State.hostCount_codecs (s : State) (p : Port) (o : Nat) : (s.hostCount p o).codecs = s.codecs := by cases p <;> rfl
@[simp] theorem State.hostCount_fw (s : State) (p : Port) (o : Nat) : (s.hostCount p o).fw = s.fw := by cases p <;> rfl
@[simp] theorem State.hostCount_fuses (s : State) (p : Port) (o : Nat) : (s.hostCount p o).fuses = s.fuses := by cases p <;> rfl
@[simp] theorem State.hostCount_sec (s : State) (p : Port) (o : Nat) : (s.hostCount p o).sec = s.sec := by cases p <;> rfl
@[simp] theorem State.hostCount_cfg (s : State) (p : Port) (o : Nat) : (s.hostCount p o).cfg = s.cfg := by cases p <;> rfl
@[simp] theorem State.hostCount_flash (s : State) (p : Port) (o : Nat) : (s.hostCount p o).flash = s.flash := by cases p <;> rfl
@[simp] theorem State.hostCount_health (s : State) (p : Port) (o : Nat) : (s.hostCount p o).health = s.health := by cases p <;> rfl
@[simp] theorem State.hostCount_power (s : State) (p : Port) (o : Nat) : (s.hostCount p o).power = s.power := by cases p <;> rfl
@[simp] theorem State.hostCount_board (s : State) (p : Port) (o : Nat) : (s.hostCount p o).board = s.board := by cases p <;> rfl

/-! ## statusChange -/

@[simp] theorem State.statusChange_pending (s : State) (p : Port) : (s.statusChange p).pending = s.pending := by cases p <;> rfl
@[simp] theorem State.statusChange_freeCtr (s : State) (p : Port) : (s.statusChange p).freeCtr = s.freeCtr := by cases p <;> rfl
@[simp] theorem State.statusChange_islands (s : State) (p : Port) : (s.statusChange p).islands = s.islands := by cases p <;> rfl
@[simp] theorem State.statusChange_jobs (s : State) (p : Port) : (s.statusChange p).jobs = s.jobs := by cases p <;> rfl
@[simp] theorem State.statusChange_sched (s : State) (p : Port) : (s.statusChange p).sched = s.sched := by cases p <;> rfl
@[simp] theorem State.statusChange_tiers (s : State) (p : Port) : (s.statusChange p).tiers = s.tiers := by cases p <;> rfl
@[simp] theorem State.statusChange_links (s : State) (p : Port) : (s.statusChange p).links = s.links := by cases p <;> rfl
@[simp] theorem State.statusChange_herd (s : State) (p : Port) : (s.statusChange p).herd = s.herd := by cases p <;> rfl
@[simp] theorem State.statusChange_codecs (s : State) (p : Port) : (s.statusChange p).codecs = s.codecs := by cases p <;> rfl
@[simp] theorem State.statusChange_fw (s : State) (p : Port) : (s.statusChange p).fw = s.fw := by cases p <;> rfl
@[simp] theorem State.statusChange_fuses (s : State) (p : Port) : (s.statusChange p).fuses = s.fuses := by cases p <;> rfl
@[simp] theorem State.statusChange_sec (s : State) (p : Port) : (s.statusChange p).sec = s.sec := by cases p <;> rfl
@[simp] theorem State.statusChange_cfg (s : State) (p : Port) : (s.statusChange p).cfg = s.cfg := by cases p <;> rfl
@[simp] theorem State.statusChange_flash (s : State) (p : Port) : (s.statusChange p).flash = s.flash := by cases p <;> rfl
@[simp] theorem State.statusChange_health (s : State) (p : Port) : (s.statusChange p).health = s.health := by cases p <;> rfl
@[simp] theorem State.statusChange_power (s : State) (p : Port) : (s.statusChange p).power = s.power := by cases p <;> rfl
@[simp] theorem State.statusChange_board (s : State) (p : Port) : (s.statusChange p).board = s.board := by cases p <;> rfl

/-! ## jobCount -/

@[simp] theorem State.jobCount_pending (s : State) (k o n : Nat) : (s.jobCount k o n).pending = s.pending := rfl
@[simp] theorem State.jobCount_freeCtr (s : State) (k o n : Nat) : (s.jobCount k o n).freeCtr = s.freeCtr := rfl
@[simp] theorem State.jobCount_islands (s : State) (k o n : Nat) : (s.jobCount k o n).islands = s.islands := rfl
@[simp] theorem State.jobCount_sched (s : State) (k o n : Nat) : (s.jobCount k o n).sched = s.sched := rfl
@[simp] theorem State.jobCount_portA (s : State) (k o n : Nat) : (s.jobCount k o n).portA = s.portA := rfl
@[simp] theorem State.jobCount_portB (s : State) (k o n : Nat) : (s.jobCount k o n).portB = s.portB := rfl
@[simp] theorem State.jobCount_tiers (s : State) (k o n : Nat) : (s.jobCount k o n).tiers = s.tiers := rfl
@[simp] theorem State.jobCount_links (s : State) (k o n : Nat) : (s.jobCount k o n).links = s.links := rfl
@[simp] theorem State.jobCount_herd (s : State) (k o n : Nat) : (s.jobCount k o n).herd = s.herd := rfl
@[simp] theorem State.jobCount_codecs (s : State) (k o n : Nat) : (s.jobCount k o n).codecs = s.codecs := rfl
@[simp] theorem State.jobCount_fw (s : State) (k o n : Nat) : (s.jobCount k o n).fw = s.fw := rfl
@[simp] theorem State.jobCount_fuses (s : State) (k o n : Nat) : (s.jobCount k o n).fuses = s.fuses := rfl
@[simp] theorem State.jobCount_sec (s : State) (k o n : Nat) : (s.jobCount k o n).sec = s.sec := rfl
@[simp] theorem State.jobCount_cfg (s : State) (k o n : Nat) : (s.jobCount k o n).cfg = s.cfg := rfl
@[simp] theorem State.jobCount_flash (s : State) (k o n : Nat) : (s.jobCount k o n).flash = s.flash := rfl
@[simp] theorem State.jobCount_health (s : State) (k o n : Nat) : (s.jobCount k o n).health = s.health := rfl
@[simp] theorem State.jobCount_power (s : State) (k o n : Nat) : (s.jobCount k o n).power = s.power := rfl
@[simp] theorem State.jobCount_board (s : State) (k o n : Nat) : (s.jobCount k o n).board = s.board := rfl

/-! ## takeCmd -/

@[simp] theorem State.takeCmd_pending (s : State) (c : Cmd) : (s.takeCmd c).pending = s.pending := rfl
@[simp] theorem State.takeCmd_freeCtr (s : State) (c : Cmd) : (s.takeCmd c).freeCtr = s.freeCtr := rfl
@[simp] theorem State.takeCmd_islands (s : State) (c : Cmd) : (s.takeCmd c).islands = s.islands := rfl
@[simp] theorem State.takeCmd_jobs (s : State) (c : Cmd) : (s.takeCmd c).jobs = s.jobs := rfl
@[simp] theorem State.takeCmd_portA (s : State) (c : Cmd) : (s.takeCmd c).portA = s.portA := rfl
@[simp] theorem State.takeCmd_portB (s : State) (c : Cmd) : (s.takeCmd c).portB = s.portB := rfl
@[simp] theorem State.takeCmd_tiers (s : State) (c : Cmd) : (s.takeCmd c).tiers = s.tiers := rfl
@[simp] theorem State.takeCmd_links (s : State) (c : Cmd) : (s.takeCmd c).links = s.links := rfl
@[simp] theorem State.takeCmd_herd (s : State) (c : Cmd) : (s.takeCmd c).herd = s.herd := rfl
@[simp] theorem State.takeCmd_codecs (s : State) (c : Cmd) : (s.takeCmd c).codecs = s.codecs := rfl
@[simp] theorem State.takeCmd_fw (s : State) (c : Cmd) : (s.takeCmd c).fw = s.fw := rfl
@[simp] theorem State.takeCmd_fuses (s : State) (c : Cmd) : (s.takeCmd c).fuses = s.fuses := rfl
@[simp] theorem State.takeCmd_sec (s : State) (c : Cmd) : (s.takeCmd c).sec = s.sec := rfl
@[simp] theorem State.takeCmd_cfg (s : State) (c : Cmd) : (s.takeCmd c).cfg = s.cfg := rfl
@[simp] theorem State.takeCmd_flash (s : State) (c : Cmd) : (s.takeCmd c).flash = s.flash := rfl
@[simp] theorem State.takeCmd_health (s : State) (c : Cmd) : (s.takeCmd c).health = s.health := rfl
@[simp] theorem State.takeCmd_power (s : State) (c : Cmd) : (s.takeCmd c).power = s.power := rfl
@[simp] theorem State.takeCmd_board (s : State) (c : Cmd) : (s.takeCmd c).board = s.board := rfl

/-! ## hold -/

@[simp] theorem State.hold_pending (s : State) (h : Held) : (s.hold h).pending = s.pending := rfl
@[simp] theorem State.hold_freeCtr (s : State) (h : Held) : (s.hold h).freeCtr = s.freeCtr := rfl
@[simp] theorem State.hold_islands (s : State) (h : Held) : (s.hold h).islands = s.islands := rfl
@[simp] theorem State.hold_jobs (s : State) (h : Held) : (s.hold h).jobs = s.jobs := rfl
@[simp] theorem State.hold_sched (s : State) (h : Held) : (s.hold h).sched = s.sched := rfl
@[simp] theorem State.hold_portA (s : State) (h : Held) : (s.hold h).portA = s.portA := rfl
@[simp] theorem State.hold_portB (s : State) (h : Held) : (s.hold h).portB = s.portB := rfl
@[simp] theorem State.hold_tiers (s : State) (h : Held) : (s.hold h).tiers = s.tiers := rfl
@[simp] theorem State.hold_links (s : State) (h : Held) : (s.hold h).links = s.links := rfl
@[simp] theorem State.hold_herd (s : State) (h : Held) : (s.hold h).herd = s.herd := rfl
@[simp] theorem State.hold_codecs (s : State) (h : Held) : (s.hold h).codecs = s.codecs := rfl
@[simp] theorem State.hold_fuses (s : State) (h : Held) : (s.hold h).fuses = s.fuses := rfl
@[simp] theorem State.hold_sec (s : State) (h : Held) : (s.hold h).sec = s.sec := rfl
@[simp] theorem State.hold_cfg (s : State) (h : Held) : (s.hold h).cfg = s.cfg := rfl
@[simp] theorem State.hold_flash (s : State) (h : Held) : (s.hold h).flash = s.flash := rfl
@[simp] theorem State.hold_health (s : State) (h : Held) : (s.hold h).health = s.health := rfl
@[simp] theorem State.hold_power (s : State) (h : Held) : (s.hold h).power = s.power := rfl
@[simp] theorem State.hold_board (s : State) (h : Held) : (s.hold h).board = s.board := rfl

/-! ## healthCount -/

@[simp] theorem State.healthCount_pending (s : State) (off n : Nat) : (s.healthCount off n).pending = s.pending := rfl
@[simp] theorem State.healthCount_freeCtr (s : State) (off n : Nat) : (s.healthCount off n).freeCtr = s.freeCtr := rfl
@[simp] theorem State.healthCount_islands (s : State) (off n : Nat) : (s.healthCount off n).islands = s.islands := rfl
@[simp] theorem State.healthCount_jobs (s : State) (off n : Nat) : (s.healthCount off n).jobs = s.jobs := rfl
@[simp] theorem State.healthCount_sched (s : State) (off n : Nat) : (s.healthCount off n).sched = s.sched := rfl
@[simp] theorem State.healthCount_portA (s : State) (off n : Nat) : (s.healthCount off n).portA = s.portA := rfl
@[simp] theorem State.healthCount_portB (s : State) (off n : Nat) : (s.healthCount off n).portB = s.portB := rfl
@[simp] theorem State.healthCount_tiers (s : State) (off n : Nat) : (s.healthCount off n).tiers = s.tiers := rfl
@[simp] theorem State.healthCount_links (s : State) (off n : Nat) : (s.healthCount off n).links = s.links := rfl
@[simp] theorem State.healthCount_herd (s : State) (off n : Nat) : (s.healthCount off n).herd = s.herd := rfl
@[simp] theorem State.healthCount_codecs (s : State) (off n : Nat) : (s.healthCount off n).codecs = s.codecs := rfl
@[simp] theorem State.healthCount_fw (s : State) (off n : Nat) : (s.healthCount off n).fw = s.fw := rfl
@[simp] theorem State.healthCount_fuses (s : State) (off n : Nat) : (s.healthCount off n).fuses = s.fuses := rfl
@[simp] theorem State.healthCount_sec (s : State) (off n : Nat) : (s.healthCount off n).sec = s.sec := rfl
@[simp] theorem State.healthCount_cfg (s : State) (off n : Nat) : (s.healthCount off n).cfg = s.cfg := rfl
@[simp] theorem State.healthCount_flash (s : State) (off n : Nat) : (s.healthCount off n).flash = s.flash := rfl
@[simp] theorem State.healthCount_power (s : State) (off n : Nat) : (s.healthCount off n).power = s.power := rfl
@[simp] theorem State.healthCount_board (s : State) (off n : Nat) : (s.healthCount off n).board = s.board := rfl

/-! ## Reading back -/

@[simp] theorem State.setJob_job (s : State) (k : Nat) (j : Job) (h : k < s.jobs.length) : (s.setJob k j).job k = j := by
  simp [State.job, State.setJob, h]

theorem State.setJob_job_ne (s : State) (k q : Nat) (j : Job) (h : q ≠ k) : (s.setJob k j).job q = s.job q := by
  simp [State.job, State.setJob, Ne.symm h]

@[simp] theorem State.setInfo_job (s : State) (k : Nat) (i : JobInfo) (h : k < s.jobs.length) :
    (s.setInfo k i).job k = { s.job k with info := i } := by
  simp [State.setInfo, h]

@[simp] theorem State.setPort_port (s : State) (p : Port) (h : HostPort) : (s.setPort p h).port p = h := by
  cases p <;> rfl

@[simp] theorem State.setPort_port_other (s : State) (p : Port) (h : HostPort) :
    (s.setPort p h).port (portOther p) = s.port (portOther p) := by
  cases p <;> rfl

@[simp] theorem State.setLink_link (s : State) (n : Nat) (l : Link) (h : n < s.links.length) : (s.setLink n l).link n = l := by
  simp [State.link, State.setLink, h]

@[simp] theorem JobRun.setCore_core (r : JobRun) (n : Nat) (c : Core) : (r.setCore n c).core n = c := by
  simp [JobRun.core, JobRun.setCore]

theorem JobRun.setCore_core_ne (r : JobRun) (n q : Nat) (c : Core) (h : q ≠ n) : (r.setCore n c).core q = r.core q := by
  simp [JobRun.core, JobRun.setCore, NMap.getD_put_ne _ _ _ _ _ h]

@[simp] theorem HostPort.setRing_ringSet (h : HostPort) (n : Nat) (r : RingSet) : (h.setRing n r).ringSet n = r := by
  simp [HostPort.setRing, HostPort.ringSet]

@[simp] theorem State.setRing_ring (s : State) (p : Port) (n : Nat) (r : RingSet) : (s.setRing p n r).ring p n = r := by
  simp [State.setRing, State.ring]

end Sys2Proof.Machine
end

