-- ==== Sys2Proof/Laws/Tally.lean ====
section
/-! SUPPORT. The tally check of the array (R84): with T_r the sum of a row's mantissas, the tally column and the column adder form the
same integer, so that a mismatch comes from a fault alone. -/

namespace Sys2Proof.Machine

/-- The tallies of rows, from mantissas by column. -/
def tallies (n : Nat) (cols : List (List Int)) : List Int :=
  (List.range n).map (fun r => (cols.map (fun ws => ws.getD r 0)).sum)

theorem tallySum_zeros (xs : List Int) (n : Nat) : tallySum xs ((List.range n).map (fun _ => 0)) = 0 := by
  have h : ∀ (xs ts : List Int), (∀ t ∈ ts, t = 0) → tallySum xs ts = 0 := by
    intro xs
    induction xs with
    | nil => intro ts _; simp [tallySum]
    | cons x xs ih =>
      intro ts hz
      cases ts with
      | nil => simp [tallySum]
      | cons t ts =>
        have h0 := hz t (by simp)
        have := ih ts (fun u hu => hz u (by simp [hu]))
        simp [tallySum] at this ⊢
        simp [h0, this]
  exact h xs _ (by simp)

theorem tallySum_add (xs : List Int) (l : List Nat) (f g : Nat → Int) :
    tallySum xs (l.map (fun r => f r + g r)) = tallySum xs (l.map f) + tallySum xs (l.map g) := by
  induction l generalizing xs with
  | nil => simp [tallySum]
  | cons r l ih =>
    cases xs with
    | nil => simp [tallySum]
    | cons x xs =>
      have := ih xs
      simp only [tallySum, List.map_cons, List.zip_cons_cons, List.sum_cons] at this ⊢
      rw [this]
      ring

theorem range_map_getD (ws : List Int) : (List.range ws.length).map (fun r => ws.getD r 0) = ws := by
  refine List.ext_getElem (by simp) (fun i h _ => ?_)
  have hi : i < ws.length := by simpa using h
  simp [hi]

/-- R84: the sum of x_r × T_r is the sum over the columns of the unscaled column sums. -/
theorem tallySum_eq_columnSum (xs : List Int) (cols : List (List Int)) (h : ∀ ws ∈ cols, ws.length = xs.length) :
    tallySum xs (tallies xs.length cols) = columnSum xs cols := by
  induction cols with
  | nil => simpa [tallies, columnSum] using tallySum_zeros xs xs.length
  | cons ws cols ih =>
    have hw : (List.range xs.length).map (fun r => ws.getD r 0) = ws := by
      rw [← h ws (by simp)]; exact range_map_getD ws
    have hc := ih (fun u hu => h u (by simp [hu]))
    simp only [tallies, List.map_cons, List.sum_cons] at hc ⊢
    rw [tallySum_add, hw, hc]
    simp [columnSum, tallySum]

/-- So the P6's comparison holds of what the cells compute. -/
theorem tallyHolds_of_sums (xs : List Int) (cols : List (List Int)) (h : ∀ ws ∈ cols, ws.length = xs.length) :
    tallyHolds xs (tallies xs.length cols) cols = true := by
  simp [tallyHolds, tallySum_eq_columnSum xs cols h]

end Sys2Proof.Machine
end

