-- ==== Sys2Proof/Machine/Peat.lean ====
section
/-! DEFINITION. What the HBM stacks hold of a job's memory: ciphertext, integrity tags and parity (R272, R273, R454, R455).
State holds the plaintext that every access reads, and the units that are lost; these are views of it (log entry 99). -/

namespace Sys2Proof.Machine

/-! ## Ciphertext (R452, R454) -/

/-- A 256 B sector as its stack holds it: XTS under the two keys of the memory key, with the sector's number as tweak. -/
def sealSector (key d : Nat) (plain : List Byte) : List Byte :=
  Config.xts (keyBits key 0 256) (keyBits key 256 256) (d / 256) plain

/-- The sector of job memory at a job address, in the job's slot `k`. -/
def State.sector (s : State) (k a : Nat) : List Byte :=
  let a := a / 256 * 256
  sealSector (NMap.getD s.sec.jobKeys k 0) ((s.job k).dataAddr a) (memRead (s.job k).run.mem a 256)

/-! ## Tags (R272, R455) -/

/-- `x` times the unknown in GF(2^64), modulo x^64 + x^4 + x^3 + x + 1. -/
def gfDouble (x : W64) : W64 := if x.msb then (x <<< 1) ^^^ 0x1B else x <<< 1

/-- The product of `x` and the `n` highest bits of `y`. -/
def gfMulHigh (x y : W64) (n : Nat) : W64 :=
  match n with
  | 0 => 0
  | k + 1 => gfDouble (gfMulHigh x y k) ^^^ (if y.getLsbD (63 - k) then x else 0)

/-- Horner's rule at the point `h`. -/
def gfHorner (h acc : W64) (ws : List W64) : W64 :=
  match ws with
  | [] => acc
  | w :: rest => gfHorner h (gfMulHigh (acc ^^^ w) h 64) rest

/-- The 64-bit words of a sector, lowest first. -/
def sectorWords (bs : List Byte) : List W64 := (List.range 32).map (fun i => BitVec.ofNat 64 (leNat ((bs.drop (8 * i)).take 8)))

/-- The tag of a sector's ciphertext at data address `d` of job `j`: the polynomial of its words and its place at the
Carter-Wegman point, masked by one AES block (R452, R455). -/
def sectorTag (key d j : Nat) (cipher : List Byte) : W64 :=
  let x : W64 := BitVec.ofNat 64 (d / 256) ||| (BitVec.ofNat 64 j <<< 48)
  let point : W64 := BitVec.ofNat 64 (keyBits key 512 64) ||| 1
  let mask := keyBits key 576 256 ^^^ (keyBits key 832 192 * 2 ^ 64)
  gfHorner point 0 (sectorWords cipher ++ [x]) ^^^ (Config.aes256 mask x.toNat).setWidth 64

/-- The tag that the stacks hold for the sector of job memory at a job address. -/
def State.tag (s : State) (k a : Nat) : W64 :=
  sectorTag (NMap.getD s.sec.jobKeys k 0) ((s.job k).dataAddr (a / 256 * 256)) (s.job k).info.id (s.sector k a)

/-! ## Units and parity (R272, R273, R278, R491) -/

/-- Two units of a stripe row, byte by byte. -/
def xorBytes (xs ys : List Byte) : List Byte := List.zipWith (· ^^^ ·) xs ys

/-- The parity unit of a stripe row, from its 11 data units; and equally a lost unit, from the other 11 of the row. -/
def parityUnit (units : List (List Byte)) : List Byte := units.foldl xorBytes (List.replicate 4096 0)

/-- The job page that a data page backs: slot and virtual page (R279). -/
def State.pageAt (s : State) (p : Nat) : Option (Nat × Nat) :=
  (List.range s.jobs.length).findSome? (fun k =>
    let j := s.job k
    ((j.backing ++ j.run.place).find? (fun e => e.2 == p)).map (fun e => (k, e.1)))

/-- The tag at a data address of the tag region: that of the sector it belongs to, 0 where no job's page lies (R272). -/
def State.tagAt (s : State) (d : Nat) : W64 :=
  let e := (d - tagBase) / 8 * 256
  match s.pageAt (e / 65536) with
  | some (k, v) => s.tag k (v * 65536 + e % 65536)
  | none => 0

/-- The job slot whose stream-table slice, page tables or journal a data address past the reservations belongs to (R103, R176, R354,
R454). -/
def State.tableOwner (s : State) (d : Nat) : Option Nat :=
  let slice := (List.range s.jobs.length).find? (fun k =>
    let i := (s.job k).image
    (s.job k).info.state.loaded && decide (entryData i.sliceFirst ≤ d) && decide (d < entryData (i.sliceFirst + i.sliceCount)))
  let tables := (List.range s.jobs.length).find? (fun k =>
    (s.job k).run.streams.any (fun e => e.2.kind != 0 && tableData e.2.root / 4096 == d / 4096))
  let journal := s.sched.running.filter (fun k =>
    (List.range (s.job k).journal.length).any (fun n => journalData n / 4096 == d / 4096))
  if streamBase ≤ d then (match slice with | some k => some k | none => journal) else tables

/-- The memory key of a sector past the reservations: its job's, else the firmware's (R452, R454). -/
def State.keyAt (s : State) (d : Nat) : Nat :=
  match s.tableOwner d with
  | some k => NMap.getD s.sec.jobKeys k 0
  | none => s.sec.fwKey

/-- What the stacks hold of a sector past the tags: under its key what no interface shows (R272, R454). -/
def State.areaSector (s : State) (d : Nat) : List Byte :=
  sealSector (s.keyAt d) d ((List.range 256).map (fun i => Config.hiddenByte (d + i)))

/-- What the stacks hold of a 4 KiB unit of the data space: a job's ciphertext, tags, and else tables and the firmware area (R272). -/
def State.unitAt (s : State) (u : Nat) : List Byte :=
  let d := u * 4096
  if d < tagBase then
    match s.pageAt (d / 65536) with
    | some (k, v) => (List.range 16).flatMap (fun i => s.sector k (v * 65536 + d % 65536 + 256 * i))
    | none => List.replicate 4096 0
  else if d < nodeBase then (List.range 512).flatMap (fun i => leBytes 8 (s.tagAt (d + 8 * i)).toNat)
  else (List.range 16).flatMap (fun i => s.areaSector (d + 256 * i))

/-- The 11 data units of a stripe, the aligned run of the data space that its row and group hold (R273). -/
def State.stripeUnits (s : State) (stripe : Nat) : List (List Byte) := (List.range 11).map (fun i => s.unitAt (stripe * 11 + i))

/-- The parity unit of a stripe, which lies at `parityAddr` (R273, R278). -/
def State.parityOf (s : State) (stripe : Nat) : List Byte := parityUnit (s.stripeUnits stripe)

end Sys2Proof.Machine
end

