-- ==== Sys2Proof/Tests/Slice0.lean ====
section
/-! SUPPORT. Tests on small states, each of one step or of none: ill-formed commands refused, words decoded, and for each
statement a state and operands that meet its hypotheses. -/

namespace Sys2Proof.Tests

set_option Elab.async false

open Sys2Proof Sys2Proof.Machine

/-- The state that a command leaves; the state itself where it stops. -/
def after (i : Instr) (s : State) : State :=
  match exec i s with
  | .next t => t
  | _ => s

/-- Whether a command completes at a state. -/
def completes (i : Instr) (s : State) : Bool :=
  match exec i s with
  | .next _ => true
  | _ => false

/-- A machine whose job of slot 0 has identifier 1, and whose map places the first two logical cores. -/
def withJob (j : Job) : State :=
  { State.reset with
    jobs := State.reset.jobs.set 0 { j with info := { j.info with id := 1 } }
    health := { State.reset.health with map := [{ cluster := 0, core := 0 }, { cluster := 0, core := 1 }] } }

/-- A machine that runs the job of slot 0. -/
def running (j : Job) : State :=
  { withJob { j with info := { j.info with state := .running } } with sched := { running := some 0 } }

/-- A core whose register `n` holds the `n`-th element, from s1 on. -/
def coreWith (regs : List Nat) : Core := { sregs := 0 :: regs.map (BitVec.ofNat 64) ++ List.replicate (31 - regs.length) 0 }

/-- A job whose core 0 stands at the one instruction of its program. -/
def jobAt (w : Nat) (c : Core) : Job :=
  { image := { cores := [(0, { progLen := 16, code := leBytes 16 w })] }, run := { cores := [(0, c)] } }

/-- A machine whose core 0 stands at a word. -/
def atWord (w : Nat) (c : Core) : State := running (jobAt w c)

/-- A scratchpad that holds bytes at an offset. -/
def pad (off : Nat) (bs : List Nat) : NMap Byte := memWrite [] off (bs.map (BitVec.ofNat 8))

/-- A command of one opcode for the job of slot 0. -/
def cmdOf (op : Nat) : Cmd :=
  { desc := { opcode := op, flags := 0, tag := 7, job := 1, ring := 0, prio := 0, w8 := 0, w16 := 0, w24 := 0, w32 := 0, w40 := 0
              w48 := 0, cookie := 0 }
    port := .a, set := 0, sealed := false, dev := false, caddr := 0, seq := 3 }

/-! ## Ill-formed commands are refused by name of their check -/

/-- A format S whose fields are all 0. -/
def zS : FmtS := { rd := 0, ra := 0, rb := 0, cond := 0, imm := 0 }

/-- A format C whose fields are all 0. -/
def zC : FmtC := { reg := 0, chan := 0, imm := 0 }

/-- A format M whose fields are all 0. -/
def zM : FmtM := { ra := 0, rb := 0, rc := 0, rd := 0, sem := 0, semb := 0, imm := 0 }

/-- A format A whose fields are all 0. -/
def zA : FmtA := { prec := 0, span := 0, ctrl := 0, operand := 0 }

/-- A format V on one FP32 element. -/
def zV : FmtV :=
  { imm := 0, aux := 0, creg := 0, rowlen := 0, pgt := false, minv := false, masked := false, mreg := 0, src3 := 0, src2 := 0
    src1 := 0, dst := 0, count := 0, bcast := 0, type := 0 }

/-- A format B whose fields are all 0. -/
def zB : FmtB :=
  { rowbytes := 0, hint := 0, creg := 0, stride := 0, minv := false, masked := false, mreg := 0, rows := 0, base := 0, idx := 0
    data := 0, count := 0, idx64 := false, type := 0 }

/-- A format I of a STEP. -/
def zI : FmtI := { pneg := false, notify := false, res := 0, pred := 0, caddr := 0, desc := 0, cmd := 0x10 }

/-- A packet of one type without payload. -/
def packet (type : Nat) : Packet :=
  { dest := 0, src := 5, job := 1, type, chan := 1, ordered := false, down := false, hops := 0, flow := 0, seq := 1, msg := 0
    opA := 0, opB := 0, payload := [] }

theorem test_wf_core_and_formats :
    (Instr.sli 511 zS).wf = true ∧ (Instr.sli 512 zS).wf = false ∧ (Instr.sadd 0 { zS with rd := 32 }).wf = false ∧
    (Instr.br 0 { zS with cond := 16 }).wf = false ∧ (Instr.send 0 { zC with chan := 65536 }).wf = false ∧
    (Instr.recv 0 { zC with reg := 32 }).wf = false ∧ (Instr.wait 0 { zM with sem := 4096 }).wf = false ∧
    (Instr.rpass 0 { zM with semb := 4096 }).wf = false ∧ (Instr.signal 0 { zM with rc := 32 }).wf = false ∧
    (Instr.matmul 0 { zA with operand := 65536 }).wf = false ∧ (Instr.qk 0 { zA with span := 32 }).wf = false ∧
    (Instr.vadd 0 { zV with count := 16384 }).wf = false ∧ (Instr.vadd 0 { zV with type := 6 }).wf = false ∧
    (Instr.vcmp 0 { zV with rowlen := 32768 }).wf = false ∧ (Instr.vsel 0 { zV with bcast := 4 }).wf = false ∧
    (Instr.bgather 0 { zB with stride := 32768 }).wf = false ∧ (Instr.bscatter 0 { zB with hint := 4 }).wf = false ∧
    (Instr.issue 0 { zI with cmd := 256 }).wf = false ∧ (Instr.issue 0 { zI with res := 32 }).wf = false := by decide

theorem test_wf_commands :
    (Instr.jobStart (cmdOf 0x02)).wf = true ∧ (Instr.jobStart (cmdOf 0x04)).wf = false ∧
    (Instr.copyIn { cmdOf 0x20 with set := 64 }).wf = false ∧
    (Instr.stepCmd { cmdOf 0x10 with desc := { (cmdOf 0x10).desc with job := 65536 } }).wf = false ∧
    (Instr.chunk { cmdOf 0x11 with desc := { (cmdOf 0x11).desc with flags := 256 } }).wf = false := by decide

theorem test_wf_units :
    (Instr.firingDone 64).wf = false ∧ (Instr.streamMoveDone 1048576).wf = false ∧ (Instr.codecWindowLoaded 16).wf = false ∧
    (Instr.descriptorIntake .a 64).wf = false ∧ (Instr.creditReturn 65536).wf = false ∧ (Instr.rpassSend 8).wf = false ∧
    (Instr.heatDecay 32).wf = false ∧ (Instr.regulatorWindowStart 48 0).wf = false ∧
    (Instr.regulatorWindowStart 0 9).wf = false ∧ (Instr.flitAckTimer 48).wf = false ∧ (Instr.laneFail 0 9).wf = false ∧
    (Instr.nakReceive 0 1024).wf = false ∧ (Instr.e2eAckTimer ⟨0, 0⟩ 0).wf = false ∧ (Instr.e2eAckTimer ⟨0, 65536⟩ 1).wf = false ∧
    (Instr.transitCreditTimeout 0 4).wf = false ∧ (Instr.fwCoreTrap ⟨40, .trap⟩).wf = false ∧ (Instr.hostedCoreSwitch 34 0).wf = false ∧
    (Instr.coreVerifyDone 0 17 true).wf = false ∧ (Instr.d2dWordError 0 2).wf = false ∧
    (Instr.stallMonitorTrip (.ringPass 8)).wf = false ∧ (Instr.eccError (.bank 0 0 8) true).wf = false ∧
    (Instr.hbmUnitFail 48 none).wf = false ∧ (Instr.hbmUnitFail 0 (some 32)).wf = false ∧
    (Instr.woodpileTestTimer [(34, 0)]).wf = false ∧ (Instr.phaseFail 0 12).wf = false ∧ (Instr.phaseFail 41 15).wf = true ∧
    (Instr.phaseFail 42 0).wf = false ∧ (Instr.hbmThermalPace 48 0).wf = false := by decide

theorem test_wf_packets_and_ports :
    (Instr.packetWrite (packet 1)).wf = true ∧ (Instr.packetWrite (packet 2)).wf = false ∧
    (Instr.packetSignal { packet 2 with chan := 4 }).wf = false ∧ (Instr.packetReservedType (packet 8)).wf = true ∧
    (Instr.packetReservedType (packet 0x22)).wf = false ∧
    (Instr.packetWrite { packet 1 with flow := 2 ^ 32 }).wf = false ∧ (Instr.flitReceive 0 ⟨[], none, []⟩).wf = false ∧ (Instr.ringEnable .a 0 2).wf = false ∧
    (Instr.ringSqTail .b 64 0).wf = false ∧ (Instr.msixMessage .a 129).wf = false ∧ (Instr.jobSemAdd .a 4096 0).wf = false ∧
    (Instr.bar2Read .a (2 ^ 38 - 7) 8).wf = false ∧ (Instr.jobPgtStage .a 2 0).wf = false ∧
    (Instr.jobPgtStage .a 0x40000 0).wf = false ∧ (Instr.emuApertureRead .a 0x7FFC).wf = false ∧
    (Instr.emuApertureWrite .a 0x10000 0).wf = false ∧ (Instr.registerWrite .a (2 ^ 26 - 4) 8 0).wf = false ∧ (Instr.pcieLinkUp .a 3 16).wf = false ∧
    (Instr.pcieLinkUp .a 6 12).wf = false := by decide

/-! ## Words of command programs, written out from their formats -/

/-- Format S (R202): OPCODE bits 7:0, RD 12:8, RA 17:13, RB 22:18, COND 26:23, IMM 127:64. -/
theorem test_words_of_format_s :
    decodeInsn 0 0x00000000000000070000000000000501 = some (.sli 0 { zS with rd := 5, imm := 7 }) ∧
    decodeInsn 0 (2 ^ 64 * 16 + 2 ^ 18 * 3 + 2 ^ 13 * 2 + 2 ^ 8 * 1 + 0x02) =
      some (.sadd 0 { rd := 1, ra := 2, rb := 3, cond := 0, imm := 16 }) ∧
    decodeInsn 9 (2 ^ 64 * 4 + 2 ^ 23 * 5 + 2 ^ 18 * 31 + 2 ^ 13 * 30 + 0x0C) =
      some (.br 9 { rd := 0, ra := 30, rb := 31, cond := 5, imm := 4 }) ∧
    decodeInsn 0 0x07 = none ∧ decodeInsn 0 (2 ^ 27 + 0x01) = none ∧ decodeInsn 0 (2 ^ 23 * 7 + 0x0C) = none := by decide

/-- Format C (R203): OPCODE bits 7:0, REG 12:8, CHAN 31:16, IMM 127:64. -/
theorem test_words_of_format_c :
    decodeInsn 0 0x00000000000000400000000000090310 = some (.send 0 { reg := 3, chan := 9, imm := 64 }) ∧
    decodeInsn 0 0x00000000000000000000000000090312 = some (.free 0 { reg := 3, chan := 9, imm := 0 }) := by decide

/-- Format V (R207): VADD of 16 FP32 elements, DST s1, SRC1 s2. -/
theorem test_words_of_format_v :
    decodeInsn 1 0x000000000000000000000041000F0040 = some (.vadd 1 { zV with src1 := 2, dst := 1, count := 15 }) := by decide

/-- Format I (R216): ISSUE of a STEP whose body s3 points to, its record at s1. -/
theorem test_words_of_format_i :
    decodeInsn 2 0x000000000000000000000000002310A0 = some (.issue 2 { zI with caddr := 1, desc := 3 }) ∧
    decodeInsn 2 0x000000000000000000000000002311A0 = none := by decide

/-! ## The machine -/

/-- One step takes the front command, and an empty queue idles: witnesses of the statements about every step. -/
theorem test_step_runs_front :
    State.reset.sized ∧ (∃ t, step { State.reset with pending := [.throttleNRelease] } = .next t) ∧
    (∃ t, step State.reset = .next t) ∧ State.reset.pending = [] := by
  refine ⟨⟨rfl, rfl, rfl, rfl⟩, ⟨_, rfl⟩, ⟨_, rfl⟩, rfl⟩

/-- The words given for the queue's front are put there. -/
theorem test_fetch_word_puts_nothing : (State.reset.withFetchWord 16 0).pending = [] := by decide

/-- Every class of well-formed command has a member; the two exceptions of the completion statement stop. -/
theorem test_wf_completes_witness :
    (Instr.secSvnCommitHeartwood).wf = true ∧ (Instr.eccError (.hubBuffer 7) false).wf = true ∧
    exec (.eccError (.hubBuffer 7) false) State.reset = .fault .moduleLost := by
  refine ⟨rfl, rfl, rfl⟩

/-! ## Scalar instructions: R199, R202, R230 -/

/-- Register 0 discards a write, and register 31 takes it. -/
theorem test_register_zero :
    ((coreWith []).setReg 0 9).reg 0 = 0 ∧ ((coreWith []).setReg 31 9).reg 31 = 9 ∧ ((coreWith []).setReg 31 9).reg 30 = 0 := by
  decide

/-- SLI, SADD, SMUL, SAND, SSHR and SCMP stand at their word, and give 7, 2^64 - 1 + 2 wrapped, -1 × 3, a mask, a shift by 65
modulo 64, and LT of -1. -/
theorem test_scalar_results :
    let f : FmtS := { rd := 5, ra := 1, rb := 2, cond := 0, imm := 1 }
    let c := coreWith [2 ^ 64 - 1, 1]
    let r := fun (op : Nat) (i : Nat → FmtS → Instr) (f : FmtS) => (after (i 0 f) (atWord (wordS op f) c)).coreOf 0 0
    (atWord (wordS 0x01 f) c).mayIssue 0 = some 0 ∧ fmtSOk f = true ∧
    (r 0x01 .sli f).reg 5 = 1 ∧ (r 0x02 .sadd f).reg 5 = 1 ∧ (r 0x03 .smul f).reg 5 = BitVec.ofNat 64 (2 ^ 64 - 2) ∧
    (r 0x04 .sand f).reg 5 = 2 ∧ (r 0x05 .sshr { f with imm := 64 }).reg 5 = BitVec.ofNat 64 (2 ^ 63 - 1) ∧
    (r 0x06 .scmp { f with cond := 3 }).reg 5 = 1 ∧ (r 0x06 .scmp { f with cond := 5 }).reg 5 = 0 ∧
    (r 0x01 .sli { f with rd := 0 }).reg 0 = 0 ∧ (r 0x02 .sadd f).insn = 1 := by decide +kernel

/-- SLD and SST at the last 8 B of the scratchpad; one byte on they fault at that address. -/
theorem test_scalar_memory :
    let f : FmtS := { rd := 5, ra := 1, rb := 2, cond := 0, imm := 0 }
    let c := { coreWith [6291448, 0x0102] with scratch := pad 6291448 [9, 8] }
    let d := coreWith [6291449, 0x0102]
    ((after (.sld 0 f) (atWord (wordS 0x08 f) c)).coreOf 0 0).reg 5 = 0x0809 ∧
    memWord ((after (.sst 0 f) (atWord (wordS 0x09 f) c)).coreOf 0 0).scratch 6291448 8 = 0x0102 ∧
    (((jobAt (wordS 0x09 f) c).image.sec 0).inProgram 6291448 8) = false ∧
    ((after (.sld 0 f) (atWord (wordS 0x08 f) d)).job 0).fault = some { core := 0, insn := 0, lane := 0, addr := 6291449 } ∧
    ((after (.sst 0 f) (atWord (wordS 0x09 f) d)).job 0).info.state = .pausing ∧
    (atWord (wordS 0x08 f) d).sched.pausing = none := by decide +kernel

/-- SPG of the last group and of the first that is not there, a branch taken and not, NEXT, and the batch that reaches it. -/
theorem test_parameters_branches_next :
    let f : FmtS := { rd := 5, ra := 1, rb := 2, cond := 7, imm := 0 }
    let j := fun (c : Core) (w : Nat) => { jobAt w c with
      image := { (jobAt w c).image with clusters := [(0, { pgt := 2 })] } }
    let put := fun (j : Job) => { j with run := { j.run with pgt := [(pgtIndex 0 1 7, 0xAB)] } }
    let go := fun (op : Nat) (i : Instr) (f : FmtS) (c : Core) => (after i (running (put (j c (wordS op f))))).coreOf 0 0
    (go 0x0A (.spg 0 f) f (coreWith [257])).reg 5 = 0xAB ∧ (go 0x0A (.spg 0 f) f (coreWith [2])).reg 5 = 0 ∧
    (go 0x0C (.br 0 { f with cond := 1, imm := 9 }) { f with cond := 1, imm := 9 } (coreWith [4, 4])).insn = 9 ∧
    (go 0x0C (.br 0 { f with cond := 1, imm := 9 }) { f with cond := 1, imm := 9 } (coreWith [4, 5])).insn = 1 ∧
    (go 0x0D (.next 0 { f with cond := 0 }) { f with cond := 0 } { coreWith [] with batch := some 3 }).wait = .next 5 := by
  decide +kernel

/-- A core that waits in NEXT takes the batch of one row that its cluster's control core has for it. -/
theorem test_next_batch_delivered :
    let b : Batch := { id := 4, rows := [(1, 0)], inBase := 64, outBase := 128 }
    let j := jobAt 0 { coreWith [] with wait := .next 5, seen := 4 }
    let s := running { j with run := { j.run with batches := [b] } }
    s.working 0 = some 0 ∧ (s.job 0).run.nextBatch (s.coreOf 0 0) = some b ∧ s.clusterServes 0 4 4 = true ∧
    ((after (.nextBatchDelivered 0) s).coreOf 0 0).reg 7 = 128 := by decide +kernel

/-! ## Channels, semaphores and the ring pass: R203, R357, R395 -/

/-- A job at a word with a channel 0 of four slots of 64 B from core 0 to core 1, whose region is at 128. -/
def chanJob (w : Nat) (c : Core) (x : Chan) : Job :=
  { image := { cores := [(0, { progLen := 16, code := leBytes 16 w, regions := [{ off := 128, size := 256, kind := 1, chan := 0 }] })]
               chans := [{ producer := 0, consumer := 1, depth := 4 }] }
    run := { cores := [(0, c), (1, { wait := .recv 0 6 })], chans := [(0, x)] } }

/-- SEND of 65 B takes two of two credits, and waits with one. -/
theorem test_send :
    let f : FmtC := { reg := 1, chan := 0, imm := 65 }
    let s := fun (n : Nat) => running (chanJob (wordC 0x10 f) (coreWith [0]) { credits := n })
    let run := fun (n : Nat) => ((after (.send 0 f) (s n)).job 0).run
    fmtCOk f = true ∧ (s 2).mayIssue 0 = some 0 ∧ ((run 2).chan 0).credits = 0 ∧ ((run 2).chan 0).nextSlot = 2 ∧
    ((run 1).chan 0).credits = 1 ∧ ((run 1).core 0).wait = .send 0 := by decide +kernel

/-- RECV returns the address of the arrived transfer behind one already returned, and waits where all are. -/
theorem test_recv :
    let f : FmtC := { reg := 6, chan := 0, imm := 0 }
    let t : Transfer := { slot := 1, slots := 1, data := [], arrived := true, recved := true }
    let s := fun (ts : List Transfer) => running (chanJob (wordC 0x11 f) (coreWith []) { transfers := ts })
    ((after (.recv 0 f) (s [t, { t with slot := 2, recved := false }])).coreOf 0 0).reg 6 = 256 ∧
    ((after (.recv 0 f) (s [t])).coreOf 0 0).wait = .recv 0 6 := by decide +kernel

/-- FREE releases the oldest returned transfer, and with none it faults at the channel's number. -/
theorem test_free :
    let f : FmtC := { reg := 0, chan := 0, imm := 0 }
    let t : Transfer := { slot := 1, slots := 2, data := [], arrived := true, recved := true }
    let s := fun (ts : List Transfer) => running (chanJob (wordC 0x12 f) (coreWith []) { transfers := ts })
    (((after (.free 0 f) (s [t])).job 0).run.chan 0).returning = [2] ∧
    ((after (.free 0 f) (s [])).job 0).fault = some { core := 0, insn := 0, lane := 0, addr := 0 } := by decide +kernel

/-- A returned credit wakes the SEND that waits; a transfer arrives. -/
theorem test_channel_events :
    let c := { coreWith [] with wait := CoreWait.send 0 }
    let t : Transfer := { slot := 0, slots := 1, data := [1], arrived := false, recved := false }
    let s := running (chanJob 0 c { credits := 1, returning := [2], transfers := [t] })
    let u := running { chanJob 0 c { transfers := [t] } with
      run := { (chanJob 0 c { transfers := [t] }).run with cores := [(0, c), (1, {})] } }
    s.sched.running = some 0 ∧ ((s.job 0).run.chan 0).returning = [2] ∧ (s.coreOf 0 0).wait = .send 0 ∧
    ((after (.creditReturn 0) s).coreOf 0 0).wait = .run ∧ (u.coreOf 0 1).wait = .run ∧
    (((after (.transferArrive 0) u).job 0).run.chan 0).transfers = [{ t with arrived := true }] := by decide +kernel

/-- SREAD, SSET, WAIT at its value and one below it, SIGNAL to this module, and a WAIT that is satisfied. -/
theorem test_semaphores :
    let f : FmtM := { ra := 1, rb := 0, rc := 0, rd := 5, sem := 4095, semb := 0, imm := 2 }
    let j := fun (w v : Nat) => { jobAt w (coreWith [3]) with
      run := { (jobAt w (coreWith [3])).run with sems := [(4095, BitVec.ofNat 32 v)] } }
    let run := fun (i : Instr) (op v : Nat) => ((after i (running (j (wordM op f) v))).job 0).run
    let w := { jobAt 0 { coreWith [] with wait := .sem 7 5 } with
      run := { cores := [(0, { coreWith [] with wait := .sem 7 5 })], sems := [(7, 5)] } }
    fmtMOk f = true ∧ ((run (.sread 0 f) 0x1A 9).core 0).reg 5 = 9 ∧ NMap.getD (run (.sset 0 f) 0x1B 9).sems 4095 0 = 5 ∧
    NMap.getD (run (.wait 0 f) 0x19 5).sems 4095 7 = 0 ∧ ((run (.wait 0 f) 0x19 4).core 0).wait = .sem 4095 5 ∧
    State.reset.localPeer 0 = true ∧ NMap.getD (run (.signal 0 f) 0x18 9).sems 4095 0 = 14 ∧
    (running w).working 0 = some 0 ∧ ((after (.waitSatisfied 0) (running w)).coreOf 0 0).wait = .run := by decide +kernel

/-- RPASS joins its engine, waits for a full one and faults at a length off 64 KiB; the engine takes and completes an empty local
transfer. -/
theorem test_ring_pass :
    let f : FmtM := { ra := 1, rb := 2, rc := 3, rd := 4, sem := 8, semb := 9, imm := 0 }
    let x : Transfer2 := { slot := 0, core := 0, src := 65536, dst := 0, len := 0, peer := 0, sem := 8, semb := 9, sent := 0, msg := 0
                           started := false }
    let s := fun (len : Nat) (ts : List Transfer2) => ({ atWord (wordM 0x1C f) (coreWith [65536, 0, len, 0]) with
      herd := { engines := [ts, [], [], [], [], [], [], []] } } : State)
    rpassFault ((s 0 []).job 0) true 65536 0 0 = none ∧ (s 0 []).hubOf 0 = 0 ∧
    (after (.rpass 0 f) (s 0 [])).engine 0 = [x] ∧
    ((after (.rpass 0 f) (s 0 (List.replicate 16 x))).coreOf 0 0).wait = .rpassFull ∧
    ((after (.rpass 0 f) (s 1 [])).job 0).fault = some { core := 0, insn := 0, lane := 0, addr := 65536 } ∧
    (after (.rpassSend 0) (s 0 [x])).engine 0 = [{ x with started := true }] ∧
    (let y := { x with len := 65536 }
     let lost := (s 0 [y]).setJob 0 { (s 0 [y]).job 0 with lost := [31] }
     (lost.job 0).blocked 65536 65536 false = true ∧ (lost.job 0).blocked 0 65536 true = false ∧
       (after (.rpassSend 0) lost).engine 0 = [y]) ∧
    (after (.rpassComplete 0) (s 0 [{ x with started := true }])).engine 0 = [] := by decide +kernel

/-! ## Vector instructions: R207 to R215, R230 -/

/-- VADD of one lane: it stands at its word, its count is 1 and its lane is clear; 1.0 + 2.0 is 3.0 in FP32. -/
theorem test_elementwise :
    let f := { zV with src1 := 1, src2 := 2, dst := 3 }
    let c := { coreWith [0, 4, 8] with scratch := memWrite (memWrite [] 0 (leBytes 4 0x3F800000)) 4 (leBytes 4 0x40000000) }
    let s := atWord (wordV 0x40 f) c
    ∃ x ∈ elementwise 0 f, x.op = 0x40 ∧ fmtVOk f = true ∧ s.mayIssue 0 = some 0 ∧
      laneClear 0 f (mapPlan 0 f x.two x.three x.beats x.elem (s.job 0) (s.coreOf 0 0)) (s.job 0) (s.coreOf 0 0) 1 ∧
      memWord (vecDone 0 f (mapPlan 0 f x.two x.three x.beats x.elem (s.job 0) (s.coreOf 0 0)) (s.job 0) (s.coreOf 0 0) 1).core.scratch 8 4
        = 0x40400000 :=
  ⟨_, .head _, rfl, by decide +kernel, by decide +kernel,
    ⟨by decide +kernel, by decide, by decide +kernel⟩, by decide +kernel⟩

/-- A lane masked off writes nothing: of two BF16 lanes the second keeps its bytes. -/
theorem test_masked_lane_writes_nothing :
    let f := { zV with src1 := 1, dst := 1, count := 1, type := 2, masked := true, mreg := 2 }
    let c := { coreWith [0, 64] with scratch := pad 0 [0x80, 0x3F, 0x80, 0x3F] ++ pad 64 [1] }
    let p := mapPlan 0 f false false (fast f) (fun a _ _ => vnegCode f.type a) (jobAt 0 c) c
    memRead (vecDone 0 f p (jobAt 0 c) c 2).core.scratch 0 4 = [0x80, 0xBF, 0x80, 0x3F] := by
  decide +kernel

/-- A walk of two lanes whose elements do not depend on what the other writes. -/
theorem test_walk_witness :
    let d : Opnd := { base := 0, size := 4, write := true }
    let g := fun (_ : NMap Byte) (i : Nat) => i + 7
    memWf ([] : NMap Byte) = true ∧ [0, 1].Pairwise (· < ·) ∧ d.at' = id ∧
    (∀ (m m' : NMap Byte) i, g m' i = g m i) ∧ memWord (walk d g [0, 1] []) 4 4 = 8 :=
  ⟨rfl, by decide, rfl, fun _ _ _ => rfl, by decide +kernel⟩

/-- A run-time count of 0, one above the plan, and the lane beyond the scratchpad at its address. -/
theorem test_vector_counts_and_faults :
    let f := { zV with src1 := 1, dst := 1, creg := 2, count := 1 }
    let s := fun (a n : Nat) => atWord (wordV 0x47 f) (coreWith [a, n])
    ((after (.vabs 0 f) (s 0 0)).coreOf 0 0).insn = 1 ∧ ((after (.vabs 0 f) (s 0 3)).job 0).info.state = .pausing ∧
    runCount ((s 6291452 2).coreOf 0 0) 2 2 = some 2 ∧
    ((after (.vabs 0 f) (s 6291452 2)).job 0).fault = some { core := 0, insn := 0, lane := 1, addr := 6291456 } := by
  decide +kernel

/-- VRMAX, of the other vector instructions: clear at one lane, and its accesses go on. -/
theorem test_other_vectors :
    let f := { zV with src1 := 1, dst := 2 }
    let s := atWord (wordV 0x61 f) { coreWith [0, 8] with scratch := pad 0 [0, 0, 0x80, 0x3F] }
    let c := s.coreOf 0 0
    let d := vecDone 0 f (extremePlan f Num.max (s.job 0) c) (s.job 0) c 1
    ((Instr.vrmax 0 f, 0x61, extremePlan f Num.max) ∈ otherVectors 0 f) ∧
    laneClear 0 f (extremePlan f Num.max (s.job 0) c) (s.job 0) c 1 ∧ s.goesOn 0 0 d ∧
    memWord d.core.scratch 8 4 = 0x3F800000 :=
  ⟨.tail _ (.tail _ (.tail _ (.tail _ (.tail _ (.head _))))), ⟨by decide +kernel, by decide, by decide +kernel⟩,
    ⟨by decide +kernel, fun h => absurd h (by decide +kernel), by decide +kernel⟩, by decide +kernel⟩

/-- VFFT of one tile and VTOPK of one element stand clear; VTOPK writes the greatest and its index. -/
theorem test_transform_and_selection :
    let f := { zV with src1 := 1, src2 := 2, dst := 3, aux := 0 }
    let g := { f with count := 1, type := 0 }
    let c := { coreWith [0, 16384, 32768] with scratch := pad 0 [0, 0, 0x80, 0x3F, 0, 0, 0, 0x40] }
    let s := atWord (wordV 0x81 g) c
    (laneClear 0 f (vfftPlan f (jobAt (wordV 0x80 f) c) c) (jobAt (wordV 0x80 f) c) c 1) ∧
    (laneClear 0 g (vtopkPlan g (s.job 0) c) (s.job 0) c 2) ∧
    memWord (vecDone 0 g (vtopkPlan g (s.job 0) c) (s.job 0) c 2).core.scratch 32768 4 = 0x40000000 ∧
    memWord (vecDone 0 g (vtopkPlan g (s.job 0) c) (s.job 0) c 2).core.scratch 16384 4 = 1 :=
  ⟨⟨by decide, by decide, by decide +kernel⟩, ⟨by decide, by decide, by decide +kernel⟩, by decide +kernel, by decide +kernel⟩

/-- A core whose two sources, mask and destination lie apart in an empty scratchpad. -/
def vecCore : Core := coreWith [64, 128, 192, 256]

/-- A word of one INT8 lane (FP32 where the operation has no other type). -/
def vecForm (type : Nat) : FmtV := { zV with type, src1 := 1, src2 := 2, src3 := 3, dst := 4 }

/-- Every element-wise instruction stands clear at one lane. -/
theorem test_every_elementwise :
    let f := vecForm 0
    (elementwise 0 f).all (fun x =>
      let s := atWord (wordV x.op f) vecCore
      decide (s.mayIssue 0 = some 0) && decide (((s.job 0).image.sec 0).wordAt 0 = wordV x.op f) &&
        decide (firstFault 0 (s.job 0) (s.coreOf 0 0) (vecMask f (s.coreOf 0 0) true) 1 1
          (mapPlan 0 f x.two x.three x.beats x.elem (s.job 0) (s.coreOf 0 0)).ops = none)) = true := by decide +kernel

/-- Every other vector instruction stands clear at one lane, and its accesses go on; VLD and VST move tensor 0. -/
theorem test_every_other_vector :
    let f := { vecForm 0 with src1 := 5, src3 := 5 }
    (otherVectors 0 f).all (fun x =>
      let g := if x.2.1 = 0x69 then { f with src1 := 4, dst := 5 } else { f with src1 := if x.2.1 = 0x68 then 5 else 1 }
      let s := atWord (wordV x.2.1 g) (coreWith [64, 128, 192, 256, 65536])
      let j := { s.job 0 with image := { (s.job 0).image with tensors := [{ pages := 1, addr := 65536 }] } }
      let plans := (otherVectors 0 g).filter (fun y => y.2.1 == x.2.1)
      plans.all (fun y => decide (firstFault 0 j (s.coreOf 0 0) (vecMask g (s.coreOf 0 0) (y.2.2 j (s.coreOf 0 0)).masked) 1
        (max 1 (y.2.2 j (s.coreOf 0 0)).slots) (y.2.2 j (s.coreOf 0 0)).ops = none))) = true := by decide +kernel

/-! ## Array, attention, scan, convolution and pooling commands -/

/-- Core 0 works for slot 0 and stands at a word. -/
def stands (s : State) (w : Nat) : Bool :=
  decide (s.mayIssue 0 = some 0) && decide ((s.coreOf 0 0).insn < ((s.job 0).image.sec 0).length) &&
    decide (((s.job 0).image.sec 0).wordAt (s.coreOf 0 0).insn = w)

theorem atInsn_of_stands (s : State) (w : Nat) (h : stands s w = true) : s.atInsn 0 0 w := by
  simp only [stands, Bool.and_eq_true, decide_eq_true_eq] at h
  exact ⟨h.1.1, h.1.2, h.2⟩

/-- What an instruction leaves meets no withheld data, finds room in the journal, and no request holds a slot. -/
def goes (s : State) (d : Done) : Bool :=
  (s.withheldRead 0 d.accesses == none) && !s.journalFull 0 && s.tiers.requests.isEmpty

theorem goesOn_of_goes (s : State) (d : Done) (h : goes s d = true) : s.goesOn 0 0 d := by
  simp only [goes, Bool.and_eq_true, beq_iff_eq, Bool.not_eq_true'] at h
  exact ⟨h.1.1, fun _ => h.1.2, by simp [State.noSlot, h.2]⟩

/-- An array command goes on whichever way its failures send it. -/
theorem goesOn_of_ran (s : State) (go : Bool → Done) (h : goes s (go true) = true) (h' : goes s (go false) = true) :
    s.goesOn 0 0 (s.ran 0 go) := by
  refine goesOn_of_goes s _ ?_
  show goes s { go (s.onFawn 0 || s.failsOver 0) with fails := some s.failures } = true
  cases s.onFawn 0 || s.failsOver 0
  · exact h'
  · exact h

/-- An operand block of one planned vector of 16 elements and one output of tensor 0 at 1,024, without a gate block; its count comes
from a register, or from the plan where that is 0. -/
def opBytes (vreg : Nat) : List Nat :=
  [0, 0, 0xFF, 0xFF, 16, 0, 1, 0] ++ List.replicate 9 0 ++ [4, 0, 0, 1, 0, vreg] ++ List.replicate 9 0

/-- A word of format A with operand block 1 and control block 3. -/
def wA : FmtA := { zA with operand := 1, ctrl := 3, prec := BitVec.ofNat 64 (1 * 2 ^ 44) }

/-- A job whose core 0 stands at a word with that operand block and a control block, works on a batch of one token of a stream,
has its array in use and has read the units at some addresses. Tensor 0 has one row and one column of a plane. -/
def blockJob (w : Nat) (blk : List Nat) (st : Stream) (arrived : List Nat) : Job :=
  let q : QCmd := { uid := 5, cmd := cmdOf 0x10, phase := 2, rows := [{ st, phase := 2 }] }
  { image := { cores := [(0, { progLen := 16, code := leBytes 16 w ++ (opBytes 0 ++ blk).map (BitVec.ofNat 8) })]
               tensors := [{ fmt := 9, pages := 2, addr := 65536 }]
               limits := [⟨0, 3, 1⟩, ⟨0, 4, 1⟩] }
    run := { cores := [(0, { coreWith [] with groupsOn := 8, arrived, batch := some 0 })], queue := [q]
             batches := [{ id := 0, rows := [(5, 0)] }], mem := pad 65536 [1] ++ pad 65552 [0, 0, 2] } }

/-- A machine whose core 0 is at the blocks of a job. -/
def atBlock (w : Nat) (blk : List Nat) (st : Stream) (arrived : List Nat) : State := running (blockJob w blk st arrived)

/-- A MATMUL of one vector may run at once and goes on. -/
theorem test_matmul_ready :
    let s := atBlock (wordA 0x20 wA) [] {} [65536]
    s.atInsn 0 0 (wordA 0x20 wA) ∧ matmulReady s 0 wA (s.job 0) (s.coreOf 0 0) 1 ∧
      s.goesOn 0 0 (matmulDone s 0 wA (s.job 0) (s.coreOf 0 0) 1) := by
  refine ⟨atInsn_of_stands _ _ (by decide +kernel), ⟨⟨?_, ?_, ?_, ?_⟩, by decide, ⟨?_, ?_, ?_⟩, ?_, .inr ?_⟩,
    goesOn_of_ran _ _ ?_ ?_⟩ <;> decide +kernel

/-- A MATMUL of no vector is within its shape; a register of 2 is beyond the plan. -/
theorem test_matmul_counts :
    let job := fun (v : Nat) => ({ jobAt 0 (coreWith [v]) with
      image := { cores := [(0, { progLen := 16, code := leBytes 16 0 ++ (opBytes 1).map (BitVec.ofNat 8) })] } } : Job)
    let o := ((job 2).image.sec 0).opBlk 1
    matmulShape 0 wA (job 0) (coreWith [0]) 0 ∧ o.vreg ≠ 0 ∧ o.plan < ((coreWith [2]).reg o.vreg).toNat := by
  refine ⟨⟨?_, ?_, ?_, ?_⟩, ?_, ?_⟩ <;> decide +kernel

/-- An attention control block of one query head of 16 elements on group 0; visiting pages come from a tensor. -/
def attnBytes (vis : Nat) : List Nat :=
  [0, 0, 16, 0, 0, 0, 1, 1, 0, 0, 1, 0, 0, 16, 0, 0, 0, 32, 0, 0, 0, 48, 0, 0] ++ List.replicate 6 0xFF ++ [vis % 256, vis / 256] ++
    List.replicate 32 0

/-- A stream of one page in format 1, and where its keys and values lie. -/
def attnStream : Stream := { kind := 2, keyFmt := 1, valFmt := 1, pages := [(0, 2 ^ 56)] }

/-- QK, PV and APPEND of one token at its span, with its page at hand. -/
theorem test_attention_ready :
    let s := fun (op : Nat) => atBlock (wordA op wA) (attnBytes 0xFFFF) attnStream [2 ^ 56, 2 ^ 56 + ({ kf := 1, vf := 1, d := 16 } : PageShape).vd]
    let c := fun (op : Nat) => (s op).coreOf 0 0
    let x := ((s 0x23).job 0).attnCmd (c 0x23) ((((s 0x23).job 0).image.sec 0).attnBlk 3)
    (s 0x21).atInsn 0 0 (wordA 0x21 wA) ∧ attnReady (s 0x21) true 0 wA ((s 0x21).job 0) (c 0x21) ∧
    (s 0x21).goesOn 0 0 (attnDone (s 0x21) true 0 wA ((s 0x21).job 0) (c 0x21)) ∧
    attnReady (s 0x22) false 0 wA ((s 0x22).job 0) (c 0x22) ∧
    (s 0x22).goesOn 0 0 (attnDone (s 0x22) false 0 wA ((s 0x22).job 0) (c 0x22)) ∧
    x.queryTokens = 1 ∧ (s 0x23).goesOn 0 0 (x.append ((s 0x23).job 0) (x.tabled (c 0x23))) := by
  refine ⟨atInsn_of_stands _ _ (by decide +kernel), ⟨?_, ?_, ?_, ?_, ?_, .inr ?_⟩, goesOn_of_ran _ _ ?_ ?_,
    ⟨?_, ?_, ?_, ?_, ?_, .inr ?_⟩, goesOn_of_ran _ _ ?_ ?_, ?_, goesOn_of_goes _ _ ?_⟩
  all_goals first | (intro h; exact absurd (congrArg List.length h) (by decide +kernel)) | decide +kernel

/-- A stream without pages gives no vector; a visiting page of another format, in the list of tensor 0, is refused. -/
theorem test_attention_turned_away :
    let s := fun (st : Stream) (vis : Nat) => atBlock (wordA 0x21 wA) (attnBytes vis) st []
    let x := fun (s : State) => (s.job 0).attnCmd (s.coreOf 0 0) (((s.job 0).image.sec 0).attnBlk 3)
    (x (s {} 0xFFFF)).vectors.length = 0 ∧ (x (s {} 0xFFFF)).queryTokens = 0 ∧ (x (s attnStream 0)).vectors.length = 1 ∧
    (x (s attnStream 0)).ownSpans = 1 ∧ (x (s attnStream 0)).badVisitor 1 = true := by decide +kernel

/-- A convolution control block of a 1 × 1 kernel on one channel and one row of tensor 0. -/
def convBytes (fconv : Bool) : List Nat :=
  [1, 1, 1, 1, 1, 1, 0, 0] ++ List.replicate 8 0 ++ [1, 0, 1, 0, 0, 0, 0, 0, 0, 0, 0, 0, 1, 0, 1, 0] ++
    [64, 0, 0, 0, 64, 0, 0, 0, 64, 0, 0, 0, 64, 0, 0, 0] ++ (if fconv then List.replicate 8 0 ++ [1] else List.replicate 4 0xFF ++ [0, 0, 0, 0, 0]) ++
    List.replicate 7 0

/-- A CONV of one pixel and an FCONV of one tile may run at once, and go on. -/
theorem test_convolution_ready :
    let s := atBlock (wordA 0x24 wA) (convBytes false) {} [65536]
    let t := atBlock (wordA 0x25 wA) (convBytes true) {} [65536]
    s.atInsn 0 0 (wordA 0x24 wA) ∧ convReady s 0 wA (s.job 0) (s.coreOf 0 0) ∧
    s.goesOn 0 0 (convDone s 0 wA (s.job 0) (s.coreOf 0 0)) ∧ t.atInsn 0 0 (wordA 0x25 wA) ∧
    fconvReady t 0 wA (t.job 0) (t.coreOf 0 0) ∧ t.goesOn 0 0 (fconvDone t 0 wA (t.job 0) (t.coreOf 0 0)) := by
  refine ⟨atInsn_of_stands _ _ (by decide +kernel), ⟨?_, ?_, ?_, ?_, ⟨?_, ?_, ?_⟩, ?_, ?_, .inr ?_⟩, goesOn_of_ran _ _ ?_ ?_,
    atInsn_of_stands _ _ (by decide +kernel), ⟨?_, ?_, ?_, ?_, ?_, ?_, .inr ?_⟩, goesOn_of_ran _ _ ?_ ?_⟩
  all_goals first | (intro h; exact absurd (congrArg List.length h) (by decide +kernel)) | decide +kernel

/-- A SCAN of one row may run at once and goes on; one whose channels are above a limit of its tensor is over its plan. -/
theorem test_scan_ready :
    let blk := [1, 0, 1, 0] ++ List.replicate 20 0 ++ [9, 9, 0, 0, 0, 0, 0, 0]
    let st : Stream := { kind := 1, statePtr := 2 ^ 56, stateFmt := 9 }
    let s := atBlock (wordA 0x30 wA) blk st [2 ^ 56, 65536]
    let j := s.job 0
    let wide := { j with image := { j.image with limits := [⟨0, 2, 0⟩] } }
    s.atInsn 0 0 (wordA 0x30 wA) ∧ scanReady s 0 wA j (s.coreOf 0 0) ∧
    s.goesOn 0 0 ((scanOf 0 wA j).run 0 (scanRows 0 (j.batchRows (s.coreOf 0 0))) j (s.coreOf 0 0)) ∧
    (scanOf 0 wA wide).overPlan wide.image (wide.batchRows (s.coreOf 0 0)) = true := by
  refine ⟨atInsn_of_stands _ _ (by decide +kernel), ⟨?_, ?_, ?_⟩, goesOn_of_goes _ _ ?_, ?_⟩
  all_goals first | (intro h; exact absurd (congrArg List.length h) (by decide +kernel)) | decide +kernel

/-- A POOL whose control block lies at 64 in the block data may run; at 128 there is none. -/
theorem test_pool_ready :
    let g := { zV with type := 1, src1 := 1, dst := 2, src3 := 3 }
    let core : Core := { coreWith [4096, 8192, 64] with scratch := pad 64 (convBytes false) }
    let s := running { blockJob (wordV 0x82 g) [] {} [] with run := { cores := [(0, core)] } }
    let j := { s.job 0 with image := { (s.job 0).image with
      cores := (s.job 0).image.cores.map (fun e => (e.1, { e.2 with blockLen := 112, regions := [{ off := 0, size := 128 }] })) } }
    poolReady 0 g j core ∧ j.poolBlockOk 0 1 core 128 = false := by
  refine ⟨⟨?_, ?_, ?_, ?_, ?_, ?_⟩, ?_⟩ <;> decide +kernel

/-- An array out of use ramps up, waits behind four others, and begins when a ramp ends; an idle one ramps down. -/
theorem test_ramps :
    let go := fun (j : Job) (c : Core) => ({ job := j, core := c } : Done)
    let up : Core := { ramping := true }
    let j := fun (n : Nat) => ({ run := { cores := (0, {}) :: (List.range n).map (fun k => (k + 1, up)) } } : Job)
    let w := running { jobAt 0 { coreWith [] with wait := .ramp } with run := { cores := [(0, { wait := .ramp }), (1, up)] } }
    (j 4).run.ramping 0 = 4 ∧ (j 3).run.ramping 0 = 3 ∧ w.onFawn 0 = false ∧
    (match rampUp 0 (j 4) {} go with | .wait .ramp _ => true | _ => false) = true ∧
    (match rampUp 0 (j 3) {} go with | .done d => d.ramp && d.core.groupsOn == 8 | _ => false) = true ∧
    w.working 0 = some 0 ∧ (w.coreOf 0 0).wait = .ramp ∧ ((after (.arrayRampWaitEnd 0) w).coreOf 0 0).ramping = true ∧
    ((((w.job 0).run.cores.filter (fun e => e.1 / 16 == 0 / 16)).find? (fun e => e.2.ramping)).map (·.1)) = some 1 ∧
    ((after (.arrayIdleRampDown 1) w).coreOf 0 1).ramping = false := by decide +kernel

/-- The tally that the check cells compare is the column sum (R84). -/
theorem test_tally : tallySum [2, 3] [5, 7] = 31 := by decide

/-! ## Browse and issue: R216, R219 -/

/-- A browse of one row of 8 B, whose index is 2, with row 2 of tensor 0 at 65552, at a core that has read some requests. -/
def zBrowse : FmtB := { zB with rowbytes := 8, rows := 1, base := 2, data := 3, idx := 4, stride := 8 }

def browsing (op : Nat) (c : Core) : State :=
  let j := jobAt (wordB op zBrowse) { c with scratch := pad 0 [2] }
  running { j with image := { j.image with tensors := [{ pages := 1, addr := 65536 }] }, run := { j.run with mem := pad 65552 [0x77] } }

/-- Each browse instruction of one position whose row is at hand issues nothing and goes on; with its row away BGATHER waits. -/
theorem test_browse :
    let c := { coreWith [4, 65536, 256, 0] with arrived := [0] }
    let ready := fun (op : Nat) =>
      let s := browsing op c
      let b := browseCmd op zBrowse (s.coreOf 0 0) 1
      stands s (wordB op zBrowse) && decide (b.firstFault 0 (s.job 0) (s.coreOf 0 0) = none) &&
      (b.issue s 0 0 (s.coreOf 0 0)).1.misses.isEmpty && goes s (b.run 0 (s.job 0) (s.coreOf 0 0))
    let away := browsing 0x90 (coreWith [4, 65536, 256, 0])
    fmtBOk zBrowse = true ∧ ready 0x90 = true ∧ ready 0x91 = true ∧ ready 0x92 = true ∧
    runCount (coreWith [0, 9]) 1 1 = some 0 ∧ runCount (coreWith [0, 9]) 2 1 = none ∧
    ((after (.bgather 0 zBrowse) away).coreOf 0 0).misses.length = 1 ∧
    ((after (.bgather 0 zBrowse) away).coreOf 0 0).wait = .browse := by decide +kernel

/-- The miss of a BGATHER that its hub may answer returns, and is noted at its core. -/
theorem test_browse_miss_returns :
    let m : Miss := { no := 0, thread := 0, chan := 0, data := 0 }
    let s := browsing 0x90 { coreWith [4, 65536, 256, 0] with wait := .browse, misses := [m] }
    (s.coreOf 0 0).wait = .browse ∧ (s.coreOf 0 0).misses[0]? = some m ∧ s.mayAnswer 0 (.miss 0 0) 3 = false ∧
    (let r := s.setJob 0 { s.job 0 with image := { (s.job 0).image with regs := List.replicate 9 { flags := 1, ceiling := 1024, window := 10240 } } }
     r.mayAnswer 0 (.miss 0 0) 3 = true ∧ ((after (.browseMissReturn 0 0) r).coreOf 0 0).arrived = [0] ∧
     ((after (.browseMissReturn 0 0) r).coreOf 0 0).wait = .run) := by decide +kernel

/-- ISSUE writes 2 where its predicate fails, 0 with 4,096 commands outstanding, 1 otherwise, and faults at a body off 64 B. -/
theorem test_issue :
    let f := { zI with res := 5, pred := 6, caddr := 1, desc := 2, cmd := 0x13 }
    let q : QCmd := { uid := 0, cmd := { cmdOf 0x13 with dev := true } }
    let s := fun (pred body : Nat) (qs : List QCmd) =>
      let j := jobAt (wordI 0xA0 f) (coreWith [65536, body, 0, 0, 0, pred])
      running { j with image := { j.image with tensors := [{ pages := 1, addr := 65536 }] }, run := { j.run with queue := qs } }
    let go := fun (t : State) => (((after (.issue 0 f) t).coreOf 0 0).reg 5, ((after (.issue 0 f) t).job 0).run.queue.length)
    fmtIOk f = true ∧ (s 0 0 []).mayIssue 0 = some 0 ∧ ((s 0 0 []).job 0).mapped 65536 32 = true ∧
    go (s 0 0 []) = (2, 0) ∧ go (s 1 64 []) = (1, 1) ∧
    ((after (.issue 0 f) (s 1 8 [])).job 0).fault = some { core := 0, insn := 0, lane := 0, addr := 8 } ∧
    go (s 1 0 (List.replicate 4096 q)) = (0, 4096) := by decide +kernel
/-! ## Jobs: chapter 11 -/

/-- A machine with a job of slot 0 in some state, whose driver lies in sapwood's window. -/
def inState (i : JobInfo) (run : JobRun) : State :=
  let s := withJob { info := i, run }
  { s with fw := { s.fw with sapwood := some { version := 3, svn := 0, lo := 1, hi := 9, measure := 0 } }
           portA := { s.portA with driver := 9 } }

/-- The same, with the job on the device. -/
def onDevice (i : JobInfo) (run : JobRun) : State := { inState i run with sched := { running := some 0 } }

theorem test_start_queues_job :
    let c := cmdOf 0x02
    let s := inState { state := .armed } {}
    let p := inState { state := .paused } {}
    let old := { s with portA := { s.portA with driver := 10 } }
    s.schedServes = true ∧ s.versionOk .a = true ∧ old.versionOk .a = false ∧ s.slotOf 1 = some 0 ∧
    commitInterval c.desc.w32 = some 250 ∧ ((after (.jobStart c) s).job 0).info.queued = true ∧
    ((after (.jobResume (cmdOf 0x04)) p).job 0).info.yieldUs = 10000 ∧ ((after (.jobStart c) old).job 0).info.queued = false := by
  decide +kernel

theorem test_pause_command :
    let c := { cmdOf 0x03 with desc := { (cmdOf 0x03).desc with flags := 1 } }
    let p : Pausing := { forced := false, cause := 3, yields := true, bounded := false, cmds := [], status := 0, tag := 0 }
    let s := fun (st : JobState) => onDevice { state := st } {}
    let r := { s .pausing with sched := { running := some 0, pausing := some p } }
    (s .running).schedServes = true ∧ (s .running).slotOf 1 = some 0 ∧ ((after (.jobPause c) (s .running)).job 0).info.state = .pausing ∧
    ((after (.jobPause (cmdOf 0x03)) (s .running)).sched.pausing.map (·.cause)) = some 1 ∧
    ((after (.jobPause c) r).sched.pausing.map (fun q => (q.forced, q.cause))) = some (true, 3) ∧
    ((after (.jobPause c) (inState { state := .armed, queued := true } {})).job 0).info.queued = false := by decide +kernel

theorem test_job_ends :
    let c := cmdOf 0x05
    let s := fun (st : JobState) => onDevice { state := st } { sems := [(1, 1)] }
    let e := { s .running with sched := { running := some 0, ending := [(0, c)] } }
    (s .paused).slotOf 1 = some 0 ∧ ((after (.jobEnd c) (inState { state := .paused } {})).job 0).info.state = .ending ∧
    (after (.jobEnd c) (s .running)).sched.ending = [(0, c)] ∧
    e.sched.ending.find? (fun x => x.1 == 0) = some (0, c) ∧ ((after (.jobEndTakesEffect 0) e).job 0).run = {} ∧
    (after (.jobEndTakesEffect 0) e).sched.running = none := by decide +kernel

theorem test_job_settings :
    let w : W64 := 5
    let c := { cmdOf 0x08 with desc := { (cmdOf 0x08).desc with w8 := w, w16 := 1 } }
    let a := { cmdOf 0x07 with port := .b, desc := { (cmdOf 0x07).desc with w8 := w, w16 := 1 } }
    let bad := { a with desc := { a.desc with w8 := 6 } }
    let s := onDevice { state := .running, token := 2 ^ 64 + 5 } {}
    let gone := { s with portA := { s.portA with hosted := true, linkUp := false }, portB := { s.portB with driver := 9 } }
    (after (.commit (cmdOf 0x06)) s).sched.seekCommit = some false ∧
    ((after (.jobSetToken c) (onDevice { state := .running } {})).job 0).info.token = 2 ^ 64 + 5 ∧
    gone.versionOk .b = true ∧ (gone.port .a).absentNow = true ∧ ((after (.jobAdopt a) gone).job 0).info.owner = .b ∧
    ((after (.jobAdopt bad) gone).job 0).info.owner = .a := by decide +kernel

/-- A JOB_LOAD takes slot 0 of an empty module; an image of zeros is refused and leaves the slot EMPTY. -/
theorem test_load_and_refused_firing :
    let c := { cmdOf 0x01 with desc := { (cmdOf 0x01).desc with w16 := 64 } }
    let s := inState {} {}
    let l := inState { state := .loading, loadCmd := some c } {}
    s.jobs.findIdx (fun j => !j.info.state.loaded) = 0 ∧ ((after (.jobLoad c) s).job 0).info.state = .loading ∧
    (l.fireVerdict 0 1 c).isSome = true ∧ (l.job 0).info.loadCmd = some c ∧
    ((after (.firingDone 0) l).job 0).info.state = .empty := by decide +kernel

theorem test_run_queue_and_restore :
    let s := inState { state := .armed, queued := true, prio := 3 } {}
    let two := { s with jobs := s.jobs.set 1 { info := { state := .armed, queued := true, prio := 3, qTime := 4 } } }
    let r := onDevice { state := .resuming } { pgt := [(1, 2)] }
    s.sched.running = none ∧ two.nextJob = some 0 ∧ (after .jobRunSelect two).sched.running = some 0 ∧
    (r.jobs.all (fun x => !x.info.wbPending)) = true ∧ ((after .resumeDone r).job 0).info.state = .running ∧
    ((after .resumeDone r).job 0).stage = [(1, 2)] := by decide +kernel

theorem test_yields_and_pauses :
    let p : Pausing := { forced := false, cause := 3, yields := true, bounded := true, cmds := [], status := 0, tag := 0 }
    let s := onDevice { state := .running, slice := 5, prio := 1 } {}
    let q := { s with jobs := s.jobs.set 1 { info := { state := .armed, queued := true, prio := 1 } } }
    let y := { onDevice { state := .pausing } {} with sched := { running := some 0, pausing := some p } }
    q.mayRun 1 = true ∧ ((after .timeSliceExpired q).job 0).info.state = .pausing ∧ y.fits 0 = true ∧
    ((after .yieldBoundExpired y).sched.pausing.map (·.forced)) = some true ∧
    ((after .pauseBoundExpired y).sched.pausing.map (·.forced)) = some true ∧
    (y.job 0).atPoint false = true ∧ ((after .pausePointReached y).job 0).info.state = .paused ∧
    ((after .pausePointReached { y with sched := { y.sched with ending := [(0, cmdOf 0x05)] } }).job 0).info.state = .pausing ∧
    ((after .writebackDone (after .pausePointReached y)).job 0).info.wbPending = false := by decide +kernel

theorem test_commit_point :
    let s := onDevice { state := .running, journal := 12 * 2 ^ 30 } { sems := [(1, 1)] }
    let k := fun (f : Bool) => { s with sched := { running := some 0, seekCommit := some f } }
    3 * journalSize ≤ 4 * (s.job 0).journalBytes ∧ (after .commitIntervalExpired s).sched.seekCommit = some false ∧
    (after .journalThreeQuarters s).sched.seekCommit = some false ∧ (after .commitBedTimeout (k false)).sched.seekCommit = some true ∧
    (s.job 0).atPoint true = true ∧ ((after .commitPointReached (k true)).job 0).info.commitSeq = 1 := by decide +kernel

theorem test_second_summaries :
    let s := { onDevice { state := .running } {} with sched := { running := some 0, batchesSec := 1, secJob := some 0 } }
    (after .saturated s).health.logCount = 1 ∧ (after .prefetchLateSummary s).health.logCount = 0 ∧
    (after .bankStallSummary s).health.logCount = 0 := by decide +kernel

/-! ## Streams, batches and copies: chapters 4, 7 and 10 -/

/-- A running job that has streams 0 to 9 and tensor 0 of two pages. -/
def streamJob (run : JobRun) : State :=
  let s := onDevice { state := .running } run
  s.setJob 0 { s.job 0 with image := { sliceFirst := 0, sliceCount := 10, tensors := [{ fmt := 9, pages := 2, addr := 65536 }] } }

/-- A command with the words of its descriptor. -/
def words (op : Nat) (w8 w16 w24 : Nat) : Cmd :=
  { cmdOf op with desc := { (cmdOf op).desc with w8 := BitVec.ofNat 64 w8, w16 := BitVec.ofNat 64 w16, w24 := BitVec.ofNat 64 w24 } }

/-- A PRUNE of a stream of the slice may be dispatched; one outside it is refused whole. -/
theorem test_stream_commands_dispatch :
    let s := streamJob {}
    let go := fun (c : Cmd) => (((s.job 0).enqueue c).run.queue.getLast?.bind ((s.job 0).enqueue c).dispatchRefusal,
      ((after (.prune c) s).job 0).run.queue.length)
    (Instr.prune (words 0x13 9 0 0), 0x13) ∈ streamCommands (words 0x13 9 0 0) ∧ (s.job 0).info.id = 1 ∧
    go (words 0x13 9 0 0) = (none, 1) ∧ go (words 0x13 10 0 0) = (some 0x0203, 0) := by decide +kernel

/-- Every stream command may be dispatched; a device-issued one behind another on its stream waits, as an import from the host does
while its port is absent. -/
theorem test_every_stream_command :
    let s := streamJob {}
    let go := fun (c : Cmd) => (((s.job 0).enqueue c).run.queue.getLast?.map (((s.job 0).enqueue c).dispatchRefusal))
    let imp := words 0x15 3 65536 (4096 + 2 ^ 48)
    let imp := { imp with desc := { imp.desc with w40 := 65536 } }
    let gone := { s with portA := { s.portA with hosted := true, linkUp := false } }
    let ahead := streamJob { queue := [{ uid := 0, cmd := words 0x13 9 0 0, refs := [(9, 0)] }], uidNext := 1 }
    let dev := { words 0x13 9 0 0 with dev := true, seq := 8 }
    let out := words 0x16 3 4096 4096
    let conf := s.setJob 0 { s.job 0 with info := { (s.job 0).info with confidential := true } }
    go (words 0x12 3 65536 1) = some none ∧ go (words 0x14 3 65536 4096) = some none ∧ go (words 0x16 3 4096 4096) = some none ∧
    go (words 0x17 3 0 0) = some none ∧ go imp = some none ∧ (gone.port .a).absentNow = true ∧
    ((after (.importState imp) gone).job 0).run.queue.map (·.phase) = [0] ∧
    ((after (.prune dev) ahead).job 0).run.queue.map (·.phase) = [0, 0] ∧ usesHost out.desc = true ∧
    (conf.port .a).session.up = false ∧ ((after (.swapOut out) conf).job 0).run.queue.map (·.phase) = [0] := by
  refine ⟨?_, ?_, ?_, ?_, ?_, ?_, ?_, ?_, ?_, ?_, ?_⟩ <;> decide +kernel

/-- No batch while a commit point is sought, nor of a job that is not RUNNING; with nothing queued nothing forms. -/
theorem test_batch_forms :
    let s := streamJob {}
    let seek := { s with sched := { running := some 0, seekCommit := some false } }
    s.health.replay = none ∧ seek.sched.seekCommit ≠ none ∧ ((onDevice { state := .pausing } {}).job 0).info.state ≠ .running ∧
    s.sched.seekCommit = none ∧ ((after .batchForm s).job 0).run.batches = [] := by decide +kernel

/-- An advance of 2 tokens of an attention stream, and a CLOSE. -/
theorem test_advance_commits :
    let w : Row := { stream := 3, tokens := 2, seq := 8, st := { kind := 2, length := 5, stepCount := 9, gen := 65535 } }
    let e := ((({ streams := [(3, { kind := 2 })] } : JobRun).commitRow w).stream 3)
    (e.length, e.stepCount, e.committed) = (7, 11, 8) ∧
    ((({} : JobRun).commitRow { w with isClose := true }).stream 3).gen = 0 := by decide +kernel

/-- A job whose oldest batch holds one rider of stream 3. -/
def ridden (e : Stream) (x : QCmd) : State :=
  streamJob { streams := [(3, e)], queue := [x], batches := [{ id := 0, riders := [5] }] }

/-- A rider of stream 3. -/
def rider (c : Cmd) (kids : List Nat) : QCmd := { uid := 5, cmd := c, phase := 2, refs := [(3, 0)], kids, made := { kind := 2, length := 7 } }

/-- A batch of one PRUNE, one SWAP_OUT of a stream on its way, one FORK of a child, one EXPORT_STATE that moves, one IMPORT_STATE;
the batch is over. -/
theorem test_riders_commit :
    let e : Stream := { kind := 2, depth := 1 }
    let away : Stream := { e with loc := .moving, awayAddr := 4096, awaySize := swapSize 0 0 }
    let run := fun (e : Stream) (x : QCmd) => (((ridden e x).job 0).commitBatch { id := 0, riders := [5] } []).run
    let out := rider (words 0x16 3 4096 4096) []
    let exp := { words 0x14 3 0 65536 with desc := { (words 0x14 3 65536 65536).desc with w40 := 1 } }
    let r := (ridden e out).job 0
    (r.batchOver { id := 0, riders := [5] } = true ∧ r.run.findQ 5 = some out ∧ (ridden e out).journalFull 0 = false) ∧
    ((run e (rider (words 0x13 3 0 0) [])).stream 3) = { gen := 1 } ∧
    (((run away out).stream 3).loc = .cold ∧ ((run away out).publish.map (·.count)) = [1]) ∧
    ([4].Nodup ∧ ((r.run.commitFork (rider (words 0x12 3 0 1) [4]) 3).stream 4).depth = 2) ∧
    (e.recordSize ≤ exp.desc.w24.toNat ∧ ((run e (rider exp [])).stream 3).loc = .exported) ∧
    ((run {} (rider (words 0x15 3 0 0) [])).stream 3).length = 7 := by
  refine ⟨⟨?_, ?_, ?_⟩, ?_, ⟨?_, ?_⟩, ⟨?_, ?_⟩, ⟨?_, ?_⟩, ?_⟩ <;> decide +kernel

/-- A SWAP_OUT with room makes its stream MOVING as it settles; one with too little room, or off the grid, leaves it. -/
theorem test_swap_out_settles :
    let e : Stream := { kind := 2 }
    let r : JobRun := { streams := [(3, e)] }
    let put := fun (w16 w24 : Nat) => (settleSwapOut r (rider (words 0x16 3 w16 w24) []) 3).stream 3
    ((put 4096 4096).loc, (put 4096 4096).awayAddr) = (.moving, 4096) ∧ (put 4096 4095) = e ∧ (put 64 4096) = e := by decide +kernel

/-- A batch over which a core of the LAST stage still works does not commit. -/
theorem test_batch_waits :
    let s := streamJob { cores := [(0, { batch := some 0 })], batches := [{ id := 0, rows := [(1, 0)] }] }
    let s := s.setJob 0 { s.job 0 with image := { (s.job 0).image with stages := [{ flags := 2 }], clusters := [(0, { map := [0] })] } }
    (s.job 0).batchOver { id := 0, rows := [(1, 0)] } = false ∧ ((after .batchCommit s).job 0).run.batches ≠ [] := by decide +kernel

/-- One CHUNK of a live stream in peat waits: the next batch holds it. -/
theorem test_chunk_forms :
    let q : QCmd := { uid := 6, cmd := words 0x11 3 0 0, phase := 1, rows := [{ stream := 3, tokens := 2 }] }
    let s := streamJob { streams := [(3, { kind := 1, statePtr := 65536 })], queue := [q] }
    let s := s.setJob 0 { s.job 0 with image := { (s.job 0).image with extent := 2 } }
    2 ≤ (s.job 0).image.extent ∧ (s.job 0).run.forked ((s.job 0).run.stream 3) = false ∧
    s.journalFull 0 = false ∧
    (formNext (s.job 0) (s.job 0).run).2.map (·.rows) = some [(6, 0)] := by decide +kernel

/-- A machine whose job lacks the first unit of its tensor and of the pool. -/
def missing (s : State) : State := s.setJob 0 { s.job 0 with lost := [16, 2 ^ 44] }

/-- What would read or write withheld data waits: a PRUNE of a list, a PARAM_GROUP_WRITE, an export's rider, a batch that copies a
block, a publication of part of the unit. -/
theorem test_withheld_waits :
    let list := { words 0x13 65536 1 0 with desc := { (words 0x13 65536 1 0).desc with flags := 1 } }
    let write := words 0x18 65536 1 0
    let e : Stream := { kind := 1, statePtr := poolBase, stateSize := 1, promise := 4 }
    let ended := missing (ridden e (rider (words 0x14 3 0 65536) []))
    let b : Batch := { id := 0, riders := [5] }
    let q : QCmd := { uid := 6, cmd := words 0x11 3 0 0, phase := 1, rows := [{ stream := 3, tokens := 2 }] }
    let two := missing (streamJob { streams := [(3, e), (4, e)], queue := [q], vaNext := 1 })
    let two := two.setJob 0 { two.job 0 with image := { (two.job 0).image with extent := 2 } }
    let f := (formNext (two.job 0) (two.job 0).run).1
    let p : Publication := { cmd := cmdOf 0x20, writes := [(Space.job, 65536, [1])] }
    let waits := fun (i : Instr) => ((after i (missing (streamJob {}))).job 0).run.queue.map (·.phase)
    (((missing (streamJob {})).job 0).readsWait (descReads list.desc) = true ∧ waits (.prune list) = [0]) ∧
    (((missing (streamJob {})).job 0).readsWait (descReads write.desc) = true ∧ waits (.paramGroupWrite write) = [0]) ∧
    ((ended.job 0).batchOver b = true ∧ ended.journalFull 0 = false ∧
      (ended.job 0).readsWait ((ended.job 0).run.riderRanges b 0x14 ++ (ended.job 0).run.riderRanges b 0x16) = true ∧
      (after .batchCommit ended).job 0 = ended.job 0) ∧
    ((formNext (two.job 0) (two.job 0).run).2.map (fun b => (two.job 0).readsWait (b.rows.flatMap f.run.copySources)) = some true ∧
      (after .batchForm two).job 0 = two.job 0) ∧
    (p.meetsLost ((missing (streamJob {})).job 0) = true ∧
      ((after (.commandPublish 0) (missing (streamJob { publish := [p] }))).job 0).run.publish = [p]) := by
  refine ⟨⟨?_, ?_⟩, ⟨?_, ?_⟩, ⟨?_, ?_, ?_, ?_⟩, ⟨?_, ?_⟩, ⟨?_, ?_⟩⟩ <;> decide +kernel

/-- A COLD stream whose buffer holds the image becomes RESIDENT; one whose buffer differs in its first byte stays COLD; the move waits
behind an absent port. -/
theorem test_stream_moves :
    let e : Stream := { kind := 2, loc := .moving, cameFrom := .cold, awaySize := 1 }
    let s := fun (m : NMap Byte) =>
      let t := streamJob { streams := [(3, e)] }
      { t with portA := { t.portA with hostMem := m } }
    let image := memWrite [] 0 (Config.swapImage ([] ++ ([] : List (Nat × List Byte)).flatMap (·.2)))
    memRead ((s image).port .a).hostMem 0 (hostSize false 1) = ((s image).job 0).swapStored e ∧
    memRead ((s (memPut [] 0 (memGet image 0 + 1))).port .a).hostMem 0 (hostSize false 1) ≠
      ((s image).job 0).swapStored e ∧ ((s []).port .a).absentNow = false ∧
    ((s []).job 0).run.publish = [] ∧
    let gone := { s [] with portA := { (s []).portA with hosted := true, linkUp := false } }
    let out := streamJob { streams := [(3, e)], publish := [{ cmd := words 0x16 3 0 0, streams := [3] }] }
    let come := streamJob { streams := [(3, { e with cameFrom := .peer, room := 1 })] }
    (gone.port .a).absentNow = true ∧ ((after (.streamMoveDone 3) gone).job 0).run.stream 3 = e ∧
    ((after (.streamMoveDone 3) out).job 0).run.stream 3 = e ∧ ((after (.streamMoveDone 3) come).job 0).run.stream 3 =
      { e with cameFrom := .peer, room := 1 } := by
  refine ⟨rfl, fun h => ?_, rfl, rfl, by decide +kernel, by decide +kernel, by decide +kernel, by decide +kernel⟩
  have h0 := (List.cons.inj h).1
  have h1 := memGet_memPut_same [] 0
    (memGet (memWrite [] 0 (Config.swapImage ([] ++ ([] : List (Nat × List Byte)).flatMap (·.2)))) 0 + 1) rfl
  exact absurd (h1.symm.trans h0) (by simp)

/-- The header of a record of 256 bytes, and the record with its digest. -/
def peerHead : List Byte := leBytes 16 0 ++ leBytes 8 256 ++ leBytes 184 0
def peerRecord : List Byte := peerHead ++ leBytes 48 (Config.sha3 (peerHead ++ leBytes 48 0)).toNat

/-- A record that has come from a PEER: whole and of the right digest, or larger than the buffer it came from. -/
theorem test_peer_moves :
    let e : Stream := { kind := 2, loc := .moving, cameFrom := .peer, awaySize := 256, room := 256, peerBuf := peerRecord }
    let s := fun (e : Stream) => streamJob { streams := [(3, e)] }
    min e.awaySize e.room ≤ e.peerBuf.length ∧ bodyOk e.peerBuf e.room = true ∧ bodyOk e.peerBuf 255 = false ∧
    (((after (.streamMoveDone 3) (s { e with room := 255 })).job 0).run.stream 3).loc = .peer := by
  have hl : peerHead.length = 208 := by decide +kernel
  have hr : peerRecord.length = 256 := by decide +kernel
  have hs : headWord peerRecord 16 8 = 256 := by decide +kernel
  have hw : peerRecord.take 256 = peerRecord := List.take_of_length_le hr.le
  have h1 : peerRecord.take 208 = peerHead := List.take_left' hl
  have h2 : peerRecord.drop 256 = [] := List.drop_eq_nil_of_le hr.le
  have h3 : (peerRecord.drop 208).take 48 = leBytes 48 (Config.sha3 (peerHead ++ leBytes 48 0)).toNat := by
    rw [peerRecord, List.drop_left' hl]
    exact List.take_of_length_le (by decide +kernel)
  refine ⟨by decide +kernel, ?_, by decide +kernel, by decide +kernel⟩
  simp [bodyOk, hs, hw, h1, h2, h3, hr]

/-- A list of one entry of a group that cluster 0 has, and an empty one. -/
theorem test_parameter_publication :
    let c := words 0x18 65536 1 0
    let i : Image := { tensors := [{ fmt := 9, pages := 2, addr := 65536 }], clusters := [(0, { pgt := 1 })] }
    let s := let s := onDevice { state := .running } {}
      s.setJob 0 { s.job 0 with image := i, run := { mem := pad 65536 [1, 0, 0, 0, 0, 1, 0, 0, 7] } }
    (s.job 0).mapped 65536 48 = true ∧ i.entriesOk 1 (memRead (s.job 0).run.mem 65536 48) = true ∧
    ((after (.paramGroupWrite c) s).job 0).run.publish.length = 1 ∧ ((after (.paramGroupWrite c) s).job 0).run.pgt ≠ [] ∧
    ((after (.paramGroupWrite (words 0x18 65536 0 0)) s).job 0).run.pgt = [] := by decide +kernel

/-- A COPY_IN of 64 B at the end of the tensor, and a COPY_OUT that leaves it; of a confidential job the host's zeros are no records, and
a COPY_OUT may go in a session and waits without one. -/
theorem test_copies :
    let s := let s := streamJob {}
      { s with portA := { s.portA with hostMem := pad 128 [5] } }
    let conf := fun (up : Bool) => let t := s.setJob 0 { s.job 0 with info := { (s.job 0).info with confidential := true } }
      { t with portA := { t.portA with session := { up, keyD2h := 7 } } }
    let out := words 0x21 65536 128 64
    let p := fun (i : Instr) => ((after i s).job 0).run.publish.map (fun p => (p.status, p.writes.length))
    let p' := fun (s : State) (c : Cmd) => ((after (.copyOut c) s).job 0).run.publish.map (fun p => (p.status, p.writes.map (·.1)))
    (s.readHost 0 .a 128 64).isSome = true ∧ (conf true).readHost 0 .a 128 64 = none ∧
    (conf true).noSlot 0 (fun _ x => x.hubLines false 5 2 65536 64) = false ∧ ((conf true).port .a).session.up = true ∧
    p' (conf false) out = [] ∧
    s.noSlot 0 (fun _ x => x.hubLines false 5 2 65536 64) = false ∧ ((s.job 0).withheld 65536 64) = false ∧
    (s.job 0).withheld 196544 64 = false ∧ (s.job 0).info.owner = .a ∧ p (.copyIn (words 0x20 196544 128 64)) = [(0, 1)] ∧
    (s.job 0).mapped 196544 64 = true ∧ p (.copyOut (words 0x21 196608 128 64)) = [(0x0203, 0)] ∧
    p (.copyIn (words 0x20 65536 128 0)) = [(1, 0)] := by decide +kernel

/-- The first of two finished commands publishes. -/
theorem test_publication :
    let p : Publication := { cmd := cmdOf 0x13 }
    let s := onDevice { state := .running, outstanding := [cmdOf 0x13] } { publish := [p, { p with count := 1 }] }
    s.behindAbsent p = false ∧ s.outputsBlocked 0 p = false ∧ p.meetsLost (s.job 0) = false ∧ (s.job 0).run.publish[0]? = some p ∧ p.cmd ∈ (s.job 0).info.outstanding ∧
    ((after (.commandPublish 0) s).job 0).run.publish = [{ p with count := 1 }] ∧
    ((after (.commandPublish 0) s).job 0).info.outstanding = [] := by decide +kernel

/-- A decode whose context at 0x10000 is in order, with an engine free and with none; one off its grid; a command that waits; an
encode that loads its last window. -/
theorem test_codec_commands :
    let c := { words 0x40 65536 131072 (16 + 2 ^ 32 + 2 ^ 48) with
      desc := { (words 0x40 65536 131072 (16 + 2 ^ 32 + 2 ^ 48)).desc with flags := 1, w32 := 131072, w40 := 131136 } }
    let m := pad 65536 [2, 0, 9, 0, 0, 0]
    let s := streamJob { mem := m }
    let full := { s with codecs := List.replicate 16 { busy := some 0 } }
    let q : QCmd := { uid := 4, cmd := c, phase := 1 }
    let w := streamJob { queue := [{ q with phase := 2 }] }
    let l := { w with codecs := w.codecs.set 15 { busy := some 4, loads := 2 } }
    (s.job 0).codecRefusal c.desc = none ∧ (s.job 0).codecRefusal { c.desc with w8 := 65537 } = some 0x0203 ∧
    s.freeEngine = some 0 ∧ full.freeEngine = none ∧ ((after (.codecDecode c) full).job 0).run.queue.length = 1 ∧
    q.isCodec = true ∧ (streamJob { queue := [q] }).freeEngine = some 0 ∧ (l.job 0).run.findQ 4 = some { q with phase := 2 } ∧
    ((after (.codecWindowLoaded 15) l).codecs.getD 15 {}).loads = 1 := by decide +kernel

/-- An encode that needs no window, on a free engine; a waiting codec command finds its engine. -/
theorem test_codec_queue :
    let enc := words 0x41 65536 131072 16
    let s := streamJob { queue := [{ uid := 4, cmd := { enc with desc := { enc.desc with opcode := 0x40 } }, phase := 1 }] }
    s.freeEngine = some 0 ∧ (s.job 0).lost = [] ∧ ((s.job 0).run.queue.find? (s.job 0).run.codecReady).isSome = true ∧
    ((streamJob {}).job 0).codecRefusal enc.desc ≠ none := by decide +kernel
/-! ## Memory tiers: chapter 9 -/

/-- The tile that the MATMUL at core 0 will read is ahead of it and may be read; one beyond the mapped pages is dropped and counted,
in a confidential job without a count. -/
theorem test_prefetch_issue :
    let j := fun (pages : Nat) (conf : Bool) => let j := blockJob (wordA 0x20 { wA with ctrl := 0xFFFF }) [] {} []
      { j with image := { j.image with tensors := [{ fmt := 9, pages, addr := 65536 }] }, info := { confidential := conf } }
    let s := fun (pages : Nat) (conf : Bool) => running (j pages conf)
    let x := ((s 2 false).job 0).unitsAhead 0 ((s 2 false).coreOf 0 0)
    (s 2 false).working 0 = some 0 ∧ ((s 2 false).coreOf 0 0).ahead = [] ∧ x.map (·.addr) = [65536] ∧
    x.map (((s 2 false).job 0).mayPrefetch 0 ((s 2 false).coreOf 0 0)) = [true] ∧
    x.map (((s 0 false).job 0).mayPrefetch 0 ((s 0 false).coreOf 0 0)) = [false] ∧
    NMap.getD ((after (.prefetchIssue 0) (s 0 false)).job 0).run.ctrCluster 0x48 0 = 1 ∧
    x.map (((s 0 true).job 0).mayPrefetch 0 ((s 0 true).coreOf 0 0)) = [false] ∧
    NMap.getD ((after (.prefetchIssue 0) (s 0 true)).job 0).run.ctrCluster 0x48 0 = 0 := by
  refine ⟨?_, ?_, ?_, ?_, ?_, ?_, ?_, ?_⟩ <;> decide +kernel

/-- Late data ends its wait, data that cannot be rebuilt is withheld, and data behind the requests that fill a hub's slots waits; heat
is shifted; a page moves in; a parity window closes; a bucket refills; a scrub ends an ENDING job. -/
theorem test_tier_events :
    let w := { coreWith [] with wait := CoreWait.peat 8192 1 0 }
    let s := let s := atWord 0 w
      s.setJob 0 { s.job 0 with image := { (s.job 0).image with
        regs := List.replicate 9 { flags := 1, ceiling := 1024, window := 10240 } } }
    let mine : PeatReq := { owner := .core 0, hub := 3, port := 1, granules := 1, part := 0 }
    let t : Tier := { heat := [(5, 9)], accesses := 4097, moves := [{ page := 5, victim := none }] }
    let ahead : PeatReq := { mine with owner := .move 31 5, granules := 8192 }
    let full := { s with tiers := { s.tiers with clusters := [(31, t)], requests := [ahead, mine] } }
    let h := { s with tiers := { clusters := [(31, t)] } }
    let e := { onDevice { state := .running } {} with sec := { scrub := 65536 } }
    let x := { e with jobs := e.jobs.set 1 { info := { state := .ending } } }
    s.withheld 0 8192 1 = false ∧ s.mayAnswer 0 (.core 0) 0 = true ∧
    full.mayAnswer 0 (.core 0) 0 = false ∧
    ((after (.peatDataReturn 0 false false) full).coreOf 0 0).wait = w.wait ∧
    (h.job 0).image.interval * 4096 ≤ (h.tiers.tier 31).accesses ∧ ((after (.heatDecay 31) h).tiers.tier 31).heat = [(5, 4)] ∧
    ((h.tiers.tier 31).moves.find? (fun m => m.page == 5)).isSome = true ∧
    h.tiers.slotted (h.job 0).run (.move 31 5) = true ∧ 0 < ((h.job 0).image.regs.getD 8 {}).window ∧
    (after (.assemblyWindowExpired 3) h).tiers.asm = [] ∧ (after (.regulatorWindowStart 47 8) h).islands.getD 47 0 = 10240 ∧
    ((after .scrubDone x).job 1).info.state = .ended := by
  refine ⟨?_, ?_, ?_, ?_, ?_, ?_, ?_, ?_, ?_, ?_, ?_, ?_⟩ <;> decide +kernel

/-! ## Links and the herd: chapter 12 -/

/-- A machine with link 47 in some condition. -/
def linked (l : Link) : State := { State.reset with links := State.reset.links.set 47 l }

/-- A link that is UP with eight lanes and a spare. -/
def upLink : Link := { state := .up, width := 8, active := 255, spare := some 8, encrypted := true }

/-- A peer whose key agreement fails, whatever its signature: its life-cycle state is not DEPLOYED. -/
theorem agree_refused (s : State) (peer : W64) : (s.agree peer {}).1 = none := by simp [State.agree]

/-- A DOWN link with seven good lanes of the nine retires; untrained lanes leave it TRAINING, then DOWN; a lane fails with a spare and
without; ADMIN_DOWN voids what waits, and clearing it trains again. -/
theorem test_link_states :
    let b : BringUp := { lanes := 511, trained := false, peerId := 9, peerAddr := 2, peerLink := 3, auth := {}, rttNs := 0 }
    let up := fun (b : BringUp) (f : Nat) => (after (.linkBringUp 47 b) (linked { failures := f })).link 47
    let lost := fun (l : Link) => (after (.laneFail 47 0) (linked l)).link 47
    let through := { upLink with outQ := [{ packet 1 with dest := 9 }], retry := [{ seq := 5, chan := 1, bytes := [] }] }
    (linked {}).cfg.linkEn.testBit 47 = true ∧ laneSet 7 = none ∧ laneSet 511 = some (8, 255, some 8) ∧
    (up { b with lanes := 7 } 0).state = .retired ∧ (up b 0).state = .training ∧ (up b 1).state = .down ∧
    (lost through).active = 510 ∧ NMap.getD (lost through).ctr 0x38 0 = 1 ∧
    (lost { upLink with spare := none }).width = 4 ∧ (lost { upLink with spare := none, failed := 496 }).state = .retired ∧
    transit 0 { packet 1 with dest := 9 } = true ∧ (after (.linkAdminDown 47) (linked through)).link 46 = {} ∧
    ((after (.linkAdminDown 47) (linked upLink)).link 47).state = .adminDown ∧
    ((after (.linkAdminUp 47) (linked { state := .adminDown })).link 47).state = .training := by
  refine ⟨?_, ?_, ?_, ?_, ?_, ?_, ?_, ?_, ?_, ?_, ?_, ?_, ?_, ?_⟩ <;> decide +kernel

/-- The CRC of nine digits has the published check value; a flit's first bytes are its kind, channel, number and payload; four lanes take
64 B each; a header begins with its destination. -/
theorem test_flit_bytes :
    let f : Flit := { bytes := flitBytes 1 2 5 [7] }
    crc32c (ascii "123456789") = 0xE3069283 ∧ f.bytes.take 5 = [1, 2, 5, 0, 7] ∧ f.bytes.length = 256 ∧
    ((dealt [0, 2, 3, 8] f.bytes).map (fun e => (e.1, e.2.length))) = [(0, 64), (2, 64), (3, 64), (8, 64)] ∧
    (packet 1).wf (fun _ => true) = true ∧ (packetHeader { packet 1 with dest := 0x0201 } []).take 7 = [1, 2, 5, 0, 1, 0, 1] := by
  refine ⟨?_, ?_, ?_, ?_, ?_, ?_⟩ <;> decide +kernel

/-- A flit in sequence is taken, and one out of sequence and one with a bad CRC are not; a record under no key does not verify; an
acknowledgement and a NAK of number 7; eight NAKs, a full retry buffer and failed keys retrain; a transit packet waits in vain. -/
theorem test_flits_and_replay :
    let f := fun (kind seq : Nat) (bs : List Byte) => ({ bytes := flitBytes kind 2 seq bs } : Flit)
    let a : Flit := { f 2 0 [] with ack := some 7, credits := [1, 0, 0, 0] }
    let bad : Flit := { bytes := [1] }
    let r := packetHeader (packet 2) []
    let tx := fun (n : Nat) => ({ seq := n, chan := 0, bytes := [] } : TxFlit)
    let l := { upLink with rxSeq := 5, rxSince := 1, retry := [tx 6, tx 7, tx 8], outQ := [{ packet 1 with dest := 9 }] }
    let go := fun (i : Instr) (l : Link) => (after i (linked l)).link 47
    let quiet := { l with outQ := [] }
    flitGood (f 1 5 []) = true ∧ (flitKind (f 1 5 []), flitSeq (f 1 5 [])) = (1, 5) ∧ ((((linked l).dataFlit 47 (f 1 5 [])).link 47).rxSeq) = 6 ∧
    (((linked l).dataFlit 47 (f 1 6 [])).link 47).control = [(1, 5)] ∧ flitGood bad = false ∧
    NMap.getD (go (.flitReceive 47 bad) l).ctr 0x30 0 = 1 ∧
    splitRecords (flitPayload (f 1 5 r)) 8 = ([r], []) ∧ openUnder [] r = (packet 2, false, []) ∧
    NMap.getD (((linked quiet).dataFlit 47 (f 1 5 r)).link 47).ctr 0x40 0 = 1 ∧
    (((linked quiet).controlFlit 47 a).link 47).retry.map (·.seq) = [8] ∧ (linked quiet).herd.waiting = [] ∧
    ({ l with retry := [] } : Link).clear? { packet 1 with dest := 9 } = true ∧ (go (.nakReceive 47 7) quiet).naks = 1 ∧
    (go (.nakReceive 47 7) { quiet with nakSeq := 7, naks := 7 }).state = .training ∧ (go (.flitAckTimer 47) l).rxSince = 0 ∧
    (go (.retryBufferStall 47) { upLink with retry := List.replicate 512 (tx 0) }).state = .training ∧
    (l.outQ.find? (fun q => q.chan == 1 && transit 0 q)).isSome = true ∧
    NMap.getD (after (.transitCreditTimeout 47 1) (linked { l with credits := [] })).herd.ctr 0x28 0 = 1 := by
  refine ⟨Laws.flitGood_flitBytes .., ?_, ?_, ?_, ?_, ?_, ?_, ?_, ?_, ?_, ?_, ?_, ?_, ?_, ?_, ?_, ?_, ?_⟩ <;> decide +kernel

/-- A machine of the herd whose address is 3. -/
def inHerd (h : Herd) (s : State) : State := { s with herd := { h with addr := 3 } }

theorem test_end_to_end :
    let u : Unacked := { pkt := { packet 1 with dest := 5, chan := 3 }, link := 0, timeout := 6401 }
    let s := inHerd { unacked := [u], flows := [{ job := 1, src := 5, chan := 2, cum := 0, got := [], since := 4 }] } State.reset
    let ack := { packet 5 with src := 5, opA := BitVec.ofNat 64 (3 * 2 ^ 32 + 1) }
    ((after (.e2eRetransmitTimeout ⟨1, 5⟩ 3 1) s).herd.unacked.map (·.timeout)) = [12800] ∧
    ((after (.e2eAckTimer ⟨1, 5⟩ 2) s).herd.flows.map (·.since)) = [0] ∧ (after (.packetAck ack) s).herd.unacked = [] ∧
    s.linkAgain u.pkt = none ∧ s.herd.waiting = [] ∧ (s.herd.unacked.all (fun u => u.pkt.type != 7)) = true ∧
    NMap.getD (after (.packetRefuse (packet 6)) s).herd.ctr 0x38 0 = 1 ∧
    NMap.getD (after (.packetReservedType (packet 0x23)) s).herd.ctr 0x40 0 = 1 := by decide +kernel

theorem test_packet_effects :
    let s := inHerd {} (streamJob {})
    let arm := fun (x : Option MirrorIn) => let s := inHerd {} (withJob { info := { state := .armed, mirror := true } })
      s.setJob 0 { s.job 0 with image := { tensors := [{ pages := 2, addr := 65536 }] }, mirrorIn := x }
    let first := { packet 7 with dest := 3, opA := BitVec.ofNat 64 (2 ^ 57 - 4096), payload := [1] }
    let full := inHerd { messages := List.replicate 4096 { job := 2, src := 5, msg := 0, left := 1, raise := none } } (streamJob {})
    let twice := inHerd { flows := [{ job := 1, src := 5, chan := 1, cum := 0, got := [1], since := 4 }] } s
    let w := { packet 1 with dest := 3, opA := 196600, payload := [7, 8] }
    let r : ReadReq := { slot := 0, msg := 4, peer := 5, body := true, key := 2, total := 2, data := [], got := 0 }
    let rd := fun (total : Nat) => after (.packetReadData { packet 4 with msg := 4, payload := [9, 9] })
      (inHerd { reads := [{ r with total }] } (streamJob {}))
    let late := { packet 2 with ordered := true, seq := 2, opA := 4095, opB := 3 }
    let wrapped := inHerd { flows := [{ job := 1, src := 5, chan := 1, cum := 2 ^ 32 - 1, got := [], since := 0 }] } s
    s.fresh? w = true ∧ s.slotOf 1 = some 0 ∧ s.tableFull w = false ∧ (s.job 0).mapped 196600 2 = true ∧
    s.outOfTurn w = false ∧ s.fresh? late = true ∧ s.tableFull late = false ∧ seqAfter (s.flowFor late).cum 2 = 2 ∧
    ((after (.packetSignal late) s).job 0).run.sems = [] ∧
    NMap.getD ((after (.packetSignal { late with seq := 0 }) wrapped).job 0).run.sems 4095 0 = 3 ∧
    memGet ((after (.packetWrite w) s).job 0).run.mem 196601 = 8 ∧
    (let lost := s.setJob 0 { s.job 0 with lost := [47] }
     let ask := { packet 3 with dest := 3, opA := 196608, opB := 0 }
     (lost.job 0).blocked 196600 2 true = true ∧ (lost.job 0).blocked 196600 1 false = true ∧
       memGet ((after (.packetWrite w) lost).job 0).run.mem 196601 = 0 ∧ (lost.job 0).blocked 196608 0 false = false ∧
       (after (.packetReadReq { ask with opA := 196600, opB := 1 }) lost).herd.inbox = lost.herd.inbox) ∧
    NMap.getD ((after (.packetSignal { packet 2 with opA := 4095, opB := 3 }) s).job 0).run.sems 4095 0 = 3 ∧
    (rd 3).herd.reads.length = 1 ∧ ((rd 2).job 0).run.stream 2 = { ((rd 2).job 0).run.stream 2 with peerBuf := [9, 9] } ∧
    memGet ((after (.packetMirror { w with type := 7 }) (arm (some { src := 5, msg := 0, left := 2, ok := true }))).job 0).run.mem
      196600 = 7 ∧
    ((after (.packetMirror { w with type := 7, opB := 9 }) (arm none)).job 0).mirrorIn.map (fun x => (x.left, x.ok)) =
      some (7, false) ∧
    ((arm none).job 0).mirrorDiffers { w with type := 7 } = false ∧ ((arm none).job 0).mirrorDiffers first = true ∧
    full.tableFull { w with msg := 1 } = true ∧ twice.fresh? w = false ∧ (twice.flowFor w).seen 1 = true ∧
    (s.flowFor w).seen 2000 = false ∧ s.fresh? { w with seq := 2000 } = false ∧
    ((after (.packetWrite w) twice).herd.flows.map (·.since)) = [0] ∧ jobPacket (.packetMirror first) first ∧
    (inHerd {} State.reset).slotOf 1 = none ∧ NMap.getD (after (.packetWrite w) (inHerd {} State.reset)).herd.ctr 0x38 0 = 1 := by
  refine ⟨?_, ?_, ?_, ?_, ?_, ?_, ?_, ?_, ?_, ?_, ?_, ?_, ?_, ?_, ?_, ?_, ?_, ?_, ?_, ?_, ?_, ?_, ?_, ?_, ?_, ?_, ?_, ?_⟩
  all_goals first | decide +kernel | exact .inr (.inr (.inr ⟨rfl, rfl⟩))

theorem test_census_and_routes :
    let s := { linked upLink with cfg := { State.reset.cfg with flags := 0 } }
    let h : HelloMsg := { id := 9, eligible := true, lead := some 4, lbeat := 2, dist := 1, addr := 6 }
    let m : CensusMsg := { addr := some 77, excluded := false, book := [], epoch := 2, members := 5, leader := 4, cause := 0 }
    let vec := fun (role : Nat) (v : List VectorEntry) =>
      (after (.vectorMsg 47 v) { s with herd := { role } }).herd.newRoutes.isSome
    s.fw.sapwood.isSome = true ∧ s.upLinks = [47] ∧ (after .helloTimer s).herd.hellos.length = 1 ∧
    (s.link 47).peerDepth ≠ h.dist ∧ (s.link 47).state = .up ∧
    m.dest = none ∧ (after (.census { m with excluded := true, addr := none }) s).herd.role = 3 ∧
    vec 1 [{ dest := 9, dd := some 1, du := none }] = true ∧ vec 3 [{ dest := 9, dd := some 1, du := none }] = false ∧
    vec 1 [] = false ∧
    NMap.getD (after .routeInstall { s with herd := { newRoutes := some [] } }).herd.ctr 0x20 0 = 1 := by
  refine ⟨?_, ?_, ?_, ?_, ?_, ?_, ?_, ?_, ?_, ?_, ?_⟩ <;> decide +kernel

/-- A leader whose beat stopped is dropped; a module that finds no other keeps its address once, and the second time stands alone. -/
theorem test_leader_lost :
    let h : HelloMsg := { id := 9, eligible := false, lead := some 4, lbeat := 2, dist := 1, addr := 6 }
    let s := fun (adrift : Bool) => { linked { upLink with heard := some h, fresh := true } with
      cfg := { State.reset.cfg with flags := 0 }, herd := { role := 1, leader := 4, addr := 3, adrift } }
    (s false).eligible = false ∧ ((after .leaderBeatTimeout (s false)).link 47).fresh = false ∧
    (after .leaderBeatTimeout (s false)).herd.addr = 3 ∧ (after .leaderBeatTimeout (s false)).herd.adrift = true ∧
    (after .leaderBeatTimeout (s true)).herd.role = 0 ∧ (after .leaderBeatTimeout (s true)).herd.addr = 0 := by
  refine ⟨?_, ?_, ?_, ?_, ?_, ?_⟩ <;> decide +kernel

/-- A JOIN beyond depth 8 is excluded; a member passes one up, and an EXCLUDED module repeats its own. -/
theorem test_joins :
    let lead := { State.reset with herd := { role := 2, book := [(6, 9)] } }
    let up := fun (role : Nat) => { linked upLink with herd := { role, parent := some 47 } }
    (after (.censusJoin { id := 9, depth := 9, want := 1 }) lead).herd.answers.map (fun a => a.2.excluded) = [true] ∧
    (assignAddr lead.herd.book [] [] 9 1).1 = 6 ∧ (assignAddr [] [] [] 9 1).1 = 1 ∧
    (after (.censusJoin { id := 9, depth := 8, want := 1 }) (up 1)).herd.joins.map (·.id) = [9] ∧
    (after .joinRetryTimer (up 3)).herd.joins.length = 1 := by
  refine ⟨?_, ?_, ?_, ?_, ?_⟩ <;> decide +kernel
/-! ## Host ports: chapter 13 -/

/-- A machine that runs a job owned by port A, whose ring set 63 is enabled with rings of 64 entries and holds one descriptor. -/
def ringed (d : List Nat) (r : RingSet) : State :=
  let s := onDevice { state := .running } {}
  { s with portA := { s.portA with hostMem := pad 4096 d
                                   sets := [(63, { r with sqBase := 4096, cqBase := 8192, eqBase := 12288, sizes := 0x060606 })] } }

/-- The descriptor of a PRUNE and of a JOB_PAUSE of job 1 are taken from the set's head. -/
theorem test_descriptor_intake :
    let s := fun (op : Nat) => ringed [op, 0, 7, 0, 1, 0, 0, 0] { enabled := true, control := 1, sqTail := 1 }
    let t := fun (op : Nat) => after (.descriptorIntake .a 63) (s op)
    (s 3).schedServes = true ∧ (s 3).servedNext .a 63 = true ∧ (((s 3).port .a).headDesc ((s 3).ring .a 63)).map (·.1.opcode) = some 3 ∧
    (s 3).slotOf 1 = some 0 ∧ (t 3).sched.taken.length = 1 ∧ ((t 3).ring .a 63).sqHead = 1 ∧
    ((t 0x13).job 0).run.queue.length = 1 := by decide +kernel

/-- A JOB_LOAD and an undefined opcode at the head; a sealed set whose head holds no record that opens gives none and the round goes on. -/
theorem test_heads :
    let s := fun (op : Nat) => ringed [op, 0, 7, 0, 1, 0, 0, 0] { enabled := true, control := 1, sqTail := 1 }
    let z := ringed [3] { enabled := true, control := 9, sqTail := 1 }
    (s 1).servedNext .a 63 = true ∧ ((after (.descriptorIntake .a 63) (s 1)).sched.taken.length) = 1 ∧ opcodeKnown 0x7F = false ∧
    ((after (.descriptorIntake .a 63) (s 0x7F)).ring .a 63).sqHead = 1 ∧ (s 1).sched.running = some 0 ∧ ((s 1).job 0).goDue = none ∧
    z.servedNext .a 63 = true ∧ (z.port .a).headDesc (z.ring .a 63) = none ∧
    ((after (.descriptorIntake .a 63) z).ring .a 63).badHead = true ∧
    NMap.getD ((after (.descriptorIntake .a 63) z).port .a).ctr 0x50 0 = 1 := by
  refine ⟨?_, ?_, ?_, ?_, ?_, ?_, ?_, ?_, ?_, ?_⟩ <;> decide +kernel

/-- Enabling, the last value in range of each doorbell and the first out of range, and the message of vector 126. -/
theorem test_ring_registers :
    let s := ringed [] { enabled := false }
    let e := ringed [] { enabled := true, control := 1, sqHead := 2 ^ 32 - 1, cqSince := 1 }
    let ring := fun (i : Instr) (s : State) => (after i s).ring .a 63
    let open' := { e with portA := { e.portA with msixTbl := [(2 * 63 * 4 + 3, 0)] } }
    (s.ring .a 63).enabled = false ∧ (ring (.ringEnable .a 63 1) s).enabled = true ∧
    (ring (.ringEnable .a 62 1) (ringed [] {})).error = 0 ∧ ((after (.ringEnable .a 62 1) s).ring .a 62).error = 2 ∧
    (ring (.ringDisable .a 63) e).enabled = false ∧
    (ring (.ringSqTail .a 63 63) e).sqTail = 63 ∧ (ring (.ringSqTail .a 63 64) e).bad = true ∧
    (ring (.ringCqHead .a 63 (0 - 64)) e).cqHead = 0 - 64 ∧ (ring (.ringCqHead .a 63 1) e).bad = true ∧
    (ring (.ringEqHead .a 63 0) e).eqHead = 0 ∧ (ring (.ringEqHead .a 63 1) e).bad = true ∧
    (e.port .a).linkUp = true ∧ max 1 (fld (e.ring .a 63).irq 0 8) ≤ (e.ring .a 63).cqSince ∧
    126 ∈ ((after (.msixMessage .a 126) e).port .a).msixPba ∧ ((after (.msixMessage .a 126) open').port .a).msixSent = [126] := by
  decide +kernel

/-- A machine none of whose firmware cores serves. -/
def unserved (s : State) : State := { s with fw := { s.fw with cores := s.fw.cores.map (fun c => { c with state := 0 }) } }

theorem test_port_registers :
    let s := let s := streamJob { mem := pad 65536 [7] }
      { s with portA := { s.portA with bar2 := 0x10001, bar2Base := 65536, lease := 5 } }
    let g := s.setJob 0 { s.job 0 with image := { (s.job 0).image with clusters := [(31, { pgt := 256 })] } }
    let full := s.setJob 0 { s.job 0 with info := { (s.job 0).info with journal := journalSize } }
    let p := fun (i : Instr) => (after i s).port .a
    (full.journalFull 0 = true ∧ ((after (.bar2Write .a 131071 [9]) full).job 0).heldWrites = [(65536 + 131071, [9])] ∧
      g.pgtTarget .a = .job 0 ∧ (unserved g).schedServes = false ∧
      ((after (.jobPgtPublish .a 1) (unserved g)).job 0).goDue = some .a) ∧
    (p (.hostLease .a 0x10009)).lease = 9 ∧ fld (s.port .a).lease 0 16 ≠ 0 ∧ (p (.leaseExpired .a)).leaseLapsed = true ∧
    (p (.hostDriverVersion .a 10)).statusDue = true ∧ (p (.bar2Enable .a 0x30001)).bar2 = 0x10001 ∧ s.bar2Slot .a = some 0 ∧
    (s.job 0).mapped (65536 + 131071) 1 = true ∧ (s.job 0).blocked (65536 + 131071) 1 true = false ∧
    (let lost := s.setJob 0 { s.job 0 with lost := [(65536 + 131071) / 4096] }
     ((after (.bar2Read .a 131071 1) lost).port .a).heldReads = [(131071, 1)] ∧
       ((after (.bar2Write .a 131071 [9]) lost).job 0).heldWrites = [(65536 + 131071, [9])]) ∧ s.bar2Slot .b = none ∧
    ((after (.bar2Read .b 0 2) s).port .b).reply = [0, 0] ∧
    memGet ((after (.bar2Write .a 131071 [9]) s).job 0).run.mem (65536 + 131071) = 9 ∧ s.windowJob .a = some 0 ∧
    s.windowJob .b = none ∧ NMap.getD ((after (.jobSemAdd .a 4095 3) s).job 0).run.sems 4095 0 = 3 ∧
    NMap.getD ((after (.jobSemAdd .b 4095 3) s).port .b).ctr 0x70 0 = 1 ∧
    ((after (.jobPgtStage .a 0x3FFFC 5) g).job 0).stage = [(0xFFFF, 5)] ∧
    ((after (.jobPgtPublish .a 1) (after (.jobPgtStage .a 0x3FFFC 5) g)).job 0).run.pgt = [(0xFFFF, 5)] ∧
    (p (.portReset .a .perst)).linkUp = false ∧ (p (.portReset .a .flr)).lease = 0 ∧ s.board.phase = .ready ∧
    (p (.pcieLinkUp .a 4 8)).width = 8 := by
  refine ⟨?_, ?_, ?_, ?_, ?_, ?_, ?_, ?_, ?_, ?_, ?_, ?_, ?_, ?_, ?_, ?_, ?_, ?_, ?_, ?_, ?_, ?_⟩ <;> decide +kernel

theorem test_remote_registers :
    let s := { State.reset with portA := { State.reset.portA with emuReads := [0], driver := 5 } }
    let m : WemuMsg := { tag := List.replicate 16 0, op := 2, port := .a, len := 4, off := 0x2000000, seq := 1, data := [1, 2, 3, 4] }
    let w := { s with sec := { mgmtA := { up := true } } }
    let q : Packet := { packet 0x10 with opA := BitVec.ofNat 64 (2 ^ 28 * 1 + 4) }
    let ans : Packet := { packet 0x10 with opA := BitVec.ofNat 64 (2 ^ 28 * 3), payload := [8, 7, 6, 5] }
    s.powered = true ∧ s.readReg .a 0x38 = some (8, 0) ∧ s.readReg .a 0x3C = none ∧ s.meets .a 0x3C 4 = true ∧
    NMap.getD ((after (.registerWrite .a 0x3C 4 5) s).port .a).ctr 0x48 0 = 1 ∧ (unserved w).roleServes 2 = false ∧
    w.roleServes 2 = true ∧
    (after (.packetFirmware q) (unserved s)).fw.held.length = 1 ∧
    NMap.getD ((after (.registerWrite .a 0x38 4 5) s).port .a).ctr 0x48 0 = 1 ∧
    ((after (.registerWrite .a 0x38 8 (2 ^ 57 + 2 ^ 21)) s).port .a).bar2Base = 2 ^ 57 + 2 ^ 21 ∧
    memGet ((after (.registerWrite .a 0x3FFFFFC 4 (2 ^ 24)) s).port .a).ringMem 0x1FFFFFF = 1 ∧
    ((after (.emuApertureRead .a 0xFFFC) s).port .a).emuReads = [0, 0] ∧
    ((after (.emuApertureWrite .b 0x8000 1) s).port .b).emuWrites = [1] ∧
    ((after (.emuReadTimeout .a) s).port .a).reply = [0, 0, 0, 0] ∧ s.fw.sapwood.isSome = true ∧ (w.mgmtSession .a).up = true ∧
    w.answered (2 ^ 16) 1 = none ∧ m.off + m.len ≤ 2 ^ 26 ∧ m.op = 2 ∧ s.fresh? q = true ∧
    NMap.getD (after (.packetFirmware q) s).herd.sendSeq (spaceKey 0 5 2) 0 = 1 ∧ fld ans.opA 28 4 = 3 ∧
    ((after (.packetFirmware ans) s).port .a).emuReads = [] ∧ s.apertureAsked 0 = false ∧
    apertureWords 0x88000 8 = [0, 1] := by decide +kernel

/-- A message of the management network that its session opens writes its registers. -/
theorem test_remote_write (h : ({ up := true } : Session).opens
      { tag := [], op := 2, port := .a, len := 4, off := 0x2000000, seq := 1, data := [] } = some [1, 2, 3, 4]) :
    let w := { State.reset with sec := { mgmtA := { up := true } } }
    memRead ((w.wemu .a 2 { tag := [], op := 2, port := .a, len := 4, off := 0x2000000, seq := 1, data := [] }).port .a).ringMem 0 4 =
      [1, 2, 3, 4] := by
  have e : ({ State.reset with sec := { mgmtA := { up := true } } } : State).mgmtSession .a = { up := true } := rfl
  simp only [State.wemu, e, h]
  rfl

/-! ## Keys and firmware: chapters 14 and 15 -/

/-- A machine whose port A has an attempt of a session. -/
def attempted : State :=
  { State.reset with portA := { State.reset.portA with session := { up := true, epoch := 255, attempt := some (7, 9) } } }

/-- While a security core serves in FIELD each request is answered; without one, and in RETURNED, it is turned away. -/
theorem test_security_services :
    let s := attempted
    let busy := { s with fw := { s.fw with cores := [] } }
    let gone := { s with fuses := { s.fuses with lc := 4 } }
    s.powered = true ∧ s.roleServes 0 = true ∧ s.fuses.state < 3 ∧ busy.powered = true ∧ busy.roleServes 0 = false ∧
    gone.roleServes 0 = true ∧ 3 ≤ gone.fuses.state ∧ (List.replicate 1184 (0 : Byte)).length = 1184 ∧
    (s.port .a).session.attempt = some (7, 9) ∧ (s.port .a).session.up = true ∧
    ((after (.sessionEnd (.doe .a)) s).port .a).session = { epoch := 255 } := by decide +kernel

/-- What the services answer; a request that waits while the power core is down. -/
theorem test_service_answers :
    let s := attempted
    let m := SessSrc.mgmt .b 9
    ((after (.getCert (.doe .a)) s).port .a).doe.take 4 = [0x6A, 0x1F, 1, 0] ∧
    doeObject [0x85, 0, 0, 0, 7] = [0x6A, 0x1F, 1, 0, 4, 0, 0, 0, 0x85, 0, 0, 0, 7, 0, 0, 0] ∧ (after (.getReport (.doe .a) 0 0) s).sec.reports = 1 ∧
    ((after (.sessionInit (.doe .a) (List.replicate 1184 0) 0 0) s).port .a).session.up = false ∧
    (unserved s).roleServes 2 = false ∧ (after (.getCert m) (unserved s)).fw.held = [.cert m] ∧
    (after (.sessionFinish m 0 [] []) (unserved s)).fw.held.length = 1 ∧
    ((after .lcRequestNonce s).freeCtr) = s.freeCtr + 1 ∧ (after .lcRequestNonce (unserved s)).fw.held = [.nonce] ∧
    (after .secSvnCommitHeartwood (unserved s)).fw.held.length = 1 := by
  refine ⟨?_, ?_, ?_, ?_, ?_, ?_, ?_, ?_, ?_, ?_⟩ <;> decide +kernel

/-- The confirmation that a SESSION_FINISH needs exists, whatever the transcript's is. -/
theorem test_session_confirmations (want n : Nat) : ∃ c : BitVec n, c.toNat = want % 2 ^ n :=
  ⟨BitVec.ofNat n want, BitVec.toNat_ofNat want n⟩

/-- The life-cycle: targets that a state admits and does not, a loaded job, and entry to FIELD. -/
theorem test_life_cycle :
    let s := { State.reset with sec := { target := 2 } }
    let maker := { s with fuses := { s.fuses with lc := 1 } }
    let busy := { maker with jobs := maker.jobs.set 63 { info := { state := .paused } } }
    lcNeeds s.fuses.state s.sec.target = none ∧ s.lcVerdict true = 4 ∧ (lcNeeds maker.fuses.state maker.sec.target).isSome = true ∧
    busy.lcVerdict true = 5 ∧ (after (.lcRequestGo true) busy).sec.lcResult = 5 ∧ maker.sec.target = 2 := by decide +kernel

/-- A minimum rises to the version that runs, stops at 64, and stays where it is above. -/
theorem test_svn_commit :
    let s := fun (svn old : Nat) => { State.reset with
      fw := { State.reset.fw with heartwood := { svn }, sapwood := some { svn } }, fuses := { State.reset.fuses with svnHeart := old, svnSap := old } }
    let heart := fun (svn old : Nat) => (after .secSvnCommitHeartwood (s svn old)).fuses.svnHeart
    (s 5 3).powered = true ∧ (s 5 3).roleServes 0 = true ∧ (s 5 3).fw.sapwood = some { svn := 5 } ∧ heart 5 3 = 5 ∧ heart 65 3 = 64 ∧
    heart 3 5 = 5 ∧ (after (.registerWrite .b 0x2D000C 4 3) (s 5 3)).fuses.svnHeart = 5 ∧ (after .secSvnCommitSapwood (s 5 3)).fuses.svnSap = 5 := by decide +kernel

theorem test_firmware_service :
    let core := fun (n : Nat) (c : FwCore) => ({ State.reset with fw := { State.reset.fw with cores := State.reset.fw.cores.set n c } } : State)
    let f : Fetch := { purpose := .sapwood, source := 1 }
    let fetching := { State.reset with fw := { State.reset.fw with busy := true, fetch := some f } }
    let cfg := { State.reset.cfg with raw := List.replicate 1152 1 }
    let served := { State.reset with cfg }
    let none' := { served with fw := { served.fw with sapwood := none } }
    (State.reset.fwCore 39).state = 2 ∧ ((after (.fwCoreTrap ⟨39, .trap⟩) State.reset).fwCore 39).state = 3 ∧
    ((after (.fwRecoveryDone 39 true) (core 39 { state := 3 })).fwCore 39).state = 2 ∧ (core 4 { state := 3, role := 1 }).standby 4 = true ∧
    ((after (.fwRecoveryDone 4 true) (core 4 { state := 3, role := 1 })).fwCore 5).role = 1 ∧
    ((after (.fwRecoveryDone 0 false) (core 0 { state := 3, role := 1 })).fwCore 0).state = 5 ∧
    served.fw.busy = false ∧ served.roleServes 0 = true ∧ served.cfg.nextSource 0 = some 1 ∧
    (after .sapwoodUpdate served).fw.busy = true ∧ (after .heartwoodUpdate served).fw.kind = 1 ∧
    ((after (.tftpBlockReceive 1 (List.replicate 512 7)) fetching).fw.fetch.map (·.block)) = some 2 ∧
    ((after .tftpBlockTimeout fetching).fw.fetch.map (·.tries)) = some 2 ∧
    (after (.sapwoodFetchTimeout true true) fetching).fw.busy = false ∧ none'.fw.fetch = none ∧ none'.fw.sapwood = none ∧
    (after (.sapwoodFetchTimeout false false) none').fw.sapwood = none ∧
    ((after .sapwoodRetryTimer none').fw.fetch.map (·.source)) = some 1 := by
  refine ⟨?_, ?_, ?_, ?_, ?_, ?_, ?_, ?_, ?_, ?_, ?_, ?_, ?_, ?_, ?_, ?_, ?_, ?_⟩ <;> decide +kernel

/-- The third crash within an hour, of a primary whose standby serves and of one whose standby has failed. -/
theorem test_third_crash :
    let now := (State.reset.look (State.reset.heartIsland 0)).1
    let s : State := { State.reset with fw := { State.reset.fw with
      cores := State.reset.fw.cores.set 0 { State.reset.fwCore 0 with crashes := [now, now] } } }
    (s.look (s.heartIsland 0)).1 = now ∧ (s.fwCore 0).crashes = [now, now] ∧ now < now + hourNs ∧ (s.fwCore 0).state = 2 ∧
    (s.fwCore (twinOf 0)).state ≠ 5 ∧ (s.fwCore 0).role = 1 ∧ s.standby 0 = true := by
  refine ⟨by simp [State.look, State.heartIsland], rfl, Nat.lt_add_of_pos_right (by decide), ?_, ?_, ?_, ?_⟩ <;> decide +kernel

/-- Heartwood may write keys and sapwood may not, which is recorded; a recovery waits while no security core serves; a twin recovers
after its primary has failed. -/
theorem test_fw_access_and_recovery :
    let s := State.reset
    let late := { s with fw := { s.fw with cores := (s.fw.cores.set 5 { state := 3, role := 2 }).set 4 { state := 5 } } }
    let down := { unserved s with fw := { (unserved s).fw with cores := (unserved s).fw.cores.set 39 { state := 3 } } }
    fwMay (runsHeart 0) .keys true = true ∧ fwMay (runsHeart 39) .keys true = false ∧
    ((after (.fwCoreTrap ⟨39, .access .keys true⟩) s).fw.faults) = [(39, .keys, true)] ∧
    (after (.fwRecoveryDone 39 true) down).fw.held = [.recover 39 true] ∧ (late.fwCore (twinOf 5)).state = 5 ∧
    late.roleServes 0 = true ∧ ((after (.fwRecoveryDone 5 true) late).fwCore 5).role = 1 := by
  refine ⟨?_, ?_, ?_, ?_, ?_, ?_, ?_⟩ <;> decide +kernel

/-- Entry to MAKER: what a BLANK module's request for it meets. -/
theorem test_maker :
    let s := { State.reset with sec := { target := 1 }, fuses := { State.reset.fuses with lc := 0 } }
    s.sec.target = 1 ∧ s.roleServes 0 = true ∧ (lcNeeds s.fuses.state 1).isSome = true := by decide +kernel

/-! ## Health: chapter 16 -/

/-- A machine of reset with other health. -/
def ailing (h : Health) : State := { State.reset with health := h }

/-- A firmware core that misses its heartbeats; updates and a configuration that wait; the year's forecast; a replaced cluster; lines
of coarse values. -/
theorem test_waits_and_reports :
    let s := State.reset
    let h := { s.health with replace := [{ lost := 1, logical := 1, physical := 32, hosting := false }] }
    let coarse := { s with sec := { s.sec with coarse := true } }
    ((after (.fwHeartbeatTimeout 39) s).fwCore 39).state = 3 ∧ (unserved s).roleServes 0 = false ∧ s.fw.busy = false ∧
    (after .sapwoodUpdate (unserved s)).fw.held = [.update 0] ∧ (unserved s).powered = true ∧
    (after (.pwrConfigGo true) (unserved s)).fw.held = [.config true] ∧
    (after (.pwrConfigGo true) (after (.pwrConfigGo true) (unserved s))).power.cfgResult = 4 ∧ (after .marginForecast s).health.forecast = 0xFFFFFFFF ∧
    (after .clusterReplaceDone { s with health := h }).health.replace = [] ∧ (after (.coarseRefresh .counters) coarse).sec.shown.isSome = true := by
  refine ⟨?_, ?_, ?_, ?_, ?_, ?_, ?_, ?_, ?_⟩ <;> decide +kernel

theorem test_health_events :
    let h := State.reset.health
    let rebuilding := { h with rebuilds := [3], hbm := h.hbm.set 3 { state := 2, failed := 1, left := 5 } }
    let replacing := { h with replace := [{ lost := 1, logical := 1, physical := 32, hosting := false }] }
    let shared := ailing { h with map := [{ cluster := 0, core := 0 }, { cluster := 0, core := 0 }], turns := [(0, 0)] }
    let s := { shared with sched := { running := some 0 } }
    (State.reset.codecs.getD 15 {}).inService = true ∧
    NMap.getD (after (.eccError (.scratchpad 33 16) true) State.reset).health.ctr 0x38 0 = 1 ∧
    (NMap.getD h.banksOut (17 * 33 + 16) 0).testBit 7 = false ∧ (h.cluster 33).retired.testBit 16 = false ∧ (h.cluster 33).state ≠ 4 ∧
    5 ≤ h.banks (17 * 33 + 16) ∧ (State.reset.fwCore 39).state = 2 ∧ (NMap.getD h.wordErrs 67 []).length < 15 ∧
    (17 * 33 + 16) ∈ ({ h with verifying := [577] } : Health).verifying ∧ 32 ≤ h.logicalOf 33 ∧
    replacing.replace = [{ lost := 1, logical := 1, physical := 32, hosting := false }] ∧ State.reset.sched.running = none ∧
    32 < h.clusters.length ∧ s.health.serves 0 = [0, 1] ∧ NMap.find (s.job 0).run.cores 0 = none ∧
    NMap.getD (after (.hostedCoreSwitch 0 0) s).health.turns 0 9 = 1 ∧ (h.hbm.getD 47 {}).failed = 0 ∧
    (rebuilding.hbm.getD 3 {}).left ≤ 2 ^ 25 - rebuilding.repairUsed ∧
    ((after .rebuildDone (ailing rebuilding)).health.hbm.getD 3 {}).state = 3 ∧ State.reset.drawnYear = 0 := by decide +kernel

/-- Test of a woodpile core that serves nothing, and phases of a cluster's rail up to the last that it can spare. -/
theorem test_woodpile_and_phases :
    let h := State.reset.health
    let p := ailing { h with clusters := h.clusters.set 33 { phasesOut := 63 } }
    let hub := ailing { h with hubPhasesOut := h.hubPhasesOut.set 7 7 }
    (h.cluster 33).state = 0 ∧ (h.cluster 33).retired = 0 ∧ (h.map.all (fun e => e.cluster != 33)) = true ∧
    (p.health.cluster 33).phasesOut.testBit 6 = false ∧ ones 12 ((p.health.cluster 33).phasesOut + 2 ^ 6) ≤ 7 ∧
    (hub.health.hubPhasesOut.getD 7 0).testBit 15 = false ∧ 3 ≤ ones 16 (hub.health.hubPhasesOut.getD 7 0) := by decide +kernel

/-- Withheld data that was written whole. -/
theorem test_data_restored :
    let s := { State.reset with jobs := [{ lost := [3], made := [3] }] }
    s.lostAt ((s.job 0).dataAddr (3 * 4096) / 4096) = some (0, 3) ∧ 3 ∈ (s.job 0).made := by
  exact ⟨by simp [State.lostAt, State.job, List.range, List.range.loop], by decide⟩

/-! ## Power and the board: chapter 17 -/

theorem test_power_control :
    let g : GovIn := { power := 12001, tj := [], amps := [] }
    let rail := fun (i : GovIn) (r : Rail) (pin : Bool) =>
      ((after (.governorTick i) { State.reset with power := { State.reset.power with rails := List.replicate 34 r, throttlePin := pin } }).power.rails.getD 31 {}).v
    let s := State.reset
    let ride := { s with power := { s.power with lostB := true }, board := { s.board with rideThrough := true } }
    s.powered = true ∧ (s.health.cluster 31).inService = true ∧ 31 < s.power.rails.length ∧
    rail g {} true = 650 ∧ rail g { v := 755 } false = 750 ∧ rail g { v := 750 } false = 745 ∧ rail g { v := 650 } false = 650 ∧
    rail { g with power := 11000 } { v := 700 } false = 705 ∧ rail { g with power := 12000 } { v := 750 } false = 750 ∧
    (after .governorFail s).power.hub4 = true ∧ (after .throttleNAssert s).power.throttlePin = true ∧
    (after .throttleNRelease (after .throttleNAssert s)).power.throttlePin = false ∧ s.roleServes 0 = true ∧ s.configVerdict false = 3 ∧
    (after (.feedLost .a 43999) s).power.lostA = true ∧ (after (.feedLost .a 60001) ride).board.rideThrough = true ∧
    (after (.feedReturned .b 48000) ride).power.lostB = false ∧ (after .rideThroughExpired ride).board.phase = .off ∧
    (after (.hbmThermalPace 47 381) s).power.paced = [47] ∧ (after (.hbmThermalPace 47 380) s).power.paced = [] := by decide +kernel

theorem test_power_limits :
    let cap := fun (v : W32) => (after (.pwrCap v) State.reset).power.cap
    let set := fun (v : W32) => (after (.pwrSetpoint v) State.reset).power.setpoint
    [cap 799, cap 800, cap 1350, cap 1351] = [1200, 800, 1350, 1200] ∧ [set 645, set 650, set 652, set 850, set 855] = [750, 650, 750, 850, 750] ∧
    State.reset.powered = true := by decide +kernel

/-- A start-up with both copies of heartwood good, and no part bad. -/
def goodStart : StartIn :=
  { feedAmV := 54000, feedBmV := 0, heartPrimary := true, heartMirror := true, cfgPrimary := true, cfgMirror := true, badCores := []
    badClusters := [], badStacks := [], fetched := none, flashCopies := (true, true), pcieA := (6, 16), pcieB := (0, 0) }

/-- A halted module, one that is off and one in reset meet what a start needs. -/
theorem test_start_and_board :
    let at' := fun (p : Phase) => ({ State.reset with board := { phase := p } } : State)
    let off := after (.startUp goodStart) (at' .off)
    State.reset.fuses.state < 4 ∧ State.reset.fuses.intent = 0 ∧ (at' .off).board.phase = .off ∧ (at' .inReset).board.phase = .inReset ∧
    (after (.startUp { goodStart with heartPrimary := false, heartMirror := false }) (at' .off)).board.phase = .halted ∧
    off.board.phase = .ready ∧ off.power.cap = 1200 ∧ (at' .halted).board.phase = .halted ∧ (after .resetNAssert State.reset).board.phase = .inReset ∧
    (after .stage State.reset).board.smbus = some [9] ∧ (after .bypass State.reset).board.jtag = 0 ∧
    (after (.ignoredPulse .resetN) State.reset).power.glitches = (1, 0) := by decide +kernel

/-- RESET_N released, a halted module's retry and recovery, a thermal shutdown, THROTTLED's summary, and the SMBus answers. -/
theorem test_board_answers :
    let s := State.reset
    let at' := fun (p : Phase) => ({ s with board := { phase := p } } : State)
    let throttled := { s with power := { s.power with began := 5 } }
    let bus := fun (i : Instr) => ((after i s).board.smbus.map List.length)
    (after (.resetNRelease goodStart) (at' .inReset)).board.phase = .ready ∧
    (after (.bootRetryTimer { goodStart with heartPrimary := false }) (at' .halted)).board.phase = .ready ∧
    (after .thermalShutdown s).board.phase = .off ∧ throttled.power.began ≠ 0 ∧ (after .throttled throttled).health.logCount = 1 ∧
    bus .identity = some 8 ∧ (bus .inventory).isSome = true ∧ bus .coolant = some 4 ∧ bus .margin = some 1 := by
  refine ⟨?_, ?_, ?_, ?_, ?_, ?_, ?_, ?_, ?_⟩ <;> decide +kernel

/-- At least 16 clusters of a good module can be chosen. -/
theorem test_chosen : 16 ≤ State.reset.health.chosen.length := by decide +kernel

/-- Coarse values are renewed while a confidential job runs. -/
theorem test_coarse : ({ State.reset with sec := { coarse := true } } : State).sec.coarse = true := rfl


/-! ## The stacks: R273, R455 -/

/-- x^63 times x is x^4 + x^3 + x + 1 in the field of the tags, and 1 is its one; where a tag lies. -/
theorem test_tag_field :
    gfMulHigh (2 ^ 63) 2 64 = 0x1B ∧ gfMulHigh 2 (2 ^ 63) 64 = 0x1B ∧ gfMulHigh 0x123456789ABCDEF0 1 64 = 0x123456789ABCDEF0 ∧
    gfMulHigh 3 5 64 = 15 ∧ tagAddr 511 = 5120 * 2 ^ 30 + 8 := by decide +kernel

/-- A lost unit comes back from the parity unit and the other units of its row. -/
theorem test_parity : xorBytes (xorBytes [1, 0xFF] [7, 0x0F]) [7, 0x0F] = [1, 0xFF] := by decide

end Sys2Proof.Tests
end

section
/-! SUPPORT. What accesses to the memory tiers and the firmware's own area leave of a job's run: all of it but its counters and what its
cores have fetched ahead (R264). -/

namespace Sys2Proof.Machine

/-! ## The data of a run -/

/-- A fold keeps what each of its steps keeps. -/
theorem foldl_keeps {α β γ : Type} (g : β → γ) (f : β → α → β) (h : ∀ b a, g (f b a) = g b) (l : List α) (b : β) :
    g (l.foldl f b) = g b := by
  induction l generalizing b with
  | nil => rfl
  | cons a l ih => rw [List.foldl_cons, ih, h]

/-- A run less its cores and counters: what no access to the tiers changes, for the tiers hold no values of their own (R264). -/
def JobRun.data (r : JobRun) : JobRun :=
  { r with cores := [], ctrDev := [], ctrCluster := [], ctrCore := [], ctrJob := [] }

@[simp] theorem JobRun.data_mem (r : JobRun) : r.data.mem = r.mem := rfl
@[simp] theorem JobRun.data_stream (r : JobRun) (n : Nat) : r.data.stream n = r.stream n := rfl
@[simp] theorem JobRun.count_data (r : JobRun) (off k : Nat) : (r.count off k).data = r.data := rfl
@[simp] theorem JobRun.countCluster_data (r : JobRun) (c off k : Nat) : (r.countCluster c off k).data = r.data := rfl

/-! ## Accesses -/

/-- The run's data while accesses act on the tiers. -/
def Acc.data (a : Acc) : JobRun := a.run.data

@[simp] theorem Acc.count_data (a : Acc) (off k : Nat) : (a.count off k).data = a.data := rfl
@[simp] theorem Acc.countCluster_data (a : Acc) (c off k : Nat) : (a.countCluster c off k).data = a.data := rfl
@[simp] theorem Acc.setTier_data (a : Acc) (cl : Nat) (x : Tier) : (a.setTier cl x).data = a.data := rfl

@[simp] theorem Acc.look_data (a : Acc) (island : Nat) : (a.look island).2.data = a.data := by
  unfold Acc.look
  split <;> rfl

@[simp] theorem Acc.ask_data (a : Acc) (stack part n : Nat) : (a.ask stack part n).data = a.data := by
  unfold Acc.ask
  split <;> rfl

@[simp] theorem Acc.askTag_data (a : Acc) (d part : Nat) : (a.askTag d part).data = a.data := by
  unfold Acc.askTag
  split <;> simp

@[simp] theorem Acc.grantAt_data (a : Acc) (regs : List RegE) (island : Nat) : (a.grantAt regs island).data = a.data := by
  unfold Acc.grantAt
  dsimp only
  split
  · rfl
  · exact (foldl_keeps JobRun.data (fun (r : JobRun) (e : Nat × Nat) => r.count e.1 e.2) (fun _ _ => rfl) _ _).trans
      (Acc.look_data a island)

@[simp] theorem Acc.grant_data (a : Acc) (regs : List RegE) : (a.grant regs).data = a.data := by
  have granted := foldl_keeps Acc.data (fun (a : Acc) i => a.grantAt regs i) (fun a i => Acc.grantAt_data a regs i)
    (List.range 48) a
  unfold Acc.grant
  generalize (List.range 48).foldl _ a = b at granted ⊢
  exact granted

@[simp] theorem Acc.relocate_data (a : Acc) (pl : Place) (stack unit : Nat) : (a.relocate pl stack unit).data = a.data := by
  unfold Acc.relocate
  split <;> rfl

@[simp] theorem Acc.relocateRow_data (a : Acc) (stripe : Nat) (x : Assembly) : (a.relocateRow stripe x).data = a.data := by
  unfold Acc.relocateRow
  rw [Acc.relocate_data]
  refine foldl_keeps Acc.data _ (fun a u => ?_) _ _
  split <;> simp

@[simp] theorem Acc.closeStripe_data (a : Acc) (stripe : Nat) : (a.closeStripe stripe).data = a.data := by
  unfold Acc.closeStripe
  split
  · rfl
  · dsimp only
    rw [Acc.relocateRow_data, foldl_keeps Acc.data (fun (a : Acc) (q : Nat × Nat × Nat) => a.ask q.1 q.2.1 q.2.2)
      (fun a q => Acc.ask_data a q.1 q.2.1 q.2.2), Acc.count_data]
    split <;> rfl

@[simp] theorem Acc.expire_data (a : Acc) (stripe now : Nat) : (a.expire stripe now).data = a.data := by
  unfold Acc.expire
  split
  · split <;> simp
  · rfl

@[simp] theorem Acc.makeRoom_data (a : Acc) (hub : Nat) : (a.makeRoom hub).data = a.data := by
  unfold Acc.makeRoom
  split
  · rfl
  · split <;> simp

@[simp] theorem Acc.assemble_data (a : Acc) (d mask part : Nat) : (a.assemble d mask part).data = a.data := by
  have room (b : Acc) (h : b.data = a.data) (new : Bool) (hub : Nat) :
      (if new then b.makeRoom hub else b).data = a.data := by
    split <;> simpa using h
  have joined (b : Acc) (h : b.data = a.data) (t : Tiers) (stripe : Nat) (whole : Bool) :
      (if whole then ({ b with tiers := t } : Acc).closeStripe stripe else { b with tiers := t }).data = a.data := by
    split
    · exact (Acc.closeStripe_data _ stripe).trans h
    · exact h
  exact joined _ (room _ ((Acc.expire_data _ _ _).trans (Acc.look_data a _)) _ _) _ _ _

@[simp] theorem Acc.peatWrite_data (a : Acc) (u mask part : Nat) : (a.peatWrite u mask part).data = a.data :=
  Acc.assemble_data a _ mask part

@[simp] theorem Acc.peatRead_data (a : Acc) (cl u mask part : Nat) : (a.peatRead cl u mask part).data = a.data := by
  unfold Acc.peatRead
  dsimp only
  split
  · rfl
  · split
    · rw [Acc.askTag_data, foldl_keeps Acc.data _ (fun a s => Acc.ask_data a s part 16)]
      rfl
    · simp

@[simp] theorem Acc.evict_data (a : Acc) (cl line : Nat) (l : Line) : (a.evict cl line l).data = a.data := by
  unfold Acc.evict
  dsimp only
  split <;> (try rw [Acc.peatWrite_data, Acc.countCluster_data]) <;> split <;> rfl

@[simp] theorem Acc.invalidate_data (a : Acc) (line cl : Nat) : (a.invalidate line cl).data = a.data := by
  have first : (match NMap.find (a.tiers.tier cl).cache line with
      | some l => a.evict cl line l
      | none => a).data = a.data := by
    split <;> simp
  unfold Acc.invalidate
  dsimp only
  split
  · exact first
  · split
    · exact first
    · split
      · rw [Acc.peatWrite_data, Acc.countCluster_data, Acc.setTier_data]
        exact first
      · rw [Acc.setTier_data]
        exact first

@[simp] theorem Acc.invalidateOthers_data (a : Acc) (cl line : Nat) : (a.invalidateOthers cl line).data = a.data :=
  foldl_keeps Acc.data _ (fun a c => Acc.invalidate_data a line c) _ _

@[simp] theorem Acc.hubLines_data (a : Acc) (write : Bool) (part fuel at' left : Nat) :
    (a.hubLines write part fuel at' left).data = a.data := by
  induction fuel generalizing a at' left with
  | zero => rfl
  | succ k ih =>
    unfold Acc.hubLines
    split
    · rfl
    · rw [ih]
      split <;> simp

@[simp] theorem Acc.dataLines_data (a : Acc) (part fuel at' left : Nat) : (a.dataLines part fuel at' left).data = a.data := by
  induction fuel generalizing a at' left with
  | zero => rfl
  | succ k ih =>
    unfold Acc.dataLines
    split
    · rfl
    · rw [ih, Acc.assemble_data]

/-! ## The state -/

/-- The data of the run in a job slot. -/
def State.runData (s : State) (q : Nat) : JobRun := (s.job q).run.data

/-- A job slot that keeps its run's data leaves the data of every slot. -/
theorem State.setJob_runData (s : State) (k q : Nat) (j : Job) (h : j.run.data = s.runData k) :
    (s.setJob k j).runData q = s.runData q := by
  unfold State.runData at h ⊢
  by_cases hq : q = k
  · subst hq
    by_cases hk : q < s.jobs.length
    · rw [State.setJob_job s q j hk, h]
    · simp [State.job, State.setJob, List.set_eq_of_length_le (Nat.not_lt.mp hk)]
  · rw [State.setJob_job_ne s k q j hq]

@[simp] theorem State.placeUnit_runData (s : State) (e : Nat × Nat) (q : Nat) : (s.placeUnit e).runData q = s.runData q := by
  unfold State.placeUnit
  dsimp only
  split
  · rfl
  · split <;> rfl

/-- Accesses that keep a run's data keep that of every slot. -/
theorem State.onTiers_runData (s : State) (k q : Nat) (f : Image → Acc → Acc) (h : ∀ i a, (f i a).data = a.data) :
    (s.onTiers k f).runData q = s.runData q := by
  have acted : ((f (s.job k).image (s.accFor k)).grant (s.job k).image.regs).data = s.runData k :=
    (Acc.grant_data _ _).trans (h _ _)
  unfold State.onTiers
  dsimp only
  generalize (f (s.job k).image (s.accFor k)).grant (s.job k).image.regs = a at acted ⊢
  exact (foldl_keeps (fun s : State => s.runData q) State.placeUnit (fun s e => State.placeUnit_runData s e q) _ _).trans
    (State.setJob_runData s k q _ acted)

@[simp] theorem State.journalCopies_runData (s : State) (k part q : Nat) : (s.journalCopies k part).runData q = s.runData q := by
  unfold State.journalCopies
  dsimp only
  split
  · rfl
  · rw [State.onTiers_runData _ _ _ _ (fun i a => foldl_keeps Acc.data _ (fun a e => by simp) _ _)]
    exact State.setJob_runData s k q _ rfl

@[simp] theorem State.hubAccess_runData (s : State) (k : Nat) (write : Bool) (part at' len q : Nat) :
    (s.hubAccess k write part at' len).runData q = s.runData q := by
  unfold State.hubAccess
  split
  · exact State.onTiers_runData s k q _ (fun i a => Acc.hubLines_data a write part _ at' len)
  · rfl

@[simp] theorem State.hubWrite_runData (s : State) (k part at' len q : Nat) :
    (s.hubWrite k part at' len).runData q = s.runData q := by
  simp [State.hubWrite]

@[simp] theorem State.firmwareRead_runData (s : State) (d n q : Nat) : (s.firmwareRead d n).runData q = s.runData q := by
  unfold State.firmwareRead
  split
  · exact State.onTiers_runData s _ q _ (fun i a => Acc.ask_data a _ 8 n)
  · rfl

@[simp] theorem State.firmwareWrite_runData (s : State) (d len q : Nat) : (s.firmwareWrite d len).runData q = s.runData q := by
  unfold State.firmwareWrite
  split
  · split
    · rfl
    · exact State.onTiers_runData s _ q _ (fun i a => Acc.dataLines_data a 8 _ d len)
  · rfl

@[simp] theorem State.tableWrite_runData (s : State) (k d len : Nat) (x : JournalRec) (q : Nat) :
    (s.tableWrite k d len x).runData q = s.runData q := by
  unfold State.tableWrite
  dsimp only
  rw [State.firmwareWrite_runData]
  split
  · rfl
  · rw [State.firmwareWrite_runData, State.firmwareRead_runData]
    exact State.setJob_runData s k q _ rfl

@[simp] theorem State.writeEntries_runData (s : State) (k : Nat) (old : JobRun) (q : Nat) :
    (s.writeEntries k old).runData q = s.runData q := by
  unfold State.writeEntries
  exact foldl_keeps (fun s : State => s.runData q) _ (fun s _ => State.tableWrite_runData s k _ 128 _ q) _ s

@[simp] theorem State.stateIn_runData (s : State) (k n q : Nat) : (s.stateIn k n).runData q = s.runData q := by
  unfold State.stateIn
  exact foldl_keeps (fun s : State => s.runData q) (fun (s : State) (x : Nat × Nat) => s.hubWrite k 7 x.1 x.2)
    (fun s x => State.hubWrite_runData s k 7 x.1 x.2 q) _ s

@[simp] theorem State.trimKeys_job (s : State) (q : Nat) : s.trimKeys.job q = s.job q := rfl

end Sys2Proof.Machine
end

section
/-! O40: the end of a stream's move (R130, R136), and what each of its outcomes leaves in the stream's entry and in job memory. -/

namespace Sys2Proof.Machine

/-! ## Entries of the stream table -/

@[simp] theorem JobRun.setStream_stream (r : JobRun) (n : Nat) (e : Stream) : (r.setStream n e).stream n = e :=
  NMap.getD_put_same _ _ _ _

@[simp] theorem JobRun.setStream_mem (r : JobRun) (n : Nat) (e : Stream) : (r.setStream n e).mem = r.mem := rfl

/-- A stream that a swap-in restores is RESIDENT, with nothing parked and its length as it was (R130). -/
theorem JobRun.restore_entry (r : JobRun) (n bytes : Nat) :
    ((r.restore n bytes).stream n).loc = .resident ∧ ((r.restore n bytes).stream n).parked = 0 ∧
      ((r.restore n bytes).stream n).length = (r.stream n).length := by
  unfold JobRun.restore
  dsimp only
  rw [← JobRun.data_stream, JobRun.count_data, JobRun.data_stream, JobRun.setStream_stream]
  exact ⟨rfl, rfl, rfl⟩

/-- Completing a SWAP_IN touches no stream and no memory. -/
@[simp] theorem JobRun.swapInDone_stream (r : JobRun) (n count q : Nat) : (r.swapInDone n count).stream q = r.stream q := by
  unfold JobRun.swapInDone
  split <;> rfl

@[simp] theorem JobRun.swapInDone_mem (r : JobRun) (n count : Nat) : (r.swapInDone n count).mem = r.mem := by
  unfold JobRun.swapInDone
  split <;> rfl

/-! ## The step -/

theorem exec_streamMoveDone (s : State) (n : Nat) (hn : n < 2 ^ 20) :
    exec (.streamMoveDone n) s = .next (s.moveDone n).trimKeys :=
  checked_of s _ _ (decide_eq_true hn)

theorem State.runningJob_of {s : State} {k : Nat} (h : s.sched.running = some k) (hj : (s.job k).info.state = .running) :
    s.runningJob = some k := by
  simp [State.runningJob, h, hj]

/-- The state of a job as it is when a stream has come into peat and its entry has been written (R103, R280). -/
def State.movedIn (s : State) (k n : Nat) (run : JobRun) : State :=
  (((s.setJob k { s.job k with run }).stateIn k n).writeEntries k (s.job k).run).trimKeys

/-- Writing what has come into peat leaves the run's data as the move has made them. -/
theorem State.movedIn_data (s : State) (k n : Nat) (run : JobRun) (hk : k < s.jobs.length) :
    ((s.movedIn k n run).job k).run.data = run.data := by
  have kept : (s.movedIn k n run).runData k = (s.setJob k { s.job k with run }).runData k := by
    unfold State.movedIn
    rw [State.runData, State.trimKeys_job]
    exact (State.writeEntries_runData _ _ _ _).trans (State.stateIn_runData _ _ _ _)
  rw [State.runData, State.runData, State.setJob_job s k _ hk] at kept
  exact kept

theorem State.movedIn_stream (s : State) (k n : Nat) (run : JobRun) (hk : k < s.jobs.length) (q : Nat) :
    ((s.movedIn k n run).job k).run.stream q = run.stream q := by
  rw [← JobRun.data_stream, State.movedIn_data s k n run hk, JobRun.data_stream]

theorem State.movedIn_mem (s : State) (k n : Nat) (run : JobRun) (hk : k < s.jobs.length) :
    ((s.movedIn k n run).job k).run.mem = run.mem := by
  rw [← JobRun.data_mem, State.movedIn_data s k n run hk, JobRun.data_mem]

/-- A stream whose move fails stands where it was, and the command that needed it fails with STATE_FORMAT (R130, R136). -/
def State.moveFailed (s : State) (k n : Nat) : State :=
  let back := (s.job k).run.setStream n ((s.job k).run.stream n).away
  (s.setJob k { s.job k with run := failMove back n 0x0303 back.queue }).trimKeys

/-- With no command in the queue a failed move changes the stream's entry alone. -/
theorem State.moveFailed_run (s : State) (k n : Nat) (hk : k < s.jobs.length) (hq : (s.job k).run.queue = []) :
    ((s.moveFailed k n).job k).run = (s.job k).run.setStream n ((s.job k).run.stream n).away := by
  have noCmds : ((s.job k).run.setStream n ((s.job k).run.stream n).away).queue = [] := hq
  unfold State.moveFailed
  dsimp only
  rw [State.trimKeys_job, State.setJob_job s k _ hk, noCmds]
  rfl

/-- The host buffer of a stream's image still holds it (R130). -/
def Job.imageHeld (j : Job) (e : Stream) (h : HostPort) : Prop :=
  memRead h.hostMem e.awayAddr (hostSize j.info.confidential e.awaySize) = j.swapStored e

/-- A move from host memory waits: the port is absent (R426), or the SWAP_OUT of the image is not yet published (R35). -/
def State.moveWaits (s : State) (r : JobRun) (n : Nat) : Prop :=
  (s.port (r.stream n).swapPort).absentNow = true ∨ ∃ p ∈ r.publish, p.cmd.desc.opcode = 0x16 ∧ n ∈ p.streams

/-- The run when the image of a COLD stream has come back and its SWAP_IN has completed (R130). -/
def JobRun.swappedIn (r : JobRun) (n : Nat) (confidential : Bool) : JobRun :=
  (r.restore n (hostSize confidential (r.stream n).awaySize)).swapInDone n (r.stream n).swapNeed

/-- The record of a stream that comes from a peer, put into the pages that the move has taken: the run, and the entry (R136). -/
def JobRun.recordIn (r : JobRun) (n : Nat) : JobRun × Stream :=
  let e := r.stream n
  r.placeBody { e with loc := .resident, parked := 0, promise := e.promise - e.need } e.moveBase e.peerBuf

/-- The run when the record of a stream has come from a peer (R136). -/
def JobRun.fetchedIn (r : JobRun) (n : Nat) : JobRun :=
  (r.recordIn n).1.setStream n
    { (r.recordIn n).2 with peerBuf := [], moveBase := 0, herdAddr := 0, awayAddr := 0, awaySize := 0 }

section
variable {s : State} {k n : Nat} (hrun : s.runningJob = some k) (hkind : ((s.job k).run.stream n).kind ≠ 0)
  (hloc : ((s.job k).run.stream n).loc = .moving)
include hrun hkind hloc

theorem State.moveDone_coldWaits (hfrom : ((s.job k).run.stream n).cameFrom = .cold)
    (hwait : s.moveWaits (s.job k).run n) : (s.moveDone n).trimKeys = s.trimKeys := by
  unfold State.moveWaits at hwait
  simp [State.moveDone, hrun, hkind, hloc, hfrom, hwait]

theorem State.moveDone_coldSame (hfrom : ((s.job k).run.stream n).cameFrom = .cold)
    (hgo : ¬ s.moveWaits (s.job k).run n)
    (hsame : (s.job k).imageHeld ((s.job k).run.stream n) (s.port ((s.job k).run.stream n).swapPort)) :
    (s.moveDone n).trimKeys = s.movedIn k n ((s.job k).run.swappedIn n (s.job k).info.confidential) := by
  unfold State.moveWaits at hgo
  unfold Job.imageHeld at hsame
  simp [State.moveDone, State.movedIn, JobRun.swappedIn, hrun, hkind, hloc, hfrom, hgo, hsame]

theorem State.moveDone_coldChanged (hfrom : ((s.job k).run.stream n).cameFrom = .cold)
    (hgo : ¬ s.moveWaits (s.job k).run n)
    (hchanged : ¬ (s.job k).imageHeld ((s.job k).run.stream n) (s.port ((s.job k).run.stream n).swapPort)) :
    (s.moveDone n).trimKeys = s.moveFailed k n := by
  unfold State.moveWaits at hgo
  unfold Job.imageHeld at hchanged
  simp [State.moveDone, State.moveFailed, hrun, hkind, hloc, hfrom, hgo, hchanged]

theorem State.moveDone_peerWaits (hfrom : ((s.job k).run.stream n).cameFrom = .peer)
    (hshort : ((s.job k).run.stream n).peerBuf.length <
      min ((s.job k).run.stream n).awaySize ((s.job k).run.stream n).room) : (s.moveDone n).trimKeys = s.trimKeys := by
  simp only [State.moveDone, hrun, hloc, hfrom, decide_eq_true hshort]
  simp [hkind]

theorem State.moveDone_peerWhole (hfrom : ((s.job k).run.stream n).cameFrom = .peer)
    (hall : min ((s.job k).run.stream n).awaySize ((s.job k).run.stream n).room ≤ ((s.job k).run.stream n).peerBuf.length)
    (hok : bodyOk ((s.job k).run.stream n).peerBuf ((s.job k).run.stream n).room = true) :
    (s.moveDone n).trimKeys = s.movedIn k n ((s.job k).run.fetchedIn n) := by
  simp only [State.moveDone, State.movedIn, JobRun.fetchedIn, JobRun.recordIn, hrun, hloc, hfrom,
    decide_eq_false (Nat.not_lt.mpr hall), hok]
  simp [hkind]

theorem State.moveDone_peerBad (hfrom : ((s.job k).run.stream n).cameFrom = .peer)
    (hall : min ((s.job k).run.stream n).awaySize ((s.job k).run.stream n).room ≤ ((s.job k).run.stream n).peerBuf.length)
    (hbad : bodyOk ((s.job k).run.stream n).peerBuf ((s.job k).run.stream n).room = false) :
    (s.moveDone n).trimKeys = s.moveFailed k n := by
  simp only [State.moveDone, State.moveFailed, hrun, hloc, hfrom, decide_eq_false (Nat.not_lt.mpr hall), hbad]
  simp [hkind]

end

/-- Settles O40: each outcome of a move is the one branch of `State.moveDone` that its conditions leave, and writing what has come into peat
keeps the run's data. -/
theorem streamMoves : Obligations.StreamMoves := by
  unfold Obligations.StreamMoves
  intro s k n hn hsched hstate _ _ _ _ _ _ hkind hloc
  have hrun := State.runningJob_of hsched hstate
  have step := exec_streamMoveDone s n hn
  refine ⟨fun hfrom hthere hnew => ?_, fun hfrom hall => ?_, fun hfrom hwait => ?_, fun hfrom hshort => ?_⟩
  · have hgo : ¬ s.moveWaits (s.job k).run n := by
      rintro (habs | ⟨p, hp, hop, hmem⟩)
      · exact absurd (hthere.symm.trans habs) (by decide)
      · exact hnew p hp hop hmem
    have restored (hsame) := step.trans (congrArg _ (State.moveDone_coldSame hrun hkind hloc hfrom hgo hsame))
    have stays (hchanged) := step.trans (congrArg _ (State.moveDone_coldChanged hrun hkind hloc hfrom hgo hchanged))
    refine ⟨restored, fun hsame hk => ⟨_, restored hsame, ?_⟩, stays, fun hchanged hq hk => ⟨_, stays hchanged, ?_⟩⟩
    · rw [State.movedIn_stream s k n _ hk, State.movedIn_mem s k n _ hk, JobRun.swappedIn, JobRun.swapInDone_stream,
        JobRun.swapInDone_mem]
      obtain ⟨hres, hpark, hlen⟩ := JobRun.restore_entry (s.job k).run n
        (hostSize (s.job k).info.confidential ((s.job k).run.stream n).awaySize)
      exact ⟨hres, hpark, hlen, rfl⟩
    · rw [State.moveFailed_run s k n hk hq, JobRun.setStream_stream]
      exact ⟨hfrom, rfl⟩
  · have whole (hok) := step.trans (congrArg _ (State.moveDone_peerWhole hrun hkind hloc hfrom hall hok))
    refine ⟨whole, fun hok hk => ⟨_, whole hok, ?_⟩,
      fun hbad => step.trans (congrArg _ (State.moveDone_peerBad hrun hkind hloc hfrom hall hbad))⟩
    rw [State.movedIn_stream s k n _ hk, State.movedIn_mem s k n _ hk, JobRun.fetchedIn, JobRun.setStream_stream]
    exact ⟨rfl, rfl, rfl⟩
  · exact step.trans (congrArg _ (State.moveDone_coldWaits hrun hkind hloc hfrom hwait))
  · exact step.trans (congrArg _ (State.moveDone_peerWaits hrun hkind hloc hfrom hshort))

end Sys2Proof.Machine
end

section
/-! SUPPORT. What sending and receiving packets leaves alone: everything but the links and the herd's queues of packets (R380, R382). -/

namespace Sys2Proof.Machine

/-! ## Off the wire -/

/-- The herd less its packets and the flows that count them. -/
def Herd.still (h : Herd) : Herd :=
  { h with inbox := [], held := [], flows := [], unacked := [], waiting := [], pins := [] }

/-- A state less its links and the packets of the herd: what no transport of a packet changes. -/
def State.offWire (s : State) : State := { s with links := [], herd := s.herd.still }

section
variable {s t : State} (h : t.offWire = s.offWire)
include h

theorem State.port_of_offWire (p : Port) : t.port p = s.port p := (congrArg (fun u => u.port p) h :)
theorem State.fw_of_offWire : t.fw = s.fw := (congrArg State.fw h :)
theorem State.cfg_of_offWire : t.cfg = s.cfg := (congrArg State.cfg h :)
theorem State.sec_of_offWire : t.sec = s.sec := (congrArg State.sec h :)
theorem State.powered_of_offWire : t.powered = s.powered := (congrArg State.powered h :)
theorem State.roleServes_of_offWire (k : Nat) : t.roleServes k = s.roleServes k := (congrArg (fun u => u.roleServes k) h :)
theorem State.apWaits_of_offWire : t.herd.apWaits = s.herd.apWaits := (congrArg (fun u => u.herd.apWaits) h :)
theorem State.sendSeq_of_offWire : t.herd.sendSeq = s.herd.sendSeq := (congrArg (fun u => u.herd.sendSeq) h :)
theorem State.apertureAsked_of_offWire (n : Nat) : t.apertureAsked n = s.apertureAsked n :=
  (congrArg (fun u => u.apertureAsked n) h :)

end

/-! ## Sending -/

@[simp] theorem State.setLink_offWire (s : State) (n : Nat) (l : Link) : (s.setLink n l).offWire = s.offWire := rfl

@[simp] theorem State.pumpLink_offWire (s : State) (n : Nat) : (s.pumpLink n).offWire = s.offWire := by
  unfold State.pumpLink
  dsimp only
  split <;> rfl

@[simp] theorem State.putOn_offWire (s : State) (n : Nat) (p : Packet) : (s.putOn n p).offWire = s.offWire := by
  unfold State.putOn
  dsimp only
  rw [State.pumpLink_offWire, State.setLink_offWire]
  split <;> rfl

@[simp] theorem State.trySend_offWire (s : State) (p : Packet) : (s.trySend p).offWire = s.offWire := by
  unfold State.trySend
  dsimp only
  split
  · rfl
  · split
    · rw [State.putOn_offWire]
      rfl
    · rfl

@[simp] theorem State.sendReply_offWire (s : State) (p : Packet) : (s.sendReply p).offWire = s.offWire := by
  unfold State.sendReply
  split
  · rfl
  · split <;> simp

/-- A packet has taken the next number of its space (R382). -/
def State.numbered (s : State) (p : Packet) : State :=
  let key := spaceKey p.job p.dest p.chan
  { s with herd := { s.herd with sendSeq := NMap.put s.herd.sendSeq key (NMap.getD s.herd.sendSeq key 0 + 1) } }

/-- Off the wire a packet's sending is its numbering. -/
theorem State.sendPacket_offWire (s : State) (p : Packet) : (s.sendPacket p).offWire = (s.numbered p).offWire := by
  unfold State.sendPacket
  dsimp only
  split
  · rfl
  · rw [State.trySend_offWire]
    rfl

@[simp] theorem State.sendPacket_port (s : State) (p : Packet) (q : Port) : (s.sendPacket p).port q = s.port q :=
  (State.port_of_offWire (State.sendPacket_offWire s p) q :)

@[simp] theorem State.sendPacket_sec (s : State) (p : Packet) : (s.sendPacket p).sec = s.sec :=
  (State.sec_of_offWire (State.sendPacket_offWire s p) :)

@[simp] theorem State.sendPacket_apWaits (s : State) (p : Packet) : (s.sendPacket p).herd.apWaits = s.herd.apWaits :=
  (State.apWaits_of_offWire (State.sendPacket_offWire s p) :)

/-- The count of the packet's space goes up by one. -/
theorem State.sendPacket_sendSeq (s : State) (p : Packet) :
    NMap.getD (s.sendPacket p).herd.sendSeq (spaceKey p.job p.dest p.chan) 0 =
      NMap.getD s.herd.sendSeq (spaceKey p.job p.dest p.chan) 0 + 1 := by
  rw [State.sendSeq_of_offWire (State.sendPacket_offWire s p)]
  exact NMap.getD_put_same _ _ _ _

/-! ## Receiving -/

@[simp] theorem State.ackFlows_offWire (s : State) (fs : List RxFlow) : (s.ackFlows fs).offWire = s.offWire := by
  induction fs generalizing s with
  | nil => rfl
  | cons f fs ih =>
    unfold State.ackFlows
    rw [ih, State.sendReply_offWire]
    rfl

@[simp] theorem State.takePacket_offWire (s : State) (p : Packet) : (s.takePacket p).offWire = s.offWire := by
  unfold State.takePacket
  dsimp only
  split <;> rfl

@[simp] theorem State.received_offWire (s : State) (p : Packet) : (s.received p).offWire = s.offWire := by
  unfold State.received
  dsimp only
  split
  · rfl
  · split
    · rw [State.ackFlows_offWire]
      rfl
    · rfl

/-- Taking a packet from the inbox leaves what has been received before (R382). -/
theorem State.takePacket_fresh? (s : State) (p : Packet) : (s.takePacket p).fresh? p = s.fresh? p := by
  unfold State.takePacket
  dsimp only
  split <;> rfl

/-- The state in which a packet that has not come before is handled: it has left the inbox and counts as received (R382). -/
def State.accept (s : State) (p : Packet) : State := (s.takePacket p).received p

theorem State.accept_offWire (s : State) (p : Packet) : (s.accept p).offWire = s.offWire := by
  rw [State.accept, State.received_offWire, State.takePacket_offWire]

/-- A packet that has not come before is taken. -/
theorem State.receipt_fresh {s : State} {p : Packet} (h : s.fresh? p = true) (refuse take : State) :
    (s.takePacket p).receipt p refuse take = take := by
  rw [State.receipt, State.takePacket_fresh?, if_pos h]

end Sys2Proof.Machine
end

section
/-! SUPPORT. Register accesses (R10, R429, R431): what a write does by its width, how an access leaves through the aperture, and
how a request for a range of registers is served. -/

namespace Sys2Proof.Machine

/-! ## Writes (R10) -/

theorem exec_registerWrite (s : State) (p : Port) (off w x : Nat) (h : off + w ≤ 2 ^ 26) :
    exec (.registerWrite p off w x) s = .next (s.writeReg p off (leBytes w x) false) :=
  checked_of s _ _ (decide_eq_true h)

section
variable {s : State} {p : Port} {off : Nat} {data : List Byte} {viaMgmt : Bool} (hp : s.powered = true)
include hp

/-- A write of another width than the register's own is ignored and counted. -/
theorem State.writeReg_otherWidth (hoff : off < 0x2000000) {n v : Nat} (hr : s.readReg p off = some (n, v))
    (hn : data.length ≠ n) : s.writeReg p off data viaMgmt = s.hostCount p 0x48 := by
  simp [State.writeReg, hp, ringMemAt, Nat.not_le.mpr hoff, hr, hn]

/-- A write where no register begins is ignored, and counted where it meets one. -/
theorem State.writeReg_noRegister (hoff : off < 0x2000000) (hr : s.readReg p off = none) :
    s.writeReg p off data viaMgmt = if s.meets p off data.length then s.hostCount p 0x48 else s := by
  simp [State.writeReg, hp, ringMemAt, Nat.not_le.mpr hoff, hr]

/-- A write of the register's own width acts. -/
theorem State.writeReg_ownWidth (hoff : off < 0x2000000) {n v : Nat} (hr : s.readReg p off = some (n, v))
    (hn : data.length = n) :
    s.writeReg p off data viaMgmt = s.storeReg p off (BitVec.ofNat 64 (leNat (data.take 8))) viaMgmt := by
  simp [State.writeReg, hp, ringMemAt, Nat.not_le.mpr hoff, hr, hn]

/-- Ring memory takes any width (R408). -/
theorem State.writeReg_ringMem (hoff : 0x2000000 ≤ off) : s.writeReg p off data viaMgmt = s.writeRingMem p off data := by
  simp [State.writeReg, hp, ringMemAt, hoff]

end

/-- HOST_BAR2_BASE keeps the bits of its granularity (R423). -/
theorem State.writeReg_bar2Base {s : State} {p : Port} (hp : s.powered = true) (v : W64) (viaMgmt : Bool) :
    s.writeReg p 0x38 (leBytes 8 v.toNat) viaMgmt =
      s.setPort p { s.port p with bar2Base := v &&& 0xFFFFFFFFFFE00000 } := by
  have value : BitVec.ofNat 64 (leNat ((leBytes 8 v.toNat).take 8)) = v := by
    rw [List.take_of_length_le (by simp), Laws.leNat_leBytes, Nat.mod_eq_of_lt (show v.toNat < 256 ^ 8 from v.isLt),
      BitVec.ofNat_toNat, BitVec.setWidth_eq]
  rw [State.writeReg_ownWidth hp (by decide) (n := 8) (v := (s.port p).bar2Base.toNat) rfl (Laws.length_leBytes 8 _), value]
  rfl

@[simp] theorem State.writeRingMem_ringMem (s : State) (p : Port) (off : Nat) (bs : List Byte) :
    ((s.writeRingMem p off bs).port p).ringMem = memWrite (s.port p).ringMem (off - 0x2000000) bs := by
  simp [State.writeRingMem, ringMemAt]

@[simp] theorem State.writeRingMem_sec (s : State) (p : Port) (off : Nat) (bs : List Byte) :
    (s.writeRingMem p off bs).sec = s.sec := State.setPort_sec _ _ _

/-! ## The aperture (R431) -/

@[simp] theorem State.emuSend_port (s : State) (p : Port) (op o : Nat) (bs : List Byte) :
    (s.emuSend p op o bs).port p = { s.port p with
      emuSeq := (s.port p).emuSeq + 1
      emuReads := if op = 1 then (s.port p).emuReads ++ [(s.port p).emuNext p] else (s.port p).emuReads
      emuWrites := if op = 2 then (s.port p).emuWrites ++ [(s.port p).emuNext p] else (s.port p).emuWrites } := by
  simp [State.emuSend]

@[simp] theorem State.emuSend_sec (s : State) (p : Port) (op o : Nat) (bs : List Byte) : (s.emuSend p op o bs).sec = s.sec := by
  simp [State.emuSend]

@[simp] theorem State.emuSend_apWaits (s : State) (p : Port) (op o : Nat) (bs : List Byte) :
    (s.emuSend p op o bs).herd.apWaits = s.herd.apWaits := by
  simp [State.emuSend]

theorem apertureOk_of {off : Nat} (hlo : 0x8000 ≤ off) (hhi : off < 0x10000) (h4 : off % 4 = 0) : apertureOk off = true := by
  simp [apertureOk, hlo, hhi, h4]

theorem exec_emuApertureRead {s : State} (hp : s.powered = true) (p : Port) {off : Nat} (hoff : apertureOk off = true) :
    exec (.emuApertureRead p off) s = .next (s.emuSend p 1 off []) := by
  refine (checked_of s _ _ hoff).trans ?_
  rw [if_pos hp]

theorem exec_emuApertureWrite {s : State} (hp : s.powered = true) (p : Port) {off : Nat} (hoff : apertureOk off = true)
    (v : W32) : exec (.emuApertureWrite p off v) s = .next (s.emuSend p 2 off (leBytes 4 v.toNat)) := by
  refine (checked_of s _ _ hoff).trans ?_
  rw [if_pos hp]

@[simp] theorem State.firmwareReply_port (s : State) (q : Packet) (a : List Byte) (p : Port) :
    (s.firmwareReply q a).port p = s.port p := State.sendPacket_port _ _ _

/-- Answering a READ that waited touches no port. -/
@[simp] theorem State.apertureReply_port (s : State) (x : ApWait) (p : Port) : (s.apertureReply x).port p = s.port p := by
  unfold State.apertureReply
  dsimp only
  split
  · rfl
  · exact State.firmwareReply_port _ _ _ _
  · rfl

@[simp] theorem State.apertureGives_port (s : State) (seq : Nat) (bs : List Byte) (p : Port) :
    (s.apertureGives seq bs).port p = s.port p := by
  unfold State.apertureGives
  exact foldl_keeps (fun s : State => s.port p) _ (fun s x => State.apertureReply_port s x p) _ _

/-- A read that goes unanswered ends: the host's own reads 0 (R431). -/
theorem execEmuReadTimeout_port {s : State} {p : Port} {x : Nat} {rest : List Nat} (h : (s.port p).emuReads = x :: rest) :
    ∃ t, exec (.emuReadTimeout p) s = .next t ∧ t.port p = { s.port p with
      emuReads := rest, emuTimeout := true, emuErrors := min (2 ^ 64 - 1) ((s.port p).emuErrors + 1)
      reply := if !s.apertureAsked x then leBytes 4 0 else (s.port p).reply } := by
  refine ⟨_, rfl, ?_⟩
  dsimp only
  rw [h]
  simp

/-- The oldest read of a port is answered: it leaves the list, and the host's own returns its value (R431). -/
theorem State.emuAnswer_oldest {s : State} {p : Port} {x : Nat} {rest data : List _} (hp : portOf x = p)
    (h : (s.port p).emuReads = x :: rest) (hrest : ∀ y ∈ rest, y ≠ x) (hown : s.apertureAsked x = false) :
    ((s.emuAnswer x 3 data).port p).emuReads = rest ∧ ((s.emuAnswer x 3 data).port p).reply = data.take 4 := by
  have left : (x :: rest).filter (· != x) = rest := by
    simpa using hrest
  simp [State.emuAnswer, hp, h, hown, left]

/-! ## Serving a request (R429) -/

/-- The bytes that spell a number come back from it. -/
theorem leBytes_leNat (bs : List Byte) : leBytes bs.length (leNat bs) = bs := by
  induction bs with
  | nil => rfl
  | cons b bs ih =>
    have low : BitVec.ofNat 8 (b.toNat + 256 * leNat bs) = b := BitVec.eq_of_toNat_eq (by have := b.isLt; simp; omega)
    have high : (b.toNat + 256 * leNat bs) / 256 = leNat bs := by have := b.isLt; omega
    simp only [List.length_cons, leNat, leBytes, low, high, ih]

theorem length_memRead (m : NMap Byte) (a n : Nat) : (memRead m a n).length = n := by
  induction n generalizing a with
  | zero => rfl
  | succ n ih => simp [memRead, ih]

theorem State.length_readWord (s : State) (p : Port) (off : Nat) : (s.readWord p off).length = 4 := by
  unfold State.readWord
  split
  · exact length_memRead _ _ _
  · split <;> exact Laws.length_leBytes 4 _

theorem State.length_readWords (s : State) (p : Port) (off n : Nat) : (s.readWords p off n).length = 4 * n := by
  simp [State.readWords, State.length_readWord, Nat.mul_comm]

/-- A range that a request may name: in BAR0, of whole words, and not longer than the transport carries. -/
structure RangeOk (off len limit : Nat) : Prop where
  inside : off + len ≤ 2 ^ 26
  aligned : off % 4 = 0
  whole : len % 4 = 0
  nonempty : 4 ≤ len
  short : len ≤ limit

/-- A READ is served with the words of its range. -/
theorem State.serve_read (s : State) (p : Port) {off len limit : Nat} (ok : RangeOk off len limit) (data : List Byte)
    (viaMgmt : Bool) : s.serve 1 p off len limit data viaMgmt =
      (3, (s.afterRead p).readWords p off (len / 4), s.afterRead p) := by
  obtain ⟨hin, hal, hwh, hlen, hshort⟩ := ok
  simp [State.serve, hal, hwh, Nat.not_lt.mpr hlen, Nat.not_lt.mpr hshort]
  omega

/-- A WRITE of one word of ring memory stores it. -/
theorem State.serve_writeWord {s : State} (hp : s.powered = true) (p : Port) {off limit : Nat} (ok : RangeOk off 4 limit)
    (hring : 0x2000000 ≤ off) {data : List Byte} (hd : data.length = 4) (viaMgmt : Bool) :
    s.serve 2 p off 4 limit data viaMgmt = (3, [], s.writeRingMem p off data) := by
  obtain ⟨hin, hal, -, -, hshort⟩ := ok
  have notNil : data ≠ [] := by
    rintro rfl
    exact absurd hd (by decide)
  simp [State.serve, hal, Nat.not_lt.mpr hshort, hd, State.wholeRegs, ringMemAt, hring, State.writeWords,
    notNil, State.writeReg_ringMem hp hring, List.take_of_length_le hd.le]
  omega

/-- A request that has not been answered is served, and its answer remembered. -/
theorem State.serveOnce_new {s : State} {src seq : Nat} (h : s.answered src seq = none) {op : Nat} {p : Port}
    {off len limit : Nat} {data bs : List Byte} {viaMgmt : Bool} {r : Nat} {t : State}
    (hs : s.serve op p off len limit data viaMgmt = (r, bs, t)) :
    s.serveOnce src seq op p off len limit data viaMgmt =
      (leBytes 1 r ++ bs, t.remember src seq (leBytes 1 r ++ bs)) := by
  simp [State.serveOnce, h, hs]

/-- A READ, new or repeated, numbers no packet. -/
theorem State.serveOnce_read_sendSeq (s : State) (src seq : Nat) (p : Port) (off len limit : Nat) (data : List Byte)
    (viaMgmt : Bool) : (s.serveOnce src seq 1 p off len limit data viaMgmt).2.herd.sendSeq = s.herd.sendSeq := by
  obtain ⟨r, bs, t, hs⟩ : ∃ r bs t, s.serve 1 p off len limit data viaMgmt = (r, bs, t) := ⟨_, _, _, rfl⟩
  have served : t.herd = s.herd := by
    rw [show t = (s.serve 1 p off len limit data viaMgmt).2.2 by rw [hs]]
    unfold State.serve
    split
    · rfl
    · split <;> rfl
  cases ha : s.answered src seq with
  | some a => simp [State.serveOnce, ha]
  | none =>
    rw [State.serveOnce_new ha hs]
    exact (congrArg Herd.sendSeq served :)

/-! ## READs through the aperture (R429, R431) -/

/-- One word of the aperture is asked for: its place and number join the list. -/
def ApWait.ask (x : ApWait) (z : State × List (Nat × Nat × Option (List Byte))) (i : Nat) :
    State × List (Nat × Nat × Option (List Byte)) :=
  (z.1.emuSend x.port 1 (x.off + 4 * i - 0x80000) [], z.2 ++ [(i, (z.1.port x.port).emuNext x.port, none)])

/-- The words asked for are those of the range, in order. -/
theorem ApWait.ask_places (x : ApWait) (ws : List Nat) (z : State × List (Nat × Nat × Option (List Byte))) :
    (ws.foldl x.ask z).2.map (·.1) = z.2.map (·.1) ++ ws := by
  induction ws generalizing z with
  | nil => simp
  | cons w ws ih => rw [List.foldl_cons, ih]; simp [ApWait.ask]

/-- The state in which a READ has asked for its words of the aperture, and what it waits for. -/
def State.wordsAsked (s : State) (x : ApWait) : State × List (Nat × Nat × Option (List Byte)) :=
  (apertureWords x.off x.len).foldl x.ask (s.afterRead x.port, [])

theorem State.wordsAsked_places (s : State) (x : ApWait) : (s.wordsAsked x).2.map (·.1) = apertureWords x.off x.len :=
  ApWait.ask_places x _ _

theorem State.wordsAsked_apWaits (s : State) (x : ApWait) : (s.wordsAsked x).1.herd.apWaits = s.herd.apWaits :=
  foldl_keeps (fun z : State × List _ => z.1.herd.apWaits) x.ask (fun _ _ => State.emuSend_apWaits _ _ _ _ _) _ _

theorem State.wordsAsked_sec (s : State) (x : ApWait) : (s.wordsAsked x).1.sec = s.sec :=
  foldl_keeps (fun z : State × List _ => z.1.sec) x.ask (fun _ _ => State.emuSend_sec _ _ _ _ _) _ _

/-- A READ through the aperture that does not wait yet asks for its words and joins those that wait. -/
theorem State.askAperture_new {s : State} {x : ApWait} (h : ∀ y ∈ s.herd.apWaits, ¬ (y.src = x.src ∧ y.seq = x.seq)) :
    s.askAperture x = { (s.wordsAsked x).1 with herd := { (s.wordsAsked x).1.herd with
      apWaits := s.herd.apWaits ++ [{ x with reads := (s.wordsAsked x).2 }] } } := by
  have new : s.herd.apWaits.any (fun y => y.src == x.src && y.seq == x.seq) = false := by
    simpa using h
  rw [← State.wordsAsked_apWaits s x, State.askAperture, new]
  rfl

/-- Whether a READ of a good range goes through the aperture turns on its words alone. -/
theorem throughAperture_read {off len limit : Nat} (ok : RangeOk off len limit) :
    throughAperture 1 off len limit = (apertureWords off len != []) := by
  obtain ⟨hin, hal, hwh, -, hshort⟩ := ok
  simp only [throughAperture, decide_eq_true hin, hal, hwh, decide_eq_true hshort, beq_self_eq_true, Bool.true_and]

end Sys2Proof.Machine
end

section
/-! SUPPORT. The transports of requests: the management network (R429, R465) and the herd's FIRMWARE packets (R430). -/

namespace Sys2Proof.Machine

/-! ## The management network (R429, R465) -/

/-- The source that a management port's session stands for among the requests answered (R429). -/
def State.mgmtSource (s : State) (p : Port) : Nat := 2 ^ 16 + portNum p + 2 * (s.mgmtSession p).epoch

/-- An answer leaves by a management port. -/
def State.replied (s : State) (p : Port) (bs : List Byte) : State :=
  { s with sec := { s.sec with replies := s.sec.replies ++ [(p, bs)] } }

theorem exec_wemu (s : State) (p : Port) (m : WemuMsg) {c : Instr}
    (h : (c = .wemuRead p m ∧ m.op = 1) ∨ (c = .wemuWrite p m ∧ m.op = 2)) : exec c s = .next (s.wemu p m.op m) := by
  rcases h with ⟨rfl, hop⟩ | ⟨rfl, hop⟩ <;> rw [hop] <;> rfl

section
variable {s : State} {p : Port} {m : WemuMsg} (hp : s.powered = true) (hsap : s.fw.sapwood.isSome = true)
  (hup : (s.mgmtSession p).up = true)
include hp hsap hup

/-- A message whose tag fails is discarded (R465). -/
theorem State.wemu_discarded (ho : (s.mgmtSession p).opens m = none) : s.wemu p m.op m = s := by
  simp [State.wemu, hp, hsap, hup, ho]

variable {data : List Byte} (ho : (s.mgmtSession p).opens m = some data)
include ho

/-- A request waits while the power core is down (R444). -/
theorem State.wemu_held (hr : s.roleServes 2 = false) : s.wemu p m.op m = s.hold (.wemu p m.op m) := by
  simp [State.wemu, hp, hsap, hup, ho, hr]

variable (hr : s.roleServes 2 = true) (ha : s.answered (s.mgmtSource p) m.seq = none)
include hr ha

/-- A READ that takes in words of the aperture asks for them. -/
theorem State.wemu_asked (ht : throughAperture m.op m.off m.len 1024 = true) :
    s.wemu p m.op m = s.askAperture
      { src := s.mgmtSource p, seq := m.seq, port := m.port, off := m.off, len := m.len, msg := some (p, m) } := by
  unfold State.mgmtSource at ha ⊢
  simp only [State.wemu, hp, hsap, hup, ho, hr, ht, ha]
  simp

/-- Any other request is served, and its answer is sealed for the port it came by. -/
theorem State.wemu_served (ht : throughAperture m.op m.off m.len 1024 = false) {r : Nat} {bs : List Byte} {t : State}
    (hs : s.serve m.op m.port m.off m.len 1024 data true = (r, bs, t)) :
    s.wemu p m.op m = (t.remember (s.mgmtSource p) m.seq (leBytes 1 r ++ bs)).replied p
      (wemuAnswer (s.mgmtSession p) m (leBytes 1 r ++ bs)) := by
  have once := State.serveOnce_new ha hs
  unfold State.mgmtSource at once ⊢
  simp only [State.wemu, hp, hsap, hup, ho, hr, ht, once, State.replied]
  simp

end

/-- A READ of the management network that takes in no word of the aperture is answered with the bytes of its range (R429). -/
theorem State.wemu_readAnswered {s : State} {p : Port} {m : WemuMsg} {data : List Byte} (hp : s.powered = true)
    (hsap : s.fw.sapwood.isSome = true) (hup : (s.mgmtSession p).up = true) (ho : (s.mgmtSession p).opens m = some data)
    (hr : s.roleServes 2 = true) (ha : s.answered (s.mgmtSource p) m.seq = none) (ok : RangeOk m.off m.len 1024)
    (hop : m.op = 1) (hno : apertureWords m.off m.len = []) :
    (s.wemu p m.op m).jobs = s.jobs ∧ ∃ body, body.length = m.len ∧ (s.wemu p m.op m).sec.replies =
      s.sec.replies ++ [(p, wemuAnswer (s.mgmtSession p) m (leBytes 1 3 ++ body))] := by
  have ht : throughAperture m.op m.off m.len 1024 = false := by
    rw [hop, throughAperture_read ok, hno]
    rfl
  have hs := State.serve_read s m.port ok data true
  rw [← hop] at hs
  rw [State.wemu_served hp hsap hup ho hr ha ht hs]
  refine ⟨rfl, _, ?_, rfl⟩
  rw [State.length_readWords, Nat.mul_div_cancel' (Nat.dvd_of_mod_eq_zero ok.whole)]

/-- A WRITE of one word of ring memory from the management network acts and is answered (R429). -/
theorem State.wemu_wordWritten {s : State} {p : Port} {m : WemuMsg} {data : List Byte} (hp : s.powered = true)
    (hsap : s.fw.sapwood.isSome = true) (hup : (s.mgmtSession p).up = true) (ho : (s.mgmtSession p).opens m = some data)
    (hr : s.roleServes 2 = true) (ha : s.answered (s.mgmtSource p) m.seq = none) (ok : RangeOk m.off m.len 1024)
    (hop : m.op = 2) (hd : data.length = 4) (hlen : m.len = 4) (hring : 0x2000000 ≤ m.off) :
    ((s.wemu p m.op m).port m.port).ringMem = memWrite (s.port m.port).ringMem (m.off - 0x2000000) (leBytes 4 (leNat data)) ∧
      (s.wemu p m.op m).sec.replies = s.sec.replies ++ [(p, wemuAnswer (s.mgmtSession p) m (leBytes 1 3))] := by
  have ht : throughAperture m.op m.off m.len 1024 = false := by
    rw [hop]
    rfl
  rw [hlen] at ok
  have hs := State.serve_writeWord hp m.port ok hring hd true
  rw [← hlen, ← hop] at hs
  rw [State.wemu_served hp hsap hup ho hr ha ht hs]
  refine ⟨?_, ?_⟩
  · rw [← hd, leBytes_leNat]
    exact State.writeRingMem_ringMem s m.port m.off data
  · exact congrArg (· ++ _) (congrArg Sec.replies (State.writeRingMem_sec s m.port m.off data))

/-! ## The herd (R430) -/

theorem exec_packetFirmware (s : State) {q : Packet} (h : q.type = 0x10) : exec (.packetFirmware q) s = .next (s.firmware q) :=
  checked_of s _ _ (beq_iff_eq.mpr h)

section
variable {s : State} {q : Packet} (hf : s.fresh? q = true)
include hf

/-- An answer ends its aperture access. -/
theorem State.firmware_answer (hop : fld q.opA 28 4 = 3) :
    s.firmware q = (s.accept q).emuAnswer (fld q.opB 32 32) 3 q.payload := by
  rw [State.firmware, State.receipt_fresh hf]
  simp [hop, State.accept]

variable (hp : s.powered = true) (hsap : s.fw.sapwood.isSome = true) (hop : fld q.opA 28 4 = 1)
include hp hsap hop

/-- A READ waits while the power core is down (R444), and else is served. -/
theorem State.firmware_read : s.firmware q =
    if s.roleServes 2 then (s.accept q).firmwareRequest q else (s.accept q).hold (.firmware q) := by
  have still := State.accept_offWire s q
  rw [← State.powered_of_offWire still] at hp
  rw [← State.fw_of_offWire still] at hsap
  rw [← State.roleServes_of_offWire still 2, State.firmware, State.receipt_fresh hf]
  unfold State.accept at hp hsap ⊢
  simp [hop, hp, hsap]

end

/-- An answer is a packet of channel 2, outside any job (R430). -/
theorem State.firmwareReply_sendSeq (s : State) (q : Packet) (a : List Byte) :
    NMap.getD (s.firmwareReply q a).herd.sendSeq (spaceKey 0 q.src 2) 0 =
      NMap.getD s.herd.sendSeq (spaceKey 0 q.src 2) 0 + 1 :=
  State.sendPacket_sendSeq s _

/-- A READ is answered at once where its module is no controller or its range takes in no word of the aperture. -/
theorem State.firmwareRequest_sendSeq (s : State) {q : Packet} (hop : fld q.opA 28 4 = 1)
    (h : s.cfg.controllers.contains q.src = false ∨ apertureWords (fld q.opA 0 26) (fld q.opB 0 16) = []) :
    NMap.getD (s.firmwareRequest q).herd.sendSeq (spaceKey 0 q.src 2) 0 =
      NMap.getD s.herd.sendSeq (spaceKey 0 q.src 2) 0 + 1 := by
  unfold State.firmwareRequest
  dsimp only
  split
  · exact State.firmwareReply_sendSeq _ _ _
  · next hctl =>
    have noWords := h.resolve_left (fun hno => hctl (by rw [hno]; rfl))
    rw [if_neg (by simp [throughAperture, noWords]), State.firmwareReply_sendSeq, hop, State.serveOnce_read_sendSeq]

end Sys2Proof.Machine
end

section
/-! O53: register accesses from a host port, through the aperture, and from the management network and the herd. -/

namespace Sys2Proof.Machine

/-- Settles O53: each transport's access is one branch of its meaning, and what carries packets leaves the ports as they are. -/
theorem remoteRegisters : Obligations.RemoteRegisters := by
  unfold Obligations.RemoteRegisters
  intro s p hp
  refine ⟨fun off w x n v hin hoff hr hw => ?_, fun off w x hin hoff hr => ?_, fun v => ?_, fun off w x hring hin => ?_,
    fun off hlo hhi h4 => ?_, fun x rest hx => ?_, fun m c hsap hup ha hin hal hwh hlen hshort hc => ?_,
    fun q htype hf => ⟨fun hop hsap hr => ?_, fun hop hsap hr hq => ?_, fun x rest hop hpo hx hseq hrest hown => ?_⟩⟩
  · rw [exec_registerWrite s p off w x hin, State.writeReg_otherWidth hp hoff hr (by simpa using hw)]
  · rw [exec_registerWrite s p off w x hin, State.writeReg_noRegister hp hoff hr, Laws.length_leBytes]
  · rw [exec_registerWrite s p 0x38 8 v.toNat (by decide), State.writeReg_bar2Base hp]
  · refine ⟨_, exec_registerWrite s p off w x hin, ?_⟩
    rw [State.writeReg_ringMem hp hring, State.writeRingMem_ringMem]
  · have hoff := apertureOk_of hlo hhi h4
    refine ⟨⟨_, exec_emuApertureRead hp p hoff, ?_⟩, fun v => ⟨_, exec_emuApertureWrite hp p hoff v, ?_⟩⟩
    · rw [State.emuSend_port]
      exact ⟨rfl, rfl⟩
    · rw [State.emuSend_port]
      exact ⟨rfl, rfl⟩
  · obtain ⟨t, ht, hport⟩ := execEmuReadTimeout_port hx
    refine ⟨t, ht, ?_⟩
    rw [hport]
    refine ⟨rfl, ?_, rfl, rfl⟩
    cases s.apertureAsked x <;> rfl
  · have ok : RangeOk m.off m.len 1024 := ⟨hin, hal, hwh, hlen, hshort⟩
    refine ⟨_, exec_wemu s p m hc, State.wemu_discarded hp hsap hup, fun data ho => ⟨State.wemu_held hp hsap hup ho,
      fun hr hop hwords hnew => ?_, fun hr => State.wemu_readAnswered hp hsap hup ho hr ha ok,
      fun hr => State.wemu_wordWritten hp hsap hup ho hr ha ok⟩⟩
    have ht : throughAperture m.op m.off m.len 1024 = true := by
      rw [hop, throughAperture_read ok]
      simpa using hwords
    rw [State.wemu_asked hp hsap hup ho hr ha ht, State.askAperture_new hnew]
    exact ⟨_, rfl, rfl, State.wordsAsked_places s _, congrArg Sec.replies (State.wordsAsked_sec s _)⟩
  · refine ⟨_, exec_packetFirmware s htype, ?_⟩
    rw [State.firmware_read hf hp hsap hop, hr]
    exact congrArg (fun f : Firmware => f.held ++ [_]) (State.fw_of_offWire (State.accept_offWire s q))
  · refine ⟨_, exec_packetFirmware s htype, ?_⟩
    rw [← State.cfg_of_offWire (State.accept_offWire s q)] at hq
    rw [State.firmware_read hf hp hsap hop, if_pos hr, State.firmwareRequest_sendSeq _ hop hq,
      State.sendSeq_of_offWire (State.accept_offWire s q)]
  · refine ⟨_, exec_packetFirmware s htype, ?_⟩
    have still := State.accept_offWire s q
    rw [← State.port_of_offWire still] at hx
    rw [← State.apertureAsked_of_offWire still] at hown
    rw [State.firmware_answer hf hop, hseq]
    exact State.emuAnswer_oldest (hseq ▸ hpo) hx hrest hown

end Sys2Proof.Machine
end

section
/-! SUPPORT. What every command keeps: the queue of waiting commands, the P6's numbers of things (R24, R298, R330, R370), and each
blown fuse (R451). Most operations keep the whole shape of the state; these are the others, and the commands that reach them. -/

namespace Sys2Proof.Machine

/-! ## The relation -/

/-- What a command that takes `s` to `t` has kept: the queue, the numbers of things, and what the fuses hold. -/
structure State.Keeps (s t : State) : Prop where
  pending : t.pending = s.pending
  sized : s.sized → t.sized
  fuses : s.fuses.risen t.fuses

theorem Fuses.risen_refl (a : Fuses) : a.risen a := by simp [Fuses.risen]

theorem Fuses.risen_trans {a b c : Fuses} (h : a.risen b) (g : b.risen c) : a.risen c := by
  obtain ⟨hh, hs, hl, hi, hk, hr⟩ := h
  obtain ⟨gh, gs, gl, gi, gk, gr⟩ := g
  refine ⟨hh.trans gh, hs.trans gs, ?_, ?_, gk ∘ hk, fun u hu => gr u (hr u hu)⟩
  · rw [← gl, ← Nat.lor_assoc, hl]
  · rw [← gi, ← Nat.lor_assoc, hi]

theorem State.Keeps.of_shape {s t : State} (h : t.shape = s.shape) : s.Keeps t := by
  simp only [State.shape, Shape.mk.injEq] at h
  obtain ⟨hp, hf, hj, hl, hc, hi⟩ := h
  refine ⟨hp, ?_, hf ▸ Fuses.risen_refl _⟩
  simp [State.sized, hj, hl, hc, hi]

theorem State.Keeps.refl (s : State) : s.Keeps s := .of_shape rfl

theorem State.Keeps.trans {s t u : State} (h : s.Keeps t) (g : t.Keeps u) : s.Keeps u :=
  ⟨g.pending.trans h.pending, g.sized ∘ h.sized, Fuses.risen_trans h.fuses g.fuses⟩

/-- An operation that keeps the shape may follow. -/
theorem State.Keeps.shape {s t u : State} (h : s.Keeps t) (g : u.shape = t.shape) : s.Keeps u := h.trans (.of_shape g)

theorem State.Keeps.ite {s t u : State} {c : Prop} [Decidable c] (ht : s.Keeps t) (hu : s.Keeps u) :
    s.Keeps (if c then t else u) := by
  split
  · exact ht
  · exact hu

/-- A change of fuses that only rise, and of nothing else that is kept. -/
theorem State.Keeps.blow {s : State} {f : Fuses} (h : s.fuses.risen f) : s.Keeps { s with fuses := f } := ⟨rfl, id, h⟩

/-- Wherever an outcome ends in a state, that state has kept what `s` holds. -/
def State.Kept (s : State) (o : Host.Outcome State Fault Refusal) : Prop := ∀ t, o = .next t → s.Keeps t

theorem kept_next {s t : State} (h : s.Keeps t) : s.Kept (.next t) := by
  rintro u ⟨⟩
  exact h

theorem kept_checked {s t : State} {ok : Bool} (h : s.Keeps t) : s.Kept (checked s ok t) := kept_next (h.ite (.refl s))

theorem ranTo_keeps {s : State} {o : Host.Outcome State Fault Refusal} (h : s.Kept o) : s.Keeps (ranTo s o) := by
  cases o with
  | next t => exact h t rfl
  | fault r => exact .refl s
  | refused r => exact .refl s

/-! ## Start-up and the life-cycle (R474, R476, R498, R516) -/

theorem State.dark_keeps (s : State) (ph : Phase) : s.Keeps (s.dark ph) := by
  refine ⟨rfl, ?_, Fuses.risen_refl _⟩
  simp +contextual [State.sized, State.dark]

/-- Power may go after what keeps. -/
theorem State.Keeps.darkened {s t : State} {ph : Phase} (h : s.Keeps t) : s.Keeps (t.dark ph) := h.trans (t.dark_keeps ph)

theorem State.killed_keeps (s : State) (intent : Nat) : s.Keeps (s.killed intent) :=
  .blow (by simp [Fuses.risen])

theorem State.destroyed_keeps (s : State) (intent : Nat) : s.Keeps (s.destroyed intent) :=
  (s.killed_keeps intent).shape rfl

/-- An LC bit is blown. -/
theorem State.blowLc_keeps (s : State) (n : Nat) : s.Keeps { s with fuses := { s.fuses with lc := s.fuses.lc ||| n } } :=
  .blow (by simp [Fuses.risen])

theorem State.scrap_keeps (s : State) : s.Keeps s.scrap := (s.blowLc_keeps 8).darkened

theorem State.return'_keeps (s : State) : s.Keeps s.return' := (s.blowLc_keeps 4).darkened

theorem State.configure_keeps (s : State) (i : StartIn) : s.Keeps (s.configure i) :=
  ⟨rfl, id, by simp +contextual [Fuses.risen, State.configure]⟩

/-- Step 5 sets the 100 island clocks anew; the rest of start-up keeps the shape. -/
theorem State.finish_keeps (s : State) (i : StartIn) : s.Keeps (s.finish i) := by
  unfold State.finish
  extract_lets s5 s7 s8 _ s9 s10
  have h7 : s.Keeps s7 := ⟨rfl, by simp +contextual [State.sized, s7, s5], Fuses.risen_refl _⟩
  refine h7.shape ?_
  dsimp only
  split <;> simp [s8, s9, s10]

/-- Start-up halts, resumes a transition that scraps or returns the module, or configures and finishes (R476, R498, R501). -/
theorem State.boot_keeps (s : State) (i : StartIn) : s.Keeps (s.boot i) := by
  unfold State.boot
  extract_lets good first _ _ s1
  have h1 : s.Keeps s1 := .of_shape rfl
  refine .ite (.of_shape rfl) (h1.trans (.ite ?_ (.ite ?_ ?_)))
  · exact (s1.destroyed_keeps 2).trans (State.scrap_keeps _)
  · exact (s1.destroyed_keeps 1).trans (State.return'_keeps _)
  · exact (s1.configure_keeps i).trans (State.finish_keeps _ i)

theorem State.startUp_keeps (s : State) (i : StartIn) : s.Keeps (s.startUp i) := by
  unfold State.startUp
  extract_lets s0 _ s1
  have h1 : s.Keeps s1 := (s.dark_keeps .off).shape rfl
  exact .ite h1 (.ite (h1.shape rfl) (h1.trans (s1.boot_keeps i)))

theorem execRecover_kept (image : List Byte) (i : StartIn) (s : State) : s.Kept (execRecover image i s) := by
  unfold execRecover
  refine kept_next ?_
  extract_lets r s1 _ s2 s3
  have h1 : s.Keeps s1 := .of_shape (by simp [s1])
  have h2 : s.Keeps s2 := h1.shape rfl
  have h3 : s.Keeps s3 := h2.trans (s2.boot_keeps _)
  exact .ite (.of_shape (by simp)) (.ite h1 (.ite (h3.shape (by simp)) h3))

theorem State.transition_keeps (s : State) : s.Keeps s.transition := by
  unfold State.transition
  refine .ite (.blow ?_) (.ite (s.blowLc_keeps 2) (.ite ?_ (.ite ?_ ?_)))
  · simp [Fuses.risen]
  · exact (s.destroyed_keeps 1).trans (State.return'_keeps _)
  · exact (s.destroyed_keeps 2).trans (State.scrap_keeps _)
  · exact (s.killed_keeps 2).trans (State.scrap_keeps _)

theorem State.lifeCycle_keeps (s : State) (viaMgmt : Bool) : s.Keeps (s.lifeCycle viaMgmt) := by
  unfold State.lifeCycle
  extract_lets r _ s1
  have h1 : s.Keeps s1 := .of_shape rfl
  exact .ite (.refl s) (.ite (.of_shape (by simp)) (.ite (h1.trans s1.transition_keeps) h1))

theorem State.commitSvn_keeps (s : State) (heart : Bool) (svn : Nat) : s.Keeps (s.commitSvn heart svn) := by
  unfold State.commitSvn
  refine .ite (.refl s) (.ite (.of_shape (by simp)) (.ite (.blow ?_) (.blow ?_))) <;> simp [Fuses.risen, raiseMin]

theorem execSecSvnCommitSapwood_kept (s : State) : s.Kept (execSecSvnCommitSapwood s) := by
  unfold execSecSvnCommitSapwood
  refine kept_next ?_
  split
  · exact s.commitSvn_keeps false _
  · exact .refl s

theorem State.drawNonce_shape (s : State) : s.drawNonce.shape = s.shape := by
  unfold State.drawNonce
  (repeat' split) <;> simp

/-! ## Registers and the transports that reach them (R10, R408, R429 to R431) -/

theorem State.writeHost_shape (s : State) (p : Port) (o : Nat) (v : W64) : (s.writeHost p o v).shape = s.shape := by
  unfold State.writeHost
  (repeat' split) <;> simp [ranTo, execBar2Enable]

theorem State.ownerWrite_shape (s : State) (p : Port) (foreign : Bool) : (s.ownerWrite p foreign).shape = s.shape := by
  simp [State.ownerWrite]

theorem execPwrConfigGo_kept (viaMgmt : Bool) (s : State) : s.Kept (execPwrConfigGo viaMgmt s) :=
  kept_next (.of_shape (by simp))

theorem State.writePower_keeps (s : State) (o : Nat) (w : W32) (viaMgmt : Bool) : s.Keeps (s.writePower o w viaMgmt) := by
  unfold State.writePower
  split
  · exact ranTo_keeps (kept_next (.of_shape (by simp)))
  · exact ranTo_keeps (kept_next (.of_shape (by simp)))
  · exact .ite (ranTo_keeps (execPwrConfigGo_kept viaMgmt s)) (.refl s)
  · exact .of_shape (by simp)

theorem State.writeLc_keeps (s : State) (w : W32) (viaMgmt : Bool) : s.Keeps (s.writeLc w viaMgmt) := by
  unfold State.writeLc
  extract_lets _ s1 s2
  have h1 : s.Keeps s1 := .of_shape rfl
  have h2 : s.Keeps s2 := h1.trans (.ite (ranTo_keeps (kept_next (.of_shape s1.drawNonce_shape))) (.refl s1))
  exact .ite (h2.trans (ranTo_keeps (kept_next (s2.lifeCycle_keeps viaMgmt)))) h2

theorem State.writeSec_keeps (s : State) (o : Nat) (w : W32) (viaMgmt : Bool) : s.Keeps (s.writeSec o w viaMgmt) := by
  unfold State.writeSec
  split
  · extract_lets s1
    have h1 : s.Keeps s1 := .ite (ranTo_keeps (kept_next (s.commitSvn_keeps true _))) (.refl s)
    exact .ite (h1.trans (ranTo_keeps (execSecSvnCommitSapwood_kept s1))) h1
  · exact s.writeLc_keeps w viaMgmt
  · exact .of_shape (by simp)
  · exact .of_shape (by simp)

/-- Of the windows of BAR0, only PWR_ and SEC_/LC_ reach what is more than a change within the shape. -/
theorem State.storeReg_keeps (s : State) (p : Port) (off : Nat) (v : W64) (viaMgmt : Bool) :
    s.Keeps (s.storeReg p off v viaMgmt) := by
  have still {t : State} (h : t.shape = s.shape) : s.Keeps t := .of_shape h
  unfold State.storeReg
  exact .ite (still (s.writeHost_shape p off v)) <| .ite (still (by simp)) <| .ite (still (by simp)) <|
    .ite (still (by simp)) <| .ite (still (by simp)) <| .ite (still rfl) <| .ite (still (s.ownerWrite_shape p _)) <|
    .ite (still (s.ownerWrite_shape p _)) <| .ite (still (by simp)) <| .ite (still (by simp)) <| .ite (still (by simp)) <|
    .ite (still rfl) <| .ite (still (by simp)) <| .ite (still rfl) <| .ite (still (by simp)) <| .ite (still rfl) <|
    .ite (s.writePower_keeps _ _ viaMgmt) <| .ite (s.writeSec_keeps _ _ viaMgmt) <| still rfl

theorem State.writeReg_keeps (s : State) (p : Port) (off : Nat) (data : List Byte) (viaMgmt : Bool) :
    s.Keeps (s.writeReg p off data viaMgmt) := by
  unfold State.writeReg
  refine .ite (.refl s) (.ite (.of_shape (by simp)) ?_)
  split
  · exact .of_shape (by simp)
  · exact .ite (s.storeReg_keeps p off _ viaMgmt) (.of_shape (by simp))

theorem State.writeWords_keeps (s : State) (p : Port) (off : Nat) (data : List Byte) (viaMgmt : Bool) (fuel : Nat) :
    s.Keeps (s.writeWords p off data viaMgmt fuel) := by
  induction fuel generalizing s off data with
  | zero => exact .refl s
  | succ k ih => exact .ite (.refl s) ((s.writeReg_keeps p off _ viaMgmt).trans (ih _ _ _))

theorem State.serve_keeps (s : State) (op : Nat) (p : Port) (off len limit : Nat) (data : List Byte) (viaMgmt : Bool) :
    s.Keeps (s.serve op p off len limit data viaMgmt).2.2 := by
  unfold State.serve
  split_ifs
  · exact .refl s
  · exact .refl s
  · exact .of_shape (s.afterRead_shape p)
  · exact .refl s
  · exact .of_shape (s.hostCount_shape p _)
  · exact s.writeWords_keeps p off data viaMgmt _

theorem State.serveOnce_keeps (s : State) (src seq op : Nat) (p : Port) (off len limit : Nat) (data : List Byte)
    (viaMgmt : Bool) : s.Keeps (s.serveOnce src seq op p off len limit data viaMgmt).2 := by
  unfold State.serveOnce
  split
  · exact .refl s
  · exact (s.serve_keeps op p off len limit data viaMgmt).shape (State.remember_shape _ _ _ _)

theorem State.askAperture_shape (s : State) (x : ApWait) : (s.askAperture x).shape = s.shape := by
  unfold State.askAperture
  split
  · rfl
  · exact (foldl_keeps (fun z : State × List (Nat × Nat × Option (List Byte)) => z.1.shape) _ (fun z i => by simp) _ _).trans
      (s.afterRead_shape _)

/-- A request on the management network may write any register (R429). -/
theorem State.wemu_keeps (s : State) (p : Port) (op : Nat) (m : WemuMsg) : s.Keeps (s.wemu p op m) := by
  unfold State.wemu
  refine .ite (.refl s) ?_
  split
  · exact .refl s
  · refine .ite (.of_shape (s.hold_shape _)) (.ite (.of_shape (s.askAperture_shape _)) ?_)
    exact (s.serveOnce_keeps _ _ _ _ _ _ _ _ _).shape rfl

@[simp] theorem State.firmwareReply_shape (s : State) (q : Packet) (a : List Byte) : (s.firmwareReply q a).shape = s.shape :=
  State.sendPacket_shape _ _

theorem State.firmwareRequest_keeps (s : State) (q : Packet) : s.Keeps (s.firmwareRequest q) := by
  unfold State.firmwareRequest
  refine .ite (.of_shape (by simp)) (.ite (.of_shape (s.askAperture_shape _)) ?_)
  exact (s.serveOnce_keeps _ _ _ _ _ _ _ _ _).shape (State.firmwareReply_shape _ _ _)

@[simp] theorem State.apertureReply_shape (s : State) (x : ApWait) : (s.apertureReply x).shape = s.shape := by
  unfold State.apertureReply
  dsimp only
  split <;> simp

@[simp] theorem State.apertureGives_shape (s : State) (seq : Nat) (bs : List Byte) : (s.apertureGives seq bs).shape = s.shape := by
  unfold State.apertureGives
  rw [State.shape_foldl _ (fun s x => s.apertureReply_shape x)]
  rfl

theorem State.emuAnswer_shape (s : State) (seq op : Nat) (data : List Byte) : (s.emuAnswer seq op data).shape = s.shape := by
  simp [State.emuAnswer]

/-- What a receipt may come to: the packet taken, acknowledged again, or refused (R382, R402). -/
theorem State.receipt_keeps {s0 s refuse take : State} {p : Packet} (h : s0.Keeps s) (hr : s0.Keeps refuse)
    (ht : s0.Keeps take) : s0.Keeps (s.receipt p refuse take) :=
  .ite ht (.ite (h.shape (s.ackFlows_shape _)) hr)

theorem State.firmware_keeps (s : State) (q : Packet) : s.Keeps (s.firmware q) := by
  have taken : s.Keeps (s.takePacket q) := .of_shape (s.takePacket_shape q)
  have noted : s.Keeps ((s.takePacket q).received q) := taken.shape (State.received_shape _ q)
  refine State.receipt_keeps taken taken (.ite (noted.shape (State.emuAnswer_shape _ _ _ _)) (.ite (.ite ?_ ?_) noted))
  · exact noted.trans (State.firmwareRequest_keeps _ q)
  · exact noted.shape (State.hold_shape _ _)

/-! ## Requests that waited (R444) -/

theorem State.fetchOver_shape (s : State) (a b : Bool) : (s.fetchOver a b).shape = s.shape := by
  unfold State.fetchOver
  (repeat' split) <;> simp

/-- Each kind of request that waited is one of the meanings above (R444). -/
theorem State.serveOne_keeps (s : State) (h : Held) : s.Keeps (s.serveOne h) := by
  cases h with
  | config viaMgmt => exact ranTo_keeps (execPwrConfigGo_kept viaMgmt s)
  | update kind => exact .of_shape (s.goUpdate_shape kind)
  | wemu p op m => exact s.wemu_keeps p op m
  | firmware q => exact .ite (s.firmwareRequest_keeps q) (.of_shape (s.hold_shape _))
  | cert src => exact ranTo_keeps (o := execGetCert src s) (kept_next (.of_shape (by simp)))
  | report src nonce job => exact ranTo_keeps (o := execGetReport src nonce job s) (kept_next (.of_shape (by simp)))
  | sessInit src ek nonce job => exact ranTo_keeps (o := execSessionInit src ek nonce job s) (kept_next (.of_shape (by simp)))
  | sessFinish src confirm opKey opSig =>
    exact ranTo_keeps (o := execSessionFinish src confirm opKey opSig s) (kept_next (.of_shape (by simp)))
  | sessEnd src => exact ranTo_keeps (o := execSessionEnd src s) (kept_next (.of_shape (by simp)))
  | recover n ok => exact .of_shape (s.fwRecovered_shape n ok)
  | reload n => exact .of_shape (s.reloadPair_shape n)
  | book a b => exact .of_shape (s.keepBook_shape a b)
  | retire u => exact .of_shape (s.noteRetired_shape u)
  | remap p i r => exact .of_shape (s.moveStages_shape p i r)
  | spare n => exact .ite (.refl s) (.ite (.of_shape (s.hold_shape _)) (.of_shape (s.moveToSpare_getD_shape s n false rfl)))
  | svn heart v => exact s.commitSvn_keeps heart v
  | nonce => exact .of_shape s.drawNonce_shape
  | lifeCycle viaMgmt => exact s.lifeCycle_keeps viaMgmt
  | fetchOver a b => exact .of_shape (s.fetchOver_shape a b)

theorem State.serveEach_keeps (s : State) (hs : List Held) : s.Keeps (s.serveEach hs) := by
  induction hs generalizing s with
  | nil => exact .refl s
  | cons h rest ih => exact (s.serveOne_keeps h).trans (ih _)

/-- The requests that waited may be served after what keeps. -/
theorem State.Keeps.served {s t : State} (h : s.Keeps t) : s.Keeps t.serveHeld :=
  h.trans (.trans (t := { t with fw := { t.fw with held := [] } }) (.of_shape rfl) (State.serveEach_keeps _ _))

theorem execTftpBlockReceive_kept (block : Nat) (data : List Byte) (s : State) : s.Kept (execTftpBlockReceive block data s) := by
  unfold execTftpBlockReceive
  refine kept_next ?_
  split
  · exact .refl s
  · refine .ite (.refl s) (.ite (.refl s) (.ite (State.Keeps.served (.of_shape ?_)) (.of_shape ?_)))
    · exact s.fetched_shape _
    · exact s.askBlock_shape _

/-! ## Packets (R382, R383) -/

/-- A packet is taken, acknowledged, refused, or acts by `take`, whose effect keeps the shape (R382 to R384). -/
theorem State.receive_keeps (s : State) (p : Packet) (ok : Job → Bool) (take : State → State → Nat → State)
    (h : ∀ t k, t.shape = s.shape → (take s t k).shape = s.shape) : s.Keeps (s.receive p ok take) := by
  have taken : s.Keeps (s.takePacket p) := .of_shape (s.takePacket_shape p)
  have refused (reason : Nat) : s.Keeps ((s.takePacket p).refusePacket p reason) := taken.shape (State.refusePacket_shape _ p reason)
  unfold State.receive
  dsimp only
  split
  · exact refused 1
  · exact State.receipt_keeps taken (refused 1) (.ite (refused 2) (.ite (.refl s) (.of_shape (h _ _ (s.takePacket_shape p)))))

theorem execPacketReadData_kept (p : Packet) (s : State) : s.Kept (execPacketReadData p s) := by
  have taken : s.Keeps (s.takePacket p) := .of_shape (s.takePacket_shape p)
  exact kept_checked (State.receipt_keeps taken taken (.ite (.refl s) (taken.shape (by simp))))

theorem execPacketMirror_kept (p : Packet) (s : State) : s.Kept (execPacketMirror p s) := by
  have taken : s.Keeps (s.takePacket p) := .of_shape (s.takePacket_shape p)
  have refused : s.Keeps ((s.takePacket p).refusePacket p 1) := taken.shape (State.refusePacket_shape _ p 1)
  unfold execPacketMirror
  refine kept_checked ?_
  dsimp only
  split
  · exact refused
  · refine .ite (taken.shape (by simp)) (State.receipt_keeps taken refused (.ite (.refl s) (taken.shape ?_)))
    simp

/-! ## Commands that may stop, and commands that reach a start-up or a commit point -/

theorem execEccError_kept (place : EccPlace) (corrected : Bool) (s : State) : s.Kept (execEccError place corrected s) := by
  unfold execEccError
  split
  · exact kept_next (.refl s)
  · split
    · dsimp only
      split
      · exact kept_next (.of_shape (by simp))
      · exact kept_next (.of_shape (s.healthCount_shape 0x38 1))
    · cases place with
      | scratchpad p i => exact kept_next (.of_shape (s.loseCore_shape p i false))
      | bank p i b => exact kept_next (.of_shape (s.loseBank_shape p i b))
      | clusterSram p => exact kept_next (.of_shape (s.loseCluster_shape p))
      | hubBuffer h => rintro t ⟨⟩
      | firmware n => exact kept_next (.of_shape (s.fwCrash_shape n))

theorem execPhaseFail_kept (rail phase : Nat) (s : State) : s.Kept (execPhaseFail rail phase s) := by
  unfold execPhaseFail
  dsimp only
  split_ifs
  · exact kept_checked (.of_shape (by simp))
  · exact kept_next (.refl s)
  · exact kept_next (.refl s)
  · rintro t ⟨⟩
  · exact kept_next (.of_shape (by simp))

theorem execThermalShutdown_kept (s : State) : s.Kept (execThermalShutdown s) :=
  kept_next (.ite (.refl s) (.darkened (.of_shape rfl)))

theorem execCommitPointReached_kept (s : State) : s.Kept (execCommitPointReached s) := by
  unfold execCommitPointReached
  refine kept_next ?_
  split
  · extract_lets j s1 _ s2 _ s3
    have h1 : s1.shape = s.shape := by simp [s1]
    have h2 : s2.shape = s.shape := by simp [s2, h1]
    have h3 : s3.shape = s.shape := h2
    exact .ite (.of_shape (by simp [h3])) (.refl s)
  · exact .refl s

end Sys2Proof.Machine
end

section
/-! O1, O3, O5: a step runs the front command on the queue's rest, and every command keeps the queue and the numbers of things. -/

namespace Sys2Proof.Machine

/-! ## Every command -/

/-- The commands in three groups: a direct call of what keeps the shape, a choice among such calls, and those that reach fuses,
start-up, registers or the requests that waited. -/
theorem exec_kept (i : Instr) (s : State) : s.Kept (exec i s) := by
  cases i with
  | jobLoad | firingDone | jobStart | jobResume | jobPause | jobEnd | commit | jobSetToken | stepCmd | chunk | fork
    | prune | exportState | importState | swapOut | swapIn | streamMoveDone | paramGroupWrite | copyIn | copyOut
    | codecDecode | codecEncode | codecWindowLoaded | descriptorIntake | batchForm | sli | sadd | smul | sand | sshr
    | scmp | sld | sst | spg | br | next | send | recv | free | signal | wait | sread | sset | rpass | rpassSend
    | rpassComplete | matmul | qk | pv | append | scan | conv | fconv | pool | vadd | vsub | vmul | vfma | vfnma | vmax
    | vmin | vabs | vneg | vand | vor | vxor | vshl | vshr | vdiv | vsqrt | vrsqrt | vrecip | vexp | vlog | vcmp | vsel
    | vcvt | vrand | vsum | vrmax | vrmin | vld | vst | vcopy | vfft | vtopk | bgather | bscatter | bscatadd | issue
    | commitIntervalExpired | heatDecay | pageMoveDone | regulatorWindowStart | scrubDone | linkBringUp | laneFail
    | flitReceive | nakReceive | flitAckTimer | retryBufferStall | linkRekey | e2eRetransmitTimeout | e2eAckTimer
    | packetAck | packetReservedType | helloTimer | hello | leaderBeatTimeout | censusJoin | census | joinRetryTimer
    | vectorMsg | linkAdminDown | linkAdminUp | ringEnable | ringDisable | ringSqTail | ringCqHead | ringEqHead
    | msixMessage | hostLease | leaseExpired | hostDriverVersion | bar2Enable | bar2Read | bar2Write | jobSemAdd
    | jobPgtStage | jobPgtPublish | portReset | emuApertureRead | emuApertureWrite | getCert | getReport | sessionInit
    | sessionFinish | sessionEnd | fwHeartbeatTimeout | fwCoreTrap | sapwoodUpdate | heartwoodUpdate | sapwoodRetryTimer
    | stallMonitorTrip | d2dWordError | coreVerifyDone | clusterReplaceDone | hostedCoreSwitch | hbmUnitFail | rebuildDone
    | dataRestored | marginForecast | woodpileTestTimer | throttleNAssert | throttleNRelease | governorTick | pwrCap
    | pwrSetpoint | pwrConfigGo | feedLost | feedReturned | hbmThermalPace | throttled | identity | inventory | stage
    | power | coolant | margin | idcode | bypass | pcieLinkUp | governorFail | ignoredPulse =>
    exact kept_next (.of_shape (by simp))
  | jobEndTakesEffect | codecDispatch | commandPublish | creditReturn | transferArrive | arrayRampWaitEnd
    | arrayIdleRampDown | browseMissReturn | jobRunSelect | resumeDone | timeSliceExpired | yieldBoundExpired
    | pauseBoundExpired | pausePointReached | writebackDone | journalThreeQuarters | commitBedTimeout | saturated
    | prefetchLateSummary | bankStallSummary | prefetchIssue | peatDataReturn | assemblyWindowExpired | routeInstall
    | tftpBlockTimeout | coarseRefresh =>
    refine kept_next (.of_shape ?_)
    (repeat' split) <;> simp
  | jobAdopt | batchCommit | nextBatchDelivered | waitSatisfied | packetRefuse | transitCreditTimeout | emuReadTimeout =>
    refine kept_next (.of_shape ?_)
    dsimp only
    (repeat' split) <;> simp
  | commitPointReached => exact execCommitPointReached_kept s
  | packetWrite p => exact kept_checked (s.receive_keeps _ _ _ fun t k h => by simp [h])
  | packetSignal p => exact kept_checked (s.receive_keeps _ _ _ fun t k h => by simp [h])
  | packetReadReq p => exact kept_checked (s.receive_keeps _ _ _ fun t k h => by simp [h])
  | packetReadData p => exact execPacketReadData_kept p s
  | packetMirror p => exact execPacketMirror_kept p s
  | packetFirmware p => exact kept_checked (s.firmware_keeps p)
  | wemuRead p m => exact kept_next (s.wemu_keeps p 1 m)
  | wemuWrite p m => exact kept_next (s.wemu_keeps p 2 m)
  | fwRecoveryDone core ok => exact kept_checked (.served (.of_shape (s.fwRecovered_shape core ok)))
  | tftpBlockReceive block data => exact execTftpBlockReceive_kept block data s
  | sapwoodFetchTimeout primaryOk mirrorOk => exact kept_next (.served (.of_shape (s.fetchOver_shape primaryOk mirrorOk)))
  | secSvnCommitHeartwood => exact kept_next (s.commitSvn_keeps true _)
  | secSvnCommitSapwood => exact execSecSvnCommitSapwood_kept s
  | lcRequestNonce => exact kept_next (.of_shape s.drawNonce_shape)
  | lcRequestGo viaMgmt => exact kept_next (s.lifeCycle_keeps viaMgmt)
  | eccError place corrected => exact execEccError_kept place corrected s
  | phaseFail rail phase => exact execPhaseFail_kept rail phase s
  | registerWrite p off width v => exact kept_checked (s.writeReg_keeps p off _ false)
  | startUp x => exact kept_next (.ite (s.startUp_keeps x) (.refl s))
  | bootRetryTimer x => exact kept_next (.ite (s.boot_keeps x) (.refl s))
  | resetNAssert => exact kept_next (s.dark_keeps _)
  | resetNRelease x => exact kept_next (.ite (s.startUp_keeps x) (.refl s))
  | thermalShutdown => exact execThermalShutdown_kept s
  | recover image x => exact execRecover_kept image x s
  | rideThroughExpired => exact kept_next (.ite (s.dark_keeps _) (.refl s))

/-! ## The obligations -/

/-- Settles O1: both parts are the two branches of `step`. -/
theorem stepRunsFrontCommand : Obligations.StepRunsFrontCommand := by
  refine ⟨fun c rest s => rfl, fun s h => ?_⟩
  rw [step, h]

/-- A step keeps what its front command keeps. -/
theorem step_sized {s t : State} (hs : s.sized) (h : step s = .next t) : t.sized := by
  cases hq : s.pending with
  | nil =>
    rw [step, hq] at h
    cases h
    exact hs
  | cons c rest =>
    rw [step, hq] at h
    exact (exec_kept c _ t h).sized hs

/-- Settles O3: every command keeps the numbers of things, and a step is one command or none. -/
theorem everyStepKeepsSizes : Obligations.EveryStepKeepsSizes := fun _ _ => step_sized

/-- Settles O5: every command keeps the queue that it was taken from. -/
theorem commandsKeepQueue : Obligations.CommandsKeepQueue := fun i s t h => (exec_kept i s t h).pending

end Sys2Proof.Machine
end

section
/-! O12: the two events of a channel (R21, R203, R254, R56): what a returned credit and an arrived transfer do to the channel, and to
the core that waits for them. -/

namespace Sys2Proof.Machine

/-! ## Reading a job's run back -/

@[simp] theorem JobRun.setChan_chan (r : JobRun) (ch : Nat) (x : Chan) : (r.setChan ch x).chan ch = x :=
  NMap.getD_put_same _ _ _ _

@[simp] theorem JobRun.setChan_core (r : JobRun) (ch n : Nat) (x : Chan) : (r.setChan ch x).core n = r.core n := rfl

@[simp] theorem JobRun.setCore_chan (r : JobRun) (n ch : Nat) (c : Core) : (r.setCore n c).chan ch = r.chan ch := rfl

theorem State.setCore_job (s : State) (k n : Nat) (c : Core) (h : k < s.jobs.length) :
    (s.setCore k n c).job k = { s.job k with run := (s.job k).run.setCore n c } := State.setJob_job s k _ h

@[simp] theorem State.setCore_slots (s : State) (k n : Nat) (c : Core) : (s.setCore k n c).jobs.length = s.jobs.length :=
  List.length_set

/-- Counting the end of a wait on a HALO channel raises one counter of the run (R258). -/
theorem State.countHalo_job (s : State) (k n ch off : Nat) (h : k < s.jobs.length) :
    ∃ ctr, (s.countHalo k n ch off).job k = { s.job k with run := { (s.job k).run with ctrCore := ctr } } := by
  unfold State.countHalo
  dsimp only
  split
  · exact ⟨_, State.setJob_job _ _ _ h⟩
  · exact ⟨_, rfl⟩

theorem State.countHalo_chan (s : State) (k n ch off : Nat) (h : k < s.jobs.length) (q : Nat) :
    ((s.countHalo k n ch off).job k).run.chan q = (s.job k).run.chan q := by
  obtain ⟨ctr, e⟩ := s.countHalo_job k n ch off h
  rw [e]
  rfl

theorem State.countHalo_core (s : State) (k n ch off : Nat) (h : k < s.jobs.length) (q : Nat) :
    ((s.countHalo k n ch off).job k).run.core q = (s.job k).run.core q := by
  obtain ⟨ctr, e⟩ := s.countHalo_job k n ch off h
  rw [e]
  rfl

/-! ## Credits (R21) -/

theorem exec_creditReturn {ch k : Nat} {s : State} (hch : ch < 65536) (hr : s.sched.running = some k) :
    exec (.creditReturn ch) s = .next (s.creditReturn k ch) := by
  refine (checked_of s _ _ (decide_eq_true hch)).trans ?_
  rw [hr]

/-- The channel after its oldest returning credits have come back. -/
def Chan.credited (x : Chan) : Chan := { x with credits := x.credits + x.returning.headD 0, returning := x.returning.tail }

/-- The slot after an acknowledge on a channel. -/
def State.credited (s : State) (k ch : Nat) : State :=
  s.setJob k { s.job k with run := (s.job k).run.setChan ch ((s.job k).run.chan ch).credited }

section
variable {s : State} {k ch m p : Nat} {rest : List Nat}

theorem State.creditReturn_nil (h : ((s.job k).run.chan ch).returning = []) : s.creditReturn k ch = s := by
  simp [State.creditReturn, h]

variable (hp : ((s.job k).image.chanE ch).producer = p) (h : ((s.job k).run.chan ch).returning = m :: rest)
include hp h

/-- A SEND that waits for the channel's credits goes on once some return. -/
theorem State.creditReturn_cons : s.creditReturn k ch =
    if ((s.job k).run.core p).wait = .send ch then
      ((s.credited k ch).setCore k p { (s.job k).run.core p with wait := .run }).countHalo k p ch 0x1A0
    else s.credited k ch := by
  simp [State.creditReturn, State.credited, Chan.credited, h, hp]

/-- What an acknowledge leaves: the channel credited, and its producer no longer waiting to send on it. -/
theorem State.creditReturn_job (hk : k < s.jobs.length) :
    ((s.creditReturn k ch).job k).run.chan ch = ((s.job k).run.chan ch).credited ∧
      (((s.job k).run.core p).wait = .send ch → (((s.creditReturn k ch).job k).run.core p).wait = .run) := by
  have hj : (s.credited k ch).job k = { s.job k with run := (s.job k).run.setChan ch ((s.job k).run.chan ch).credited } :=
    State.setJob_job _ _ _ hk
  have hl : k < (s.credited k ch).jobs.length := by simpa [State.credited, State.setJob] using hk
  rw [State.creditReturn_cons hp h]
  split
  next hw =>
    rw [State.countHalo_chan _ _ _ _ _ (by simpa using hl), State.countHalo_core _ _ _ _ _ (by simpa using hl),
      State.setCore_job _ _ _ _ hl, hj]
    simp
  next hw =>
    rw [hj]
    exact ⟨JobRun.setChan_chan _ _ _, fun hs => absurd hs hw⟩
end

/-! ## Transfers (R203, R254) -/

theorem exec_transferArrive {ch k : Nat} {s : State} (hch : ch < 65536) (hr : s.sched.running = some k) :
    exec (.transferArrive ch) s = .next (s.transferArrive k ch) := by
  refine (checked_of s _ _ (decide_eq_true hch)).trans ?_
  rw [hr]

@[simp] theorem Job.arriveOne_image (j : Job) (ch : Nat) : (j.arriveOne ch).image = j.image := by
  unfold Job.arriveOne
  dsimp only
  split <;> rfl

/-- The job once the oldest transfer on the way has arrived and the route choices that waited for the channel are made (R56). -/
def State.arrived (s : State) (k ch : Nat) : Job := ((s.job k).arriveOne ch).settleRoutes s.health

section
variable {s : State} {k ch n : Nat}

theorem State.arrived_image : (s.arrived k ch).image = (s.job k).image := Job.arriveOne_image _ _

theorem State.arrived_run : (s.arrived k ch).run = ((s.job k).arriveOne ch).run := rfl

/-- The oldest transfer on the way arrives wholly at its consumer's region. -/
theorem Job.arriveOne_run {j : Job} {old rest : List Transfer} {y : Transfer} (hn : (j.image.chanE ch).consumer = n)
    (h : (j.run.chan ch).transfers = old ++ y :: rest) (ho : ∀ o ∈ old, o.arrived = true) (hy : y.arrived = false) :
    ((j.arriveOne ch).run.chan ch).transfers = old ++ { y with arrived := true } :: rest ∧
      (j.arriveOne ch).run.core n =
        { j.run.core n with
          scratch := placeBytes (j.run.core n).scratch (j.image.chanE ch)
            ((((j.image.sec n).chanRegion ch).map (·.off)).getD 0) y.slot 0 y.data } := by
  have hfind : (old ++ y :: rest).find? (fun t => !t.arrived) = some y := by
    rw [List.find?_append, List.find?_eq_none.mpr (by simpa using ho)]
    simp [hy]
  have hidx : (old ++ y :: rest).findIdx (fun t => !t.arrived) = old.length := by
    have hold : old.findIdx (fun t => !t.arrived) = old.length := by simpa using ho
    simp [List.findIdx_append, hold, List.findIdx_cons, hy]
  unfold JobRun.chan at h
  unfold Job.arriveOne
  simp only [h, hfind, hidx]
  subst hn
  refine ⟨?_, JobRun.setCore_core _ _ _⟩
  rw [JobRun.chan, NMap.getD_put_same]
  simp

variable (hn : ((s.job k).image.chanE ch).consumer = n)
include hn

theorem State.arrived_consumer : ((s.arrived k ch).image.chanE ch).consumer = n := by rw [State.arrived_image, hn]

/-- No RECV waits for the channel: the transfer has arrived, and no more. -/
theorem State.transferArrive_noRecv (h : ∀ r, ((s.arrived k ch).run.core n).wait ≠ .recv ch r) :
    s.transferArrive k ch = s.setJob k (s.arrived k ch) := by
  have hc := State.arrived_consumer hn
  unfold State.arrived at h hc ⊢
  unfold State.transferArrive
  dsimp only
  rw [hc]
  split
  next ch' reg hw =>
    have hne : ch' ≠ ch := fun e => h reg (e ▸ hw)
    simp [hne]
  next => rfl

/-- A RECV that waits for the channel, at a core that works, returns the transfer and goes on. -/
theorem State.transferArrive_recv {r : Nat} {j2 : Job} {c2 : Core}
    (hw : ((s.arrived k ch).run.core n).wait = .recv ch r) (hs : (s.working n).isSome = true)
    (h2 : recvOne (s.arrived k ch) ((s.arrived k ch).run.core n) n ch r = some (j2, c2)) :
    s.transferArrive k ch =
      (s.setJob k { j2 with run := j2.run.setCore n { c2 with wait := .run, insn := c2.insn + 1 } }).countHalo k n ch 0x198 := by
  have hc := State.arrived_consumer hn
  unfold State.arrived at hw h2 hc
  simp [State.transferArrive, hc, hw, hs, h2]
end

/-- Settles O12: each clause is one case of what an acknowledge or an arrival does. -/
theorem channelEvents : Obligations.ChannelEvents := by
  unfold Obligations.ChannelEvents
  intro ch k s hch hr hk
  dsimp only
  rw [exec_creditReturn hch hr, exec_transferArrive hch hr]
  refine ⟨fun m rest h hw => ?_, fun m rest h hw => ?_, fun h => ?_, fun m rest h => ?_, ⟨fun hw => ?_, fun r j2 c2 hw hn h2 => ?_⟩,
    fun old y rest h ho hy hw => ?_⟩
  · rw [State.creditReturn_cons rfl h, if_neg hw, State.credited, Chan.credited, h]
    rfl
  · rw [State.creditReturn_cons rfl h, if_pos hw, State.credited, Chan.credited, h]
    rfl
  · rw [State.creditReturn_nil h]
  · obtain ⟨hc, hp⟩ := State.creditReturn_job rfl h hk
    refine ⟨_, rfl, ?_, ?_, hp⟩ <;> rw [hc, Chan.credited, h] <;> rfl
  · exact congrArg _ (State.transferArrive_noRecv rfl hw)
  · exact congrArg _ (State.transferArrive_recv rfl hw hn h2)
  · obtain ⟨hx, hc⟩ := Job.arriveOne_run rfl h ho hy
    have hrun : ((s.arrived k ch).run.core ((s.job k).image.chanE ch).consumer).wait = .run := by
      rw [State.arrived_run, hc]
      exact hw
    refine ⟨_, congrArg _ (State.transferArrive_noRecv rfl (by simp [hrun])), ?_, ?_⟩
    · rw [State.setJob_job _ _ _ hk]
      exact hx
    · rw [State.coreOf, State.setJob_job _ _ _ hk, State.arrived_run, hc]
      rfl

end Sys2Proof.Machine
end

section
/-! SUPPORT. What writing a finished command's outputs and its completion leaves of its job (R33, R126, R276): the list of the finished,
the registers of the slot, and job memory but for what the outputs write. -/

namespace Sys2Proof.Machine

/-! ## Writing job memory (R354) -/

theorem Job.touch_run (j : Job) (u n : Nat) : (j.touch u n).run = j.run := by
  induction n generalizing j u with
  | zero => rfl
  | succ n ih => exact ih _ _

theorem Job.touch_info (j : Job) (u n : Nat) : (j.touch u n).info = j.info := by
  induction n generalizing j u with
  | zero => rfl
  | succ n ih => exact ih _ _

/-- Stored bytes are in job memory; the journal and the buddy's map are no part of the run. -/
theorem Job.store_run (j : Job) (a : Nat) (bs : List Byte) : (j.store a bs).run = { j.run with mem := memWrite j.run.mem a bs } := by
  unfold Job.store
  split
  next h => rw [h]; rfl
  next => simp only [Job.touch_run]

theorem Job.store_info (j : Job) (a : Nat) (bs : List Byte) : (j.store a bs).info = j.info := by
  unfold Job.store
  split
  · rfl
  · exact j.touch_info _ _

/-! ## Registers of the slots -/

/-- A slot that keeps its registers leaves those of every slot. -/
theorem State.setJob_info (s : State) (k q : Nat) (j : Job) (h : j.info = (s.job k).info) :
    ((s.setJob k j).job q).info = (s.job q).info := by
  by_cases hq : q = k
  · subst hq
    by_cases hk : q < s.jobs.length
    · rw [State.setJob_job s q j hk, h]
    · simp [State.job, State.setJob, List.set_eq_of_length_le (Nat.not_lt.mp hk)]
  · rw [State.setJob_job_ne s k q j hq]

/-- Accesses act on the tiers and on counters, not on a slot's registers. -/
theorem State.onTiers_info (s : State) (k q : Nat) (f : Image → Acc → Acc) : ((s.onTiers k f).job q).info = (s.job q).info := by
  unfold State.onTiers
  dsimp only
  generalize (f (s.job k).image (s.accFor k)).grant (s.job k).image.regs = a
  refine (foldl_keeps (fun s : State => (s.job q).info) State.placeUnit (fun s e => ?_) _ _).trans
    (State.setJob_info s k q { s.job k with run := a.run } rfl)
  unfold State.placeUnit
  dsimp only
  split
  · rfl
  · split <;> rfl

theorem State.hubWrite_info (s : State) (k part a len q : Nat) : ((s.hubWrite k part a len).job q).info = (s.job q).info := by
  have copies : ((s.journalCopies k part).job q).info = (s.job q).info := by
    unfold State.journalCopies
    dsimp only
    split
    · rfl
    · exact (State.onTiers_info _ _ _ _).trans (State.setJob_info s k q _ rfl)
  unfold State.hubWrite State.hubAccess
  split
  · exact (State.onTiers_info _ _ _ _).trans copies
  · exact copies

theorem State.hubWrite_publish (s : State) (k part a len q : Nat) :
    ((s.hubWrite k part a len).job q).run.publish = (s.job q).run.publish :=
  (congrArg JobRun.publish (State.hubWrite_runData s k part a len q) :)

theorem State.hubWrite_mem (s : State) (k part a len q : Nat) :
    ((s.hubWrite k part a len).job q).run.mem = (s.job q).run.mem :=
  (congrArg JobRun.mem (State.hubWrite_runData s k part a len q) :)

/-! ## Records of completion rings (R414, R415) -/

theorem State.flushCompletions_jobs (s : State) (p : Port) (set : Nat) (held : List Completion) :
    (s.flushCompletions p set held).jobs = s.jobs := by
  induction held generalizing s with
  | nil => exact State.setRing_jobs _ _ _ _
  | cons c rest ih =>
    unfold State.flushCompletions
    dsimp only
    split
    · rw [ih, State.setPort_jobs]; rfl
    · exact State.setRing_jobs _ _ _ _

@[simp] theorem State.deliver_jobs (s : State) (p : Port) (set : Nat) (c : Completion) : (s.deliver p set c).jobs = s.jobs :=
  s.flushCompletions_jobs _ _ _

@[simp] theorem State.deliverNotify_jobs (s : State) (p : Port) (set : Nat) (c : Completion) :
    (s.deliverNotify p set c).jobs = s.jobs := by
  unfold State.deliverNotify
  dsimp only
  split
  · exact State.hostCount_jobs _ _ _
  · exact State.deliver_jobs _ _ _ _

/-- A completion takes its command off the outstanding list, and is no other change of a slot (R336). -/
theorem State.complete_job (s : State) (k : Nat) (c : Cmd) (status flags stream count q : Nat) :
    (s.complete k c status flags stream count).job q = (s.setInfo k { (s.job k).info with
      outstanding := (s.job k).info.outstanding.filter (fun d => d.seq != c.seq) }).job q := by
  refine congrArg (fun js : List Job => js.getD q {}) ?_
  unfold State.complete State.completeUnder State.notOutstanding
  dsimp only
  split <;> rw [State.deliver_jobs, State.setRing_jobs]

end Sys2Proof.Machine
end

section
/-! O43: a finished command publishes its outputs and then its completion, and leaves the list of the finished (R33, R126). -/

namespace Sys2Proof.Machine

/-! ## The steps of a publication -/

theorem exec_commandPublish {s : State} {k : Nat} (h : s.sched.running = some k) (i : Nat) :
    exec (.commandPublish i) s = .next (s.publish k i) := by
  change Host.Outcome.next _ = _
  rw [h]

/-- The state with the `i`-th finished command off the list. -/
def State.taken (s : State) (k i : Nat) : State :=
  s.setJob k { s.job k with run := { (s.job k).run with publish := (s.job k).run.publish.eraseIdx i } }

/-- The state once the `i`-th finished command, `p`, has written all its outputs. -/
def State.written (s : State) (k i : Nat) (p : Publication) : State :=
  ((s.taken k i).stampSwaps k p).outputs k p.cmd.desc.opcode p.writes

/-- The state once that command's completion has been written, too; one already written is not written again (R126, R355). -/
def State.published (s : State) (k i : Nat) (p : Publication) : State :=
  if p.cmd.dev = true then (s.written k i p).completeDevice k p
  else if p.cmd ∈ (s.job k).info.outstanding then
    (s.written k i p).complete k p.cmd p.status p.flags p.stream p.count
  else s.written k i p

/-- Nothing ahead on its streams, no absent port, no full hub and no withheld unit holds a finished command (R35, R276, R426, R492). -/
def State.mayPublish (s : State) (k : Nat) (p : Publication) : Prop :=
  (s.job k).run.clearBefore p.uid p.streams = true ∧ s.behindAbsent p = false ∧ s.outputsBlocked k p = false ∧
    p.meetsLost (s.job k) = false

section
variable {s : State} {k i : Nat} {p : Publication} (hp : (s.job k).run.publish[i]? = some p)
include hp

theorem State.publish_held (h : ¬ s.mayPublish k p) : s.publish k i = s := by
  unfold State.mayPublish at h
  unfold State.publish
  simp only [hp]
  rw [if_pos]
  grind

theorem State.publish_stalls (h : s.mayPublish k p) (hw : p.writesJob = true) (hf : s.journalFull k = true) :
    s.publish k i = s.journalStall k := by
  obtain ⟨hc, ha, hb, hl⟩ := h
  simp [State.publish, hp, hc, ha, hb, hl, hw, hf]

theorem State.publish_done (h : s.mayPublish k p) (hr : p.writesJob = false ∨ s.journalFull k = false) :
    s.publish k i = s.published k i p := by
  obtain ⟨hc, ha, hb, hl⟩ := h
  have hroom : (p.writesJob && s.journalFull k) = false := by simpa [or_iff_not_imp_left] using hr
  simp [State.publish, State.published, State.written, State.taken, hp, hc, ha, hb, hl, hroom]
end

/-! ## What they leave of the job and of the ports -/

/-- A slot that keeps its list of the finished leaves that of every slot. -/
theorem State.setJob_publish (s : State) (k q : Nat) (j : Job) (h : j.run.publish = (s.job k).run.publish) :
    ((s.setJob k j).job q).run.publish = (s.job q).run.publish := by
  by_cases hq : q = k
  · subst hq
    by_cases hk : q < s.jobs.length
    · rw [State.setJob_job s q j hk, h]
    · simp [State.job, State.setJob, List.set_eq_of_length_le (Nat.not_lt.mp hk)]
  · rw [State.setJob_job_ne s k q j hq]

theorem State.setInfo_publish (s : State) (k q : Nat) (x : JobInfo) :
    ((s.setInfo k x).job q).run.publish = (s.job q).run.publish := s.setJob_publish k q _ rfl

/-- Numbering the swap images that are about to be written changes entries of the stream table alone (R427). -/
theorem State.stampSwaps_eq (s : State) (k : Nat) (p : Publication) : ∃ streams, s.stampSwaps k p = s ∨
    s.stampSwaps k p = s.setJob k { s.job k with run := { (s.job k).run with streams } } := by
  unfold State.stampSwaps
  split
  · exact ⟨[], .inl rfl⟩
  · exact ⟨_, .inr rfl⟩

theorem State.stampSwaps_port (s : State) (k : Nat) (p : Publication) (x : Port) : (s.stampSwaps k p).port x = s.port x := by
  obtain ⟨_, e | e⟩ := s.stampSwaps_eq k p
  · rw [e]
  · rw [e]
    cases x <;> rfl

theorem State.stampSwaps_slots (s : State) (k : Nat) (p : Publication) : (s.stampSwaps k p).jobs.length = s.jobs.length :=
  (congrArg Shape.slots (s.stampSwaps_shape k p) :)

theorem State.output_info (s : State) (k op q : Nat) (w : Space × Nat × List Byte) :
    ((s.output k op w).job q).info = (s.job q).info := by
  unfold State.output
  split
  · rw [State.hubWrite_info]
    refine State.setJob_info _ _ _ _ ?_
    split <;> exact Job.store_info _ _ _
  all_goals rw [State.job, State.setPort_jobs]; rfl

theorem State.output_publish (s : State) (k op q : Nat) (w : Space × Nat × List Byte) :
    ((s.output k op w).job q).run.publish = (s.job q).run.publish := by
  unfold State.output
  split
  · rw [State.hubWrite_publish]
    refine State.setJob_publish _ _ _ _ ?_
    split <;> exact (congrArg JobRun.publish (Job.store_run _ _ _) :)
  all_goals rw [State.job, State.setPort_jobs]; rfl

theorem State.outputs_info (s : State) (k op q : Nat) (ws : List (Space × Nat × List Byte)) :
    ((s.outputs k op ws).job q).info = (s.job q).info := by
  induction ws generalizing s with
  | nil => rfl
  | cons w ws ih => exact (ih _).trans (s.output_info k op q w)

theorem State.outputs_publish (s : State) (k op q : Nat) (ws : List (Space × Nat × List Byte)) :
    ((s.outputs k op ws).job q).run.publish = (s.job q).run.publish := by
  induction ws generalizing s with
  | nil => rfl
  | cons w ws ih => exact (ih _).trans (s.output_publish k op q w)

/-- An output to job memory is there, whatever the tiers and the journal do with the write (R264, R421). -/
theorem State.output_job (s : State) (k op a : Nat) (bs : List Byte) (hk : k < s.jobs.length) :
    ((s.output k op (.job, a, bs)).job k).run.mem = memWrite (s.job k).run.mem a bs := by
  unfold State.output
  dsimp only
  rw [State.hubWrite_mem, State.setJob_job _ _ _ hk]
  split <;> exact congrArg JobRun.mem (Job.store_run _ _ _)

theorem State.completeDevice_publish (s : State) (k q : Nat) (p : Publication) :
    ((s.completeDevice k p).job q).run.publish = (s.job q).run.publish := by
  have recorded (u : State) (a : Nat) (bs : List Byte) :
      (((u.setJob k ((u.job k).store a bs)).hubWrite k 8 a 32).job q).run.publish = (u.job q).run.publish := by
    rw [State.hubWrite_publish]
    exact State.setJob_publish u k q _ (congrArg JobRun.publish (Job.store_run _ _ _) :)
  unfold State.completeDevice
  dsimp only
  split_ifs
  · exact recorded _ _ _
  · rw [State.setInfo_publish]
    exact recorded _ _ _
  · rw [State.job, State.deliverNotify_jobs]
    exact (State.setInfo_publish _ _ _ _).trans (recorded _ _ _)

/-! ## What the whole publication leaves -/

theorem State.written_slots (s : State) (k i : Nat) (p : Publication) : (s.written k i p).jobs.length = s.jobs.length := by
  have h : (s.written k i p).shape = s.shape := by simp [State.written, State.taken]
  exact (congrArg Shape.slots h :)

section
variable {s : State} {k i : Nat} {p : Publication} (hk : k < s.jobs.length)
include hk

theorem State.taken_job : (s.taken k i).job k =
    { s.job k with run := { (s.job k).run with publish := (s.job k).run.publish.eraseIdx i } } := State.setJob_job _ _ _ hk

/-- Before its outputs are written, the job differs in the list of the finished and in numbers of swap images. -/
theorem State.stamped_job : ∃ streams, ((s.taken k i).stampSwaps k p).job k =
    { s.job k with run := { (s.job k).run with publish := (s.job k).run.publish.eraseIdx i, streams } } := by
  have ht : k < (s.taken k i).jobs.length := by simpa [State.taken, State.setJob] using hk
  obtain ⟨streams, e | e⟩ := (s.taken k i).stampSwaps_eq k p
  · exact ⟨_, by rw [e, State.taken_job hk]⟩
  · exact ⟨_, by rw [e, State.setJob_job _ _ _ ht, State.taken_job hk]⟩

theorem State.written_info : ((s.written k i p).job k).info = (s.job k).info := by
  obtain ⟨_, e⟩ := State.stamped_job (i := i) (p := p) hk
  rw [State.written, State.outputs_info, e]

theorem State.written_publish : ((s.written k i p).job k).run.publish = (s.job k).run.publish.eraseIdx i := by
  obtain ⟨_, e⟩ := State.stamped_job (i := i) (p := p) hk
  rw [State.written, State.outputs_publish, e]

theorem State.written_mem_nil (hw : p.writes = []) : ((s.written k i p).job k).run.mem = (s.job k).run.mem := by
  obtain ⟨_, e⟩ := State.stamped_job (i := i) (p := p) hk
  rw [State.written, hw, State.outputs, e]

theorem State.written_mem_job {a : Nat} {bs : List Byte} (hw : p.writes = [(.job, a, bs)]) :
    ((s.written k i p).job k).run.mem = memWrite (s.job k).run.mem a bs := by
  have hl : k < ((s.taken k i).stampSwaps k p).jobs.length := by
    rw [State.stampSwaps_slots]
    simpa [State.taken, State.setJob] using hk
  obtain ⟨_, e⟩ := State.stamped_job (i := i) (p := p) hk
  rw [State.written, hw, State.outputs, State.outputs, State.output_job _ _ _ _ _ hl, e]

theorem State.published_publish : ((s.published k i p).job k).run.publish = (s.job k).run.publish.eraseIdx i := by
  have hw := State.written_publish (i := i) (p := p) hk
  unfold State.published
  split_ifs
  · rw [State.completeDevice_publish, hw]
  · rw [State.complete_job, State.setInfo_job _ _ _ (by rwa [State.written_slots])]
    exact hw
  · exact hw

/-- A host command's completion, or its lack, changes nothing of job memory. -/
theorem State.published_mem (hd : p.cmd.dev = false) :
    ((s.published k i p).job k).run.mem = ((s.written k i p).job k).run.mem := by
  unfold State.published
  rw [if_neg (by simp [hd])]
  split
  · rw [State.complete_job, State.setInfo_job _ _ _ (by rwa [State.written_slots])]
  · rfl

theorem State.published_outstanding (hd : p.cmd.dev = false) (ho : p.cmd ∈ (s.job k).info.outstanding) :
    ((s.published k i p).job k).info.outstanding = (s.job k).info.outstanding.filter (fun d => d.seq != p.cmd.seq) := by
  rw [State.published, if_neg (by simp [hd]), if_pos ho, State.complete_job,
    State.setInfo_job _ _ _ (by rwa [State.written_slots])]
  dsimp only
  rw [State.written_info hk]
end

/-- Settles O43: what holds the command, what room its writes need, and what it leaves once it publishes. -/
theorem publicationCompletes : Obligations.PublicationCompletes := by
  unfold Obligations.PublicationCompletes
  intro s k i p hr hp
  dsimp only
  rw [exec_commandPublish hr]
  refine ⟨fun h => congrArg _ (State.publish_held hp h), fun h hroom => ?_, fun h hroom hd => ?_, fun h hroom hd ho => ?_,
    fun h hroom hd ho => ?_, fun h hroom hk => ⟨_, congrArg _ (State.publish_done hp h hroom), ?_⟩⟩
  · obtain ⟨hw, hf⟩ := not_or.mp hroom
    exact congrArg _ (State.publish_stalls hp h (by simpa using hw) (by simpa using hf))
  · rw [State.publish_done hp h hroom, State.published, if_pos hd]
    rfl
  · rw [State.publish_done hp h hroom, State.published, if_neg (by simp [hd]), if_pos ho]
    rfl
  · rw [State.publish_done hp h hroom, State.published, if_neg (by simp [hd]), if_neg ho]
    rfl
  · have unheard (hd : p.cmd.dev = false) (ho : p.cmd ∉ (s.job k).info.outstanding) : s.published k i p = s.written k i p := by
      rw [State.published, if_neg (by simp [hd]), if_neg ho]
    refine ⟨State.published_publish hk, fun hd hw => ?_, fun a bs hd hw => ?_, fun x a bs hd ho hw => ?_,
      fun x key a bs hd ho hw => ?_, State.published_outstanding hk⟩
    · rw [State.published_mem hk hd, State.written_mem_nil hk hw]
    · rw [State.published_mem hk hd, State.written_mem_job hk hw]
    · rw [unheard hd ho, State.written, hw, State.outputs, State.outputs, State.output, State.setPort_port,
        State.stampSwaps_port]
      rfl
    · obtain ⟨_, e⟩ := State.stamped_job (i := i) (p := p) hk
      rw [unheard hd ho, State.written, hw, State.outputs, State.outputs, State.output, State.setPort_port,
        State.stampSwaps_port, e]
      exact ⟨rfl, rfl⟩

end Sys2Proof.Machine
end

section
/-! O36: how a stream command enters the queue and is held, refused whole or dispatched, and where it stands afterwards (R35, R108, R113,
R117). -/

namespace Sys2Proof.Machine

/-- Each stream command is dispatched (R111). -/
theorem exec_streamCommand {s : State} {c : Cmd} {e : Instr × Nat} (he : e ∈ streamCommands c) (ho : c.desc.opcode = e.2) :
    exec e.1 s = .next (s.dispatch c) := by
  simp only [streamCommands, List.mem_cons, List.not_mem_nil, or_false] at he
  rcases he with rfl | rfl | rfl | rfl | rfl | rfl | rfl | rfl <;> exact checked_of _ _ _ (beq_iff_eq.mpr ho)

/-! ## Entering the queue (R35, R113) -/

/-- Numbering the advances of a command changes stream entries only. -/
theorem JobRun.number_queue (r : JobRun) (ws : List Row) : (r.number ws).1.queue = r.queue := by
  induction ws generalizing r with
  | nil => rfl
  | cons w ws ih =>
    refine (ih _).trans ?_
    split <;> rfl

/-- A command enters at the end of its queue. -/
theorem Job.enqueue_queue (j : Job) (c : Cmd) : ∃ q, (j.enqueue c).run.queue = j.run.queue ++ [q] ∧ q.cmd = c := by
  unfold Job.enqueue
  extract_lets _ _ op _ rows₀ rows refs
  have hq : (j.run.number rows).1.queue = j.run.queue := JobRun.number_queue _ _
  have counted (r : JobRun) : (if op == 0x18 then r.count 0x710 1 else r).queue = r.queue := by
    split <;> rfl
  dsimp only
  rw [counted, hq]
  exact ⟨_, rfl, rfl⟩

theorem Job.enqueue_last {j : Job} {c : Cmd} {q : QCmd} (h : (j.enqueue c).run.queue.getLast? = some q) :
    q ∈ (j.enqueue c).run.queue ∧ q.cmd = c := by
  obtain ⟨x, hx, hc⟩ := j.enqueue_queue c
  rw [hx, List.getLast?_concat] at h
  cases h
  exact ⟨by simp [hx], hc⟩

theorem Job.waitingFor_new {j : Job} {c : Cmd} (h : ∀ x ∈ j.run.queue, x.cmd ≠ c) :
    j.waitingFor c = (j.enqueue c, (j.enqueue c).run.queue.getLast?) := by
  have none : j.run.queue.find? (fun q => q.cmd == c && q.phase == 0) = none :=
    List.find?_eq_none.mpr fun x hx => by simp [h x hx]
  rw [Job.waitingFor, none]

/-! ## The ways of dispatch (R117) -/

/-- The command of entry `q` is not dispatched yet (R34, R35, R426, R427, R492). -/
def State.holdsBack (s : State) (c : Cmd) (j : Job) (q : QCmd) : Prop :=
  ((c.dev = true ∨ c.desc.opcode = 0x15) ∧ j.run.clearBefore q.uid q.streams = false) ∨
    (c.desc.opcode = 0x15 ∧ fld c.desc.w24 48 2 = 1 ∧ (s.port c.port).absentNow = true) ∨
    (j.info.confidential = true ∧ usesHost c.desc = true ∧ (s.port c.port).session.up = false) ∨
    j.readsWait (descReads c.desc) = true

/-- The entry of a dispatched command: it waits for its batch, under the session that its port has. -/
def QCmd.dispatchedAt (q : QCmd) (x : Session) : QCmd := { q with phase := 1, under := (x.epoch, x.keyD2h) }

/-- The run once the entry `q` is dispatched: moves that its rows need start, and it may have finished (R108). -/
def Job.dispatched (j : Job) (q : QCmd) : JobRun := (earlyMoves j q (j.run.setQ q) q.rows).finishDone [q]

/-- The state once entry `q` of a command that is no import is dispatched. -/
def State.dispatched (s : State) (k : Nat) (j : Job) (q : QCmd) : State :=
  (s.setJob k { j with run := j.dispatched q }).startFetches k j.run

section
variable {s : State} {c : Cmd} {k : Nat} {q : QCmd} (hk : s.jobOf c = some k)
  (hq : (s.job k).waitingFor c = ((s.job k).enqueue c, some q))
include hk hq

theorem State.dispatch_held (h : s.holdsBack c ((s.job k).enqueue c) q) : s.dispatch c = s.setJob k ((s.job k).enqueue c) := by
  simp only [State.dispatch, hk, hq]
  refine if_pos ?_
  simpa [State.holdsBack, or_assoc, and_assoc] using h

theorem State.dispatch_clear (h : ¬ s.holdsBack c ((s.job k).enqueue c) q) : s.dispatch c =
    match ((s.job k).enqueue c).dispatchRefusal q with
    | some st => s.setJob k { (s.job k).enqueue c with run := ((s.job k).enqueue c).run.refuseWhole q st }
    | none =>
      let q' := q.dispatchedAt (s.port c.port).session
      let s' := s.dispatched k ((s.job k).enqueue c) q'
      if c.desc.opcode == 0x15 then s'.startImport k q' else s' := by
  simp only [State.dispatch, hk, hq]
  refine if_neg ?_
  simpa [State.holdsBack, or_assoc, and_assoc] using h

end

/-! ## Where a dispatched command stands -/

/-- The command of number `uid` waits in the queue for its batch. -/
def JobRun.awaitsBatch (r : JobRun) (uid : Nat) (c : Cmd) : Prop :=
  (∃ x ∈ r.queue, x.uid = uid) ∧ ∀ x ∈ r.queue, x.uid = uid → x.cmd = c ∧ x.phase = 1

/-- A dispatched command waits in the queue for its batch, or has finished. -/
def JobRun.carries (r : JobRun) (c : Cmd) : Prop :=
  (∃ x ∈ r.queue, x.cmd = c ∧ x.phase = 1) ∨ ∃ p ∈ r.publish, p.cmd = c

theorem JobRun.awaitsBatch.carries {r : JobRun} {uid : Nat} {c : Cmd} (h : r.awaitsBatch uid c) : r.carries c := by
  obtain ⟨⟨x, hx, hu⟩, hc⟩ := h
  exact .inl ⟨x, hx, hc x hx hu⟩

theorem JobRun.setQ_awaitsBatch {r : JobRun} {q : QCmd} (h : ∃ x ∈ r.queue, x.uid = q.uid) (hp : q.phase = 1) :
    (r.setQ q).awaitsBatch q.uid q.cmd := by
  obtain ⟨x, hx, hu⟩ := h
  refine ⟨⟨q, List.mem_map.mpr ⟨x, hx, by simp [hu]⟩, rfl⟩, fun y hy hyu => ?_⟩
  obtain ⟨z, -, rfl⟩ := List.mem_map.mp hy
  split at hyu
  next h => simp [h, hp]
  next h => exact absurd hyu (by simpa using h)

/-- Another form of the command's own entry leaves it where it stands. -/
theorem JobRun.carries.setQ {r : JobRun} {q : QCmd} (h : r.carries q.cmd) (hp : q.phase = 1) : (r.setQ q).carries q.cmd := by
  obtain ⟨x, hx, hc⟩ | hpub := h
  · refine .inl ⟨_, List.mem_map.mpr ⟨x, hx, rfl⟩, ?_⟩
    split
    · exact ⟨rfl, hp⟩
    · exact hc
  · exact .inr hpub

/-- Starting a move leaves the queue. -/
@[simp] theorem startMove_queue (j : Job) (r : JobRun) (n : Nat) : (startMove j r n).1.queue = r.queue := by
  unfold startMove
  dsimp only
  split
  · split <;> rfl
  · rfl

theorem startMove_awaitsBatch {r : JobRun} {uid : Nat} {c : Cmd} (h : r.awaitsBatch uid c) (j : Job) (n : Nat) :
    (startMove j r n).1.awaitsBatch uid c := by
  simpa [JobRun.awaitsBatch] using h

/-- A changed row is no change of the command, its number or its phase. -/
theorem JobRun.awaitsBatch.setRow {r : JobRun} {uid : Nat} {c : Cmd} {q : QCmd} (h : r.awaitsBatch uid c)
    (hf : r.findQ uid = some q) (w : Row) : (r.setQ (q.setRow w)).awaitsBatch uid c := by
  have hu : q.uid = uid := by simpa using List.find?_some hf
  obtain ⟨hc, hp⟩ := h.2 q (List.mem_of_find?_eq_some hf) hu
  subst hu hc
  exact setQ_awaitsBatch (q := q.setRow w) h.1 hp

/-- The moves that the rows need leave their command waiting (R108). -/
theorem earlyMoves_awaitsBatch (j : Job) (q : QCmd) {r : JobRun} {c : Cmd} (h : r.awaitsBatch q.uid c) (ws : List Row) :
    (earlyMoves j q r ws).awaitsBatch q.uid c := by
  induction ws generalizing r with
  | nil => exact h
  | cons w ws ih =>
    unfold earlyMoves
    dsimp only
    split
    · have hm := startMove_awaitsBatch h j w.stream
      split
      next q' hf => exact ih (hm.setRow hf _)
      next => exact ih hm
    · exact ih h

/-- A command that is settled has finished, or waits as before (R118). -/
theorem JobRun.awaitsBatch.settleCommand {r : JobRun} {uid : Nat} {c : Cmd} (h : r.awaitsBatch uid c) :
    (r.settleCommand uid).carries c := by
  unfold JobRun.settleCommand
  split
  next => exact h.carries
  next q hf =>
    have hc : q.cmd = c := (h.2 q (List.mem_of_find?_eq_some hf) (by simpa using List.find?_some hf)).1
    split
    · exact .inr ⟨_, List.mem_append_right _ (List.mem_singleton_self _), hc⟩
    · exact h.carries

theorem Job.dispatched_carries {j : Job} {q : QCmd} (h : ∃ x ∈ j.run.queue, x.uid = q.uid) (hp : q.phase = 1) :
    (j.dispatched q).carries q.cmd := by
  have hw := earlyMoves_awaitsBatch j q (JobRun.setQ_awaitsBatch h hp) q.rows
  unfold Job.dispatched JobRun.finishDone
  split
  · exact hw.carries
  · exact hw.settleCommand

/-! ## Reads that a dispatch starts -/

@[simp] theorem State.sendPacket_jobs (s : State) (p : Packet) : (s.sendPacket p).jobs = s.jobs :=
  (congrArg State.jobs (State.sendPacket_offWire s p) :)

@[simp] theorem State.readPeer_jobs (s : State) (k peer addr bytes : Nat) (body : Bool) (key : Nat) :
    (s.readPeer k peer addr bytes body key).jobs = s.jobs := by
  unfold State.readPeer
  dsimp only
  rw [State.sendPacket_jobs]
  rfl

@[simp] theorem State.startFetches_jobs (s : State) (k : Nat) (old : JobRun) : (s.startFetches k old).jobs = s.jobs :=
  foldl_keeps State.jobs _ (fun s _ => s.readPeer_jobs _ _ _ _ _ _) _ _

@[simp] theorem State.dispatched_job {s : State} {k : Nat} (h : k < s.jobs.length) (j : Job) (q : QCmd) :
    (s.dispatched k j q).job k = { j with run := j.dispatched q } := by
  refine Eq.trans ?_ (s.setJob_job k _ h)
  exact congrArg (fun js : List Job => js.getD k {}) (State.startFetches_jobs _ _ _)

/-- An import asks for what it has to check, and its command stands where it stood (R134, R136). -/
theorem State.startImport_carries {s : State} {k : Nat} {q : QCmd} (hk : k < s.jobs.length) (h : (s.job k).run.carries q.cmd) :
    ((s.startImport k q).job k).run.carries q.cmd := by
  have give (bs : List Byte) : ((s.setJob k { s.job k with
      run := (s.job k).run.setQ { q with phase := 1, data := bs } }).job k).run.carries q.cmd := by
    rw [State.setJob_job _ _ _ hk]
    exact JobRun.carries.setQ (q := { q with phase := 1, data := bs }) h rfl
  unfold State.startImport
  dsimp only
  split
  · exact (congrArg (JobRun.carries · q.cmd) (State.hubAccess_runData _ k false 7 _ _ k)).mpr (give _)
  · split
    · exact give _
    · exact (congrArg (fun js : List Job => (js.getD k {}).run.carries q.cmd) (State.readPeer_jobs _ _ _ _ _ _ _)).mpr (give q.data)

/-- Settles O36: the command enters at the end of its queue, and what holds it, refuses it, or lets it go on. -/
theorem streamCommandsDispatch : Obligations.StreamCommandsDispatch := by
  unfold Obligations.StreamCommandsDispatch
  intro s c k e q hr hrun hid he ho hnew hlast
  have hk : s.jobOf c = some k := by simp [State.jobOf, State.runningJob_of hr hrun, hid]
  have hq : (s.job k).waitingFor c = ((s.job k).enqueue c, some q) := (Job.waitingFor_new hnew).trans (by rw [hlast])
  obtain ⟨hmem, hcmd⟩ := Job.enqueue_last hlast
  extract_lets j held q' s'
  rw [exec_streamCommand he ho]
  have clear (h : ¬ held) := State.dispatch_clear hk hq h
  have went (h : ¬ held) (hd : j.dispatchRefusal q = none) :
      s.dispatch c = if c.desc.opcode == 0x15 then s'.startImport k q' else s' := by
    rw [clear h, hd]
    rfl
  refine ⟨fun h => congrArg _ (State.dispatch_held hk hq h), fun st h hst => ?_, fun h hd hop => ?_, fun h hd hop => ?_,
    fun h hd hlen => ⟨_, congrArg _ (went h hd), ?_⟩⟩
  · rw [clear h, hst]
  · rw [went h hd, if_neg (by simpa using hop)]
  · rw [went h hd, if_pos (by simpa using hop)]
  · have hs' : (s'.job k).run.carries q'.cmd := by
      rw [show s' = s.dispatched k j q' from rfl, State.dispatched_job hlen]
      exact Job.dispatched_carries ⟨q, hmem, rfl⟩ rfl
    show ((if c.desc.opcode == 0x15 then s'.startImport k q' else s').job k).run.carries c
    rw [← hcmd]
    split
    · refine State.startImport_carries ?_ hs'
      simpa [s', State.setJob] using hlen
    · exact hs'

end Sys2Proof.Machine
end

section
/-! SUPPORT. What the reads of a batch's riders, the pages that its end frees and those that it fills leave of a job: its run's data and its
registers. -/

namespace Sys2Proof.Machine

/-! ## Accesses that a batch's end makes -/

@[simp] theorem Acc.wholePage_data (a : Acc) (write : Bool) (cl page part : Nat) :
    (a.wholePage write cl page part).data = a.data := by
  refine foldl_keeps Acc.data _ (fun a i => ?_) _ _
  split <;> simp

@[simp] theorem Acc.flushPage_data (a : Acc) (page : Nat) : (a.flushPage page).data = a.data := by
  refine (Acc.wholePage_data _ _ _ _ _).trans ?_
  show Acc.data (match a.tiers.clusters.find? _ with | some e => a.countCluster e.1 0x30 65536 | none => a) = _
  split <;> rfl

/-- What cores have fetched ahead of a freed page is no data of the run (R289). -/
@[simp] theorem JobRun.dropAhead_data (r : JobRun) (page : Nat) : (r.dropAhead page).data = r.data :=
  foldl_keeps JobRun.data (fun (r : JobRun) (e : Nat × Core) =>
    r.countCluster (e.1 / 16) 0x40 (e.2.ahead.filter (fun u => u / 65536 == page)).length) (fun _ _ => rfl) r.cores r

@[simp] theorem Acc.dropPage_data (a : Acc) (page : Nat) (place : Option Nat) : (a.dropPage page place).data = a.data :=
  JobRun.dropAhead_data _ _

@[simp] theorem State.hubReads_runData (s : State) (k part : Nat) (xs : List (Nat × Nat)) (q : Nat) :
    (s.hubReads k part xs).runData q = s.runData q :=
  foldl_keeps (fun s : State => s.runData q) (fun (s : State) (x : Nat × Nat) => s.hubRead k part x.1 x.2)
    (fun s x => State.hubAccess_runData s k false part x.1 x.2 q) xs s

/-- Reads leave the registers of every slot. -/
theorem State.hubReads_info (s : State) (k part : Nat) (xs : List (Nat × Nat)) (q : Nat) :
    ((s.hubReads k part xs).job q).info = (s.job q).info := by
  refine foldl_keeps (fun s : State => (s.job q).info) (fun (s : State) (x : Nat × Nat) => s.hubRead k part x.1 x.2)
    (fun s x => ?_) xs s
  unfold State.hubRead State.hubAccess
  split
  · exact State.onTiers_info _ _ _ _
  · rfl

@[simp] theorem State.hubReads_slots (s : State) (k part : Nat) (xs : List (Nat × Nat)) :
    (s.hubReads k part xs).jobs.length = s.jobs.length :=
  (congrArg Shape.slots (s.hubReads_shape k part xs) :)

@[simp] theorem State.dropFreed_runData (s : State) (k : Nat) (old : JobRun) (q : Nat) :
    (s.dropFreed k old).runData q = s.runData q := by
  unfold State.dropFreed
  dsimp only
  split
  · rfl
  · exact State.onTiers_runData s k q _ fun _ a => foldl_keeps Acc.data _ (fun a e => Acc.dropPage_data a _ _) _ _

@[simp] theorem State.flushFilled_runData (s : State) (k : Nat) (pages : List Nat) (q : Nat) :
    (s.flushFilled k pages).runData q = s.runData q := by
  unfold State.flushFilled
  dsimp only
  split
  · rfl
  · exact State.onTiers_runData s k q _ fun _ a => foldl_keeps Acc.data _ (fun a e => Acc.flushPage_data a _) _ _

end Sys2Proof.Machine
end

section
/-! O39: what the end of a batch does for its riders (R49, R122, R125, R129, R134). -/

namespace Sys2Proof.Machine

/-! ## Runs of the same data -/

/-- Runs of the same data: what of them a batch's end reads and writes. -/
structure JobRun.SameData (r r' : JobRun) : Prop where
  batches : r.batches = r'.batches
  mem : r.mem = r'.mem
  publish : r.publish = r'.publish
  stream : ∀ n, r.stream n = r'.stream n
  findQ : ∀ u, r.findQ u = r'.findQ u

theorem JobRun.sameData_of {r r' : JobRun} (h : r.data = r'.data) : r.SameData r' :=
  ⟨(congrArg JobRun.batches h :), (congrArg JobRun.mem h :), (congrArg JobRun.publish h :),
    fun n => (congrArg (fun r : JobRun => r.stream n) h :), fun u => (congrArg (fun r : JobRun => r.findQ u) h :)⟩

/-! ## The step -/

/-- What the riders of a batch read as they commit (R280). -/
def JobRun.riderReads (r : JobRun) (b : Batch) : List (Nat × Nat) := r.riderRanges b 0x14 ++ r.riderRanges b 0x16

/-- The job of slot `k` once the riders of its oldest batch have read what they carry away. -/
def State.ridersRead (s : State) (k : Nat) (b : Batch) : Job := (s.hubReads k 7 ((s.job k).run.riderReads b)).job k

/-- The state once the oldest batch, `b`, of slot `k` has committed (R113 to R121). -/
def State.batchCommitted (s : State) (k : Nat) (b : Batch) (rest : List Batch) : State :=
  let j := s.ridersRead k b
  let s := (((s.hubReads k 7 ((s.job k).run.riderReads b)).setJob k (j.commitBatch b rest)).trimKeys).dropFreed k j.run
  let s := (j.run.importsOf b).foldl (fun (s : State) n => s.stateIn k n) s
  (s.flushFilled k (j.run.filled b)).writeEntries k j.run

section
variable {s : State} {k : Nat} {b : Batch} {rest : List Batch} (hr : s.sched.running = some k)
  (hb : (s.job k).run.batches = b :: rest)
include hr hb

/-- The oldest batch is not over (R49), the journal is full (R354), a rider would read withheld data (R492), or it commits. -/
theorem exec_batchCommit : exec .batchCommit s = .next (
    if (s.job k).batchOver b = false then s
    else if s.journalFull k = true then s.journalStall k
    else if (s.job k).readsWait ((s.job k).run.riderReads b) = true then s
    else s.batchCommitted k b rest) := by
  change execBatchCommit s = _
  simp only [execBatchCommit, hr, hb, Bool.not_eq_true']
  rfl

theorem exec_batchCommit_commits (ho : (s.job k).batchOver b = true) (hf : s.journalFull k = false)
    (hw : (s.job k).readsWait ((s.job k).run.riderReads b) = false) :
    exec .batchCommit s = .next (s.batchCommitted k b rest) := by
  rw [exec_batchCommit hr hb, ho, hf, hw]
  rfl

end

/-- The accesses of a commit leave the run's data as the commit makes them. -/
theorem State.batchCommitted_sameData {s : State} {k : Nat} (hk : k < s.jobs.length) (b : Batch) (rest : List Batch) :
    ((s.batchCommitted k b rest).job k).run.SameData ((s.ridersRead k b).commitBatch b rest).run := by
  refine JobRun.sameData_of ?_
  change (s.batchCommitted k b rest).runData k = _
  unfold State.batchCommitted
  dsimp only
  rw [State.writeEntries_runData, State.flushFilled_runData,
    foldl_keeps (fun s : State => s.runData k) _ (fun s n => State.stateIn_runData s k n k), State.dropFreed_runData]
  rw [State.runData, State.trimKeys_job, State.setJob_job _ _ _ (by rwa [State.hubReads_slots])]

theorem State.ridersRead_sameData (s : State) (k : Nat) (b : Batch) : (s.ridersRead k b).run.SameData (s.job k).run :=
  JobRun.sameData_of (State.hubReads_runData s k 7 _ k)

theorem State.ridersRead_info (s : State) (k : Nat) (b : Batch) : (s.ridersRead k b).info = (s.job k).info :=
  State.hubReads_info s k 7 _ k

/-! ## What the commit leaves of the list of batches -/

theorem JobRun.commitRows_batches (r : JobRun) (ws : List (Nat × Nat)) : (r.commitRows ws).batches = r.batches := by
  have row (r : JobRun) (w : Row) : (r.commitRow w).batches = r.batches := by
    unfold JobRun.commitRow
    dsimp only
    split <;> rfl
  have settled (r : JobRun) (uid : Nat) : (r.settleCommand uid).batches = r.batches := by
    unfold JobRun.settleCommand
    split
    · rfl
    · split <;> rfl
  induction ws generalizing r with
  | nil => rfl
  | cons x ws ih =>
    unfold JobRun.commitRows
    split
    · exact ih r
    · split
      · exact ih r
      · exact (ih _).trans ((settled _ _).trans (row r _))

theorem JobRun.forkKids_batches (r : JobRun) (e : Stream) (parent promise keys i : Nat) (kids : List Nat) :
    (r.forkKids e parent promise keys i kids).batches = r.batches := by
  induction kids generalizing r i with
  | nil => rfl
  | cons c kids ih => exact ih _ _

theorem JobRun.commitPrune_batches (r : JobRun) (q : QCmd) (refs : List (Nat × Nat)) :
    (r.commitPrune q refs).batches = r.batches := by
  induction refs generalizing r q with
  | nil => rfl
  | cons x refs ih =>
    unfold JobRun.commitPrune
    dsimp only
    split
    · exact ih _ _
    · exact ih _ _

theorem Job.commitExport_batches (j : Job) (r : JobRun) (q : QCmd) (n : Nat) : (j.commitExport r q n).batches = r.batches := by
  unfold Job.commitExport
  dsimp only
  split
  · rfl
  · split
    · rfl
    · split <;> rfl

theorem JobRun.commitImport_batches (r : JobRun) (j : Job) (q : QCmd) (n : Nat) : (r.commitImport j q n).batches = r.batches := by
  unfold JobRun.commitImport
  dsimp only
  split <;> rfl

/-- What one rider commits for the first stream that it names, by its opcode. -/
def Job.commitRider (j : Job) (r : JobRun) (q : QCmd) (n : Nat) : JobRun :=
  if q.cmd.desc.opcode == 0x12 then r.commitFork { q with reserve := 0 } n
  else if q.cmd.desc.opcode == 0x13 then r.commitPrune q q.refs
  else if q.cmd.desc.opcode == 0x14 then j.commitExport r q n
  else if q.cmd.desc.opcode == 0x15 then r.commitImport j q n
  else j.commitSwapOut r q n

theorem Job.commitRider_batches (j : Job) (r : JobRun) (q : QCmd) (n : Nat) : (j.commitRider r q n).batches = r.batches := by
  unfold Job.commitRider
  split
  · exact JobRun.forkKids_batches r _ _ _ _ _ _
  · split
    · exact r.commitPrune_batches q _
    · split
      · exact j.commitExport_batches r q n
      · split
        · exact r.commitImport_batches j q n
        · rfl

/-- The riders commit one after another; one that names no stream only finishes. -/
theorem Job.commitRiders_cons (j : Job) {r : JobRun} {u : Nat} {q : QCmd} (h : r.findQ u = some q) (us : List Nat) :
    j.commitRiders r (u :: us) = j.commitRiders (match q.refs with | [] => r.finish q [] | (n, _) :: _ => j.commitRider r q n) us := by
  rw [Job.commitRiders, h]
  rfl

theorem Job.commitRiders_batches (j : Job) (r : JobRun) (us : List Nat) : (j.commitRiders r us).batches = r.batches := by
  induction us generalizing r with
  | nil => rfl
  | cons u us ih =>
    cases hq : r.findQ u with
    | none => rw [Job.commitRiders, hq]; exact ih r
    | some q =>
      rw [j.commitRiders_cons hq, ih]
      split
      · rfl
      · exact j.commitRider_batches r q _

theorem Job.commitBatch_batches (j : Job) (b : Batch) (rest : List Batch) : (j.commitBatch b rest).run.batches = rest :=
  (j.commitRiders_batches _ _).trans (JobRun.commitRows_batches _ _)

/-! ## One rider -/

/-- A batch of one rider, of a command that names one stream. -/
structure OneRider (r : JobRun) (b : Batch) (q : QCmd) (n gen : Nat) : Prop where
  rows : b.rows = []
  rider : ∃ u, b.riders = [u] ∧ r.findQ u = some q
  refs : q.refs = [(n, gen)]

/-- The run from which a batch is gone, kept while a core works for it. -/
def JobRun.batchOff (r : JobRun) (b : Batch) (rest : List Batch) : JobRun :=
  let busy := r.cores.filterMap (fun e => e.2.batch)
  { r with batches := rest, past := (r.past ++ [b]).filter (fun x => busy.contains x.id) }

theorem OneRider.commitBatch_run {j : Job} {b : Batch} {q : QCmd} {n gen : Nat} (h : OneRider j.run b q n gen)
    (rest : List Batch) : (j.commitBatch b rest).run = j.commitRider (j.run.batchOff b rest) q n := by
  obtain ⟨hrows, ⟨u, hu, hq⟩, hrefs⟩ := h
  have found : (j.run.batchOff b rest).findQ u = some q := hq
  calc (j.commitBatch b rest).run
      = j.commitRiders (j.run.batchOff b rest) [u] := by
        rw [Job.commitBatch, hrows, hu]
        rfl
    _ = j.commitRiders (j.commitRider (j.run.batchOff b rest) q n) [] := by rw [j.commitRiders_cons found, hrefs]
    _ = j.commitRider (j.run.batchOff b rest) q n := rfl

theorem JobRun.setStream_stream_ne (r : JobRun) {n m : Nat} (e : Stream) (h : m ≠ n) : (r.setStream n e).stream m = r.stream m :=
  NMap.getD_put_ne _ _ _ _ _ h

/-- A PRUNE of a live stream frees it (R125). -/
theorem Job.commitRider_prune (j : Job) (r : JobRun) {q : QCmd} {n gen : Nat} (ho : q.cmd.desc.opcode = 0x13)
    (hrefs : q.refs = [(n, gen)]) : (j.commitRider r q n).stream n =
      if (r.stream n).kind = 0 ∨ (r.stream n).gen ≠ gen then r.stream n
      else { (r.stream n).freed with assigned := r.lastSeq n (r.stream n).freed.gen } := by
  have prune : j.commitRider r q n = r.commitPrune q [(n, gen)] := by
    rw [Job.commitRider, ho, hrefs]
    rfl
  rw [prune]
  unfold JobRun.commitPrune
  dsimp only
  split
  next h => rw [if_pos (by simpa using h)]; rfl
  next h => rw [if_neg (by simpa using h)]; exact JobRun.setStream_stream r n _

/-- A SWAP_OUT's image goes to the host and its stream is COLD (R107, R129). -/
theorem Job.commitRider_swapOut (j : Job) (r : JobRun) {q : QCmd} (n : Nat) (ho : q.cmd.desc.opcode = 0x16) :
    j.commitRider r q n = j.commitSwapOut r q n := by
  rw [Job.commitRider, ho]
  rfl

theorem Job.commitSwapOut_stream (j : Job) (r : JobRun) (q : QCmd) (n : Nat) : (j.commitSwapOut r q n).stream n =
    { r.stream n with
      loc := .cold, statePtr := 0, promise := 0, swapEpoch := q.under.1, swapKey := q.under.2
      pages := (r.stream n).pages.filter (fun p => !((r.stream n).swapPages.map (·.1)).contains p.1) } :=
  JobRun.setStream_stream r n _

/-- What a SWAP_OUT publishes: its pages, and the image for the host's buffer. -/
theorem Job.commitSwapOut_publish (j : Job) (r : JobRun) {q : QCmd} (n : Nat) (ho : q.cmd.desc.opcode = 0x16) :
    ∃ p ∈ (j.commitSwapOut r q n).publish, p.cmd = q.cmd ∧ p.count = (r.stream n).awaySize / 4096 ∧
      p.writes = [(j.hostSpace (r.stream n).swapPort q.under.2, (r.stream n).awayAddr,
        swapBytes (r.stream n).awaySize (r.stream n).swapState (r.stream n).swapPages)] := by
  refine ⟨_, List.mem_append_right _ (List.mem_singleton_self _), rfl, rfl, ?_⟩
  simp [QCmd.publication, QCmd.results, ho]

/-- The children of a FORK, each in its own entry (R122). -/
theorem JobRun.forkKids_stream (r : JobRun) (e : Stream) (parent promise keys i : Nat) (kids : List Nat) (c : Nat) :
    (c ∉ kids → (r.forkKids e parent promise keys i kids).stream c = r.stream c) ∧
    (c ∈ kids → kids.Nodup → ∃ i' key,
      (r.forkKids e parent promise keys i kids).stream c = forkChild e (r.stream c) parent i' promise key) := by
  induction kids generalizing r i with
  | nil => exact ⟨fun _ => rfl, fun h => absurd h List.not_mem_nil⟩
  | cons x kids ih =>
    have head := ih (r.setStream x (forkChild e (r.stream x) parent i promise
      (if keys = 0 then none else some (memWord r.mem (keys + 8 * i) 8)))) (i + 1)
    refine ⟨fun h => ?_, fun h hd => ?_⟩
    · exact (head.1 (List.not_mem_of_not_mem_cons h)).trans (JobRun.setStream_stream_ne r _ (List.ne_of_not_mem_cons h))
    · obtain ⟨hx, hd⟩ := List.nodup_cons.mp hd
      by_cases hc : c = x
      · subst hc
        exact ⟨_, _, (head.1 hx).trans (JobRun.setStream_stream r c _)⟩
      · obtain ⟨i', key, hs⟩ := head.2 (List.mem_of_ne_of_mem hc h) hd
        rw [JobRun.setStream_stream_ne r _ hc] at hs
        exact ⟨i', key, hs⟩

/-- A FORK makes its children of the parent (R122 to R124). -/
theorem Job.commitRider_fork (j : Job) (r : JobRun) {q : QCmd} {n : Nat} (ho : q.cmd.desc.opcode = 0x12) (hn : n ∉ q.kids)
    (hd : q.kids.Nodup) {c : Nat} (hc : c ∈ q.kids) : ∃ i promise key,
      (j.commitRider r q n).stream c = forkChild (r.stream n) (r.stream c) n i promise key := by
  have fork : j.commitRider r q n = r.commitFork { q with reserve := 0 } n := by
    rw [Job.commitRider, ho]
    rfl
  have hcn : c ≠ n := fun h => hn (h ▸ hc)
  obtain ⟨i, key, hs⟩ := (r.forkKids_stream (r.stream n) n (needPages (r.stream n).stateBytes (r.stream n).groups
    ((r.stream n).length % 64) (fld q.cmd.desc.w24 32 32)) q.cmd.desc.w32.toNat 0 q.kids c).2 hc hd
  rw [fork]
  exact ⟨i, _, key, (JobRun.setStream_stream_ne _ _ hcn).trans hs⟩

/-- An EXPORT_STATE that moves its stream, into a buffer that holds the record, leaves it EXPORTED (R131, R133). -/
theorem Job.commitRider_exportMoves (j : Job) (r : JobRun) {q : QCmd} {n : Nat} (ho : q.cmd.desc.opcode = 0x14)
    (hmove : bit q.cmd.desc.w40 0 = true) (hb2 : bit q.cmd.desc.w40 1 = false)
    (hfit : (r.stream n).recordSize ≤ q.cmd.desc.w24.toNat) : (j.commitRider r q n).stream n =
      { r.stream n with loc := .exported, statePtr := 0, root := 0, pages := [], promise := 0 } := by
  have exported : j.commitRider r q n = j.commitExport r q n := by
    rw [Job.commitRider, ho]
    rfl
  rw [exported]
  unfold Job.commitExport
  dsimp only
  rw [hb2, Bool.false_and, if_neg (by decide), if_neg (Nat.not_lt.mpr hfit), if_pos hmove]
  exact JobRun.setStream_stream r n _

/-- An IMPORT_STATE makes its stream as its record has it, in peat or at the peer (R107, R134, R136). -/
theorem Job.commitRider_import (j : Job) (r : JobRun) {q : QCmd} {n : Nat} (ho : q.cmd.desc.opcode = 0x15) :
    ∃ assigned statePtr pages root, (j.commitRider r q n).stream n = { q.made with assigned, statePtr, pages, root } := by
  have imported : j.commitRider r q n = r.commitImport j q n := by
    rw [Job.commitRider, ho]
    rfl
  rw [imported]
  unfold JobRun.commitImport
  dsimp only
  split
  · exact ⟨_, _, _, _, JobRun.setStream_stream r n _⟩
  · exact ⟨_, _, _, _, JobRun.setStream_stream _ n _⟩

/-! ## What the committed state holds -/

/-- No read waits where no unit is withheld (R492). -/
theorem Job.readsWait_none {j : Job} (h : j.lost = []) (xs : List (Nat × Nat)) : j.readsWait xs = false := by
  simp [Job.readsWait, Job.blocked, h]

section
variable {s : State} {k : Nat} (hk : k < s.jobs.length) {b : Batch} {rest : List Batch}
include hk

theorem State.batchCommitted_batches : ((s.batchCommitted k b rest).job k).run.batches = rest :=
  (State.batchCommitted_sameData hk b rest).batches.trans (Job.commitBatch_batches _ b rest)

/-- The stream entries and the finished commands of the slot are those that its one rider leaves. -/
theorem State.batchCommitted_oneRider {q : QCmd} {n gen : Nat} (h : OneRider (s.job k).run b q n gen) :
    ∃ r : JobRun, (∀ m, r.stream m = (s.job k).run.stream m) ∧
      (∀ m, ((s.batchCommitted k b rest).job k).run.stream m = ((s.ridersRead k b).commitRider r q n).stream m) ∧
      ((s.batchCommitted k b rest).job k).run.publish = ((s.ridersRead k b).commitRider r q n).publish := by
  have before := s.ridersRead_sameData k b
  obtain ⟨hrows, ⟨u, hu, hq⟩, hrefs⟩ := h
  have same : OneRider (s.ridersRead k b).run b q n gen :=
    ⟨hrows, ⟨u, hu, (before.findQ u).trans hq⟩, hrefs⟩
  have after := State.batchCommitted_sameData hk b rest
  rw [same.commitBatch_run] at after
  exact ⟨(s.ridersRead k b).run.batchOff b rest, before.stream, after.stream, after.publish⟩

end

/-! ## The start of a SWAP_OUT (R107, R129) -/

section
variable {r : JobRun} {q : QCmd} {n : Nat}

/-- The buffer takes the image: the stream is MOVING, and its image is taken. -/
theorem settleSwapOut_starts (hs : swapSize (r.stream n).stateBytes (r.swapParts (r.stream n)).2.length ≤ q.cmd.desc.w24.toNat)
    (ha : q.cmd.desc.w16.toNat % 4096 = 0) : (settleSwapOut r q n).stream n =
      { r.stream n with
        loc := .moving, cameFrom := .resident, awayAddr := q.cmd.desc.w16.toNat
        awaySize := swapSize (r.stream n).stateBytes (r.swapParts (r.stream n)).2.length, swapPort := q.cmd.port
        swapState := (r.swapParts (r.stream n)).1, swapPages := (r.swapParts (r.stream n)).2 } := by
  unfold settleSwapOut
  dsimp only
  rw [if_neg (by simpa [ha] using hs)]
  exact JobRun.setStream_stream r n _

/-- A buffer too small or off its grid moves nothing. -/
theorem settleSwapOut_refused (h : q.cmd.desc.w24.toNat < swapSize (r.stream n).stateBytes (r.swapParts (r.stream n)).2.length ∨
    q.cmd.desc.w16.toNat % 4096 ≠ 0) : (settleSwapOut r q n).stream n = r.stream n := by
  unfold settleSwapOut
  dsimp only
  rw [if_pos (by simpa using h)]
  rfl

end

/-- Settles O39: a commit is one branch of the command, its accesses keep the run's data, and each opcode's rider writes the entries of
its streams. -/
theorem ridersCommit : Obligations.RidersCommit := by
  unfold Obligations.RidersCommit
  refine ⟨fun s k b rest hr hk hb => ⟨fun ho => ?_, fun ho hf => ?_, fun ho hf hw => ?_, fun ho hf hw => ?_⟩,
    fun s k n gen u b rest q hr hk hf hl hb hrows hu hq hrefs => ?_, fun r q n => ⟨fun hs ha => ?_, settleSwapOut_refused⟩⟩
  · rw [exec_batchCommit hr hb, if_pos ho]
  · rw [exec_batchCommit hr hb, ho, hf]
    rfl
  · rw [exec_batchCommit hr hb, ho, hf]
    exact congrArg _ (if_pos hw)
  · have step := exec_batchCommit_commits hr hb ho hf hw
    have data := State.batchCommitted_sameData hk b rest
    exact ⟨step, _, step, State.batchCommitted_batches hk, data.mem, data.publish⟩
  · have one : OneRider (s.job k).run b q n gen := ⟨hrows, ⟨u, hu, hq⟩, hrefs⟩
    have ho : (s.job k).batchOver b = true := by simp [Job.batchOver, hrows]
    obtain ⟨r, hstr, htstr, htpub⟩ := State.batchCommitted_oneRider (rest := rest) hk one
    refine ⟨_, exec_batchCommit_commits hr hb ho hf (Job.readsWait_none hl _), State.batchCommitted_batches hk, ?_⟩
    dsimp only
    simp only [htstr, htpub, ← hstr]
    refine ⟨fun hop hkind hgen => ?_, fun hop hstale => ?_, fun hop _ => ?_, fun hop hn hd c hc => ?_,
      fun hop hmove hb2 hfit => ?_, fun hop => ?_⟩
    · rw [Job.commitRider_prune _ _ hop hrefs, if_neg (by simp [hkind, hgen])]
      rfl
    · rw [Job.commitRider_prune _ _ hop hrefs, if_pos hstale]
    · rw [Job.commitRider_swapOut _ _ n hop, Job.commitSwapOut_stream]
      have image := (s.ridersRead k b).commitSwapOut_publish r n hop
      unfold Job.hostSpace at image ⊢
      rw [State.ridersRead_info] at image
      exact ⟨rfl, rfl, rfl, rfl, rfl, rfl, image⟩
    · obtain ⟨i, promise, key, hkid⟩ := (s.ridersRead k b).commitRider_fork r hop hn hd hc
      rw [hkid]
      exact ⟨rfl, rfl, rfl, rfl, rfl, rfl, rfl, rfl, rfl, rfl⟩
    · rw [Job.commitRider_exportMoves _ _ hop hmove hb2 hfit]
      exact ⟨rfl, rfl, rfl⟩
    · obtain ⟨assigned, statePtr, pages, root, hmade⟩ := (s.ridersRead k b).commitRider_import r (n := n) hop
      rw [hmade]
      exact ⟨rfl, rfl, rfl, rfl⟩
  · rw [settleSwapOut_starts hs ha]
    exact ⟨rfl, rfl, rfl, rfl, rfl, rfl, rfl⟩

end Sys2Proof.Machine
end

section
/-! SUPPORT. How array, attention, scan, convolution and pooling commands retire (R54, R86, R93, R96, R288): an array in use and reads at
hand let the command run at once, a core short of no spill space keeps its place, and each effect has one lemma for each of its branches. -/

namespace Sys2Proof.Machine

/-! ## The array and the tiles (R86, R91, R288) -/

/-- An array in use, or the fawn path, runs the command at once. -/
theorem State.useArray_on {s : State} {n : Nat} {c : Core} (h : s.arrayOn n c) (j : Job) (go : Bool → Job → Core → Done) :
    s.useArray n j c go = .done (s.ran n (fun fawn => go fawn j c)) := by
  rw [State.useArray, State.ran]
  split
  · rfl
  next hf => rw [rampUp, if_pos (h.resolve_left hf)]

/-- Reads that lack nothing do not wait. -/
theorem State.orFetch_atHand {s : State} {n : Nat} {xs : List Access} {c : Core} (h : s.lacks n c xs = none) (j : Job)
    (go : Effect) : s.orFetch n xs j c go = go := by
  rw [State.orFetch, h]

/-! ## Retiring -/

section
variable {s : State} {n k w : Nat} {f : Job → Core → Effect} {g : Nat → Core → Done → State → State} (h : s.atInsn n k w)
include h

/-- A core at an instruction that retires, whose accesses go on. -/
theorem State.retireThen_goesOn {d : Done} (e : f (s.job k) (s.coreOf k n) = .done d) (hd : s.goesOn k n d) :
    s.retireThen n w f g = g k (s.coreOf k n) d (s.finishInsn k n d) := by
  obtain ⟨hread, hroom, hslot⟩ := hd
  refine State.retireThen_access h e hread ?_ hslot
  cases hw : d.accesses.any (·.write) with
  | false => rfl
  | true => rw [hroom (by simpa using hw)]; rfl

/-- A stage whose command does not fall short of spill space keeps its core (R96). -/
theorem State.withSpill_fits (e : f (s.job k) (s.coreOf k n) ≠ .stop .spill) : s.withSpill n (s.fallsShort n w f) = s := by
  obtain ⟨hmay, -, -⟩ := h
  have fits : s.fallsShort n w f = false := by
    unfold State.fallsShort
    rw [hmay]
    dsimp only
    split
    next hs => exact absurd hs e
    next => exact Bool.and_false _
  rw [fits]
  rfl

end

/-- Nothing touched goes on. -/
theorem State.goesOn_nil (s : State) (k n : Nat) {d : Done} (h : d.accesses = []) : s.goesOn k n d := by
  simp [State.goesOn, State.withheldRead, h]

/-- What the command `i` of an array does at core `n` of slot `k`, where its effect comes to `e`: it retires and meets the checks of R84
and R85, or stops for its shape (R54). -/
structure State.RunsArray (s : State) (k n : Nat) (i : Instr) (e : Effect) : Prop where
  checked : ∀ d, e = .done d → s.goesOn k n d → exec i s = .next ((s.finishInsn k n d).arrayChecks k n d)
  stops : e = .stop .shape → exec i s = .next (s.stopCore k n .shape)

/-- A command that streams nothing meets no check. -/
theorem State.RunsArray.ends {s : State} {k n : Nat} {i : Instr} {e : Effect} (h : s.RunsArray k n i e) {d : Done} (hd : e = .done d)
    (hg : s.goesOn k n d) (hf : d.fails = none) : exec i s = .next (s.finishInsn k n d) := by
  rw [h.checked d hd hg, State.arrayChecks, hf]

/-- A command that touches and streams nothing retires. -/
theorem State.RunsArray.idles {s : State} {k n : Nat} {i : Instr} {e : Effect} (h : s.RunsArray k n i e) {d : Done} (hd : e = .done d)
    (ha : d.accesses = []) (hf : d.fails = none) : exec i s = .next (s.finishInsn k n d) :=
  h.ends hd (s.goesOn_nil k n ha) hf

/-- A command that retires with the checks of the array after it. -/
theorem State.runsArray_of {s : State} {k n w : Nat} {i : Instr} {f : Job → Core → Effect} (h : s.atInsn n k w)
    (hx : f (s.job k) (s.coreOf k n) ≠ .stop .spill →
      exec i s = .next (s.retireThen n w f (fun k _ d s => s.arrayChecks k n d))) :
    s.RunsArray k n i (f (s.job k) (s.coreOf k n)) where
  checked d hd hg := by
    rw [hx (by simp [hd]), State.retireThen_goesOn h hd hg]
  stops hp := by
    rw [hx (by simp [hp]), State.retireThen_stop h hp]

/-- A command for which a stage too short of spill space first moves to a spare core (R96): one that falls short of none runs where it
is. -/
theorem State.runsArray_placed {s : State} {n k w : Nat} {i : Instr} (effect : State → Job → Core → Effect) (h : s.atInsn n k w)
    (hx : exec i s =
      let t := s.withSpill n (s.fallsShort n w (effect s))
      .next (t.retireThen n w (effect t) (fun k _ d s => s.arrayChecks k n d))) :
    s.RunsArray k n i (effect s (s.job k) (s.coreOf k n)) :=
  State.runsArray_of h fun e => by
    rw [hx, State.withSpill_fits h e]

section
variable {s : State} {k n : Nat} {f : FmtA} (hn : n < 512) (hf : fmtAOk f = true)
include hn hf

/-- A command of the array that the P6 has. -/
theorem checked_array (t : State) : checked s (coreOk n && fmtAOk f) t = .next t :=
  checked_of s _ _ (by simp [coreOk, hn, hf])

theorem runsArray_matmul (h : s.atInsn n k (wordA 0x20 f)) :
    s.RunsArray k n (.matmul n f) (effectMatmul s n f (s.job k) (s.coreOf k n)) :=
  State.runsArray_placed (effectMatmul · n f) h (checked_array hn hf _)

theorem runsArray_conv (h : s.atInsn n k (wordA 0x24 f)) :
    s.RunsArray k n (.conv n f) (effectConv s n f (s.job k) (s.coreOf k n)) :=
  State.runsArray_placed (effectConv · n f) h (checked_array hn hf _)

theorem runsArray_fconv (h : s.atInsn n k (wordA 0x25 f)) :
    s.RunsArray k n (.fconv n f) (effectFconv s n f (s.job k) (s.coreOf k n)) :=
  State.runsArray_placed (effectFconv · n f) h (checked_array hn hf _)

theorem runsArray_attn {op : Nat} {i : Instr} {qk : Bool}
    (hi : (op, i, qk) ∈ [(0x21, Instr.qk n f, true), (0x22, Instr.pv n f, false)]) (h : s.atInsn n k (wordA op f)) :
    s.RunsArray k n i (effectAttn s qk n f (s.job k) (s.coreOf k n)) := by
  simp only [List.mem_cons, Prod.mk.injEq, List.not_mem_nil, or_false] at hi
  obtain ⟨rfl, rfl, rfl⟩ | ⟨rfl, rfl, rfl⟩ := hi <;> exact State.runsArray_of h fun _ => checked_array hn hf _

theorem exec_append : exec (.append n f) s = .next (s.retire n (wordA 0x23 f) (effectAppend n f)) := checked_array hn hf _

theorem exec_scan : exec (.scan n f) s = .next (s.retire n (wordA 0x30 f) (effectScan s n f)) := checked_array hn hf _

end

/-! ## Plans that fit (R92, R95, R96, R149) -/

namespace State.planFits

variable {s : State} {n : Nat} {sec : CoreSec} {x : MatPlan} {c : Core} (h : s.planFits n sec x c)
include h

theorem tilesSuffice : ¬ (decide (sec.order = 1) && decide (sec.tiles < x.used)) = true := by
  obtain ⟨htiles, -, -⟩ := h
  simpa using htiles

theorem prepMatches : ¬ ((sec.gateBlk x.o.gate).prep &&
    decide (x.outs ≠ (sec.gateBlk x.o.gate).prepC + 2 * (sec.gateBlk x.o.gate).prepN)) = true := by
  obtain ⟨-, hprep, -⟩ := h
  simpa using hprep

theorem spillSuffices : ¬ decide ((sec.spillSlots c.insn).length < x.used - s.banksOf n) = true := by
  obtain ⟨-, -, hspill⟩ := h
  simpa using hspill

end State.planFits

/-! ## MATMUL (R54, R93, R95, R96, R205) -/

section
variable {s : State} {n : Nat} {f : FmtA} {j : Job} {c : Core}

theorem effectMatmul_ready {m : Nat} (h : matmulReady s n f j c m) : effectMatmul s n f j c = .done (matmulDone s n f j c m) := by
  obtain ⟨⟨hv, hrows, hvec, hout⟩, hm, hfits, hat, hon⟩ := h
  unfold effectMatmul
  dsimp only
  rw [hv]
  refine (if_neg (by simp [hrows, hvec, hout])).trans <| (if_neg hm).trans <| (if_neg hfits.tilesSuffice).trans <|
    (if_neg hfits.prepMatches).trans <| (if_neg hfits.spillSuffices).trans ?_
  exact (State.orFetch_atHand hat j _).trans (State.useArray_on hon j _)

theorem effectMatmul_noVectors (h : matmulShape n f j c 0) : effectMatmul s n f j c =
    .done { job := { j with run := j.run.countCore n 0x48 1 }, core := c, status := 1 } := by
  obtain ⟨hv, hrows, hvec, hout⟩ := h
  unfold effectMatmul
  dsimp only
  rw [hv]
  exact (if_neg (by simp [hrows, hvec, hout])).trans (if_pos rfl)

theorem effectMatmul_overPlan (hr : ((j.image.sec n).opBlk f.operand).vreg ≠ 0)
    (ho : ((j.image.sec n).opBlk f.operand).plan < (c.reg ((j.image.sec n).opBlk f.operand).vreg).toNat) :
    effectMatmul s n f j c = .stop .shape := by
  have above : ((j.image.sec n).opBlk f.operand).vectors c = none := by rw [OpBlk.vectors, if_neg hr, if_pos ho]
  unfold effectMatmul
  dsimp only
  rw [above]

end

/-! ## QK and PV (R180 to R185, R191) -/

/-- The attention command that an instruction's control block names. -/
def attnOf (n : Nat) (f : FmtA) (j : Job) (c : Core) : AttnCmd := j.attnCmd c ((j.image.sec n).attnBlk f.ctrl)

/-- The span of a QK or PV, from its register (R180). -/
def spanOf (f : FmtA) (c : Core) : Nat := (c.reg f.span).toNat

/-- What a QK or PV of a span that no vector sees leaves: nothing has streamed (R181, R185). -/
def unseenDone (qk : Bool) (n : Nat) (f : FmtA) (j : Job) (c : Core) : Done :=
  let sec := j.image.sec n
  let x := attnOf n f j c
  let p := precOf f.prec.toNat (j.forcedPrec c)
  x.run qk false n (spanOf f c) p (x.gateUse qk n sec (sec.opBlk f.operand) p) j (x.tabled c)

/-- Writing the row table leaves the array as it is. -/
theorem State.arrayOn_tabled {s : State} {n : Nat} {x : AttnCmd} {c : Core} (h : s.arrayOn n c) : s.arrayOn n (x.tabled c) := h

section
variable {s : State} {qk : Bool} {n : Nat} {f : FmtA} {j : Job} {c : Core}

theorem effectAttn_overPlan (h : (attnOf n f j c).overPlan j c = true) : effectAttn s qk n f j c = .stop .shape := if_pos h

theorem effectAttn_ready (h : attnReady s qk n f j c) : effectAttn s qk n f j c = .done (attnDone s qk n f j c) := by
  obtain ⟨hplan, hvec, hvis, hsees, hat, hon⟩ := h
  refine (if_neg (ne_true_of_eq_false hplan)).trans <| (if_neg (by simpa using hvec)).trans <|
    (if_neg (ne_true_of_eq_false hvis)).trans <| (if_neg (by simpa using hsees)).trans ?_
  exact (State.orFetch_atHand hat j _).trans (State.useArray_on (State.arrayOn_tabled hon) j _)

variable (h : (attnOf n f j c).overPlan j c = false)
include h

theorem effectAttn_noVectors (hv : (attnOf n f j c).vectors = []) : effectAttn s qk n f j c =
    .done { job := { j with run := j.run.countCore n 0x48 1 }, core := (attnOf n f j c).tabled c, status := 1 } :=
  (if_neg (ne_true_of_eq_false h)).trans (if_pos (List.isEmpty_iff.mpr hv))

variable (hv : (attnOf n f j c).vectors ≠ [])
include hv

theorem effectAttn_badVisitor (hb : (attnOf n f j c).badVisitor (spanOf f c) = true) : effectAttn s qk n f j c =
    .done { job := j, core := (attnOf n f j c).tabled c, status := 0x0303 } :=
  (if_neg (ne_true_of_eq_false h)).trans <| (if_neg (mt List.isEmpty_iff.mp hv)).trans (if_pos hb)

theorem effectAttn_unseen (hb : (attnOf n f j c).badVisitor (spanOf f c) = false)
    (hs : (attnOf n f j c).vectors.filter (fun q => (attnOf n f j c).sees q (spanOf f c)) = []) :
    effectAttn s qk n f j c = .done (unseenDone qk n f j c) :=
  (if_neg (ne_true_of_eq_false h)).trans <| (if_neg (mt List.isEmpty_iff.mp hv)).trans <|
    (if_neg (ne_true_of_eq_false hb)).trans (if_pos (List.isEmpty_iff.mpr hs))

end

/-! ## APPEND (R179) -/

section
variable {n : Nat} {f : FmtA} {j : Job} {c : Core}

theorem effectAppend_overPlan (h : (attnOf n f j c).overPlan j c = true) : effectAppend n f j c = .stop .shape := if_pos h

variable (h : (attnOf n f j c).overPlan j c = false)
include h

theorem effectAppend_noTokens (ht : (attnOf n f j c).queryTokens = 0) : effectAppend n f j c =
    .done { job := j, core := (attnOf n f j c).tabled c, status := 1 } :=
  (if_neg (ne_true_of_eq_false h)).trans (if_pos ht)

theorem effectAppend_stores (ht : (attnOf n f j c).queryTokens ≠ 0) : effectAppend n f j c =
    .done ((attnOf n f j c).append j ((attnOf n f j c).tabled c)) :=
  (if_neg (ne_true_of_eq_false h)).trans (if_neg ht)

end

/-! ## CONV and FCONV (R243 to R251, R255, R256) -/

section
variable {s : State} {n : Nat} {f : FmtA} {j : Job} {c : Core}

theorem effectConv_overPlan (h : (convWin n f j c).geo.tall j.image (j.rowCount c) = true ∨
    ((j.image.sec n).opBlk f.operand).plan < (convWin n f j c).geo.pixels ∨ 4096 < (convWin n f j c).geo.ow) :
    effectConv s n f j c = .stop .shape := by
  have beyond : ((convWin n f j c).geo.tall j.image (j.rowCount c) ||
      decide (((j.image.sec n).opBlk f.operand).plan < (convWin n f j c).geo.pixels) ||
      decide (4096 < (convWin n f j c).geo.ow)) = true := by
    simpa [or_assoc] using h
  exact if_pos beyond

variable (ht : (convWin n f j c).geo.tall j.image (j.rowCount c) = false) (hw : (convWin n f j c).geo.ow ≤ 4096)
include ht hw

theorem conv_withinLimits (hp : (convWin n f j c).geo.pixels ≤ ((j.image.sec n).opBlk f.operand).plan) :
    ¬ ((convWin n f j c).geo.tall j.image (j.rowCount c) ||
      decide (((j.image.sec n).opBlk f.operand).plan < (convWin n f j c).geo.pixels) ||
      decide (4096 < (convWin n f j c).geo.ow)) = true := by
  simp [ht, hp, hw]

theorem effectConv_noOutput (hm : (convWin n f j c).geo.pixels = 0) : effectConv s n f j c = emptyConv n true j c :=
  (if_neg (conv_withinLimits ht hw (hm ▸ Nat.zero_le _))).trans (if_pos hm)

omit ht hw

theorem effectConv_ready (h : convReady s n f j c) : effectConv s n f j c = .done (convDone s n f j c) := by
  obtain ⟨htall, hplan, how, hm, hfits, hwin, hat, hon⟩ := h
  refine (if_neg (conv_withinLimits htall how hplan)).trans <| (if_neg hm).trans <| (if_neg hfits.tilesSuffice).trans <|
    (if_neg hfits.spillSuffices).trans ?_
  split
  next a hbad => exact absurd (hwin.symm.trans hbad) (Option.some_ne_none a).symm
  next =>
    refine (if_neg hfits.prepMatches).trans ?_
    exact (State.orFetch_atHand hat j _).trans (State.useArray_on hon j _)

theorem effectFconv_overPlan (h : (fconvOf n f j c).g.tall j.image (j.rowCount c) = true) :
    effectFconv s n f j c = .stop .shape := if_pos h

theorem effectFconv_noOutput (ht : (fconvOf n f j c).g.tall j.image (j.rowCount c) = false)
    (h : (fconvOf n f j c).g.hollow = true ∨ (fconvOf n f j c).tiles = []) : effectFconv s n f j c = emptyConv n true j c := by
  have noOutput : ((fconvOf n f j c).g.hollow || (fconvOf n f j c).tiles.isEmpty) = true := by simpa using h
  exact (if_neg (ne_true_of_eq_false ht)).trans (if_pos noOutput)

theorem effectFconv_ready (h : fconvReady s n f j c) : effectFconv s n f j c = .done (fconvDone s n f j c) := by
  obtain ⟨htall, hhol, htiles, hspill, hwin, hat, hon⟩ := h
  have hasTiles : ((fconvOf n f j c).g.hollow || (fconvOf n f j c).tiles.isEmpty) = false := by
    simpa [hhol] using htiles
  refine (if_neg (ne_true_of_eq_false htall)).trans <| (if_neg (ne_true_of_eq_false hasTiles)).trans <|
    (if_neg (mt of_decide_eq_true (Nat.not_lt.mpr hspill))).trans ?_
  split
  next a hbad => exact absurd (hwin.symm.trans hbad) (Option.some_ne_none a).symm
  next => exact (State.orFetch_atHand hat j _).trans (State.useArray_on hon j _)

end

/-! ## SCAN (R54, R151) -/

section
variable {s : State} {n : Nat} {f : FmtA} {j : Job} {c : Core}

theorem effectScan_overPlan (h : (scanOf n f j).overPlan j.image (j.batchRows c) = true) :
    effectScan s n f j c = .stop .shape := if_pos h

theorem effectScan_noRows (h : (scanOf n f j).overPlan j.image (j.batchRows c) = false)
    (hr : scanRows 0 (j.batchRows c) = []) : effectScan s n f j c = .done { job := j, core := c, status := 1 } :=
  (if_neg (ne_true_of_eq_false h)).trans (if_pos (List.isEmpty_iff.mpr hr))

theorem effectScan_ready (h : scanReady s n f j c) :
    effectScan s n f j c = .done ((scanOf n f j).run n (scanRows 0 (j.batchRows c)) j c) := by
  obtain ⟨hplan, hrows, hat⟩ := h
  refine (if_neg (ne_true_of_eq_false hplan)).trans <| (if_neg (mt List.isEmpty_iff.mp hrows)).trans ?_
  exact State.orFetch_atHand hat j _

end

/-! ## POOL (R252, R256) -/

section
variable {n : Nat} {f : FmtV} {j : Job} {c : Core}

theorem effectPool_badBlock (h : j.poolBlockOk n f.type c (c.reg f.src3).toNat = false) :
    effectPool n f j c = .stop (.lane 0 (c.reg f.src3).toNat) := if_pos (by rw [h]; rfl)

theorem effectPool_overPlan (hb : j.poolBlockOk n f.type c (c.reg f.src3).toNat = true)
    (h : (poolOf n f j c).geo.tall j.image (j.rowCount c) = true ∨ 4096 < (poolOf n f j c).geo.ow) :
    effectPool n f j c = .stop .shape := by
  have beyond : ((poolOf n f j c).geo.tall j.image (j.rowCount c) || decide (4096 < (poolOf n f j c).geo.ow)) = true := by
    simpa using h
  exact (if_neg (by simp [hb])).trans (if_pos beyond)

variable (ht : (poolOf n f j c).geo.tall j.image (j.rowCount c) = false) (hw : (poolOf n f j c).geo.ow ≤ 4096)
include ht hw

theorem pool_withinLimits :
    ¬ ((poolOf n f j c).geo.tall j.image (j.rowCount c) || decide (4096 < (poolOf n f j c).geo.ow)) = true := by
  simp [ht, hw]

theorem effectPool_noOutput (hb : j.poolBlockOk n f.type c (c.reg f.src3).toNat = true)
    (h : (poolOf n f j c).geo.hollow = true ∨ (poolOf n f j c).geo.oh ≤ (poolOf n f j c).geo.y0) :
    effectPool n f j c = emptyConv n false j c := by
  have noOutput : ((poolOf n f j c).geo.hollow || decide ((poolOf n f j c).geo.oh ≤ (poolOf n f j c).geo.y0)) = true := by
    simpa using h
  exact (if_neg (by simp [hb])).trans <| (if_neg (pool_withinLimits ht hw)).trans (if_pos noOutput)

omit ht hw

theorem effectPool_ready (h : poolReady n f j c) :
    effectPool n f j c = .done (poolRun f n (c.reg f.dst).toNat (poolOf n f j c) j c) := by
  obtain ⟨hb, ht, hw, hhol, hout, hbad⟩ := h
  have hasOutput : ¬ ((poolOf n f j c).geo.hollow || decide ((poolOf n f j c).geo.oh ≤ (poolOf n f j c).geo.y0)) = true := by
    simp [hhol, hout]
  refine (if_neg (by simp [hb])).trans <| (if_neg (pool_withinLimits ht hw)).trans <| (if_neg hasOutput).trans ?_
  split
  next a ha => exact absurd (hbad.symm.trans ha) (Option.some_ne_none a).symm
  next => rfl

end

end Sys2Proof.Machine
end

section
/-! O22: array, attention, scan, convolution and pooling commands retire with their effect, complete with nothing to do, or stop for their
shape (R54, R93, R96, R205, R244, R252, R255). -/

namespace Sys2Proof.Machine

theorem exec_pool {s : State} {n : Nat} {f : FmtV} (hn : n < 512) (hf : fmtVOk f = true) : exec (.pool n f) s =
    .next (s.retireThen n (wordV 0x82 f) (effectPool n f) (fun _ _ _ s => s.vecEnd n 0x82)) :=
  checked_of s _ _ (by simp [coreOk, hn, hf])

/-- Settles O22: under the conditions of each clause the command's effect is one branch of its definition, and what the effect comes to is
what the command does. -/
theorem arrayCommandsRetire : Obligations.ArrayCommandsRetire := by
  unfold Obligations.ArrayCommandsRetire
  intro n k s hn c j sec ends checked emptyRun empty shapeError
  refine ⟨fun f hf => ?_, fun f hf hat => ?_⟩
  · intro o x rs
    refine ⟨fun m hat h hd => (runsArray_matmul hn hf hat).checked _ (effectMatmul_ready h) hd,
      fun hat h => (runsArray_matmul hn hf hat).idles (effectMatmul_noVectors h) rfl rfl,
      fun hat hr ho => (runsArray_matmul hn hf hat).stops (effectMatmul_overPlan hr ho), fun op i qk hi hat => ?_, fun hat => ?_,
      fun hat => ?_, fun hat => ?_, fun hat => ?_⟩
    · have runs := runsArray_attn hn hf hi hat
      exact ⟨fun h hd => runs.checked _ (effectAttn_ready h) hd, fun h => runs.stops (effectAttn_overPlan h),
        fun h hv => runs.idles (effectAttn_noVectors h hv) rfl rfl,
        fun h hv hb => runs.idles (effectAttn_badVisitor h hv hb) rfl rfl,
        fun h hv hb hs hd => runs.ends (effectAttn_unseen h hv hb hs) hd rfl⟩
    · rw [exec_append hn hf]
      exact ⟨fun h => congrArg _ (State.retireThen_stop hat (effectAppend_overPlan h)),
        fun h ht hd => congrArg _ (State.retireThen_goesOn hat (effectAppend_stores h ht) hd),
        fun h ht => congrArg _ (State.retireThen_done hat (effectAppend_noTokens h ht) rfl)⟩
    · have runs := runsArray_conv hn hf hat
      exact ⟨fun h hd => runs.checked _ (effectConv_ready h) hd, fun h => runs.stops (effectConv_overPlan h),
        fun ht hw hm => runs.idles (effectConv_noOutput ht hw hm) rfl rfl⟩
    · have runs := runsArray_fconv hn hf hat
      exact ⟨fun h hd => runs.checked _ (effectFconv_ready h) hd, fun h => runs.stops (effectFconv_overPlan h),
        fun ht h => runs.idles (effectFconv_noOutput ht h) rfl rfl⟩
    · rw [exec_scan hn hf]
      exact ⟨fun h hd => congrArg _ (State.retireThen_goesOn hat (effectScan_ready h) hd),
        fun h => congrArg _ (State.retireThen_stop hat (effectScan_overPlan h)),
        fun h hr => congrArg _ (State.retireThen_done hat (effectScan_noRows h hr) rfl)⟩
  · rw [exec_pool hn hf]
    refine ⟨fun h => congrArg _ (State.retireThen_done hat (effectPool_ready h) rfl), fun hb => ⟨fun h => ?_, fun ht hw h => ?_⟩,
      fun h => congrArg _ (State.retireThen_stop hat (effectPool_badBlock h))⟩
    · exact congrArg _ (State.retireThen_stop hat (effectPool_overPlan hb h))
    · exact congrArg _ (State.retireThen_done hat (effectPool_noOutput ht hw hb h) rfl)

end Sys2Proof.Machine
end

section
/-! SUPPORT. What a MATMUL counts and where its partial sums lie: beats and blocks are no data of the run (R97), and the tiles of its plan
lie in banks while they are no more than these (R92, R94, R95). -/

namespace Sys2Proof.Machine

/-! ## Counters (R97) -/

@[simp] theorem JobRun.countCore_data (r : JobRun) (n off k : Nat) : (r.countCore n off k).data = r.data := rfl

@[simp] theorem GateAcc.count_data (a : GateAcc) (r : JobRun) (n : Nat) : (a.count r n).data = r.data := by
  simp only [GateAcc.count, JobRun.countCore_data]

@[simp] theorem JobRun.countBeats_data (r : JobRun) (fawn : Bool) (n : Nat) (xs : List (Nat × Nat)) :
    (r.countBeats fawn n xs).data = r.data := by
  unfold JobRun.countBeats
  split
  · rfl
  · exact foldl_keeps JobRun.data (fun (r : JobRun) (x : Nat × Nat) => r.countCore n x.1 x.2) (fun _ _ => rfl) xs r

@[simp] theorem MatPlan.count_data (x : MatPlan) (n banks rate : Nat) (fawn : Bool) (vs : List Staged) (r : JobRun) :
    (x.count n banks rate fawn vs r).data = r.data := JobRun.countBeats_data _ _ _ _

/-- What a MATMUL leaves of the run is its data as it was. -/
theorem MatPlan.run_data (x : MatPlan) (n banks : Nat) (fawn : Bool) (sec : CoreSec) (u : GateUse) (reads : List Access)
    (vs : List Staged) (j : Job) (c : Core) : (x.run n banks fawn sec u reads vs j c).job.run.data = j.run.data :=
  (GateAcc.count_data _ _ _).trans (x.count_data _ _ _ _ _ _)

/-! ## Accumulator tiles (R92, R94, R95) -/

/-- A core less its accumulators and its scratchpad. -/
def Core.control (c : Core) : Core := { c with acc := [], scratch := [] }

@[simp] theorem putPartial_control (banks : Nat) (slots : List Nat) (t v j y : Nat) (c : Core) :
    (putPartial banks slots t v j y c).control = c.control := by
  unfold putPartial
  dsimp only
  split <;> rfl

/-- A tile that lies in a bank is no part of the scratchpad. -/
theorem putPartial_scratch {banks t : Nat} (h : t < banks) (slots : List Nat) (v j y : Nat) (c : Core) :
    (putPartial banks slots t v j y c).scratch = c.scratch := by
  rw [putPartial, tilePlace, if_pos h]

/-- The core once the partial sums of each vector are in the tiles of their columns. -/
def MatPlan.stored (x : MatPlan) (banks : Nat) (slots : List Nat) (ys : List (List Nat)) (c : Core) : Core :=
  ys.zipIdx.foldl (fun c y => y.1.zipIdx.foldl (fun c z => putPartial banks slots (x.accOf y.2 z.2) y.2 z.2 z.1 c) c) c

theorem MatPlan.stored_control (x : MatPlan) (banks : Nat) (slots : List Nat) (ys : List (List Nat)) (c : Core) :
    (x.stored banks slots ys c).control = c.control :=
  foldl_keeps Core.control _ (fun c _ => foldl_keeps Core.control _ (fun c _ => putPartial_control _ _ _ _ _ _ c) _ c) _ c

/-- Where the tiles of every vector lie in banks, storing the sums leaves the scratchpad. -/
theorem MatPlan.stored_scratch {x : MatPlan} {banks : Nat} {ys : List (List Nat)}
    (h : ∀ v < ys.length, ∀ j, x.accOf v j < banks) (slots : List Nat) (c : Core) :
    (x.stored banks slots ys c).scratch = c.scratch := by
  refine List.foldlRecOn (motive := fun d : Core => d.scratch = c.scratch) _ _ rfl fun d hd y hy => ?_
  have hv : y.2 < ys.length := List.snd_lt_of_mem_zipIdx hy
  exact (foldl_keeps Core.scratch (fun d (z : Nat × Nat) => putPartial banks slots (x.accOf y.2 z.2) y.2 z.2 z.1 d)
    (fun d z => putPartial_scratch (h y.2 hv z.2) slots y.2 z.2 z.1 d) _ d).trans hd

/-- Column `j` of `a` tiles of 256 columns lies in one of them. -/
theorem mod_tiles_lt {a : Nat} (ha : 0 < a) (j : Nat) : j % (256 * a) / 256 < a :=
  Nat.div_lt_of_lt_mul (Nat.mod_lt _ (by omega))

theorem perCell_pos (f : Nat) : 0 < perCell f := by
  unfold perCell
  split_ifs <;> decide

/-- The 256-vector groups of a band's vectors are those of the band, or of its `m` vectors where they are fewer (R92). -/
theorem band_group_lt {band m v : Nat} (hb : 0 < band) (hv : v < m) : v % band / 256 < cdiv (min band m) 256 := by
  have hm : v % band < min band m := lt_min (Nat.mod_lt _ hb) ((Nat.mod_le _ _).trans_lt hv)
  unfold cdiv
  omega

theorem matPlan_tiles_pos (i : Image) (sec : CoreSec) (o : OpBlk) (p : Prec) (m : Nat) : 0 < (matPlan i sec o p m).tiles := by
  change 0 < if p.diag then 1 else perCell p.wgt
  split
  · exact Nat.one_pos
  · exact perCell_pos _

theorem matPlan_cols (i : Image) (sec : CoreSec) (o : OpBlk) (p : Prec) (m : Nat) :
    (matPlan i sec o p m).cols = 256 * (matPlan i sec o p m).tiles := by
  change (if p.diag then 256 else 256 * perCell p.wgt) = 256 * if p.diag then 1 else perCell p.wgt
  split <;> rfl

theorem matPlan_band_pos (i : Image) (sec : CoreSec) (o : OpBlk) (p : Prec) (m : Nat) : 0 < (matPlan i sec o p m).band := by
  simp only [matPlan]
  split
  · decide
  · exact lt_max_of_lt_right Nat.one_pos
  · exact lt_max_of_lt_left (by decide)

/-- The tiles of a vector's columns are among those that the plan uses (R92). -/
theorem matPlan_accOf_lt_used (i : Image) (sec : CoreSec) (o : OpBlk) (p : Prec) {m v : Nat} (hv : v < m) (j : Nat) :
    (matPlan i sec o p m).accOf v j < (matPlan i sec o p m).used := by
  have hband := matPlan_band_pos i sec o p m
  have hcol := mod_tiles_lt (matPlan_tiles_pos i sec o p m) j
  have horder : sec.order = 0 → (matPlan i sec o p m).band = 256 := fun h => by simp [matPlan, h]
  have hused : (matPlan i sec o p m).used = if sec.order = 0 then (matPlan i sec o p m).tiles
    else (matPlan i sec o p m).tiles * cdiv (min (matPlan i sec o p m).band m) 256 := rfl
  rw [MatPlan.accOf, hused, matPlan_cols]
  generalize (matPlan i sec o p m).tiles = a at hcol ⊢
  generalize (matPlan i sec o p m).band = band at hband horder ⊢
  split
  next h =>
    have hgroup : v % 256 / 256 = 0 := Nat.div_eq_of_lt (Nat.mod_lt _ (by decide))
    simpa [horder h, hgroup] using hcol
  next =>
    calc j % (256 * a) / 256 + a * (v % band / 256)
        < a + a * (v % band / 256) := Nat.add_lt_add_right hcol _
      _ = a * (v % band / 256 + 1) := by ring
      _ ≤ a * cdiv (min band m) 256 := Nat.mul_le_mul_left _ (band_group_lt hband hv)

end Sys2Proof.Machine
end

section
/-! O23: the effect of a MATMUL (R82, R90, R205). -/

namespace Sys2Proof.Machine

theorem stage_length (mem : NMap Byte) (p : Prec) (a k m : Nat) : (stage mem p a k m).length = m := by
  simp [stage]

/-- Settles O23: a command that may run at once ends in the one branch that its conditions leave; what it counts is no data of the run, its
partial sums are no control state of the core, and tiles that lie in banks are no part of the scratchpad. -/
theorem matmulEffect : Obligations.MatmulEffect := by
  unfold Obligations.MatmulEffect
  refine ⟨fun s n f j c m h => effectMatmul_ready h, fun s n f j c m => ?_, fun x mem v o hd => ?_⟩
  · intro d x sec u ys
    have hdata : d.job.run.data = j.run.data := x.run_data _ _ _ sec u (x.allReads u j c) _ _ c
    have hcore : (x.stored (s.banksOf n) (sec.spillSlots c.insn) ys c).control = c.control := x.stored_control _ _ _ _
    have hys : ys.length = m := (List.length_map _).trans (stage_length _ _ _ _ _)
    refine ⟨(congrArg Core.sregs hcore :), (congrArg Core.insn hcore :), (congrArg Core.batch hcore :),
      (congrArg JobRun.mem hdata :), (congrArg JobRun.streams hdata :), fun hfit => ?_⟩
    have hscratch : (x.stored (s.banksOf n) (sec.spillSlots c.insn) ys c).scratch = c.scratch :=
      MatPlan.stored_scratch (fun v hv q => (matPlan_accOf_lt_used _ _ _ _ (hys ▸ hv) q).trans_le hfit) _ _
    rw [← hscratch]
    rfl
  · rw [MatPlan.output, if_neg (by simp [hd])]

end Sys2Proof.Machine
end

section
/-! O24: the soft start of the arrays of a cluster (R86, R87, R102). -/

namespace Sys2Proof.Machine

/-! ## Bringing an array into use (R86, R87, R91) -/

section
variable {n : Nat} {j : Job} {c : Core} {go : Job → Core → Done}

theorem rampUp_inUse (h : c.groupsOn = 8) : rampUp n j c go = .done (go j c) := if_pos h

theorem rampUp_waits (h : c.groupsOn ≠ 8) (hr : 4 ≤ j.run.ramping n) : rampUp n j c go = .wait .ramp j :=
  (if_neg h).trans (if_pos hr)

theorem rampUp_ramps (h : c.groupsOn ≠ 8) (hr : j.run.ramping n < 4) : rampUp n j c go =
    .done { go { j with run := j.run.countCore n 0x10 1 } { c with groupsOn := 8 } with ramp := true } :=
  (if_neg h).trans (if_neg (Nat.not_le.mpr hr))

end

section
variable {s : State} {n : Nat} (j : Job) (c : Core) (run : Bool → Job → Core → Done)

theorem State.useArray_fawn (h : s.onFawn n = true) : s.useArray n j c run = .done (s.ran n (fun fawn => run fawn j c)) :=
  State.useArray_on (.inl h) j run

theorem State.useArray_array (h : s.onFawn n = false) :
    s.useArray n j c run = rampUp n j c (fun j c => s.ran n (fun fawn => run fawn j c)) :=
  if_neg (ne_true_of_eq_false h)

end

/-! ## The end of a ramp (R87, R102) -/

/-- The run once a core that ramped, if any, has ended its ramp. -/
def JobRun.rampEnded (r : JobRun) : Option (Nat × Core) → JobRun
  | some e => r.setCore e.1 { e.2 with ramping := false }
  | none => r

/-- The job once core `n` has begun its ramp after a wait of `beats`. -/
def Job.rampBegun (j : Job) (r : JobRun) (n beats : Nat) : Job :=
  let r := r.setCore n { r.core n with wait := .run, groupsOn := 8, ramping := true }
  { j with run := (r.countCore n 0x10 1).countCore n 0x18 beats }

theorem Job.rampBegun_core (j : Job) (r : JobRun) (n beats : Nat) :
    (j.rampBegun r n beats).run.core n = { r.core n with wait := .run, groupsOn := 8, ramping := true } :=
  JobRun.setCore_core _ _ _

/-- The first core of `n`'s cluster that ramps. -/
def JobRun.firstRamping (r : JobRun) (n : Nat) : Option (Nat × Core) :=
  (r.cores.filter (fun e => e.1 / 16 == n / 16)).find? (fun e => e.2.ramping)

/-- The lowest waiting core of its cluster begins its ramp as another ends (R87, R102). -/
theorem State.rampWaitEnd_lowest {s : State} {k n : Nat} (hw : (s.coreOf k n).wait = .ramp)
    (hl : ∀ e ∈ (s.job k).run.cores, e.1 / 16 = n / 16 → e.2.wait = .ramp → n ≤ e.1) :
    s.rampWaitEnd k n = s.fresh.2.setJob k
      ((s.job k).rampBegun ((s.job k).run.rampEnded ((s.job k).run.firstRamping n)) n (s.fresh.1 % 145)) := by
  have first : ((s.job k).run.cores.filter (fun e => e.1 / 16 == n / 16)).all
      (fun e => e.2.wait != .ramp || decide (n ≤ e.1)) = true := by
    simp only [List.all_eq_true, List.mem_filter, beq_iff_eq, Bool.or_eq_true, bne_iff_ne, decide_eq_true_eq, and_imp]
    intro e he hc
    exact or_iff_not_imp_left.mpr fun hr => hl e he hc (not_not.mp hr)
  have goes : ((s.coreOf k n).wait == .ramp &&
      ((s.job k).run.cores.filter (fun e => e.1 / 16 == n / 16)).all (fun e => e.2.wait != .ramp || decide (n ≤ e.1))) = true := by
    rw [hw, first]
    rfl
  refine (if_pos goes).trans ?_
  unfold JobRun.firstRamping
  cases ((s.job k).run.cores.filter (fun e => e.1 / 16 == n / 16)).find? (fun e => e.2.ramping) <;> rfl

/-! ## The commands -/

theorem exec_arrayRampWaitEnd {s : State} {n k : Nat} (hn : n < 512) (h : s.working n = some k) :
    exec (.arrayRampWaitEnd n) s = .next (s.rampWaitEnd k n) := by
  refine (checked_of s _ _ (decide_eq_true hn)).trans ?_
  rw [h]

theorem exec_arrayIdleRampDown {s : State} {n k : Nat} (hn : n < 512) (h : s.sched.running = some k) :
    exec (.arrayIdleRampDown n) s = .next (s.setCore k n { s.coreOf k n with groupsOn := 0, ramping := false }) := by
  refine (checked_of s _ _ (decide_eq_true hn)).trans ?_
  rw [h]
  rfl

/-- Settles O24: each clause is one branch of bringing an array into use, or what the end of a ramp, or of its use, does. -/
theorem arrayRamps : Obligations.ArrayRamps := by
  unfold Obligations.ArrayRamps
  intro n k s j c go run hn
  refine ⟨rampUp_inUse, State.useArray_fawn j c run, State.useArray_array j c run, rampUp_waits,
    fun h hr => ⟨_, rampUp_ramps h hr, rfl, rfl⟩, fun hk hw hlen hl => ?_, exec_arrayIdleRampDown hn⟩
  rw [exec_arrayRampWaitEnd hn hk, State.rampWaitEnd_lowest hw hl]
  refine ⟨⟨_, rfl, ?_⟩, fun e he => ?_⟩
  · rw [State.coreOf, State.setJob_job s.fresh.2 k _ hlen, Job.rampBegun_core]
    exact ⟨rfl, rfl, rfl⟩
  · rw [JobRun.firstRamping, he]
    rfl

end Sys2Proof.Machine
end

section
/-! SUPPORT. What reports of health leave alone: all but free values, island clocks, ring sets, and health's own counters, log and forecast
(R493 to R496). -/

namespace Sys2Proof.Machine

/-! ## Delivering events (R416) -/

/-- A state less free values, island clocks and ports: what the delivery of an event leaves. -/
def State.offPorts (s : State) : State := { s with freeCtr := 0, islands := [], portA := {}, portB := {} }

@[simp] theorem State.setPort_offPorts (s : State) (p : Port) (h : HostPort) : (s.setPort p h).offPorts = s.offPorts := by
  cases p <;> rfl

@[simp] theorem State.setRing_offPorts (s : State) (p : Port) (n : Nat) (r : RingSet) :
    (s.setRing p n r).offPorts = s.offPorts := State.setPort_offPorts _ _ _

@[simp] theorem State.look_offPorts (s : State) (island : Nat) : (s.look island).2.offPorts = s.offPorts := rfl

@[simp] theorem State.flushEvents_offPorts (s : State) (p : Port) (set : Nat) (held : List Event) :
    (s.flushEvents p set held).offPorts = s.offPorts := by
  induction held generalizing s with
  | nil => exact State.setRing_offPorts _ _ _ _
  | cons e rest ih =>
    unfold State.flushEvents
    dsimp only
    split
    · rw [ih, State.setPort_offPorts, State.look_offPorts]
    · exact State.setRing_offPorts _ _ _ _

@[simp] theorem State.deliverEvent_offPorts (s : State) (p : Port) (set : Nat) (e : Event) :
    (s.deliverEvent p set e).offPorts = s.offPorts := by
  unfold State.deliverEvent
  dsimp only
  split <;> simp

@[simp] theorem State.eventTo_offPorts (s : State) (p : Port) (e : Event) (sets : List Nat) :
    (s.eventTo p e sets).offPorts = s.offPorts := by
  induction sets generalizing s with
  | nil => rfl
  | cons n rest ih =>
    unfold State.eventTo
    dsimp only
    split
    · rw [ih, State.deliverEvent_offPorts]
    · exact ih s

@[simp] theorem State.deviceEvent_offPorts (s : State) (e : Event) : (s.deviceEvent e).offPorts = s.offPorts := by
  simp [State.deviceEvent]

@[simp] theorem State.jobEvent_offPorts (s : State) (k : Nat) (e : Event) : (s.jobEvent k e).offPorts = s.offPorts :=
  State.deliverEvent_offPorts _ _ _ _

/-- A health event of no job is logged, and otherwise only delivered (R493). -/
theorem State.healthEvent_device (s : State) (e : Event) : (s.healthEvent none e).offPorts = (s.logEvent e).offPorts :=
  State.deviceEvent_offPorts _ _

/-! ## Health events (R493 to R496) -/

/-- Health less its counters, its log, its forecast and the times of the spares drawn. -/
def Health.unreported (h : Health) : Health := { h with ctr := [], forecast := 0, log := [], logCount := 0, drawn := [] }

/-- A state less what reports of health change. -/
def State.unreported (s : State) : State := { s.offPorts with health := s.health.unreported }

theorem State.unreported_of_offPorts {s t : State} (h : t.offPorts = s.offPorts) : t.unreported = s.unreported :=
  (congrArg (fun u : State => { u with health := u.health.unreported }) h :)

@[simp] theorem State.fresh_unreported (s : State) : s.fresh.2.unreported = s.unreported := rfl
@[simp] theorem State.look_unreported (s : State) (island : Nat) : (s.look island).2.unreported = s.unreported := rfl
@[simp] theorem State.healthCount_unreported (s : State) (off n : Nat) : (s.healthCount off n).unreported = s.unreported := rfl
@[simp] theorem State.forecast_unreported (s : State) (v : W64) :
    ({ s with health := { s.health with forecast := v } } : State).unreported = s.unreported := rfl
@[simp] theorem State.logEvent_unreported (s : State) (e : Event) : (s.logEvent e).unreported = s.unreported := rfl

@[simp] theorem State.healthEvent_unreported (s : State) (k : Option Nat) (e : Event) :
    (s.healthEvent k e).unreported = s.unreported := by
  cases k with
  | none => exact (State.unreported_of_offPorts (s.healthEvent_device e)).trans (s.logEvent_unreported e)
  | some k =>
    have delivered {u : State} (h : u.offPorts = (s.logEvent { e with job := (s.job k).info.id }).offPorts) :
        u.unreported = s.unreported :=
      (State.unreported_of_offPorts h).trans (State.logEvent_unreported _ _)
    unfold State.healthEvent
    dsimp only
    split_ifs
    · exact delivered (State.jobEvent_offPorts _ _ _)
    · exact delivered (State.deviceEvent_offPorts _ _)
    · exact delivered ((State.jobEvent_offPorts _ _ _).trans (State.deviceEvent_offPorts _ _))

@[simp] theorem State.forecastEvent_unreported (s : State) : s.forecastEvent.unreported = s.unreported := by
  unfold State.forecastEvent
  dsimp only
  rw [State.healthEvent_unreported, State.forecast_unreported, State.fresh_unreported]

@[simp] theorem State.unitEvent_unreported (s : State) (code kind action unit logical sub : Nat) :
    (s.unitEvent code kind action unit logical sub).unreported = s.unreported := by
  have drawn : (if code = 0x0F01 then
      { s with health := { s.health with drawn := s.health.drawn ++ [s.service] } } else s).unreported = s.unreported := by
    split <;> rfl
  unfold State.unitEvent
  dsimp only
  split
  · rw [State.healthEvent_unreported, drawn]
  · rw [State.forecastEvent_unreported, State.healthEvent_unreported, drawn]

@[simp] theorem State.recovered_unreported (s : State) (kind means unit us seq : Nat) :
    (s.recovered kind means unit us seq).unreported = s.unreported := State.healthEvent_unreported _ _ _

@[simp] theorem State.dataEvent_unreported (s : State) (code k u means : Nat) :
    (s.dataEvent code k u means).unreported = s.unreported := State.healthEvent_unreported _ _ _

@[simp] theorem State.rebuildEvent_unreported (s : State) (stack action : Nat) :
    (s.rebuildEvent stack action).unreported = s.unreported := State.healthEvent_unreported _ _ _

section
variable {s t : State} (h : t.unreported = s.unreported)
include h

theorem State.health_of_unreported : t.health.unreported = s.health.unreported := (congrArg State.health h :)
theorem State.jobs_of_unreported : t.jobs = s.jobs := (congrArg State.jobs h :)
theorem State.codecs_of_unreported : t.codecs = s.codecs := (congrArg State.codecs h :)
theorem State.fw_of_unreported : t.fw = s.fw := (congrArg State.fw h :)
theorem State.flash_of_unreported : t.flash = s.flash := (congrArg State.flash h :)
theorem State.clusters_of_unreported : t.health.clusters = s.health.clusters := (congrArg (fun u => u.health.clusters) h :)
theorem State.map_of_unreported : t.health.map = s.health.map := (congrArg (fun u => u.health.map) h :)
theorem State.banksOut_of_unreported : t.health.banksOut = s.health.banksOut := (congrArg (fun u => u.health.banksOut) h :)
theorem State.verifying_of_unreported : t.health.verifying = s.health.verifying := (congrArg (fun u => u.health.verifying) h :)
theorem State.replace_of_unreported : t.health.replace = s.health.replace := (congrArg (fun u => u.health.replace) h :)
theorem State.rebuilds_of_unreported : t.health.rebuilds = s.health.rebuilds := (congrArg (fun u => u.health.rebuilds) h :)
theorem State.hbm_of_unreported : t.health.hbm = s.health.hbm := (congrArg (fun u => u.health.hbm) h :)

end

/-! ## Retirements (R436, R444, R481) -/

theorem State.noteRetired_serves {s : State} (h : s.roleServes 0 = true) (u : UnitId) :
    s.noteRetired u = { s with flash := { s.flash with retired := s.flash.retired ++ [u] } } := if_pos h

theorem State.noteRetired_waits {s : State} (h : s.roleServes 0 = false) (u : UnitId) : s.noteRetired u = s.hold (.retire u) :=
  if_neg (ne_true_of_eq_false h)

@[simp] theorem State.noteRetired_health (s : State) (u : UnitId) : (s.noteRetired u).health = s.health := by
  unfold State.noteRetired
  split <;> rfl

@[simp] theorem State.noteRetired_codecs (s : State) (u : UnitId) : (s.noteRetired u).codecs = s.codecs := by
  unfold State.noteRetired
  split <;> rfl

@[simp] theorem Health.setCluster_cluster (h : Health) {p : Nat} (hp : p < h.clusters.length) (c : PhysCluster) :
    (h.setCluster p c).cluster p = c := by
  simp [Health.setCluster, Health.cluster, hp]

/-! ## Masks of units -/

theorem ones_succ (n m : Nat) : ones (n + 1) m = m % 2 + ones n (m / 2) := by
  unfold ones
  rw [List.range_succ_eq_map, List.filter_cons, List.filter_map, Nat.testBit_zero]
  have shifted : (fun i => m.testBit i) ∘ Nat.succ = fun i => (m / 2).testBit i := funext fun i => Nat.testBit_succ m i
  rw [shifted]
  rcases Nat.mod_two_eq_zero_or_one m with h | h <;> simp [h, Nat.add_comm]

/-- Setting a bit that is clear adds one. -/
theorem ones_add_two_pow {n m b : Nat} (hb : b < n) (h : m.testBit b = false) : ones n (m + 2 ^ b) = ones n m + 1 := by
  induction b generalizing n m with
  | zero =>
    obtain ⟨n, rfl⟩ := Nat.exists_eq_add_one.mpr hb
    have even : m % 2 = 0 := by simpa [Nat.testBit_zero] using h
    have up : (m + 2 ^ 0) % 2 = 1 ∧ (m + 2 ^ 0) / 2 = m / 2 := by omega
    rw [ones_succ, ones_succ, up.1, up.2, even]
    omega
  | succ b ih =>
    obtain ⟨n, rfl⟩ := Nat.exists_eq_add_one.mpr (Nat.zero_lt_of_lt hb)
    have up : (m + 2 ^ (b + 1)) % 2 = m % 2 ∧ (m + 2 ^ (b + 1)) / 2 = m / 2 + 2 ^ b := by omega
    rw [ones_succ, ones_succ, up.1, up.2, ih (by omega) ((Nat.testBit_succ m b).symm.trans h)]
    omega

end Sys2Proof.Machine
end

section
/-! SUPPORT. What each event of health does: the units that it loses, moves or makes good, less what it reports (R85, R94, R482 to R492). -/

namespace Sys2Proof.Machine

/-! ## Units lost (R94, R490) -/

/-- The state with a codec engine out of service. -/
def State.engineOut (s : State) (e : Nat) : State := { s with codecs := s.codecs.set e { inService := false } }

/-- The state once its retirement is noted, too. -/
def State.engineRetired (s : State) (e : Nat) : State := (s.engineOut e).noteRetired { kind := 9, unit := e }

/-- A codec engine in service is lost: what its command does now is a matter of its job (R327, R490). -/
theorem State.loseCodec_inService {s : State} {e : Nat} (h : (s.codecs.getD e {}).inService = true) :
    (s.loseCodec e).codecs = (s.engineRetired e).codecs ∧ (s.loseCodec e).flash = (s.engineRetired e).flash ∧
      (s.loseCodec e).fw = (s.engineRetired e).fw := by
  unfold State.loseCodec
  dsimp only
  rw [if_neg (by rw [h]; decide)]
  have told := State.unitEvent_unreported
  rw [State.codecs_of_unreported (told _ _ _ _ _ _ _), State.flash_of_unreported (told _ _ _ _ _ _ _),
    State.fw_of_unreported (told _ _ _ _ _ _ _)]
  split <;> exact ⟨rfl, rfl, rfl⟩

/-- Its retirement goes into the boot flash, or waits for a security core (R436, R444). -/
theorem State.engineRetired_serves {s : State} (h : s.roleServes 0 = true) (e : Nat) :
    (s.engineRetired e).flash.retired = s.flash.retired ++ [⟨9, e, 0⟩] := by
  rw [State.engineRetired, State.noteRetired_serves (s := s.engineOut e) h]
  rfl

theorem State.engineRetired_waits {s : State} (h : s.roleServes 0 = false) (e : Nat) :
    (s.engineRetired e).flash = s.flash ∧ (s.engineRetired e).fw.held = s.fw.held ++ [.retire ⟨9, e, 0⟩] := by
  rw [State.engineRetired, State.noteRetired_waits (s := s.engineOut e) h]
  exact ⟨rfl, rfl⟩

/-- A bank of a core with five in service or more is retired, and the core with the others stays (R94). -/
theorem State.loseBank_spare {s : State} {p i b : Nat} (hb : b < 8)
    (hclear : (NMap.getD s.health.banksOut (coreNum p i) 0).testBit b = false)
    (hcore : (s.health.cluster p).retired.testBit i = false) (hcl : (s.health.cluster p).state ≠ 4)
    (hbanks : 5 ≤ s.health.banks (coreNum p i)) :
    (s.loseBank p i b).health.map = s.health.map ∧ (s.loseBank p i b).health.banksOut =
      NMap.put s.health.banksOut (coreNum p i) (NMap.getD s.health.banksOut (coreNum p i) 0 + 2 ^ b) := by
  obtain ⟨t, e, hmap, hout⟩ : ∃ t : State,
      s.loseBank p i b = (if t.health.banks (coreNum p i) < 4 then t.loseCore p i true else t) ∧ t.health.map = s.health.map ∧
      t.health.banksOut =
        NMap.put s.health.banksOut (coreNum p i) (NMap.getD s.health.banksOut (coreNum p i) 0 + 2 ^ b) := by
    refine ⟨_, if_neg (by simp [hclear, hcore, hcl]), ?_, ?_⟩
    · rw [State.map_of_unreported (State.unitEvent_unreported _ _ _ _ _ _ _)]
      exact (congrArg Health.map (State.noteRetired_health _ _) :)
    · rw [State.banksOut_of_unreported (State.unitEvent_unreported _ _ _ _ _ _ _)]
      exact (congrArg Health.banksOut (State.noteRetired_health _ _) :)
  have left : ¬ t.health.banks (coreNum p i) < 4 := by
    unfold Health.banks at hbanks ⊢
    rw [hout, NMap.getD_put_same, ones_add_two_pow hb hclear]
    omega
  rw [e, if_neg left]
  exact ⟨hmap, hout⟩

/-- A woodpile core that serves nothing is retired alone (R485). -/
theorem State.loseCore_wood {s : State} {p i : Nat} (hi : i < 17) (hp : p < s.health.clusters.length)
    (hstate : (s.health.cluster p).state = 0) (hret : (s.health.cluster p).retired = 0)
    (hserves : s.health.serves (coreNum p i) = []) (readable : Bool) :
    ((s.loseCore p i readable).health.cluster p).retired = 2 ^ i ∧ ((s.loseCore p i readable).health.cluster p).state = 0 := by
  have left : 17 - ones 17 ((s.health.cluster p).retired + 2 ^ i) = 16 := by
    rw [hret, ones_add_two_pow hi (Nat.zero_testBit i)]
    rfl
  obtain ⟨t, e, hc⟩ : ∃ t : State, s.loseCore p i readable = t ∧ t.health.clusters =
      (s.health.setCluster p { s.health.cluster p with retired := (s.health.cluster p).retired + 2 ^ i }).clusters := by
    refine ⟨_, (if_neg (by simp [hstate, hret])).trans <| (if_neg (by rw [left]; decide)).trans <|
      (if_pos (by rw [hserves]; rfl)).trans <| if_neg (by simp [left]), ?_⟩
    rw [State.clusters_of_unreported (State.unitEvent_unreported _ _ _ _ _ _ _), State.noteRetired_health]
  have hcl : t.health.cluster p = { s.health.cluster p with retired := (s.health.cluster p).retired + 2 ^ i } :=
    (congrArg (fun cs : List PhysCluster => cs.getD p {}) hc).trans (Health.setCluster_cluster _ hp _)
  rw [e, hcl]
  exact ⟨by rw [hret, Nat.zero_add], hstate⟩

@[simp] theorem State.setFw_fwCore (s : State) {n : Nat} (h : n < s.fw.cores.length) (c : FwCore) : (s.setFw n c).fwCore n = c := by
  simp [State.fwCore, State.setFw, h]

/-- A firmware core that has crashed no more than once within the hour is held in reset for its recovery (R443, R446). -/
theorem State.fwCrash_held {s : State} {n : Nat} (hn : n < s.fw.cores.length) (hstate : (s.fwCore n).state = 2)
    (hcrashes : (s.fwCore n).crashes.length < 2) : ((s.fwCrash n).fwCore n).state = 3 := by
  have few (t : Nat) : ¬ 3 ≤ ((s.fwCore n).crashes.filter (fun x => decide (t < x + hourNs)) ++ [t]).length := by
    have := List.length_filter_le (fun x => decide (t < x + hourNs)) (s.fwCore n).crashes
    simp only [List.length_append, List.length_singleton]
    omega
  have ended (b : Bool) (t : State) : (if b = true then t.endUpdate 6 else t).fwCore n = t.fwCore n := by
    cases b <;> rfl
  unfold State.fwCrash
  dsimp only
  rw [if_neg (by simp [hstate]), if_neg (few _), ended, State.setFw_fwCore (s.look (s.heartIsland n)).2 hn]

/-! ## Ports, held cores and hosted cores (R16, R85, R482, R487) -/

/-- The times of the words that a port has sent again, with one more now (R482). -/
theorem State.wordError_noted {s : State} {p port : Nat} (h : (NMap.getD s.health.wordErrs (2 * p + port) []).length < 15) :
    (s.wordError p port).health.clusters = s.health.clusters ∧ ∃ before,
      NMap.getD (s.wordError p port).health.wordErrs (2 * p + port) [] = before ++ [(s.look 98).1] := by
  have few : ¬ 16 ≤ (recent (NMap.getD s.health.wordErrs (2 * p + port) []) (s.look 98).1 (10 ^ 6)).length := by
    have := List.length_filter_le (fun t => decide ((s.look 98).1 < t + 10 ^ 6)) (NMap.getD s.health.wordErrs (2 * p + port) [])
    simp only [recent, List.length_append, List.length_singleton]
    omega
  rw [show s.wordError p port = _ from if_neg few]
  exact ⟨rfl, _, NMap.getD_put_same _ _ _ _⟩

/-- A held core that passes while its control core runs leaves verification (R85, R444). -/
theorem State.verified_passes {s : State} {p i : Nat} (h : coreNum p i ∈ s.health.verifying)
    (hc : 32 ≤ s.health.logicalOf p ∨ (s.fwCore (6 + s.health.logicalOf p)).state = 2) :
    (s.verified p i true).unreported =
      ({ s with health := { s.health with verifying := s.health.verifying.filter (· != coreNum p i) } } : State).unreported := by
  unfold State.verified
  dsimp only
  rw [if_neg (by simpa [h, or_iff_not_imp_left] using hc), if_pos rfl, State.unitEvent_unreported]

/-- Of two logical cores on one physical core, one that does not run gives its turn to the other (R487). -/
theorem State.switchHosted_idle {s : State} {p i a b k : Nat} (hs : s.health.serves (coreNum p i) = [a, b])
    (hr : s.sched.running = some k)
    (hidle : NMap.find (s.job k).run.cores (NMap.getD s.health.turns (coreNum p i) a) = none) :
    s.switchHosted p i = { s with health := { s.health with
      turns := NMap.put s.health.turns (coreNum p i) (if NMap.getD s.health.turns (coreNum p i) a = a then b else a) } } := by
  have still : s.carry (NMap.getD s.health.turns (coreNum p i) a) = s := by
    simp [State.carry, hr, hidle]
  simp [State.switchHosted, hs, hr, hidle, still]

/-! ## Clusters replaced (R19, R434, R485) -/

theorem State.place1_clusters (s : State) (n p core : Nat) : (s.place1 n p core).health.clusters = s.health.clusters := rfl

theorem State.place1_sched (s : State) (n p core : Nat) : (s.place1 n p core).sched = s.sched := by
  unfold State.place1 State.carry
  dsimp only
  split
  · rfl
  · split <;> rfl

theorem State.takeControl_health (s : State) (cl p : Nat) : (s.takeControl cl p).health = s.health := by
  unfold State.takeControl State.leaveWood
  dsimp only
  split_ifs <;> rfl

theorem State.takeControl_sched (s : State) (cl p : Nat) : (s.takeControl cl p).sched = s.sched := by
  unfold State.takeControl State.leaveWood
  dsimp only
  split_ifs <;> rfl

/-- The cold tiers of a cluster are no matter of health or of the scheduler. -/
theorem State.coldTier_keeps (s : State) (cl : Nat) : (s.coldTier cl).health = s.health ∧ (s.coldTier cl).sched = s.sched := by
  unfold State.coldTier
  split <;> exact ⟨rfl, rfl⟩

/-- The state as a logical cluster's cores are on their new places and its tiers are cold (R19, R291). -/
def State.clusterPlaced (s : State) (cl p : Nat) : State := ((s.takeControl cl p).placeCluster cl p).coldTier cl

theorem State.clusterPlaced_clusters (s : State) (cl p : Nat) : (s.clusterPlaced cl p).health.clusters = s.health.clusters := by
  unfold State.clusterPlaced State.placeCluster
  rw [(State.coldTier_keeps _ _).1,
    foldl_keeps (fun s : State => s.health.clusters) _ (fun s k => State.place1_clusters s _ _ _), State.takeControl_health]

theorem State.clusterPlaced_sched (s : State) (cl p : Nat) : (s.clusterPlaced cl p).sched = s.sched := by
  unfold State.clusterPlaced State.placeCluster
  rw [(State.coldTier_keeps _ _).2, foldl_keeps State.sched _ (fun s k => State.place1_sched s _ _ _), State.takeControl_sched]

/-- A physical cluster that takes a logical one serves it (R14, R19). -/
theorem State.moveCluster_serves {s : State} {p : Nat} (hp : p < s.health.clusters.length) (cl : Nat) :
    ((s.moveCluster cl p).health.cluster p).state = 1 ∧ ((s.moveCluster cl p).health.cluster p).logical = cl := by
  obtain ⟨c, hc⟩ : ∃ c : PhysCluster, (s.moveCluster cl p).health.cluster p = { c with state := 1, logical := cl } :=
    ⟨_, Health.setCluster_cluster _ (by
      rw [Health.setCluster, List.length_set]
      exact (congrArg List.length (s.clusterPlaced_clusters cl p)).symm ▸ hp) _⟩
  rw [hc]
  exact ⟨rfl, rfl⟩

theorem State.moveCluster_sched (s : State) (cl p : Nat) : (s.moveCluster cl p).sched = s.sched := s.clusterPlaced_sched cl p

/-- One replacement by a woodpile cluster, and no job that would replay (R485). -/
theorem State.replaced_idle {s : State} {r : Replace} (h : s.health.replace = [r]) (hh : r.hosting = false)
    (hr : s.sched.running = none) : s.replaced.unreported =
      ({ (s.moveCluster r.logical r.physical).bringRail r.lost r.physical with
          health := { (s.moveCluster r.logical r.physical).health with replace := [] }
          sched := { s.sched with intakeOpen := s.sched.pausing.isNone && s.sched.seekCommit.isNone } } : State).unreported := by
  have idle {t : State} (ht : t.sched.running = none) : (t.startReplay 3 r.lost).unreported = t.unreported := by
    have live : t.liveJob = none := by rw [State.liveJob, ht]
    rw [State.startReplay, live]
    exact State.recovered_unreported _ _ _ _ _ _
  have sched : (s.install r).sched = s.sched := by
    rw [State.install, if_neg (ne_true_of_eq_false hh)]
    exact s.moveCluster_sched _ _
  unfold State.replaced
  rw [h]
  dsimp only [List.foldl]
  rw [idle (by rw [sched]; exact hr), sched, State.install, if_neg (ne_true_of_eq_false hh)]
  rfl

/-! ## Stacks (R490, R491, R492) -/

/-- Withholding data is no change of health but its reports (R492). -/
theorem State.loseData_health (s : State) (k u : Nat) : (s.loseData k u).health.unreported = s.health.unreported := by
  unfold State.loseData
  dsimp only
  split
  · rfl
  · exact (congrArg State.health (State.dataEvent_unreported _ _ _ _ _) :)

theorem State.loseAll_health (s : State) (k : Nat) (us : List Nat) :
    (s.loseAll k us).health.unreported = s.health.unreported := by
  induction us generalizing s with
  | nil => rfl
  | cons u us ih => exact (ih _).trans (s.loseData_health k u)

theorem State.loseRows_health (s : State) (stack : Nat) (halves jobs : List Nat) :
    (s.loseRows stack halves jobs).health.unreported = s.health.unreported := by
  induction jobs generalizing s with
  | nil => rfl
  | cons k ks ih =>
    refine (ih _).trans ?_
    split
    · exact State.loseAll_health _ _ _
    · rfl

theorem getD_set_self {α : Type} {xs : List α} {k : Nat} (h : k < xs.length) (x d : α) : (xs.set k x).getD k d = x := by
  simp [h]

/-- A stack that is not rebuilding begins to, after those that are (R491). -/
theorem State.beginRebuild_begins {s : State} {k : Nat} (hk : k < s.health.hbm.length) (h : k ∉ s.health.rebuilds) :
    (s.beginRebuild k).health.rebuilds = s.health.rebuilds ++ [k] ∧
      ∃ began, (s.beginRebuild k).health.hbm.getD k {} = { s.health.hbm.getD k {} with state := 2, began } := by
  have off : ¬ (s.look 98).2.health.rebuilds.contains k = true := fun e => h (List.contains_iff_mem.mp e)
  have told := State.rebuildEvent_unreported
  unfold State.beginRebuild
  dsimp only
  rw [if_neg off, State.hbm_of_unreported (told _ _ _), State.rebuilds_of_unreported (told _ _ _)]
  exact ⟨rfl, _, getD_set_self hk _ _⟩

/-- Both halves of a whole stack fail. -/
theorem halvesOf_whole : halvesOf (2 ^ 32 - 1) = [0, 1] := by decide

theorem halvesOf_none : halvesOf 0 = [] := by decide

/-- A whole stack fails, and all its units wait for their rebuild (R490, R491). -/
theorem State.hbmFails_whole {s : State} {k : Nat} (hf : (s.health.hbm.getD k {}).failed = 0) :
    ∃ t : State, s.hbmFails k none = t.beginRebuild k ∧ t.health.unreported =
      ({ s.health with hbm := s.health.hbm.set k { s.health.hbm.getD k {} with
        failed := 2 ^ 32 - 1, left := (s.health.hbm.getD k {}).left + 2 ^ 25
        unbuilt := (s.health.hbm.getD k {}).unbuilt + maskOf [0, 16] } } : Health).unreported := by
  have whole : halfUnits * 2 = 2 ^ 25 := by decide
  have fresh : [0, 1].filter (fun n => !([] : List Nat).contains n) = [0, 1] := rfl
  have both : ([0, 1] : List Nat).length = 2 := rfl
  have firsts : [0, 1].map (16 * ·) = [0, 16] := rfl
  have lost (u : State) (jobs : List Nat) : ({ u.loseRows k [0, 1] jobs with freeCtr := (u.loseRows k [0, 1] jobs).freeCtr + 1 } :
      State).health.unreported = u.health.unreported := State.loseRows_health _ _ _ _
  unfold State.hbmFails
  dsimp only
  rw [hf, halvesOf_whole, halvesOf_none, fresh, both, whole, firsts, if_neg (by decide), if_neg (by decide)]
  refine ⟨_, rfl, ?_⟩
  rw [lost, State.health_of_unreported (State.unitEvent_unreported _ _ _ _ _ _ _), State.noteRetired_health]

/-- A stack that has failed whole is in rebuild, after those that were (R491). -/
theorem State.hbmFails_rebuilds {s : State} {k : Nat} (hk : k < s.health.hbm.length) (hf : (s.health.hbm.getD k {}).failed = 0)
    (hr : k ∉ s.health.rebuilds) : (s.hbmFails k none).health.rebuilds = s.health.rebuilds ++ [k] ∧
      ∃ unbuilt began, (s.hbmFails k none).health.hbm.getD k {} =
        ⟨2, 2 ^ 32 - 1, unbuilt, (s.health.hbm.getD k {}).left + 2 ^ 25, began⟩ := by
  obtain ⟨t, e, ht⟩ := State.hbmFails_whole hf
  have hreb : t.health.rebuilds = s.health.rebuilds := (congrArg Health.rebuilds ht :)
  have hlen : t.health.hbm.length = s.health.hbm.length := (congrArg (fun h => h.hbm.length) ht :).trans List.length_set
  have hstack : t.health.hbm.getD k {} = { s.health.hbm.getD k {} with
      failed := 2 ^ 32 - 1, left := (s.health.hbm.getD k {}).left + 2 ^ 25
      unbuilt := (s.health.hbm.getD k {}).unbuilt + maskOf [0, 16] } :=
    (congrArg (fun h => h.hbm.getD k {}) ht :).trans (getD_set_self hk _ _)
  obtain ⟨hr', began, hs⟩ := State.beginRebuild_begins (hlen ▸ hk : k < t.health.hbm.length) (hreb ▸ hr : k ∉ t.health.rebuilds)
  rw [e, hr', hreb, hs, hstack]
  exact ⟨rfl, _, _, rfl⟩

/-- Units that the reserve has room for are relocated into it (R491). -/
theorem State.rebuilt_reserve {s : State} {k : Nat} {rest : List Nat} (h : s.health.rebuilds = k :: rest)
    (hl : (s.health.hbm.getD k {}).left ≤ reserveUnits - s.health.repairUsed) : s.rebuilt.unreported =
      ({ s with health := { s.health with
        repairUsed := s.health.repairUsed + (s.health.hbm.getD k {}).left, rebuilds := rest
        hbm := s.health.hbm.set k { s.health.hbm.getD k {} with left := 0, unbuilt := 0, state := 3 } } } : State).unreported := by
  unfold State.rebuilt
  dsimp only
  rw [h]
  dsimp only
  rw [State.rebuildEvent_unreported, min_eq_left hl, Nat.sub_self, Nat.zero_min]
  rfl

/-! ## Lost data (R492) -/

/-- A slot that keeps what `g` reads of it leaves that of every slot. -/
theorem State.setJob_keeps {α : Type} (g : Job → α) (s : State) (k q : Nat) {j : Job} (h : g j = g (s.job k)) :
    g ((s.setJob k j).job q) = g (s.job q) := by
  by_cases hq : q = k
  · subst hq
    by_cases hk : q < s.jobs.length
    · rw [State.setJob_job s q j hk, h]
    · simp [State.job, State.setJob, List.set_eq_of_length_le (Nat.not_lt.mp hk)]
  · rw [State.setJob_job_ne s k q j hq]

/-- The withheld units of the job in slot `q`. -/
def State.lostOf (s : State) (q : Nat) : List Nat := (s.job q).lost

theorem State.setJob_lostOf (s : State) (k q : Nat) {j : Job} (h : j.lost = s.lostOf k) : (s.setJob k j).lostOf q = s.lostOf q :=
  State.setJob_keeps Job.lost s k q h

theorem State.lostOf_of_jobs {s t : State} (h : t.jobs = s.jobs) (q : Nat) : t.lostOf q = s.lostOf q :=
  congrArg (fun js : List Job => (js.getD q {}).lost) h

@[simp] theorem State.placeUnit_jobs (s : State) (e : Nat × Nat) : (s.placeUnit e).jobs = s.jobs := by
  unfold State.placeUnit
  dsimp only
  split
  · rfl
  · split <;> rfl

theorem State.onTiers_lostOf (s : State) (k q : Nat) (f : Image → Acc → Acc) : (s.onTiers k f).lostOf q = s.lostOf q := by
  unfold State.onTiers
  dsimp only
  generalize (f (s.job k).image (s.accFor k)).grant (s.job k).image.regs = a
  exact (foldl_keeps (fun s : State => s.lostOf q) State.placeUnit
    (fun s e => State.lostOf_of_jobs (s.placeUnit_jobs e) q) _ _).trans
    (State.setJob_lostOf s k q (j := { s.job k with run := a.run }) rfl)

theorem State.hubAccess_lostOf (s : State) (k : Nat) (write : Bool) (part a len q : Nat) :
    (s.hubAccess k write part a len).lostOf q = s.lostOf q := by
  unfold State.hubAccess
  split
  · exact State.onTiers_lostOf _ _ _ _
  · rfl

theorem State.hubWrite_lostOf (s : State) (k part a len q : Nat) : (s.hubWrite k part a len).lostOf q = s.lostOf q := by
  refine (State.hubAccess_lostOf _ _ _ _ _ _ _).trans ?_
  unfold State.journalCopies
  dsimp only
  split
  · rfl
  · exact (State.onTiers_lostOf _ _ _ _).trans (State.setJob_lostOf s k q rfl)

theorem Job.touch_lost (j : Job) (u n : Nat) : (j.touch u n).lost = j.lost := by
  induction n generalizing j u with
  | zero => rfl
  | succ n ih => exact ih _ _

theorem Job.hostWrite_lost (j : Job) (a : Nat) (bs : List Byte) : (j.hostWrite a bs).lost = j.lost := by
  change (j.store a bs).lost = j.lost
  unfold Job.store
  split
  · rfl
  · exact j.touch_lost _ _

/-- What the host's waiting writes do with job memory leaves what is withheld (R423, R492). -/
theorem State.releaseHeld_lostOf (s : State) (k q : Nat) : (s.releaseHeld k).lostOf q = s.lostOf q := by
  unfold State.releaseHeld
  refine (foldl_keeps (fun s : State => s.lostOf q) _ (fun s w => ?_) _ _).trans (State.setJob_lostOf s k q rfl)
  dsimp only
  split_ifs
  · exact State.setJob_lostOf s k q rfl
  · exact (State.hubWrite_lostOf _ _ _ _ _ _).trans (State.setJob_lostOf s k q (Job.hostWrite_lost _ _ _))
  · exact State.setJob_lostOf s k q rfl

theorem State.readBar2_lostOf (s : State) (p : Port) (off len q : Nat) : (s.readBar2 p off len).lostOf q = s.lostOf q := by
  have ports (h : HostPort) : (s.setPort p h).lostOf q = s.lostOf q := State.lostOf_of_jobs (State.setPort_jobs _ _ _) q
  unfold State.readBar2
  dsimp only
  split
  · split_ifs
    · exact ports _
    · exact (State.hubAccess_lostOf _ _ _ _ _ _ _).trans (ports _)
    · exact (State.lostOf_of_jobs (State.hostCount_jobs _ _ _) q).trans (ports _)
  · exact (State.lostOf_of_jobs (State.hostCount_jobs _ _ _) q).trans (ports _)

theorem State.serveReads_lostOf (s : State) (p : Port) (q : Nat) : (s.serveReads p).lostOf q = s.lostOf q :=
  (foldl_keeps (fun s : State => s.lostOf q) _ (fun s _ => State.readBar2_lostOf s p _ _ q) _ _).trans
    (State.lostOf_of_jobs (State.setPort_jobs _ _ _) q)

/-- A unit that is good again has left the withheld ones (R492). -/
theorem State.madeGood_lostOf {s : State} {k : Nat} (hk : k < s.jobs.length) (u : Nat) :
    (s.madeGood k u).lostOf k = (s.lostOf k).filter (· != u) := by
  unfold State.madeGood
  dsimp only
  rw [State.serveReads_lostOf, State.serveReads_lostOf]
  split
  · exact congrArg Job.lost (State.setJob_job s k _ hk)
  · exact (State.releaseHeld_lostOf _ _ _).trans (congrArg Job.lost (State.setJob_job s k _ hk))

/-- A withheld unit is one of a job slot. -/
theorem State.lostAt_slot {s : State} {unit k u : Nat} (h : s.lostAt unit = some (k, u)) : k < s.jobs.length := by
  obtain ⟨q, hq, hu⟩ := List.mem_flatMap.mp (List.mem_of_find?_eq_some h)
  obtain ⟨_, _, e⟩ := List.mem_map.mp hu
  obtain rfl : q = k := congrArg Prod.fst e
  exact List.mem_range.mp hq

/-- A withheld unit that was written whole is good again (R492). -/
theorem State.dataRestored_written {s : State} {unit k u : Nat} (h : s.lostAt unit = some (k, u)) (hm : u ∈ (s.job k).made) :
    s.dataRestored unit .written = (s.madeGood k u).dataEvent 0x0F09 k u 2 := by
  unfold State.dataRestored
  rw [h]
  exact if_pos (List.contains_iff_mem.mpr hm)

/-! ## Forecasts (R493 to R495) -/

theorem State.healthEvent_device_health (s : State) (e : Event) : (s.healthEvent none e).health = (s.logEvent e).health :=
  (congrArg State.health (s.healthEvent_device e) :)

theorem State.logEvent_forecast (s : State) (e : Event) : (s.logEvent e).health.forecast = s.health.forecast := rfl

theorem State.logEvent_logCount (s : State) (e : Event) : (s.logEvent e).health.logCount = s.health.logCount + 1 := rfl

/-- A forecast is one line of the log, and all ones where nothing was drawn within the year. -/
theorem State.forecastEvent_health (s : State) : s.forecastEvent.health.logCount = s.health.logCount + 1 ∧
    (s.drawnYear = 0 → s.forecastEvent.health.forecast = 0xFFFFFFFF) := by
  have kept (v : W64) : ({ s.fresh.2 with health := { s.fresh.2.health with forecast := v } } : State).health.logCount =
      s.health.logCount := rfl
  unfold State.forecastEvent
  dsimp only
  rw [State.healthEvent_device_health, State.logEvent_logCount, State.logEvent_forecast, kept]
  refine ⟨rfl, fun h => ?_⟩
  have hd : s.fresh.2.drawnYear = 0 := h
  dsimp only
  rw [hd]
  rfl

/-! ## Phases (R485, R490) -/

/-- A rail with five phases or more holds without the one that failed (R490). -/
theorem State.phaseFails_holds {s : State} {rail phase : Nat} (hp : rail < s.health.clusters.length)
    (hclear : (s.health.cluster rail).phasesOut.testBit phase = false)
    (hleft : ones 12 ((s.health.cluster rail).phasesOut + 2 ^ phase) ≤ 7) :
    (s.phaseFails rail phase).health.cluster rail =
      { s.health.cluster rail with phasesOut := (s.health.cluster rail).phasesOut + 2 ^ phase } := by
  obtain ⟨t, e, hc⟩ : ∃ t : State, s.phaseFails rail phase = t ∧ t.health.clusters = (s.health.setCluster rail
      { s.health.cluster rail with phasesOut := (s.health.cluster rail).phasesOut + 2 ^ phase }).clusters := by
    refine ⟨_, (if_neg (ne_true_of_eq_false hclear)).trans (if_neg (by omega)), ?_⟩
    rw [State.clusters_of_unreported (State.unitEvent_unreported _ _ _ _ _ _ _), State.noteRetired_health]
  rw [e]
  exact (congrArg (fun cs : List PhysCluster => cs.getD rail {}) hc).trans (Health.setCluster_cluster _ hp _)

end Sys2Proof.Machine
end

section
/-! O57: the events of health (R85, R94, R479 to R497): each is one meaning, under what its conditions leave of it. -/

namespace Sys2Proof.Machine

/-! ## The events -/

theorem exec_stallCodec {e : Nat} (h : e < 16) (s : State) :
    exec (.stallMonitorTrip (.codec e)) s = .next ((s.healthCount 0x58 1).loseCodec e) := checked_of s _ _ (decide_eq_true h)

theorem exec_eccError_nowhere {place : EccPlace} (h : placeOk place = false) (b : Bool) (s : State) :
    exec (.eccError place b) s = .next s := if_pos (by rw [h]; rfl)

theorem exec_bankLost {p i b : Nat} (hp : p < 34) (hi : i < 17) (hb : b < 8) (s : State) :
    exec (.eccError (.bank p i b) false) s = .next (s.loseBank p i b) :=
  (if_neg (by simp [placeOk, physOk, hp, hi, hb])).trans (if_neg Bool.false_ne_true)

theorem exec_firmwareLost {n : Nat} (h : n < 40) (s : State) : exec (.eccError (.firmware n) false) s = .next (s.fwCrash n) :=
  (if_neg (by simp [placeOk, fwCoreOk, h])).trans (if_neg Bool.false_ne_true)

/-- The loss of a hub is outside what the manual describes (R479). -/
theorem exec_hubLost {h : Nat} (hh : h < 8) (s : State) : exec (.eccError (.hubBuffer h) false) s = .fault .moduleLost :=
  (if_neg (by simp [placeOk, hh])).trans (if_neg Bool.false_ne_true)

theorem exec_scratchpadCorrected {p i : Nat} (hp : p < 34) (hi : i < 17) (s : State) :
    exec (.eccError (.scratchpad p i) true) s = .next (s.healthCount 0x38 1) :=
  (if_neg (by simp [placeOk, physOk, hp, hi])).trans (if_pos rfl)

theorem exec_d2dWordError {p port : Nat} (hp : p < 34) (hport : port < 2) (s : State) :
    exec (.d2dWordError p port) s = .next (s.wordError p port) := checked_of s _ _ (by simp [physOk, hp, hport])

theorem exec_coreVerifyDone {p i : Nat} (hp : p < 34) (hi : i < 17) (pass : Bool) (s : State) :
    exec (.coreVerifyDone p i pass) s = .next (s.verified p i pass) := checked_of s _ _ (by simp [physOk, hp, hi])

theorem exec_hostedCoreSwitch {p i : Nat} (hp : p < 34) (hi : i < 17) (s : State) :
    exec (.hostedCoreSwitch p i) s = .next (s.switchHosted p i) := checked_of s _ _ (by simp [physOk, hp, hi])

theorem exec_stackFail {k : Nat} (h : k < 48) (s : State) : exec (.hbmUnitFail k none) s = .next (s.hbmFails k none) :=
  checked_of s _ _ (by simp [h])

theorem exec_woodpileTest {p i : Nat} (hp : p < 34) (hi : i < 17) (s : State) :
    exec (.woodpileTestTimer [(p, i)]) s = .next (s.woodpileTest [(p, i)]) := checked_of s _ _ (by simp [physOk, hp, hi])

theorem exec_phaseFail_cluster {p ph : Nat} (hp : p < 34) (hph : ph < 12) (s : State) :
    exec (.phaseFail p ph) s = .next (s.phaseFails p ph) := (if_pos hp).trans (checked_of s _ _ (decide_eq_true hph))

/-- A hub rail with no phase to spare is lost with one more, and its hub with it (R479, R490). -/
theorem exec_phaseFail_hub {s : State} {h ph : Nat} (hh : h < 8) (hph : ph < 16)
    (hclear : (s.health.hubPhasesOut.getD h 0).testBit ph = false) (hout : 3 ≤ ones 16 (s.health.hubPhasesOut.getD h 0)) :
    exec (.phaseFail (34 + h) ph) s = .fault .moduleLost := by
  refine (if_neg (by omega)).trans <| (if_neg (by simp; omega)).trans ?_
  rw [Nat.add_sub_cancel_left]
  exact (if_neg (ne_true_of_eq_false hclear)).trans (if_pos hout)

/-- A woodpile core that is tested and fails is lost (R91, R485). -/
theorem State.woodpileTest_idle {s : State} {p : Nat} (h : (s.health.cluster p).state = 0) (i : Nat) :
    s.woodpileTest [(p, i)] = (s.fresh.2.healthCount 0x78 s.fresh.1).loseCore p i true := by
  have idle : [(p, i)].filter (fun b => (s.fresh.2.health.cluster b.1).state == 0 ||
      (s.fresh.2.health.woodCores b.1).contains b.2) = [(p, i)] := by
    have hs : (s.fresh.2.health.cluster p).state = 0 := h
    simp [hs]
  unfold State.woodpileTest
  dsimp only
  rw [idle]
  rfl

/-- Settles O57: each event's conditions leave one branch of its meaning, and reports of health change nothing of what the event does. -/
theorem healthEvents : Obligations.HealthEvents := by
  unfold Obligations.HealthEvents
  intro s
  refine ⟨fun e he hlen hin => ?_, fun p i hp hi => exec_scratchpadCorrected hp hi s,
    fun p i b hp hi hb hclear hcore hcl hbanks => ?_, fun n hn hlen hrun hcr => ?_, fun h hh => exec_hubLost hh s,
    fun place b h => exec_eccError_nowhere h b s, fun p port hp hport hfew => ?_, fun p i hp hi hv hc => ?_,
    fun r hr hh hrun hlen => ?_, fun p i a b k hp hi hs hrun hidle => ?_, fun k hk hlen hf hr => ?_,
    fun k rest hreb hlen hl => ?_, fun u k x h hm => ?_, ⟨_, rfl, s.forecastEvent_health⟩,
    fun p i hp hi hlen hst hret hs => ?_, fun p ph hp hph hlen hclear hleft => ?_,
    fun h ph hh hph hclear hout => exec_phaseFail_hub hh hph hclear hout⟩
  · obtain ⟨hcodecs, hflash, hfw⟩ := State.loseCodec_inService (s := s.healthCount 0x58 1) hin
    refine ⟨_, exec_stallCodec he s, ?_, fun hs => ?_, fun hs => ?_⟩
    · rw [hcodecs, State.engineRetired, State.noteRetired_codecs]
      exact congrArg Engine.inService (getD_set_self hlen _ _)
    · rw [hflash]
      exact State.engineRetired_serves (s := s.healthCount 0x58 1) hs e
    · rw [hflash, hfw]
      exact State.engineRetired_waits (s := s.healthCount 0x58 1) hs e
  · exact ⟨_, exec_bankLost hp hi hb s, State.loseBank_spare hb hclear hcore hcl hbanks⟩
  · exact ⟨_, exec_firmwareLost hn s, State.fwCrash_held hlen hrun hcr⟩
  · obtain ⟨hcl, hbefore⟩ := State.wordError_noted hfew
    exact ⟨_, _, exec_d2dWordError hp hport s, hcl, hbefore⟩
  · have passed := State.verified_passes hv hc
    exact ⟨_, exec_coreVerifyDone hp hi true s, (State.map_of_unreported passed :), (State.verifying_of_unreported passed :)⟩
  · have replaced := State.replaced_idle hr hh hrun
    have serves := State.moveCluster_serves hlen r.logical
    refine ⟨_, rfl, State.replace_of_unreported replaced, ?_⟩
    rw [Health.cluster, State.clusters_of_unreported replaced]
    exact serves
  · rw [exec_hostedCoreSwitch hp hi, State.switchHosted_idle hs hrun hidle]
    rfl
  · obtain ⟨hreb, _, _, hstack⟩ := State.hbmFails_rebuilds hlen hf hr
    refine ⟨_, exec_stackFail hk s, ?_⟩
    rw [hstack]
    exact ⟨rfl, rfl, rfl, hreb⟩
  · have rebuilt := State.rebuilt_reserve hreb hl
    have stack : s.rebuilt.health.hbm.getD k {} = _ :=
      (congrArg (fun u : State => u.health.hbm.getD k {}) rebuilt :).trans (getD_set_self hlen _ _)
    refine ⟨_, rfl, State.rebuilds_of_unreported rebuilt, ?_⟩
    rw [stack]
    exact ⟨rfl, rfl, (congrArg (fun u : State => u.health.repairUsed) rebuilt :), (congrArg (fun u : State => u.health.lost) rebuilt :)⟩
  · have told := State.jobs_of_unreported ((s.madeGood k x).dataEvent_unreported 0x0F09 k x 2)
    refine ⟨_, congrArg Host.Outcome.next (State.dataRestored_written h hm), ?_⟩
    exact (State.lostOf_of_jobs told k).trans (State.madeGood_lostOf (State.lostAt_slot h) x)
  · refine ⟨_, (exec_woodpileTest hp hi s).trans (congrArg Host.Outcome.next (State.woodpileTest_idle hst i)), ?_⟩
    exact State.loseCore_wood (s := s.fresh.2.healthCount 0x78 s.fresh.1) hi hlen hst hret hs true
  · refine ⟨_, exec_phaseFail_cluster hp hph s, ?_⟩
    rw [State.phaseFails_holds hlen hclear hleft]
    exact ⟨rfl, rfl⟩

end Sys2Proof.Machine
end

section
/-! O38: what a committed advance leaves of its stream and of the others (R104, R113, R114, R128). -/

namespace Sys2Proof.Machine

/-! ## A committed row -/

/-- The entry of an advance that commits; a CLOSE frees it (R113, R114). -/
theorem JobRun.commitRow_stream (r : JobRun) (w : Row) : (r.commitRow w).stream w.stream =
    let e := { w.after with assigned := max (r.stream w.stream).assigned w.seq }
    if w.isClose then { e.freed with assigned := (r.setStream w.stream e).lastSeq w.stream e.freed.gen } else e := by
  unfold JobRun.commitRow JobRun.freeStream
  dsimp only
  split
  · exact (JobRun.setStream_stream _ _ _).trans (by rw [JobRun.setStream_stream])
  · exact JobRun.setStream_stream _ _ _

/-- An advance writes the entry of its own stream alone. -/
theorem JobRun.commitRow_stream_ne (r : JobRun) {w : Row} {n : Nat} (h : n ≠ w.stream) : (r.commitRow w).stream n = r.stream n := by
  unfold JobRun.commitRow JobRun.freeStream
  dsimp only
  split
  · exact (JobRun.setStream_stream_ne _ _ h).trans (JobRun.setStream_stream_ne r _ h)
  · exact JobRun.setStream_stream_ne r _ h

/-- Settles O38: the entry that the advance writes is `Row.after`, freed by a CLOSE, and no other entry is written. -/
theorem advanceCommits : Obligations.AdvanceCommits := by
  unfold Obligations.AdvanceCommits
  intro r w
  refine ⟨fun hopen => ?_, fun hclose => ?_, fun n hn => r.commitRow_stream_ne hn⟩
  · have hlen : w.after.length = if w.st.kind = 2 ∨ w.st.kind = 3 then w.st.length + w.tokens else w.st.length := by
      simp [Row.after, Stream.hasPages]
    rw [r.commitRow_stream, hopen]
    exact ⟨rfl, rfl, hlen, rfl, rfl, rfl, rfl, rfl, Nat.le_max_right _ _⟩
  · rw [r.commitRow_stream, hclose]
    rfl

end Sys2Proof.Machine
end

section
/-! SUPPORT. What the accesses that a formed batch makes leave of a job: its run's data (R174, R264, R279, R280). -/

namespace Sys2Proof.Machine

/-! ## Accesses of a cluster's units -/

@[simp] theorem Acc.install_data (a : Acc) (i : Image) (cl line : Nat) (l : Line) : (a.install i cl line l).data = a.data := by
  unfold Acc.install
  dsimp only
  split
  · rfl
  · split
    · rfl
    · exact (Acc.setTier_data _ _ _).trans (Acc.evict_data _ _ _ _)

@[simp] theorem Acc.tryPromote_data (a : Acc) (i : Image) (cl page part : Nat) : (a.tryPromote i cl page part).data = a.data := by
  unfold Acc.tryPromote
  dsimp only
  split
  · rfl
  · split
    · rfl
    · split <;> rfl

@[simp] theorem Acc.cached_data (a : Acc) (i : Image) (cl line mask : Nat) (x : Access) : (a.cached i cl line mask x).data = a.data := by
  unfold Acc.cached
  extract_lets t alloc _ b c
  have same : b.data = a.data := rfl
  have read : (b.peatRead cl line mask x.part).data = a.data := (Acc.peatRead_data _ _ _ _ _).trans same
  split
  · extract_lets miss _ d l₁ t₁
    have served : d.data = a.data := by
      unfold d
      split
      · rfl
      · exact Acc.peatRead_data (a.countCluster cl 0x10 1) _ _ _ _
    split
    · exact served
    · exact served
  · split
    · rw [Acc.install_data]
      unfold c
      split
      · exact same
      · exact read
    · split
      · exact (Acc.peatWrite_data _ _ _ _).trans same
      · exact read

@[simp] theorem Acc.lookup_data (a : Acc) (i : Image) (cl line mask : Nat) (x : Access) : (a.lookup i cl line mask x).data = a.data := by
  have sole (t : Tier) : (if x.write then (a.setTier cl t).invalidateOthers cl line else a.setTier cl t).data = a.data := by
    split
    · exact Acc.invalidateOthers_data _ _ _
    · rfl
  unfold Acc.lookup
  dsimp only
  split
  · split
    · exact (Acc.cached_data _ _ _ _ _ _).trans (sole _)
    · exact (Acc.countCluster_data _ _ _ _).trans ((Acc.setTier_data _ _ _).trans (sole _))
  · exact (Acc.tryPromote_data _ _ _ _ _).trans ((Acc.cached_data _ _ _ _ _ _).trans (sole _))

@[simp] theorem Acc.lines_data (a : Acc) (i : Image) (cl : Nat) (x : Access) (fuel at' left : Nat) :
    (a.lines i cl x fuel at' left).data = a.data := by
  induction fuel generalizing a at' left with
  | zero => rfl
  | succ n ih =>
    unfold Acc.lines
    split
    · rfl
    · exact (ih _ _ _).trans (Acc.lookup_data _ _ _ _ _ _)

@[simp] theorem Acc.access_data (a : Acc) (i : Image) (cl : Nat) (x : Access) : (a.access i cl x).data = a.data :=
  (Acc.grant_data _ _).trans (Acc.lines_data _ _ _ _ _ _ _)

/-! ## Accesses of a batch -/

@[simp] theorem State.tailCopies_runData (s : State) (k : Nat) (ps : List (Nat × Nat × Nat)) (q : Nat) :
    (s.tailCopies k ps).runData q = s.runData q := by
  unfold State.tailCopies
  split
  · rfl
  · exact State.onTiers_runData s k q _ fun i a => foldl_keeps Acc.data _ (fun a p => by simp) _ _

@[simp] theorem State.tableTraffic_runData (s : State) (k : Nat) (xs : List (Nat × Nat)) (q : Nat) :
    (s.tableTraffic k xs).runData q = s.runData q := by
  refine foldl_keeps (fun s : State => s.runData q) _ (fun s w => ?_) _ s
  dsimp only
  split
  · exact State.firmwareRead_runData _ _ _ _
  · split <;> simp

end Sys2Proof.Machine
end

section
/-! SUPPORT. What settling commands and rows leaves of a run: the batches that stand, the number of the next and, for a row, the queue and
the parameter groups, too (R108, R116, R117). -/

namespace Sys2Proof.Machine

/-! ## The batches of a run -/

/-- The batches that stand, and the number of the next one. -/
def JobRun.line (r : JobRun) : List Batch × Nat := (r.batches, r.batchNext)

/-- What settling a row leaves alone: the queue, the batches, and the parameter groups. -/
def JobRun.plan (r : JobRun) : List QCmd × (List Batch × Nat) × NMap W32 := (r.queue, r.line, r.pgt)

theorem JobRun.line_of_plan {r r' : JobRun} (h : r.plan = r'.plan) : r.line = r'.line :=
  (congrArg (fun p : List QCmd × (List Batch × Nat) × NMap W32 => p.2.1) h :)

/-! ## Rows (R108, R120) -/

@[simp] theorem startMove_plan (j : Job) (r : JobRun) (n : Nat) : (startMove j r n).1.plan = r.plan := by
  unfold startMove
  dsimp only
  split
  · split <;> rfl
  · rfl

@[simp] theorem placeRow_plan (j : Job) (r : JobRun) (w : Row) (e : Stream) : (placeRow j r w e).1.plan = r.plan := by
  unfold placeRow
  extract_lets start free wantsBlock blockNeed cur park budget first last partly copy k₁ n need room window limits got
  have parked : park.1.plan = r.plan := by
    unfold park
    split <;> rfl
  have entered (e : Stream) : (if w.isOpen then r else r.setStream w.stream e).plan = r.plan := by
    split <;> rfl
  clear_value limits got
  split
  · exact parked
  · cases limits with
    | false => exact parked
    | true =>
      cases got with
      | none => exact parked
      | some x => exact entered _

@[simp] theorem settleRow_plan (j : Job) (r : JobRun) (tmpl : Nat) (w : Row) : (settleRow j r tmpl w).1.plan = r.plan := by
  unfold settleRow
  dsimp only
  split
  · split
    · rfl
    · split
      · rfl
      · split
        · rfl
        · exact placeRow_plan j r w _
  · split
    · rfl
    · split
      · rfl
      · split
        · exact placeRow_plan j r w _
        · rfl
        · rfl
        · have moved := startMove_plan j r w.stream
          split <;> exact moved

/-- The run once a row of command `uid`, whose entry is `q`, is settled and stands in its command again. -/
def JobRun.rowSettled (r : JobRun) (j : Job) (uid : Nat) (q : QCmd) (w : Row) : JobRun :=
  let x := settleRow j r q.cmd.desc.w40.toNat w
  match x.1.findQ uid with
  | some q' => x.1.setQ (q'.setRow x.2)
  | none => x.1

theorem JobRun.rowSettled_line (r : JobRun) (j : Job) (uid : Nat) (q : QCmd) (w : Row) : (r.rowSettled j uid q w).line = r.line := by
  have settled := JobRun.line_of_plan (settleRow_plan j r q.cmd.desc.w40.toNat w)
  unfold JobRun.rowSettled
  dsimp only
  split <;> exact settled

/-- A row that its stream's order or the batch's extent keeps out changes nothing, and any other is settled. -/
theorem Forming.tryRow_run (f : Forming) (j : Job) (uid : Nat) (w : Row) :
    (f.tryRow j uid w).run = f.run ∨ ∃ q, (f.tryRow j uid w).run = f.run.rowSettled j uid q w := by
  unfold Forming.tryRow
  split
  · exact .inl rfl
  next q _ =>
    split
    · exact .inl rfl
    · split
      · exact .inl rfl
      · refine .inr ⟨q, ?_⟩
        dsimp only
        split
        · rfl
        · split <;> rfl

@[simp] theorem Forming.tryRow_line (f : Forming) (j : Job) (uid : Nat) (w : Row) : (f.tryRow j uid w).run.line = f.run.line := by
  obtain h | ⟨q, h⟩ := f.tryRow_run j uid w
  · rw [h]
  · rw [h, JobRun.rowSettled_line]

@[simp] theorem Forming.tryRows_line (f : Forming) (j : Job) (uid : Nat) (ws : List Row) :
    (f.tryRows j uid ws).run.line = f.run.line := by
  induction ws generalizing f with
  | nil => rfl
  | cons w ws ih => exact (ih _).trans (f.tryRow_line j uid w)

/-! ## The steps of forming a batch (R116) -/

@[simp] theorem Forming.carried_line (f : Forming) (j : Job) (qs : List QCmd) : (f.carried j qs).run.line = f.run.line := by
  induction qs generalizing f with
  | nil => rfl
  | cons q qs ih => exact (ih _).trans (f.tryRows_line j q.uid _)

@[simp] theorem Forming.further_line (f : Forming) (j : Job) (qs : List QCmd) : (f.further j qs).run.line = f.run.line := by
  induction qs generalizing f with
  | nil => rfl
  | cons q qs ih =>
    unfold Forming.further
    dsimp only
    split
    · exact (ih _).trans (f.tryRows_line j q.uid _)
    · rfl

@[simp] theorem Forming.steps_line (f : Forming) (j : Job) (qs : List QCmd) : (f.steps j qs).run.line = f.run.line := by
  cases qs with
  | nil => rfl
  | cons q qs => exact (Forming.further_line _ j qs).trans (f.tryRows_line j q.uid _)

@[simp] theorem Forming.addChunks_line (f : Forming) (j : Job) (qs : List QCmd) : (f.addChunks j qs).run.line = f.run.line := by
  induction qs generalizing f with
  | nil => rfl
  | cons q qs ih => exact (ih _).trans (f.tryRows_line j q.uid _)

@[simp] theorem settleFork_line (j : Job) (r : JobRun) (q : QCmd) (p parked : Nat) : (settleFork j r q p parked).line = r.line := by
  unfold settleFork
  extract_lets e n kids child need
  split
  · rfl
  · split <;> rfl

@[simp] theorem settleImport_line (j : Job) (r : JobRun) (q : QCmd) (n : Nat) : (settleImport j r q n).line = r.line := by
  unfold settleImport
  extract_lets d peer room tag
  split
  · rfl
  · split
    · rfl
    · extract_lets s need
      split <;> rfl

@[simp] theorem settleSwapOut_line (r : JobRun) (q : QCmd) (n : Nat) : (settleSwapOut r q n).line = r.line := by
  unfold settleSwapOut
  dsimp only
  split <;> rfl

@[simp] theorem settleRider_line (j : Job) (r : JobRun) (q : QCmd) : (settleRider j r q).line = r.line := by
  unfold settleRider
  extract_lets op unpark
  split
  · rfl
  next n gen _ _ =>
    split
    · rfl
    · extract_lets e was r₁ e₁
      split
      · rfl
      · have cleared : r₁.line = r.line := by
          unfold r₁
          split <;> rfl
        have moved := JobRun.line_of_plan (startMove_plan j r₁ n)
        generalize startMove j r₁ n = x at moved ⊢
        obtain ⟨r₂, started⟩ := x
        dsimp only at moved ⊢
        refine Eq.trans ?_ cleared
        split
        · split
          · rfl
          · split
            · rfl
            · exact settleImport_line j r₁ q n
        · split
          · split
            · exact settleSwapOut_line r₁ q n
            · rfl
          · split
            · split
              · split <;> exact moved
              · split <;> rfl
            · split
              · split <;> exact moved
              · split
                · rfl
                · split
                  · exact settleFork_line j r₁ q n was
                  · rfl

@[simp] theorem Forming.ride_line (f : Forming) (j : Job) (qs : List QCmd) : (f.ride j qs).run.line = f.run.line := by
  induction qs generalizing f with
  | nil => rfl
  | cons q qs ih =>
    unfold Forming.ride
    dsimp only
    split
    · exact (ih _).trans (settleRider_line j f.run q)
    · exact ih f

@[simp] theorem JobRun.settleCommand_line (r : JobRun) (uid : Nat) : (r.settleCommand uid).line = r.line := by
  unfold JobRun.settleCommand
  split
  · rfl
  · split <;> rfl

@[simp] theorem JobRun.finishDone_line (r : JobRun) (qs : List QCmd) : (r.finishDone qs).line = r.line := by
  induction qs generalizing r with
  | nil => rfl
  | cons q qs ih =>
    unfold JobRun.finishDone
    split
    · exact ih r
    · exact (ih _).trans (r.settleCommand_line q.uid)

/-! ## Publications of parameter groups (R225) -/

@[simp] theorem JobRun.applyFirst_line (r : JobRun) : r.applyFirst.line = r.line := by
  unfold JobRun.applyFirst
  split
  · rfl
  · split
    · rfl
    · split <;> rfl

@[simp] theorem JobRun.applyReady_line (r : JobRun) (fuel : Nat) : (r.applyReady fuel).line = r.line := by
  induction fuel generalizing r with
  | zero => rfl
  | succ n ih => exact (ih _).trans r.applyFirst_line

end Sys2Proof.Machine
end

section
/-! SUPPORT. The batch that the batcher forms, and that it stands behind those before it (R116, R225). -/

namespace Sys2Proof.Machine

/-! ## The batch that forms (R116) -/

/-- What steps 1 to 6 have gathered. -/
def gathered (j : Job) (r : JobRun) : Forming :=
  let f : Forming := { run := r }
  let f := if r.guarded then f.addChunks j ((r.waitingChunks.filter r.eligible).take 1) else f
  let f := f.carried j f.run.queue
  let f := f.steps j f.run.waitingSteps
  let f := f.addChunks j (f.run.waitingChunks.filter f.run.eligible)
  f.ride j f.run.queue

/-- The run with the commands finished all of whose rows have finished without being placed (R118). -/
def Forming.finished (f : Forming) : JobRun := f.run.finishDone f.run.queue

/-- The batch of what is gathered. -/
def Forming.batch (f : Forming) : Batch :=
  ({ id := f.finished.batchNext, rows := f.rows, unplaced := f.unplaced, riders := f.riders, pgt := f.finished.pgt } : Batch).fromDescs
    (f.contributors.map (·.cmd))

/-- What the descriptors give to a batch are its bases, the override and the oldest command alone (R81, R111, R202). -/
theorem Batch.fromDescs_keeps (b : Batch) (cs : List Cmd) : (b.fromDescs cs).id = b.id ∧ (b.fromDescs cs).rows = b.rows ∧
    (b.fromDescs cs).riders = b.riders ∧ (b.fromDescs cs).pgt = b.pgt := by
  cases cs <;> exact ⟨rfl, rfl, rfl, rfl⟩

theorem Forming.batch_keeps (f : Forming) : f.batch.id = f.finished.batchNext ∧ f.batch.rows = f.rows ∧
    f.batch.riders = f.riders ∧ f.batch.pgt = f.finished.pgt :=
  Batch.fromDescs_keeps _ _

theorem Forming.batch_oldest (f : Forming) : f.batch.oldest = (f.contributors.map (·.cmd)).head? := by
  unfold Forming.batch
  cases f.contributors.map (·.cmd) <;> rfl

theorem gathered_line (j : Job) (r : JobRun) : (gathered j r).run.line = r.line := by
  unfold gathered
  dsimp only
  rw [Forming.ride_line, Forming.addChunks_line, Forming.steps_line, Forming.carried_line]
  split
  · exact Forming.addChunks_line _ _ _
  · rfl

theorem Forming.finished_line (f : Forming) : f.finished.line = f.run.line := f.run.finishDone_line _

/-- Where nothing is gathered no batch forms; else the batch stands behind those before it. -/
theorem formBatch_cases (j : Job) (r : JobRun) :
    let f := gathered j r
    (f.rows = [] ∧ f.riders = [] ∧ formBatch j r = ({ f with run := f.finished }, none)) ∨
    ((f.rows ≠ [] ∨ f.riders ≠ []) ∧ ∃ run, formBatch j r = ({ f with run }, some f.batch) ∧
      run.line = (f.finished.batches ++ [f.batch], f.finished.batchNext + 1)) := by
  unfold formBatch
  extract_lets f waiting f₀ f₁ f₂ f₃ f₄ f₅ placed cs f₆ run b₀ b noChunk run'
  have same : f₅ = f := rfl
  clear_value f₅ f
  subst same
  by_cases h : (f₆.rows.isEmpty && f₆.riders.isEmpty) = true
  · have none : f₅.rows = [] ∧ f₅.riders = [] := by simpa [f₆] using h
    exact .inl ⟨none.1, none.2, if_pos h⟩
  · refine .inr ⟨by simpa [f₆, or_iff_not_imp_left] using h, _, if_neg h, ?_⟩
    split <;> rfl

/-- The run `r'` holds the batches of `r` and, behind them, the batch that has formed, if one has. -/
structure JobRun.Extends (r r' : JobRun) (b : Option Batch) : Prop where
  batches : r'.batches = r.batches ++ b.toList
  next : r'.batchNext = r.batchNext + b.toList.length
  formed : ∀ x ∈ b.toList, x.id = r.batchNext ∧ (x.rows ≠ [] ∨ x.riders ≠ [])

theorem JobRun.line_eq {r : JobRun} {bs : List Batch} {n : Nat} (h : r.line = (bs, n)) : r.batches = bs ∧ r.batchNext = n :=
  Prod.mk.injEq .. ▸ h

/-- Only the batches matter. -/
theorem JobRun.Extends.congr {r₀ r₁ r₂ r₃ : JobRun} {b : Option Batch} (h : r₁.Extends r₂ b) (hl : r₀.line = r₁.line)
    (hl' : r₃.line = r₂.line) : r₀.Extends r₃ b := by
  obtain ⟨hb, hn, hf⟩ := h
  obtain ⟨hb₀, hn₀⟩ := JobRun.line_eq hl
  obtain ⟨hb₃, hn₃⟩ := JobRun.line_eq hl'
  exact ⟨by rw [hb₃, hb, hb₀], by rw [hn₃, hn, hn₀], by rwa [hn₀]⟩

theorem JobRun.extends_self (r : JobRun) : r.Extends r none := ⟨by simp, by simp, by simp⟩

theorem formBatch_extends (j : Job) (r : JobRun) : r.Extends (formBatch j r).1.run (formBatch j r).2 := by
  have line : (gathered j r).finished.line = r.line := (Forming.finished_line _).trans (gathered_line j r)
  have outcome := formBatch_cases j r
  generalize gathered j r = f at line outcome
  obtain ⟨-, -, h⟩ | ⟨placed, run, h, hrun⟩ := outcome
  · rw [h]
    exact r.extends_self.congr rfl line
  · obtain ⟨hid, hrows, hriders, -⟩ := f.batch_keeps
    obtain ⟨hbatches, hnext⟩ := JobRun.line_eq line
    rw [hbatches, hnext] at hrun
    obtain ⟨hbatches', hnext'⟩ := JobRun.line_eq hrun
    rw [h]
    refine ⟨hbatches', hnext', fun x hx => ?_⟩
    obtain rfl : x = f.batch := by simpa using hx
    exact ⟨hid.trans hnext, by rwa [hrows, hriders]⟩

/-- The publications that are ready apply first, and the batch is of commands in front of the next one (R225). -/
theorem formNext_extends (j : Job) (r : JobRun) : r.Extends (formNext j r).1.run (formNext j r).2 := by
  have applied := r.applyReady_line r.queue.length
  unfold formNext
  generalize r.applyReady r.queue.length = r' at applied ⊢
  dsimp only
  have formed := formBatch_extends j { r' with queue := r'.beforePublication }
  generalize formBatch j { r' with queue := r'.beforePublication } = x at formed ⊢
  exact formed.congr applied.symm rfl

/-! ## Queues without publications -/

section
variable {r : JobRun} (h : ∀ q ∈ r.queue, q.publishes = false)
include h

theorem JobRun.applyReady_of_no_publication (fuel : Nat) : r.applyReady fuel = r := by
  have first : r.applyFirst = r := by
    have none : r.queue.dropWhile (fun q => !q.publishes) = [] := List.dropWhile_eq_nil_iff.mpr fun q hq => by simp [h q hq]
    rw [JobRun.applyFirst, none]
  induction fuel with
  | zero => rfl
  | succ n ih => rw [JobRun.applyReady, first, ih]

/-- With no publication in the queue all of it is before the next. -/
theorem formNext_of_no_publication (j : Job) : formNext j r = formBatch j r := by
  have all : r.beforePublication = r.queue := List.takeWhile_eq_self_iff.mpr fun q hq => by simp [h q hq]
  unfold formNext
  rw [JobRun.applyReady_of_no_publication h]
  simp [all]

end

/-- With nothing queued nothing forms, and the run stays as it is. -/
theorem formNext_of_empty (j : Job) {r : JobRun} (h : r.queue = []) : formNext j r = ({ run := r }, none) := by
  have nothing : gathered j r = { run := r } := by
    have steps : r.waitingSteps = [] := by simp [JobRun.waitingSteps, h]
    have chunks : r.waitingChunks = [] := by simp [JobRun.waitingChunks, h]
    simp [gathered, JobRun.guarded, steps, chunks, h, Forming.carried, Forming.steps, Forming.addChunks, Forming.ride]
  rw [formNext_of_no_publication (by simp [h])]
  obtain ⟨-, -, hf⟩ | ⟨placed, -⟩ := formBatch_cases j r
  · rw [hf, nothing, Forming.finished, h]
    rfl
  · simp [nothing] at placed

end Sys2Proof.Machine
end

section
/-! SUPPORT. A queue of one CHUNK that waits: what each step of forming does with it (R114, R116). -/

namespace Sys2Proof.Machine

/-! ## A queue of one CHUNK -/

/-- The queue holds one dispatched CHUNK, of one row. -/
structure JobRun.LoneChunk (r : JobRun) (q : QCmd) (w : Row) : Prop where
  queue : r.queue = [q]
  opcode : q.cmd.desc.opcode = 0x11
  dispatched : q.phase = 1
  rows : q.rows = [w]

section
variable {r : JobRun} {q : QCmd} {w : Row} (h : r.LoneChunk q w)
include h

theorem JobRun.LoneChunk.findQ : r.findQ q.uid = some q := by simp [JobRun.findQ, h.queue]

/-- Nothing stands before it. -/
theorem JobRun.LoneChunk.atHead (rows : List Row) (n : Nat) : r.atHead { q with rows } n = true := by
  simp [JobRun.atHead, h.queue]

theorem JobRun.LoneChunk.eligible : r.eligible q = true := by simp [JobRun.eligible, h.atHead]

theorem JobRun.LoneChunk.waitingSteps : r.waitingSteps = [] := by simp [JobRun.waitingSteps, h.queue, h.opcode]

theorem JobRun.LoneChunk.waitingChunks : r.waitingChunks.filter r.eligible = if w.phase = 0 then [q] else [] := by
  have waits : r.waitingChunks = if w.phase = 0 then [q] else [] := by
    simp [JobRun.waitingChunks, h.queue, h.opcode, h.dispatched, h.rows, List.filter_cons]
  rw [waits]
  split
  · simp [h.eligible]
  · rfl

/-- A command whose row has not finished is not done with (R118). -/
theorem JobRun.LoneChunk.finishDone (hw : w.phase ≠ 3) : r.finishDone r.queue = r := by
  simp [h.queue, JobRun.finishDone, JobRun.settleCommand, h.findQ, h.rows, hw]

end

section
variable {f : Forming} {q : QCmd} {w : Row} (h : f.run.LoneChunk q w)
include h

/-- It is held for no move. -/
theorem JobRun.LoneChunk.carried (j : Job) (hw : w.phase ≠ 1) : f.carried j f.run.queue = f := by
  simp [h.queue, Forming.carried, h.rows, hw, Forming.tryRows]

theorem JobRun.LoneChunk.steps (j : Job) : f.steps j f.run.waitingSteps = f := by
  rw [h.waitingSteps]
  rfl

theorem JobRun.LoneChunk.addChunks (j : Job) : f.addChunks j (f.run.waitingChunks.filter f.run.eligible) =
    if w.phase = 0 then f.tryRow j q.uid w else f := by
  rw [h.waitingChunks]
  split
  · simp [Forming.addChunks, h.rows, Forming.tryRows]
  · rfl

/-- It is no rider. -/
theorem JobRun.LoneChunk.ride (j : Job) : f.ride j f.run.queue = f := by
  simp [h.queue, Forming.ride, h.opcode]

end

/-! ## Its row is placed -/

/-- A row whose stream has a state block of its own and no pages needs nothing of the pool: it is placed (R120, R123). -/
theorem placeRow_ownBlock (j : Job) (r : JobRun) (w : Row) {e : Stream} (hkind : e.kind = 1) (hptr : e.statePtr ≠ 0)
    (hown : r.forked e = false) : (placeRow j r w e).2.phase = 2 ∧ (placeRow j r w e).2.ix = w.ix := by
  unfold placeRow
  extract_lets start free wantsBlock blockNeed cur park budget first last partly copy k₁ n need room window limits got
  have kept : start.hasPages = false := by
    have : start.kind = 1 := by
      unfold start
      split <;> exact hkind
    simp [Stream.hasPages, this]
  have owned : wantsBlock = false := by simp [wantsBlock, hptr, hown]
  have nothing : blockNeed = 0 := by simp [blockNeed, owned]
  have within : limits = true := by simp [limits, kept]
  have whole : got = some (start, 0) := by simp [got, kept]
  clear_value limits got blockNeed
  subst nothing within whole
  rw [if_neg (Nat.not_lt_zero _)]
  exact ⟨rfl, rfl⟩

/-- A CHUNK of a live stream in peat, with a state block of its own, that fits the extent. -/
structure Job.ChunkFits (j : Job) (r : JobRun) (q : QCmd) (w : Row) : Prop extends r.LoneChunk q w where
  waits : w.phase = 0
  advances : w.isOpen = false
  fits : w.tokens ≤ j.image.extent
  kind : (r.stream w.stream).kind = 1
  live : (r.stream w.stream).gen = w.gen
  resident : (r.stream w.stream).loc = .resident
  unparked : (r.stream w.stream).parked = 0
  block : (r.stream w.stream).statePtr ≠ 0
  own : r.forked (r.stream w.stream) = false

section
variable {j : Job} {r : JobRun} {q : QCmd} {w : Row} (h : j.ChunkFits r q w)
include h

theorem Job.ChunkFits.settleRow (tmpl : Nat) : settleRow j r tmpl w = placeRow j r w (r.stream w.stream) := by
  simp [Machine.settleRow, h.advances, h.kind, h.live, h.resident, h.unparked]

/-- The row takes its place in the batch, and nothing else of the queue or of the parameter groups changes. -/
theorem Job.ChunkFits.rowSettled : ∃ q' w', (r.rowSettled j q.uid q w).LoneChunk q' w' ∧ w'.phase = 2 ∧ q'.uid = q.uid ∧
    q'.cmd = q.cmd ∧ (r.rowSettled j q.uid q w).pgt = r.pgt := by
  obtain ⟨hphase, hix⟩ := placeRow_ownBlock j r w h.kind h.block h.own
  have plan := placeRow_plan j r w (r.stream w.stream)
  unfold JobRun.rowSettled
  rw [h.settleRow]
  generalize placeRow j r w (r.stream w.stream) = x at hphase hix plan ⊢
  obtain ⟨r', w'⟩ := x
  obtain ⟨hqueue, -, hpgt⟩ : r'.queue = r.queue ∧ r'.line = r.line ∧ r'.pgt = r.pgt := by simpa [JobRun.plan] using plan
  have found : r'.findQ q.uid = some q := by rw [JobRun.findQ, hqueue]; exact h.toLoneChunk.findQ
  dsimp only at hix ⊢
  rw [found]
  refine ⟨q.setRow w', w', ⟨?_, h.opcode, h.dispatched, ?_⟩, hphase, rfl, rfl, hpgt⟩
  · simp [JobRun.setQ, hqueue, h.queue, show (q.setRow w').uid = q.uid from rfl]
  · simp [QCmd.setRow, h.rows, hix]

theorem Job.ChunkFits.tryRow : ({ run := r } : Forming).tryRow j q.uid w =
    { run := r.rowSettled j q.uid q w, rows := [(q.uid, w.ix)], tokens := w.tokens, streams := [w.stream] } := by
  have placed : (Machine.settleRow j r q.cmd.desc.w40.toNat w).2.phase = 2 := by
    rw [h.settleRow]
    exact (placeRow_ownBlock j r w h.kind h.block h.own).1
  have found : ({ run := r } : Forming).run.findQ q.uid = some q := h.findQ
  have head : (!r.atHead { q with rows := [] } w.stream || [].contains w.stream) = false := by simp [h.atHead]
  have room : ¬ j.image.extent < 0 + w.tokens := by simpa using h.fits
  unfold Forming.tryRow JobRun.rowSettled
  rw [found]
  dsimp only
  rw [head, if_neg (by decide), if_neg room]
  generalize Machine.settleRow j r q.cmd.desc.w40.toNat w = x at placed ⊢
  obtain ⟨r', w'⟩ := x
  dsimp only at placed ⊢
  rw [if_pos placed, Nat.zero_add]
  rfl

/-- The batch is of this one row, whether the guard of step 5 places it or step 4 does. -/
theorem Job.ChunkFits.gathered : gathered j r =
    { run := r.rowSettled j q.uid q w, rows := [(q.uid, w.ix)], tokens := w.tokens, streams := [w.stream] } := by
  obtain ⟨q', w', lone, hphase, -⟩ := h.rowSettled
  have before : ({ run := r } : Forming).run.LoneChunk q w := h.toLoneChunk
  have placed := h.tryRow
  generalize ({ run := r.rowSettled j q.uid q w, rows := [(q.uid, w.ix)], tokens := w.tokens, streams := [w.stream] } : Forming) = g
    at placed ⊢
  have after : g.run.LoneChunk q' w' := by rw [← placed, h.tryRow]; exact lone
  have guard : ({ run := r } : Forming).addChunks j ((r.waitingChunks.filter r.eligible).take 1) = g := by
    rw [h.waitingChunks, if_pos h.waits, ← placed]
    simp [Forming.addChunks, h.rows, Forming.tryRows]
  unfold Machine.gathered
  dsimp only
  split
  · rw [guard, after.carried j (by simp [hphase]), after.steps, after.addChunks, if_neg (by simp [hphase]), after.ride]
  · rw [before.carried j (by simp [h.waits]), before.steps, before.addChunks, if_pos h.waits, placed, after.ride]

/-- The next batch is of the one row, under the parameter groups as they stand (R116, R225). -/
theorem Job.ChunkFits.formNext (hgo : q.go = false) : ∃ b, (formNext j r).2 = some b ∧ b.rows = [(q.uid, w.ix)] ∧
    b.riders = [] ∧ b.oldest = some q.cmd ∧ b.pgt = r.pgt := by
  have silent : ∀ x ∈ r.queue, x.publishes = false := by simp [h.queue, QCmd.publishes, hgo, h.opcode]
  obtain ⟨q', w', lone, hphase, huid, hcmd, hpgt⟩ := h.rowSettled
  rw [formNext_of_no_publication silent]
  have outcome := formBatch_cases j r
  rw [h.gathered] at outcome
  generalize r.rowSettled j q.uid q w = r' at lone hpgt outcome
  obtain ⟨none, -⟩ | ⟨-, run, hf, -⟩ := outcome
  · exact absurd none (List.cons_ne_nil _ _)
  · rw [hf]
    obtain ⟨-, hrows, hriders, hpgt'⟩ := Forming.batch_keeps
      { run := r', rows := [(q.uid, w.ix)], tokens := w.tokens, streams := [w.stream] }
    refine ⟨_, rfl, hrows, hriders, ?_, ?_⟩
    · rw [Forming.batch_oldest, Forming.contributors, lone.queue]
      simp [huid, hcmd]
    · rw [hpgt', Forming.finished, lone.finishDone (by simp [hphase]), hpgt]

end

end Sys2Proof.Machine
end

section
/-! O37: what the command that forms a batch does with what forms (R116, R174, R280, R345, R353, R354, R492). -/

namespace Sys2Proof.Machine

/-! ## The command -/

/-- The state once the run of slot `k` stands as settled: streams that begin a fetch ask for their bodies (R136). -/
def State.runSettled (s : State) (k : Nat) (r : JobRun) : State := (s.setJob k { s.job k with run := r }).startFetches k (s.job k).run

/-- The tallies of the second with one more batch, formed of run `old` and leaving run `r` (R344). -/
def Sched.tallied (d : Sched) (old r : JobRun) : Sched :=
  { d with
    batchesSec := d.batchesSec + 1, allBehind := d.allBehind && r.behind
    deferredSec := d.deferredSec + (if old.guarded then r.deferredRows else 0)
    guardSec := d.guardSec + (if old.guarded then 1 else 0) }

/-- The state once batch `b` of slot `k` has formed: it is journalled, its tail copies are made and its table traffic is charged (R174,
R280, R354). -/
def State.batchFormed (s : State) (k : Nat) (r : JobRun) (b : Batch) : State :=
  let s' := s.runSettled k r
  ((({ s'.setJob k ((s'.job k).note (.batch (r.parts b))) with sched := s'.sched.tallied (s.job k).run r } : State).tailCopies k
    (b.rows.flatMap r.copiesOf)).tableTraffic k b.rows)

/-- What the batcher does where batch `b` has formed, if one has, and run `r` is left: it stalls on a full journal (R354), waits for a
withheld page (R492), or lets the run stand. -/
def State.batchStep (s : State) (k : Nat) (r : JobRun) (b : Option Batch) : State :=
  if b.isSome && s.journalFull k then s.journalStall k
  else if (s.job k).readsWait ((b.toList.flatMap (·.rows)).flatMap r.copySources) then s
  else match b with
    | none => s.runSettled k r
    | some b => s.batchFormed k r b

section
variable {s : State} {k : Nat} (hreplay : s.health.replay = none) (hr : s.sched.running = some k)
include hreplay hr

theorem exec_batchForm_idle (h : s.sched.seekCommit ≠ none ∨ (s.job k).info.state ≠ .running) : exec .batchForm s = .next s := by
  have noReplay : s.replaying = none := by simp [State.replaying, hr, hreplay]
  change Host.Outcome.next s.formBatch = _
  unfold State.formBatch
  rw [noReplay]
  dsimp only
  split
  next hk hseek =>
    have hj : (s.job k).info.state = .running := by simpa [State.runningJob, hr] using congrArg Option.isSome hk
    exact absurd h (by simp [hseek, hj])
  next => rfl

variable (hseek : s.sched.seekCommit = none) (hj : (s.job k).info.state = .running)
include hseek hj

theorem exec_batchForm : exec .batchForm s =
    .next (s.batchStep k (formNext (s.job k) (s.job k).run).1.run (formNext (s.job k) (s.job k).run).2) := by
  have noReplay : s.replaying = none := by simp [State.replaying, hr, hreplay]
  change Host.Outcome.next s.formBatch = _
  unfold State.formBatch
  rw [noReplay, State.runningJob_of hr hj, hseek]
  dsimp only
  generalize formNext (s.job k) (s.job k).run = x
  obtain ⟨f, b⟩ := x
  cases b <;> rfl

end

theorem State.batchStep_none (s : State) (k : Nat) (r : JobRun) : s.batchStep k r none = s.runSettled k r := rfl

theorem State.batchStep_stalls {s : State} {k : Nat} (r : JobRun) {b : Option Batch} (hb : b.isSome = true) (hf : s.journalFull k = true) :
    s.batchStep k r b = s.journalStall k := if_pos (by simp [hb, hf])

theorem State.batchStep_waits {s : State} {k : Nat} {r : JobRun} {b : Batch} (hf : s.journalFull k = false)
    (hw : (s.job k).readsWait (b.rows.flatMap r.copySources) = true) : s.batchStep k r (some b) = s := by
  unfold State.batchStep
  rw [hf, if_neg (by simp)]
  exact if_pos (by simpa using hw)

theorem State.batchStep_forms {s : State} {k : Nat} {r : JobRun} {b : Batch} (hf : s.journalFull k = false)
    (hw : (s.job k).readsWait (b.rows.flatMap r.copySources) = false) : s.batchStep k r (some b) = s.batchFormed k r b := by
  unfold State.batchStep
  rw [hf, if_neg (by simp)]
  exact if_neg (by simpa using hw)

/-! ## What it leaves of the run -/

section
variable {s : State} {k : Nat} (hk : k < s.jobs.length)
include hk

@[simp] theorem State.runSettled_job (r : JobRun) : (s.runSettled k r).job k = { s.job k with run := r } :=
  (congrArg (fun js : List Job => js.getD k {}) (State.startFetches_jobs _ _ _) :).trans (s.setJob_job k _ hk)

/-- The accesses of a batch and its journal record leave the run's data. -/
theorem State.batchFormed_data (r : JobRun) (b : Batch) : ((s.batchFormed k r b).job k).run.data = r.data := by
  change (s.batchFormed k r b).runData k = _
  unfold State.batchFormed
  dsimp only
  rw [State.tableTraffic_runData, State.tailCopies_runData]
  refine (State.setJob_runData (s.runSettled k r) k k (((s.runSettled k r).job k).note (.batch (r.parts b))) rfl).trans ?_
  rw [State.runData, State.runSettled_job hk]

theorem State.batchFormed_line (r : JobRun) (b : Batch) : ((s.batchFormed k r b).job k).run.line = r.line :=
  (congrArg JobRun.line (State.batchFormed_data hk r b) :)

/-- The counted stall time is no batch. -/
theorem State.journalStall_line : ((s.journalStall k).job k).run.line = (s.job k).run.line := by
  have counted : (s.journalStall k).job k = { s.job k with
      run := { (s.job k).run with ctrJob := bump (s.job k).run.ctrJob 0x20 s.fresh.1 } } := s.fresh.2.setJob_job k _ hk
  rw [counted]
  rfl

end

/-- At most one batch is new, and it stands behind the others under the next number. -/
theorem JobRun.Extends.new {r r' : JobRun} {b : Option Batch} (h : r.Extends r' b) :
    ∃ new, r'.batches = r.batches ++ new ∧ new.length ≤ 1 ∧ r'.batchNext = r.batchNext + new.length ∧
      ∀ b ∈ new, b.id = r.batchNext ∧ (b.rows ≠ [] ∨ b.riders ≠ []) :=
  ⟨b.toList, h.batches, by cases b <;> simp, h.next, h.formed⟩

/-- Whatever the batcher does with what formed, at most one batch is new. -/
theorem State.batchStep_extends {s : State} {k : Nat} (hk : k < s.jobs.length) {r : JobRun} {b : Option Batch}
    (h : (s.job k).run.Extends r b) : ∃ b', (s.job k).run.Extends ((s.batchStep k r b).job k).run b' := by
  cases b with
  | none => exact ⟨none, h.congr rfl (by rw [State.batchStep_none, State.runSettled_job hk])⟩
  | some b =>
    cases hf : s.journalFull k with
    | true =>
      rw [State.batchStep_stalls r rfl hf]
      exact ⟨none, (JobRun.extends_self _).congr rfl (State.journalStall_line hk)⟩
    | false =>
      cases hw : (s.job k).readsWait (b.rows.flatMap r.copySources) with
      | true =>
        rw [State.batchStep_waits hf hw]
        exact ⟨none, JobRun.extends_self _⟩
      | false =>
        rw [State.batchStep_forms hf hw]
        exact ⟨some b, h.congr rfl (State.batchFormed_line hk r b)⟩

/-- Settles O37: the command is one branch by what forms, by the journal and by what is withheld; what forms stands behind the other
batches; and a CHUNK alone in the queue is placed by the first step that reaches it. -/
theorem batchForms : Obligations.BatchForms := by
  unfold Obligations.BatchForms
  intro s k hreplay hr
  have step := exec_batchForm hreplay hr
  refine ⟨fun hseek => exec_batchForm_idle hreplay hr (.inl hseek), fun hj => exec_batchForm_idle hreplay hr (.inr hj),
    fun hseek hj => ⟨fun hb => ?_, fun hb hf => ?_, fun b hb hf hw => ?_, fun b hb hf hw => ⟨_, ?_, rfl⟩⟩,
    fun hseek hj hk => ⟨_, step hseek hj, ?_, fun hq => ?_⟩,
    fun q w hlost hf hseek hj hk hq hop hphase hgo hrows hw hopen hext hkind hgen hloc hpark hptr hown => ?_⟩
  · rw [step hseek hj, hb]
    rfl
  · rw [step hseek hj, State.batchStep_stalls _ hb hf]
  · rw [step hseek hj, hb, State.batchStep_waits hf hw]
  · rw [step hseek hj, hb, State.batchStep_forms hf hw]
    rfl
  · obtain ⟨b, grows⟩ := State.batchStep_extends hk (formNext_extends (s.job k) (s.job k).run)
    exact grows.new
  · rw [formNext_of_empty (s.job k) hq, State.batchStep_none, State.runSettled_job hk]
  · have chunk : (s.job k).ChunkFits (s.job k).run q w :=
      { queue := hq, opcode := hop, dispatched := hphase, rows := hrows, waits := hw, advances := hopen, fits := hext
        kind := hkind, live := hgen, resident := hloc, unparked := hpark, block := hptr, own := hown }
    obtain ⟨b, hb, hbrows, hriders, holdest, hpgt⟩ := chunk.formNext hgo
    have formed := formNext_extends (s.job k) (s.job k).run
    rw [hb] at formed
    have formed' := formed.congr rfl (State.batchFormed_line hk _ b)
    have went : exec .batchForm s = .next (s.batchFormed k (formNext (s.job k) (s.job k).run).1.run b) := by
      rw [step hseek hj, hb, State.batchStep_forms hf (Job.readsWait_none hlost _)]
    generalize s.batchFormed k (formNext (s.job k) (s.job k).run).1.run b = t at formed' went
    obtain ⟨hbatches, -, hid⟩ := formed'
    exact ⟨t, b, went, hbatches, (hid b (List.mem_singleton_self b)).1, hbrows, hriders, holdest, hpgt⟩

end Sys2Proof.Machine
end

section
/-! SUPPORT. The words of a command program field by field (R200 to R204, R207, R216, R219, R357): each format reads back the fields that
it was written from, and firing's decoder reads an instruction of its format. -/

namespace Sys2Proof.Machine

/-! ## Fields of sums (R9) -/

/-- A field is not touched by what is added above it. -/
theorem nfld_below {lo len hi : Nat} (h : lo + len ≤ hi) (a b : Nat) : nfld (a + 2 ^ hi * b) lo len = nfld a lo len := by
  obtain ⟨d, rfl⟩ := Nat.exists_eq_add_of_le h
  have shift : a + 2 ^ (lo + len + d) * b = a + 2 ^ lo * (2 ^ len * (2 ^ d * b)) := by ring
  rw [nfld, nfld, shift, Nat.add_mul_div_left _ _ (Nat.two_pow_pos lo), Nat.add_mul_mod_self_left]

/-- A field that was added above the rest reads back. -/
theorem nfld_top {lo len a b : Nat} (ha : a < 2 ^ lo) (hb : b < 2 ^ len) : nfld (a + 2 ^ lo * b) lo len = b := by
  rw [nfld, Nat.add_mul_div_left _ _ (Nat.two_pow_pos lo), Nat.div_eq_of_lt ha, Nat.zero_add, Nat.mod_eq_of_lt hb]

/-- A single bit is a field of one bit. -/
theorem testBit_eq_nfld (w i : Nat) : w.testBit i = decide (nfld w i 1 = 1) := by
  rw [Nat.testBit_eq_decide_div_mod_eq]
  rfl

theorem b2n_lt (b : Bool) : b2n b < 2 ^ 1 := by cases b <;> decide

theorem decide_b2n (b : Bool) : decide (b2n b = 1) = b := by cases b <;> decide

/-! ## The formats -/

section
variable {op : Nat} (ho : op < 256)
include ho

theorem wordS_opcode (f : FmtS) : wordS op f % 256 = op := by
  unfold wordS
  omega

theorem wordC_opcode (f : FmtC) : wordC op f % 256 = op := by
  unfold wordC
  omega

theorem wordM_opcode (f : FmtM) : wordM op f % 256 = op := by
  unfold wordM
  omega

theorem wordA_opcode (f : FmtA) : wordA op f % 256 = op := by
  unfold wordA
  omega

theorem wordV_opcode (f : FmtV) : wordV op f % 256 = op := by
  unfold wordV
  omega

theorem wordB_opcode (f : FmtB) : wordB op f % 256 = op := by
  unfold wordB
  omega

theorem wordI_opcode (f : FmtI) : wordI op f % 256 = op := by
  unfold wordI
  omega

theorem fieldsS_wordS {f : FmtS} (hf : f.wf = true) : fieldsS (wordS op f) = f := by
  obtain ⟨rd, ra, rb, cond, imm⟩ := f
  have himm := imm.isLt
  simp only [FmtS.wf, fits, Bool.and_eq_true, decide_eq_true_eq] at hf
  simp (disch := omega) only [fieldsS, wordS, nfld_below, nfld_top, BitVec.ofNat_toNat, BitVec.setWidth_eq]

theorem fieldsC_wordC {f : FmtC} (hf : f.wf = true) : fieldsC (wordC op f) = f := by
  obtain ⟨reg, chan, imm⟩ := f
  have himm := imm.isLt
  simp only [FmtC.wf, fits, Bool.and_eq_true, decide_eq_true_eq] at hf
  simp (disch := omega) only [fieldsC, wordC, nfld_below, nfld_top, BitVec.ofNat_toNat, BitVec.setWidth_eq]

theorem fieldsM_wordM {f : FmtM} (hf : f.wf = true) : fieldsM (wordM op f) = f := by
  obtain ⟨ra, rb, rc, rd, sem, semb, imm⟩ := f
  have himm := imm.isLt
  simp only [FmtM.wf, fits, Bool.and_eq_true, decide_eq_true_eq] at hf
  simp (disch := omega) only [fieldsM, wordM, nfld_below, nfld_top, BitVec.ofNat_toNat, BitVec.setWidth_eq]

theorem fieldsA_wordA {f : FmtA} (hf : f.wf = true) : fieldsA (wordA op f) = f := by
  obtain ⟨prec, span, ctrl, operand⟩ := f
  have hprec := prec.isLt
  simp only [FmtA.wf, fits, Bool.and_eq_true, decide_eq_true_eq] at hf
  simp (disch := omega) only [fieldsA, wordA, nfld_below, nfld_top, BitVec.ofNat_toNat, BitVec.setWidth_eq]

theorem fieldsV_wordV {f : FmtV} (hf : f.wf = true) : fieldsV (wordV op f) = f := by
  obtain ⟨imm, aux, creg, rowlen, pgt, minv, masked, mreg, src3, src2, src1, dst, count, bcast, type⟩ := f
  have himm := imm.isLt
  have hpgt := b2n_lt pgt
  have hminv := b2n_lt minv
  have hmasked := b2n_lt masked
  simp only [FmtV.wf, fits, Bool.and_eq_true, decide_eq_true_eq] at hf
  simp (disch := omega) only [fieldsV, wordV, testBit_eq_nfld, nfld_below, nfld_top, decide_b2n, BitVec.ofNat_toNat,
    BitVec.setWidth_eq]

theorem fieldsB_wordB {f : FmtB} (hf : f.wf = true) : fieldsB (wordB op f) = f := by
  obtain ⟨rowbytes, hint, creg, stride, minv, masked, mreg, rows, base, idx, data, count, idx64, type⟩ := f
  have hidx := b2n_lt idx64
  have hminv := b2n_lt minv
  have hmasked := b2n_lt masked
  simp only [FmtB.wf, fits, Bool.and_eq_true, decide_eq_true_eq] at hf
  simp (disch := omega) only [fieldsB, wordB, testBit_eq_nfld, nfld_below, nfld_top, decide_b2n]

theorem fieldsI_wordI {f : FmtI} (hf : f.wf = true) : fieldsI (wordI op f) = f := by
  obtain ⟨pneg, notify, res, pred, caddr, desc, cmd⟩ := f
  have hnotify := b2n_lt notify
  have hpneg := b2n_lt pneg
  simp only [FmtI.wf, fits, Bool.and_eq_true, decide_eq_true_eq] at hf
  simp (disch := omega) only [fieldsI, wordI, testBit_eq_nfld, nfld_below, nfld_top, decide_b2n]

end

/-! ## The decoder (R200) -/

theorem decodeInsn_low {n w op : Nat} (hw : w % 256 = op) (h : op < 0x20) : decodeInsn n w = decodeLow n w op := by
  unfold decodeInsn
  dsimp only
  rw [hw, if_pos h]

theorem decodeInsn_vec {n w op : Nat} (hw : w % 256 = op) (hl : 0x40 ≤ op) (hh : op < 0x90) :
    decodeInsn n w = decodeVec n w op := by
  unfold decodeInsn
  dsimp only
  rw [hw, if_neg (by omega), if_pos (by simp [hl, hh])]

theorem decodeInsn_mid {n w op : Nat} (hw : w % 256 = op) (h : 0x20 ≤ op ∧ op < 0x40 ∨ 0x90 ≤ op) :
    decodeInsn n w = decodeMid n w op := by
  unfold decodeInsn
  dsimp only
  rw [hw, if_neg (by omega), if_neg (by simp; omega)]

/-- A word with no bit outside its fields, whose fields are within their values, is given. -/
theorem given_self {w : Nat} {ok : Bool} (h : ok = true) (i : Instr) : given w w ok i = some i := by simp [given, h]

end Sys2Proof.Machine
end

section
/-! O7: an instruction of a command program is what the decoder reads in its word (R199 to R204, R207, R216, R219, R357). -/

namespace Sys2Proof.Machine

/-- A word whose arm of the decoder reads the fields of its format, and whose format gives its fields back, is its instruction's. -/
theorem decode_encode {α : Type} {m n op w : Nat} {f : α} {word : α → Nat} {fields : Nat → α} {wf ok : α → Bool} {mk : α → Instr}
    (arm : ∀ w, w % 256 = op → decodeInsn m w = given w (word (fields w)) (ok (fields w)) (mk (fields w)))
    (opcode : word f % 256 = op) (back : wf f = true → fields (word f) = f)
    (h : some (m, word f, wf f && ok f) = some (n, w, true)) : decodeInsn n w = some (mk f) := by
  simp only [Option.some.injEq, Prod.mk.injEq, Bool.and_eq_true] at h
  obtain ⟨rfl, rfl, hf, hok⟩ := h
  rw [arm _ opcode, back hf, given_self hok]

section
variable {m n op w : Nat}

theorem decode_scalar {f : FmtS} {mk : FmtS → Instr}
    (arm : ∀ w, decodeLow m w op = given w (wordS op (fieldsS w)) (okS op (fieldsS w)) (mk (fieldsS w))) (ho : op < 0x20)
    (h : some (m, wordS op f, f.wf && okS op f) = some (n, w, true)) : decodeInsn n w = some (mk f) :=
  decode_encode (fun w hw => (decodeInsn_low hw ho).trans (arm w)) (wordS_opcode (by omega) f) (fieldsS_wordS (by omega)) h

theorem decode_channel {f : FmtC} {mk : FmtC → Instr}
    (arm : ∀ w, decodeLow m w op = given w (wordC op (fieldsC w)) true (mk (fieldsC w))) (ho : op < 0x20)
    (h : some (m, wordC op f, f.wf) = some (n, w, true)) : decodeInsn n w = some (mk f) :=
  decode_encode (ok := fun _ => true) (fun w hw => (decodeInsn_low hw ho).trans (arm w)) (wordC_opcode (by omega) f)
    (fieldsC_wordC (by omega)) ((Bool.and_true f.wf).symm ▸ h)

theorem decode_semaphore {f : FmtM} {mk : FmtM → Instr}
    (arm : ∀ w, decodeLow m w op = given w (wordM op (fieldsM w)) (okM op (fieldsM w)) (mk (fieldsM w))) (ho : op < 0x20)
    (h : some (m, wordM op f, f.wf && okM op f) = some (n, w, true)) : decodeInsn n w = some (mk f) :=
  decode_encode (fun w hw => (decodeInsn_low hw ho).trans (arm w)) (wordM_opcode (by omega) f) (fieldsM_wordM (by omega)) h

theorem decode_array {f : FmtA} {mk : FmtA → Instr}
    (arm : ∀ w, decodeMid m w op = given w (wordA op (fieldsA w)) (okA op (fieldsA w)) (mk (fieldsA w)))
    (ho : 0x20 ≤ op ∧ op < 0x40) (h : some (m, wordA op f, f.wf && okA op f) = some (n, w, true)) :
    decodeInsn n w = some (mk f) :=
  decode_encode (fun w hw => (decodeInsn_mid hw (.inl ho)).trans (arm w)) (wordA_opcode (by omega) f)
    (fieldsA_wordA (by omega)) h

theorem decode_vector {f : FmtV} {mk : FmtV → Instr}
    (arm : ∀ w, decodeVec m w op = given w (wordV op (fieldsV w)) (okV op (fieldsV w)) (mk (fieldsV w)))
    (ho : 0x40 ≤ op ∧ op < 0x90) (h : some (m, wordV op f, f.wf && okV op f) = some (n, w, true)) :
    decodeInsn n w = some (mk f) :=
  decode_encode (fun w hw => (decodeInsn_vec hw ho.1 ho.2).trans (arm w)) (wordV_opcode (by omega) f)
    (fieldsV_wordV (by omega)) h

theorem decode_browse {f : FmtB} {mk : FmtB → Instr}
    (arm : ∀ w, decodeMid m w op = given w (wordB op (fieldsB w)) (okB op (fieldsB w)) (mk (fieldsB w)))
    (ho : 0x90 ≤ op ∧ op < 0xA0) (h : some (m, wordB op f, f.wf && okB op f) = some (n, w, true)) :
    decodeInsn n w = some (mk f) :=
  decode_encode (fun w hw => (decodeInsn_mid hw (.inr ho.1)).trans (arm w)) (wordB_opcode (by omega) f)
    (fieldsB_wordB (by omega)) h

theorem decode_issue {f : FmtI}
    (h : some (m, wordI 0xA0 f, f.wf && (f.cmd == 0x10 || f.cmd == 0x12 || f.cmd == 0x13)) = some (n, w, true)) :
    decodeInsn n w = some (.issue m f) :=
  decode_encode (ok := fun f => f.cmd == 0x10 || f.cmd == 0x12 || f.cmd == 0x13) (mk := fun f => .issue m f)
    (fun _ hw => (decodeInsn_mid hw (by decide)).trans rfl) (wordI_opcode (by decide) f) (fieldsI_wordI (by decide)) h

end

/-- Settles O7: an instruction of a command program is read by the arm of its opcode, in the fields of its format. -/
theorem programWordsRoundTrip : Obligations.ProgramWordsRoundTrip := by
  unfold Obligations.ProgramWordsRoundTrip
  intro i n w h
  cases i with
  | sli m f | sadd m f | smul m f | sand m f | sshr m f | scmp m f | sld m f | sst m f | spg m f | br m f | next m f =>
    exact decode_scalar (fun _ => rfl) (by decide) h
  | send m f | recv m f | free m f => exact decode_channel (fun _ => rfl) (by decide) h
  | signal m f | wait m f | sread m f | sset m f | rpass m f => exact decode_semaphore (fun _ => rfl) (by decide) h
  | matmul m f | qk m f | pv m f | append m f | conv m f | fconv m f | scan m f =>
    exact decode_array (fun _ => rfl) (by decide) h
  | vadd m f | vsub m f | vmul m f | vfma m f | vfnma m f | vmax m f | vmin m f | vabs m f | vneg m f | vand m f | vor m f
  | vxor m f | vshl m f | vshr m f | vdiv m f | vsqrt m f | vrsqrt m f | vrecip m f | vexp m f | vlog m f | vcmp m f
  | vsel m f | vcvt m f | vrand m f | vsum m f | vrmax m f | vrmin m f | vld m f | vst m f | vcopy m f | vfft m f
  | vtopk m f | pool m f => exact decode_vector (fun _ => rfl) (by decide) h
  | bgather m f | bscatter m f | bscatadd m f => exact decode_browse (fun _ => rfl) (by decide) h
  | issue m f => exact decode_issue h
  | _ => exact nomatch h

end Sys2Proof.Machine
end

section
/-! SUPPORT. How scalar and control instructions retire (R199, R202), and what a program error leaves of its job (R230, R350, R366). -/

namespace Sys2Proof.Machine

/-! ## Registers (R199) -/

@[simp] theorem Core.reg_zero (c : Core) : c.reg 0 = 0 := rfl

@[simp] theorem Core.setReg_zero (c : Core) (v : W64) : c.setReg 0 v = c := rfl

/-- A core that takes a batch is at the instruction after its NEXT. -/
theorem Core.take_eq (c : Core) (rd : Nat) (b : Batch) : c.take rd b =
    { (((c.setReg rd (BitVec.ofNat 64 b.rows.length)).setReg (rd + 1) b.inBase).setReg (rd + 2) b.outBase) with
      wait := .run, insn := c.insn + 1, batch := some b.id, seen := b.id + 1 } := by
  simp [Core.take]

theorem Core.setReg_reg_same (c : Core) {r : Nat} (v : W64) (h0 : r ≠ 0) (hr : r < 32) : (c.setReg r v).reg r = v := by
  have hlen : r < (c.sregs ++ List.replicate (32 - c.sregs.length) 0).length := by
    rw [List.length_append, List.length_replicate]
    omega
  rw [Core.setReg, if_neg h0, Core.reg, if_neg h0, List.getD_eq_getElem?_getD, List.getElem?_set_self hlen, Option.getD_some]

/-- A register that has no place yet reads 0, as does one just made room for. -/
theorem getD_append_zeros (xs : List W64) (m q : Nat) : (xs ++ List.replicate m 0).getD q 0 = xs.getD q 0 := by
  by_cases hq : q < xs.length
  · exact List.getD_append _ _ _ _ hq
  · have hq : xs.length ≤ q := Nat.le_of_not_lt hq
    rw [List.getD_append_right _ _ _ _ hq, List.getD_eq_default _ _ hq, List.getD_eq_getElem?_getD,
      List.getElem?_getD_replicate_default_eq]

theorem Core.setReg_reg_ne (c : Core) {r q : Nat} (v : W64) (h : q ≠ r) : (c.setReg r v).reg q = c.reg q := by
  unfold Core.setReg
  split
  · rfl
  · unfold Core.reg
    split
    · rfl
    · rw [List.getD_eq_getElem?_getD, List.getElem?_set_ne (Ne.symm h), ← List.getD_eq_getElem?_getD, getD_append_zeros]

/-! ## Retiring -/

section
variable {s : State} {n k : Nat} {f : FmtS} (hn : n < 512) (hf : fmtSOk f = true)
include hn hf

/-- A scalar instruction of a core that the P6 has. -/
theorem checked_scalar (t : State) : checked s (coreOk n && fmtSOk f) t = .next t :=
  checked_of s _ _ (by simp [coreOk, hn, hf])

/-- An instruction whose effect is on its own core only. -/
theorem scalar_retires {w : Nat} {effect : Job → Core → Effect} {core : Core} {next : Option Nat} (h : s.atInsn n k w)
    (e : effect (s.job k) (s.coreOf k n) = .done { job := s.job k, core, next }) :
    checked s (coreOk n && fmtSOk f) (s.retire n w effect) =
      .next (s.setCore k n (core.stepped (next.getD (core.insn + 1)))) := by
  rw [checked_scalar hn hf]
  exact congrArg _ (State.retire_plain h e rfl rfl rfl rfl rfl rfl)

theorem scalar_stops {w : Nat} {effect : Job → Core → Effect} {p : Problem} (h : s.atInsn n k w)
    (e : effect (s.job k) (s.coreOf k n) = .stop p) :
    checked s (coreOk n && fmtSOk f) (s.retire n w effect) = .next (s.stopCore k n p) := by
  rw [checked_scalar hn hf, State.retire, State.retireThen_stop h e]

/-- An instruction that writes RD. -/
theorem scalar_writes {w : Nat} {v : Job → Core → W64} (h : s.atInsn n k w) :
    checked s (coreOk n && fmtSOk f) (s.retire n w (scalar f.rd v)) = .next (s.setCore k n
      (((s.coreOf k n).setReg f.rd (v (s.job k) (s.coreOf k n))).stepped ((s.coreOf k n).insn + 1))) := by
  rw [scalar_retires hn hf h (effect := scalar f.rd v) rfl, Option.getD_none, Core.setReg_insn]

end

/-! ## SLD and SST (R202, R230) -/

section
variable {n : Nat} {f : FmtS} {j : Job} {c : Core}

/-- An address off 8 B or outside the scratchpad. -/
theorem scalarAddr_bad : (scalarAddr f c % 8 ≠ 0 || !inScratch (scalarAddr f c) 8) = true ↔
    ¬ (scalarAddr f c % 8 = 0 ∧ scalarAddr f c + 8 ≤ 6291456) := by
  simp [inScratch, scratchSize]
  omega

theorem effectSld_fits (h : scalarAddr f c % 8 = 0 ∧ scalarAddr f c + 8 ≤ 6291456) : effectSld f j c =
    .done { job := j, core := c.setReg f.rd (BitVec.ofNat 64 (memWord c.scratch (scalarAddr f c) 8)) } :=
  if_neg fun hb => scalarAddr_bad.mp hb h

theorem effectSld_faults (h : ¬ (scalarAddr f c % 8 = 0 ∧ scalarAddr f c + 8 ≤ 6291456)) :
    effectSld f j c = .stop (.lane 0 (scalarAddr f c)) := if_pos (scalarAddr_bad.mpr h)

theorem effectSst_fits (h : scalarAddr f c % 8 = 0 ∧ scalarAddr f c + 8 ≤ 6291456)
    (hp : (j.image.sec n).inProgram (scalarAddr f c) 8 = false) : effectSst n f j c =
    .done { job := j, core := { c with scratch := memWrite c.scratch (scalarAddr f c) (leBytes 8 (c.reg f.rb).toNat) } } := by
  refine if_neg ?_
  rw [hp, Bool.or_false]
  exact fun hb => scalarAddr_bad.mp hb h

theorem effectSst_faults (h : ¬ ((scalarAddr f c % 8 = 0 ∧ scalarAddr f c + 8 ≤ 6291456) ∧
    (j.image.sec n).inProgram (scalarAddr f c) 8 = false)) : effectSst n f j c = .stop (.lane 0 (scalarAddr f c)) := by
  refine if_pos ?_
  rw [Bool.or_eq_true, scalarAddr_bad]
  by_cases fits : scalarAddr f c % 8 = 0 ∧ scalarAddr f c + 8 ≤ 6291456
  · exact .inr (by simpa [fits] using h)
  · exact .inl fits

end

/-! ## Program errors (R230, R350, R366) -/

@[simp] theorem JobRun.meet_cores (r : JobRun) (b : Option Batch) (status : Nat) : (r.meet b status).cores = r.cores := by
  unfold JobRun.meet
  split
  · rfl
  · split <;> rfl

@[simp] theorem JobRun.meet_core (r : JobRun) (b : Option Batch) (status n : Nat) : (r.meet b status).core n = r.core n := by
  rw [JobRun.core, JobRun.meet_cores, JobRun.core]

@[simp] theorem JobRun.meet_mem (r : JobRun) (b : Option Batch) (status : Nat) : (r.meet b status).mem = r.mem := by
  unfold JobRun.meet
  split
  · rfl
  · split <;> rfl

@[simp] theorem State.coarseOff_jobs (s : State) : s.coarseOff.jobs = s.jobs := by
  unfold State.coarseOff
  split <;> rfl

/-- Adding up the RUNNING time is in the job's registers. -/
theorem State.tallyRun_job {s : State} {k : Nat} (h : k < s.jobs.length) :
    (s.tallyRun k).jobs.length = s.jobs.length ∧ ∃ i, (s.tallyRun k).job k = { s.job k with info := i } := by
  unfold State.tallyRun
  split
  · exact ⟨rfl, _, rfl⟩
  · exact ⟨List.length_set, _, State.setJob_job _ _ _ h⟩

/-- A pause that begins is in the job's registers. -/
theorem State.beginPause_job {s : State} {k : Nat} (h : k < s.jobs.length) (p : Pausing) :
    ∃ i : JobInfo, i.state = .pausing ∧ (s.beginPause k p).job k = { s.job k with info := i } := by
  obtain ⟨hlen, i, hi⟩ := State.tallyRun_job h
  have hk : k < (s.tallyRun k).coarseOff.jobs.length := by rwa [State.coarseOff_jobs, hlen]
  have same : (s.tallyRun k).coarseOff.job k = { s.job k with info := i } := by
    rw [State.job, State.coarseOff_jobs]
    exact hi
  refine ⟨{ ((s.tallyRun k).coarseOff.job k).info with state := .pausing }, rfl, (State.setInfo_job _ k _ hk).trans ?_⟩
  rw [same]

/-- A lane fault leaves its record, and of its core all but the wait and the command in progress. -/
theorem State.stopCore_job {s : State} {k n l a : Nat} (h : k < s.jobs.length) (hp : s.sched.pausing = none) :
    ∃ (i : JobInfo) (b : Option Batch), i.state = .pausing ∧ (s.stopCore k n (.lane l a)).job k =
      { s.job k with
        info := i, fault := some { core := n, insn := (s.coreOf k n).insn, lane := l, addr := a }
        run := ((s.job k).run.setCore n { s.coreOf k n with wait := .run, inCmd := false, arrived := [], misses := [] }).meet b
          0x0204 } := by
  unfold State.stopCore State.programError
  extract_lets j c b tag fault r s'
  have none' : s'.sched.pausing = none := hp
  rw [none']
  have hk : k < s'.jobs.length := by simpa [s', State.setJob] using h
  obtain ⟨i, hi, hj⟩ := State.beginPause_job hk
    { forced := true, cause := 5, yields := false, bounded := false, cmds := [], status := 0x0204, tag }
  refine ⟨i, b, hi, hj.trans ?_⟩
  rw [State.setJob_job _ _ _ h]
  rfl

theorem State.stopCore_pausing {s : State} (k n l a : Nat) (hp : s.sched.pausing = none) :
    ∃ p, (s.stopCore k n (.lane l a)).sched.pausing = some p ∧ p.forced = true ∧ p.cause = 5 ∧ p.status = 0x0204 := by
  unfold State.stopCore State.programError
  extract_lets j c b tag fault r s'
  have none' : s'.sched.pausing = none := hp
  rw [none']
  exact ⟨_, rfl, rfl, rfl, rfl⟩

end Sys2Proof.Machine
end

section
/-! O8, O9, O10: the scalar and control instructions (R199, R202, R225, R230, R444). -/

namespace Sys2Proof.Machine

/-- Settles O8: each scalar instruction writes RD, and a register written reads back. -/
theorem scalarResults : Obligations.ScalarResults := by
  unfold Obligations.ScalarResults
  refine ⟨fun c v r q hr hq => ⟨?_, by simp⟩, fun n k f s hn hf => ⟨scalar_writes hn hf, scalar_writes hn hf,
    scalar_writes hn hf, scalar_writes hn hf, scalar_writes hn hf, scalar_writes hn hf⟩⟩
  split
  next h0 => rw [h0, Core.reg_zero]
  next h0 =>
    split
    next hqr => exact hqr ▸ c.setReg_reg_same v (hqr ▸ h0) (hqr ▸ hq)
    next hqr => exact c.setReg_reg_ne v hqr

/-- Settles O9: SLD and SST by whether their address fits, and what the fault of a lane leaves. -/
theorem scalarMemoryAndFaults : Obligations.ScalarMemoryAndFaults := by
  unfold Obligations.ScalarMemoryAndFaults
  refine ⟨fun n k f s hn hf => ⟨fun h fits => ?_, fun h fits clear => ?_, fun h bad => ?_, fun h bad => ?_⟩,
    fun s k n l a hk hp => ?_⟩
  · refine (scalar_retires hn hf h (effectSld_fits fits)).trans ?_
    rw [Option.getD_none, Core.setReg_insn]
    rfl
  · exact scalar_retires hn hf h (effectSst_fits fits clear)
  · exact scalar_stops hn hf h (effectSld_faults bad)
  · exact scalar_stops hn hf h (effectSst_faults bad)
  · obtain ⟨i, b, hi, hj⟩ := State.stopCore_job (n := n) (l := l) (a := a) hk hp
    refine ⟨?_, ?_, State.stopCore_pausing k n l a hp, ?_⟩
    · rw [hj]
    · rw [hj]
      exact hi
    · rw [State.coreOf, hj]
      simp only [JobRun.meet_core, JobRun.setCore_core, JobRun.meet_mem, true_and]
      rfl

/-- Settles O10: SPG writes RD, BR goes on at its target or after itself, and NEXT waits for the batch that its core then takes. -/
theorem parametersBranchesAndNext : Obligations.ParametersBranchesAndNext := by
  unfold Obligations.ParametersBranchesAndNext
  intro n k f s hn hf c j g
  refine ⟨fun h => ?_, fun h => ?_, fun h => ?_, fun rd b hw hwait hb hserves => ?_⟩
  · have word : (j.groupWord n c g f.cond).setWidth 64 = if g < j.image.groupCount (n / 16) then
        (NMap.getD (j.run.tables c) (pgtIndex (n / 16) g f.cond) 0).setWidth 64 else 0 := by
      unfold Job.groupWord
      split <;> rfl
    rw [← word]
    exact scalar_writes hn hf h
  · refine (scalar_retires hn hf h (effect := effectBr f) rfl).trans ?_
    cases condHolds f.cond (c.reg f.ra) (c.reg f.rb)
    · rfl
    · simp [fld, nfld, c]
  · refine ⟨_, checked_scalar hn hf _, fun hk => ?_⟩
    rw [State.retire, State.retireThen_wait h rfl, State.cooled_plain (by simp) (by simp), State.coreOf,
      State.setJob_job _ _ _ hk, JobRun.setCore_core]
    exact congrArg (fun x : Core => { x with wait := .next f.rd, inCmd := false }) (JobRun.setCore_core _ _ _)
  · refine (checked_of s _ _ (decide_eq_true hn)).trans (congrArg _ ?_)
    rw [hw, ← Core.take_eq]
    dsimp only
    split
    next rd' b' hwait' hb' =>
      cases hwait.symm.trans hwait'
      cases hb.symm.trans hb'
      exact if_pos hserves
    next other => exact (other rd b hwait hb).elim

end Sys2Proof.Machine
end

section
/-! O11: the channel instructions (R203). -/

namespace Sys2Proof.Machine

/-! ## What each comes to -/

section
variable {f : FmtC} {j : Job} {c : Core} (ha : (c.reg f.reg).toNat + f.imm.toNat ≤ 6291456)
include ha

theorem send_inScratch : ¬ (!inScratch (c.reg f.reg).toNat f.imm.toNat) = true := by
  simp [inScratch, scratchSize, ha]

theorem effectSend_goes (hc : (j.image.chanE f.chan).slotsOf f.imm.toNat ≤ (j.run.chan f.chan).credits) : effectSend f j c =
    let x := j.run.chan f.chan
    let e := j.image.chanE f.chan
    let k := e.slotsOf f.imm.toNat
    .done { core := c, job := { j with run := j.run.setChan f.chan { x with
      credits := x.credits - k, nextSlot := (x.nextSlot + k) % e.depth
      transfers := x.transfers ++ [{ slot := x.nextSlot, slots := k, data := memRead c.scratch (c.reg f.reg).toNat f.imm.toNat
                                     arrived := false, recved := false }] } } } :=
  (if_neg (send_inScratch ha)).trans (if_neg (Nat.not_lt.mpr hc))

theorem effectSend_waits (hc : (j.run.chan f.chan).credits < (j.image.chanE f.chan).slotsOf f.imm.toNat) :
    effectSend f j c = .wait (.send f.chan) j :=
  (if_neg (send_inScratch ha)).trans (if_pos hc)

end

/-- The first element that fails what all before it meet. -/
theorem findIdx_first {α : Type} {p : α → Bool} {old rest : List α} {t : α} (ho : ∀ o ∈ old, p o = false) (ht : p t = true) :
    (old ++ t :: rest).findIdx p = old.length := by
  rw [List.findIdx_append, List.findIdx_eq_length.mpr ho, if_neg (Nat.lt_irrefl _), List.findIdx_cons, ht]
  exact Nat.zero_add _

section
variable {n ch reg : Nat} {j : Job} {c : Core}

/-- The oldest transfer not yet returned has arrived. -/
theorem recvOne_arrived {old rest : List Transfer} {t : Transfer} (hx : (j.run.chan ch).transfers = old ++ t :: rest)
    (ho : ∀ o ∈ old, o.recved = true) (ht : t.recved = false) (ha : t.arrived = true) : recvOne j c n ch reg =
    some ({ j with run := j.run.setChan ch { j.run.chan ch with transfers := old ++ { t with recved := true } :: rest } },
      c.setReg reg (BitVec.ofNat 64
        ((((j.image.sec n).chanRegion ch).map (·.off)).getD 0 + t.slot * (j.image.chanE ch).slotBytes))) := by
  have first : (old ++ t :: rest).findIdx (fun t => !t.recved) = old.length :=
    findIdx_first (fun o h => by simp [ho o h]) (by simp [ht])
  simp [recvOne, hx, first, ha]

/-- Every transfer has been returned. -/
theorem recvOne_none (h : ∀ o ∈ (j.run.chan ch).transfers, o.recved = true) : recvOne j c n ch reg = none := by
  have first : (j.run.chan ch).transfers.findIdx (fun t => !t.recved) = (j.run.chan ch).transfers.length :=
    List.findIdx_eq_length.mpr fun o ho => by simp [h o ho]
  simp [recvOne, first]

end

section
variable {n : Nat} {f : FmtC} {j : Job} {c : Core}

theorem effectRecv_arrived {old rest : List Transfer} {t : Transfer} (hx : (j.run.chan f.chan).transfers = old ++ t :: rest)
    (ho : ∀ o ∈ old, o.recved = true) (ht : t.recved = false) (ha : t.arrived = true) : effectRecv n f j c = .done {
      job := { j with
        run := j.run.setChan f.chan { j.run.chan f.chan with transfers := old ++ { t with recved := true } :: rest } }
      core := c.setReg f.reg (BitVec.ofNat 64
        ((((j.image.sec n).chanRegion f.chan).map (·.off)).getD 0 + t.slot * (j.image.chanE f.chan).slotBytes)) } := by
  rw [effectRecv, recvOne_arrived hx ho ht ha]

theorem effectRecv_waits (h : ∀ o ∈ (j.run.chan f.chan).transfers, o.recved = true) :
    effectRecv n f j c = .wait (.recv f.chan f.reg) j := by
  rw [effectRecv, recvOne_none h]

theorem effectFree_returned {t : Transfer} {rest : List Transfer} (hx : (j.run.chan f.chan).transfers = t :: rest)
    (ht : t.recved = true) : effectFree f j c = .done {
      job := { j with run := j.run.setChan f.chan { j.run.chan f.chan with
        transfers := rest, returning := (j.run.chan f.chan).returning ++ [t.slots] } }
      core := c } := by
  unfold effectFree
  dsimp only
  rw [hx]
  exact if_pos ht

theorem effectFree_nothing (hx : (j.run.chan f.chan).transfers = []) : effectFree f j c = .stop (.lane 0 f.chan) := by
  unfold effectFree
  dsimp only
  rw [hx]

end

/-! ## Retiring -/

section
variable {s : State} {n k w : Nat} {f : FmtC} (hn : n < 512) (hf : fmtCOk f = true) (h : s.atInsn n k w)
  {effect : Job → Core → Effect}
include hn hf

/-- A channel instruction of a core that the P6 has. -/
theorem checked_channel (t : State) : checked s (coreOk n && fmtCOk f) t = .next t :=
  checked_of s _ _ (by simp [coreOk, hn, hf])

include h

theorem channel_retires {core : Core} {r : JobRun}
    (e : effect (s.job k) (s.coreOf k n) = .done { job := { s.job k with run := r }, core }) :
    checked s (coreOk n && fmtCOk f) (s.retire n w effect) =
      .next (s.setJob k { s.job k with run := r.setCore n (core.stepped (core.insn + 1)) }) := by
  rw [checked_channel hn hf]
  exact congrArg _ (State.retire_plain h e rfl rfl rfl rfl rfl rfl)

theorem channel_waits {x : CoreWait} (hx : (∀ a l p, x ≠ .peat a l p) ∧ x ≠ .browse)
    (e : effect (s.job k) (s.coreOf k n) = .wait x (s.job k)) :
    checked s (coreOk n && fmtCOk f) (s.retire n w effect) =
      .next (s.setCore k n { s.coreOf k n with wait := x, inCmd := x.inCmd }) := by
  rw [checked_channel hn hf, State.retire, State.retireThen_wait h e, State.cooled_plain hx.1 hx.2]
  rfl

end

/-- Settles O11: each instruction by the transfers and the credits that its channel holds. -/
theorem channelInstructions : Obligations.ChannelInstructions := by
  unfold Obligations.ChannelInstructions
  intro n k f s hn hf c j x e a len go
  refine ⟨fun h ha hc => ?_, fun h ha hc => ?_, fun old t rest h hx ho ht harr => ?_, fun h hall => ?_,
    fun t rest h hx ht => ?_, fun h hx => ?_⟩
  · exact channel_retires hn hf h (effectSend_goes ha hc)
  · exact channel_waits hn hf h (by simp) (effectSend_waits ha hc)
  · exact channel_retires hn hf h (effectRecv_arrived hx ho ht harr)
  · exact channel_waits hn hf h (by simp) (effectRecv_waits hall)
  · exact channel_retires hn hf h (effectFree_returned hx ht)
  · exact (checked_channel hn hf _).trans (congrArg _ (State.retireThen_stop h (effectFree_nothing hx)))

end Sys2Proof.Machine
end

section
/-! SUPPORT. How vector instructions retire (R207 to R212, R230, R237): a count above the plan, a lane that faults, a count of 0, and the
instruction that runs; each has one lemma, whatever the plan. -/

namespace Sys2Proof.Machine

/-! ## What a vector instruction comes to -/

section
variable {n : Nat} {f : FmtV} {plan : Job → Core → VecPlan} {j : Job} {c : Core}

theorem effectVec_overPlan (h : runCount c f.creg (f.count + 1) = none) : effectVec n f plan j c = .stop .shape := by
  unfold effectVec
  dsimp only
  rw [h]

theorem effectVec_faults {count i a : Nat} (h : runCount c f.creg (f.count + 1) = some count)
    (hb : firstFault n j c (vecMask f c (plan j c).masked) count (max count (plan j c).slots) (plan j c).ops = some (i, a)) :
    effectVec n f plan j c = .stop (.lane i a) := by
  unfold vecMask at hb
  unfold effectVec
  dsimp only
  rw [h]
  dsimp only
  rw [hb]

theorem effectVec_empty (h : runCount c f.creg (f.count + 1) = some 0)
    (hb : firstFault n j c (vecMask f c (plan j c).masked) 0 (max 0 (plan j c).slots) (plan j c).ops = none) :
    effectVec n f plan j c = .done ((plan j c).empty j c) := by
  unfold vecMask at hb
  unfold effectVec
  dsimp only
  rw [h]
  dsimp only
  rw [hb]
  exact if_pos rfl

theorem effectVec_runs {p : VecPlan} {count : Nat} (hp : plan j c = p) (h : laneClear n f p j c count) :
    effectVec n f plan j c = .done (vecDone n f p j c count) := by
  obtain ⟨hcount, h0, hclear⟩ := h
  unfold vecMask at hclear
  unfold effectVec
  rw [hp]
  dsimp only
  rw [hcount]
  dsimp only
  rw [hclear]
  exact if_neg h0

end

/-- No lane of none faults. -/
@[simp] theorem firstFault_zero (n : Nat) (j : Job) (c : Core) (k : Mask) (count : Nat) (ops : List Opnd) :
    firstFault n j c k count 0 ops = none := rfl

/-- A mask that is off lets every lane run. -/
theorem Mask.lanes_off {k : Mask} (h : k.on = false) (m : NMap Byte) (count : Nat) : k.lanes m count = List.range count := by
  simp [Mask.lanes, Mask.enabled, h]

/-! ## Retiring -/

/-- A retired instruction that touches no job memory and reports no early stop: the commands of its batch take its status. -/
theorem State.finishInsn_status (s : State) (k n : Nat) (d : Done) (ha : d.accesses = []) (he : d.empties = []) (hf : d.fawn = 0)
    (hd : d.adaptive = []) (hr : d.ramp = false) : s.finishInsn k n d = s.setJob k { d.job with
      run := (d.job.run.setCore n (d.core.stepped (d.next.getD (d.core.insn + 1)))).meet (d.job.run.batchOf d.core) d.status } := by
  unfold State.finishInsn
  simp only [ha, he, hf, hd, hr, JobRun.sawEmpty_nil, JobRun.adaptAll_nil, State.accesses, List.isEmpty_nil, if_true,
    State.healthCount_zero, List.all_nil, List.filter_true]
  rfl

section
variable {s : State} {k n op : Nat} {f : FmtV} (hn : n < 512) (hf : fmtVOk f = true)
include hn hf

theorem State.vec_eq (plan : Job → Core → VecPlan) : s.vec n op f plan = .next (s.retireThen n (wordV op f) (effectVec n f plan)
    (fun _ c _ s => if runCount c f.creg (f.count + 1) == some 0 then s else s.vecEnd n op)) :=
  checked_of s _ _ (by simp [coreOk, hn, hf])

variable {plan : Job → Core → VecPlan} (h : s.atInsn n k (wordV op f))
include h

theorem State.vec_overPlan (hc : runCount (s.coreOf k n) f.creg (f.count + 1) = none) :
    s.vec n op f plan = .next (s.stopCore k n .shape) := by
  rw [State.vec_eq hn hf, State.retireThen_stop h (effectVec_overPlan hc)]

theorem State.vec_faults {count i a : Nat} (hc : runCount (s.coreOf k n) f.creg (f.count + 1) = some count)
    (hb : firstFault n (s.job k) (s.coreOf k n) (vecMask f (s.coreOf k n) (plan (s.job k) (s.coreOf k n)).masked) count
      (max count (plan (s.job k) (s.coreOf k n)).slots) (plan (s.job k) (s.coreOf k n)).ops = some (i, a)) :
    s.vec n op f plan = .next (s.stopCore k n (.lane i a)) := by
  rw [State.vec_eq hn hf, State.retireThen_stop h (effectVec_faults hc hb)]

/-- A count of 0 leaves no beat group to check (R213). -/
theorem State.vec_empty (hc : runCount (s.coreOf k n) f.creg (f.count + 1) = some 0)
    (hb : firstFault n (s.job k) (s.coreOf k n) (vecMask f (s.coreOf k n) (plan (s.job k) (s.coreOf k n)).masked) 0
      (max 0 (plan (s.job k) (s.coreOf k n)).slots) (plan (s.job k) (s.coreOf k n)).ops = none)
    (ha : ((plan (s.job k) (s.coreOf k n)).empty (s.job k) (s.coreOf k n)).accesses = []) :
    s.vec n op f plan = .next (s.finishInsn k n ((plan (s.job k) (s.coreOf k n)).empty (s.job k) (s.coreOf k n))) := by
  rw [State.vec_eq hn hf, State.retireThen_done h (effectVec_empty hc hb) ha, hc]
  rfl

theorem State.vec_runs {p : VecPlan} {count : Nat} (hp : plan (s.job k) (s.coreOf k n) = p)
    (hc : laneClear n f p (s.job k) (s.coreOf k n) count)
    (hg : s.goesOn k n (vecDone n f p (s.job k) (s.coreOf k n) count)) :
    s.vec n op f plan = .next ((s.finishInsn k n (vecDone n f p (s.job k) (s.coreOf k n) count)).vecEnd n op) := by
  rw [State.vec_eq hn hf, State.retireThen_goesOn h (effectVec_runs hp hc) hg, hc.1, if_neg (by simpa using hc.2.1)]

end

/-! ## The instructions -/

/-- Each element-wise instruction is its row of the table (R208). -/
theorem exec_elementwise {n : Nat} {f : FmtV} {x : LaneOp} (hx : x ∈ elementwise n f) (s : State) :
    exec x.insn s = s.vec n x.op f (mapPlan n f x.two x.three x.beats x.elem) := by
  revert x
  rw [← List.forall_iff_forall_mem]
  and_intros <;> rfl

/-- Each of the other vector instructions is its row of the table (R208). -/
theorem exec_otherVectors {n : Nat} {f : FmtV} {x : Instr × Nat × (Job → Core → VecPlan)} (hx : x ∈ otherVectors n f) (s : State) :
    exec x.1 s = s.vec n x.2.1 f x.2.2 := by
  revert x
  rw [← List.forall_iff_forall_mem]
  and_intros <;> rfl

end Sys2Proof.Machine
end

section
/-! O16, O18, O19, O20, O21: the vector, transform and selection instructions (R207 to R215, R230). -/

namespace Sys2Proof.Machine

/-- Settles O16: the plan of an element-wise instruction runs as the walk over its enabled lanes. -/
theorem vectorElementwise : Obligations.VectorElementwise := by
  unfold Obligations.VectorElementwise
  intro n k f s x count hn hf hx hat hclear c j z lanes elem scratch run
  rw [exec_elementwise hx, State.vec_runs hn hf hat rfl hclear (s.goesOn_nil k n rfl),
    State.finishInsn_plain _ rfl rfl rfl rfl rfl rfl]
  rfl

/-- Settles O18: a count of 0 retires with status 1 and nothing written, and the other two stop the core. -/
theorem vectorCountsAndFaults : Obligations.VectorCountsAndFaults := by
  unfold Obligations.VectorCountsAndFaults
  intro n k f s x hn hf hx hat c p
  rw [exec_elementwise hx]
  refine ⟨fun hcreg h0 hk => ?_, fun hcreg hover => ?_, fun count i a hc hb => State.vec_faults hn hf hat hc hb⟩
  · have zero : runCount c f.creg (f.count + 1) = some 0 := by simp [runCount, hcreg, h0]
    refine ⟨_, State.vec_empty hn hf hat zero rfl rfl, ?_⟩
    rw [State.finishInsn_status _ _ _ _ rfl rfl rfl rfl rfl, State.coreOf, State.setJob_job _ _ _ hk]
    refine ⟨?_, ?_, fun b hb => ?_⟩
    · rw [JobRun.meet_core, JobRun.setCore_core]
      rfl
    · exact JobRun.meet_mem _ _ _
    · show (JobRun.meet _ ((s.job k).run.batchOf c) 1).queue = _
      rw [hb]
      simp only [JobRun.meet, QCmd.meet, Nat.or_zero]
      rfl
  · have tooMany : runCount c f.creg (f.count + 1) = none := by simp [runCount, hcreg, hover]
    exact State.vec_overPlan hn hf hat tooMany

/-- Settles O19: the plan runs, whatever it is. -/
theorem otherVectorsRetire : Obligations.OtherVectorsRetire := by
  unfold Obligations.OtherVectorsRetire
  intro n k f s i op plan count hn hf hx hat hclear d hd
  rw [exec_otherVectors hx]
  exact State.vec_runs hn hf hat rfl hclear hd

/-- A reduction writes one element at DST. -/
theorem foldPlan_core (f : FmtV) (size identity : Nat) (g : List Nat → Nat) (j : Job) (c : Core) (lanes : List Nat) (count : Nat) :
    ((foldPlan f size identity g c).run lanes count j c).core = { c with
      scratch := memWrite c.scratch (c.reg f.dst).toNat (leBytes size (if lanes.isEmpty then identity else
        g (lanes.map (fun i => memWord c.scratch ((c.reg f.src1).toNat + i * tyBytes f.type) (tyBytes f.type))))) } := by
  have first : (c.reg f.dst).toNat + 0 * size = (c.reg f.dst).toNat := by rw [Nat.zero_mul, Nat.add_zero]
  rw [← first]
  rfl

/-- Settles O20: each reduction writes one value at DST. -/
theorem reductionResults : Obligations.ReductionResults := by
  unfold Obligations.ReductionResults
  intro f j c lanes count src dst none' put
  refine ⟨rfl, foldPlan_core f _ _ _ j c lanes count, foldPlan_core f _ _ _ j c lanes count,
    fun a ha => memGet_memWrite_out _ _ _ _ ?_⟩
  rw [Laws.length_leBytes]
  exact ha

/-- Settles O21: VFFT's mask is off, so that all its tiles run, and VTOPK's plan stands where its count is above 0. -/
theorem transformAndSelection : Obligations.TransformAndSelection := by
  unfold Obligations.TransformAndSelection
  intro n k f s count hn hf c j
  refine ⟨fun hat hclear => ?_, fun hat hclear => ?_⟩
  · have all : (vecMask f c false).lanes c.scratch count = List.range count := Mask.lanes_off (Bool.and_false _) _ _
    refine ⟨_, State.vec_runs hn hf hat rfl hclear (s.goesOn_nil k n rfl), fun hk => ?_⟩
    rw [State.finishInsn_plain _ rfl rfl rfl rfl rfl rfl, State.coreOf, State.setJob_job _ _ _ hk, JobRun.setCore_core, ← all]
    exact ⟨rfl, rfl⟩
  · have stands : (if runCount c f.creg (f.count + 1) == some 0 then { vtopkPlan f j c with ops := [], slots := 0 }
        else vtopkPlan f j c) = vtopkPlan f j c := if_neg (by simpa [hclear.1] using hclear.2.1)
    refine ⟨_, State.vec_runs hn hf hat stands hclear (s.goesOn_nil k n rfl), fun hk => ?_⟩
    rw [State.finishInsn_plain _ rfl rfl rfl rfl rfl rfl, State.coreOf, State.setJob_job _ _ _ hk, JobRun.setCore_core]
    exact ⟨rfl, rfl⟩

end Sys2Proof.Machine
end

section
/-! O17: the walk over the lanes of a vector instruction (R210, R211). -/

namespace Sys2Proof.Machine

/-! ## Reading memory back -/

/-- A read sees the bytes of its range only. -/
theorem memRead_congr {m m' : NMap Byte} {n : Nat} {a : Nat} (h : ∀ q, a ≤ q → q < a + n → memGet m q = memGet m' q) :
    memRead m a n = memRead m' a n := by
  induction n generalizing a with
  | zero => rfl
  | succ n ih =>
    rw [memRead, memRead, h a (Nat.le_refl a) (by omega), ih fun q hl hh => h q (by omega) (by omega)]

/-- A write reads back. -/
theorem memRead_memWrite (bs : List Byte) {m : NMap Byte} (a : Nat) (h : memWf m = true) :
    memRead (memWrite m a bs) a bs.length = bs := by
  induction bs generalizing m a with
  | nil => rfl
  | cons b bs ih =>
    have sorted : NMap.sorted m = true := (Bool.and_eq_true_iff.mp h).1
    rw [memWrite, List.length_cons, memRead, ih _ (memWf_memPut m a b h), memGet_memWrite_out _ _ _ _ (by omega),
      memGet_memPut_same m a b sorted]

/-! ## The walk -/

/-- The byte at `a` is in no element that these lanes have in `d`. -/
def Opnd.clear (d : Opnd) (lanes : List Nat) (a : Nat) : Prop :=
  ∀ i ∈ lanes, a < d.base + i * d.size ∨ d.base + (i + 1) * d.size ≤ a

/-- A byte of one lane's element is in no other's. -/
theorem Opnd.clear_of_element {d : Opnd} {lanes : List Nat} {i q : Nat} (hi : i ∉ lanes) (hl : d.base + i * d.size ≤ q)
    (hh : q < d.base + i * d.size + d.size) : d.clear lanes q := by
  intro p hp
  obtain hlt | hgt := Nat.lt_or_gt_of_ne (fun e : p = i => hi (e ▸ hp))
  · have : (p + 1) * d.size ≤ i * d.size := Nat.mul_le_mul_right _ hlt
    exact .inr (by omega)
  · have : (i + 1) * d.size ≤ p * d.size := Nat.mul_le_mul_right _ hgt
    have : (i + 1) * d.size = i * d.size + d.size := Nat.succ_mul i d.size
    exact .inl (by omega)

section
variable {d : Opnd} {g : NMap Byte → Nat → Nat} {lanes : List Nat} {m : NMap Byte}

theorem walk_cons (i : Nat) : walk d g (i :: lanes) m = walk d g lanes (d.put m i (g m i)) := rfl

theorem walk_append (pre : List Nat) : walk d g (pre ++ lanes) m = walk d g lanes (walk d g pre m) := List.foldl_append

theorem memWf_walk (hm : memWf m = true) : memWf (walk d g lanes m) = true := by
  induction lanes generalizing m with
  | nil => exact hm
  | cons i lanes ih => exact ih (memWf_memWrite _ _ _ hm)

variable (hd : d.at' = id)
include hd

theorem Opnd.put_id (i v : Nat) : d.put m i v = memWrite m (d.base + i * d.size) (leBytes d.size v) := by
  rw [Opnd.put, Opnd.addr, hd, id]

theorem memGet_walk {a : Nat} (ha : d.clear lanes a) : memGet (walk d g lanes m) a = memGet m a := by
  induction lanes generalizing m with
  | nil => rfl
  | cons i lanes ih =>
    have out := ha i (List.mem_cons_self)
    rw [walk_cons, ih fun q hq => ha q (List.mem_cons_of_mem i hq), Opnd.put_id hd, memGet_memWrite_out]
    rw [Laws.length_leBytes, Nat.add_assoc, ← Nat.succ_mul]
    exact out

/-- The element of a lane is what was written there, where no later lane has the same. -/
theorem memWord_walk_cons {i : Nat} (hm : memWf m = true) (hi : i ∉ lanes) :
    memWord (walk d g (i :: lanes) m) (d.base + i * d.size) d.size = g m i % 256 ^ d.size := by
  have kept : memRead (walk d g (i :: lanes) m) (d.base + i * d.size) d.size = leBytes d.size (g m i) := by
    rw [walk_cons, memRead_congr fun q hl hh => memGet_walk hd (Opnd.clear_of_element hi hl hh), Opnd.put_id hd]
    simpa using memRead_memWrite (leBytes d.size (g m i)) (d.base + i * d.size) hm
  rw [memWord, kept, Laws.leNat_leBytes]

end

/-- Settles O17: a lane's element is written once, from operands that the lanes before it leave as they were. -/
theorem vectorWalk : Obligations.VectorWalk := by
  unfold Obligations.VectorWalk
  intro d g lanes m hm hlanes hd
  refine ⟨memWf_walk hm, fun a ha => memGet_walk hd ha, fun hstable i hi => ?_⟩
  obtain ⟨pre, post, rfl⟩ := List.append_of_mem hi
  have later : i ∉ post := fun hp => Nat.lt_irrefl i ((List.pairwise_cons.mp (List.pairwise_append.mp hlanes).2.1).1 i hp)
  have same : g (walk d g pre m) i = g m i := hstable _ i hi fun a ha =>
    memGet_walk hd fun q hq => ha q (List.mem_append_left _ hq)
  rw [walk_append, memWord_walk_cons hd (memWf_walk hm) later, same]

end Sys2Proof.Machine
end

section
/-! SUPPORT. What a browse instruction and the return of a miss come to (R212, R217 to R220). -/

namespace Sys2Proof.Machine

/-! ## Reading back -/

theorem NMap.put_put_same {α : Type} (m : NMap α) (k : Nat) (v w : α) : NMap.put (NMap.put m k v) k w = NMap.put m k w := by
  induction m with
  | nil => simp [NMap.put]
  | cons e m ih =>
    obtain ⟨j, x⟩ := e
    by_cases below : k < j
    · simp [NMap.put, below]
    · by_cases same : k = j
      · simp [NMap.put, same]
      · simp [NMap.put, below, same, ih]

/-- Of two writes of a core the second stays. -/
@[simp] theorem JobRun.setCore_setCore (r : JobRun) (n : Nat) (c d : Core) : (r.setCore n c).setCore n d = r.setCore n d := by
  rw [JobRun.setCore, JobRun.setCore, NMap.put_put_same]
  rfl

theorem State.askMisses_job (s : State) (k n q : Nat) : (s.askMisses k n).job q = s.job q := rfl

theorem JobRun.countCore_core (r : JobRun) (n off k q : Nat) : (r.countCore n off k).core q = r.core q := rfl

theorem JobRun.countIssue_core (r : JobRun) (n idle q : Nat) (x : Filling) (left : List Req) :
    (r.countIssue n idle x left).core q = r.core q := by
  unfold JobRun.countIssue
  simp only [JobRun.countCore_core]

/-! ## Slots (R217) -/

/-- Issuing gives no slot away. -/
theorem Filling.fill_keeps {q : Miss} {fuel : Nat} {rs : List Req} {x : Filling} (h : q ∈ x.misses) :
    q ∈ (Filling.fill fuel rs x).1.misses := by
  induction fuel generalizing rs x with
  | zero => exact h
  | succ fuel ih =>
    unfold Filling.fill
    dsimp only
    split
    · exact h
    · refine ih ?_
      split
      · exact List.mem_append_left _ h
      · exact h

/-! ## What the instruction comes to -/

section
variable {s : State} {k n op pre idle : Nat} {f : FmtB} {j : Job} {c : Core}

theorem effectBrowse_overPlan (h : runCount c f.creg (f.count + 1) = none) :
    effectBrowse s k n op pre idle f j c = .stop .shape := by
  unfold effectBrowse
  rw [h]

theorem effectBrowse_empty (h : runCount c f.creg (f.count + 1) = some 0) :
    effectBrowse s k n op pre idle f j c = .done { job := j, core := c, status := 1 } := by
  unfold effectBrowse
  rw [h]
  rfl

section
variable {count : Nat} (h : runCount c f.creg (f.count + 1) = some count)
  (hb : (browseCmd op f c count).firstFault n j c = none) (h0 : count ≠ 0)
include h hb h0

/-- A count above 0 with no position that faults issues all that it can. -/
theorem effectBrowse_issues : effectBrowse s k n op pre idle f j c =
    let x := (browseCmd op f c count).issue s k n c
    let r := j.run.countIssue n idle x.1 x.2
    if x.1.misses.isEmpty then .done ((browseCmd op f c count).run n { j with run := r } (c.issued x.1))
    else .wait .browse { j with run := r.setCore n (c.issued x.1) } := by
  unfold effectBrowse
  rw [h]
  dsimp only
  rw [hb]
  exact if_neg h0

end

end

/-! ## Retiring -/

/-- The state once a browse instruction has drawn its two free values. -/
def State.drawnTwice (s : State) : State := { s with freeCtr := s.freeCtr + 2 }

/-- The run once core `n` of slot `k` has issued `x`. -/
def State.browseRun (s : State) (k n : Nat) (x : Filling × List Req) : JobRun :=
  (s.job k).run.countIssue n (Config.freeNat (s.freeCtr + 1)) x.1 x.2

/-- What a browse instruction of `count` positions leaves once every granule is at hand. -/
def State.browsed (s : State) (k n op : Nat) (f : FmtB) (count : Nat) : Done :=
  let c := s.coreOf k n
  let x := (browseCmd op f c count).issue s k n c
  (browseCmd op f c count).run n { s.job k with run := s.browseRun k n x } (c.issued x.1)

section
variable {s : State} {n k op : Nat} {f : FmtB} (hn : n < 512) (hf : fmtBOk f = true) (hr : s.sched.running = some k)
include hn hf hr

theorem State.browse_eq : s.browse n op f = .next (s.drawnTwice.retire n (wordB op f)
    (effectBrowse s.drawnTwice k n op (Config.freeNat s.freeCtr) (Config.freeNat (s.freeCtr + 1)) f)) := by
  have unit : s.sched.running.getD 0 = k := by rw [hr]; rfl
  rw [← unit]
  exact checked_of s _ _ (by simp [coreOk, hn, hf])

variable (h : s.atInsn n k (wordB op f))
include h

theorem State.browse_overPlan (hc : runCount (s.coreOf k n) f.creg (f.count + 1) = none) :
    s.browse n op f = .next (s.drawnTwice.stopCore k n .shape) := by
  rw [State.browse_eq hn hf hr]
  exact congrArg _ (State.retireThen_stop (s := s.drawnTwice) h (effectBrowse_overPlan hc))

theorem State.browse_empty (hc : runCount (s.coreOf k n) f.creg (f.count + 1) = some 0) : s.browse n op f =
    .next (s.drawnTwice.finishInsn k n { job := s.job k, core := s.coreOf k n, status := 1 }) := by
  rw [State.browse_eq hn hf hr]
  exact congrArg _ (State.retireThen_done (s := s.drawnTwice) h (effectBrowse_empty hc) rfl)

variable {count : Nat} (hc : runCount (s.coreOf k n) f.creg (f.count + 1) = some count)
  (hb : (browseCmd op f (s.coreOf k n) count).firstFault n (s.job k) (s.coreOf k n) = none) (h0 : count ≠ 0)
include hc hb h0

/-- With every granule at hand the operation is done. -/
theorem State.browse_runs (hm : ((browseCmd op f (s.coreOf k n) count).issue s k n (s.coreOf k n)).1.misses = [])
    (hg : s.drawnTwice.goesOn k n (s.browsed k n op f count)) :
    s.browse n op f = .next (s.drawnTwice.finishInsn k n (s.browsed k n op f count)) := by
  rw [State.browse_eq hn hf hr]
  refine congrArg _ (State.retireThen_goesOn (s := s.drawnTwice) h ?_ hg)
  exact (effectBrowse_issues hc hb h0).trans (if_pos (List.isEmpty_iff.mpr hm))

/-- With misses in their slots it waits, and asks the hubs. -/
theorem State.browse_waits (hm : ((browseCmd op f (s.coreOf k n) count).issue s k n (s.coreOf k n)).1.misses ≠ []) :
    let x := (browseCmd op f (s.coreOf k n) count).issue s k n (s.coreOf k n)
    s.browse n op f = .next ((s.drawnTwice.setJob k { s.job k with
      run := (s.browseRun k n x).setCore n { (s.coreOf k n).issued x.1 with wait := .browse, inCmd := true } }).askMisses k n) := by
  intro x
  have waits : effectBrowse s.drawnTwice k n op (Config.freeNat s.freeCtr) (Config.freeNat (s.freeCtr + 1)) f (s.job k)
      (s.coreOf k n) = .wait .browse { s.job k with run := (s.browseRun k n x).setCore n ((s.coreOf k n).issued x.1) } :=
    (effectBrowse_issues hc hb h0).trans (if_neg (mt List.isEmpty_iff.mp hm))
  rw [State.browse_eq hn hf hr]
  refine congrArg _ ((State.retireThen_wait (s := s.drawnTwice) h waits).trans ?_)
  rw [JobRun.setCore_setCore, JobRun.setCore_core]
  rfl

end

end Sys2Proof.Machine
end

section
/-! O25: BGATHER, BSCATTER, BSCATADD and the return of a miss (R212, R217, R219, R220). -/

namespace Sys2Proof.Machine

/-- The core once a miss has come back: its slot is free. -/
def Core.answered (c : Core) (miss : Nat) (m : Miss) : Core :=
  { c with misses := c.misses.eraseIdx miss, arrived := c.arrived ++ [m.no] }

/-- What the unit issues for core `n` of slot `k`, whose registers and slots are those of `c`. -/
def State.issuesOn (s : State) (k n : Nat) (c : Core) : Filling × List Req :=
  let w := ((s.job k).image.sec n).wordAt (s.coreOf k n).insn
  let f := fieldsB w
  (browseCmd (w % 256) f c ((runCount c f.creg (f.count + 1)).getD 0)).issue s k n c

/-- Issuing on gives no slot away. -/
theorem State.issuesOn_keeps (s : State) (k n : Nat) (c : Core) : ∀ q ∈ c.misses, q ∈ (s.issuesOn k n c).1.misses := by
  unfold State.issuesOn BrowseCmd.issue
  exact fun _ h => Filling.fill_keeps h

/-- A miss that its hub may answer frees its slot, and the unit issues on. -/
theorem exec_browseMissReturn {s : State} {k n miss : Nat} {m : Miss} (hn : n < 512) (hr : s.sched.running = some k)
    (hw : (s.coreOf k n).wait = .browse) (hm : (s.coreOf k n).misses[miss]? = some m)
    (ha : s.mayAnswer k (.miss n m.no) 3 = true) :
    let c := (s.coreOf k n).answered miss m
    let y := s.issuesOn k n c
    exec (.browseMissReturn n miss) s = .next ((s.fresh.2.setJob k { s.job k with
      run := ((s.job k).run.setCore n { c.issued y.1 with wait := if y.1.misses.isEmpty then .run else .browse }).countIssue n
        s.fresh.1 y.1 y.2 }).askMisses k n) := by
  refine (checked_of s _ _ (decide_eq_true hn)).trans (congrArg _ ?_)
  rw [hr]
  refine (if_pos (beq_iff_eq.mpr hw)).trans ?_
  unfold State.missReturn
  dsimp only
  rw [show ((s.job k).run.core n).misses[miss]? = some m from hm]
  exact if_neg (by simp [ha])

/-- Settles O25: the branches of a browse instruction, the rows that BGATHER fills, and the return of a miss. -/
theorem browseRetires : Obligations.BrowseRetires := by
  unfold Obligations.BrowseRetires
  intro n k f s hn hf hr c j s2 idle x run done
  refine ⟨fun op i hi hat => ?_, fun count => ?_, fun miss m hw hm ha => exec_browseMissReturn hn hr hw hm ha,
    fun miss m hw hm ha hk => ⟨_, exec_browseMissReturn hn hr hw hm ha, ?_⟩⟩
  · have arm : exec i s = s.browse n op f := by
      simp only [List.mem_cons, Prod.mk.injEq, List.not_mem_nil, or_false] at hi
      obtain ⟨rfl, rfl⟩ | ⟨rfl, rfl⟩ | ⟨rfl, rfl⟩ := hi <;> rfl
    rw [arm]
    exact ⟨fun count hc hb h0 => ⟨fun hm hg => State.browse_runs hn hf hr hat hc hb h0 hm hg,
      fun hm => State.browse_waits hn hf hr hat hc hb h0 hm⟩, State.browse_empty hn hf hr hat, State.browse_overPlan hn hf hr hat⟩
  · have all : ((browseCmd 0x90 f c count).lanes c.scratch).filter (fun p => decide (0 ≤ p)) =
        (browseCmd 0x90 f c count).lanes c.scratch := by simp
    rw [← all]
    rfl
  · rw [State.coreOf, State.askMisses_job, State.setJob_job s.fresh.2 k _ hk, JobRun.countIssue_core, JobRun.setCore_core]
    have keeps := s.issuesOn_keeps k n ((s.coreOf k n).answered miss m)
    generalize s.issuesOn k n ((s.coreOf k n).answered miss m) = y at keeps ⊢
    exact ⟨List.mem_append_left _ (List.mem_append_right _ (List.mem_singleton_self _)), rfl, keeps⟩

end Sys2Proof.Machine
end

section
/-! O26: ISSUE (R126, R216). -/

namespace Sys2Proof.Machine

/-! ## What it comes to -/

section
variable {n seq : Nat} {f : FmtI} {j : Job} {c : Core}

theorem effectIssue_predicateFails (h : issueGoes f c = false) : effectIssue n seq f j c =
    .done { job := { j with run := j.run.countCore n 0x120 1 }, core := c.setReg f.res 2 } :=
  if_pos (by rw [h]; rfl)

variable (hg : issueGoes f c = true)
include hg

/-- A body off 64 B or outside the scratchpad is a fault of lane 0. -/
theorem effectIssue_badBody (h : ¬ ((c.reg f.desc).toNat % 64 = 0 ∧ (c.reg f.desc).toNat + 64 ≤ 6291456)) :
    effectIssue n seq f j c = .stop (.lane 0 (c.reg f.desc).toNat) :=
  (if_neg (by simp [hg])).trans <| if_pos (by simp [inScratch, scratchSize]; omega)

section
variable (hb : (c.reg f.desc).toNat % 64 = 0 ∧ (c.reg f.desc).toNat + 64 ≤ 6291456)
  (hr : (c.reg f.caddr).toNat % 32 = 0 ∧ j.mapped (c.reg f.caddr).toNat 32 = true)
include hb hr

theorem effectIssue_full (h : 4096 ≤ j.run.issued) : effectIssue n seq f j c =
    .done { job := { j with run := j.run.count 0x58 1 }, core := c.setReg f.res 0 } :=
  (if_neg (by simp [hg])).trans <| (if_neg (by simp [inScratch, scratchSize, hb])).trans <|
    (if_neg (by simp [hr])).trans (if_pos h)

theorem effectIssue_goes (h : j.run.issued < 4096) : effectIssue n seq f j c =
    .done { core := c.setReg f.res 1, job := { j.enqueue (j.issueCmd c f seq) with
      run := (j.enqueue (j.issueCmd c f seq)).run.countCore n 0x118 1 } } :=
  (if_neg (by simp [hg])).trans <| (if_neg (by simp [inScratch, scratchSize, hb])).trans <|
    (if_neg (by simp [hr])).trans (if_neg (Nat.not_le.mpr h))

end

end

/-! ## Retiring -/

section
variable {s : State} {n k : Nat} {f : FmtI} (hn : n < 512) (hf : fmtIOk f = true) (h : s.atInsn n k (wordI 0xA0 f))
include hn hf

theorem exec_issue : exec (.issue n f) s = .next (s.retireThen n (wordI 0xA0 f) (effectIssue n s.sched.cmdSeq f)
    (fun _ _ _ s => { s with sched := { s.sched with cmdSeq := s.sched.cmdSeq + 1 } })) :=
  checked_of s _ _ (by simp [coreOk, hn, hf])

include h

/-- An ISSUE that retires writes RES, and what else it did to its job stands. -/
theorem issue_retires (hk : k < s.jobs.length) {j : Job} {v : W64}
    (e : effectIssue n s.sched.cmdSeq f (s.job k) (s.coreOf k n) = .done { job := j, core := (s.coreOf k n).setReg f.res v }) :
    ∃ t, exec (.issue n f) s = .next t ∧
      t.coreOf k n = ((s.coreOf k n).setReg f.res v).stepped ((s.coreOf k n).insn + 1) ∧
      (t.job k).run.queue = j.run.queue ∧ t.sched.cmdSeq = s.sched.cmdSeq + 1 := by
  refine ⟨_, (exec_issue hn hf).trans (congrArg _ (State.retireThen_done h e rfl)), ?_⟩
  rw [State.finishInsn_plain _ rfl rfl rfl rfl rfl rfl]
  show ((s.setJob k _).job k).run.core n = _ ∧ ((s.setJob k _).job k).run.queue = _ ∧ _
  rw [State.setJob_job _ _ _ hk, JobRun.setCore_core, Core.setReg_insn]
  exact ⟨rfl, rfl, rfl⟩

end

/-- Settles O26: RES takes 2, 0 or 1 by the predicate and by the pool, and a body that is not in place stops the core. -/
theorem issueResults : Obligations.IssueResults := by
  unfold Obligations.IssueResults
  intro n k f s hn hf hat hk c j a r placed
  refine ⟨fun hg => ?_, fun hg hp hfull => ?_, fun hg hp hroom => ?_, fun hg hb => ?_⟩
  · obtain ⟨t, ht, hcore, hqueue, -⟩ := issue_retires hn hf hat hk (effectIssue_predicateFails hg)
    exact ⟨t, ht, hcore, hqueue⟩
  · obtain ⟨ha, ha', hr⟩ := hp
    obtain ⟨t, ht, hcore, hqueue, -⟩ := issue_retires hn hf hat hk (effectIssue_full hg ⟨ha, ha'⟩ hr hfull)
    exact ⟨t, ht, hcore, hqueue⟩
  · obtain ⟨ha, ha', hr⟩ := hp
    obtain ⟨t, ht, hcore, hqueue, hseq⟩ := issue_retires hn hf hat hk (effectIssue_goes hg ⟨ha, ha'⟩ hr hroom)
    exact ⟨t, ht, hcore, hqueue, hseq⟩
  · exact (exec_issue hn hf).trans (congrArg _ (State.retireThen_stop hat (effectIssue_badBody hg hb)))

end Sys2Proof.Machine
end

section
/-! O41: PARAM_GROUP_WRITE (R225, R226, R232, R492). -/

namespace Sys2Proof.Machine

/-! ## The entry of the command -/

/-- Entries of the list that a PARAM_GROUP_WRITE names (R226). -/
def listCount (c : Cmd) : Nat := fld c.desc.w16 0 32

/-- The list that a PARAM_GROUP_WRITE names, as job memory holds it. -/
def Job.listBytes (j : Job) (c : Cmd) : List Byte := memRead j.run.mem c.desc.w8.toNat (48 * listCount c)

/-- The list lies in job memory. -/
def Job.listMapped (j : Job) (c : Cmd) : Bool := j.mapped c.desc.w8.toNat (48 * listCount c)

/-- The entry that a PARAM_GROUP_WRITE takes in the queue: its list as it then stands (R232). -/
def Job.listEntry (j : Job) (c : Cmd) : QCmd :=
  { uid := j.run.uidNext, cmd := c, rows := [], refs := [], data := if j.listMapped c then j.listBytes c else [] }

/-- The run once that entry stands at the end of the queue. -/
def Job.listed (j : Job) (c : Cmd) : JobRun :=
  { j.run.count 0x710 1 with queue := j.run.queue ++ [j.listEntry c], uidNext := j.run.uidNext + 1 }

theorem Job.enqueue_list (j : Job) {c : Cmd} (ho : c.desc.opcode = 0x18) : j.enqueue c = { j with run := j.listed c } := by
  simp [Job.enqueue, ho, Job.listed, Job.listEntry, Job.listMapped, Job.listBytes, listCount, JobRun.number, JobRun.count]
  rfl

/-- A list outside job memory is short of its entries. -/
theorem Job.listEntry_short (j : Job) {c : Cmd} (h : listCount c ≠ 0) :
    (j.listEntry c).data.length < 48 * listCount c ↔ j.listMapped c = false := by
  unfold Job.listEntry
  dsimp only
  split
  next hm => simp [hm, Job.listBytes, length_memRead]
  next hm => simp [hm, Nat.pos_of_ne_zero h]

/-! ## What the command does -/

/-- The job once its list is refused with a status (R226). -/
def Job.listRefused (j : Job) (c : Cmd) (status : Nat) : Job := { j with run := (j.listed c).refuse (j.listEntry c) status }

/-- The job once its list is ready and every publication that may apply has (R225). -/
def Job.listPublished (j : Job) (c : Cmd) : Job :=
  let r := (j.listed c).setQ { j.listEntry c with phase := 1 }
  { j with run := r.applyReady r.queue.length }

/-- The job once the command is dispatched: an empty list, one too long or outside job memory, one of withheld data, and one of entries
out of their bounds or within them. -/
def Job.listOutcome (j : Job) (c : Cmd) : Job :=
  if listCount c = 0 then j.listRefused c 0x0001
  else if 8192 < listCount c ∨ j.listMapped c = false then j.listRefused c 0x0203
  else if j.readsWait (descReads c.desc) then j.enqueue c
  else if j.image.entriesOk (listCount c) (j.listBytes c) then j.listPublished c
  else j.listRefused c 0x0203

/-- A list that is in order (R226). -/
def Job.listGood (j : Job) (c : Cmd) : Prop :=
  1 ≤ listCount c ∧ listCount c ≤ 8192 ∧ j.listMapped c = true ∧ j.image.entriesOk (listCount c) (j.listBytes c) = true

section
variable {j : Job} {c : Cmd}

/-- A list that is neither empty nor too long and lies in job memory. -/
theorem Job.listOutcome_placed (h1 : 1 ≤ listCount c) (hn : listCount c ≤ 8192) (hm : j.listMapped c = true) : j.listOutcome c =
    if j.readsWait (descReads c.desc) then j.enqueue c
    else if j.image.entriesOk (listCount c) (j.listBytes c) then j.listPublished c
    else j.listRefused c 0x0203 :=
  (if_neg (Nat.ne_of_gt h1)).trans (if_neg (not_or.mpr ⟨Nat.not_lt.mpr hn, ne_false_of_eq_true hm⟩))

variable (hw : j.readsWait (descReads c.desc) = false)
include hw

theorem Job.listOutcome_good (h : j.listGood c) : j.listOutcome c = j.listPublished c := by
  obtain ⟨h1, hn, hm, hok⟩ := h
  rw [Job.listOutcome_placed h1 hn hm, if_neg (ne_true_of_eq_false hw), if_pos hok]

theorem Job.listOutcome_bad (h : ¬ j.listGood c) :
    j.listOutcome c = j.listRefused c (if listCount c = 0 then 0x0001 else 0x0203) := by
  by_cases h0 : listCount c = 0
  · rw [Job.listOutcome, if_pos h0, if_pos h0]
  by_cases hplace : 8192 < listCount c ∨ j.listMapped c = false
  · rw [Job.listOutcome, if_neg h0, if_neg h0, if_pos hplace]
  obtain ⟨hn, hm⟩ := not_or.mp hplace
  have hn : listCount c ≤ 8192 := Nat.le_of_not_lt hn
  have hm : j.listMapped c = true := eq_true_of_ne_false hm
  have h1 : 1 ≤ listCount c := Nat.pos_of_ne_zero h0
  rw [Job.listOutcome_placed h1 hn hm, if_neg (ne_true_of_eq_false hw), if_neg fun hok => h ⟨h1, hn, hm, hok⟩, if_neg h0]

end

section
variable {s : State} {c : Cmd} {k : Nat} (hr : s.sched.running = some k) (hs : (s.job k).info.state = .running)
  (hid : (s.job k).info.id = c.desc.job) (ho : c.desc.opcode = 0x18) (hq : (s.job k).run.queue = [])
include hr hs hid ho hq

theorem exec_paramGroupWrite : exec (.paramGroupWrite c) s = .next (s.setJob k ((s.job k).listOutcome c)) := by
  have slot : s.jobOf c = some k := by simp [State.jobOf, State.runningJob_of hr hs, hid]
  have entry : (s.job k).waitingFor c = ({ s.job k with run := (s.job k).listed c }, some ((s.job k).listEntry c)) := by
    rw [Job.waitingFor_new (by simp [hq]), Job.enqueue_list _ ho]
    simp [Job.listed]
  refine (checked_of s _ _ (beq_iff_eq.mpr ho)).trans (congrArg _ ?_)
  unfold State.paramGroupWrite
  rw [slot]
  dsimp only
  rw [entry]
  dsimp only
  unfold Job.listOutcome
  by_cases h0 : listCount c = 0
  · rw [if_pos h0]
    exact if_pos h0
  rw [if_neg h0]
  refine (if_neg h0).trans ?_
  have bad : (decide (8192 < listCount c) || decide (((s.job k).listEntry c).data.length < 48 * listCount c)) = true ↔
      8192 < listCount c ∨ (s.job k).listMapped c = false := by simp [Job.listEntry_short _ h0]
  by_cases hbad : 8192 < listCount c ∨ (s.job k).listMapped c = false
  · rw [if_pos hbad]
    exact if_pos (bad.mpr hbad)
  rw [if_neg hbad]
  refine (if_neg (mt bad.mp hbad)).trans ?_
  have data : ((s.job k).listEntry c).data = (s.job k).listBytes c := if_pos (by simpa using (not_or.mp hbad).2)
  rw [Job.enqueue_list _ ho, ← data]
  by_cases hw : (s.job k).readsWait (descReads c.desc) = true
  · rw [if_pos hw]
    exact if_pos hw
  rw [if_neg hw]
  refine (if_neg hw).trans ?_
  by_cases hok : (s.job k).image.entriesOk (listCount c) ((s.job k).listEntry c).data = true
  · rw [if_pos hok]
    exact if_neg (ne_true_of_eq_false (congrArg (! ·) hok))
  · rw [if_neg hok]
    exact if_pos (congrArg (! ·) (eq_false_of_ne_true hok))

end

/-! ## What it leaves -/

/-- Of a refused list the tables stay as they are (R226). -/
theorem Job.listRefused_leaves (j : Job) (c : Cmd) (status : Nat) : (j.listRefused c status).run.pgt = j.run.pgt ∧
    ∃ p ∈ (j.listRefused c status).run.publish, p.cmd = c ∧ p.status = status :=
  ⟨rfl, _, List.mem_append_right _ (List.mem_singleton_self _), rfl, Nat.zero_max status⟩

/-- A publication that stands alone and is ready applies (R225). -/
theorem JobRun.applyFirst_alone {r : JobRun} {q : QCmd} (hq : r.queue = [q]) (hp : q.cmd.desc.opcode = 0x18) (hph : q.phase ≠ 0)
    (hgo : q.go = false) : r.applyFirst =
      ({ r with pgt := applyEntries (listCount q.cmd) r.pgt q.data }.count 0x700 1).finish { q with count := listCount q.cmd } [] := by
  have publishes : q.publishes = true := by simp [QCmd.publishes, hp]
  simp only [JobRun.applyFirst, JobRun.beforePublication, hq, List.dropWhile_cons, List.takeWhile_cons, publishes, Bool.not_true,
    Bool.false_eq_true, if_false, List.all_nil, hph, hgo, Bool.or_false, decide_false]
  rfl

/-- A list that is ready at the head of the queue publishes all its entries at once (R225). -/
theorem Job.listPublished_leaves {j : Job} {c : Cmd} (ho : c.desc.opcode = 0x18) (hq : j.run.queue = [])
    (hm : j.listMapped c = true) : (j.listPublished c).run.pgt = applyEntries (listCount c) j.run.pgt (j.listBytes c) ∧
    ∃ p ∈ (j.listPublished c).run.publish, p.cmd = c ∧ p.status = 0 ∧ p.count = listCount c := by
  have alone : ((j.listed c).setQ { j.listEntry c with phase := 1 }).queue = [{ j.listEntry c with phase := 1 }] := by
    simp [JobRun.setQ, Job.listed, hq]
  have data : (j.listEntry c).data = j.listBytes c := if_pos hm
  unfold Job.listPublished
  dsimp only
  rw [alone, List.length_singleton, JobRun.applyReady, JobRun.applyReady, JobRun.applyFirst_alone alone ho (by simp) rfl]
  refine ⟨congrArg (applyEntries (listCount c) j.run.pgt) data, _,
    List.mem_append_right _ (List.mem_singleton_self _), rfl, rfl, rfl⟩

/-- Settles O41: the list waits, is published or is refused, as its count, its place, its data and its entries say. -/
theorem parameterPublication : Obligations.ParameterPublication := by
  unfold Obligations.ParameterPublication
  intro s c k hr hs hid ho hq n good reads
  have hk : k < s.jobs.length := by
    by_contra hk
    rw [State.job, List.getD_eq_default _ _ (Nat.le_of_not_lt hk)] at hs
    cases hs
  rw [exec_paramGroupWrite hr hs hid ho hq]
  refine ⟨fun h1 hn hm hw => ?_, fun hgood hw => ⟨_, rfl, ?_⟩, fun hbad hw => ⟨_, rfl, ?_⟩⟩
  · rw [Job.listOutcome_placed h1 hn hm, if_pos hw]
  · rw [State.setJob_job _ _ _ hk, Job.listOutcome_good hw hgood]
    exact Job.listPublished_leaves ho hq hgood.2.2.1
  · rw [State.setJob_job _ _ _ hk, Job.listOutcome_bad hw hbad]
    exact (s.job k).listRefused_leaves c _

end Sys2Proof.Machine
end

section
/-! O15: a second failure within an array command while the control core of its cluster is down (R85, R444). The move of the stage waits
as a request that the firmware holds, where the statement has the firmware unchanged by every check. -/

namespace Sys2Proof.Machine

/-! ## Checks that fail twice (R85, R444) -/

theorem State.drainArray_fw (s : State) (n : Nat) : (s.drainArray n).fw = s.fw := by
  unfold State.drainArray
  dsimp only
  split <;> rfl

theorem State.drainArray_health (s : State) (n : Nat) : (s.drainArray n).health = s.health := by
  unfold State.drainArray
  dsimp only
  split <;> rfl

/-- A logical core's array is not held for verification, and the control core of its cluster, which would move its stage, is down. -/
def State.spareWaits (s : State) (n : Nat) : Prop :=
  s.onFawn n = false ∧ s.remapWaits (s.health.map.getD n {}).cluster = true

theorem State.spareWaits.congr {s t : State} {n : Nat} (h : s.spareWaits n) (hfw : t.fw = s.fw) (hmap : t.health.map = s.health.map)
    (hclusters : t.health.clusters = s.health.clusters) (hverifying : t.health.verifying = s.health.verifying) : t.spareWaits n := by
  simpa only [State.spareWaits, State.onFawn, Health.placed, State.remapWaits, State.fwCore, Health.cluster, hfw, hmap, hclusters,
    hverifying] using h

theorem State.spareWaits.healthCount {s : State} {n off m : Nat} (h : s.spareWaits n) : (s.healthCount off m).spareWaits n := h

/-- The move of a stage that fails twice while it must wait is a request that the firmware holds. -/
theorem State.holdFailed_waits {s : State} {n f : Nat} (h : s.spareWaits n) (h2 : 2 ≤ f) :
    (s.holdFailed n f).fw.held = s.fw.held ++ [.spare n] := by
  obtain ⟨hv, hw⟩ := h
  have fresh : ¬ (decide (f < 2) || s.health.verifying.contains (s.health.placed n)) = true := by
    simpa [State.onFawn, Nat.not_lt.mpr h2] using hv
  unfold State.holdFailed
  dsimp only
  rw [if_neg (by simpa using fresh)]
  exact congrArg (fun t : State => t.fw.held) (if_pos hw)

/-- An array command that failed twice asks for the move of its stage. -/
theorem State.arrayChecks_waits {s : State} {k n : Nat} {d : Done} {f : Nat × Nat} (h : s.spareWaits n) (hd : d.fails = some f)
    (ha : d.accesses = []) (h2 : 2 ≤ f.1 + f.2) : (s.arrayChecks k n d).fw.held = s.fw.held ++ [.spare n] := by
  have rerun (m : Nat) (t : State) : (List.range m).foldl (fun (t : State) _ => t.accesses k n d.accesses) t = t := by
    rw [ha]
    exact foldl_keeps id _ (fun _ _ => rfl) _ _
  have health := s.drainArray_health n
  have drained : (s.drainArray n).spareWaits n := h.congr (s.drainArray_fw n) (congrArg Health.map health)
    (congrArg Health.clusters health) (congrArg Health.verifying health)
  unfold State.arrayChecks
  rw [hd]
  dsimp only
  rw [rerun]
  refine (State.holdFailed_waits ?_ h2).trans ?_
  · exact drained.healthCount.healthCount.healthCount
  · simp [State.drainArray_fw]

/-! ## The state -/

/-- A module that runs the job of slot 0 while the control core of logical cluster 0, which has crashed, is down (R434, R444). -/
def controlDown : State :=
  { State.reset with
    jobs := State.reset.jobs.set 0 { info := { id := 1, state := .running } }
    sched := { running := some 0 }
    fw := { State.reset.fw with cores := State.resetFwCores.set 6 { state := 3 } } }

theorem controlDown_waits : controlDown.spareWaits 0 := by
  constructor <;> decide +kernel

/-- An array command of no access of that job that failed its check twice (R84, R85). -/
def failedTwice : Done := { job := controlDown.job 0, core := {}, fails := some (2, 0) }

/-- Refutes O15: with the control core of its cluster down, a stage's move after the second failure waits among the firmware's requests,
so that the firmware does not stay as it was. -/
theorem not_retiredInstructionFrame : ¬ Obligations.RetiredInstructionFrame := by
  unfold Obligations.RetiredInstructionFrame
  rintro ⟨frame, -⟩
  obtain ⟨-, -, -, -, -, -, hfw, -⟩ := frame controlDown (controlDown.arrayChecks 0 0 failedTwice) 0 (.inr ⟨0, failedTwice, rfl⟩)
  have waits : (controlDown.arrayChecks 0 0 failedTwice).fw.held = controlDown.fw.held ++ [.spare 0] :=
    State.arrayChecks_waits controlDown_waits rfl rfl (Nat.le_refl 2)
  rw [hfw] at waits
  exact absurd waits (by decide)

end Sys2Proof.Machine
end

section
/-! SUPPORT. What a prefetch into a full set of the hinted cache leaves of the units fetched ahead (R271, R286, R295): requests to the
stacks touch no core, and a dropped line is no longer ahead of any core of its cluster. -/

namespace Sys2Proof.Machine

/-! ## Cores while accesses act -/

theorem NMap.mem_of_find {α : Type} {m : NMap α} {k : Nat} {v : α} (h : NMap.find m k = some v) : (k, v) ∈ m := by
  induction m with
  | nil => cases h
  | cons e m ih =>
    obtain ⟨j, w⟩ := e
    unfold NMap.find at h
    split at h
    next hj =>
      cases h
      exact hj ▸ List.mem_cons_self
    next => exact List.mem_cons_of_mem _ (ih h)

/-- What accesses act on, less what they have asked of the stacks (R280, R491). -/
def Acc.unasked (a : Acc) : Acc := { a with asks := [], hubs := [], recon := 0 }

@[simp] theorem Acc.ask_unasked (a : Acc) (stack part n : Nat) : (a.ask stack part n).unasked = a.unasked := by
  unfold Acc.ask
  split <;> rfl

@[simp] theorem Acc.askTag_unasked (a : Acc) (d part : Nat) : (a.askTag d part).unasked = a.unasked := by
  unfold Acc.askTag
  split <;> simp

/-- A read of the peat tier asks the stacks, and does nothing else. -/
@[simp] theorem Acc.peatRead_unasked (a : Acc) (cl u mask part : Nat) : (a.peatRead cl u mask part).unasked = a.unasked := by
  unfold Acc.peatRead
  dsimp only
  split
  · rfl
  · split
    · rw [Acc.askTag_unasked, foldl_keeps Acc.unasked _ (fun a s => Acc.ask_unasked a s part 16)]
      rfl
    · simp

theorem Acc.run_of_unasked {a b : Acc} (h : a.unasked = b.unasked) : a.run = b.run := (congrArg Acc.run h :)
theorem Acc.tiers_of_unasked {a b : Acc} (h : a.unasked = b.unasked) : a.tiers = b.tiers := (congrArg Acc.tiers h :)
theorem Acc.setOf_of_unasked {a b : Acc} (h : a.unasked = b.unasked) : a.setOf = b.setOf := (congrArg Acc.setOf h :)

@[simp] theorem Acc.look_run (a : Acc) (island : Nat) : (a.look island).2.run = a.run := by
  unfold Acc.look
  split <;> rfl

theorem Acc.grantAt_cores (a : Acc) (regs : List RegE) (island : Nat) : (a.grantAt regs island).run.cores = a.run.cores := by
  unfold Acc.grantAt
  dsimp only
  split
  · rfl
  · exact (foldl_keeps JobRun.cores (fun (r : JobRun) (e : Nat × Nat) => r.count e.1 e.2) (fun _ _ => rfl) _ _).trans
      (congrArg JobRun.cores (Acc.look_run a island))

theorem Acc.grant_cores (a : Acc) (regs : List RegE) : (a.grant regs).run.cores = a.run.cores := by
  have granted := foldl_keeps (fun a : Acc => a.run.cores) (fun (a : Acc) i => a.grantAt regs i)
    (fun a i => Acc.grantAt_cores a regs i) (List.range 48) a
  unfold Acc.grant
  generalize (List.range 48).foldl _ a = b at granted ⊢
  exact granted

theorem State.onTiers_cores (s : State) {k : Nat} (hk : k < s.jobs.length) (f : Image → Acc → Acc) :
    ((s.onTiers k f).job k).run.cores = (f (s.job k).image (s.accFor k)).run.cores := by
  have granted := Acc.grant_cores (f (s.job k).image (s.accFor k)) (s.job k).image.regs
  unfold State.onTiers
  dsimp only
  generalize (f (s.job k).image (s.accFor k)).grant (s.job k).image.regs = a at granted ⊢
  refine (foldl_keeps (fun s : State => (s.job k).run.cores) State.placeUnit
    (fun s e => congrArg (fun js : List Job => (js.getD k {}).run.cores) (s.placeUnit_jobs e)) _ _).trans (Eq.trans ?_ granted)
  exact congrArg (fun j : Job => j.run.cores) (s.setJob_job k { s.job k with run := a.run } hk)

/-! ## Units fetched ahead (R271, R295) -/

/-- No core of a cluster has a unit of a line fetched ahead. -/
def JobRun.noneAhead (r : JobRun) (cl line : Nat) : Prop := ∀ e ∈ r.cores, e.1 / 16 = cl → ∀ u ∈ e.2.ahead, u / 4096 ≠ line

theorem JobRun.noneAhead.core {r : JobRun} {cl line n : Nat} (h : r.noneAhead cl line) (hn : n / 16 = cl) :
    ∀ u ∈ (r.core n).ahead, u / 4096 ≠ line := by
  intro u hu
  cases hc : NMap.find r.cores n with
  | none =>
    rw [JobRun.core, NMap.getD, hc] at hu
    cases hu
  | some c =>
    rw [JobRun.core, NMap.getD, hc] at hu
    exact h _ (NMap.mem_of_find hc) hn u hu

/-- A clean line that is dropped is ahead of no core of its cluster. -/
theorem Acc.evict_noneAhead (a : Acc) (cl line : Nat) {l : Line} (hl : l.dirty = 0) : (a.evict cl line l).run.noneAhead cl line := by
  unfold Acc.evict
  dsimp only
  rw [if_pos hl]
  split
  next =>
    intro e he hcl u hu
    obtain ⟨x, -, rfl⟩ := List.mem_map.mp he
    by_cases hx : x.1 / 16 = cl
    · rw [if_pos hx] at hu
      simpa using (List.mem_filter.mp hu).2
    · rw [if_neg hx] at hcl
      exact absurd hcl hx
  next unused =>
    intro e he hcl u hu hline
    refine unused (List.any_eq_true.mpr ⟨e, he, ?_⟩)
    simpa [hcl] using ⟨u, hu, hline⟩

/-! ## Lines in a full set (R269, R271) -/

theorem linesOf_within {line len : Nat} (h0 : len ≠ 0) (h : len ≤ 4096) : linesOf (line * 4096) len = [line * 4096] := by
  have one : (line * 4096 + len - 1) / 4096 + 1 - line * 4096 / 4096 = 1 := by omega
  unfold linesOf
  rw [if_neg h0, one]
  simp

theorem Acc.cacheSets_congr {a b : Acc} {i i' : Image} (cl : Nat) (hs : a.shared = b.shared) (hh : a.hosting = b.hosting)
    (hi : i.cacheUnits = i'.cacheUnits) : a.cacheSets i cl = b.cacheSets i' cl := by
  simp only [Acc.cacheSets, hs, hh, hi]

theorem State.accFor_sharing {s t : State} (k q : Nat) (h : s.health = t.health) :
    (s.accFor k).shared = (t.accFor q).shared ∧ (s.accFor k).hosting = (t.accFor q).hosting := by
  simp only [State.accFor, h, and_self]

/-- In a full set, a new line takes the place of the first of those that no other goes before. -/
theorem Acc.install_full (a : Acc) (i : Image) (cl line : Nat) (l : Line) {v : Nat × Line} {rest : List (Nat × Line)}
    (full : (a.tiers.tier cl).cache.filter (fun e => a.setOf i cl e.1 == a.setOf i cl line && e.1 != line) = v :: rest)
    (ways : ∀ w < 16, w ∈ (v :: rest).map (fun e => e.2.way))
    (least : ∀ e ∈ v :: rest, rankLe (v.2.rank i a.run cl) (e.2.rank i a.run cl) = true) :
    (a.install i cl line l).run = (a.evict cl v.1 v.2).run := by
  have taken : (List.range 16).find? (fun w => !((v :: rest).map (fun e => e.2.way)).contains w) = none := by
    simpa only [List.find?_eq_none, List.mem_range, Bool.not_eq_true', Bool.not_eq_false, List.contains_iff_mem] using ways
  have first : (v :: rest).find? (fun e => (v :: rest).all (fun x => rankLe (e.2.rank i a.run cl) (x.2.rank i a.run cl))) = some v :=
    List.find?_cons_of_pos (List.all_eq_true.mpr least)
  unfold Acc.install
  dsimp only
  rw [full, taken, first]
  rfl

/-- A unit within one line that its cluster lacks goes into a full set: the clean line whose place it takes is ahead of no core of the
cluster any more. -/
theorem Acc.fetchUnit_full (a : Acc) (i : Image) (cl line : Nat) (x : Access) {v : Nat × Line} {rest : List (Nat × Line)}
    (one : linesOf x.addr x.len = [line * 4096])
    (lacks : (a.tiers.tier cl).holds line (maskIn x.addr x.len (line * 4096)) = false)
    (absent : NMap.find (a.tiers.tier cl).cache line = none)
    (full : (a.tiers.tier cl).cache.filter (fun e => a.setOf i cl e.1 == a.setOf i cl line && e.1 != line) = v :: rest)
    (ways : ∀ w < 16, w ∈ (v :: rest).map (fun e => e.2.way))
    (least : ∀ e ∈ v :: rest, rankLe (v.2.rank i a.run cl) (e.2.rank i a.run cl) = true) (clean : v.2.dirty = 0) :
    (a.fetchUnit i cl x).run.noneAhead cl v.1 := by
  have asked := a.peatRead_unasked cl line (maskIn x.addr x.len (line * 4096)) x.part
  unfold Acc.fetchUnit
  rw [one, List.foldl_cons, List.foldl_nil]
  dsimp only
  rw [Nat.mul_div_cancel line (by decide), lacks, if_neg (by decide), absent]
  dsimp only
  rw [Acc.install_full _ i cl line _ (v := v) (rest := rest)]
  · exact Acc.evict_noneAhead _ cl v.1 clean
  · rw [Acc.tiers_of_unasked asked, Acc.setOf_of_unasked asked]
    exact full
  · exact ways
  · rw [Acc.run_of_unasked asked]
    exact least

/-! ## The prefetcher (R276, R286, R287) -/

theorem exec_prefetchIssue {n k : Nat} {s : State} (hn : n < 512) (hw : s.working n = some k) :
    exec (.prefetchIssue n) s = .next (s.prefetch k n) := by
  refine (checked_of s _ _ (decide_eq_true hn)).trans ?_
  rw [hw]

/-- Logical core 0 comes first of those that share its physical core (R487). -/
theorem State.onTurn_zero {s : State} (h : 0 < s.health.map.length) (ht : s.health.turns = []) : s.onTurn 0 = true := by
  obtain ⟨n, hn⟩ := Nat.exists_eq_add_one_of_ne_zero (Nat.ne_of_gt h)
  have serves : ∃ rest, s.health.serves (s.health.placed 0) = 0 :: rest := by
    simp [Health.serves, hn, List.range_succ_eq_map]
  obtain ⟨rest, hrest⟩ := serves
  unfold State.onTurn
  dsimp only
  rw [hrest, ht]
  cases rest <;> rfl

/-- The units of a SCAN are the state slices of its rows. -/
theorem Job.unitsAt_scan {j : Job} {n m insn : Nat} {c : Core} {f : FmtA}
    (h : decodeInsn n ((j.image.sec n).wordAt insn) = some (.scan m f)) : j.unitsAt n insn c =
      (scanRows 0 (j.batchRows c)).flatMap (fun r => r.accesses ((j.image.sec n).scanBlk f.ctrl) false) := by
  unfold Job.unitsAt
  rw [h]
  rfl

/-- With no request outstanding, accesses find a slot (R276). -/
theorem State.noSlot_idle {s : State} (h : s.tiers.requests = []) (k : Nat) (g : Image → Acc → Acc) : s.noSlot k g = false := by
  simp [State.noSlot, h]

/-- The next unit that is not held, where it may be read and finds slots, goes into the hinted cache and stands ahead of its core. -/
theorem State.prefetch_fetches {s : State} {k n : Nat} {x : Access} (short : (s.coreOf k n).ahead.length < 16)
    (next : ((s.job k).unitsAhead n (s.coreOf k n)).find? (fun x => !(s.coreOf k n).ahead.contains x.addr &&
      !(s.coreOf k n).arrived.contains x.addr && !(s.tiers.tier (n / 16)).holdsAll x) = some x)
    (slot : s.noSlot k (fun i a => a.fetchUnit i (n / 16) x) = false)
    (may : (s.job k).mayPrefetch k (s.coreOf k n) x = true) : s.prefetch k n =
      (s.setCore k n { s.coreOf k n with ahead := (s.coreOf k n).ahead ++ [x.addr] }).onTiers k
        (fun i a => (a.fetchUnit i (n / 16) x).countCluster (n / 16) 0x38 1) := by
  unfold State.coreOf at short next may ⊢
  unfold State.prefetch
  dsimp only
  rw [if_neg (Nat.not_le.mpr short), next]
  dsimp only
  rw [slot, may, if_neg Bool.false_ne_true, if_pos rfl]

/-- A line that fetching the unit leaves ahead of no core is ahead of none after the prefetch. -/
theorem State.prefetch_noneAhead {s : State} {k n cl line : Nat} {x : Access} (hk : k < s.jobs.length)
    (fetches : s.prefetch k n = (s.setCore k n { s.coreOf k n with ahead := (s.coreOf k n).ahead ++ [x.addr] }).onTiers k
      (fun i a => (a.fetchUnit i (n / 16) x).countCluster (n / 16) 0x38 1))
    (gone : ∀ c, (((s.setCore k n c).accFor k).fetchUnit (s.job k).image (n / 16) x).run.noneAhead cl line) :
    ((s.prefetch k n).job k).run.noneAhead cl line := by
  unfold JobRun.noneAhead at gone ⊢
  rw [fetches, State.onTiers_cores _ (by rwa [State.setCore_slots]), State.setCore_job _ _ _ _ hk]
  exact gone _

end Sys2Proof.Machine
end

section
/-! O45: a prefetch into a full set of the hinted cache (R271, R286, R295). The line that makes room was itself fetched ahead for the core,
and the core loses it, where the statement has the unit join all that were ahead. -/

namespace Sys2Proof.Machine

/-! ## Lines of one set (R269) -/

/-- How many sets the hinted cache of logical cluster 0 has. -/
def crowdSets : Nat := (State.reset.accFor 0).cacheSets {} 0

theorem crowdSets_pos : 0 < crowdSets := by
  unfold crowdSets Acc.cacheSets
  dsimp only
  split <;> split <;> decide

/-- Line `m` of the stream pool. -/
def poolLine (m : Nat) : Nat := 2 ^ 44 + m

/-- The set of a line of the stream pool. -/
def poolSet (m : Nat) : Fin crowdSets := ⟨Config.cacheSet (poolLine m) % crowdSets, Nat.mod_lt _ crowdSets_pos⟩

/-- Which set a line lies in is not exposed (log entry 12), but some set has lines without end. -/
theorem exists_crowd : ∃ f : Nat → Nat, StrictMono f ∧ ∀ i j, poolSet (f i) = poolSet (f j) := by
  obtain ⟨y, hy⟩ := Finite.exists_infinite_fiber poolSet
  have infinite : {m | poolSet m = y}.Infinite := Set.infinite_coe_iff.mp hy
  have inSet (i : Nat) : poolSet (Nat.nth (fun m => poolSet m = y) i) = y := Nat.nth_mem_of_infinite infinite i
  exact ⟨_, Nat.nth_strictMono infinite, fun i j => (inSet i).trans (inSet j).symm⟩

/-! ## The state -/

/-- A SCAN under control block 1. -/
def crowdScan : FmtA := { operand := 0xFFFF, ctrl := 1, span := 0, prec := 0 }

/-- A program of that SCAN, of one channel with a state of one element. -/
def crowdProgram : CoreSec := { progLen := 16, code := leBytes 16 (wordA 0x30 crowdScan) ++ leBytes 16 0x10001 ++ leBytes 16 0 }

/-- A row whose stream has its state at line `f 16` of the pool. -/
def crowdRow (f : Nat → Nat) : Row := { st := { kind := 1, statePtr := poolLine (f 16) * 4096, stateFmt := 9 }, phase := 2 }

/-- A core at the SCAN that has line `f 0` of the pool fetched ahead. -/
def crowdCore (f : Nat → Nat) : Core := { batch := some 0, ahead := [poolLine (f 0) * 4096] }

/-- The job of that core, with a batch of that row. -/
def crowdJob (f : Nat → Nat) : Job :=
  let desc : Desc :=
    { opcode := 0x10, flags := 0, tag := 7, job := 1, ring := 0, prio := 0, w8 := 0, w16 := 0, w24 := 0, w32 := 0, w40 := 0, w48 := 0
      cookie := 0 }
  { info := { id := 1, state := .running }
    image := { cores := [(0, crowdProgram)] }
    run := { cores := [(0, crowdCore f)]
             queue := [{ uid := 5, cmd := { desc, port := .a, set := 0, sealed := false, dev := false, caddr := 0, seq := 3 }, phase := 2
                         rows := [crowdRow f] }]
             batches := [{ id := 0, rows := [(5, 0)] }]
             vaNext := f 16 + 1 } }

/-- The entry of the hinted cache for line `f i` of the pool: valid, clean and in way `i`. -/
def crowdEntry (f : Nat → Nat) (i : Nat) : Nat × Line := (poolLine (f i), { valid := 0xFFFF, way := i })

/-- A module that runs the job, with lines `f 0` to `f 15` of the pool in the hinted cache of logical cluster 0. -/
def crowded (f : Nat → Nat) : State :=
  { State.reset with
    jobs := State.reset.jobs.set 0 (crowdJob f)
    sched := { running := some 0 }
    tiers := { clusters := [(0, { cache := (List.range 16).map (crowdEntry f) })] } }

/-- The unit that the SCAN will consume: the state at line `f 16`. -/
def crowdUnit (f : Nat → Nat) : Access := { addr := poolLine (f 16) * 4096, len := 2 }

@[simp] theorem crowded_running (f : Nat → Nat) : (crowded f).sched.running = some 0 := rfl

theorem crowded_health (f : Nat → Nat) : (crowded f).health = State.reset.health := rfl

theorem crowded_slots (f : Nat → Nat) : (crowded f).jobs.length = 64 := by
  simp [crowded, State.reset]

@[simp] theorem crowded_job (f : Nat → Nat) : (crowded f).job 0 = crowdJob f := by
  simp [crowded, State.job, State.reset]

theorem crowded_working (f : Nat → Nat) : (crowded f).working 0 = some 0 := by
  have turn : (crowded f).onTurn 0 = true := State.onTurn_zero (by simp [crowded_health, State.reset, State.resetMap]) rfl
  have well : (crowded f).placedWell 0 = true := by
    rw [State.placedWell, crowded_health]
    decide +kernel
  have placed : ((crowded f).health.replace.isEmpty && !(crowded f).health.exhausted && (crowded f).onTurn 0 &&
      (crowded f).placedWell 0) = true := by
    rw [turn, well]
    rfl
  unfold State.working
  rw [crowded_running]
  dsimp only
  rw [placed, crowded_job]
  rfl

theorem crowdScan_decoded : decodeInsn 0 (crowdProgram.wordAt 0) = some (.scan 0 crowdScan) := by decide +kernel

theorem crowdScan_block : (crowdProgram.scanBlk 1).elems = 1 ∧ (crowdProgram.scanBlk 1).slice = 0 := by decide +kernel

theorem crowdJob_sec (f : Nat → Nat) : (crowdJob f).image.sec 0 = crowdProgram := rfl

theorem crowdJob_rows (f : Nat → Nat) : (crowdJob f).batchRows (crowdCore f) = [crowdRow f] := rfl

theorem crowdRow_reads (f : Nat → Nat) :
    (scanRows 0 [crowdRow f]).flatMap (fun r => r.accesses (crowdProgram.scanBlk 1) false) = [crowdUnit f] := by
  obtain ⟨elems, slice⟩ := crowdScan_block
  have rows : scanRows 0 [crowdRow f] = [{ w := crowdRow f, v0 := 0 }] := rfl
  rw [rows, List.flatMap_singleton]
  simp [ScanRow.accesses, elems, ScanRow.sliceAt, slice, ScanRow.block, Stream.elemSize, crowdRow, crowdUnit]

theorem crowded_ahead (f : Nat → Nat) :
    ∃ rest, (crowdJob f).unitsAhead 0 (crowdCore f) = crowdUnit f :: rest := by
  have at0 : (crowdJob f).unitsAt 0 0 (crowdCore f) = [crowdUnit f] := by
    rw [Job.unitsAt_scan (crowdJob_sec f ▸ crowdScan_decoded), crowdJob_rows, crowdJob_sec]
    exact crowdRow_reads f
  exact ⟨_, congrArg (· ++ (crowdJob f).unitsAt 0 1 (crowdCore f)) at0⟩

theorem crowdUnit_lines (f : Nat → Nat) : linesOf (crowdUnit f).addr (crowdUnit f).len = [poolLine (f 16) * 4096] :=
  linesOf_within (len := 2) (by decide) (by decide)

theorem crowdUnit_mapped (f : Nat → Nat) : (crowdJob f).mapped (crowdUnit f).addr (crowdUnit f).len = true := by
  have parts : (crowdJob f).parts = [(poolBase, poolAddr (f 16 + 1))] := rfl
  have low : poolBase ≤ poolLine (f 16) * 4096 := by unfold poolBase poolLine; omega
  have high : poolLine (f 16) * 4096 + 2 ≤ poolAddr (f 16 + 1) := by unfold poolAddr poolBase poolLine; omega
  unfold Job.mapped
  rw [parts]
  simp [crowdUnit, spanned, low, high, show poolLine (f 16) * 4096 < poolAddr (f 16 + 1) by omega]

theorem crowdUnit_mayPrefetch (f : Nat → Nat) : (crowdJob f).mayPrefetch 0 (crowdCore f) (crowdUnit f) = true := by
  have opened : (crowdJob f).info.confidential = false := rfl
  simp [Job.mayPrefetch, crowdUnit_mapped, opened]

theorem crowded_tier (f : Nat → Nat) : (crowded f).tiers.tier 0 = { cache := (List.range 16).map (crowdEntry f) } := rfl

section
variable {f : Nat → Nat} (hf : StrictMono f)
include hf

theorem crowdEntry_ne {i : Nat} (hi : i < 16) : (crowdEntry f i).1 ≠ poolLine (f 16) := by
  have := hf hi
  simp only [crowdEntry, poolLine]
  omega

theorem crowded_absent : NMap.find ((List.range 16).map (crowdEntry f)) (poolLine (f 16)) = none := by
  rw [← Option.not_isSome_iff_eq_none, Option.isSome_iff_exists]
  rintro ⟨l, hl⟩
  obtain ⟨i, hi, e⟩ := List.mem_map.mp (NMap.mem_of_find hl)
  exact crowdEntry_ne hf (List.mem_range.mp hi) (congrArg Prod.fst e)

theorem crowded_lacks (mask : Nat) : ((crowded f).tiers.tier 0).holds (poolLine (f 16)) mask = false := by
  unfold Tier.holds
  rw [crowded_tier]
  dsimp only
  rw [crowded_absent hf]
  rfl

theorem crowded_lacksUnit : ((crowded f).tiers.tier 0).holdsAll (crowdUnit f) = false := by
  unfold Tier.holdsAll
  rw [crowdUnit_lines]
  simp [crowded_lacks hf]

theorem crowded_next : ((crowdJob f).unitsAhead 0 (crowdCore f)).find? (fun x => !(crowdCore f).ahead.contains x.addr &&
    !(crowdCore f).arrived.contains x.addr && !((crowded f).tiers.tier 0).holdsAll x) = some (crowdUnit f) := by
  obtain ⟨rest, hrest⟩ := crowded_ahead f
  have apart := crowdEntry_ne hf (i := 0) (by decide)
  rw [hrest]
  refine List.find?_cons_of_pos ?_
  rw [crowded_lacksUnit hf]
  simp only [crowdEntry] at apart
  simp [crowdCore, crowdUnit, Ne.symm apart]

end

/-! ## The prefetch -/

theorem crowded_core (f : Nat → Nat) : (crowded f).coreOf 0 0 = crowdCore f := rfl

/-- The set of a line as accesses of the job find it, whatever its core. -/
theorem crowded_sets (f : Nat → Nat) (c : Core) (line : Nat) :
    (((crowded f).setCore 0 0 c).accFor 0).setOf (crowdJob f).image 0 line = Config.cacheSet line % crowdSets := by
  obtain ⟨hs, hh⟩ := State.accFor_sharing (s := (crowded f).setCore 0 0 c) (t := State.reset) 0 0 rfl
  exact congrArg (Config.cacheSet line % ·) (Acc.cacheSets_congr 0 hs hh rfl)

theorem crowded_cache (f : Nat → Nat) :
    (List.range 16).map (crowdEntry f) = crowdEntry f 0 :: (List.range' 1 15).map (crowdEntry f) := rfl

/-- The first way goes before every other. -/
theorem crowdEntry_least (f : Nat → Nat) (i : Image) (r : JobRun) (m : Nat) :
    rankLe ((crowdEntry f 0).2.rank i r 0) ((crowdEntry f m).2.rank i r 0) = true := by
  simp [crowdEntry, Line.rank, rankLe]

section
variable {f : Nat → Nat} (hf : StrictMono f) (hset : ∀ i j, poolSet (f i) = poolSet (f j))
include hf hset

/-- The unit takes the place of line `f 0` in the cache, which no core has ahead any more. -/
theorem crowded_evicts (c : Core) :
    ((((crowded f).setCore 0 0 c).accFor 0).fetchUnit (crowdJob f).image 0 (crowdUnit f)).run.noneAhead 0 (poolLine (f 0)) := by
  have same : (List.range 16).map (crowdEntry f) = ((List.range 16).map (crowdEntry f)).filter (fun e =>
      (((crowded f).setCore 0 0 c).accFor 0).setOf (crowdJob f).image 0 e.1 ==
        (((crowded f).setCore 0 0 c).accFor 0).setOf (crowdJob f).image 0 (poolLine (f 16)) && e.1 != poolLine (f 16)) := by
    refine (List.filter_eq_self.mpr fun e he => ?_).symm
    obtain ⟨i, hi, rfl⟩ := List.mem_map.mp he
    rw [crowded_sets, crowded_sets]
    simp only [Bool.and_eq_true, beq_iff_eq, bne_iff_ne]
    exact ⟨congrArg Fin.val (hset i 16), crowdEntry_ne hf (List.mem_range.mp hi)⟩
  have ways (w : Nat) (hw : w < 16) : w ∈ ((List.range 16).map (crowdEntry f)).map (fun e => e.2.way) := by
    simpa [crowdEntry] using hw
  have least : ∀ e ∈ (List.range 16).map (crowdEntry f),
      rankLe ((crowdEntry f 0).2.rank (crowdJob f).image (((crowded f).setCore 0 0 c).accFor 0).run 0)
        (e.2.rank (crowdJob f).image (((crowded f).setCore 0 0 c).accFor 0).run 0) = true := by
    intro e he
    obtain ⟨i, -, rfl⟩ := List.mem_map.mp he
    exact crowdEntry_least f _ _ i
  rw [crowded_cache] at ways least
  refine Acc.fetchUnit_full _ _ 0 (poolLine (f 16)) (crowdUnit f) (crowdUnit_lines f) ?_ ?_ ?_ ways least rfl
  · exact crowded_lacks hf _
  · exact crowded_absent hf
  · exact same.symm.trans (crowded_cache f)

end

/-- Refutes O45: a unit prefetched into a full set takes the place of one that the same core has ahead, and the core then has ahead the
units of before less that one. -/
theorem not_tierEvents : ¬ Obligations.TierEvents := by
  unfold Obligations.TierEvents
  intro events
  obtain ⟨f, hf, hset⟩ := exists_crowd
  have slots : 0 < (crowded f).jobs.length := by rw [crowded_slots]; decide
  have short : ((crowded f).coreOf 0 0).ahead.length < 16 := by simp [crowded_core, crowdCore]
  have next := crowded_next hf
  rw [← crowded_core, ← crowded_job] at next
  have may := crowdUnit_mayPrefetch f
  rw [← crowded_core, ← crowded_job] at may
  have free := State.noSlot_idle (s := crowded f) rfl 0 (fun i a => a.fetchUnit i 0 (crowdUnit f))
  obtain ⟨prefetches, -⟩ := events (crowded f) 0 rfl slots
  obtain ⟨-, fetches, -⟩ := prefetches 0 (crowdUnit f) (by decide) (crowded_working f) short next
  obtain ⟨t, ht, hcore, -⟩ := fetches free may
  have gone : (t.job 0).run.noneAhead 0 (poolLine (f 0)) := by
    rw [exec_prefetchIssue (by decide) (crowded_working f)] at ht
    cases ht
    exact State.prefetch_noneAhead slots (State.prefetch_fetches short next free may) (fun c => crowded_evicts hf hset c)
  have kept : poolLine (f 0) * 4096 ∈ (t.coreOf 0 0).ahead := by
    rw [hcore, crowded_core]
    exact List.mem_append_left _ (List.mem_singleton_self _)
  exact gone.core rfl _ kept (Nat.mul_div_cancel _ (by decide))

end Sys2Proof.Machine
end

section
/-! SUPPORT. How codec commands enter the queue, start, code and end (R298, R299, R304, R315, R324, R326), and what their reads leave of the
engines. -/

namespace Sys2Proof.Machine

/-! ## Engines (R298) -/

/-- Accesses act on the tiers and on counters, not on the codec engines. -/
theorem State.onTiers_codecs (s : State) (k : Nat) (f : Image → Acc → Acc) : (s.onTiers k f).codecs = s.codecs := by
  unfold State.onTiers
  dsimp only
  generalize (f (s.job k).image (s.accFor k)).grant (s.job k).image.regs = a
  refine foldl_keeps State.codecs State.placeUnit (fun s e => ?_) _ _
  unfold State.placeUnit
  dsimp only
  split
  · rfl
  · split <;> rfl

@[simp] theorem State.hubReads_codecs (s : State) (k part : Nat) (xs : List (Nat × Nat)) :
    (s.hubReads k part xs).codecs = s.codecs := by
  refine foldl_keeps State.codecs (fun (s : State) (x : Nat × Nat) => s.hubRead k part x.1 x.2) (fun s x => ?_) xs s
  unfold State.hubRead State.hubAccess
  split
  · exact State.onTiers_codecs _ _ _
  · rfl

@[simp] theorem State.hubReads_queue (s : State) (k part : Nat) (xs : List (Nat × Nat)) (q : Nat) :
    ((s.hubReads k part xs).job q).run.queue = (s.job q).run.queue :=
  (congrArg JobRun.queue (State.hubReads_runData s k part xs q) :)

@[simp] theorem State.setJob_slots (s : State) (k : Nat) (j : Job) : (s.setJob k j).jobs.length = s.jobs.length :=
  List.length_set

/-- A running job is in one of the slots. -/
theorem State.slot_of_running {s : State} {k : Nat} (hs : (s.job k).info.state = .running) : k < s.jobs.length := by
  by_contra hk
  rw [State.job, List.getD_eq_default _ _ (Nat.le_of_not_lt hk)] at hs
  cases hs

/-- Which engine is free is no matter of the jobs. -/
@[simp] theorem State.setJob_freeEngine (s : State) (k : Nat) (j : Job) : (s.setJob k j).freeEngine = s.freeEngine := rfl

/-- A free engine is one of those that there are. -/
theorem State.freeEngine_lt {s : State} {e : Nat} (h : s.freeEngine = some e) : e < s.codecs.length := by
  unfold State.freeEngine at h
  dsimp only at h
  split at h
  next hlt =>
    cases h
    exact hlt
  next => cases h

/-! ## The entry of a command (R35) -/

theorem JobRun.mem_setQ {r : JobRun} {q : QCmd} (h : ∃ x ∈ r.queue, x.uid = q.uid) : q ∈ (r.setQ q).queue := by
  obtain ⟨x, hx, hu⟩ := h
  exact List.mem_map.mpr ⟨x, hx, by simp [hu]⟩

theorem JobRun.findQ_some {r : JobRun} {uid : Nat} {q : QCmd} (h : r.findQ uid = some q) : q ∈ r.queue ∧ q.uid = uid :=
  ⟨List.mem_of_find?_eq_some h, by simpa using List.find?_some h⟩

/-- The opcode is that of a codec command. -/
def codecOpcode (c : Cmd) : Prop := c.desc.opcode = 0x40 ∨ c.desc.opcode = 0x41

/-- The entry that a codec command takes in the queue. -/
def Job.codecEntry (j : Job) (c : Cmd) : QCmd := { uid := j.run.uidNext, cmd := c }

/-- A codec command names no stream, and only enters the queue (R35). -/
theorem Job.enqueue_codec (j : Job) {c : Cmd} (hc : codecOpcode c) : j.enqueue c =
    { j with run := { j.run with queue := j.run.queue ++ [j.codecEntry c], uidNext := j.run.uidNext + 1 } } := by
  rcases hc with ho | ho <;> simp [Job.enqueue, ho, JobRun.number, Job.codecEntry]

/-- A command that enters the queue alters nothing that a codec command is checked against. -/
theorem Job.codecRefusal_enqueue (j : Job) {c : Cmd} (hc : codecOpcode c) (d : Desc) : (j.enqueue c).codecRefusal d = j.codecRefusal d := by
  rw [Job.enqueue_codec j hc]
  rfl

/-! ## A codec command ends (R315, R329) -/

theorem JobRun.endCodec_publish (r : JobRun) (j : Job) (q : QCmd) (a : CodecArgs) (h : CodecHead) (w : CodecWork) (used : Nat) :
    ∃ p ∈ (r.endCodec j q a h w used).publish, p.cmd = q.cmd :=
  ⟨_, List.mem_append_right _ (List.mem_singleton_self _), rfl⟩

/-! ## An encode goes on (R324, R326) -/

section
variable (s : State) (k n : Nat) (q : QCmd) (e : Encoding)

/-- Where an encode that goes on in slot `k` comes to, and the loads that it then waits for. -/
def State.encodeTo : Encoding × Nat := (s.job k).encodeOn q ((codecArgs q.cmd.desc).slots + 1) e

/-- The state once an encode has come to its end. -/
def State.encodeEnded (w : CodecWork) (pos : Nat) : State :=
  { s.setJob k { s.job k with run := (s.job k).run.endCodec (s.job k) q (codecArgs q.cmd.desc) ((s.job k).headOf q).1 w pos } with
    codecs := s.codecs.set n (s.codecs.getD n {}).idle }

/-- The state once an encode waits for the windows of its next frame. -/
def State.encodeSearches (loads : Nat) : State :=
  ({ s.setJob k { s.job k with run := (s.job k).run.setQ { q with phase := 2, engine := n, enc := some e } } with
    codecs := s.codecs.set n { inService := true, busy := some q.uid, loads, windows := rowWindows 0 } } : State).hubReads k 4
      ((s.job k).headOf q).1.searchReads

theorem State.encodeAt_ends (h : (s.encodeTo k q e).2 = 0) :
    s.encodeAt k n q e = s.encodeEnded k n q (s.encodeTo k q e).1.work (s.encodeTo k q e).1.pos := if_pos h

theorem State.encodeAt_searches (h : (s.encodeTo k q e).2 ≠ 0) :
    s.encodeAt k n q e = s.encodeSearches k n q (s.encodeTo k q e).1 (s.encodeTo k q e).2 := if_neg h

end

section
variable {s : State} {k n : Nat} (hk : k < s.jobs.length) (q : QCmd)
include hk

theorem State.encodeEnded_publish (w : CodecWork) (pos : Nat) :
    ∃ p ∈ ((s.encodeEnded k n q w pos).job k).run.publish, p.cmd = q.cmd := by
  have job : (s.encodeEnded k n q w pos).job k = _ := s.setJob_job k _ hk
  rw [job]
  exact JobRun.endCodec_publish _ _ _ _ _ _ _

theorem State.encodeSearches_queue (h : ∃ x ∈ (s.job k).run.queue, x.uid = q.uid) (e : Encoding) (loads : Nat) :
    { q with phase := 2, engine := n, enc := some e } ∈ ((s.encodeSearches k n q e loads).job k).run.queue := by
  rw [State.encodeSearches, State.hubReads_queue]
  change _ ∈ ((s.setJob k _).job k).run.queue
  rw [State.setJob_job _ _ _ hk]
  exact JobRun.mem_setQ h

end

section
variable {s : State} {n : Nat} (hn : n < s.codecs.length) (k : Nat) (q : QCmd)
include hn

theorem State.encodeEnded_engine (w : CodecWork) (pos : Nat) :
    (s.encodeEnded k n q w pos).codecs.getD n {} = (s.codecs.getD n {}).idle := getD_set_self hn _ _

theorem State.encodeSearches_engine (e : Encoding) (loads : Nat) : (s.encodeSearches k n q e loads).codecs.getD n {} =
    { inService := true, busy := some q.uid, loads, windows := rowWindows 0 } := by
  rw [State.encodeSearches, State.hubReads_codecs]
  exact getD_set_self hn _ _

end

/-! ## A command starts on an engine (R298, R299) -/

/-- The state once a codec command has read what it starts from (R298). -/
def State.codecRead (s : State) (k : Nat) (q : QCmd) : State := s.hubReads k 4 ((s.job k).codecReads q)

section
variable {s : State} {k : Nat} (hl : (s.job k).lost = []) (e : Nat) (q : QCmd)
include hl

theorem State.startCodec_decode (ho : q.cmd.desc.opcode = 0x40) : s.startCodec k e q =
    (s.codecRead k q).setJob k { (s.codecRead k q).job k with run := ((s.codecRead k q).job k).decode q } :=
  (if_neg (ne_true_of_eq_false (Job.readsWait_none hl _))).trans (if_pos ho)

theorem State.startCodec_encode (ho : q.cmd.desc.opcode ≠ 0x40) : s.startCodec k e q =
    (s.codecRead k q).encodeAt k e q (((s.codecRead k q).job k).encodingOf q) :=
  (if_neg (ne_true_of_eq_false (Job.readsWait_none hl _))).trans (if_neg ho)

end

/-- A codec command has finished, or is at work on engine `e`, which searches for it. -/
def State.codecRuns (s : State) (k e : Nat) (c : Cmd) : Prop :=
  (∃ p ∈ (s.job k).run.publish, p.cmd = c) ∨
    ∃ x ∈ (s.job k).run.queue, x.cmd = c ∧ x.phase = 2 ∧ x.engine = e ∧ (s.codecs.getD e {}).busy = some x.uid

/-- At its end an encode leaves its engine idle and publishes; before it, the engine searches for it, and what it has coded stays
with it. -/
theorem State.encodeAt_leaves {s : State} {k n : Nat} {q : QCmd} (hk : k < s.jobs.length) (hn : n < s.codecs.length)
    (hq : ∃ x ∈ (s.job k).run.queue, x.uid = q.uid) (e : Encoding) :
    ((s.encodeTo k q e).2 = 0 → ((s.encodeAt k n q e).codecs.getD n {}).busy = none ∧
      ∃ p ∈ ((s.encodeAt k n q e).job k).run.publish, p.cmd = q.cmd) ∧
    ((s.encodeTo k q e).2 ≠ 0 → (s.encodeAt k n q e).codecs.getD n {} =
        { inService := true, busy := some q.uid, loads := (s.encodeTo k q e).2, windows := rowWindows 0 } ∧
      { q with phase := 2, engine := n, enc := some (s.encodeTo k q e).1 } ∈ ((s.encodeAt k n q e).job k).run.queue) := by
  refine ⟨fun h => ?_, fun h => ?_⟩
  · rw [State.encodeAt_ends _ _ _ _ _ h, State.encodeEnded_engine hn]
    exact ⟨rfl, State.encodeEnded_publish hk q _ _⟩
  · rw [State.encodeAt_searches _ _ _ _ _ h, State.encodeSearches_engine hn]
    exact ⟨rfl, State.encodeSearches_queue hk q hq _ _⟩

theorem State.encodeAt_runs {s : State} {k e : Nat} {q : QCmd} (hk : k < s.jobs.length) (he : e < s.codecs.length)
    (hq : ∃ x ∈ (s.job k).run.queue, x.uid = q.uid) (y : Encoding) : (s.encodeAt k e q y).codecRuns k e q.cmd := by
  obtain ⟨ends, searches⟩ := State.encodeAt_leaves hk he hq y
  by_cases h : (s.encodeTo k q y).2 = 0
  · exact .inl (ends h).2
  · obtain ⟨engine, queued⟩ := searches h
    exact .inr ⟨_, queued, rfl, rfl, rfl, congrArg Engine.busy engine⟩

/-- A decode runs to its end, an encode to its end or to the search of its engine. -/
theorem State.startCodec_runs {s : State} {k e : Nat} {q : QCmd} (hk : k < s.jobs.length) (he : e < s.codecs.length)
    (hl : (s.job k).lost = []) (hq : ∃ x ∈ (s.job k).run.queue, x.uid = q.uid) : (s.startCodec k e q).codecRuns k e q.cmd := by
  have hk' : k < (s.codecRead k q).jobs.length := by rwa [State.codecRead, State.hubReads_slots]
  by_cases ho : q.cmd.desc.opcode = 0x40
  · rw [State.startCodec_decode hl e q ho]
    refine .inl ?_
    rw [State.setJob_job _ _ _ hk']
    exact JobRun.endCodec_publish _ _ _ _ _ _ _
  · rw [State.startCodec_encode hl e q ho]
    exact State.encodeAt_runs hk' (by rwa [State.codecRead, State.hubReads_codecs])
      (by rwa [State.codecRead, State.hubReads_queue]) _

end Sys2Proof.Machine
end

section
/-! O44: codec commands are refused, run on a free engine, or wait; an encode codes a frame with the last of its windows (R298, R299, R304,
R324, R326). -/

namespace Sys2Proof.Machine

/-! ## Dispatch (R298, R304) -/

/-- The instruction of a codec command. -/
def codecInstr (c : Cmd) (i : Instr) : Prop :=
  (i = .codecDecode c ∧ c.desc.opcode = 0x40) ∨ (i = .codecEncode c ∧ c.desc.opcode = 0x41)

theorem codecInstr.opcode {c : Cmd} {i : Instr} (h : codecInstr c i) : codecOpcode c := h.imp And.right And.right

theorem exec_codec {c : Cmd} {i : Instr} (h : codecInstr c i) (s : State) : exec i s = .next (s.codecCmd c) := by
  obtain ⟨rfl, ho⟩ | ⟨rfl, ho⟩ := h <;> exact checked_of _ _ _ (beq_iff_eq.mpr ho)

/-- The entry of a codec command that is dispatched. -/
def Job.codecReadied (j : Job) (c : Cmd) : QCmd := { j.codecEntry c with phase := 1 }

/-- The job once a codec command is refused with a status. -/
def Job.codecRefused (j : Job) (c : Cmd) (st : Nat) : Job :=
  { j.enqueue c with run := (j.enqueue c).run.refuse (j.codecEntry c) st }

/-- The job once a codec command is dispatched. -/
def Job.codecDispatched (j : Job) (c : Cmd) : Job := { j.enqueue c with run := (j.enqueue c).run.setQ (j.codecReadied c) }

/-- What a codec command comes to that no other of its context holds back. -/
def State.codecOutcome (s : State) (k : Nat) (c : Cmd) : State :=
  match (s.job k).codecRefusal c.desc, s.freeEngine with
  | some st, _ => s.setJob k ((s.job k).codecRefused c st)
  | none, some e => (s.setJob k ((s.job k).codecDispatched c)).startCodec k e ((s.job k).codecReadied c)
  | none, none => s.setJob k ((s.job k).codecDispatched c)

section
variable {s : State} {k : Nat} {c : Cmd} (h : (s.job k).codecRefusal c.desc = none)
include h

theorem State.codecOutcome_starts {e : Nat} (he : s.freeEngine = some e) : s.codecOutcome k c =
    (s.setJob k ((s.job k).codecDispatched c)).startCodec k e ((s.job k).codecReadied c) := by
  rw [State.codecOutcome, h, he]

theorem State.codecOutcome_waits (he : s.freeEngine = none) : s.codecOutcome k c = s.setJob k ((s.job k).codecDispatched c) := by
  rw [State.codecOutcome, h, he]

end

theorem State.codecOutcome_refused {s : State} {k : Nat} {c : Cmd} {st : Nat} (h : (s.job k).codecRefusal c.desc = some st) :
    s.codecOutcome k c = s.setJob k ((s.job k).codecRefused c st) := by
  rw [State.codecOutcome, h]

theorem Job.codecDispatched_lost (j : Job) {c : Cmd} (hc : codecOpcode c) : (j.codecDispatched c).lost = j.lost := by
  rw [Job.codecDispatched, Job.enqueue_codec j hc]

/-- A refused command publishes its status and no outputs (R304). -/
theorem Job.codecRefused_publish (j : Job) {c : Cmd} (hc : codecOpcode c) (st : Nat) :
    ∃ p, (j.codecRefused c st).run.publish = j.run.publish ++ [p] ∧ p.cmd = c ∧ p.status = st ∧ p.writes = [] := by
  rw [Job.codecRefused, Job.enqueue_codec _ hc]
  refine ⟨_, rfl, rfl, Nat.zero_max st, ?_⟩
  rcases hc with ho | ho <;> simp [QCmd.publication, QCmd.results, Job.codecEntry, ho]

section
variable {j : Job} {c : Cmd} (hc : codecOpcode c) (hq : j.run.queue = [])
include hc hq

theorem Job.enqueue_codec_queue : (j.enqueue c).run.queue = [j.codecEntry c] := by
  rw [Job.enqueue_codec _ hc, hq]
  rfl

theorem Job.waitingFor_codec : j.waitingFor c = (j.enqueue c, some (j.codecEntry c)) := by
  rw [Job.waitingFor_new (by simp [hq]), Job.enqueue_codec_queue hc hq]
  rfl

theorem Job.codecDispatched_queue : (j.codecDispatched c).run.queue = [j.codecReadied c] := by
  simp [Job.codecDispatched, JobRun.setQ, Job.enqueue_codec_queue hc hq, Job.codecReadied]

end

/-- A codec command that is alone in its queue is held back by no other (R299). -/
theorem exec_codec_alone {s : State} {c : Cmd} {k : Nat} {i : Instr} (hr : s.sched.running = some k)
    (hs : (s.job k).info.state = .running) (hid : (s.job k).info.id = c.desc.job) (hi : codecInstr c i)
    (hq : (s.job k).run.queue = []) : exec i s = .next (s.codecOutcome k c) := by
  have slot : s.jobOf c = some k := by simp [State.jobOf, State.runningJob_of hr hs, hid]
  have alone : ((s.job k).enqueue c).run.queue.takeWhile (fun x => x.uid != ((s.job k).codecEntry c).uid) = [] := by
    simp [Job.enqueue_codec_queue hi.opcode hq]
  rw [exec_codec hi, State.codecCmd, slot]
  dsimp only
  rw [Job.waitingFor_codec hi.opcode hq]
  dsimp only
  rw [alone, if_neg (by simp), Job.codecRefusal_enqueue _ hi.opcode, State.codecOutcome]
  cases (s.job k).codecRefusal c.desc with
  | some st => rfl
  | none =>
    dsimp only
    rw [State.setJob_freeEngine]
    cases s.freeEngine <;> rfl

section
variable {s : State} {c : Cmd} {k : Nat} (hk : k < s.jobs.length) (hc : codecOpcode c)
include hk hc

theorem State.codecDispatched_lost (hl : (s.job k).lost = []) : ((s.setJob k ((s.job k).codecDispatched c)).job k).lost = [] := by
  rwa [State.setJob_job _ _ _ hk, Job.codecDispatched_lost _ hc]

/-- A command that finds a free engine has finished there, or is at work on it. -/
theorem State.codecOutcome_runs {e : Nat} (hq : (s.job k).run.queue = []) (hok : (s.job k).codecRefusal c.desc = none)
    (hl : (s.job k).lost = []) (he : s.freeEngine = some e) : (s.codecOutcome k c).codecRuns k e c := by
  rw [State.codecOutcome_starts hok he]
  exact State.startCodec_runs (q := (s.job k).codecReadied c) (by rwa [State.setJob_slots]) (State.freeEngine_lt he)
    (State.codecDispatched_lost hk hc hl) (by simp [State.setJob_job _ _ _ hk, Job.codecDispatched_queue hc hq])

end

/-! ## Waiting commands (R298, R299) -/

theorem exec_codecDispatch {s : State} {k e : Nat} {q : QCmd} (hr : s.sched.running = some k)
    (hs : (s.job k).info.state = .running) (he : s.freeEngine = some e)
    (hq : (s.job k).run.queue.find? (s.job k).run.codecReady = some q) :
    exec .codecDispatch s = .next (s.startCodec k e q) := by
  change execCodecDispatch s = _
  simp only [execCodecDispatch, State.runningJob_of hr hs, he, hq]

/-- A codec command that waits alone may start. -/
theorem JobRun.codecReady_alone {r : JobRun} {q : QCmd} (hq : r.queue = [q]) (hc : q.isCodec = true) (hp : q.phase = 1) :
    r.queue.find? r.codecReady = some q := by
  simp [JobRun.codecReady, hq, hc, hp]

/-! ## Windows (R324, R329) -/

/-- The job once a load of its windows is counted (R329). -/
def Job.loadCounted (j : Job) : Job := { j with run := j.run.count 0x240 1 }

/-- The state once a load of the windows of the job in slot `k` is counted. -/
def State.loadCounted (s : State) (k : Nat) : State := s.setJob k (s.job k).loadCounted

/-- The encode of a command once it has coded the frame that it is at. -/
def Job.frameCoded (j : Job) (q : QCmd) : Encoding :=
  (j.encodingOf q).frame j (codecArgs q.cmd.desc) (j.headOf q).1 (j.headOf q).2

/-- The engine once one load more is done, and its windows those of the next row. -/
def Engine.loaded (x : Engine) (h : CodecHead) : Engine :=
  { x with loads := x.loads - 1, windows := rowWindows (rowOf h.height (x.loads - 1)) }

theorem State.loadCounted_job {s : State} {k : Nat} (hk : k < s.jobs.length) : (s.loadCounted k).job k = (s.job k).loadCounted :=
  State.setJob_job s k _ hk

section
variable {s : State} {k e uid : Nat} {q : QCmd} (he : e < 16) (hr : s.sched.running = some k)
  (hs : (s.job k).info.state = .running) (hb : (s.codecs.getD e {}).busy = some uid) (hq : (s.job k).run.findQ uid = some q)
include he hr hs hb hq

theorem exec_codecWindowLoaded_more (h : 1 < (s.codecs.getD e {}).loads) : exec (.codecWindowLoaded e) s = .next
    { s.loadCounted k with codecs := s.codecs.set e ((s.codecs.getD e {}).loaded ((s.job k).headOf q).1) } := by
  refine (checked_of s _ _ (decide_eq_true he)).trans (congrArg _ ?_)
  have hq' : ((s.job k).run.count 0x240 1).findQ uid = some q := hq
  simp only [State.windowLoaded, State.runningJob_of hr hs, hb, hq']
  rw [if_pos h, Engine.loaded, hb]
  rfl

theorem exec_codecWindowLoaded_last (h : (s.codecs.getD e {}).loads ≤ 1) :
    exec (.codecWindowLoaded e) s = .next ((s.loadCounted k).encodeAt k e q ((s.job k).frameCoded q)) := by
  refine (checked_of s _ _ (decide_eq_true he)).trans (congrArg _ ?_)
  have hq' : ((s.job k).run.count 0x240 1).findQ uid = some q := hq
  simp only [State.windowLoaded, State.runningJob_of hr hs, hb, hq']
  exact if_neg (Nat.not_lt.mpr h)

end

/-- Settles O44: each command is dispatched, waits or goes on by what stands alone in its queue and by the engine that is free. -/
theorem codecCommands : Obligations.CodecCommands := by
  unfold Obligations.CodecCommands
  intro s c k hr hs hid
  have hk := State.slot_of_running hs
  refine ⟨fun i hi hq => ⟨fun st hst => ?_, fun hok _ he => ?_, fun hok hl e he =>
      ⟨_, exec_codec_alone hr hs hid hi hq, State.codecOutcome_runs hk (codecInstr.opcode hi) hq hok hl he⟩⟩,
    fun i q e hi hq hlast hok hl he _ => ?_, fun e q he hq => exec_codecDispatch hr hs he hq, fun e q he hq hc hp hl => ?_,
    fun e uid q he hlen hb hq => ?_⟩
  · obtain ⟨p, hp⟩ := (s.job k).codecRefused_publish (codecInstr.opcode hi) st
    refine ⟨_, p, exec_codec_alone hr hs hid hi hq, ?_⟩
    rw [State.codecOutcome_refused hst, State.setJob_job _ _ _ hk]
    exact hp
  · refine ⟨_, exec_codec_alone hr hs hid hi hq, (s.job k).codecReadied c, ?_, rfl, rfl⟩
    rw [State.codecOutcome_waits hok he, State.setJob_job _ _ _ hk, Job.codecDispatched_queue (codecInstr.opcode hi) hq]
    exact List.mem_singleton_self _
  · have hc := codecInstr.opcode hi
    obtain rfl : (s.job k).codecEntry c = q := by simpa [Job.enqueue_codec_queue hc hq] using hlast
    intro j q' s0 s1 j1 a y
    have step : exec i s = .next (s0.startCodec k e q') :=
      (exec_codec_alone hr hs hid hi hq).trans (congrArg _ (State.codecOutcome_starts hok he))
    have hl0 : (s0.job k).lost = [] := State.codecDispatched_lost hk hc hl
    have decodes (ho : c.desc.opcode = 0x40) := step.trans (congrArg _ (State.startCodec_decode hl0 e q' ho))
    have encodes (ho : c.desc.opcode = 0x41) : exec i s = .next (s1.encodeAt k e q' (j1.encodingOf q')) :=
      step.trans (congrArg _ (State.startCodec_encode hl0 e q' (ho.trans_ne (by decide))))
    exact ⟨decodes, fun ho hend => (encodes ho).trans (congrArg _ (State.encodeAt_ends s1 k e q' _ hend)),
      fun ho hon => (encodes ho).trans (congrArg _ (State.encodeAt_searches s1 k e q' _ hon))⟩
  · refine ⟨_, exec_codecDispatch hr hs he (JobRun.codecReady_alone hq hc hp), ?_⟩
    refine (State.startCodec_runs hk (State.freeEngine_lt he) hl ⟨q, by simp [hq], rfl⟩).imp_right ?_
    rintro ⟨x, hx, hcmd, hphase, heng, -⟩
    exact ⟨x, hx, hcmd, hphase, heng⟩
  · obtain ⟨hmem, rfl⟩ := JobRun.findQ_some hq
    have counted := State.loadCounted_job hk
    by_cases hmore : 1 < (s.codecs.getD e {}).loads
    · refine ⟨_, exec_codecWindowLoaded_more he hr hs hb hq hmore, fun _ => ⟨?_, ?_, congrArg Job.run counted⟩,
        fun h => absurd hmore (Nat.not_lt.mpr h)⟩
      · exact congrArg Engine.loads (getD_set_self hlen _ _)
      · exact (congrArg Engine.busy (getD_set_self hlen _ _)).trans hb
    · refine ⟨_, exec_codecWindowLoaded_last he hr hs hb hq (Nat.not_lt.mp hmore), fun h => absurd h hmore, fun _ => ?_⟩
      have slot : k < (s.loadCounted k).jobs.length := by rwa [State.loadCounted, State.setJob_slots]
      have queued : ∃ x ∈ ((s.loadCounted k).job k).run.queue, x.uid = q.uid := by
        rw [counted]
        exact ⟨q, hmem, rfl⟩
      obtain ⟨ends, searches⟩ := State.encodeAt_leaves (n := e) slot hlen queued ((s.job k).frameCoded q)
      rw [State.encodeTo, counted] at ends searches
      refine ⟨ends, fun hon => ?_⟩
      obtain ⟨engine, entry⟩ := searches hon
      exact ⟨congrArg Engine.busy engine, congrArg Engine.loads engine, _, entry, rfl, rfl⟩

end Sys2Proof.Machine
end

section
/-! O2: the machine after reset. -/

namespace Sys2Proof.Machine

/-- An element of a list of equal ones, read with the same default. -/
theorem getD_replicate_self {α : Type} (n k : Nat) (x : α) : (List.replicate n x).getD k x = x := by
  rw [List.getD_eq_getElem?_getD, List.getElem?_getD_replicate_default_eq]

theorem reset_job (k : Nat) : State.reset.job k = {} := getD_replicate_self (α := Job) 64 k {}

theorem reset_link (n : Nat) : State.reset.link n = {} := getD_replicate_self (α := Link) 48 n {}

theorem reset_port (p : Port) : State.reset.port p = {} := by cases p <;> rfl

/-- Settles O2: the numbers of units by the lengths of their lists, and each register by the slot, port or link that reset leaves. -/
theorem resetValues : Obligations.ResetValues := by
  unfold Obligations.ResetValues
  refine ⟨⟨List.length_replicate, List.length_replicate, List.length_replicate, List.length_replicate⟩, rfl, rfl,
    fun k _ => congrArg Job.info (reset_job k), fun p n => ?_, fun p => ?_, fun n _ => ?_, rfl, rfl, rfl, rfl, rfl, rfl⟩
  · rw [reset_port]
    rfl
  · rw [reset_port]
    exact ⟨rfl, rfl, rfl, rfl⟩
  · rw [reset_link]
    exact ⟨rfl, rfl⟩

end Sys2Proof.Machine
end

section
/-! O13: the semaphore instructions (R357). -/

namespace Sys2Proof.Machine

section
variable {s : State} {n k w : Nat} {f : FmtM} (hn : n < 512) (hf : fmtMOk f = true)
include hn hf

/-- A semaphore instruction of a core that the P6 has. -/
theorem checked_semaphore (t : State) : checked s (coreOk n && fmtMOk f) t = .next t :=
  checked_of s _ _ (by simp [coreOk, hn, hf])

variable (h : s.atInsn n k w) {effect : Job → Core → Effect}
include h

theorem semaphore_retires {core : Core} {r : JobRun}
    (e : effect (s.job k) (s.coreOf k n) = .done { job := { s.job k with run := r }, core }) :
    checked s (coreOk n && fmtMOk f) (s.retire n w effect) =
      .next (s.setJob k { s.job k with run := r.setCore n (core.stepped (core.insn + 1)) }) := by
  rw [checked_semaphore hn hf]
  exact congrArg _ (State.retire_plain h e rfl rfl rfl rfl rfl rfl)

theorem semaphore_waits {after : Nat → Core → Done → State → State} {x : CoreWait}
    (hx : (∀ a l p, x ≠ .peat a l p) ∧ x ≠ .browse) (e : effect (s.job k) (s.coreOf k n) = .wait x (s.job k)) :
    checked s (coreOk n && fmtMOk f) (s.retireThen n w effect after) =
      .next (s.setCore k n { s.coreOf k n with wait := x, inCmd := x.inCmd }) := by
  rw [checked_semaphore hn hf, State.retireThen_wait h e, State.cooled_plain hx.1 hx.2]
  rfl

/-- An instruction with an effect outside its core, after which its core stands at the next one. -/
theorem semaphore_goes {after : Nat → Core → Done → State → State}
    (e : effect (s.job k) (s.coreOf k n) = effectNone (s.job k) (s.coreOf k n)) :
    checked s (coreOk n && fmtMOk f) (s.retireThen n w effect after) =
      .next (after k (s.coreOf k n) { job := s.job k, core := s.coreOf k n }
        (s.setCore k n ((s.coreOf k n).stepped ((s.coreOf k n).insn + 1)))) := by
  rw [checked_semaphore hn hf, State.retireThen_done h e rfl, State.finishInsn_plain _ rfl rfl rfl rfl rfl rfl]
  rfl

end

section
variable {s : State} {n : Nat} {f : FmtM} {j : Job} {c : Core}

theorem effectWait_goes (h : (semValue f c).toNat ≤ (j.run.sem f.sem).toNat) : effectWait f j c =
    .done { job := { j with run := j.run.setSem f.sem (j.run.sem f.sem - semValue f c) }, core := c } :=
  if_neg (by simpa [BitVec.ult] using h)

theorem effectWait_waits (h : (j.run.sem f.sem).toNat < (semValue f c).toNat) :
    effectWait f j c = .wait (.sem f.sem (semValue f c)) j :=
  if_pos (by simpa [BitVec.ult] using h)

theorem effectSignal_goes (h : s.localPeer (peerOf c f.rb) = true ∨
    s.mayLeave (signalPacket s.herd.addr j.info.id n f c) = true) : effectSignal s n f j c = effectNone j c :=
  if_pos (by simpa using h)

theorem effectSignal_waits (hp : s.localPeer (peerOf c f.rb) = false)
    (h : s.mayLeave (signalPacket s.herd.addr j.info.id n f c) = false) : effectSignal s n f j c = .wait .signalFull j :=
  if_neg (by simp [hp, h])

end

/-- A SIGNAL to this module adds to the semaphore after its core has gone on. -/
theorem signalOut_local {s : State} {n k : Nat} {f : FmtM} {c c' : Core} {d : Done} (hk : k < s.jobs.length)
    (hp : s.localPeer (peerOf c f.rb) = true) : State.signalOut n f k c d (s.setCore k n c') =
      let r := (s.job k).run
      let sems := NMap.put r.sems (f.sem % 4096) (NMap.getD r.sems (f.sem % 4096) 0 + semValue f c)
      s.setJob k { s.job k with run := ({ r with sems } : JobRun).setCore n c' } := by
  refine (if_pos hp).trans ?_
  unfold State.raiseSem
  dsimp only
  rw [State.setCore_job _ _ _ _ hk, BitVec.ofNat_toNat, BitVec.setWidth_eq]
  simp [State.setCore, State.setJob, JobRun.setCore]

/-- A SIGNAL to another module sends its packet after its core has gone on. -/
theorem signalOut_remote {s : State} {n k : Nat} {f : FmtM} {c c' : Core} {d : Done}
    (hp : s.localPeer (peerOf c f.rb) = false) : State.signalOut n f k c d (s.setCore k n c') =
      (s.setCore k n c').sendPacket (signalPacket s.herd.addr (s.job k).info.id n f c) := by
  have id : ((s.setCore k n c').job k).info.id = (s.job k).info.id :=
    State.setJob_keeps (fun j => j.info.id) s k k (j := { s.job k with run := (s.job k).run.setCore n c' }) rfl
  refine (if_neg (fun h => Bool.noConfusion (hp.symm.trans h))).trans ?_
  rw [id]
  rfl

/-- A waiting WAIT whose semaphore holds enough takes its value and goes on. -/
theorem execWaitSatisfied_goes {s : State} {n k m : Nat} {u : W32} (hn : n < 512) (hw : s.working n = some k)
    (hc : (s.coreOf k n).wait = .sem m u) (hu : u.toNat ≤ ((s.job k).run.sem m).toNat) :
    execWaitSatisfied n s = .next ((s.fresh.2.setJob k { s.job k with
      run := ((s.job k).run.setSem m ((s.job k).run.sem m - u)).setCore n
        { s.coreOf k n with wait := .run, insn := (s.coreOf k n).insn + 1 } }).jobCount k 0x28 s.fresh.1) := by
  refine (checked_of s _ _ (decide_eq_true hn)).trans (congrArg _ ?_)
  unfold State.coreOf at hc ⊢
  rw [hw]
  dsimp only
  rw [hc]
  exact if_neg (by simpa [BitVec.ult] using hu)

theorem State.jobCount_job (s : State) (k off n : Nat) (hk : k < s.jobs.length) : (s.jobCount k off n).job k =
    { s.job k with run := { (s.job k).run with ctrJob := bump (s.job k).run.ctrJob off n } } := State.setJob_job s k _ hk

/-- Settles O13: each instruction by what its effect comes to. -/
theorem semaphoreInstructions : Obligations.SemaphoreInstructions := by
  unfold Obligations.SemaphoreInstructions
  intro n k f s hn hf c j v w go
  refine ⟨fun h => ?_, fun h => ?_, fun h hv => ?_, fun h hv => ?_, fun h hp hk => ?_, fun h hp => ⟨fun hl => ?_, fun hl => ?_⟩,
    fun m u hw hc hu hk => ?_⟩
  · exact semaphore_retires hn hf h rfl
  · exact semaphore_retires hn hf h rfl
  · exact semaphore_retires hn hf h (effectWait_goes hv)
  · exact semaphore_waits hn hf h (by simp) (effectWait_waits hv)
  · exact (semaphore_goes hn hf h (effectSignal_goes (.inl hp))).trans (congrArg _ (signalOut_local hk hp))
  · exact (semaphore_goes hn hf h (effectSignal_goes (.inr hl))).trans (congrArg _ (signalOut_remote hp))
  · exact semaphore_waits hn hf h (by simp) (effectSignal_waits hp hl)
  · let r := (j.run.setSem m (j.run.sem m - u)).setCore n { c with wait := .run, insn := c.insn + 1 }
    have job := (State.jobCount_job (s.fresh.2.setJob k { j with run := r }) k 0x28 s.fresh.1
      ((State.setJob_slots _ _ _).symm ▸ hk)).trans (by rw [State.setJob_job s.fresh.2 k _ hk])
    exact ⟨_, execWaitSatisfied_goes hn hw hc hu, congrArg (·.run.sems) job,
      (congrArg (·.run.core n) job).trans (JobRun.setCore_core _ _ _)⟩

end Sys2Proof.Machine
end

section
/-! SUPPORT. What completing host commands leaves (R336, R414, R415): all but free values, island clocks, ports, and which commands
are outstanding; and what a job command acts on (R335, R427). -/

namespace Sys2Proof.Machine

/-! ## Records of completion rings -/

@[simp] theorem State.flushCompletions_offPorts (s : State) (p : Port) (set : Nat) (held : List Completion) :
    (s.flushCompletions p set held).offPorts = s.offPorts := by
  induction held generalizing s with
  | nil => exact State.setRing_offPorts _ _ _ _
  | cons c rest ih =>
    unfold State.flushCompletions
    dsimp only
    split
    · rw [ih, State.setPort_offPorts, State.look_offPorts]
    · exact State.setRing_offPorts _ _ _ _

@[simp] theorem State.deliver_offPorts (s : State) (p : Port) (set : Nat) (c : Completion) :
    (s.deliver p set c).offPorts = s.offPorts := State.flushCompletions_offPorts _ _ _ _

@[simp] theorem State.hostCount_offPorts (s : State) (p : Port) (off : Nat) : (s.hostCount p off).offPorts = s.offPorts :=
  State.setPort_offPorts _ _ _

@[simp] theorem State.statusChange_offPorts (s : State) (p : Port) : (s.statusChange p).offPorts = s.offPorts :=
  State.setPort_offPorts _ _ _

@[simp] theorem State.notOutstanding_offPorts (s : State) (c : Cmd) : (s.notOutstanding c).offPorts = s.offPorts :=
  State.setRing_offPorts _ _ _ _

@[simp] theorem State.completeUnder_offPorts (s : State) (i : JobInfo) (c : Cmd) (status flags stream count : Nat) :
    (s.completeUnder i c status flags stream count).offPorts = s.offPorts := by
  unfold State.completeUnder
  dsimp only
  split <;> rw [State.deliver_offPorts, State.notOutstanding_offPorts]

section
variable {s t : State} (h : t.offPorts = s.offPorts)
include h

theorem State.jobs_of_offPorts : t.jobs = s.jobs := (congrArg State.jobs h :)
theorem State.job_of_offPorts (k : Nat) : t.job k = s.job k := (congrArg (fun u : State => u.job k) h :)

end

/-! ## Commands that complete -/

/-- A job less the list of its outstanding commands. -/
def Job.settled (j : Job) : Job := { j with info := { j.info with outstanding := [] } }

section
variable {i j : Job} (h : i.settled = j.settled)
include h

theorem Job.run_of_settled : i.run = j.run := (congrArg Job.run h :)
theorem Job.image_of_settled : i.image = j.image := (congrArg Job.image h :)
theorem Job.heldWrites_of_settled : i.heldWrites = j.heldWrites := (congrArg Job.heldWrites h :)
theorem Job.state_of_settled : i.info.state = j.info.state := (congrArg (·.info.state) h :)
theorem Job.queued_of_settled : i.info.queued = j.info.queued := (congrArg (·.info.queued) h :)
theorem Job.owner_of_settled : i.info.owner = j.info.owner := (congrArg (·.info.owner) h :)
theorem Job.token_of_settled : i.info.token = j.info.token := (congrArg (·.info.token) h :)
theorem Job.starts_of_settled : i.info.starts = j.info.starts := (congrArg (·.info.starts) h :)

end

/-- A state less what the completion of a command changes. -/
def State.settled (s : State) : State := { s.offPorts with jobs := s.jobs.map Job.settled }

theorem State.settled_of_offPorts {s t : State} (h : t.offPorts = s.offPorts) : t.settled = s.settled :=
  (congrArg (fun u : State => { u with jobs := u.jobs.map Job.settled }) h :)

@[simp] theorem State.setPort_settled (s : State) (p : Port) (h : HostPort) : (s.setPort p h).settled = s.settled :=
  State.settled_of_offPorts (State.setPort_offPorts s p h)

@[simp] theorem State.hostCount_settled (s : State) (p : Port) (off : Nat) : (s.hostCount p off).settled = s.settled :=
  State.setPort_settled _ _ _

theorem State.settled_job_eq (s : State) (q : Nat) : s.settled.job q = (s.job q).settled := by
  simp only [State.job, State.settled, List.getD_eq_getElem?_getD, List.getElem?_map]
  cases s.jobs[q]? <;> rfl

theorem State.setJob_settled (s : State) (k : Nat) (j : Job) : (s.setJob k j).settled = s.settled.setJob k j.settled := by
  simp [State.settled, State.offPorts, State.setJob, List.map_set]

/-- A slot whose job changes by no more than a completion. -/
theorem State.setJob_settled_same (s : State) (k : Nat) {j : Job} (h : j.settled = (s.job k).settled) :
    (s.setJob k j).settled = s.settled := by
  rw [State.setJob_settled, h, ← State.settled_job_eq]
  simp only [State.setJob, State.job]
  by_cases hk : k < s.settled.jobs.length
  · rw [List.getD_eq_getElem _ _ hk, List.set_getElem_self]
  · rw [List.set_eq_of_length_le (Nat.not_lt.mp hk)]

@[simp] theorem State.complete_settled (s : State) (k : Nat) (c : Cmd) (status flags stream count : Nat) :
    (s.complete k c status flags stream count).settled = s.settled :=
  (State.settled_of_offPorts (State.completeUnder_offPorts _ _ _ _ _ _ _)).trans (State.setJob_settled_same s k rfl)

@[simp] theorem State.completeFree_settled (s : State) (c : Cmd) (status flags count : Nat) :
    (s.completeFree c status flags count).settled = s.settled := by
  unfold State.completeFree
  split
  · exact State.complete_settled _ _ _ _ _ _ _
  · exact State.settled_of_offPorts (State.completeUnder_offPorts _ _ _ _ _ _ _)

@[simp] theorem State.completeAll_settled (s : State) (k : Nat) (cs : List Cmd) (status count : Nat) :
    (s.completeAll k cs status count).settled = s.settled := by
  induction cs generalizing s with
  | nil => rfl
  | cons c rest ih => exact (ih _).trans (State.complete_settled _ _ _ _ _ _ _)

@[simp] theorem State.refuseCmd_settled (s : State) (c : Cmd) (status : Nat) : (s.refuseCmd c status).settled = s.settled := by
  unfold State.refuseCmd
  dsimp only
  split
  · rw [State.hostCount_settled, State.completeFree_settled]
  · exact State.completeFree_settled _ _ _ _ _

section
variable {s t : State} (h : t.settled = s.settled)
include h

theorem State.sched_of_settled : t.sched = s.sched := (congrArg State.sched h :)
theorem State.health_of_settled : t.health = s.health := (congrArg State.health h :)
theorem State.slots_of_settled : t.jobs.length = s.jobs.length := by
  have := congrArg (fun u : State => u.jobs.length) h
  simpa [State.settled] using this
theorem State.job_of_settled (q : Nat) : (t.job q).settled = (s.job q).settled := by
  rw [← State.settled_job_eq, h, State.settled_job_eq]
theorem State.run_of_settled (q : Nat) : (t.job q).run = (s.job q).run :=
  Job.run_of_settled (State.job_of_settled h q)

end

/-! ## The job that a command names -/

/-- The slot of a loaded job is one of those that there are. -/
theorem State.slotOf_lt {s : State} {id k : Nat} (h : s.slotOf id = some k) : k < s.jobs.length := by
  unfold State.slotOf at h
  dsimp only at h
  split at h
  next hlt =>
    cases h
    exact hlt
  next => cases h

section
variable {s : State} {c : Cmd} {k : Nat} (hs : s.schedServes = true) (hk : s.slotOf c.desc.job = some k)
  (ho : (s.job k).info.owner = c.port) (he : (s.job k).info.state ≠ .ending) (f : Nat → State → State)
include hs hk ho he

/-- A command of the port that owns the job that it names reaches that job. -/
theorem State.onJob_named : s.onJob c f =
    if !(s.job k).info.shuns c then f k (s.takeCmd c)
    else if (s.job k).info.state == .loading then
      (s.takeCmd c).setInfo k { (s.job k).info with waiting := (s.job k).info.waiting ++ [c] }
    else (s.takeCmd c).refuseCmd c 0x0203 := by
  refine (if_neg (by simp [hs])).trans ?_
  have named : (s.takeCmd c).slotOf c.desc.job = some k := hk
  have owner : ((s.takeCmd c).job k).info.owner = c.port := ho
  have there : ((s.takeCmd c).job k).info.state ≠ .ending := he
  dsimp only
  rw [named]
  exact if_neg (by simp [owner, there])

theorem State.onJob_acts (hsh : (s.job k).info.shuns c = false) : s.onJob c f = f k (s.takeCmd c) := by
  rw [State.onJob_named hs hk ho he, hsh]
  rfl

/-- A job that takes commands from sealed sets only refuses one from another set. -/
theorem State.onJob_shuns (hsh : (s.job k).info.shuns c = true) (hl : (s.job k).info.state ≠ .loading) :
    s.onJob c f = (s.takeCmd c).refuseCmd c 0x0203 := by
  rw [State.onJob_named hs hk ho he, hsh]
  exact if_neg fun h => hl (eq_of_beq h)

end

end Sys2Proof.Machine
end

section
/-! SUPPORT. Pauses and yields that begin (R341, R345, R346): they touch the scheduler and the registers of the running job only. -/

namespace Sys2Proof.Machine

@[simp] theorem State.tallyRun_sched (s : State) (k : Nat) : (s.tallyRun k).sched = s.sched := by
  unfold State.tallyRun
  split <;> rfl

theorem State.tallyRun_job_ne (s : State) {k q : Nat} (h : q ≠ k) : (s.tallyRun k).job q = s.job q := by
  unfold State.tallyRun
  split
  · rfl
  · exact State.setJob_job_ne _ _ _ _ h

@[simp] theorem State.coarseOff_sched (s : State) : s.coarseOff.sched = s.sched := by
  unfold State.coarseOff
  split <;> rfl

theorem State.coarseOff_job (s : State) (q : Nat) : s.coarseOff.job q = s.job q :=
  congrArg (fun js : List Job => js.getD q {}) s.coarseOff_jobs

theorem State.beginPause_sched (s : State) (k : Nat) (p : Pausing) :
    (s.beginPause k p).sched = { s.sched with pausing := some p, intakeOpen := false } := by
  have same : (s.tallyRun k).coarseOff.sched = s.sched := by rw [State.coarseOff_sched, State.tallyRun_sched]
  exact congrArg (fun d : Sched => { d with pausing := some p, intakeOpen := false }) same

theorem State.beginPause_job_ne (s : State) (p : Pausing) {k q : Nat} (h : q ≠ k) : (s.beginPause k p).job q = s.job q := by
  refine (State.setJob_job_ne _ _ _ _ h).trans ?_
  rw [State.coarseOff_job, State.tallyRun_job_ne s h]

/-- The slot that runs is the one that a yield may touch. -/
theorem State.runningJob_eq {s : State} {k : Nat} (h : s.runningJob = some k) :
    s.sched.running = some k ∧ (s.job k).info.state = .running := by
  unfold State.runningJob at h
  split at h
  next k' hk =>
    split at h
    next hj =>
      cases h
      exact ⟨hk, eq_of_beq hj⟩
    next => cases h
  next => cases h

/-- A yield touches no slot but that of the RUNNING job. -/
theorem State.checkYield_job (s : State) {q : Nat} (h : (s.job q).info.state ≠ .running) : s.checkYield.job q = s.job q := by
  unfold State.checkYield
  split
  · rfl
  next k hk =>
    dsimp only
    split
    · exact State.beginPause_job_ne s _ fun e => h (e ▸ (State.runningJob_eq hk).2)
    · rfl

/-- Where no queued job is to go before the running one, there is no yield. -/
theorem State.checkYield_stays {s : State} {k : Nat} (hr : s.runningJob = some k)
    (h : ∀ q < s.jobs.length, q ≠ k → s.mayRun q = true → (s.job q).info.prio < (s.job k).info.prio ∨
      ((s.job q).info.prio = (s.job k).info.prio ∧ s.sched.sliceOver = false)) : s.checkYield = s := by
  unfold State.checkYield
  rw [hr]
  refine if_neg ?_
  rw [List.any_eq_true]
  rintro ⟨q, hq, hw⟩
  simp only [Bool.and_eq_true, Bool.or_eq_true, bne_iff_ne, decide_eq_true_eq, beq_iff_eq] at hw
  obtain ⟨⟨hne, hmay⟩, hprio⟩ := hw
  rcases h q (List.mem_range.mp hq) hne hmay with lower | ⟨same, slice⟩
  · omega
  · rw [slice] at hprio
    simp at hprio
    omega

/-- A queued job of a higher priority, or of the same once the slice has elapsed, makes the running one yield. -/
theorem State.checkYield_yields {s : State} {k q : Nat} (hr : s.runningJob = some k) (hq : q < s.jobs.length) (hne : q ≠ k)
    (hmay : s.mayRun q = true) (hslice : s.sched.sliceOver = true) (hprio : (s.job k).info.prio ≤ (s.job q).info.prio) :
    s.checkYield = s.beginPause k
      { forced := false, cause := 3, yields := true, bounded := false, cmds := [], status := 0, tag := 0 } := by
  unfold State.checkYield
  rw [hr]
  refine if_pos (List.any_eq_true.mpr ⟨q, List.mem_range.mpr hq, ?_⟩)
  simp only [hmay, hslice, Bool.and_eq_true, Bool.or_eq_true, bne_iff_ne, decide_eq_true_eq, beq_iff_eq]
  exact ⟨⟨hne, trivial⟩, hprio.lt_or_eq.imp_right fun e => ⟨trivial, e.symm⟩⟩

end Sys2Proof.Machine
end

section
/-! O27: JOB_START and JOB_RESUME (R334, R335, R340). -/

namespace Sys2Proof.Machine

/-- Which start of the two a command is does not matter. -/
theorem exec_startOrResume {s : State} {c : Cmd} {i : Instr}
    (h : (i = .jobStart c ∧ c.desc.opcode = 0x02) ∨ (i = .jobResume c ∧ c.desc.opcode = 0x04)) :
    exec i s = .next (s.startOrResume c) := by
  rcases h with ⟨rfl, ho⟩ | ⟨rfl, ho⟩
  · exact checked_of s _ _ (beq_iff_eq.mpr ho)
  · exact checked_of s _ _ (beq_iff_eq.mpr ho)

section
variable {s : State} {c : Cmd} (hs : s.schedServes = true)
include hs

theorem State.startOrResume_version (hv : s.versionOk c.port = false) :
    s.startOrResume c = (s.takeCmd c).completeFree c 0x0102 0 0 := by
  simp [State.startOrResume, hs, hv]

variable {k : Nat} (hv : s.versionOk c.port = true) (hk : s.slotOf c.desc.job = some k) (ho : (s.job k).info.owner = c.port)
include hv hk ho

theorem State.startOrResume_shuns (he : (s.job k).info.state ≠ .ending) (hsh : (s.job k).info.shuns c = true)
    (hl : (s.job k).info.state ≠ .loading) : s.startOrResume c = (s.takeCmd c).refuseCmd c 0x0203 := by
  simp [State.startOrResume, hs, hv, State.onJob_shuns hs hk ho he _ hsh hl]

variable (hsh : (s.job k).info.shuns c = false) (he : (s.job k).info.state ≠ .ending)
include hsh he

theorem State.startOrResume_interval (hc : commitInterval c.desc.w32 = none) :
    s.startOrResume c = ((s.takeCmd c).complete k c 0x0203 0 0 0).hostCount c.port 0x50 := by
  simp [State.startOrResume, hs, hv, State.onJob_acts hs hk ho he _ hsh, hc]

variable {ms : Nat} (hc : commitInterval c.desc.w32 = some ms)
include hc

theorem State.startOrResume_loading (hl : (s.job k).info.state = .loading) : s.startOrResume c =
    (s.takeCmd c).setInfo k { (s.job k).info with waiting := (s.job k).info.waiting ++ [c] } := by
  have hl' : ((s.takeCmd c).job k).info.state = .loading := hl
  simp only [State.startOrResume, hs, hv, State.onJob_acts hs hk ho he _ hsh, hc, hl', hl, Bool.not_true, Bool.false_eq_true, if_false]
  rfl

theorem State.startOrResume_running (hr : (s.job k).info.state = .running)
    (hb : bit c.desc.w24 16 = false ∨ (s.job k).info.buddy = true) :
    s.startOrResume c = (s.takeCmd c).complete k c 0 0 0 0 := by
  have hr' : ((s.takeCmd c).job k).info.state = .running := hr
  have hb' : ¬ (bit c.desc.w24 16 && !((s.takeCmd c).job k).info.buddy) = true := by
    rcases hb with hb | hb
    · simp [hb]
    · have : ((s.takeCmd c).job k).info.buddy = true := hb
      simp [this]
  simp only [State.startOrResume, hs, hv, State.onJob_acts hs hk ho he _ hsh, hc, hr']
  exact if_neg hb'

theorem State.startOrResume_stopped (hst : (s.job k).info.state = .armed ∨ (s.job k).info.state = .paused) :
    s.startOrResume c = ((s.takeCmd c).startJob k c ms).checkYield := by
  have hst' : ((s.takeCmd c).job k).info.state = .armed ∨ ((s.takeCmd c).job k).info.state = .paused := hst
  simp only [State.startOrResume, hs, hv, State.onJob_acts hs hk ho he _ hsh, hc]
  rcases hst' with h | h <;> rw [h] <;> rfl

end

/-- The slot of a job that is started: queued at the place of its descriptor, with the settings of the descriptor. -/
theorem State.startJob_job {s : State} {k ms : Nat} {c : Cmd} (hk : k < s.jobs.length) (hr : (s.job k).info.state ≠ .resuming) :
    (s.startJob k c ms).job k = { s.job k with
      info := { (s.job k).info.started c.desc ms with
        starts := (s.job k).info.starts ++ [c], queued := true, qTime := c.seq }
      mirrorAll := (s.job k).mirrorAll || ((s.job k).info.started c.desc ms).buddy } := by
  have hr' : ¬ (((s.job k).info.started c.desc ms).state == .resuming) = true := fun h => hr (eq_of_beq h)
  unfold State.startJob
  dsimp only
  rw [if_neg hr', State.queueJob, State.setInfo_job _ _ _ (by rwa [State.setJob_slots]), State.setJob_job _ _ _ hk]
  rfl

/-- Settles O27: each answer by the lemma of its case; a job that is queued is not the running one, so no yield touches it. -/
theorem startQueuesJob : Obligations.StartQueuesJob := by
  unfold Obligations.StartQueuesJob
  intro s c k ms i hs hi
  rw [exec_startOrResume hi]
  refine ⟨fun hv => ?_, fun hv hk ho he hsh hl => ?_, fun hv hk ho hsh => ⟨fun hc he => ?_, fun hc hl => ?_, fun hc hr hb => ?_⟩,
    fun hv hk ho hsh hst hc => ?_⟩
  · rw [State.startOrResume_version hs hv]
    have same : ((s.takeCmd c).completeFree c 0x0102 0 0).settled = (s.takeCmd c).settled := State.completeFree_settled _ _ _ _ _
    refine ⟨rfl, _, rfl, (congrArg Sched.running (State.sched_of_settled same) :), fun q => ⟨State.run_of_settled same q, ?_, ?_⟩⟩
    · exact Job.state_of_settled (State.job_of_settled same q)
    · exact Job.queued_of_settled (State.job_of_settled same q)
  · exact congrArg _ (State.startOrResume_shuns hs hv hk ho he hsh hl)
  · exact congrArg _ (State.startOrResume_interval hs hv hk ho hsh he hc)
  · exact congrArg _ (State.startOrResume_loading hs hv hk ho hsh (by simp [hl]) hc hl)
  · exact congrArg _ (State.startOrResume_running hs hv hk ho hsh (by simp [hr]) hc hr hb)
  · have he : (s.job k).info.state ≠ .ending := by rcases hst with h | h <;> simp [h]
    have hnr : (s.job k).info.state ≠ .resuming := by rcases hst with h | h <;> simp [h]
    have started := State.startJob_job (s := s.takeCmd c) (c := c) (ms := ms) (State.slotOf_lt hk) hnr
    have state : (((s.takeCmd c).startJob k c ms).job k).info.state ≠ .running := by
      rw [started]
      change (s.job k).info.state ≠ .running
      rcases hst with h | h <;> simp [h]
    rw [State.startOrResume_stopped hs hv hk ho hsh he hc hst]
    refine ⟨_, rfl, ?_⟩
    rw [State.checkYield_job _ state, started]
    exact ⟨rfl, rfl, rfl, rfl, rfl, rfl, rfl, rfl, rfl⟩

end Sys2Proof.Machine
end

section
/-! O28: JOB_PAUSE (R345, R346, R348, R368). -/

namespace Sys2Proof.Machine

/-- A job taken out of the run queue has no start command left. -/
theorem State.withdraw_settled (s : State) (k : Nat) : (s.withdraw k).settled =
    (s.setInfo k { (s.job k).info with queued := false, starts := [] }).settled := State.completeAll_settled _ _ _ _ _

theorem State.withdraw_sched (s : State) (k : Nat) : (s.withdraw k).sched = s.sched :=
  (State.sched_of_settled (s.withdraw_settled k)).trans (State.setInfo_sched _ _ _)

theorem State.withdraw_job {s : State} {k : Nat} (hk : k < s.jobs.length) : ((s.withdraw k).job k).settled =
    ({ s.job k with info := { (s.job k).info with queued := false, starts := [] } } : Job).settled :=
  (State.job_of_settled (s.withdraw_settled k) k).trans (congrArg Job.settled (State.setInfo_job s k _ hk))

theorem State.joinPause_jobs (s : State) (c : Cmd) : (s.joinPause c).jobs = s.jobs := by
  unfold State.joinPause
  split <;> rfl

/-- A JOB_PAUSE that joins a pause in progress. -/
theorem State.joinPause_pausing {s : State} {p : Pausing} (h : s.sched.pausing = some p) (c : Cmd) :
    ∃ q, (s.joinPause c).sched.pausing = some q ∧ q.cmds = p.cmds ++ [c] ∧
      q.forced = (p.forced || c.desc.flags.testBit 0) ∧ q.cause = p.cause := by
  unfold State.joinPause
  rw [h]
  exact ⟨_, rfl, rfl, rfl, rfl⟩

section
variable {s : State} {c : Cmd} {k : Nat} 

theorem State.pauseJob_running (h : (s.job k).info.state = .running) : s.pauseJob k c = s.pauseRunning k c := by
  simp only [State.pauseJob, h]

theorem State.pauseJob_pausing (h : (s.job k).info.state = .pausing) : s.pauseJob k c =
    if (s.job k).info.queued then (s.withdraw k).joinPause c else s.joinPause c := by
  simp only [State.pauseJob, h]

theorem State.pauseJob_waits (h : (s.job k).info.state = .loading ∨ (s.job k).info.state = .resuming) : s.pauseJob k c =
    s.setInfo k { (s.job k).info with waiting := (s.job k).info.waiting ++ [c] } := by
  rcases h with h | h <;> simp only [State.pauseJob, h]

theorem State.pauseJob_stopped (h : (s.job k).info.state = .armed ∨ (s.job k).info.state = .paused) : s.pauseJob k c =
    if (s.job k).info.queued then (s.withdraw k).complete k c 0 0 0 0 else s.complete k c 0 0 0 0 := by
  rcases h with h | h <;> simp only [State.pauseJob, h]

end

/-- Settles O28: by the state of the job; what a withdrawn job keeps is all but its place in the run queue and its start commands. -/
theorem pauseCommand : Obligations.PauseCommand := by
  unfold Obligations.PauseCommand
  intro s c k hs hop hk ho hsh
  have pauses (he : (s.job k).info.state ≠ .ending) : exec (.jobPause c) s = .next ((s.takeCmd c).pauseJob k c) :=
    (checked_of s _ _ (beq_iff_eq.mpr hop)).trans (congrArg _ (State.onJob_acts hs hk ho he _ hsh))
  have hlt : k < (s.takeCmd c).jobs.length := State.slotOf_lt hk
  refine ⟨fun h => ?_, fun p h hp => ?_, fun h => ?_, fun h => ?_⟩
  · rw [pauses (by simp [h]), State.pauseJob_running (s := s.takeCmd c) h, State.pauseRunning]
    obtain ⟨i, hi, hj⟩ := State.beginPause_job hlt {
      forced := c.desc.flags.testBit 0, cause := if c.desc.flags.testBit 0 then 2 else 1, yields := false
      bounded := fld c.desc.w8 0 32 != 0xFFFFFFFF, cmds := [c], status := 0, tag := 0 }
    refine ⟨_, rfl, ?_, ?_, ?_, ?_⟩
    · rw [hj]
      exact hi
    · rw [State.beginPause_sched]
    · rw [hj]
      rfl
    · rw [State.beginPause_sched]
  · rw [pauses (by simp [h]), State.pauseJob_pausing (s := s.takeCmd c) h]
    change ∃ t q, Host.Outcome.next (if (s.job k).info.queued then _ else _) = _ ∧ _
    cases hq : (s.job k).info.queued
    · obtain ⟨q, hj, hcmds, hforced, hcause⟩ := State.joinPause_pausing (s := s.takeCmd c) hp c
      refine ⟨_, q, rfl, hj, hcmds, hforced, hcause, ?_, fun _ => State.joinPause_jobs _ c, nofun⟩
      rw [if_neg Bool.false_ne_true, State.job, State.joinPause_jobs]
      exact hq
    · have same := State.withdraw_job hlt
      obtain ⟨q, hj, hcmds, hforced, hcause⟩ := State.joinPause_pausing (s := (s.takeCmd c).withdraw k)
        (by rw [State.withdraw_sched]; exact hp) c
      refine ⟨_, q, rfl, hj, hcmds, hforced, hcause, ?_, nofun, fun _ => ?_⟩
      · rw [if_pos rfl, State.job, State.joinPause_jobs]
        exact Job.queued_of_settled same
      · rw [if_pos rfl, State.job, State.joinPause_jobs]
        exact Job.starts_of_settled same
  · exact (pauses (by rcases h with h | h <;> simp [h])).trans (congrArg _ (State.pauseJob_waits h))
  · rw [pauses (by rcases h with h | h <;> simp [h]), State.pauseJob_stopped (s := s.takeCmd c) h]
    change ∃ t, Host.Outcome.next (if (s.job k).info.queued then _ else _) = _ ∧ _
    cases hq : (s.job k).info.queued
    · have same := State.job_of_settled (State.complete_settled (s.takeCmd c) k c 0 0 0 0) k
      exact ⟨_, rfl, (Job.queued_of_settled same).trans hq, nofun, Job.state_of_settled same,
        Job.run_of_settled same⟩
    · have same := (State.job_of_settled (State.complete_settled ((s.takeCmd c).withdraw k) k c 0 0 0 0) k).trans
        (State.withdraw_job hlt)
      rw [if_pos rfl]
      exact ⟨_, rfl, Job.queued_of_settled same, fun _ => Job.starts_of_settled same,
        (Job.state_of_settled same).trans rfl, (Job.run_of_settled same).trans rfl⟩

end Sys2Proof.Machine
end

section
/-! O30: COMMIT, JOB_SET_TOKEN and JOB_ADOPT (R353, R425, R426, R432). -/

namespace Sys2Proof.Machine

/-- A commit point that is sought touches the scheduler only. -/
theorem State.seekCommit_jobs (s : State) : s.seekCommit.jobs = s.jobs := by
  unfold State.seekCommit
  split <;> rfl

/-- The slot whose cores work. -/
theorem State.workingJob_of {s : State} {k : Nat} (hr : s.sched.running = some k)
    (h : (s.job k).info.state = .running ∨ (s.job k).info.state = .pausing) : s.workingJob = some k := by
  unfold State.workingJob
  rw [hr]
  exact if_pos (by simpa using h)

theorem State.seekCommit_seeks {s : State} {k : Nat} (hw : s.workingJob = some k) (hn : s.sched.seekCommit = none) :
    s.seekCommit = { s with sched := { s.sched with seekCommit := some false, intakeOpen := false } } := by
  unfold State.seekCommit
  rw [hw, hn]

section
variable {s : State} {c : Cmd} {k : Nat}

theorem State.commitJob_job (hk : k < s.jobs.length) : (s.commitJob k c).job k =
    { s.job k with info := { (s.job k).info with commits := (s.job k).info.commits ++ [c] } } := by
  have asked := State.setInfo_job s k { (s.job k).info with commits := (s.job k).info.commits ++ [c] } hk
  unfold State.commitJob
  dsimp only
  split
  · rw [State.job, State.seekCommit_jobs]
    exact asked
  · exact asked

theorem State.commitJob_seeks (hk : k < s.jobs.length) (h : (s.job k).info.state = .running ∨ (s.job k).info.state = .pausing)
    (hr : s.sched.running = some k) (hn : s.sched.seekCommit = none) :
    (s.commitJob k c).sched = { s.sched with seekCommit := some false, intakeOpen := false } := by
  have works : (s.setInfo k { (s.job k).info with commits := (s.job k).info.commits ++ [c] }).workingJob = some k :=
    State.workingJob_of hr (by rwa [State.setInfo_job _ _ _ hk])
  refine (congrArg State.sched (if_pos (beq_iff_eq.mpr hr))).trans ?_
  rw [State.seekCommit_seeks works hn]
  rfl

theorem State.setToken_settled : (s.setToken k c).settled =
    (s.setInfo k { (s.job k).info with token := tokenOf c.desc }).settled := State.complete_settled _ _ _ _ _ _ _

end

@[simp] theorem State.setInfo_slots (s : State) (k : Nat) (i : JobInfo) : (s.setInfo k i).jobs.length = s.jobs.length :=
  State.setJob_slots _ _ _

/-- The completions that an adopted job's set held go to its new home set. -/
theorem deliverAll_offPorts (s : State) (p : Port) (set : Nat) (cs : List Completion) :
    (cs.foldl (fun s x => s.deliver p set x) s).offPorts = s.offPorts :=
  foldl_keeps State.offPorts _ (fun s c => State.deliver_offPorts s p set c) cs s

section
variable {s : State} {c : Cmd} {k : Nat}

/-- An adopted job belongs to the issuing port and set, and has no token; otherwise only its registers change. -/
theorem State.adopt_job (hk : k < s.jobs.length) : ∃ i : JobInfo, i.owner = c.port ∧ i.homeSet = c.set ∧ i.token = 0 ∧
    (s.adopt k c).job k = { s.job k with info := i } := by
  unfold State.adopt
  extract_lets runs s1 i old held s2 s3 s4 s5 st e s6 s7 n
  obtain ⟨len1, i1, job1⟩ : s1.jobs.length = s.jobs.length ∧ ∃ i1, s1.job k = { s.job k with info := i1 } := by
    unfold s1
    split
    · exact State.tallyRun_job hk
    · exact ⟨rfl, _, rfl⟩
  have len2 : k < s2.jobs.length := by rw [State.setRing_jobs, len1]; exact hk
  have job2 : s2.job k = { s.job k with info := i1 } := (State.job_of_offPorts (State.setRing_offPorts _ _ _ _) k).trans job1
  obtain ⟨i3, adopted3, job3⟩ : ∃ i3 : JobInfo, (i3.owner = c.port ∧ i3.homeSet = c.set ∧ i3.token = 0) ∧
      s3.job k = { s2.job k with info := i3 } := ⟨_, ⟨rfl, rfl, rfl⟩, State.setInfo_job _ _ _ len2⟩
  obtain ⟨i4, adopted, job4⟩ : ∃ i4 : JobInfo, (i4.owner = c.port ∧ i4.homeSet = c.set ∧ i4.token = 0) ∧
      s4.job k = { s2.job k with info := i4 } := by
    unfold s4
    split
    · have len3 : k < s3.jobs.length := by rwa [State.setInfo_slots]
      exact ⟨{ i3 with runSince := (s3.look (portIsland c.port)).1 }, adopted3, (State.setInfo_job _ k _ len3).trans
        (congrArg (fun j : Job => { j with info := { j.info with runSince := (s3.look (portIsland c.port)).1 } }) job3)⟩
    · exact ⟨_, adopted3, job3⟩
  have rest : ((s7.notOutstanding c).deliver c.port c.set
      { tag := c.desc.tag, status := 0x0503, job := i.id, flags := 0, stream := 0, count := n, cookie := c.desc.cookie }).offPorts =
      s4.offPorts := by
    have old' : s6.offPorts = s5.offPorts := by
      unfold s6
      split
      · exact State.deliverEvent_offPorts _ _ _ _
      · rfl
    rw [State.deliver_offPorts, State.notOutstanding_offPorts, State.deliverEvent_offPorts, old', deliverAll_offPorts]
  refine ⟨i4, adopted.1, adopted.2.1, adopted.2.2, (State.job_of_offPorts rest k).trans (job4.trans ?_)⟩
  rw [job2]

/-- A JOB_ADOPT whose conditions hold (R425 to R427). -/
theorem State.execJobAdopt_adopts (ho : c.desc.opcode = 0x07) (hs : s.schedServes = true) (hv : s.versionOk c.port = true)
    (ha : s.actsAfter c = false) (hk : s.slotOf c.desc.job = some k) (he : (s.job k).info.state ≠ .ending)
    (ht : (s.job k).info.token ≠ 0) (hc : (s.job k).info.confidential = true → c.sealed = true)
    (heq : (s.job k).info.token = c.desc.w16 ++ c.desc.w8)
    (hp : (s.job k).info.owner = c.port ∨ (s.port (s.job k).info.owner).absentNow = true) :
    execJobAdopt c s = .next ((s.takeCmd c).adopt k c) := by
  have named : (s.takeCmd c).slotOf c.desc.job = some k := hk
  have may : (((s.takeCmd c).job k).info.state != .ending && ((s.takeCmd c).job k).info.token != 0 &&
      tokenOf c.desc == ((s.takeCmd c).job k).info.token && (((s.takeCmd c).job k).info.owner == c.port ||
        ((s.takeCmd c).port ((s.takeCmd c).job k).info.owner).absentNow) &&
      !(((s.takeCmd c).job k).info.confidential && !c.sealed)) = true := by
    change ((s.job k).info.state != .ending && (s.job k).info.token != 0 && tokenOf c.desc == (s.job k).info.token &&
      ((s.job k).info.owner == c.port || (s.port (s.job k).info.owner).absentNow) &&
      !((s.job k).info.confidential && !c.sealed)) = true
    have token : tokenOf c.desc = (s.job k).info.token := heq.symm
    simp only [token, Bool.and_eq_true, bne_iff_ne, Bool.or_eq_true, beq_iff_eq, Bool.not_eq_true', Bool.and_eq_false_iff]
    refine ⟨⟨⟨⟨he, ht⟩, trivial⟩, hp⟩, ?_⟩
    cases hc' : (s.job k).info.confidential
    · exact .inl rfl
    · exact .inr (by rw [hc hc']; rfl)
  refine (checked_of s _ _ (beq_iff_eq.mpr ho)).trans (congrArg _ ?_)
  rw [if_neg (by simp [hs, ha]), if_neg (by simp [hv])]
  dsimp only
  rw [named]
  exact if_pos may

/-- A JOB_ADOPT with another token than the job's changes no slot's registers beyond a completion. -/
theorem State.execJobAdopt_refuses (ho : c.desc.opcode = 0x07) (hk : s.slotOf c.desc.job = some k)
    (hne : (s.job k).info.token ≠ c.desc.w16 ++ c.desc.w8) :
    ∃ t, execJobAdopt c s = .next t ∧ (t.job k).settled = (s.job k).settled := by
  refine ⟨_, checked_of s _ _ (beq_iff_eq.mpr ho), ?_⟩
  split
  · rfl
  split
  · exact State.job_of_settled (State.completeFree_settled _ _ _ _ _) k
  have named : (s.takeCmd c).slotOf c.desc.job = some k := hk
  dsimp only
  rw [named]
  refine (congrArg (fun t : State => (t.job k).settled) (if_neg ?_)).trans (State.job_of_settled
    ((State.hostCount_settled _ _ _).trans (State.refuseCmd_settled (s.takeCmd c) c 0x0203)) k)
  have other : ¬ tokenOf c.desc = ((s.takeCmd c).job k).info.token := fun e => hne e.symm
  simp [other]

/-- Settles O30: COMMIT and the token by the registers of the slot, and JOB_ADOPT by whether it may act and whether the token is the
job's. -/
theorem jobSettings : Obligations.JobSettings := by
  unfold Obligations.JobSettings
  intro s c k hs hk he
  have hlt : k < (s.takeCmd c).jobs.length := State.slotOf_lt hk
  refine ⟨fun hop ho hsh => ?_, fun hop ho hsh => ?_, fun hop ha => ?_, fun hop hv ha ht hc heq hp => ?_, fun hop hne => ?_⟩
  · refine ⟨_, (checked_of s _ _ (beq_iff_eq.mpr hop)).trans (congrArg _ (State.onJob_acts hs hk ho he _ hsh)), ?_, ?_,
      fun hst hr hn => ?_⟩
    · rw [State.commitJob_job hlt]
      rfl
    · rw [State.commitJob_job hlt]
      rfl
    · have sought := State.commitJob_seeks (s := s.takeCmd c) (c := c) hlt hst hr hn
      exact ⟨congrArg Sched.seekCommit sought, congrArg Sched.intakeOpen sought⟩
  · have same := (State.job_of_settled (State.setToken_settled (s := s.takeCmd c) (c := c)) k).trans
      (congrArg Job.settled (State.setInfo_job _ k _ hlt))
    exact ⟨_, (checked_of s _ _ (beq_iff_eq.mpr hop)).trans (congrArg _ (State.onJob_acts hs hk ho he _ hsh)),
      (Job.token_of_settled same).trans rfl, (Job.run_of_settled same).trans rfl⟩
  · refine (checked_of s _ _ (beq_iff_eq.mpr hop)).trans (congrArg _ (if_pos ?_))
    rw [ha, Bool.or_true]
  · obtain ⟨i, owner, set, token, job⟩ := State.adopt_job (s := s.takeCmd c) (c := c) hlt
    refine ⟨_, State.execJobAdopt_adopts hop hs hv ha hk he ht hc heq hp, ?_⟩
    rw [job]
    exact ⟨owner, set, token, rfl⟩
  · obtain ⟨t, ht, same⟩ := State.execJobAdopt_refuses hop hk hne
    exact ⟨t, ht, Job.owner_of_settled same, Job.token_of_settled same⟩

end
end Sys2Proof.Machine
end

section
/-! O35: the summaries of a second (R344, R493, R494). -/

namespace Sys2Proof.Machine

theorem State.health_of_offPorts {s t : State} (h : t.offPorts = s.offPorts) : t.health = s.health := (congrArg State.health h :)

/-- A health event of a job is one line of the log, wherever it is delivered. -/
theorem State.healthEvent_job_logCount (s : State) (k : Nat) (e : Event) :
    (s.healthEvent (some k) e).health.logCount = s.health.logCount + 1 := by
  have delivered {t : State} (h : t.offPorts = (s.logEvent { e with job := (s.job k).info.id }).offPorts) :
      t.health.logCount = s.health.logCount + 1 :=
    (congrArg Health.logCount (State.health_of_offPorts h)).trans (s.logEvent_logCount _)
  unfold State.healthEvent
  dsimp only
  split_ifs
  · exact delivered (State.jobEvent_offPorts _ _ _)
  · exact delivered (State.deviceEvent_offPorts _ _)
  · exact delivered ((State.jobEvent_offPorts _ _ _).trans (State.deviceEvent_offPorts _ _))

theorem State.sched_of_unreported {s t : State} (h : t.unreported = s.unreported) : t.sched = s.sched := (congrArg State.sched h :)

theorem State.job_of_unreported {s t : State} (h : t.unreported = s.unreported) (q : Nat) : t.job q = s.job q :=
  (congrArg (fun u : State => u.job q) h :)

/-- A report from a limit on: what it leaves, and that it is one line of the log. -/
theorem State.reported (s : State) (k : Nat) (e : Event) (total limit : Nat) :
    ∃ t, Host.Outcome.next (φ := Fault) (ρ := Refusal) (if total < limit then s else s.healthEvent (some k) e) = .next t ∧
      t.sched = s.sched ∧ t.job k = s.job k ∧
      t.health.logCount = if limit ≤ total then s.health.logCount + 1 else s.health.logCount := by
  refine ⟨_, rfl, ?_⟩
  by_cases h : total < limit
  · rw [if_pos h, if_neg (Nat.not_le.mpr h)]
    exact ⟨rfl, rfl, rfl⟩
  · have kept := State.healthEvent_unreported s (some k) e
    rw [if_neg h, if_pos (Nat.not_lt.mp h)]
    exact ⟨State.sched_of_unreported kept, State.job_of_unreported kept k, State.healthEvent_job_logCount s k e⟩

/-- The scheduler holds no job. -/
theorem State.withSched_job (s : State) (d : Sched) (k : Nat) : ({ s with sched := d } : State).job k = s.job k := rfl

/-- How far a second's counters rose in all. -/
theorem rise_sum (n : Nat) (now : Nat → Nat) (mark : NMap Nat) :
    ((((List.range n).map (fun i => (i, now i))).map (fun e => (e.1, e.2 - NMap.getD mark e.1 0))).map (·.2)).sum =
      ((List.range n).map (fun i => now i - NMap.getD mark i 0)).sum := by
  simp only [List.map_map, Function.comp_def]

section
variable {s : State} {k : Nat} (hr : s.sched.running = some k) (hj : (s.job k).info.state = .running)
include hr hj

/-- The summary of the late beats (R493). -/
theorem State.prefetchLate_reports : ∃ t, execPrefetchLateSummary s = .next t ∧ t.sched.lateCount = 0 ∧
    (t.job k).run = (s.job k).run ∧ t.health.logCount =
      (if 2 ^ 26 ≤ ((List.range 32).map (fun c => NMap.getD (s.job k).run.ctrCluster (c * 0x80 + 0x58) 0 -
        NMap.getD s.sched.lateMark c 0)).sum then s.health.logCount + 1 else s.health.logCount) := by
  unfold execPrefetchLateSummary
  rw [State.runningJob_of hr hj]
  dsimp only
  rw [rise_sum 32 (fun c => NMap.getD (s.job k).run.ctrCluster (c * 0x80 + 0x58) 0)]
  obtain ⟨t, ht, sched, job, count⟩ := State.reported { s with sched := { s.sched with
    lateMark := (List.range 32).map (fun c => (c, NMap.getD (s.job k).run.ctrCluster (c * 0x80 + 0x58) 0)), lateCount := 0 } } k _ _ _
  exact ⟨t, ht, congrArg Sched.lateCount sched, congrArg Job.run (job.trans (State.withSched_job s _ k)), count⟩

theorem State.bankStall_reports : ∃ t, execBankStallSummary s = .next t ∧ (t.job k).run = (s.job k).run ∧ t.health.logCount =
      (if 2 ^ 24 ≤ ((List.range 512).map (fun n => NMap.getD (s.job k).run.ctrCore (n * 0x400 + 0x140) 0 -
        NMap.getD s.sched.stallMark n 0)).sum then s.health.logCount + 1 else s.health.logCount) := by
  unfold execBankStallSummary
  rw [State.runningJob_of hr hj]
  dsimp only
  rw [rise_sum 512 (fun n => NMap.getD (s.job k).run.ctrCore (n * 0x400 + 0x140) 0)]
  obtain ⟨t, ht, -, job, count⟩ := State.reported { s with sched := { s.sched with
    stallMark := (List.range 512).map (fun n => (n, NMap.getD (s.job k).run.ctrCore (n * 0x400 + 0x140) 0)) } } k _ _ _
  exact ⟨t, ht, congrArg Job.run (job.trans (State.withSched_job s _ k)), count⟩

end

/-- The state once the second's tallies start afresh. -/
def State.newSecond (s : State) (k : Nat) : State :=
  { s with sched := { s.sched with batchesSec := 0, allBehind := true, deferredSec := 0, guardSec := 0
                                   secJob := if s.workingJob == some k then some k else none } }

section
variable {s : State} {k : Nat} (hk : s.sched.secJob = some k)
include hk

/-- A second that left work behind each time is counted and reported. -/
theorem State.saturated_full (h : s.sched.batchesSec ≠ 0 ∧ s.sched.allBehind = true) :
    ∃ e, execSaturated s = .next (((s.newSecond k).jobCount k 0x40 1).healthEvent (some k) e) := by
  unfold execSaturated
  rw [hk]
  exact ⟨_, congrArg _ (if_pos (by simp [h.1, h.2]))⟩

theorem State.saturated_slack (h : ¬ (s.sched.batchesSec ≠ 0 ∧ s.sched.allBehind = true)) :
    execSaturated s = .next (s.newSecond k) := by
  unfold execSaturated
  rw [hk]
  exact congrArg _ (if_neg (by simpa using h))

end

/-- Settles O35: what a second's end changes itself, and what its report leaves. -/
theorem secondSummaries : Obligations.SecondSummaries := by
  unfold Obligations.SecondSummaries
  intro s full
  refine ⟨fun h => ?_, fun k hk hlt => ?_, fun k hr hj => ⟨State.prefetchLate_reports hr hj, State.bankStall_reports hr hj⟩⟩
  · change execSaturated s = .next s
    unfold execSaturated
    rw [h]
  · have mark : (if (s.workingJob == some k) = true then some k else none) = if s.workingJob = some k then some k else none := by
      simp only [beq_iff_eq]
    by_cases hfull : full
    · obtain ⟨e, he⟩ := State.saturated_full hk hfull
      have kept := State.healthEvent_unreported ((s.newSecond k).jobCount k 0x40 1) (some k) e
      have sched := State.sched_of_unreported kept
      refine ⟨_, he, ?_⟩
      rw [sched, State.job_of_unreported kept, State.healthEvent_job_logCount, State.jobCount_job (s.newSecond k) _ _ _ hlt]
      exact ⟨rfl, rfl, rfl, rfl, mark, fun _ => ⟨rfl, rfl⟩, fun h => (h hfull).elim⟩
    · exact ⟨_, State.saturated_slack hk hfull, rfl, rfl, rfl, rfl, mark, fun h => (hfull h).elim, fun _ => ⟨rfl, rfl⟩⟩

end Sys2Proof.Machine
end

section
/-! SUPPORT. What accesses to the memory tiers leave alone (R264, R273, R491): of the state all but free values, island clocks, the tiers, and
health's counters and places of relocated units; of each job all but its counters, its units not yet copied and what its cores
have fetched ahead. -/

namespace Sys2Proof.Machine

/-! ## The state -/

/-- A job less what accesses to the tiers change of it. -/
def Job.quiet (j : Job) : Job := { j with copied := [], run := j.run.data }

section
variable {i j : Job} (h : i.quiet = j.quiet)
include h

theorem Job.info_of_quiet : i.info = j.info := (congrArg Job.info h :)
theorem Job.image_of_quiet : i.image = j.image := (congrArg Job.image h :)
theorem Job.data_of_quiet : i.run.data = j.run.data := (congrArg Job.run h :)
theorem Job.commit_of_quiet : i.commit = j.commit := (congrArg Job.commit h :)
theorem Job.journal_of_quiet : i.journal = j.journal := (congrArg Job.journal h :)
theorem Job.heldWrites_of_quiet : i.heldWrites = j.heldWrites := (congrArg Job.heldWrites h :)
theorem Job.backing_of_quiet : i.backing = j.backing := (congrArg Job.backing h :)
theorem Job.pool_of_quiet : i.pool = j.pool := (congrArg Job.pool h :)
theorem Job.lost_of_quiet : i.lost = j.lost := (congrArg Job.lost h :)

end

section
variable {q r : JobRun} (h : q.data = r.data)
include h

theorem JobRun.mem_of_data : q.mem = r.mem := (congrArg JobRun.mem h :)
theorem JobRun.streams_of_data : q.streams = r.streams := (congrArg JobRun.streams h :)

end

/-- Health less what accesses to the tiers count and place. -/
def Health.quiet (h : Health) : Health := { h with ctr := [], moved := [], hbm := [], repairUsed := 0, lost := 0 }

theorem Health.migrate_of_quiet {g h : Health} (e : g.quiet = h.quiet) : g.migrate = h.migrate := (congrArg Health.migrate e :)

/-- A state less what accesses to the tiers change of it. -/
def State.offTiers (s : State) : State :=
  { s with freeCtr := 0, islands := [], tiers := {}, jobs := s.jobs.map Job.quiet, health := s.health.quiet }

section
variable {s t : State} (h : t.offTiers = s.offTiers)
include h

theorem State.sched_of_offTiers : t.sched = s.sched := (congrArg State.sched h :)
theorem State.herd_of_offTiers : t.herd = s.herd := (congrArg State.herd h :)
theorem State.sec_of_offTiers : t.sec = s.sec := (congrArg State.sec h :)
theorem State.health_of_offTiers : t.health.quiet = s.health.quiet := (congrArg State.health h :)

theorem State.slots_of_offTiers : t.jobs.length = s.jobs.length := by
  have := congrArg (fun u : State => u.jobs.length) h
  simpa [State.offTiers] using this

end

theorem State.offTiers_job_eq (s : State) (q : Nat) : s.offTiers.job q = (s.job q).quiet := by
  simp only [State.job, State.offTiers, List.getD_eq_getElem?_getD, List.getElem?_map]
  cases s.jobs[q]? <;> rfl

theorem State.job_of_offTiers {s t : State} (h : t.offTiers = s.offTiers) (q : Nat) : (t.job q).quiet = (s.job q).quiet := by
  rw [← State.offTiers_job_eq, h, State.offTiers_job_eq]

theorem State.setJob_offTiers (s : State) (k : Nat) (j : Job) : (s.setJob k j).offTiers = s.offTiers.setJob k j.quiet := by
  simp [State.offTiers, State.setJob, List.map_set]

/-- A slot replaced by what it holds. -/
theorem State.setJob_same (s : State) (k : Nat) : s.setJob k (s.job k) = s := by
  simp only [State.setJob, State.job]
  by_cases hk : k < s.jobs.length
  · rw [List.getD_eq_getElem _ _ hk, List.set_getElem_self]
  · rw [List.set_eq_of_length_le (Nat.not_lt.mp hk)]

theorem State.setJob_offTiers_same (s : State) (k : Nat) {j : Job} (h : j.quiet = (s.job k).quiet) :
    (s.setJob k j).offTiers = s.offTiers := by
  rw [State.setJob_offTiers, h, ← State.offTiers_job_eq, State.setJob_same]

@[simp] theorem State.placeUnit_offTiers (s : State) (e : Nat × Nat) : (s.placeUnit e).offTiers = s.offTiers := by
  unfold State.placeUnit
  dsimp only
  split
  · rfl
  · split <;> rfl

/-- Accesses that keep the data of their run. -/
theorem State.onTiers_offTiers (s : State) (k : Nat) (f : Image → Acc → Acc) (h : ∀ i a, (f i a).data = a.data) :
    (s.onTiers k f).offTiers = s.offTiers := by
  have acted : ((f (s.job k).image (s.accFor k)).grant (s.job k).image.regs).data = (s.job k).run.data :=
    (Acc.grant_data _ _).trans (h _ _)
  unfold State.onTiers
  dsimp only
  generalize (f (s.job k).image (s.accFor k)).grant (s.job k).image.regs = a at acted ⊢
  refine (foldl_keeps State.offTiers State.placeUnit State.placeUnit_offTiers _ _).trans
    (State.setJob_offTiers_same s k (j := { s.job k with run := a.run }) ?_)
  exact congrArg (fun r : JobRun => { s.job k with copied := [], run := r }) acted

theorem State.onTiers_job_ne (s : State) {k q : Nat} (f : Image → Acc → Acc) (h : q ≠ k) : (s.onTiers k f).job q = s.job q := by
  unfold State.onTiers
  dsimp only
  generalize (f (s.job k).image (s.accFor k)).grant (s.job k).image.regs = a
  exact (foldl_keeps (fun s : State => s.job q) State.placeUnit
    (fun s e => congrArg (fun js : List Job => js.getD q {}) (s.placeUnit_jobs e)) _ _).trans
    (State.setJob_job_ne s k q { s.job k with run := a.run } h)

@[simp] theorem State.journalCopies_offTiers (s : State) (k part : Nat) : (s.journalCopies k part).offTiers = s.offTiers := by
  unfold State.journalCopies
  dsimp only
  split
  · rfl
  · rw [State.onTiers_offTiers _ _ _ (fun i a => foldl_keeps Acc.data _ (fun a e => by simp) _ _)]
    exact State.setJob_offTiers_same s k rfl

@[simp] theorem State.hubAccess_offTiers (s : State) (k : Nat) (write : Bool) (part at' len : Nat) :
    (s.hubAccess k write part at' len).offTiers = s.offTiers := by
  unfold State.hubAccess
  split
  · exact State.onTiers_offTiers s k _ (fun i a => Acc.hubLines_data a write part _ at' len)
  · rfl

@[simp] theorem State.hubRead_offTiers (s : State) (k part at' len : Nat) : (s.hubRead k part at' len).offTiers = s.offTiers :=
  State.hubAccess_offTiers _ _ _ _ _ _

@[simp] theorem State.hubWrite_offTiers (s : State) (k part at' len : Nat) : (s.hubWrite k part at' len).offTiers = s.offTiers :=
  (State.hubAccess_offTiers _ _ _ _ _ _).trans (State.journalCopies_offTiers _ _ _)

@[simp] theorem State.firmwareWrite_offTiers (s : State) (d len : Nat) : (s.firmwareWrite d len).offTiers = s.offTiers := by
  unfold State.firmwareWrite
  split
  · split
    · rfl
    · exact State.onTiers_offTiers s _ _ (fun i a => Acc.dataLines_data a 8 _ d len)
  · rfl

@[simp] theorem State.firmwareFill_offTiers (s : State) (j : Job) (at' len : Nat) : (s.firmwareFill j at' len).offTiers = s.offTiers :=
  foldl_keeps State.offTiers _ (fun s _ => State.firmwareWrite_offTiers s _ _) _ s

/-! ## Emptying the tiers (R291, R353) -/

@[simp] theorem Acc.cleanTier_data (a : Acc) (cl : Nat) : (a.cleanTier cl).data = a.data := by
  unfold Acc.cleanTier
  extract_lets t a1 a2 t2
  have lines : a1.data = a.data := foldl_keeps Acc.data _ (fun a e => by split <;> simp) _ _
  have pieces : a2.data = a1.data :=
    foldl_keeps Acc.data _ (fun a e => foldl_keeps Acc.data _ (fun a k => by simp) _ _) _ _
  exact pieces.trans lines

@[simp] theorem Acc.cleanAll_data (a : Acc) : a.cleanAll.data = a.data :=
  foldl_keeps Acc.data (fun (a : Acc) cl => a.cleanTier cl) (fun a cl => a.cleanTier_data cl) _ _

@[simp] theorem Acc.closeAll_data (a : Acc) : a.closeAll.data = a.data :=
  foldl_keeps Acc.data (fun (a : Acc) (e : Nat × Assembly) => a.closeStripe e.1) (fun a e => a.closeStripe_data e.1) _ _

@[simp] theorem State.drainTiers_offTiers (s : State) (k : Nat) : (s.drainTiers k).offTiers = s.offTiers :=
  State.onTiers_offTiers s k _ (fun i a => by simp)

@[simp] theorem State.loadPinned_offTiers (s : State) (k : Nat) : (s.loadPinned k).offTiers = s.offTiers := by
  have filled (tiers : Tiers) : ({ s with tiers } : State).offTiers = s.offTiers := rfl
  unfold State.loadPinned
  extract_lets i pinned put tiers s'
  have page (a : Acc) (e : Nat × ClusterSec) :
      ((pinned e).foldl (fun (a : Acc) p => a.wholePage false e.1 p 0) a).data = a.data :=
    foldl_keeps Acc.data (fun (a : Acc) p => a.wholePage false e.1 p 0) (fun a p => Acc.wholePage_data a false e.1 p 0) _ _
  exact (State.onTiers_offTiers s' k _ (fun _ a => foldl_keeps Acc.data
    (fun (a : Acc) e => (pinned e).foldl (fun (a : Acc) p => a.wholePage false e.1 p 0) a) page _ a)).trans (filled tiers)

end Sys2Proof.Machine
end

section
/-! SUPPORT. What traffic of the peat tier leaves alone while accesses act: the cores, the salt, and what every cluster holds (R264, R273
to R278). -/

namespace Sys2Proof.Machine

/-- A run's cores, and the salt and the clusters of the tiers. -/
def Acc.held (a : Acc) : NMap Core × W64 × NMap Tier := (a.run.cores, a.tiers.salt, a.tiers.clusters)

section
variable {a b : Acc} (h : a.held = b.held)
include h

theorem Acc.cores_of_held : a.run.cores = b.run.cores := (congrArg (·.1) h :)
theorem Acc.salt_of_held : a.tiers.salt = b.tiers.salt := (congrArg (·.2.1) h :)
theorem Acc.clusters_of_held : a.tiers.clusters = b.tiers.clusters := (congrArg (·.2.2) h :)

end

@[simp] theorem Acc.count_held (a : Acc) (off k : Nat) : (a.count off k).held = a.held := rfl
@[simp] theorem Acc.countCluster_held (a : Acc) (c off k : Nat) : (a.countCluster c off k).held = a.held := rfl

@[simp] theorem Acc.look_held (a : Acc) (island : Nat) : (a.look island).2.held = a.held := by
  unfold Acc.look
  split <;> rfl

@[simp] theorem Acc.ask_held (a : Acc) (stack part n : Nat) : (a.ask stack part n).held = a.held := by
  unfold Acc.ask
  split <;> rfl

theorem JobRun.countAll_cores (r : JobRun) (m : NMap Nat) :
    (m.foldl (fun (r : JobRun) (e : Nat × Nat) => r.count e.1 e.2) r).cores = r.cores :=
  foldl_keeps JobRun.cores (fun (r : JobRun) (e : Nat × Nat) => r.count e.1 e.2) (fun _ _ => rfl) _ _

@[simp] theorem Acc.grantAt_held (a : Acc) (regs : List RegE) (island : Nat) : (a.grantAt regs island).held = a.held := by
  have looked := Acc.look_held a island
  unfold Acc.grantAt
  dsimp only
  split
  · rfl
  · exact (congrArg (fun c => (c, (a.look island).2.tiers.salt, (a.look island).2.tiers.clusters)) (JobRun.countAll_cores _ _)).trans
      looked

@[simp] theorem Acc.grant_held (a : Acc) (regs : List RegE) : (a.grant regs).held = a.held := by
  have granted := foldl_keeps Acc.held (fun (a : Acc) i => a.grantAt regs i) (fun a i => Acc.grantAt_held a regs i) (List.range 48) a
  unfold Acc.grant
  generalize (List.range 48).foldl _ a = b at granted ⊢
  exact granted

@[simp] theorem Acc.relocate_held (a : Acc) (pl : Place) (stack unit : Nat) : (a.relocate pl stack unit).held = a.held := by
  unfold Acc.relocate
  split <;> rfl

@[simp] theorem Acc.relocateRow_held (a : Acc) (stripe : Nat) (x : Assembly) : (a.relocateRow stripe x).held = a.held := by
  unfold Acc.relocateRow
  rw [Acc.relocate_held]
  refine foldl_keeps Acc.held _ (fun a u => ?_) _ _
  split <;> simp

@[simp] theorem Acc.closeStripe_held (a : Acc) (stripe : Nat) : (a.closeStripe stripe).held = a.held := by
  unfold Acc.closeStripe
  split
  · rfl
  · dsimp only
    rw [Acc.relocateRow_held, foldl_keeps Acc.held (fun (a : Acc) (q : Nat × Nat × Nat) => a.ask q.1 q.2.1 q.2.2)
      (fun a q => Acc.ask_held a q.1 q.2.1 q.2.2), Acc.count_held]
    split <;> rfl

@[simp] theorem Acc.expire_held (a : Acc) (stripe now : Nat) : (a.expire stripe now).held = a.held := by
  unfold Acc.expire
  split
  · split <;> simp
  · rfl

@[simp] theorem Acc.makeRoom_held (a : Acc) (hub : Nat) : (a.makeRoom hub).held = a.held := by
  unfold Acc.makeRoom
  split
  · rfl
  · split <;> simp

@[simp] theorem Acc.assemble_held (a : Acc) (d mask part : Nat) : (a.assemble d mask part).held = a.held := by
  have room (b : Acc) (h : b.held = a.held) (new : Bool) (hub : Nat) : (if new then b.makeRoom hub else b).held = a.held := by
    split
    · rwa [Acc.makeRoom_held]
    · exact h
  have joined (b : Acc) (h : b.held = a.held) (asm : NMap Assembly) (asmClock stripe : Nat) (whole : Bool) :
      (if whole then ({ b with tiers := { b.tiers with asm, asmClock } } : Acc).closeStripe stripe
        else { b with tiers := { b.tiers with asm, asmClock } }).held = a.held := by
    split
    · exact (Acc.closeStripe_held _ stripe).trans h
    · exact h
  exact joined _ (room _ ((Acc.expire_held _ _ _).trans (Acc.look_held a _)) _ _) _ _ _ _

@[simp] theorem Acc.peatWrite_held (a : Acc) (u mask part : Nat) : (a.peatWrite u mask part).held = a.held :=
  Acc.assemble_held a _ mask part

@[simp] theorem Acc.dataLines_held (a : Acc) (part fuel at' left : Nat) : (a.dataLines part fuel at' left).held = a.held := by
  induction fuel generalizing a at' left with
  | zero => rfl
  | succ k ih =>
    unfold Acc.dataLines
    split
    · rfl
    · exact (ih _ _ _).trans (Acc.assemble_held _ _ _ _)

@[simp] theorem Acc.closeAll_held (a : Acc) : a.closeAll.held = a.held :=
  foldl_keeps Acc.held (fun (a : Acc) (e : Nat × Assembly) => a.closeStripe e.1) (fun a e => a.closeStripe_held e.1) _ _

/-- What the state holds of the tiers after accesses. -/
theorem State.onTiers_tiers (s : State) (k : Nat) (f : Image → Acc → Acc) :
    (s.onTiers k f).tiers = ((f (s.job k).image (s.accFor k)).grant (s.job k).image.regs).tiers := by
  unfold State.onTiers
  dsimp only
  generalize (f (s.job k).image (s.accFor k)).grant (s.job k).image.regs = a
  refine (foldl_keeps State.tiers State.placeUnit (fun s e => ?_) _ _).trans rfl
  unfold State.placeUnit
  dsimp only
  split
  · rfl
  · split <;> rfl

/-! ## Cleaning (R291, R353) -/

/-- Nothing that a cluster holds is dirty. -/
def Tier.clean (t : Tier) : Prop := (∀ x ∈ t.ember, x.2.dirty = 0) ∧ ∀ x ∈ t.cache, x.2.dirty = 0

/-- A tier with its copies clean. -/
def Tier.cleaned (t : Tier) : Tier :=
  { t with ember := t.ember.map (fun p => (p.1, { p.2 with dirty := 0 })), cache := t.cache.map (fun l => (l.1, { l.2 with dirty := 0 })) }

theorem Tier.cleaned_clean (t : Tier) : t.cleaned.clean := by
  refine ⟨fun x hx => ?_, fun x hx => ?_⟩ <;> obtain ⟨e, -, rfl⟩ := List.mem_map.mp hx <;> rfl

theorem Tier.empty_clean : ({} : Tier).clean := ⟨fun _ h => (List.not_mem_nil h).elim, fun _ h => (List.not_mem_nil h).elim⟩

/-- Cleaning a cluster leaves the salt, and every cluster but that one; that one's copies are clean. -/
theorem Acc.cleanTier_held (a : Acc) (cl : Nat) :
    (a.cleanTier cl).held = (a.run.cores, a.tiers.salt, NMap.put a.tiers.clusters cl (a.tiers.tier cl).cleaned) := by
  unfold Acc.cleanTier
  extract_lets t a1 a2 t2
  have written : a2.held = a.held := by
    refine (foldl_keeps Acc.held _ (fun a e => foldl_keeps Acc.held _ (fun a k => ?_) _ _) _ _).trans
      (foldl_keeps Acc.held _ (fun a e => ?_) _ _)
    · rw [Acc.peatWrite_held, Acc.countCluster_held]
    · split
      · rfl
      · rw [Acc.peatWrite_held, Acc.countCluster_held]
  have same : t2 = t := congrArg (fun m : NMap Tier => NMap.getD m cl {}) (Acc.clusters_of_held written)
  rw [same]
  exact congrArg (fun h : NMap Core × W64 × NMap Tier => (h.1, h.2.1, NMap.put h.2.2 cl t.cleaned)) written

theorem Acc.cleanAll_salt (a : Acc) : a.cleanAll.tiers.salt = a.tiers.salt :=
  foldl_keeps (fun a : Acc => a.tiers.salt) (fun (a : Acc) cl => a.cleanTier cl)
    (fun a cl => congrArg (fun h : NMap Core × W64 × NMap Tier => h.2.1) (a.cleanTier_held cl)) _ _

/-- A cluster among those cleaned is clean, and what is clean stays so. -/
theorem Acc.cleanTiers_clean (cls : List Nat) (a : Acc) (cl : Nat) (h : cl ∈ cls ∨ (a.tiers.tier cl).clean) :
    ((cls.foldl (fun (a : Acc) cl => a.cleanTier cl) a).tiers.tier cl).clean := by
  induction cls generalizing a with
  | nil => exact h.resolve_left List.not_mem_nil
  | cons c rest ih =>
    have cleaned : (a.cleanTier c).tiers.tier cl = NMap.getD (NMap.put a.tiers.clusters c (a.tiers.tier c).cleaned) cl {} :=
      congrArg (fun h : NMap Core × W64 × NMap Tier => NMap.getD h.2.2 cl {}) (a.cleanTier_held c)
    refine ih _ ?_
    rw [cleaned]
    by_cases hc : cl = c
    · subst hc
      rw [NMap.getD_put_same]
      exact .inr (Tier.cleaned_clean _)
    · rw [NMap.getD_put_ne _ _ _ _ _ hc]
      exact h.imp_left fun hm => (List.mem_cons.mp hm).resolve_left hc

/-- A key that a map does not list. -/
theorem NMap.getD_of_not_mem {α : Type} (m : NMap α) (k : Nat) (d : α) (h : k ∉ m.map (·.1)) : NMap.getD m k d = d := by
  induction m with
  | nil => rfl
  | cons e rest ih =>
    have hne : ¬ e.1 = k := fun he => h (he ▸ List.mem_cons_self)
    refine (congrArg (Option.getD · d) (if_neg hne)).trans (ih fun hm => h (List.mem_cons_of_mem _ hm))

/-- Everything that the tiers hold is clean once every cluster is cleaned. -/
theorem Acc.cleanAll_clean (a : Acc) (cl : Nat) : (a.cleanAll.tiers.tier cl).clean := by
  refine Acc.cleanTiers_clean _ a cl ?_
  by_cases h : cl ∈ a.tiers.clusters.map (·.1)
  · exact .inl h
  · refine .inr ?_
    rw [Tiers.tier, NMap.getD_of_not_mem _ _ _ h]
    exact Tier.empty_clean

/-- Granting leaves what the tiers hold. -/
theorem State.onTiers_held (s : State) (k : Nat) (f : Image → Acc → Acc) :
    (s.onTiers k f).tiers.salt = (f (s.job k).image (s.accFor k)).tiers.salt ∧
      (s.onTiers k f).tiers.clusters = (f (s.job k).image (s.accFor k)).tiers.clusters := by
  rw [State.onTiers_tiers]
  have granted := Acc.grant_held (f (s.job k).image (s.accFor k)) (s.job k).image.regs
  exact ⟨Acc.salt_of_held granted, Acc.clusters_of_held granted⟩

/-- The salt of the map stays as the tiers are emptied (R275). -/
theorem State.drainTiers_salt (s : State) (k : Nat) : (s.drainTiers k).tiers.salt = s.tiers.salt := by
  have acc : (s.accFor k).tiers = s.tiers := rfl
  rw [State.drainTiers, (s.onTiers_held k _).1, Acc.salt_of_held (Acc.closeAll_held _), Acc.cleanAll_salt, acc]

end Sys2Proof.Machine
end

section
/-! O29: the end of a job (R331, R337, R402, R471, R472). -/

namespace Sys2Proof.Machine

/-- A state less what discarding commands changes. -/
def State.offTaken (s : State) : State := { s.offPorts with sched := { s.sched with taken := [] } }

theorem State.offTaken_of_offPorts {s t : State} (h : t.offPorts = s.offPorts) : t.offTaken = s.offTaken :=
  (congrArg (fun u : State => { u with sched := { u.sched with taken := [] } }) h :)

@[simp] theorem State.discard_offTaken (s : State) (cs : List Cmd) : (s.discard cs).offTaken = s.offTaken := by
  induction cs generalizing s with
  | nil => rfl
  | cons c rest ih =>
    refine (ih _).trans ?_
    exact (State.offTaken_of_offPorts (State.notOutstanding_offPorts s c) :)

/-- The herd holds nothing of a job (R402). -/
def Herd.freeOf (h : Herd) (k id : Nat) : Prop :=
  (∀ u ∈ h.unacked, u.pkt.job ≠ id) ∧ (∀ x ∈ h.flows, x.job ≠ id) ∧ (∀ m ∈ h.messages, m.job ≠ id) ∧
    ∀ ts ∈ h.engines, ∀ x ∈ ts, x.slot ≠ k

/-- Only counters change as a confidential job ceases to run. -/
theorem State.coarseOff_kept (s : State) : s.coarseOff.jobs = s.jobs ∧ s.coarseOff.tiers = s.tiers ∧
    (s.coarseOff.sec.jobKeys = s.sec.jobKeys ∧ s.coarseOff.sec.scrub = s.sec.scrub) ∧
    ∀ k id, s.herd.freeOf k id → s.coarseOff.herd.freeOf k id := by
  unfold State.coarseOff
  split
  · exact ⟨rfl, rfl, ⟨rfl, rfl⟩, fun _ _ h => h⟩
  · exact ⟨rfl, rfl, ⟨rfl, rfl⟩, fun _ _ h => h⟩

/-- What the end of a job leaves, whether it ran or not; and, where it ran, of the device. -/
theorem State.endJob_leaves {s : State} {k : Nat} (c : Cmd) (hk : k < s.jobs.length) :
    (s.endJob k c).job k = (s.job k).ended ∧ ((s.endJob k c).sec.jobKeys = NMap.del s.sec.jobKeys k ∧
      (s.endJob k c).sec.scrub = s.sec.scrub + (s.job k).scrubBytes) ∧
      (s.endJob k c).herd.freeOf k (s.job k).info.id ∧
      (s.sched.running = some k → (s.endJob k c).health.replay = none ∧ (s.endJob k c).sched.running = none ∧
        (s.endJob k c).sched.pausing = none ∧ (s.endJob k c).sched.seekCommit = none ∧
        (s.endJob k c).tiers = if (s.job k).info.state = .resuming then s.tiers else { salt := s.tiers.salt }) := by
  unfold State.endJob
  extract_lets j others completed emptied _ keyless _ quit _ left off told _ _
  have same : completed.offTaken = s.offTaken :=
    (State.offTaken_of_offPorts (State.completeUnder_offPorts _ _ _ _ _ _ _)).trans (State.discard_offTaken _ _)
  have jobs : completed.jobs = s.jobs := (congrArg State.jobs same :)
  have sec : completed.sec = s.sec := (congrArg State.sec same :)
  have tiers : left.tiers = s.tiers := (congrArg State.tiers same :)
  have running : left.sched.running = s.sched.running := (congrArg (·.sched.running) same :)
  have job : left.job k = j.ended := State.setJob_job completed k j.ended (jobs ▸ hk)
  have keys : left.sec.jobKeys = NMap.del s.sec.jobKeys k ∧ left.sec.scrub = s.sec.scrub + j.scrubBytes :=
    ⟨congrArg (fun x : Sec => NMap.del x.jobKeys k) sec, congrArg (fun x : Sec => x.scrub + j.scrubBytes) sec⟩
  have herd : left.herd.freeOf k j.info.id := by
    refine ⟨fun u hu => ?_, fun x hx => ?_, fun m hm => ?_, fun ts hts x hx => ?_⟩
    · exact bne_iff_ne.mp (List.mem_filter.mp hu).2
    · exact bne_iff_ne.mp (List.mem_filter.mp hx).2
    · exact bne_iff_ne.mp (List.mem_filter.mp hm).2
    · obtain ⟨all, -, rfl⟩ := List.mem_map.mp hts
      exact bne_iff_ne.mp (List.mem_filter.mp hx).2
  obtain ⟨offJobs, offTiers, offKeys, offHerd⟩ := left.coarseOff_kept
  have toldSame : told.offPorts = off.offPorts := by
    unfold told
    split
    · rw [State.statusChange_offPorts, State.statusChange_offPorts]
    · rfl
  split
  next hr =>
    refine ⟨?_, ?_, ?_, fun _ => ⟨rfl, rfl, rfl, rfl, ?_⟩⟩
    · exact (congrArg (fun js : List Job => js.getD k {}) ((State.jobs_of_offPorts toldSame).trans offJobs)).trans job
    · have toldSec : told.sec = off.sec := (congrArg State.sec toldSame :)
      exact ⟨(congrArg Sec.jobKeys toldSec).trans (offKeys.1.trans keys.1),
        (congrArg Sec.scrub toldSec).trans (offKeys.2.trans keys.2)⟩
    · have toldHerd : told.herd = off.herd := (congrArg State.herd toldSame :)
      exact toldHerd ▸ offHerd _ _ herd
    · have toldTiers : told.tiers = s.tiers := (congrArg State.tiers toldSame :).trans (offTiers.trans tiers)
      simp only [toldTiers, beq_iff_eq]
      rfl
  next hr =>
    refine ⟨job, keys, herd, fun h => (hr ?_).elim⟩
    rw [running]
    exact beq_iff_eq.mpr h

/-! ## JOB_END (R337, R368) -/

section
variable {s : State} {k : Nat}

theorem State.withTiers_job (s : State) (t : Tiers) (k : Nat) : ({ s with tiers := t } : State).job k = s.job k := rfl

/-- The state as a job's end begins: what the tiers hold of it is written back. -/
def State.drained (s : State) (k : Nat) : State :=
  if (s.sched.running == some k && (s.job k).info.state != .resuming) || (s.job k).info.wbPending then s.drainTiers k else s

theorem State.drained_offTiers : (s.drained k).offTiers = s.offTiers := by
  unfold State.drained
  split
  · exact State.drainTiers_offTiers _ _
  · rfl

/-- A drained job ends as it would have. -/
theorem Job.ended_of_quiet {i j : Job} (h : i.quiet = j.quiet) : i.ended = j.ended ∧ i.scrubBytes = j.scrubBytes := by
  unfold Job.ended Job.scrubBytes Job.journalBytes
  rw [Job.info_of_quiet h, Job.image_of_quiet h, Job.backing_of_quiet h, Job.pool_of_quiet h, Job.journal_of_quiet h]
  exact ⟨rfl, rfl⟩

/-- What JOB_END leaves as it takes effect. -/
theorem State.finishJob_leaves (c : Cmd) (hk : k < s.jobs.length) :
    (s.finishJob k c).job k = (s.job k).ended ∧ ((s.finishJob k c).sec.jobKeys = NMap.del s.sec.jobKeys k ∧
      (s.finishJob k c).sec.scrub = s.sec.scrub + (s.job k).scrubBytes) ∧
      (s.finishJob k c).herd.freeOf k (s.job k).info.id ∧
      (s.sched.running = some k → (s.finishJob k c).health.replay = none ∧ (s.finishJob k c).sched.running = none ∧
        (s.finishJob k c).sched.pausing = none ∧ (s.finishJob k c).sched.seekCommit = none ∧
        ((s.job k).info.state ≠ .resuming → (s.finishJob k c).tiers = { salt := s.tiers.salt }) ∧
        ((s.job k).info.state = .resuming → (s.job k).info.wbPending = false → (s.finishJob k c).tiers = s.tiers)) := by
  have quiet := State.drained_offTiers (s := s) (k := k)
  obtain ⟨job, ⟨keys, scrub⟩, herd, device⟩ := State.endJob_leaves (s := s.drained k) (k := k) c
    (by rwa [State.slots_of_offTiers quiet])
  obtain ⟨endedSame, scrubSame⟩ := Job.ended_of_quiet (State.job_of_offTiers quiet k)
  rw [endedSame] at job
  rw [State.sec_of_offTiers quiet] at keys scrub
  rw [scrubSame] at scrub
  rw [Job.info_of_quiet (State.job_of_offTiers quiet k)] at herd device
  rw [State.sched_of_offTiers quiet] at device
  unfold State.finishJob
  by_cases held : ((s.sched.running == some k && (s.job k).info.state != .resuming) || (s.job k).info.wbPending) = true
  · have drained : s.drained k = s.drainTiers k := if_pos held
    rw [drained] at job keys scrub herd device
    simp only [held, if_true]
    refine ⟨(State.withTiers_job _ _ k).trans job, ⟨keys, scrub⟩, herd, fun hr => ?_⟩
    obtain ⟨replay, running, pausing, seek, tiers⟩ := device hr
    refine ⟨replay, running, pausing, seek, fun _ => congrArg (fun salt : W64 => ({ salt } : Tiers)) ?_, fun hres hwb => ?_⟩
    · rw [tiers]
      split <;> simp only [State.drainTiers_salt]
    · simp [hr, hres, hwb] at held
  · have drained : s.drained k = s := if_neg held
    rw [drained] at job keys scrub herd device
    simp only [held, if_false, Bool.false_eq_true]
    refine ⟨job, ⟨keys, scrub⟩, herd, fun hr => ?_⟩
    obtain ⟨replay, running, pausing, seek, tiers⟩ := device hr
    refine ⟨replay, running, pausing, seek, fun hres => ?_, fun hres _ => ?_⟩
    · simp [hr, hres] at held
    · rw [tiers, if_pos hres]

theorem State.endOrWait_loading {c : Cmd} (h : (s.job k).info.state = .loading) : s.endOrWait k c =
    s.setInfo k { (s.job k).info with waiting := (s.job k).info.waiting ++ [c] } := by
  simp only [State.endOrWait, h]

theorem State.endOrWait_stopped {c : Cmd} (h : (s.job k).info.state = .armed ∨ (s.job k).info.state = .paused) :
    s.endOrWait k c = s.finishJob k c := by
  rcases h with h | h <;> simp only [State.endOrWait, h]

theorem State.endOrWait_works {c : Cmd} (h : (s.job k).info.state = .running ∨ (s.job k).info.state = .pausing) :
    s.endOrWait k c = { s with sched := { s.sched with ending := s.sched.ending ++ [(k, c)] } } := by
  rcases h with h | h <;> simp only [State.endOrWait, h]

end

/-- Settles O29: by the state of the job, and by what the end of a job leaves. -/
theorem jobEnds : Obligations.JobEnds := by
  unfold Obligations.JobEnds
  intro s c k hs
  refine ⟨fun hop hk ho hsh => ?_, fun h64 hlt hfind hat => ?_⟩
  · have ends (he : (s.job k).info.state ≠ .ending) : exec (.jobEnd c) s = .next ((s.takeCmd c).endOrWait k c) :=
      (checked_of s _ _ (beq_iff_eq.mpr hop)).trans (congrArg _ (State.onJob_acts hs hk ho he _ hsh))
    refine ⟨fun h => ?_, fun h => ?_, fun h => ?_⟩
    · exact (ends (by simp [h])).trans (congrArg _ (State.endOrWait_loading h))
    · obtain ⟨job, ⟨keys, scrub⟩, -⟩ := State.finishJob_leaves (s := s.takeCmd c) c (State.slotOf_lt hk)
      exact ⟨_, (ends (by rcases h with h | h <;> simp [h])).trans (congrArg _ (State.endOrWait_stopped h)), job, keys, scrub⟩
    · exact ⟨_, (ends (by rcases h with h | h <;> simp [h])).trans (congrArg _ (State.endOrWait_works h)), rfl, rfl⟩
  · obtain ⟨job, ⟨keys, scrub⟩, herd, device⟩ := State.finishJob_leaves (s := s) c hlt
    refine ⟨_, (checked_of s _ _ (decide_eq_true h64)).trans (congrArg _ ?_), job, keys, scrub, herd, device⟩
    rw [hfind]
    exact if_pos (by simp [hs, hat])

end Sys2Proof.Machine
end

section
/-! SUPPORT. What a commit point and a pause leave of their job (R349, R353, R354, R360, R423). -/

namespace Sys2Proof.Machine

/-! ## Adding up the RUNNING time (R332) -/

/-- Only the RUNNING time and its start change. -/
theorem State.tallyRun_times (s : State) (k : Nat) : ∃ (runNs runSince : Nat),
    (s.tallyRun k).jobs = (s.setJob k { s.job k with info := { (s.job k).info with runNs, runSince } }).jobs := by
  unfold State.tallyRun
  split
  · refine ⟨(s.job k).info.runNs, (s.job k).info.runSince, ?_⟩
    exact congrArg State.jobs (s.setJob_same k).symm
  · exact ⟨_, _, rfl⟩

theorem State.tallyRun_herd (s : State) (k : Nat) : (s.tallyRun k).herd = s.herd := by
  unfold State.tallyRun
  split <;> rfl

theorem State.tallyRun_health (s : State) (k : Nat) : (s.tallyRun k).health = s.health := by
  unfold State.tallyRun
  split <;> rfl

/-- The slot of a job whose RUNNING time is added up. -/
theorem State.tallyRun_slot {s : State} {k : Nat} (hk : k < s.jobs.length) : ∃ (runNs runSince : Nat),
    (s.tallyRun k).job k = { s.job k with info := { (s.job k).info with runNs, runSince } } := by
  obtain ⟨runNs, runSince, jobs⟩ := s.tallyRun_times k
  exact ⟨runNs, runSince, (congrArg (fun js : List Job => js.getD k {}) jobs).trans (State.setJob_job s k _ hk)⟩

theorem State.tallyRun_slots (s : State) (k : Nat) : (s.tallyRun k).jobs.length = s.jobs.length := by
  obtain ⟨_, _, jobs⟩ := s.tallyRun_times k
  rw [jobs, State.setJob_slots]

/-! ## Commit points (R353) -/

/-- A job at its commit point, with what the herd holds of it. -/
def Job.committed (j : Job) (kept : JobRun) (live : Nat) : Job :=
  { j with commit := some kept, journal := []
           info := { j.info with commitSeq := j.info.commitSeq + 1, journal := live, commits := [], commitRun := j.info.runNs
                                 notified := 0 } }

/-- A commit point changes the job's slot, and otherwise completes commands. -/
theorem State.commitNow_settled (s : State) (k live : Nat) : (s.commitNow k live).settled =
    ((s.tallyRun k).setJob k (((s.tallyRun k).job k).committed ((s.tallyRun k).withHerd k ((s.tallyRun k).job k).run) live)).settled :=
  State.completeAll_settled _ _ _ _ _

theorem State.commitNow_sched (s : State) (k live : Nat) : (s.commitNow k live).sched = s.sched :=
  (State.sched_of_settled ((s.commitNow_settled k live).trans rfl)).trans (State.tallyRun_sched s k)

/-- The slot of a job that takes its commit point: its present run, with what the herd holds of it outbound, is kept. -/
theorem State.commitNow_job {s : State} {k : Nat} (hk : k < s.jobs.length) (live : Nat) : ∃ (runNs runSince : Nat),
    ((s.commitNow k live).job k).settled = (({ s.job k with info := { (s.job k).info with runNs, runSince } } : Job).committed
      (s.withHerd k (s.job k).run) live).settled := by
  obtain ⟨runNs, runSince, job⟩ := State.tallyRun_slot hk
  have kept : (s.tallyRun k).withHerd k ((s.tallyRun k).job k).run = s.withHerd k (s.job k).run := by
    unfold State.withHerd
    rw [State.tallyRun_herd, job]
  refine ⟨runNs, runSince, (State.job_of_settled (s.commitNow_settled k live) k).trans ?_⟩
  rw [State.setJob_job _ _ _ (by rwa [State.tallyRun_slots]), kept, job]

/-! ## The transfer to the buddy (R360) -/

/-- A transfer to the buddy is queued in the herd; of its job only what is still to be sent changes. -/
theorem State.mirrorTransfer_kept (s : State) (k : Nat) : (s.mirrorTransfer k).sched = s.sched ∧
    (s.mirrorTransfer k).tiers = s.tiers ∧ (s.mirrorTransfer k).health = s.health ∧
    ∃ all dirty sent, (s.mirrorTransfer k).jobs =
      (s.setJob k { s.job k with mirrorAll := all, mirrorDirty := dirty, mirrorSent := sent }).jobs := by
  unfold State.mirrorTransfer
  dsimp only
  split
  · exact ⟨rfl, rfl, rfl, (s.job k).mirrorAll, (s.job k).mirrorDirty, (s.job k).mirrorSent,
      congrArg State.jobs (s.setJob_same k).symm⟩
  · exact ⟨rfl, rfl, rfl, _, _, _, rfl⟩

/-- What a slot holds but for what is still to be sent to the buddy. -/
theorem State.mirrorTransfer_keeps {α : Type} (g : Job → α)
    (hg : ∀ (j : Job) all dirty sent, g { j with mirrorAll := all, mirrorDirty := dirty, mirrorSent := sent } = g j)
    (s : State) (k q : Nat) : g ((s.mirrorTransfer k).job q) = g (s.job q) := by
  obtain ⟨-, -, -, all, dirty, sent, jobs⟩ := s.mirrorTransfer_kept k
  refine (congrArg (fun js : List Job => g (js.getD q {})) jobs).trans ?_
  exact State.setJob_keeps g s k q (hg _ _ _ _)

/-! ## Host writes that waited (R354, R423) -/

theorem Job.hostWrite_info (j : Job) (a : Nat) (bs : List Byte) : (j.hostWrite a bs).info = j.info := Job.store_info j a bs

theorem Job.touch_commit (j : Job) (u n : Nat) : (j.touch u n).commit = j.commit := by
  induction n generalizing j u with
  | zero => rfl
  | succ n ih => exact ih _ _

theorem Job.touch_heldWrites (j : Job) (u n : Nat) : (j.touch u n).heldWrites = j.heldWrites := by
  induction n generalizing j u with
  | zero => rfl
  | succ n ih => exact ih _ _

theorem Job.hostWrite_commit (j : Job) (a : Nat) (bs : List Byte) : (j.hostWrite a bs).commit = j.commit := by
  change (j.store a bs).commit = _
  unfold Job.store
  split
  · rfl
  · exact j.touch_commit _ _

theorem Job.hostWrite_heldWrites (j : Job) (a : Nat) (bs : List Byte) : (j.hostWrite a bs).heldWrites = j.heldWrites := by
  change (j.store a bs).heldWrites = _
  unfold Job.store
  split
  · rfl
  · exact j.touch_heldWrites _ _

/-- One host write that waited: it waits on, or takes effect. -/
def State.releaseOne (k : Nat) (s : State) (w : Nat × List Byte) : State :=
  let j := s.job k
  if j.blocked w.1 w.2.length true then s.setJob k { j with heldWrites := j.heldWrites ++ [w] }
  else if s.sched.running == some k then (s.setJob k (j.hostWrite w.1 w.2)).hubWrite k 5 w.1 w.2.length
  else s.setJob k (j.fill w.1 w.2)

theorem State.releaseHeld_eq (s : State) (k : Nat) : s.releaseHeld k =
    (s.job k).heldWrites.foldl (State.releaseOne k) (s.setJob k { s.job k with heldWrites := [] }) := rfl

theorem State.releaseOne_sched (s : State) (k : Nat) (w : Nat × List Byte) : (s.releaseOne k w).sched = s.sched := by
  unfold State.releaseOne
  dsimp only
  split_ifs
  · rfl
  · exact (State.sched_of_offTiers (State.hubWrite_offTiers (s.setJob k ((s.job k).hostWrite w.1 w.2)) _ _ _ _)).trans rfl
  · rfl

theorem State.releaseHeld_sched (s : State) (k : Nat) : (s.releaseHeld k).sched = s.sched :=
  foldl_keeps State.sched (State.releaseOne k) (fun s w => s.releaseOne_sched k w) _ _

/-- Host writes that take effect change neither a slot's registers nor its commit point. -/
theorem State.releaseHeld_registers (s : State) (k q : Nat) :
    (((s.releaseHeld k).job q).info, ((s.releaseHeld k).job q).commit) = ((s.job q).info, (s.job q).commit) := by
  refine (foldl_keeps (fun s : State => ((s.job q).info, (s.job q).commit)) (State.releaseOne k) (fun s w => ?_) _ _).trans
    (State.setJob_keeps (fun j => (j.info, j.commit)) s k q rfl)
  unfold State.releaseOne
  dsimp only
  split_ifs
  · exact State.setJob_keeps (fun j => (j.info, j.commit)) s k q rfl
  · have quiet := State.job_of_offTiers (State.hubWrite_offTiers (s.setJob k ((s.job k).hostWrite w.1 w.2)) k 5 w.1 w.2.length) q
    rw [Job.info_of_quiet quiet, Job.commit_of_quiet quiet]
    exact State.setJob_keeps (fun j => (j.info, j.commit)) s k q
      (congrArg₂ Prod.mk (Job.hostWrite_info _ _ _) (Job.hostWrite_commit _ _ _))
  · exact State.setJob_keeps (fun j => (j.info, j.commit)) s k q rfl

theorem State.releaseHeld_info (s : State) (k q : Nat) : ((s.releaseHeld k).job q).info = (s.job q).info :=
  (Prod.mk.inj (s.releaseHeld_registers k q)).1

theorem State.releaseHeld_commit (s : State) (k q : Nat) : ((s.releaseHeld k).job q).commit = (s.job q).commit :=
  (Prod.mk.inj (s.releaseHeld_registers k q)).2

/-- Where no host write waited, nothing changes. -/
theorem State.releaseHeld_none {s : State} {k : Nat} (h : (s.job k).heldWrites = []) : s.releaseHeld k = s := by
  have same : ({ s.job k with heldWrites := [] } : Job) = s.job k := by rw [← h]
  rw [State.releaseHeld_eq, h, same, State.setJob_same]
  rfl

/-- Host writes of a job with no withheld data all take effect. -/
theorem State.releaseHeld_heldWrites {s : State} {k : Nat} (hk : k < s.jobs.length) (hl : (s.job k).lost = []) :
    ((s.releaseHeld k).job k).heldWrites = [] := by
  have one (s : State) (w : Nat × List Byte) (h : k < s.jobs.length ∧ (s.job k).lost = [] ∧ (s.job k).heldWrites = []) :
      k < (s.releaseOne k w).jobs.length ∧ ((s.releaseOne k w).job k).lost = [] ∧ ((s.releaseOne k w).job k).heldWrites = [] := by
    obtain ⟨hk, hl, hw⟩ := h
    have open' : (s.job k).blocked w.1 w.2.length true = false := by simp [Job.blocked, hl]
    unfold State.releaseOne
    dsimp only
    rw [open', if_neg Bool.false_ne_true]
    split
    · have quiet := State.hubWrite_offTiers (s.setJob k ((s.job k).hostWrite w.1 w.2)) k 5 w.1 w.2.length
      rw [State.slots_of_offTiers quiet, Job.lost_of_quiet (State.job_of_offTiers quiet k),
        Job.heldWrites_of_quiet (State.job_of_offTiers quiet k), State.setJob_slots, State.setJob_job _ _ _ hk,
        Job.hostWrite_lost, Job.hostWrite_heldWrites]
      exact ⟨hk, hl, hw⟩
    · rw [State.setJob_slots, State.setJob_job _ _ _ hk]
      exact ⟨hk, hl, hw⟩
  have all (ws : List (Nat × List Byte)) : ∀ s : State, k < s.jobs.length ∧ (s.job k).lost = [] ∧ (s.job k).heldWrites = [] →
      ((ws.foldl (State.releaseOne k) s).job k).heldWrites = [] := by
    induction ws with
    | nil => exact fun s h => h.2.2
    | cons w ws ih => exact fun s h => ih _ (one s w h)
  rw [State.releaseHeld_eq]
  refine all _ _ ?_
  rw [State.setJob_slots, State.setJob_job _ _ _ hk]
  exact ⟨hk, hl, rfl⟩

end Sys2Proof.Machine
end

section
/-! O33: slices, bounds, the pause point and the write-back (R332, R341, R345 to R354, R471). -/

namespace Sys2Proof.Machine

/-! ## What a pause point leaves -/

/-- What a slot shows of its pause. -/
def Job.stop (j : Job) : JobState × Bool × Bool × Nat × Nat × Nat :=
  (j.info.state, j.info.wbPending, j.info.holdsSave, j.info.cause, j.info.commitSeq, j.journalBytes)

/-- Whether, and for which job, the scheduler is free. -/
def Sched.stop (d : Sched) : Option Nat × Option Nat × Option Pausing × Bool := (d.running, d.previous, d.pausing, d.intakeOpen)

/-- The job of a slot as it pauses, with what else the device holds of its run. -/
def State.paused (s : State) (k : Nat) (p : Pausing) : State :=
  let j := s.job k
  let s := (s.tallyRun k).capturePackets k
  let r := (s.job k).run
  let s := s.setJob k { s.job k with
    run := { j.saved p.forced with captured := r.captured, seqs := r.seqs, passes := r.passes, msgs := r.msgs } }
  s.setInfo k { (s.job k).info with state := .paused, cause := p.finalCause, wbPending := true, holdsSave := p.forced }

/-- The state at the commit point that a pause is. -/
def State.pauseCommitted (s : State) (k : Nat) (p : Pausing) : State :=
  (((s.paused k p).commitNow k 0).mirrorTransfer k).releaseHeld k

/-- The slot as the job pauses: what it shows, and the host writes that wait. -/
theorem State.paused_job {s : State} {k : Nat} (hk : k < s.jobs.length) (p : Pausing) :
    k < (s.paused k p).jobs.length ∧ ∃ (r : JobRun) (runNs runSince : Nat), (s.paused k p).job k = { s.job k with
      run := r
      info := { (s.job k).info with runNs, runSince, state := .paused, cause := p.finalCause, wbPending := true
                                    holdsSave := p.forced } } := by
  obtain ⟨runNs, runSince, job⟩ := State.tallyRun_slot hk
  have len : k < (s.tallyRun k).jobs.length := by rwa [State.tallyRun_slots]
  obtain ⟨r, captured⟩ : ∃ r, ((s.tallyRun k).capturePackets k).job k = { (s.tallyRun k).job k with run := r } :=
    ⟨_, State.setJob_job { s.tallyRun k with herd := _ } k _ len⟩
  have lenc : k < ((s.tallyRun k).capturePackets k).jobs.length := by
    change k < ((s.tallyRun k).jobs.set k _).length
    rwa [List.length_set]
  rw [job] at captured
  unfold State.paused
  dsimp only
  rw [State.setInfo_slots, State.setJob_slots, State.setInfo_job _ _ _ (by rwa [State.setJob_slots]), State.setJob_job _ _ _ lenc,
    captured]
  exact ⟨lenc, _, runNs, runSince, rfl⟩

theorem Job.stop_of_settled {i j : Job} (h : i.settled = j.settled) : i.stop = j.stop :=
  (congrArg Job.stop h :)

/-- The commit point of a pause leaves the registers of the pause, one commit more, and the journal empty where no host write waited. -/
theorem State.pauseCommitted_job {s : State} {k : Nat} (hk : k < s.jobs.length) (p : Pausing) :
    ∃ bytes, ((s.pauseCommitted k p).job k).stop =
        (.paused, true, p.forced, p.finalCause, (s.job k).info.commitSeq + 1, bytes) ∧
      ((s.job k).heldWrites = [] → bytes = 0) := by
  obtain ⟨len, r, runNs, runSince, paused⟩ := State.paused_job hk p
  obtain ⟨ns, since, committed⟩ := State.commitNow_job len 0
  rw [paused] at committed
  have mirrored := State.mirrorTransfer_keeps Job.stop (fun _ _ _ _ => rfl) ((s.paused k p).commitNow k 0) k k
  have stop : ((((s.paused k p).commitNow k 0).mirrorTransfer k).job k).stop =
      (.paused, true, p.forced, p.finalCause, (s.job k).info.commitSeq + 1, 0) :=
    mirrored.trans ((Job.stop_of_settled committed).trans rfl)
  have held : ((((s.paused k p).commitNow k 0).mirrorTransfer k).job k).heldWrites = (s.job k).heldWrites :=
    (State.mirrorTransfer_keeps Job.heldWrites (fun _ _ _ _ => rfl) _ k k).trans ((Job.heldWrites_of_settled committed).trans rfl)
  have info := State.releaseHeld_info (((s.paused k p).commitNow k 0).mirrorTransfer k) k k
  refine ⟨((s.pauseCommitted k p).job k).journalBytes, ?_, fun h => ?_⟩
  · unfold State.pauseCommitted Job.stop
    rw [info]
    simp only [Job.stop, Prod.mk.injEq] at stop ⊢
    obtain ⟨h1, h2, h3, h4, h5, -⟩ := stop
    exact ⟨h1, h2, h3, h4, h5, trivial⟩
  · unfold State.pauseCommitted
    rw [State.releaseHeld_none (held.trans h)]
    exact congrArg (fun x => x.2.2.2.2.2) stop

/-- The scheduler once the device is free of the job. -/
def State.freed (s : State) (k : Nat) : State :=
  { s with sched := { s.sched with running := none, previous := some k, pausing := none, seekCommit := none, intakeOpen := true }
           codecs := s.codecs.map Engine.idle }

/-- What a slot shows of its pause, and the scheduler of the device. -/
def State.stopOf (s : State) (k : Nat) : (JobState × Bool × Bool × Nat × Nat × Nat) × (Option Nat × Option Nat × Option Pausing × Bool) :=
  ((s.job k).stop, s.sched.stop)

theorem State.stopOf_of_settled {s t : State} (h : t.settled = s.settled) (k : Nat) : t.stopOf k = s.stopOf k := by
  unfold State.stopOf
  rw [Job.stop_of_settled (State.job_of_settled h k), State.sched_of_settled h]

theorem State.freed_stopOf (s : State) (k : Nat) : (s.freed k).stopOf k = ((s.job k).stop, none, some k, none, true) := rfl

theorem State.jobCount_stop (s : State) (k off n : Nat) : ((s.jobCount k off n).job k).stop = (s.job k).stop :=
  State.setJob_keeps Job.stop s k k
    (j := { s.job k with run := { (s.job k).run with ctrJob := bump (s.job k).run.ctrJob off n } }) rfl

theorem State.jobCount_stopOf (s : State) (k off n : Nat) : (s.jobCount k off n).stopOf k = s.stopOf k :=
  congrArg (·, s.sched.stop) (s.jobCount_stop k off n)

theorem State.requeue_stopOf (s : State) (k : Nat) : (s.requeue k).stopOf k = s.stopOf k :=
  congrArg (·, s.sched.stop) (State.setJob_keeps Job.stop s k k
    (j := { s.job k with info := { (s.job k).info with queued := true, qTime := s.sched.cmdSeq } }) rfl)

/-- What completes once the device is free is no matter of the pause itself. -/
theorem State.pauseDone_stopOf (s : State) (k : Nat) (p : Pausing) : (s.pauseDone k p).stopOf k =
    (((s.pauseCommitted k p).job k).stop, none, some k, none, true) := by
  unfold State.pauseDone
  extract_lets j cause _ _ _ _ _ _ _ committed counted _ free done yielded noted reported told
  have freeStop : free.stopOf k = (((s.pauseCommitted k p).job k).stop, none, some k, none, true) :=
    (State.freed_stopOf counted k).trans (congrArg (·, none, some k, none, true) (committed.jobCount_stop k _ 1))
  have doneStop : done.stopOf k = free.stopOf k := State.stopOf_of_settled (State.completeAll_settled _ _ _ _ _) k
  have notedStop : noted.stopOf k = done.stopOf k := by
    unfold noted
    split
    · exact State.jobCount_stopOf _ _ _ _
    · rfl
  have reportedSame : reported.settled = noted.settled := by
    unfold reported
    split
    · exact State.settled_of_offPorts (State.deliverEvent_offPorts _ _ _ _)
    · rfl
  have toldSame : told.settled = reported.settled := by
    unfold told
    split
    · exact State.settled_of_offPorts ((State.statusChange_offPorts _ _).trans (State.statusChange_offPorts _ _))
    · rfl
  have kept : told.stopOf k = (((s.pauseCommitted k p).job k).stop, none, some k, none, true) := by
    rw [State.stopOf_of_settled (toldSame.trans reportedSame), notedStop, doneStop, freeStop]
  split
  · exact (State.requeue_stopOf _ _).trans kept
  · exact kept

/-! ## The time slice (R341) -/

section
variable {s : State} {k : Nat} (hr : s.sched.running = some k) (hj : (s.job k).info.state = .running)
include hr hj

theorem State.timeSliceExpired_eq (hs : (s.job k).info.slice ≠ 0) : execTimeSliceExpired s =
    .next ({ s with sched := { s.sched with sliceOver := true } } : State).checkYield := by
  unfold execTimeSliceExpired
  rw [State.runningJob_of hr hj]
  exact congrArg _ (if_neg hs)

/-- An elapsed slice makes the job yield to one of equal or higher priority. -/
theorem State.timeSliceExpired_yields {q : Nat} (hs : (s.job k).info.slice ≠ 0) (hq : q < s.jobs.length) (hne : q ≠ k)
    (hm : s.mayRun q = true) (hp : (s.job k).info.prio ≤ (s.job q).info.prio) : ∃ t, execTimeSliceExpired s = .next t ∧
      (t.job k).info.state = .pausing ∧ t.sched.intakeOpen = false ∧ t.sched.pausing =
        some { forced := false, cause := 3, yields := true, bounded := false, cmds := [], status := 0, tag := 0 } := by
  have elapsed : ({ s with sched := { s.sched with sliceOver := true } } : State).runningJob = some k := State.runningJob_of hr hj
  refine ⟨_, State.timeSliceExpired_eq hr hj hs, ?_⟩
  rw [State.checkYield_yields elapsed hq hne hm rfl hp, State.beginPause_sched]
  obtain ⟨i, hi, job⟩ := State.beginPause_job (s := { s with sched := { s.sched with sliceOver := true } })
    (State.slot_of_running hj)
    { forced := false, cause := 3, yields := true, bounded := false, cmds := [], status := 0, tag := 0 }
  rw [job]
  exact ⟨hi, rfl, rfl⟩

end

/-! ## The write-back (R291, R351, R471) -/

/-- No slot's write-back is pending. -/
def Job.writtenBack (j : Job) : Job := { j with info := { j.info with wbPending := false } }

theorem Job.writtenBack_run (j : Job) : j.writtenBack.run = j.run := rfl

/-- The state once a stopped job's dirty SRAM is written back. -/
def State.writtenBack (s : State) : State :=
  { s with jobs := s.jobs.map Job.writtenBack, tiers := { salt := s.tiers.salt }, sched := { s.sched with previous := none } }

theorem State.writtenBack_job (s : State) (q : Nat) : s.writtenBack.job q = (s.job q).writtenBack := by
  simp only [State.job, State.writtenBack, List.getD_eq_getElem?_getD, List.getElem?_map]
  cases s.jobs[q]? <;> rfl

theorem State.writebackDone_eq {s : State} {k : Nat}
    (h : (List.range s.jobs.length).find? (fun q => (s.job q).info.wbPending) = some k) :
    execWritebackDone s = .next (s.drainTiers k).writtenBack := by
  unfold execWritebackDone
  rw [h]
  rfl

theorem State.drainTiers_job_ne (s : State) {k q : Nat} (h : q ≠ k) : (s.drainTiers k).job q = s.job q :=
  State.onTiers_job_ne s _ h

/-- The write-back leaves of the tiers the salt, and changes no job's memory or streams. -/
theorem State.writebackDone_leaves {s : State} (k : Nat) : (s.drainTiers k).writtenBack.tiers = { salt := s.tiers.salt } ∧
    ∀ q, ((s.drainTiers k).writtenBack.job q).info.wbPending = false ∧
      ((s.drainTiers k).writtenBack.job q).run.mem = (s.job q).run.mem ∧
      ((s.drainTiers k).writtenBack.job q).run.streams = (s.job q).run.streams ∧
      (q ≠ k → ((s.drainTiers k).writtenBack.job q).run = (s.job q).run) := by
  refine ⟨congrArg (fun salt : W64 => ({ salt } : Tiers)) (State.drainTiers_salt s k), fun q => ?_⟩
  have data := Job.data_of_quiet (State.job_of_offTiers (State.drainTiers_offTiers s k) q)
  rw [State.writtenBack_job, Job.writtenBack_run]
  refine ⟨rfl, JobRun.mem_of_data data, JobRun.streams_of_data data, fun hq => ?_⟩
  rw [State.drainTiers_job_ne s hq]

/-- Settles O33: what an elapsed slice starts, what each bound forces, what the pause point leaves, and the write-back. -/
theorem yieldsAndPauses : Obligations.YieldsAndPauses := by
  unfold Obligations.YieldsAndPauses
  intro s k
  refine ⟨fun q hr hj hs hq hne hm hp => State.timeSliceExpired_yields hr hj hs hq hne hm hp, fun hr hj hs hall => ?_,
    fun q hr hj ho hq hne hm hp => State.checkYield_yields (State.runningJob_of hr hj) hq hne hm ho hp, fun p hr hp hy hf => ?_,
    fun p hp hb => ?_, fun p hr hp hk hat hs hrep hrepl hend => ?_,
    fun h => ⟨State.writebackDone_eq h, _, State.writebackDone_eq h, (State.writebackDone_leaves k).1, rfl,
      (State.writebackDone_leaves k).2⟩, fun h => ?_⟩
  · refine (State.timeSliceExpired_eq hr hj hs).trans (congrArg _ (State.checkYield_stays ?_ fun q hq hne hm => .inl (hall q hq hne hm)))
    exact State.runningJob_of hr hj
  · change execYieldBoundExpired s = _
    unfold execYieldBoundExpired
    rw [hr, hp]
    exact congrArg _ (if_pos (by simp [hy, hf]))
  · change execPauseBoundExpired s = _
    unfold execPauseBoundExpired
    rw [hp]
    exact congrArg _ (if_pos hb)
  · obtain ⟨bytes, stop, empty⟩ := State.pauseCommitted_job hk p
    have left := State.pauseDone_stopOf s k p
    rw [stop] at left
    simp only [State.stopOf, Job.stop, Sched.stop, Prod.mk.injEq] at left
    obtain ⟨⟨state, pending, save, cause, seq, journal⟩, running, previous, pausing, intake⟩ := left
    have mayEnd : s.sched.ending.any (fun e => e.1 == k) = false :=
      List.any_eq_false.mpr fun e he h => hend e he (beq_iff_eq.mp h)
    refine ⟨s.pauseDone k p, ?_, state, pending, save, ?_, seq, fun h => journal.trans (empty h), running, previous, pausing, intake⟩
    · change execPausePointReached s = _
      unfold execPausePointReached
      rw [hr, hp]
      exact congrArg _ (if_pos (by simp [hat, hs, hrep, hrepl, mayEnd]))
    · rw [cause]
      simp [Pausing.finalCause]
  · change execWritebackDone s = _
    unfold execWritebackDone
    rw [List.find?_eq_none.mpr fun q hq => by simp [h q (List.mem_range.mp hq)]]

end Sys2Proof.Machine
end

section
/-! O34: commit points (R353, R354, R356, R360). -/

namespace Sys2Proof.Machine

/-! ## Seeking one -/

/-- A job whose cores work is in one of the slots. -/
theorem State.slot_of_working {s : State} {k : Nat} (h : (s.job k).info.state = .running ∨ (s.job k).info.state = .pausing) :
    k < s.jobs.length := by
  by_contra hk
  rw [State.job, List.getD_eq_default _ _ (Nat.le_of_not_lt hk)] at h
  rcases h with h | h <;> cases h

theorem exec_commitIntervalExpired {s : State} {k : Nat} (hw : s.workingJob = some k) (hn : s.sched.seekCommit = none) :
    execCommitIntervalExpired s = .next { s with sched := { s.sched with seekCommit := some false, intakeOpen := false } } :=
  congrArg _ (State.seekCommit_seeks hw hn)

theorem exec_journalThreeQuarters {s : State} {k : Nat} (hw : s.workingJob = some k) (hn : s.sched.seekCommit = none)
    (hj : 3 * journalSize ≤ 4 * (s.job k).journalBytes) :
    execJournalThreeQuarters s = .next { s with sched := { s.sched with seekCommit := some false, intakeOpen := false } } := by
  unfold execJournalThreeQuarters
  rw [hw]
  exact congrArg _ ((if_pos hj).trans (State.seekCommit_seeks hw hn))

theorem exec_commitBedTimeout {s : State} (h : s.sched.seekCommit = some false) :
    execCommitBedTimeout s = .next { s with sched := { s.sched with seekCommit := some true } } := by
  unfold execCommitBedTimeout
  rw [h]

/-! ## Taking it -/

/-- What a slot shows of its commit point, with the host writes that wait and what is withheld. -/
structure CommitView where
  seq     : Nat
  commits : List Cmd
  state   : JobState
  cause   : Nat
  commit  : Option JobRun
  journal : List JournalRec
  held    : List (Nat × List Byte)
  lost    : List Nat

def Job.point (j : Job) : CommitView :=
  { seq := j.info.commitSeq, commits := j.info.commits, state := j.info.state, cause := j.info.cause, commit := j.commit
    journal := j.journal, held := j.heldWrites, lost := j.lost }

theorem Job.point_fields {j : Job} {v : CommitView} (h : j.point = v) : (j.info.commitSeq = v.seq ∧ j.info.commits = v.commits ∧
    j.info.state = v.state ∧ j.info.cause = v.cause) ∧ j.commit = v.commit ∧ j.journal = v.journal ∧ j.heldWrites = v.held ∧
    j.lost = v.lost := by
  subst h
  exact ⟨⟨rfl, rfl, rfl, rfl⟩, rfl, rfl, rfl, rfl⟩

theorem Job.point_of_settled {i j : Job} (h : i.settled = j.settled) : i.point = j.point := (congrArg Job.point h :)

theorem Job.point_of_quiet {i j : Job} (h : i.quiet = j.quiet) : i.point = j.point := (congrArg Job.point h :)

theorem State.jobCount_point (s : State) (k off n q : Nat) : ((s.jobCount k off n).job q).point = (s.job q).point :=
  State.setJob_keeps Job.point s k q
    (j := { s.job k with run := { (s.job k).run with ctrJob := bump (s.job k).run.ctrJob off n } }) rfl

/-- A forced commit point says so. -/
def State.noted (s : State) (k : Nat) (forced : Bool) : State :=
  if forced then (s.setInfo k { (s.job k).info with cause := 6 }).jobCount k 0x18 1 else s

/-- The commit point is taken and intake goes on. -/
def State.reopened (s : State) : State :=
  { s with sched := { s.sched with seekCommit := none, intakeOpen := s.sched.pausing.isNone } }

/-- The state as the commit point counts, before dirty SRAM is written back. -/
def State.pointCounts (s : State) (k : Nat) (forced : Bool) : State :=
  ((s.commitNow k (if forced then (s.job k).liveBytes else 0)).noted k forced).reopened

/-- The state before what waited for the commit point goes on. -/
def State.pointTaken (s : State) (k : Nat) (forced : Bool) : State :=
  ((s.pointCounts k forced).onTiers k (fun _ a => a.cleanAll)).mirrorTransfer k

theorem exec_commitPointReached {s : State} {k : Nat} {forced : Bool} (hw : s.workingJob = some k)
    (hc : s.sched.seekCommit = some forced) (ha : (s.job k).atPoint forced = true) (hs : s.schedServes = true)
    (hrep : s.health.replay = none) (hrepl : s.health.replace = []) :
    execCommitPointReached s = .next ((s.pointTaken k forced).releaseHeld k).migrateClusters := by
  unfold execCommitPointReached
  rw [hw, hc]
  exact congrArg _ (if_pos (by simp [ha, hs, hrep, hrepl]))

theorem State.noted_point {s : State} {k : Nat} (hk : k < s.jobs.length) (forced : Bool) :
    ((s.noted k forced).job k).point =
      { (s.job k).point with cause := if forced then 6 else (s.job k).info.cause } := by
  cases forced
  · rfl
  · exact (State.jobCount_point _ _ _ _ _).trans ((congrArg Job.point (State.setInfo_job s k _ hk)).trans rfl)

/-- What a slot shows of its commit point once it counts. -/
theorem State.pointTaken_point {s : State} {k : Nat} (hk : k < s.jobs.length) (forced : Bool) :
    ((s.pointTaken k forced).job k).point = {
      seq := (s.job k).info.commitSeq + 1, commits := [], state := (s.job k).info.state
      cause := if forced then 6 else (s.job k).info.cause, commit := some (s.withHerd k (s.job k).run), journal := []
      held := (s.job k).heldWrites, lost := (s.job k).lost } := by
  obtain ⟨runNs, runSince, job⟩ := State.commitNow_job hk (if forced then (s.job k).liveBytes else 0)
  have len : k < (s.commitNow k (if forced then (s.job k).liveBytes else 0)).jobs.length := by
    rw [State.slots_of_settled (s.commitNow_settled k _), State.setJob_slots, State.tallyRun_slots]
    exact hk
  have clean := State.job_of_offTiers (State.onTiers_offTiers (s.pointCounts k forced) k (fun _ a => a.cleanAll)
    (fun _ a => a.cleanAll_data)) k
  have counts : ((s.pointTaken k forced).job k).point = ((s.pointCounts k forced).job k).point :=
    (State.mirrorTransfer_keeps Job.point (fun _ _ _ _ => rfl) _ k k).trans (Job.point_of_quiet clean)
  refine counts.trans ((State.noted_point len forced).trans ?_)
  have point := Job.point_of_settled job
  have cause : ((s.commitNow k (if forced then (s.job k).liveBytes else 0)).job k).info.cause = (s.job k).info.cause :=
    congrArg CommitView.cause point
  rw [point, cause]
  rfl

theorem State.pointTaken_slots (s : State) (k : Nat) (forced : Bool) : (s.pointTaken k forced).jobs.length = s.jobs.length := by
  obtain ⟨-, -, -, _, _, _, jobs⟩ := State.mirrorTransfer_kept ((s.pointCounts k forced).onTiers k (fun _ a => a.cleanAll)) k
  have noted (t : State) : (t.noted k forced).jobs.length = t.jobs.length := by
    unfold State.noted
    split
    · exact (State.setJob_slots _ _ _).trans (State.setInfo_slots _ _ _)
    · rfl
  rw [State.pointTaken, jobs, State.setJob_slots, State.slots_of_offTiers (State.onTiers_offTiers _ _ _ fun _ a => a.cleanAll_data)]
  refine (noted _).trans ?_
  rw [State.slots_of_settled (s.commitNow_settled k _), State.setJob_slots, State.tallyRun_slots]

/-- Of the scheduler only the commit point that was sought and intake change. -/
theorem State.pointTaken_sched (s : State) (k : Nat) (forced : Bool) : (s.pointTaken k forced).sched =
    { s.sched with seekCommit := none, intakeOpen := s.sched.pausing.isNone } := by
  have noted (t : State) : (t.noted k forced).sched = t.sched := by
    unfold State.noted
    split <;> rfl
  rw [State.pointTaken, (State.mirrorTransfer_kept _ k).1,
    State.sched_of_offTiers (State.onTiers_offTiers _ _ _ fun _ a => a.cleanAll_data)]
  have reopen (t : State) : t.reopened.sched = { t.sched with seekCommit := none, intakeOpen := t.sched.pausing.isNone } := rfl
  rw [State.pointCounts, reopen, noted, State.commitNow_sched]

/-- All that the tiers hold is clean. -/
theorem State.pointTaken_clean (s : State) (k : Nat) (forced : Bool) (cl : Nat) : ((s.pointTaken k forced).tiers.tier cl).clean := by
  rw [State.pointTaken, (State.mirrorTransfer_kept _ k).2.1, Tiers.tier, (State.onTiers_held _ _ _).2]
  exact Acc.cleanAll_clean _ cl

/-- Clusters that wait to be migrated are not changed by a commit point itself. -/
theorem State.pointTaken_migrate (s : State) (k : Nat) (forced : Bool) :
    (s.pointTaken k forced).health.migrate = s.health.migrate := by
  have noted (t : State) : (t.noted k forced).health = t.health := by
    unfold State.noted
    split <;> rfl
  have clean := State.onTiers_offTiers (s.pointCounts k forced) k (fun _ a => a.cleanAll) (fun _ a => a.cleanAll_data)
  have reopen (t : State) : t.reopened.health = t.health := rfl
  rw [State.pointTaken, (State.mirrorTransfer_kept _ k).2.2.1]
  rw [Health.migrate_of_quiet (State.health_of_offTiers clean), State.pointCounts, reopen, noted,
    State.health_of_settled (s.commitNow_settled k _)]
  exact congrArg Health.migrate (s.tallyRun_health k)

/-- Where no cluster waits to be migrated, none moves. -/
theorem State.migrateClusters_none {s : State} (h : s.health.migrate = []) : s.migrateClusters = s := by
  have same : ({ s.health with migrate := [] } : Health) = s.health := by rw [← h]
  unfold State.migrateClusters
  rw [h]
  exact congrArg (fun health : Health => { s with health }) same

theorem State.releaseHeld_migrate (s : State) (k : Nat) : (s.releaseHeld k).health.migrate = s.health.migrate := by
  refine foldl_keeps (fun s : State => s.health.migrate) (State.releaseOne k) (fun s w => ?_) _ _
  unfold State.releaseOne
  dsimp only
  split_ifs
  · rfl
  · exact (Health.migrate_of_quiet (State.health_of_offTiers (State.hubWrite_offTiers (s.setJob k ((s.job k).hostWrite w.1 w.2)) _ _ _ _))).trans rfl
  · rfl

/-- Settles O34: what makes a commit point be sought, what forces it, and what the slot, the scheduler and the tiers show of it once it
is taken. -/
theorem commitPoint : Obligations.CommitPoint := by
  unfold Obligations.CommitPoint
  intro s k hr hst
  have hw := State.workingJob_of hr hst
  have hk : k < s.jobs.length := State.slot_of_working hst
  refine ⟨fun hn i hi => ?_, exec_commitBedTimeout, fun forced hc ha hs hrep hrepl hmig => ?_⟩
  · rcases hi with rfl | ⟨rfl, hj⟩
    · exact exec_commitIntervalExpired hw hn
    · exact exec_journalThreeQuarters hw hn hj
  · obtain ⟨⟨seq, commits, state, cause⟩, commit, journal, held, lost⟩ := Job.point_fields (State.pointTaken_point hk forced)
    have info := State.releaseHeld_info (s.pointTaken k forced) k k
    refine ⟨(s.pointTaken k forced).releaseHeld k, ?_, ?_⟩
    · refine (exec_commitPointReached hw hc ha hs hrep hrepl).trans (congrArg _ (State.migrateClusters_none ?_))
      rw [State.releaseHeld_migrate, State.pointTaken_migrate, hmig]
    · rw [info, State.releaseHeld_commit, State.releaseHeld_sched, State.pointTaken_sched]
      refine ⟨commit, seq, commits, rfl, rfl, state, fun hf => cause.trans (if_pos hf), fun hl => ?_, fun hh => ?_⟩
      · exact State.releaseHeld_heldWrites (by rwa [State.pointTaken_slots]) (lost.trans hl)
      · rw [State.releaseHeld_none (held.trans hh)]
        exact ⟨journal, State.pointTaken_clean s k forced⟩

end Sys2Proof.Machine
end

section
/-! O32: the run queue and what a restore that is done leaves (R230, R331, R340, R348, R352, R360, R401). -/

namespace Sys2Proof.Machine

/-! ## Which job runs next (R340) -/

/-- The job that runs next may run, and is the only one that may or stands before every other that may. -/
theorem State.nextJob_first {s : State} {k : Nat} (h : s.nextJob = some k) : s.mayRun k = true ∧ s.fits k = true ∧
    ∀ q < s.jobs.length, s.mayRun q = true → s.fits q = true → q = k ∨ s.before k q = true := by
  unfold State.nextJob at h
  dsimp only at h
  have able := (List.mem_filter.mp (List.mem_of_find?_eq_some h)).2
  rw [Bool.and_eq_true] at able
  have ahead := List.find?_some h
  refine ⟨able.1, able.2, fun q hq hm hf => ?_⟩
  have first := List.all_eq_true.mp ahead q (List.mem_filter.mpr ⟨List.mem_range.mpr hq, by rw [hm, hf]; rfl⟩)
  rw [Bool.or_eq_true, beq_iff_eq] at first
  exact first.imp_left Eq.symm

theorem State.before_iff (s : State) (a b : Nat) : s.before a b = true ↔ (s.job b).info.prio < (s.job a).info.prio ∨
    ((s.job b).info.prio = (s.job a).info.prio ∧ (s.job a).info.qTime < (s.job b).info.qTime) := by
  unfold State.before
  simp only [Bool.or_eq_true, Bool.and_eq_true, decide_eq_true_eq, beq_iff_eq]
  exact or_congr_right (and_congr_left fun _ => eq_comm)

theorem State.nextJob_lt {s : State} {k : Nat} (h : s.nextJob = some k) : k < s.jobs.length := by
  unfold State.nextJob at h
  exact List.mem_range.mp (List.mem_filter.mp (List.mem_of_find?_eq_some h)).1

/-- The job that is chosen is RESUMING and holds its place in the pool. -/
theorem State.jobRunSelect_selects {s : State} {k : Nat} (hr : s.sched.running = none) (hs : s.schedServes = true)
    (hn : s.nextJob = some k) : ∃ t, execJobRunSelect s = .next t ∧ t.sched.running = some k ∧
      t.job k = { s.job k with info := { (s.job k).info with state := .resuming, queued := false, holdsSave := true } } := by
  have hk : k < s.jobs.length := State.nextJob_lt hn
  unfold execJobRunSelect
  rw [hr, hn]
  dsimp only
  rw [hs]
  refine ⟨_, rfl, rfl, (State.withSched_job _ _ k).trans ?_⟩
  have chosen := State.setInfo_job s k { (s.job k).info with state := .resuming, queued := false, holdsSave := true } hk
  split
  next hc => exact (State.job_of_offPorts ((State.statusChange_offPorts _ _).trans (State.statusChange_offPorts _ _)) k).trans chosen
  next => exact chosen

/-! ## The end of a restore (R352) -/

/-- A copy that has taken in no whole transfer runs from what it has. -/
theorem Job.fromMirror_none {j : Job} (h : j.info.mirror = false ∨ j.mirrorItems = []) : j.fromMirror = j :=
  if_neg (by rcases h with h | h <;> simp [h])

theorem Job.fromMirror_mem (j : Job) : j.fromMirror.run.mem = j.run.mem := by
  unfold Job.fromMirror
  split <;> rfl

@[simp] theorem State.retryWaiting_offWire (s : State) (ps : List Packet) : (s.retryWaiting ps).offWire = s.offWire := by
  induction ps generalizing s with
  | nil => rfl
  | cons p ps ih => exact (ih _).trans (State.trySend_offWire s p)

/-- What a slot shows of its restore: its registers, its fault record, its staging copy, its streams and its memory. -/
structure RestoreView where
  info    : JobInfo
  fault   : Option FaultRec
  stage   : NMap W32
  streams : NMap Stream
  mem     : NMap Byte

def Job.shows (j : Job) : RestoreView :=
  { info := j.settled.info, fault := j.fault, stage := j.stage, streams := j.run.streams, mem := j.run.mem }

theorem Job.shows_fields {j : Job} {v : RestoreView} (h : j.shows = v) :
    (j.info.state = v.info.state ∧ j.info.prio = v.info.prio ∧ j.info.starts = v.info.starts) ∧ j.fault = v.fault ∧
      j.stage = v.stage ∧ j.run.streams = v.streams ∧ j.run.mem = v.mem := by
  subst h
  exact ⟨⟨rfl, rfl, rfl⟩, rfl, rfl, rfl, rfl⟩

theorem Job.shows_of_settled {i j : Job} (h : i.settled = j.settled) : i.shows = j.shows := (congrArg Job.shows h :)

theorem Job.shows_of_quiet {i j : Job} (h : i.quiet = j.quiet) : i.shows = j.shows := (congrArg Job.shows h :)

theorem State.releaseCaptured_shows (s : State) (k q : Nat) : ((s.releaseCaptured k).job q).shows = (s.job q).shows := by
  have sent (t : State) (ps : List Packet) : (t.retryWaiting ps).jobs = t.jobs :=
    (congrArg State.jobs (State.retryWaiting_offWire t ps) :)
  unfold State.releaseCaptured
  dsimp only
  rw [State.job, sent]
  exact State.setJob_keeps Job.shows s k q
    (j := { s.job k with run := { (s.job k).run with captured := [], passes := [], msgs := [], seqs := [] } }) rfl

theorem State.releaseCaptured_sched (s : State) (k : Nat) : (s.releaseCaptured k).sched = s.sched := by
  have sent (t : State) (ps : List Packet) : (t.retryWaiting ps).sched = t.sched :=
    (congrArg State.sched (State.retryWaiting_offWire t ps) :)
  unfold State.releaseCaptured
  dsimp only
  rw [sent]
  rfl

/-- The job as its restore leaves it, with the choices of its routes that are due made. -/
def Job.readied (j : Job) (h : Health) : Job := j.fromMirror.restored.settleRoutes h

theorem Job.readied_info (j : Job) (h : Health) : (j.readied h).info = j.info := by
  change j.fromMirror.info = _
  unfold Job.fromMirror
  split <;> rfl

/-- The slot of a job that begins to run at a time of its island. -/
def Job.rerun (j : Job) (h : Health) (since : Nat) : Job :=
  { j.readied h with
    info := { j.info with state := .running, runSince := since, starts := [], waiting := [] }
    commit := some { (j.readied h).commit.getD (j.readied h).run with mem := (j.readied h).run.mem } }

theorem Job.rerun_shows (j : Job) (h : Health) (since : Nat) : (j.rerun h since).shows = {
    info := { j.settled.info with state := .running, runSince := since, starts := [], waiting := [] }
    fault := none, stage := j.fromMirror.run.pgt, streams := j.fromMirror.run.streams, mem := j.run.mem } := by
  rw [← Job.fromMirror_mem j]
  rfl

/-- The state as the job is RUNNING again, its start commands complete. -/
def State.restored (s : State) (k : Nat) : State :=
  let looked := s.look (portIsland (s.job k).info.owner)
  (((looked.2.setJob k ((s.job k).rerun s.health looked.1)).loadPinned k).releaseCaptured k).completeAll k
    ((s.job k).readied s.health).info.starts 0 0

/-- Intake opens and a second's tallies begin, or a commit point is sought for the COMMITs that waited. -/
def State.begun (s : State) (k : Nat) (j : Job) : State :=
  let s := if j.info.confidential then s.coarseOn else s
  let s := ({ s with sched := { s.sched with intakeOpen := true, sliceOver := false } } : State).markSecond k
  if j.info.commits.isEmpty then s else s.seekCommit

/-- Where the last write-back has finished and nothing of the module is being replaced, the job runs; with no JOB_PAUSE waiting it
only may yield. -/
theorem State.resumeDone_eq {s : State} {k : Nat} (hr : s.sched.running = some k) (hst : (s.job k).info.state = .resuming)
    (hwb : ∀ x ∈ s.jobs, x.info.wbPending = false) (hs : s.schedServes = true) (hrep : s.health.replace = [])
    (hex : s.health.exhausted = false) (hw : (s.job k).info.waiting = []) :
    execResumeDone s = .next ((s.restored k).begun k (s.job k)).checkYield := by
  have written : s.jobs.all (fun x => !x.info.wbPending) = true := List.all_eq_true.mpr fun x hx => by simp [hwb x hx]
  unfold execResumeDone
  rw [hr]
  dsimp only
  rw [if_pos (by simp [hst, written, hs, hrep, hex])]
  have quiet : ((s.job k).readied s.health).info.waiting = [] := by rw [Job.readied_info, hw]
  refine congrArg _ (congrArg State.checkYield ?_)
  exact congrArg (State.waitingPauses ((s.restored k).begun k (s.job k)) k) quiet

/-- What every slot shows once the job runs: its own as its restore leaves it, the others as they were. -/
theorem State.restored_shows {s : State} {k : Nat} (hk : k < s.jobs.length) (q : Nat) : ((s.restored k).job q).shows =
    if q = k then ((s.job k).rerun s.health (s.look (portIsland (s.job k).info.owner)).1).shows else (s.job q).shows := by
  unfold State.restored
  dsimp only
  rw [Job.shows_of_settled (State.job_of_settled (State.completeAll_settled _ _ _ _ _) q), State.releaseCaptured_shows,
    Job.shows_of_quiet (State.job_of_offTiers (State.loadPinned_offTiers _ _) q)]
  split
  next hq =>
    rw [hq, State.setJob_job _ _ _ (show k < (s.look _).2.jobs.length from hk)]
  next hq =>
    rw [State.setJob_job_ne _ _ _ _ hq]
    rfl

theorem State.restored_sched (s : State) (k : Nat) : (s.restored k).sched = s.sched := by
  unfold State.restored
  dsimp only
  rw [State.sched_of_settled (State.completeAll_settled _ _ _ _ _), State.releaseCaptured_sched,
    State.sched_of_offTiers (State.loadPinned_offTiers _ _)]
  rfl

theorem State.begun_jobs (s : State) (k : Nat) (j : Job) : (s.begun k j).jobs = s.jobs := by
  have coarse : (if j.info.confidential then s.coarseOn else s).jobs = s.jobs := by split <;> rfl
  unfold State.begun
  dsimp only
  split
  · exact coarse
  · exact (State.seekCommit_jobs _).trans coarse

theorem State.coarse_sched (s : State) (c : Bool) : (if c then s.coarseOn else s).sched = s.sched := by
  split <;> rfl

/-- With no COMMIT waiting, intake opens. -/
theorem State.begun_open {s : State} {j : Job} (k : Nat) (h : j.info.commits = []) : (s.begun k j).sched.intakeOpen = true := by
  unfold State.begun
  dsimp only
  rw [if_pos (by simp [h])]
  rfl

/-- A COMMIT that waits makes a commit point be sought once the job runs. -/
theorem State.begun_seeks {s : State} {k : Nat} {j : Job} (h : j.info.commits ≠ []) (hr : s.sched.running = some k)
    (hst : (s.job k).info.state = .running) (hn : s.sched.seekCommit = none) :
    (s.begun k j).sched.seekCommit = some false ∧ (s.begun k j).sched.intakeOpen = false := by
  unfold State.begun
  extract_lets coarse _ opened
  have sched : coarse.sched = s.sched := State.coarse_sched s _
  have job : coarse.job k = s.job k := by
    unfold coarse
    split <;> rfl
  have works : opened.workingJob = some k :=
    State.workingJob_of ((congrArg Sched.running sched).trans hr) (.inl ((congrArg (·.info.state) job).trans hst))
  have none' : opened.sched.seekCommit = none := (congrArg Sched.seekCommit sched).trans hn
  rw [if_neg (by simp [h]), State.seekCommit_seeks works none']
  exact ⟨rfl, rfl⟩

/-- A slice has not elapsed as the job begins to run. -/
theorem State.begun_slice (s : State) (k : Nat) (j : Job) : (s.begun k j).sched.sliceOver = false ∧
    (s.begun k j).sched.running = s.sched.running := by
  have sought (t : State) : t.seekCommit.sched.sliceOver = t.sched.sliceOver ∧ t.seekCommit.sched.running = t.sched.running := by
    unfold State.seekCommit
    split <;> exact ⟨rfl, rfl⟩
  unfold State.begun
  extract_lets coarse _ opened
  have sched : coarse.sched = s.sched := State.coarse_sched s _
  have running : opened.sched.running = s.sched.running :=
    (show opened.sched.running = coarse.sched.running from rfl).trans (congrArg Sched.running sched)
  split
  · exact ⟨rfl, running⟩
  · exact ⟨(sought _).1, (sought _).2.trans running⟩

theorem State.mayRun_lt {s : State} {q : Nat} (h : s.mayRun q = true) : q < s.jobs.length := by
  by_contra hq
  rw [State.mayRun, State.job, List.getD_eq_default _ _ (Nat.le_of_not_lt hq)] at h
  exact Bool.noConfusion h

theorem State.mayRun_of_shows {s t : State} {q : Nat} (h : (t.job q).shows = (s.job q).shows) : t.mayRun q = s.mayRun q :=
  (congrArg (fun v : RestoreView => v.info.queued && (v.info.state == .armed || v.info.state == .paused)) h :)

/-- Settles O32: the first of the queued jobs by the order of the queue, and the restored job by what its slot shows. -/
theorem runQueueAndRestore : Obligations.RunQueueAndRestore := by
  unfold Obligations.RunQueueAndRestore
  intro s k
  refine ⟨fun hr hs hn => ?_, fun hr hst hwb hs hrep hex hw hprio => ?_, Job.fromMirror_none⟩
  · obtain ⟨may, fits, first⟩ := State.nextJob_first hn
    refine ⟨⟨may, fits, fun q hq hm hf => ?_⟩, State.jobRunSelect_selects hr hs hn⟩
    exact (first q hq hm hf).imp_right (s.before_iff k q).mp
  · have hk : k < s.jobs.length := by
      by_contra hk
      rw [State.job, List.getD_eq_default _ _ (Nat.le_of_not_lt hk)] at hst
      cases hst
    have shows (q : Nat) : (((s.restored k).begun k (s.job k)).job q).shows = _ :=
      (congrArg (fun js : List Job => (js.getD q {}).shows) (State.begun_jobs _ _ _)).trans (State.restored_shows hk q)
    obtain ⟨⟨state, prio, starts⟩, fault, stage, streams, mem⟩ :=
      Job.shows_fields ((shows k).trans ((if_pos rfl).trans (Job.rerun_shows _ _ _)))
    have restored := Job.shows_fields ((State.restored_shows hk k).trans ((if_pos rfl).trans (Job.rerun_shows _ _ _)))
    have ran : (s.restored k).sched = s.sched := s.restored_sched k
    obtain ⟨slice, running⟩ := State.begun_slice (s.restored k) k (s.job k)
    have runs := State.runningJob_of (running.trans ((congrArg Sched.running ran).trans hr)) state
    have stays : ((s.restored k).begun k (s.job k)).checkYield = (s.restored k).begun k (s.job k) := by
      refine State.checkYield_stays runs fun q _ hne hm => ?_
      have other := (shows q).trans (if_neg hne)
      rw [State.mayRun_of_shows other] at hm
      rw [prio, (Job.shows_fields other).1.2.1]
      exact (hprio q (State.mayRun_lt hm) hm).lt_or_eq.imp_right fun e => ⟨e, slice⟩
    refine ⟨_, State.resumeDone_eq hr hst hwb hs hrep hex hw, ?_⟩
    rw [stays]
    exact ⟨state, fault, stage, starts, State.begun_open k, fun hc hn => State.begun_seeks hc
      ((congrArg Sched.running ran).trans hr) restored.1.1 ((congrArg Sched.seekCommit ran).trans hn), streams, mem⟩

end Sys2Proof.Machine
end

section
/-! O31: JOB_LOAD and the end of a firing (R67, R69, R103, R199, R338, R422, R453). -/

namespace Sys2Proof.Machine

/-! ## JOB_LOAD -/

/-- A JOB_LOAD makes the lowest free slot LOADING. -/
theorem State.loadJob_loads {s : State} {c : Cmd} {k : Nat} (hs : s.schedServes = true) (hv : s.versionOk c.port = true)
    (hf : s.jobs.findIdx (fun j => !j.info.state.loaded) = k) (hk : k < s.jobs.length) :
    ∃ (id : Nat) (t : State), k < t.jobs.length ∧ s.loadJob c = t.setJob k { info := {
      state := .loading, id, mirror := c.desc.flags.testBit 0, owner := c.port, homeSet := c.set, loadCmd := some c
      outstanding := [c] } } := by
  have slots : (s.takeCmd c).jobs.findIdx (fun j => !j.info.state.loaded) = k := hf
  have named (t : State) (req : Nat) : (t.loadId k req).2.jobs = t.jobs := by
    unfold State.loadId
    split
    · rfl
    · split <;> rfl
  have room : k < ((s.takeCmd c).loadId k c.desc.job).2.jobs.length := by rw [named]; exact hk
  refine ⟨((s.takeCmd c).loadId k c.desc.job).1, ((s.takeCmd c).loadId k c.desc.job).2, room, ?_⟩
  unfold State.loadJob
  rw [if_neg (by simp [hs]), if_neg (by simp [hv])]
  dsimp only
  rw [slots]
  exact if_pos room

/-! ## A refused firing (R69) -/

@[simp] theorem State.beginRebuild_jobs (s : State) (stack : Nat) : (s.beginRebuild stack).jobs = s.jobs := by
  unfold State.beginRebuild
  dsimp only
  split
  · rfl
  · exact State.jobs_of_unreported (s := { s.fresh.2 with health := _ }) (State.rebuildEvent_unreported _ _ _)

@[simp] theorem State.resumeRebuild_jobs (s : State) : s.resumeRebuild.jobs = s.jobs :=
  foldl_keeps State.jobs (fun (s : State) k => s.beginRebuild k) (fun s k => s.beginRebuild_jobs k) _ _

theorem State.refuseLoad_offPorts (s : State) (i : JobInfo) (c : Cmd) (r : Refused) : (s.refuseLoad i c r).offPorts = s.offPorts := by
  unfold State.refuseLoad
  dsimp only
  split
  · rw [State.hostCount_offPorts, State.completeUnder_offPorts]
  · exact State.completeUnder_offPorts _ _ _ _ _ _ _

theorem State.settleOrphan_offPorts (s : State) (i : JobInfo) (c : Cmd) : (s.settleOrphan i c).offPorts = s.offPorts := by
  unfold State.settleOrphan
  split
  · exact State.completeUnder_offPorts _ _ _ _ _ _ _
  · split
    · exact State.completeUnder_offPorts _ _ _ _ _ _ _
    · rw [State.hostCount_offPorts, State.completeUnder_offPorts]

/-- A refused load leaves an EMPTY slot. -/
theorem State.loadRefused_job {s : State} {k : Nat} (hk : k < s.jobs.length) (c : Cmd) (r : Refused) :
    (s.loadRefused k c r).job k = {} := by
  have settled (i : JobInfo) (ds : List Cmd) (t : State) : (ds.foldl (fun s d => s.settleOrphan i d) t).offPorts = t.offPorts :=
    foldl_keeps State.offPorts _ (fun s d => State.settleOrphan_offPorts s i d) _ _
  unfold State.loadRefused
  dsimp only
  rw [State.job, State.resumeRebuild_jobs, State.jobs_of_offPorts (settled _ _ _),
    State.jobs_of_offPorts (State.refuseLoad_offPorts _ _ _ _)]
  exact State.setJob_job s k {} hk

/-! ## A firing that passes (R67, R103, R199, R453) -/

/-- Accesses that keep the cores of their run. -/
theorem State.onTiers_keepsCores (s : State) (k q : Nat) (f : Image → Acc → Acc) (h : ∀ i a, (f i a).run.cores = a.run.cores) :
    ((s.onTiers k f).job q).run.cores = (s.job q).run.cores := by
  have acted : ((f (s.job k).image (s.accFor k)).grant (s.job k).image.regs).run.cores = (s.job k).run.cores :=
    (Acc.grant_cores _ _).trans (h _ _)
  unfold State.onTiers
  dsimp only
  generalize (f (s.job k).image (s.accFor k)).grant (s.job k).image.regs = a at acted ⊢
  exact (foldl_keeps (fun s : State => (s.job q).run.cores) State.placeUnit
    (fun s e => congrArg (fun js : List Job => (js.getD q {}).run.cores) (s.placeUnit_jobs e)) _ _).trans
    (State.setJob_keeps (fun j => j.run.cores) s k q (j := { s.job k with run := a.run }) acted)

theorem State.firmwareWrite_cores (s : State) (d len q : Nat) : ((s.firmwareWrite d len).job q).run.cores = (s.job q).run.cores := by
  unfold State.firmwareWrite
  split
  · split
    · rfl
    · exact State.onTiers_keepsCores s _ q _ fun _ a => Acc.cores_of_held (Acc.dataLines_held a 8 _ d len)
  · rfl

theorem State.firmwareFill_cores (s : State) (j : Job) (at' len q : Nat) :
    ((s.firmwareFill j at' len).job q).run.cores = (s.job q).run.cores :=
  foldl_keeps (fun s : State => (s.job q).run.cores) _ (fun s _ => State.firmwareWrite_cores s _ _ q) _ s

/-- The traffic of a firing changes no slot but for what accesses to the tiers change, and no core. -/
theorem State.firingTraffic_kept (s : State) (k : Nat) (c : Cmd) (j : Job) (es : List ManifestE) (q : Nat) :
    (s.firingTraffic k c j es).offTiers = s.offTiers ∧ ((s.firingTraffic k c j es).job q).run.cores = (s.job q).run.cores := by
  unfold State.firingTraffic
  dsimp only
  constructor
  · rw [foldl_keeps State.offTiers _ (fun s e => State.firmwareFill_offTiers s j _ _), State.firmwareWrite_offTiers,
      State.firmwareWrite_offTiers]
  · rw [foldl_keeps (fun s : State => (s.job q).run.cores) _ (fun s e => State.firmwareFill_cores s j _ _ q),
      State.firmwareWrite_cores, State.firmwareWrite_cores]

/-- Every core of a map of fresh cores is fresh. -/
theorem getD_map_const {α β : Type} (m : NMap α) (n : Nat) (x : β) : NMap.getD (m.map (fun e => (e.1, x))) n x = x := by
  induction m with
  | nil => rfl
  | cons e rest ih =>
    by_cases h : e.1 = n
    · exact congrArg (Option.getD · x) (if_pos h)
    · exact (congrArg (Option.getD · x) (if_neg h)).trans ih

theorem State.coarseOff_jobKeys (s : State) : s.coarseOff.sec.jobKeys = s.sec.jobKeys := s.coarseOff_kept.2.2.1.1

theorem State.checkYield_jobKeys (s : State) : s.checkYield.sec.jobKeys = s.sec.jobKeys := by
  have tallied (t : State) (k : Nat) : (t.tallyRun k).sec = t.sec := by
    unfold State.tallyRun
    split <;> rfl
  unfold State.checkYield
  split
  · rfl
  · dsimp only
    split
    · exact (State.coarseOff_jobKeys _).trans (congrArg Sec.jobKeys (tallied _ _))
    · rfl

/-- A choice of routes leaves what the job is and holds. -/
theorem Job.rechoose_kept (h : Health) (j : Job) (cl : Nat) :
    ((j.rechoose h cl).info, (j.rechoose h cl).image, (j.rechoose h cl).run) = (j.info, j.image, j.run) := rfl

theorem State.backJob_kept (s : State) (j : Job) :
    ((s.backJob j).info, (s.backJob j).image, (s.backJob j).run) = (j.info, j.image, j.run) := rfl

/-- A slot that is ARMED keeps its job, and its key, through the completion of its JOB_LOAD. -/
theorem State.firing_completes {t : State} {k : Nat} (c : Cmd) (hs : (t.job k).info.state = .armed) :
    ((t.complete k c 0 0 0 0).checkYield.job k).settled = (t.job k).settled ∧
      (t.complete k c 0 0 0 0).checkYield.sec.jobKeys = t.sec.jobKeys := by
  have settled := State.job_of_settled (t.complete_settled k c 0 0 0 0) k
  have armed : ((t.complete k c 0 0 0 0).job k).info.state = .armed := (Job.state_of_settled settled).trans hs
  exact ⟨(congrArg Job.settled (State.checkYield_job _ (by rw [armed]; decide))).trans settled,
    (State.checkYield_jobKeys _).trans (congrArg (fun u : State => u.sec.jobKeys) (t.complete_settled k c 0 0 0 0) :)⟩

/-- The job that a firing with no command waiting for it leaves. -/
theorem State.fired_arms {s : State} {k : Nat} (c : Cmd) (hk : k < s.jobs.length) (hw : (s.job k).info.waiting = []) :
    ((s.fired k c).job k).info.state = .armed ∧ ((s.fired k c).job k).image = imageOf (s.delivered c) ∧
      (∀ n, ((s.fired k c).job k).run.core n = {}) ∧ (NMap.find (s.fired k c).sec.jobKeys k).isSome = true ∧
      ((s.fired k c).job k).info.confidential = (imageOf (s.delivered c)).confidential := by
  unfold State.fired
  dsimp only
  rw [hw]
  generalize imageOf (s.delivered c) = i
  generalize hc : (List.range 32).foldl (fun (x : Job) cl => x.rechoose s.health cl) _ = chosen
  have kept := (congrArg (fun j : Job => (j.info, j.image, j.run)) hc).symm.trans
    (foldl_keeps (fun j : Job => (j.info, j.image, j.run)) _ (fun j cl => j.rechoose_kept s.health cl) (List.range 32) _)
  obtain ⟨backedInfo, backedImage, backedRun⟩ : (s.backJob chosen).info = _ ∧ (s.backJob chosen).image = _ ∧
      (s.backJob chosen).run = _ := by
    simpa only [Prod.mk.injEq] using (s.backJob_kept chosen).trans kept
  generalize s.backJob chosen = backed at backedInfo backedImage backedRun ⊢
  generalize hb : ({ backed with run := { backed.run with ctrDev := _ } } : Job) = stored
  have info := (congrArg Job.info hb).symm.trans backedInfo
  have image := (congrArg Job.image hb).symm.trans backedImage
  have cores : stored.run.cores = i.cores.map (fun e => (e.1, {})) :=
    (congrArg (fun j : Job => j.run.cores) hb).symm.trans (congrArg JobRun.cores backedRun)
  have traffic := (s.setJob k stored).firingTraffic_kept k c stored (s.manifest c) k
  generalize (s.setJob k stored).firingTraffic k c stored (s.manifest c) = loaded at traffic ⊢
  have placed : (s.setJob k stored).job k = stored := State.setJob_job s k stored hk
  have quiet := State.job_of_offTiers traffic.1 k
  rw [placed] at quiet traffic
  have loadedInfo := (Job.info_of_quiet quiet).trans info
  have loadedImage := (Job.image_of_quiet quiet).trans image
  have fresh (n : Nat) : (loaded.job k).run.core n = {} :=
    (congrArg (fun m : NMap Core => NMap.getD m n ({} : Core)) (traffic.2.trans cores)).trans (getD_map_const _ n ({} : Core))
  generalize hl : ({ loaded with freeCtr := _, sec := _ } : State) = keyed
  have keyedJob : keyed.job k = loaded.job k := (congrArg (fun u : State => u.job k) hl.symm :)
  have keyedKeys : (NMap.find keyed.sec.jobKeys k).isSome = true := by
    rw [← hl]
    exact congrArg Option.isSome (NMap.find_put_same _ _ _)
  obtain ⟨settled, keys⟩ := keyed.firing_completes c (k := k) (by rw [keyedJob, loadedInfo])
  rw [keyedJob] at settled
  refine ⟨?_, ?_, fun n => ?_, ?_, ?_⟩
  · exact (Job.state_of_settled settled).trans (congrArg JobInfo.state loadedInfo)
  · exact (Job.image_of_settled settled).trans loadedImage
  · exact (congrArg (JobRun.core · n) (Job.run_of_settled settled)).trans (fresh n)
  · exact (congrArg (fun m => (NMap.find m k).isSome) keys).trans keyedKeys
  · exact (congrArg (·.info.confidential) settled :).trans (congrArg JobInfo.confidential loadedInfo)

/-- A firing whose JOB_LOAD is the oldest that the scheduler took ends with its verdict. -/
theorem State.endFiring_ends {s : State} {k : Nat} {c : Cmd} (hs : s.schedServes = true) (hl : (s.job k).info.state = .loading)
    (hc : (s.job k).info.loadCmd = some c) (first : ∀ q < s.jobs.length, ∀ m, (s.job q).loadSeq = some m → c.seq ≤ m) :
    s.endFiring k = match s.fireVerdict k c.desc.job c with
      | some r => s.loadRefused k c r
      | none => s.fired k c := by
  have seq : (s.job k).loadSeq = some c.seq := by simp [Job.loadSeq, hl, hc]
  have oldest : (!s.schedServes ||
      s.jobs.any (fun x => match x.loadSeq with | some m => decide (m < c.seq) | none => false)) = false := by
    rw [hs]
    refine List.any_eq_false.mpr fun j hj => ?_
    obtain ⟨q, hq, rfl⟩ := List.getElem_of_mem hj
    have := first q hq
    rw [State.job, List.getD_eq_getElem _ _ hq] at this
    cases hm : (s.jobs[q]).loadSeq with
    | none => simp
    | some m => simpa using this m hm
  unfold State.endFiring
  dsimp only
  rw [seq, hc]
  dsimp only
  exact if_neg (Bool.eq_false_iff.mp oldest)

/-- Settles O31: a JOB_LOAD takes the slot that it finds, and the firing that is first in order ends with its verdict. -/
theorem loadAndFire : Obligations.LoadAndFire := by
  intro s c k hs hk hk64
  refine ⟨fun hop hv hf => ?_, fun hl hc first => ?_⟩
  · obtain ⟨id, t, ht, loads⟩ := State.loadJob_loads hs hv hf hk
    refine ⟨s.loadJob c, checked_of _ _ _ (by simp [hop]), ?_⟩
    rw [loads, State.setJob_job t k _ ht]
    exact ⟨rfl, rfl, rfl, rfl, rfl⟩
  · have ends := State.endFiring_ends hs hl hc first
    have fires : exec (.firingDone k) s = .next (s.endFiring k) := checked_of _ _ _ (by simpa using hk64)
    refine ⟨fun r hr => ⟨_, fires, ?_⟩, fun hw => ⟨_, fires, ?_⟩⟩
    · rw [ends, hr, State.loadRefused_job hk c r]
      exact ⟨rfl, rfl⟩
    · rw [ends]
      cases hv : s.fireVerdict k c.desc.job c with
      | some r => exact congrArg (·.info.state) (State.loadRefused_job hk c r)
      | none => exact s.fired_arms c hk hw

end Sys2Proof.Machine
end

section
/-! O14: the ring pass (R354, R357, R360, R395, R492). -/

namespace Sys2Proof.Machine

/-! ## RPASS -/

section
variable {s : State} {n : Nat} {f : FmtM} {j : Job} {c : Core}

theorem effectRpass_refused {a : Nat} (h : rpassFault j (s.localPeer (peerOf c f.rd)) (c.reg f.ra).toNat (c.reg f.rb).toNat
    (c.reg f.rc).toNat = some a) : effectRpass s n f j c = .stop (.lane 0 a) := by
  unfold effectRpass rpassOf
  dsimp only
  rw [h]

theorem effectRpass_inOrder (h : rpassFault j (s.localPeer (peerOf c f.rd)) (c.reg f.ra).toNat (c.reg f.rb).toNat
    (c.reg f.rc).toNat = none) : effectRpass s n f j c =
      if 16 ≤ (s.engine (s.hubOf n)).length then .wait .rpassFull j else effectNone j c := by
  unfold effectRpass rpassOf
  dsimp only
  rw [h]
  rfl

end

/-! ## What an engine's work leaves of the engines and of semaphores -/

theorem State.setEngine_engine (s : State) {g : Nat} (ts : List Transfer2) (hg : g < s.herd.engines.length) :
    (s.setEngine g ts).engine g = ts := by
  simp [State.engine, State.setEngine, hg]

@[simp] theorem State.raiseSem_engine (s : State) (k sem v g : Nat) : (s.raiseSem k sem v).engine g = s.engine g := rfl

@[simp] theorem State.wakeCores_engine (s : State) (w : CoreWait) (g : Nat) : (s.wakeCores w).engine g = s.engine g := by
  unfold State.wakeCores
  split <;> rfl

@[simp] theorem State.mirrorAcked_engine (s : State) (id g : Nat) : (s.mirrorAcked id).engine g = s.engine g := by
  unfold State.mirrorAcked
  split
  · rfl
  · dsimp only
    split <;> rfl

theorem State.raiseSem_slots (s : State) (k sem v : Nat) : (s.raiseSem k sem v).jobs.length = s.jobs.length :=
  State.setJob_slots _ _ _

theorem State.wakeCores_sems (s : State) (w : CoreWait) (q : Nat) : ((s.wakeCores w).job q).run.sems = (s.job q).run.sems := by
  unfold State.wakeCores
  split
  · exact State.setJob_keeps (fun j => j.run.sems) s _ q rfl
  · rfl

/-- A semaphore that is raised holds the sum, and the others of its job what they held. -/
theorem State.raiseSem_sems (s : State) {k : Nat} (sem v m : Nat) (hk : k < s.jobs.length) :
    NMap.getD ((s.raiseSem k sem v).job k).run.sems m 0 =
      NMap.getD (s.job k).run.sems m 0 + if m = sem % 4096 then BitVec.ofNat 32 v else 0 := by
  unfold State.raiseSem
  dsimp only
  rw [State.setJob_job _ _ _ hk]
  dsimp only
  split
  next h => rw [h, NMap.getD_put_same]
  next h => rw [NMap.getD_put_ne _ _ _ _ _ h]; exact (BitVec.add_zero _).symm

/-! ## What an engine does with its first transfer -/

/-- An engine counts and reads what it transfers, which leaves the herd as it is. -/
theorem State.counted_herd (s : State) (k off len part a n : Nat) : ((s.jobCount k off len).hubRead k part a n).herd = s.herd :=
  (State.herd_of_offTiers (State.hubRead_offTiers _ _ _ _ _)).trans rfl

theorem State.counted_localPeer (s : State) (k off len part a n peer : Nat) :
    ((s.jobCount k off len).hubRead k part a n).localPeer peer = s.localPeer peer :=
  congrArg (fun h : Herd => peer == 0 || peer == h.addr) (s.counted_herd k off len part a n)

section
variable {s : State} {g : Nat} {x : Transfer2} {rest : List Transfer2} (he : s.engine g = x :: rest)
include he

theorem State.rpassSend_mirrors (hs : x.started = false) (hm : x.mirror = true) : s.rpassSend g =
    (((s.jobCount x.slot 0x48 x.len).hubReads x.slot 6 (x.pkts.map (fun p => (fld p.opA 0 57, p.payload.length)))).setEngine g
      ({ x with started := true, sent := x.len, pkts := [] } :: rest)).sendAll x.pkts := by
  unfold State.rpassSend
  rw [he]
  dsimp only
  rw [if_neg (by simp [hs]), if_pos hm]

theorem State.rpassComplete_mirrors (hs : x.started = true) (hm : x.mirror = true) (ho : s.rpassOpen x = false) :
    s.rpassComplete g = ((s.setEngine g rest).mirrorAcked (s.job x.slot).info.id).wakeCores .rpassFull := by
  unfold State.rpassComplete
  rw [he]
  dsimp only
  rw [if_neg (by simp [hs]), if_pos hm, if_neg (by simp [ho])]

variable (hm : x.mirror = false)
include hm

/-- A transfer that is done: nothing while packets of it are open, else its semaphores rise and cores try again. -/
theorem State.rpassComplete_passes (hs : x.started = true) : s.rpassComplete g =
    if s.localPeer x.peer then (((s.setEngine g rest).raiseSem x.slot x.semb 1).raiseSem x.slot x.sem 1).wakeCores .rpassFull
    else if s.rpassOpen x then s
    else ((s.setEngine g rest).raiseSem x.slot x.sem 1).wakeCores .rpassFull := by
  unfold State.rpassComplete
  rw [he]
  dsimp only
  rw [if_neg (by simp [hs]), if_neg (by simp [hm])]

variable (hs : x.started = false)
include hs

theorem State.rpassSend_blocked (hb : (s.job x.slot).blocked x.src x.len false = true ∨
    (s.localPeer x.peer = true ∧ (s.job x.slot).blocked x.dst x.len true = true)) : s.rpassSend g = s := by
  unfold State.rpassSend
  rw [he]
  dsimp only
  rw [if_neg (by simp [hs]), if_neg (by simp [hm]), if_pos]
  rcases hb with hb | ⟨hl, hb⟩
  · simp [hb]
  · simp [hl, hb]

variable (hr : s.runningJob = some x.slot) (hb : (s.job x.slot).blocked x.src x.len false = false)
include hr hb

theorem State.rpassSend_stalls (hd : (s.job x.slot).blocked x.dst x.len true = false) (hl : s.localPeer x.peer = true)
    (hn : x.len ≠ 0) (hj : s.journalFull x.slot = true) : s.rpassSend g = s.journalStall x.slot := by
  unfold State.rpassSend
  rw [he]
  dsimp only
  rw [if_neg (by simp [hs]), if_neg (by simp [hm]), if_neg (by simp [hr, hb, hd]), if_pos (by simp [hl, hn, hj])]

theorem State.rpassSend_copies (hd : (s.job x.slot).blocked x.dst x.len true = false) (hl : s.localPeer x.peer = true)
    (hj : x.len = 0 ∨ s.journalFull x.slot = false) : s.rpassSend g =
      let r := (s.jobCount x.slot 0x38 x.len).hubRead x.slot 6 x.src x.len
      let j' := (r.job x.slot).store x.dst (memRead (r.job x.slot).run.mem x.src x.len)
      ((r.setJob x.slot j').hubWrite x.slot 6 x.dst x.len).setEngine g ({ x with started := true, sent := x.len } :: rest) := by
  have room : ¬ (s.localPeer x.peer && decide (x.len ≠ 0) && s.journalFull x.slot) = true := by
    rcases hj with hj | hj <;> simp [hj]
  unfold State.rpassSend
  rw [he]
  dsimp only
  rw [if_neg (by simp [hs]), if_neg (by simp [hm]), if_neg (by simp [hr, hb, hd]), if_neg room]
  exact if_pos ((s.counted_localPeer _ _ _ _ _ _ _).trans hl)

theorem State.rpassSend_sends (hl : s.localPeer x.peer = false) : s.rpassSend g =
    let r := (s.jobCount x.slot 0x38 x.len).hubRead x.slot 6 x.src x.len
    let x' := { x with started := true, sent := x.len, msg := r.message.1 }
    (r.message.2.setEngine g (x' :: rest)).sendAll
      (rpassPackets r.herd.addr (s.job x.slot).info.id (s.job x.slot) x' 0 (max 1 (cdiv x.len 4096))) := by
  unfold State.rpassSend
  rw [he]
  dsimp only
  rw [if_neg (by simp [hs]), if_neg (by simp [hm]), if_neg (by simp [hr, hb, hl]), if_neg (by simp [hl]),
    if_neg (by simp [State.counted_localPeer, hl])]
  rfl

end

/-! ## A local copy -/

theorem State.setJob_mem (s : State) {k : Nat} (j : Job) (hk : k < s.jobs.length) : ((s.setJob k j).job k).run.mem = j.run.mem :=
  congrArg (·.run.mem) (State.setJob_job s k j hk)

/-- The accesses of an engine change no byte of job memory. -/
theorem State.hubRead_mem (s : State) (k part a len q : Nat) : ((s.hubRead k part a len).job q).run.mem = (s.job q).run.mem :=
  JobRun.mem_of_data (Job.data_of_quiet (State.job_of_offTiers (s.hubRead_offTiers k part a len) q))

/-- What a local copy leaves: its engine with the transfer under way, and the bytes at its destination. -/
theorem State.copied_leaves (s : State) {g k src dst len : Nat} (ts : List Transfer2) (hg : g < s.herd.engines.length)
    (hk : k < s.jobs.length) :
    let r := (s.jobCount k 0x38 len).hubRead k 6 src len
    let t := ((r.setJob k ((r.job k).store dst (memRead (r.job k).run.mem src len))).hubWrite k 6 dst len).setEngine g ts
    t.engine g = ts ∧ (t.job k).run.mem = memWrite (s.job k).run.mem dst (memRead (s.job k).run.mem src len) := by
  dsimp only
  have counted : ((s.jobCount k 0x38 len).job k).run.mem = (s.job k).run.mem := congrArg (·.run.mem) (s.jobCount_job k 0x38 len hk)
  have off := (s.jobCount k 0x38 len).hubRead_offTiers k 6 src len
  have mem := ((s.jobCount k 0x38 len).hubRead_mem k 6 src len k).trans counted
  have herd := s.counted_herd k 0x38 len 6 src len
  have slots : k < ((s.jobCount k 0x38 len).hubRead k 6 src len).jobs.length := by
    rw [State.slots_of_offTiers off]
    exact (State.setJob_slots s k _).symm ▸ hk
  generalize (s.jobCount k 0x38 len).hubRead k 6 src len = r at mem herd slots ⊢
  generalize hj : (r.job k).store dst _ = j
  have jmem : j.run.mem = memWrite (s.job k).run.mem dst (memRead (s.job k).run.mem src len) := by
    rw [← hj, Job.store_run, mem]
  have written : ((r.setJob k j).hubWrite k 6 dst len).herd = s.herd :=
    (State.herd_of_offTiers ((r.setJob k j).hubWrite_offTiers k 6 dst len)).trans herd
  refine ⟨State.setEngine_engine _ ts (written ▸ hg), ?_⟩
  exact ((r.setJob k j).hubWrite_mem k 6 dst len k).trans ((r.setJob_mem j slots).trans jmem)

/-- Settles O14: RPASS by its checks at issue, and each event of an engine by the branch that its conditions leave. -/
theorem ringPass : Obligations.RingPass := by
  unfold Obligations.RingPass
  intro n k f s hn hf c j src dst len peer e bad
  refine ⟨fun h hbad hroom => ?_, fun h hbad hfull => ?_, fun a h hbad => ?_, fun g x rest hg8 hg he hs hm hr hl hj hk hb hd => ?_,
    fun g x rest hg8 he hs hm hr hl hb => ?_, fun g x rest hg8 he hs hm hr => ⟨fun hb => ?_, fun hb hd hl hn hj => ?_⟩,
    fun g x rest hg8 he hs hm => ⟨fun hl => ?_, fun hl ho => ?_, fun hl ho => ?_⟩,
    fun g x rest hg8 he hm => ⟨fun hs => ?_, fun hs ho => ?_⟩, fun g x rest hg8 hg he hs hm ho hk => ?_⟩
  · have goes := semaphore_goes hn hf h (after := State.rpassQueue n f) ((effectRpass_inOrder hbad).trans (if_neg (Nat.not_le.mpr hroom)))
    exact ⟨_, goes, rfl, fun hk => (congrArg (·.run.core n) (s.setCore_job k n _ hk)).trans (JobRun.setCore_core _ _ _)⟩
  · exact semaphore_waits hn hf h (by simp) ((effectRpass_inOrder hbad).trans (if_pos hfull))
  · exact (checked_semaphore hn hf _).trans (congrArg _ (State.retireThen_stop h (effectRpass_refused hbad)))
  · have sends : exec (.rpassSend g) s = _ := (checked_of s _ _ (by simpa using hg8)).trans
      (congrArg _ (State.rpassSend_copies he hm hs hr hb hd hl hj))
    exact ⟨sends, _, sends, s.copied_leaves _ hg hk⟩
  · exact (checked_of s _ _ (by simpa using hg8)).trans (congrArg _ (State.rpassSend_sends he hm hs hr hb hl))
  · exact (checked_of s _ _ (by simpa using hg8)).trans (congrArg _ (State.rpassSend_blocked he hm hs hb))
  · exact (checked_of s _ _ (by simpa using hg8)).trans (congrArg _ (State.rpassSend_stalls he hm hs hr hb hd hl hn hj))
  · exact (checked_of s _ _ (by simpa using hg8)).trans (congrArg _ ((State.rpassComplete_passes he hm hs).trans (if_pos hl)))
  · exact (checked_of s _ _ (by simpa using hg8)).trans (congrArg _ ((State.rpassComplete_passes he hm hs).trans
      (by rw [hl, ho]; rfl)))
  · exact (checked_of s _ _ (by simpa using hg8)).trans (congrArg _ ((State.rpassComplete_passes he hm hs).trans
      (by rw [hl, ho]; rfl)))
  · exact (checked_of s _ _ (by simpa using hg8)).trans (congrArg _ (State.rpassSend_mirrors he hs hm))
  · refine ⟨_, (checked_of s _ _ (by simpa using hg8)).trans (congrArg _ (State.rpassComplete_mirrors he hs hm ho)), fun hg => ?_⟩
    rw [State.wakeCores_engine, State.mirrorAcked_engine, State.setEngine_engine s rest hg]
  · refine ⟨_, (checked_of s _ _ (by simpa using hg8)).trans (congrArg _ (State.rpassComplete_passes he hm hs)), ?_⟩
    split
    next hl =>
      rw [State.wakeCores_engine, State.raiseSem_engine, State.raiseSem_engine, State.setEngine_engine s rest hg]
      refine ⟨rfl, fun hne => ?_⟩
      have other : x.sem % 4096 ≠ x.semb % 4096 := fun h => hne.elim (fun h => by simp [hl] at h) (· h.symm)
      rw [State.wakeCores_sems, State.raiseSem_sems _ _ _ _ ((State.raiseSem_slots _ _ _ _).symm ▸ hk), if_pos rfl,
        State.raiseSem_sems _ _ _ _ (by exact hk), if_neg other]
      exact congrArg (· + 1) (BitVec.add_zero _)
    next hl =>
      have closed : s.rpassOpen x = false := ho.resolve_left hl
      rw [closed, if_neg Bool.false_ne_true, State.wakeCores_engine, State.raiseSem_engine, State.setEngine_engine s rest hg]
      refine ⟨rfl, fun _ => ?_⟩
      rw [State.wakeCores_sems, State.raiseSem_sems _ _ _ _ (by exact hk), if_pos rfl]
      rfl

end Sys2Proof.Machine
end

section
/-! O51: ring sets: intake, enabling, doorbells and messages (R336, R343, R411 to R415, R420, R427). -/

namespace Sys2Proof.Machine

/-! ## Intake -/

theorem State.takeGo_none {s : State} (h : ∀ q, s.sched.running = some q → (s.job q).goDue = none) : s.takeGo = s := by
  unfold State.takeGo
  split
  · rfl
  next k hk =>
    dsimp only
    rw [h k hk]

/-- What a command finds in its queue depends on neither the slot's registers nor the journal. -/
theorem Job.enqueue_noted (j : Job) (i : JobInfo) (x : List JournalRec) (c : Cmd) :
    (({ j with info := i, journal := x } : Job).enqueue c).run = (j.enqueue c).run := rfl

/-- A command taken becomes outstanding; its job's run is as before. -/
theorem State.noteTaken_job (s : State) {k : Nat} (c : Cmd) (hk : k < s.jobs.length) : ∃ x, (s.noteTaken k c).job k =
    { s.job k with info := { (s.job k).info with outstanding := (s.job k).info.outstanding ++ [c] }, journal := x } := by
  unfold State.noteTaken
  dsimp only
  rw [State.setJob_job s k _ hk]
  split
  · exact ⟨(s.job k).journal ++ [.taken c], rfl⟩
  · exact ⟨(s.job k).journal, rfl⟩

section
variable (s : State) (p : Port) (set no : Nat)

@[simp] theorem State.moveHead_jobs : (s.moveHead p set no).jobs = s.jobs := by cases p <;> rfl

theorem State.moveHead_job (q : Nat) : (s.moveHead p set no).job q = s.job q :=
  congrArg (fun js : List Job => js.getD q {}) (s.moveHead_jobs p set no)

theorem State.moveHead_slotOf (id : Nat) : (s.moveHead p set no).slotOf id = s.slotOf id := by
  unfold State.slotOf
  rw [State.moveHead_jobs]

theorem State.moveHead_taken : (s.moveHead p set no).sched.taken = s.sched.taken := by cases p <;> rfl

theorem State.moveHead_ring : (s.moveHead p set no).ring p set =
    { s.ring p set with sqHead := (s.ring p set).sqHead + 1, out := (s.ring p set).out + 1, rxNo := no, badHead := false } := by
  unfold State.moveHead
  dsimp only
  split
  · exact State.setRing_ring s p set _
  · cases p <;> exact HostPort.setRing_ringSet _ set _

end

/-- The ring sets of a port stand with the port. -/
theorem State.setJob_ring (s : State) (k : Nat) (j : Job) (p : Port) (set : Nat) : (s.setJob k j).ring p set = s.ring p set := by
  cases p <;> rfl

theorem State.keepTaken_ring (s : State) (c : Cmd) (p : Port) (set : Nat) : (s.keepTaken c).ring p set = s.ring p set := by
  cases p <;> rfl

theorem State.noteTaken_ring (s : State) (k : Nat) (c : Cmd) (p : Port) (set : Nat) :
    (s.noteTaken k c).ring p set = s.ring p set := s.setJob_ring k _ p set

theorem State.noteTaken_sched (s : State) (k : Nat) (c : Cmd) : (s.noteTaken k c).sched = s.sched := rfl

section
variable {s : State} {p : Port} {set : Nat} (hs : s.schedServes = true)
  (hg : ∀ q, s.sched.running = some q → (s.job q).goDue = none) (hn : s.servedNext p set = true)
include hs hg hn

theorem State.intake_bad (hd : (s.port p).headDesc (s.ring p set) = none) : s.intake p set = s.badSeal p set := by
  unfold State.intake
  rw [State.takeGo_none hg]
  dsimp only
  rw [if_neg (by simp [hs, hn]), hd]

theorem State.intake_takes {d : Desc} {no : Nat} (hd : (s.port p).headDesc (s.ring p set) = some (d, no)) : s.intake p set =
    (s.moveHead p set no).takeDesc
      { desc := d, port := p, set, sealed := (s.ring p set).sealed, dev := false, caddr := 0, seq := s.sched.cmdSeq } := by
  unfold State.intake
  rw [State.takeGo_none hg]
  dsimp only
  rw [if_neg (by simp [hs, hn]), hd]

end

section
variable {s : State} {c : Cmd}

theorem State.takeDesc_loads (h : c.desc.opcode = 1) : s.takeDesc c = s.keepTaken c := by
  unfold State.takeDesc
  dsimp only
  rw [h]
  rfl

theorem State.takeDesc_refuses (h : opcodeKnown c.desc.opcode = false ∨ (s.slotOf c.desc.job = none ∧ 8 < c.desc.opcode)) :
    s.takeDesc c = s.refuseCmd c 0x0203 := by
  unfold State.takeDesc
  dsimp only
  rcases h with h | ⟨hnone, ho⟩
  · rw [h]
    rfl
  · split
    · rfl
    · rw [if_neg (by simp; omega), hnone]
      exact if_neg (by simp; omega)

/-- A command of a loaded job that its port owns is noted, and waits at the scheduler or enters its job's queue. -/
theorem State.takeDesc_notes {k : Nat} (hk : s.slotOf c.desc.job = some k) (ho : (s.job k).info.owner = c.port)
    (he : (s.job k).info.state ≠ .ending) (hc : (s.job k).info.confidential = true → c.sealed = true) (h1 : c.desc.opcode ≠ 1)
    (hko : opcodeKnown c.desc.opcode = true) : s.takeDesc c =
      if jobOpcode c.desc.opcode then (s.noteTaken k c).keepTaken c
      else (s.noteTaken k c).setJob k (((s.noteTaken k c).job k).enqueue c) := by
  have mine : (s.slotOf c.desc.job).filter
      (fun k => (s.job k).info.owner == c.port && (s.job k).info.state != .ending) = some k := by
    rw [hk]
    exact Option.filter_some_pos (by simp [ho, he])
  have open' : ¬((s.job k).info.confidential && !c.sealed && c.desc.opcode != 7) = true := by
    cases hq : (s.job k).info.confidential
    · simp
    · simp [hc hq]
  unfold State.takeDesc
  dsimp only
  rw [if_neg (by simp [hko]), if_neg (by simpa using h1), mine]
  exact if_neg open'

end

theorem jobOpcode_iff {o : Nat} (h : opcodeKnown o = true) : jobOpcode o = true ↔ o ≤ 8 := by
  have : o ≠ 0 := fun h0 => by subst h0; exact absurd h (by decide)
  simp [jobOpcode]
  omega

theorem State.withSched_port (s : State) (x : Sched) (p : Port) : ({ s with sched := x } : State).port p = s.port p := by
  cases p <;> rfl

theorem State.withSched_ring (s : State) (x : Sched) (p : Port) (set : Nat) :
    ({ s with sched := x } : State).ring p set = s.ring p set := congrArg (HostPort.ringSet · set) (s.withSched_port x p)

/-! ## Counters of a port -/

/-- A counter that counts one more, up to its largest value. -/
theorem State.hostCount_ctr (s : State) (p : Port) (off : Nat) : NMap.getD ((s.hostCount p off).port p).ctr off 0 =
    min (2 ^ 64 - 1) (NMap.getD (s.port p).ctr off 0 + 1) := by
  unfold State.hostCount
  dsimp only
  rw [State.setPort_port]
  exact NMap.getD_put_same _ _ _ _

theorem State.hostCount_ring (s : State) (p : Port) (off set : Nat) : (s.hostCount p off).ring p set = s.ring p set := by
  cases p <;> rfl

/-- A change of a set and a count leave the set changed and the count one higher. -/
theorem State.setRing_hostCount (s : State) (p : Port) (set off : Nat) (r : RingSet) :
    ((s.setRing p set r).hostCount p off).ring p set = r ∧
      NMap.getD (((s.setRing p set r).hostCount p off).port p).ctr off 0 = min (2 ^ 64 - 1) (NMap.getD (s.port p).ctr off 0 + 1) := by
  refine ⟨(State.hostCount_ring _ _ _ _).trans (State.setRing_ring _ _ _ _), (State.hostCount_ctr _ _ _).trans ?_⟩
  cases p <;> rfl

/-! ## Held records -/

/-- What held records that are written do not change of their set. -/
def RingSet.offRecords (r : RingSet) : RingSet :=
  { r with cqTail := 0, eqTail := 0, cqPass := 0, eqPass := 0, cqSince := 0, eqSince := 0, hold := [], holdEv := [] }

section
variable {r r' : RingSet} (h : r.offRecords = r'.offRecords)
include h

theorem RingSet.enabled_of_offRecords : r.enabled = r'.enabled := (congrArg RingSet.enabled h :)
theorem RingSet.error_of_offRecords : r.error = r'.error := (congrArg RingSet.error h :)
theorem RingSet.cqHead_of_offRecords : r.cqHead = r'.cqHead := (congrArg RingSet.cqHead h :)
theorem RingSet.eqHead_of_offRecords : r.eqHead = r'.eqHead := (congrArg RingSet.eqHead h :)

end

theorem State.setRing_offRecords {s : State} {p : Port} {set : Nat} {r : RingSet} (h : r.offRecords = (s.ring p set).offRecords) :
    ((s.setRing p set r).ring p set).offRecords = (s.ring p set).offRecords :=
  (congrArg RingSet.offRecords (State.setRing_ring s p set r)).trans h

theorem State.putCompletion_ring (s : State) (p : Port) (set t : Nat) (c : Completion) :
    ((s.setPort p ((s.port p).putCompletion set t c)).ring p set).offRecords = (s.ring p set).offRecords := by
  unfold State.ring HostPort.putCompletion
  dsimp only
  rw [State.setPort_port, HostPort.setRing_ringSet]
  rfl

theorem State.putEvent_ring (s : State) (p : Port) (set t : Nat) (e : Event) :
    ((s.setPort p ((s.port p).putEvent set t e)).ring p set).offRecords = (s.ring p set).offRecords := by
  unfold State.ring HostPort.putEvent
  dsimp only
  rw [State.setPort_port, HostPort.setRing_ringSet]
  rfl

theorem State.look_ring (s : State) (i : Nat) (p : Port) (set : Nat) : (s.look i).2.ring p set = s.ring p set := by cases p <;> rfl

theorem State.flushCompletions_ring (s : State) (p : Port) (set : Nat) (held : List Completion) :
    ((s.flushCompletions p set held).ring p set).offRecords = (s.ring p set).offRecords := by
  induction held generalizing s with
  | nil => exact State.setRing_offRecords rfl
  | cons c rest ih =>
    unfold State.flushCompletions
    dsimp only
    split
    · rw [ih, State.putCompletion_ring, State.look_ring]
    · exact State.setRing_offRecords rfl

theorem State.flushEvents_ring (s : State) (p : Port) (set : Nat) (held : List Event) :
    ((s.flushEvents p set held).ring p set).offRecords = (s.ring p set).offRecords := by
  induction held generalizing s with
  | nil => exact State.setRing_offRecords rfl
  | cons e rest ih =>
    unfold State.flushEvents
    dsimp only
    split
    · rw [ih, State.putEvent_ring, State.look_ring]
    · exact State.setRing_offRecords rfl

theorem State.flushed_ring (s : State) (p : Port) (set : Nat) (held : List Completion) :
    (((s.flushCompletions p set held).flushEvents p set ((s.flushCompletions p set held).ring p set).holdEv).ring p set).offRecords =
      (s.ring p set).offRecords :=
  (State.flushEvents_ring _ _ _ _).trans (State.flushCompletions_ring _ _ _ _)

/-! ## Enabling a set (R411, R412) -/

theorem State.enableRing_enables {s : State} {p : Port} {set : Nat} {v : W32} (hr : (s.ring p set).enabled = false) :
    let r := s.ring p set
    let e := s.enableError p set { r with control := (v &&& 7) ||| (v &&& 8) }
    ((s.enableRing p set v).ring p set).enabled = decide (e = 0) ∧ ((s.enableRing p set v).ring p set).error = e := by
  unfold State.enableRing
  dsimp only
  rw [hr]
  generalize he : s.enableError p set _ = e
  rw [if_neg Bool.false_ne_true]
  rw [if_neg Bool.false_ne_true] at he
  rw [he]
  split
  next hne =>
    rw [State.setRing_ring]
    exact ⟨by simp [hne], rfl⟩
  next h0 =>
    have h0 : e = 0 := not_not.mp h0
    exact ⟨(RingSet.enabled_of_offRecords (State.flushed_ring _ p set _)).trans ((congrArg _ (State.setRing_ring _ p set _)).trans
        (decide_eq_true h0).symm),
      (RingSet.error_of_offRecords (State.flushed_ring _ p set _)).trans ((congrArg _ (State.setRing_ring _ p set _)).trans h0.symm)⟩

/-! ## Doorbells (R413, R415) -/

theorem State.flushCompletions_nil (s : State) (p : Port) (set : Nat) :
    ((s.flushCompletions p set []).ring p set).cqTail = (s.ring p set).cqTail :=
  (congrArg RingSet.cqTail (State.setRing_ring s p set { s.ring p set with hold := [] })).trans rfl

theorem State.flushEvents_nil (s : State) (p : Port) (set : Nat) :
    ((s.flushEvents p set []).ring p set).eqTail = (s.ring p set).eqTail :=
  (congrArg RingSet.eqTail (State.setRing_ring s p set { s.ring p set with holdEv := [] })).trans rfl

section
variable {s : State} {p : Port} {set : Nat} {v : W32}

theorem State.cqDoorbell_stores (h : ((s.ring p set).cqTail - v).toNat ≤ (s.ring p set).entries 8) :
    ((s.cqDoorbell p set v).ring p set).cqHead = v ∧
      ((s.ring p set).hold = [] → ((s.cqDoorbell p set v).ring p set).cqTail = (s.ring p set).cqTail) := by
  unfold State.cqDoorbell
  dsimp only
  rw [if_pos h]
  refine ⟨(RingSet.cqHead_of_offRecords (State.flushCompletions_ring _ p set _)).trans
    (congrArg RingSet.cqHead (State.setRing_ring s p set _)), fun he => ?_⟩
  rw [he]
  rw [State.flushCompletions_nil, State.setRing_ring]

theorem State.eqDoorbell_stores (h : ((s.ring p set).eqTail - v).toNat ≤ (s.ring p set).entries 16) :
    ((s.eqDoorbell p set v).ring p set).eqHead = v ∧
      ((s.ring p set).holdEv = [] → ((s.eqDoorbell p set v).ring p set).eqTail = (s.ring p set).eqTail) := by
  unfold State.eqDoorbell
  dsimp only
  rw [if_pos h]
  refine ⟨(RingSet.eqHead_of_offRecords (State.flushEvents_ring _ p set _)).trans
    (congrArg RingSet.eqHead (State.setRing_ring s p set _)), fun he => ?_⟩
  rw [he]
  rw [State.flushEvents_nil, State.setRing_ring]

/-- A doorbell out of range is refused in all three rings alike. -/
theorem badDoorbell_exec {c : Instr} (hset : set < 64)
    (h : (c = .ringSqTail p set v ∧ 2 ^ fld (s.ring p set).sizes 0 5 < (v - (s.ring p set).sqHead).toNat) ∨
      (c = .ringCqHead p set v ∧ 2 ^ fld (s.ring p set).sizes 8 5 < ((s.ring p set).cqTail - v).toNat) ∨
      (c = .ringEqHead p set v ∧ 2 ^ fld (s.ring p set).sizes 16 5 < ((s.ring p set).eqTail - v).toNat)) :
    exec c s = .next (s.badDoorbell p set) := by
  have named : setOk set = true := decide_eq_true hset
  rcases h with ⟨rfl, h⟩ | ⟨rfl, h⟩ | ⟨rfl, h⟩ <;>
    exact (checked_of s _ _ named).trans (congrArg _ (if_neg (Nat.not_le.mpr h)))

end

/-! ## Messages (R420) -/

/-- The message of a completion vector that is due: its count restarts, and it is sent or marked pending. -/
theorem HostPort.message_due {h : HostPort} {set : Nat} (hset : set < 64)
    (hd : max 1 (fld (h.ringSet set).irq 0 8) ≤ (h.ringSet set).cqSince) :
    h.message (2 * set) = (h.setRing set { h.ringSet set with cqSince := 0 }).signal (2 * set) := by
  have due : (h.ringSet set).due (h.ringSet set).cqSince = true := by simp [RingSet.due, hd]
  unfold HostPort.message
  rw [if_neg (by omega), Nat.mul_mod_right, Nat.mul_div_cancel_left set (by decide)]
  dsimp only
  rw [if_pos rfl, if_pos due]

@[simp] theorem HostPort.signal_ringSet (h : HostPort) (vec n : Nat) : (h.signal vec).ringSet n = h.ringSet n := by
  unfold HostPort.signal
  split
  · rfl
  · split <;> rfl

section
variable {h : HostPort} {vec : Nat} (hl : h.linkUp = true)
include hl

theorem HostPort.signal_sends (hm : (h.msixWord (vec * 4 + 3)).testBit 0 = false) :
    (h.signal vec).msixSent = h.msixSent ++ [vec] := by
  unfold HostPort.signal
  rw [if_neg (by simp [hl]), if_neg (by simp [hm])]

theorem HostPort.signal_pends (hm : (h.msixWord (vec * 4 + 3)).testBit 0 = true) :
    vec ∈ (h.signal vec).msixPba ∧ (h.signal vec).msixSent = h.msixSent := by
  unfold HostPort.signal
  rw [if_neg (by simp [hl]), if_pos hm]
  refine ⟨?_, rfl⟩
  dsimp only
  split
  next hc => exact List.contains_iff_mem.mp hc
  next => simp

end

/-- Settles O51: intake by what is at the head, and each register of a set by what its write does to the set. -/
theorem ringSets : Obligations.RingSets := by
  unfold Obligations.RingSets
  intro s p set hset r
  have named : setOk set = true := decide_eq_true hset
  refine ⟨fun d no k hs hg hn hd hk ho he hc h1 hko => ?_, fun d no hs hg hn hd => ⟨fun h1 => ?_, fun h => ?_⟩,
    fun hs hg hn hd => ?_, fun v hv hr => ?_, checked_of s _ _ named, fun v hv => ?_, fun v hv => ?_, fun v hv => ?_,
    fun c v h => ⟨_, badDoorbell_exec hset h, State.setRing_hostCount s p set 0x58 _⟩, fun hl hd => ?_⟩
  · intro c
    have hlt : k < (s.moveHead p set no).jobs.length := (s.moveHead_jobs p set no).symm ▸ State.slotOf_lt hk
    have named' : (s.moveHead p set no).slotOf d.job = some k := (s.moveHead_slotOf p set no d.job).trans hk
    have job : (s.moveHead p set no).job k = s.job k := s.moveHead_job p set no k
    have takes := (State.intake_takes hs hg hn hd).trans (State.takeDesc_notes (c := c) named' (job.symm ▸ ho) (job.symm ▸ he)
      (job.symm ▸ hc) h1 hko)
    obtain ⟨x, noted⟩ := (s.moveHead p set no).noteTaken_job c hlt
    rw [job] at noted
    have ring := ((s.moveHead p set no).noteTaken_ring k c p set).trans (s.moveHead_ring p set no)
    have taken := (congrArg Sched.taken ((s.moveHead p set no).noteTaken_sched k c)).trans (s.moveHead_taken p set no)
    have slots : k < ((s.moveHead p set no).noteTaken k c).jobs.length := (State.setJob_slots _ k _).symm ▸ hlt
    generalize (s.moveHead p set no).noteTaken k c = u at takes noted ring taken slots
    refine ⟨_, (checked_of s _ _ named).trans (congrArg _ takes), ?_⟩
    by_cases h8 : d.opcode ≤ 8
    · rw [if_pos ((jobOpcode_iff hko).mpr h8), State.keepTaken_ring, ring]
      exact ⟨rfl, rfl, congrArg (·.info.outstanding) noted, fun _ => ⟨congrArg (· ++ [c]) taken, (congrArg Job.run noted :)⟩,
        fun h => absurd h (Nat.not_lt.mpr h8)⟩
    · rw [if_neg (fun h => h8 ((jobOpcode_iff hko).mp h)), State.setJob_ring, ring, State.setJob_job u k _ slots, noted]
      exact ⟨rfl, rfl, rfl, fun h => absurd h h8, fun _ => ⟨taken, Job.enqueue_noted _ _ x c⟩⟩
  · refine ⟨_, (checked_of s _ _ named).trans (congrArg _ ((State.intake_takes hs hg hn hd).trans (State.takeDesc_loads h1))), ?_⟩
    rw [State.keepTaken_ring, State.moveHead_ring]
    exact ⟨rfl, congrArg (· ++ [_]) (s.moveHead_taken p set no), s.moveHead_jobs p set no⟩
  · refine (checked_of s _ _ named).trans (congrArg _ ((State.intake_takes hs hg hn hd).trans (State.takeDesc_refuses ?_)))
    exact h.imp_right fun ⟨hnone, ho⟩ => ⟨(s.moveHead_slotOf p set no d.job).trans hnone, ho⟩
  · refine ⟨_, (checked_of s _ _ named).trans (congrArg _ (State.intake_bad hs hg hn hd)), ?_⟩
    obtain ⟨ring, ctr⟩ := State.setRing_hostCount s p set 0x50 { r with badHead := true }
    exact ⟨(State.withSched_ring _ _ p set).trans ring, rfl,
      (State.hostCount_jobs _ p 0x50).trans (State.jobs_of_offPorts (State.setRing_offPorts s p set _)),
      (congrArg (fun h : HostPort => NMap.getD h.ctr 0x50 0) (State.withSched_port _ _ p)).trans ctr⟩
  · exact ⟨_, checked_of s _ _ (by simp [named, hv]), State.enableRing_enables hr⟩
  · exact (checked_of s _ _ named).trans (congrArg _ (if_pos hv))
  · exact ⟨_, checked_of s _ _ named, State.cqDoorbell_stores hv⟩
  · exact ⟨_, checked_of s _ _ named, State.eqDoorbell_stores hv⟩
  · refine ⟨_, (checked_of s _ _ (by simp; omega)).trans (congrArg _ (congrArg _ (HostPort.message_due hset hd))), ?_, fun hm => ?_, fun hm => ?_⟩
    · rw [State.ring, State.setPort_port, HostPort.signal_ringSet, HostPort.setRing_ringSet]
    · rw [State.setPort_port]
      exact HostPort.signal_sends hl hm
    · rw [State.setPort_port]
      exact HostPort.signal_pends hl hm

end Sys2Proof.Machine
end

section
/-! O49: what the packets that name a job do (R356, R357, R360, R361, R380, R382, R383, R395, R492). -/

namespace Sys2Proof.Machine

/-! ## Off the wire -/

section
variable {s t : State} (h : t.offWire = s.offWire)
include h

theorem State.jobs_of_offWire : t.jobs = s.jobs := (congrArg State.jobs h :)
theorem State.sched_of_offWire : t.sched = s.sched := (congrArg State.sched h :)
theorem State.herdCtr_of_offWire : t.herd.ctr = s.herd.ctr := (congrArg (fun u => u.herd.ctr) h :)
theorem State.reads_of_offWire : t.herd.reads = s.herd.reads := (congrArg (fun u => u.herd.reads) h :)
theorem State.messages_of_offWire : t.herd.messages = s.herd.messages := (congrArg (fun u => u.herd.messages) h :)
theorem State.herdAddr_of_offWire : t.herd.addr = s.herd.addr := (congrArg (fun u => u.herd.addr) h :)

theorem State.job_of_offWire (k : Nat) : t.job k = s.job k := congrArg (fun js : List Job => js.getD k {}) (State.jobs_of_offWire h)

theorem State.slotOf_of_offWire (id : Nat) : t.slotOf id = s.slotOf id := by
  unfold State.slotOf
  rw [State.jobs_of_offWire h]

theorem State.journalFull_of_offWire (k : Nat) : t.journalFull k = s.journalFull k := by
  unfold State.journalFull
  rw [State.sched_of_offWire h, State.job_of_offWire h]

theorem State.tableFull_of_offWire (p : Packet) : t.tableFull p = s.tableFull p := by
  unfold State.tableFull
  rw [State.messages_of_offWire h]

end

/-- A packet that leaves the inbox leaves the flows as they are. -/
theorem State.takePacket_flows (s : State) (p : Packet) : (s.takePacket p).herd.flows = s.herd.flows := by
  unfold State.takePacket
  dsimp only
  split <;> rfl

theorem State.takePacket_flowFor (s : State) (p : Packet) : (s.takePacket p).flowFor p = s.flowFor p := by
  unfold State.flowFor
  rw [State.takePacket_flows]

theorem State.takePacket_outOfTurn (s : State) (p : Packet) : (s.takePacket p).outOfTurn p = s.outOfTurn p := by
  unfold State.outOfTurn
  rw [State.takePacket_flowFor, State.herdAddr_of_offWire (s.takePacket_offWire p)]

/-! ## Refusals and repeated acknowledgements -/

theorem State.herdCount_ctr (s : State) (off : Nat) : NMap.getD (s.herdCount off).herd.ctr off 0 =
    min (2 ^ 64 - 1) (NMap.getD s.herd.ctr off 0 + 1) := NMap.getD_put_same _ _ _ _

/-- A refusal counts and changes no job. -/
theorem State.refusePacket_counts {s t : State} (h : t.offWire = s.offWire) (p : Packet) (reason : Nat) :
    (t.refusePacket p reason).jobs = s.jobs ∧
      NMap.getD (t.refusePacket p reason).herd.ctr 0x38 0 = min (2 ^ 64 - 1) (NMap.getD s.herd.ctr 0x38 0 + 1) := by
  have sent : (t.refusePacket p reason).offWire = (t.herdCount 0x38).offWire := State.sendReply_offWire _ _
  rw [State.herdCtr_of_offWire sent, State.herdCount_ctr, State.herdCtr_of_offWire h]
  exact ⟨(State.jobs_of_offWire sent).trans (State.jobs_of_offWire h :), rfl⟩

theorem State.pumpLink_flows (s : State) (n : Nat) : (s.pumpLink n).herd.flows = s.herd.flows := by
  unfold State.pumpLink
  dsimp only
  split <;> rfl

theorem State.sendReply_flows (s : State) (p : Packet) : (s.sendReply p).herd.flows = s.herd.flows := by
  unfold State.sendReply
  split
  · rfl
  · split
    · rfl
    · unfold State.putOn
      dsimp only
      rw [State.pumpLink_flows]
      split <;> rfl

/-- The flow of a packet is of its job, source and channel. -/
theorem State.flowFor_is (s : State) (p : Packet) :
    (s.flowFor p).job = p.job ∧ (s.flowFor p).src = p.src ∧ (s.flowFor p).chan = p.chan := by
  unfold State.flowFor
  cases hf : s.herd.flows.find? (fun f => f.is p.job p.src p.chan) with
  | none => exact ⟨rfl, rfl, rfl⟩
  | some f =>
    have := List.find?_some hf
    simp only [RxFlow.is, Bool.and_eq_true, beq_iff_eq] at this
    exact ⟨this.1.1, this.1.2, this.2⟩

/-- A flow that is acknowledged anew has nothing left to acknowledge. -/
theorem State.ackFlows_clears (s : State) (f : RxFlow) : ∀ x ∈ (s.ackFlows [f]).herd.flows,
    x.job = f.job → x.src = f.src → x.chan = f.chan → x.since = 0 := by
  unfold State.ackFlows State.ackFlows
  rw [State.sendReply_flows]
  intro x hx hj hs hc
  obtain ⟨y, -, rfl⟩ := List.mem_map.mp hx
  by_cases hy : y.is f.job f.src f.chan = true
  · rw [if_pos hy]
  · rw [if_neg hy] at hj hs hc
    exact absurd (by simp [RxFlow.is, hj, hs, hc]) hy

/-! ## Receipt -/

section
variable {s : State} {p : Packet} {ok : Job → Bool} {take : State → State → Nat → State}

theorem State.receive_noJob (h : s.slotOf p.job = none) : s.receive p ok take = (s.takePacket p).refusePacket p 1 := by
  unfold State.receive State.accepting
  dsimp only
  rw [State.slotOf_of_offWire (s.takePacket_offWire p), h]

variable {k : Nat} (hk : s.slotOf p.job = some k) (hok : ok (s.job k) = true)
include hk hok

theorem State.receive_accepts : s.receive p ok take = (s.takePacket p).receipt p ((s.takePacket p).refusePacket p 1)
    (if s.tableFull p then (s.takePacket p).refusePacket p 2 else if s.outOfTurn p then s else take s (s.takePacket p) k) := by
  have accepts : (s.takePacket p).accepting p ok = some k := by
    unfold State.accepting
    rw [State.slotOf_of_offWire (s.takePacket_offWire p), hk]
    dsimp only
    rw [State.job_of_offWire (s.takePacket_offWire p), if_pos hok]
  unfold State.receive
  dsimp only
  rw [accepts]
  dsimp only
  rw [State.tableFull_of_offWire (s.takePacket_offWire p), State.takePacket_outOfTurn]

theorem State.receive_stale (hf : s.fresh? p = false) : s.receive p ok take =
    if (s.flowFor p).seen p.seq then (s.takePacket p).ackFlows [s.flowFor p] else (s.takePacket p).refusePacket p 1 := by
  rw [State.receive_accepts hk hok]
  unfold State.receipt
  rw [State.takePacket_fresh?, if_neg (by simp [hf]), State.takePacket_flowFor]

variable (hf : s.fresh? p = true)
include hf

theorem State.receive_full (ht : s.tableFull p = true) : s.receive p ok take = (s.takePacket p).refusePacket p 2 := by
  rw [State.receive_accepts hk hok, State.receipt_fresh hf, if_pos ht]

theorem State.receive_waits (ht : s.tableFull p = false) (ho : s.outOfTurn p = true) : s.receive p ok take = s := by
  rw [State.receive_accepts hk hok, State.receipt_fresh hf, if_neg (by simp [ht]), if_pos ho]

theorem State.receive_takes (ht : s.tableFull p = false) (ho : s.outOfTurn p = false) :
    s.receive p ok take = take s (s.takePacket p) k := by
  rw [State.receive_accepts hk hok, State.receipt_fresh hf, if_neg (by simp [ht]), if_neg (by simp [ho])]

end

/-- A WRITE, SIGNAL or READ_REQ is received by a job that runs. -/
theorem jobPacket_receives {i : Instr} {p : Packet} (s : State) (h : jobPacket i p) (h7 : p.type ≠ 0x07) :
    ∃ (ok : Job → Bool) (take : State → State → Nat → State),
      (∀ j : Job, j.info.state = .running → ok j = true) ∧ exec i s = .next (s.receive p ok take) := by
  rcases h with ⟨rfl, ht⟩ | ⟨rfl, ht⟩ | ⟨rfl, ht⟩ | ⟨-, ht⟩
  · exact ⟨_, _, fun j hj => beq_iff_eq.mpr hj, checked_of s _ _ (by simp [ht])⟩
  · exact ⟨_, _, fun j hj => beq_iff_eq.mpr hj, checked_of s _ _ (by simp [ht])⟩
  · exact ⟨_, _, fun j hj => by rw [hj]; rfl, checked_of s _ _ (by simp [ht])⟩
  · exact absurd ht h7

/-! ## Semaphores and bytes that packets bring -/

/-- A semaphore raised from outside its job. -/
theorem State.raiseFrom_sems (s : State) {k : Nat} (sem v : Nat) (hk : k < s.jobs.length) :
    ((s.raiseFrom k sem v).job k).run.sems = NMap.put (s.job k).run.sems (sem % 4096)
      (NMap.getD (s.job k).run.sems (sem % 4096) 0 + BitVec.ofNat 32 v) := by
  have raised : ((s.raiseSem k sem v).job k).run.sems = NMap.put (s.job k).run.sems (sem % 4096)
      (NMap.getD (s.job k).run.sems (sem % 4096) 0 + BitVec.ofNat 32 v) := congrArg (·.run.sems) (State.setJob_job s k _ hk)
  unfold State.raiseFrom
  dsimp only
  split
  · exact (State.setJob_keeps (fun j => j.run.sems) _ k k (j := ((s.raiseSem k sem v).job k).note _) rfl).trans raised
  · exact raised

theorem State.raiseFrom_mem (s : State) (k sem v q : Nat) : ((s.raiseFrom k sem v).job q).run.mem = (s.job q).run.mem := by
  have raised : ((s.raiseSem k sem v).job q).run.mem = (s.job q).run.mem := State.setJob_keeps (fun j => j.run.mem) s k q rfl
  unfold State.raiseFrom
  dsimp only
  split
  · exact (State.setJob_keeps (fun j => j.run.mem) _ k q (j := ((s.raiseSem k sem v).job k).note _) rfl).trans raised
  · exact raised

theorem State.messageBytes_mem (s : State) (k q : Nat) (p : Packet) :
    ((s.messageBytes k p).job q).run.mem = (s.job q).run.mem := by
  unfold State.messageBytes
  dsimp only
  generalize (if bit p.opB 44 then some (fld p.opB 32 12) else none).isSome = b
  split
  · split
    · exact (State.raiseFrom_mem _ k _ 1 q).trans rfl
    · rfl
  · rfl

/-- A message of one packet raises its semaphore. -/
theorem State.messageBytes_sems (s : State) {k : Nat} {p : Packet} (hk : k < s.jobs.length) (hb : bit p.opB 44 = true)
    (hl : fld p.opB 0 32 = p.payload.length)
    (hn : ∀ m ∈ s.herd.messages, ¬ (m.job = p.job ∧ m.src = p.src ∧ m.msg = p.msg)) :
    ((s.messageBytes k p).job k).run.sems = NMap.put (s.job k).run.sems (fld p.opB 32 12)
      (NMap.getD (s.job k).run.sems (fld p.opB 32 12) 0 + 1) := by
  have none' : s.herd.messages.find? (fun m => m.job == p.job && m.src == p.src && m.msg == p.msg) = none :=
    List.find?_eq_none.mpr fun m hm h => hn m hm (by simpa [and_assoc] using h)
  have number : fld p.opB 32 12 % 4096 = fld p.opB 32 12 := Nat.mod_eq_of_lt (Nat.mod_lt _ (by decide))
  unfold State.messageBytes
  dsimp only
  rw [none', hb, hl]
  dsimp only [Option.getD_none, if_true]
  rw [if_pos (Nat.sub_self _)]
  refine (State.raiseFrom_sems _ (fld p.opB 32 12) 1 ?_).trans ?_
  · exact hk
  · rw [number]
    rfl

/-! ## A WRITE -/

section
variable {s : State} {k : Nat} {p : Packet}

theorem State.landWrite_faults (hp : p.payload ≠ []) (hm : (s.job k).mapped (fld p.opA 0 57) p.payload.length = false) :
    s.landWrite k p = s.writeFault k (fld p.opA 0 57) := if_pos (by simp [hp, hm])

theorem State.landWrite_lands (hm : (s.job k).mapped (fld p.opA 0 57) p.payload.length = true) : s.landWrite k p =
    ((s.setJob k ((s.job k).hostWrite (fld p.opA 0 57) p.payload)).hubWrite k 6 (fld p.opA 0 57) p.payload.length).messageBytes k p :=
  if_neg (by simp [hm])

variable (hk : k < s.jobs.length)
include hk

theorem State.writeFault_job (a : Nat) : (s.writeFault k a).job k =
    { s.job k with fault := some { core := 0xFFFF, insn := 0, lane := 0, addr := a } } := State.setJob_job s k _ hk

/-- The run of a job as a payload lands: only its bytes change. -/
theorem State.landed_data : ((((s.setJob k ((s.job k).hostWrite (fld p.opA 0 57) p.payload)).hubWrite k 6 (fld p.opA 0 57)
    p.payload.length).job k).run).data = { (s.job k).run.data with mem := memWrite (s.job k).run.mem (fld p.opA 0 57) p.payload } := by
  refine (State.hubWrite_runData _ k 6 (fld p.opA 0 57) p.payload.length k).trans ?_
  unfold State.runData
  rw [State.setJob_job s k _ hk]
  exact congrArg JobRun.data (Job.store_run (s.job k) (fld p.opA 0 57) p.payload)

/-- A payload lands in job memory. -/
theorem State.landWrite_mem (hm : (s.job k).mapped (fld p.opA 0 57) p.payload.length = true) :
    ((s.landWrite k p).job k).run.mem = memWrite (s.job k).run.mem (fld p.opA 0 57) p.payload := by
  rw [State.landWrite_lands hm, State.messageBytes_mem]
  exact (congrArg JobRun.mem (State.landed_data (p := p) hk) :)

/-- A message of one packet that has landed has raised its semaphore. -/
theorem State.landWrite_sems (hm : (s.job k).mapped (fld p.opA 0 57) p.payload.length = true) (hb : bit p.opB 44 = true)
    (hl : fld p.opB 0 32 = p.payload.length)
    (hn : ∀ m ∈ s.herd.messages, ¬ (m.job = p.job ∧ m.src = p.src ∧ m.msg = p.msg)) :
    ((s.landWrite k p).job k).run.sems = NMap.put (s.job k).run.sems (fld p.opB 32 12)
      (NMap.getD (s.job k).run.sems (fld p.opB 32 12) 0 + 1) := by
  have off := State.hubWrite_offTiers (s.setJob k ((s.job k).hostWrite (fld p.opA 0 57) p.payload)) k 6 (fld p.opA 0 57)
    p.payload.length
  have sems : _ = (s.job k).run.sems := (congrArg JobRun.sems (State.landed_data (p := p) hk) :)
  have messages := congrArg Herd.messages (State.herd_of_offTiers off)
  have slots := State.slots_of_offTiers off
  rw [State.landWrite_lands hm]
  generalize (s.setJob k _).hubWrite k 6 (fld p.opA 0 57) p.payload.length = t at sems messages slots ⊢
  rw [State.messageBytes_sems t (slots ▸ (State.setJob_slots s k _).symm ▸ hk) hb hl (messages ▸ hn)]
  exact congrArg (fun m => NMap.put m (fld p.opB 32 12) (NMap.getD m (fld p.opB 32 12) 0 + 1)) sems

end

/-! ## WRITE, SIGNAL and READ_REQ taken -/

section
variable {s : State} {p : Packet} {k : Nat} (hk : s.slotOf p.job = some k) (hf : s.fresh? p = true)
  (ht : s.tableFull p = false) (ho : s.outOfTurn p = false)
include hk hf ht ho

theorem exec_packetWrite (h1 : p.type = 0x01) (hs : (s.job k).info.state = .running) : exec (.packetWrite p) s =
    .next (if (s.job k).blocked (fld p.opA 0 57) p.payload.length true then s
      else if p.payload ≠ [] && s.journalFull k then s.journalStall k else ((s.takePacket p).landWrite k p).received p) := by
  refine (checked_of s _ _ (by simp [h1])).trans (congrArg _ ((State.receive_takes hk (by simp [hs]) hf ht ho).trans ?_))
  rw [State.job_of_offWire (s.takePacket_offWire p), State.journalFull_of_offWire (s.takePacket_offWire p)]

theorem exec_packetSignal (h2 : p.type = 0x02) (hs : (s.job k).info.state = .running) : exec (.packetSignal p) s =
    .next (((s.takePacket p).raiseFrom k (fld p.opA 0 12) (fld p.opB 0 32)).received p) :=
  (checked_of s _ _ (by simp [h2])).trans (congrArg _ (State.receive_takes hk (by simp [hs]) hf ht ho))

theorem exec_packetReadReq (h3 : p.type = 0x03) (hs : (s.job k).info.state.readable = true) : exec (.packetReadReq p) s =
    .next (if (s.job k).blocked p.opA.toNat (fld p.opB 0 32) false then s
      else ((s.accept p).hubRead k 6 p.opA.toNat (fld p.opB 0 32)).sendAll
        (readAnswers s.herd.addr (s.job k) p 0 (cdiv (fld p.opB 0 32) 4096))) := by
  refine (checked_of s _ _ (by simp [h3])).trans (congrArg _ ((State.receive_takes hk (by simp [hs]) hf ht ho).trans ?_))
  rw [State.job_of_offWire (s.takePacket_offWire p), State.herdAddr_of_offWire (s.takePacket_offWire p)]
  rfl

end

@[simp] theorem State.sendAll_jobs (s : State) (ps : List Packet) : (s.sendAll ps).jobs = s.jobs := by
  induction ps generalizing s with
  | nil => rfl
  | cons p ps ih => exact (ih (s.sendPacket p)).trans (s.sendPacket_jobs p)

/-- Each READ_DATA packet takes the next number of its space. -/
theorem State.readAnswers_sendSeq (s : State) (own : Nat) (j : Job) (p : Packet) (off n : Nat) :
    NMap.getD (s.sendAll (readAnswers own j p off n)).herd.sendSeq (spaceKey p.job p.src 2) 0 =
      NMap.getD s.herd.sendSeq (spaceKey p.job p.src 2) 0 + n := by
  induction n generalizing s off with
  | zero => rfl
  | succ n ih =>
    unfold readAnswers State.sendAll
    dsimp only
    rw [ih]
    exact (congrArg (· + n) (State.sendPacket_sendSeq s _)).trans (Nat.add_right_comm _ _ _)

/-! ## READ_DATA -/

section
variable {s : State} {p : Packet} {r : ReadReq} (hr : s.herd.reads.find? (fun r => r.msg == p.msg && r.peer == p.src) = some r)
include hr

theorem State.takeData_adds (h : r.got + p.payload.length < r.total) : (s.takeData p).herd.reads =
    s.herd.reads.filter (fun x => x.msg != r.msg) ++
      [{ r with data := memWrite r.data p.opA.toNat p.payload, got := r.got + p.payload.length }] := by
  unfold State.takeData
  rw [hr]
  dsimp only
  rw [if_neg (Nat.not_le.mpr h)]

theorem State.takeData_gives (h : r.total ≤ r.got + p.payload.length) : s.takeData p =
    ({ s with herd := { s.herd with reads := s.herd.reads.filter (fun x => x.msg != r.msg) } } : State).giveRead
      { r with data := memWrite r.data p.opA.toNat p.payload, got := r.got + p.payload.length } := by
  unfold State.takeData
  rw [hr]
  exact if_pos h

end

theorem State.giveRead_herd (s : State) (r : ReadReq) : (s.giveRead r).herd = s.herd := by
  unfold State.giveRead
  dsimp only
  split
  · rfl
  · split <;> rfl

theorem State.giveRead_body {s : State} {r : ReadReq} (hb : r.body = true) (hk : r.slot < s.jobs.length) :
    (((s.giveRead r).job r.slot).run.stream r.key).peerBuf = memRead r.data 0 r.total := by
  unfold State.giveRead
  dsimp only
  rw [if_pos hb, State.setJob_job s r.slot _ hk, JobRun.setStream_stream]

theorem exec_packetReadData {s : State} {p : Packet} (h4 : p.type = 0x04) (hf : s.fresh? p = true) (ho : s.outOfTurn p = false) :
    exec (.packetReadData p) s = .next ((s.accept p).takeData p) := by
  refine (checked_of s _ _ (by simp [h4])).trans (congrArg _ ((State.receipt_fresh hf _ _).trans ?_))
  rw [State.takePacket_outOfTurn, ho]
  rfl

/-! ## MIRROR -/

theorem Job.mirrored_whole {j : Job} {x : MirrorIn} (hl : x.left = 0) (hx : x.ok = true) : j.mirrored x =
    { j with mirrorIn := none, mirrorItems := x.items
             run := { j.run with mem := x.data.foldl (fun m e => memWrite m e.1 e.2) j.run.mem } } := if_pos (by simp [hl, hx])

theorem Job.mirrored_part {j : Job} {x : MirrorIn} (h : x.left ≠ 0 ∨ x.ok = false) :
    j.mirrored x = { j with mirrorIn := some x } := if_neg (by rcases h with h | h <;> simp [h])

/-- A MIRROR joins its transfer; bytes outside the job's memory are recorded as a fault. -/
def State.mirrorJoins (s : State) (k : Nat) (p : Packet) : State :=
  let a := fld p.opA 0 57
  let j := s.job k
  let t := s.setJob k (j.mirrored ((j.mirrorOf p).take j p))
  if mirrorFirst p || a = 2 ^ 57 - 8192 || j.mapped a p.payload.length then t else t.writeFault k a

theorem State.mirrorJoins_job {s : State} {k : Nat} (p : Packet) (hk : k < s.jobs.length) : ∃ f, (s.mirrorJoins k p).job k =
    { (s.job k).mirrored (((s.job k).mirrorOf p).take (s.job k) p) with fault := f } := by
  have placed := State.setJob_job s k ((s.job k).mirrored (((s.job k).mirrorOf p).take (s.job k) p)) hk
  unfold State.mirrorJoins
  dsimp only
  split
  · exact ⟨_, placed⟩
  · refine ⟨some { core := 0xFFFF, insn := 0, lane := 0, addr := fld p.opA 0 57 },
      (State.writeFault_job ((State.setJob_slots s k _).symm ▸ hk) _).trans ?_⟩
    rw [placed]

section
variable {s : State} {p : Packet} {k : Nat} (hk : s.slotOf p.job = some k) (hs : (s.job k).info.state = .armed)
  (hm : (s.job k).info.mirror = true)
include hk hs hm

theorem State.mirror_accepts : (s.takePacket p).accepting p (fun j => j.info.state == .armed && j.info.mirror) = some k := by
  unfold State.accepting
  rw [State.slotOf_of_offWire (s.takePacket_offWire p), hk]
  dsimp only
  rw [State.job_of_offWire (s.takePacket_offWire p), if_pos (by simp [hs, hm])]

variable (h7 : p.type = 0x07)
include h7

theorem exec_packetMirror_differs (hd : (s.job k).mirrorDiffers p = true) : exec (.packetMirror p) s =
    .next (((s.takePacket p).setJob k { s.job k with mirrorIn := some { src := p.src, msg := p.msg, left := 0, bad := true } }).refusePacket
      p 1) := by
  refine (checked_of s _ _ (by simp [h7])).trans (congrArg _ ?_)
  dsimp only
  rw [State.mirror_accepts hk hs hm]
  dsimp only
  rw [State.job_of_offWire (s.takePacket_offWire p), if_pos hd]

theorem exec_packetMirror_joins (hd : (s.job k).mirrorDiffers p = false) (hf : s.fresh? p = true) (ho : s.outOfTurn p = false) :
    exec (.packetMirror p) s = .next (((s.takePacket p).mirrorJoins k p).received p) := by
  refine (checked_of s _ _ (by simp [h7])).trans (congrArg _ ?_)
  dsimp only
  rw [State.mirror_accepts hk hs hm]
  dsimp only
  rw [if_neg (by rw [State.job_of_offWire (s.takePacket_offWire p)]; simp [hd]), State.receipt_fresh hf,
    State.takePacket_outOfTurn, ho]
  rfl

end

/-- A packet for a job that is not there is refused. -/
theorem jobPacket_noJob {s : State} {i : Instr} {p : Packet} (h : jobPacket i p) (hk : s.slotOf p.job = none) :
    exec i s = .next ((s.takePacket p).refusePacket p 1) := by
  rcases h with ⟨rfl, ht⟩ | ⟨rfl, ht⟩ | ⟨rfl, ht⟩ | ⟨rfl, ht⟩
  · exact (checked_of s _ _ (by simp [ht])).trans (congrArg _ (State.receive_noJob hk))
  · exact (checked_of s _ _ (by simp [ht])).trans (congrArg _ (State.receive_noJob hk))
  · exact (checked_of s _ _ (by simp [ht])).trans (congrArg _ (State.receive_noJob hk))
  · refine (checked_of s _ _ (by simp [ht])).trans (congrArg _ ?_)
    unfold State.accepting
    dsimp only
    rw [State.slotOf_of_offWire (s.takePacket_offWire p), hk]

/-- Settles O49: each packet by how it is received, and by its own effect where it is taken; its receipt is off the wire. -/
theorem packetEffects : Obligations.PacketEffects := by
  unfold Obligations.PacketEffects
  intro s p counted
  have off := s.takePacket_offWire p
  have jobs := State.jobs_of_offWire off
  have job (k : Nat) := State.job_of_offWire off k
  have slot {k : Nat} (hk : s.slotOf p.job = some k) : k < (s.takePacket p).jobs.length := jobs.symm ▸ State.slotOf_lt hk
  have received (u : State) (k : Nat) : (u.received p).job k = u.job k := State.job_of_offWire (u.received_offWire p) k
  refine ⟨fun hf => ⟨fun k hk hs ht hord hsrc hseq h2 => ?_, fun k i hk hs ht hi h7 => ?_, fun ho => ⟨fun k hk hs ht => ?_,
    fun k hk hs ht h3 => ⟨fun hb => ?_, fun hb => ?_⟩, fun r h4 hr => ?_, fun k h7 hk hs hm hd => ?_⟩⟩,
    fun k h7 hk hs hm hd => ?_, fun k i hk hs hi h7 hf => ?_, fun i hk hi => ?_⟩
  · have ho : s.outOfTurn p = true := by simp [State.outOfTurn, hord, hsrc, hseq]
    exact (checked_of s _ _ (by simp [h2])).trans (congrArg _ (State.receive_waits hk (by simp [hs]) hf ht ho))
  · obtain ⟨ok, take, hok, runs⟩ := jobPacket_receives s hi h7
    exact ⟨_, runs.trans (congrArg _ (State.receive_full hk (hok _ hs) hf ht)), State.refusePacket_counts off p 2⟩
  · intro a hit sem lost
    have writes (h1) := exec_packetWrite hk hf ht ho h1 hs
    refine ⟨fun h1 hl => ?_, fun h1 hl hj hp => ?_, fun h1 hh hl hj => ?_, fun h1 hh hl hp hj => ?_, fun h2 => ?_⟩
    · exact (writes h1).trans (congrArg _ (if_pos hl))
    · exact (writes h1).trans (congrArg _ ((if_neg (ne_true_of_eq_false hl)).trans (if_pos (by simp [hp, hj]))))
    · refine ⟨_, (writes h1).trans (congrArg _ ((if_neg (ne_true_of_eq_false hl)).trans (if_neg (by simp [hj])))), ?_⟩
      have mapped : ((s.takePacket p).job k).mapped (fld p.opA 0 57) p.payload.length = true := (job k).symm ▸ hh
      rw [received, State.landWrite_mem (slot hk) mapped, job]
      refine ⟨rfl, fun hb hlen hn => ?_⟩
      rw [State.landWrite_sems (slot hk) mapped hb hlen (State.messages_of_offWire off ▸ hn), job]
    · refine ⟨_, (writes h1).trans (congrArg _ ((if_neg (ne_true_of_eq_false hl)).trans (if_neg (by simp [hj])))), ?_⟩
      rw [received, State.landWrite_faults hp ((job k).symm ▸ hh), State.writeFault_job (slot hk), job]
      exact ⟨rfl, rfl⟩
    · refine ⟨_, exec_packetSignal hk hf ht ho h2 hs, ?_⟩
      have number : fld p.opA 0 12 % 4096 = fld p.opA 0 12 := Nat.mod_eq_of_lt (Nat.mod_lt _ (by decide))
      rw [received, State.raiseFrom_sems _ _ _ (slot hk), job, number]
  · exact (exec_packetReadReq hk hf ht ho h3 hs).trans (congrArg _ (if_pos hb))
  · have reads := (State.hubRead_offTiers (s.accept p) k 6 p.opA.toNat (fld p.opB 0 32))
    refine ⟨_, (exec_packetReadReq hk hf ht ho h3 hs).trans (congrArg _ (if_neg (ne_true_of_eq_false hb))), fun q => ?_, ?_⟩
    · rw [State.job, State.sendAll_jobs]
      exact (State.hubRead_mem _ k 6 _ _ q).trans (congrArg (·.run.mem) (State.job_of_offWire (s.accept_offWire p) q))
    · rw [State.readAnswers_sendSeq, State.herd_of_offTiers reads, State.sendSeq_of_offWire (s.accept_offWire p)]
  · have found : (s.accept p).herd.reads.find? (fun r => r.msg == p.msg && r.peer == p.src) = some r :=
      State.reads_of_offWire (s.accept_offWire p) ▸ hr
    refine ⟨_, exec_packetReadData h4 hf ho, fun h => ?_, fun h => ?_⟩
    · rw [State.takeData_adds found h, State.reads_of_offWire (s.accept_offWire p)]
    · rw [State.takeData_gives found h, State.giveRead_herd, State.reads_of_offWire (s.accept_offWire p)]
      exact ⟨rfl, fun hb hr => State.giveRead_body hb ((State.jobs_of_offWire (s.accept_offWire p)).symm ▸ hr)⟩
  · intro x
    obtain ⟨f, joined⟩ := State.mirrorJoins_job p (slot hk)
    rw [job] at joined
    refine ⟨_, exec_packetMirror_joins hk hs hm h7 hd hf ho, fun hl hx => ?_, fun h => ?_⟩
    · rw [received, joined, Job.mirrored_whole hl hx]
      exact ⟨rfl, rfl, rfl⟩
    · rw [received, joined, Job.mirrored_part h]
      exact ⟨rfl, rfl⟩
  · obtain ⟨same, counts⟩ := State.refusePacket_counts (s := (s.takePacket p).setJob k { s.job k with
      mirrorIn := some { src := p.src, msg := p.msg, left := 0, bad := true } }) rfl p 1
    refine ⟨_, exec_packetMirror_differs hk hs hm h7 hd, ?_, counts.trans ?_⟩
    · rw [State.job, same]
      exact (congrArg Job.run (State.setJob_job (s.takePacket p) k _ (slot hk))).trans rfl
    · exact (congrArg (fun m => min (2 ^ 64 - 1) (NMap.getD m 0x38 0 + 1)) (State.herdCtr_of_offWire off) :)
  · obtain ⟨ok, take, hok, runs⟩ := jobPacket_receives s hi h7
    refine ⟨_, runs.trans (congrArg _ (State.receive_stale hk (hok _ hs) hf)), ?_⟩
    have refuses := State.refusePacket_counts off p 1
    cases hseen : (s.flowFor p).seen p.seq with
    | false => exact ⟨refuses.1, fun h => absurd h Bool.false_ne_true, fun _ => refuses⟩
    | true =>
      have acks := (State.ackFlows_offWire (s.takePacket p) [s.flowFor p]).trans off
      obtain ⟨hj, hsrc, hc⟩ := s.flowFor_is p
      refine ⟨State.jobs_of_offWire acks, fun _ => ⟨State.herdCtr_of_offWire acks, fun f hf' h1 h2 h3 => ?_⟩,
        fun h => absurd h.symm Bool.false_ne_true⟩
      exact State.ackFlows_clears _ _ f hf' (h1.trans hj.symm) (h2.trans hsrc.symm) (h3.trans hc.symm)
  · exact ⟨_, jobPacket_noJob hi hk, State.refusePacket_counts off p 1⟩

end Sys2Proof.Machine
end

section
/-! SUPPORT. What sending leaves of the links: a link that is UP keeps all but its output, its retry buffer, its credits and its turns, and one
that is not UP stays as it is (R376, R378, R396). -/

namespace Sys2Proof.Machine

/-! ## Counters (R139) -/

theorem getD_bump_same (m : NMap Nat) (off k : Nat) (hk : 0 < k) :
    NMap.getD (bump m off k) off 0 = min (2 ^ 64 - 1) (NMap.getD m off 0 + k) := by
  rw [bump, if_neg (Nat.pos_iff_ne_zero.mp hk), NMap.getD_put_same]

theorem getD_bump_ne (m : NMap Nat) (off k : Nat) {q : Nat} (h : q ≠ off) : NMap.getD (bump m off k) q 0 = NMap.getD m q 0 := by
  unfold bump
  split
  · rfl
  · exact NMap.getD_put_ne _ _ _ _ _ h

/-! ## Lines -/

/-- A link less what sending changes of it: its output, its retry buffer, its numbers, credits and turns, and its count of flits sent. -/
def Link.line (l : Link) : Link :=
  { l with outQ := [], retry := [], txSeq := 0, credits := [], records := 0, turn := 0, deficits := [], ctr := NMap.put l.ctr 0x48 0 }

section
variable {l m : Link} (h : m.line = l.line)
include h

theorem Link.state_of_line : m.state = l.state := (congrArg Link.state h :)
theorem Link.width_of_line : m.width = l.width := (congrArg Link.width h :)
theorem Link.active_of_line : m.active = l.active := (congrArg Link.active h :)
theorem Link.spare_of_line : m.spare = l.spare := (congrArg Link.spare h :)
theorem Link.encrypted_of_line : m.encrypted = l.encrypted := (congrArg Link.encrypted h :)
theorem Link.failures_of_line : m.failures = l.failures := (congrArg Link.failures h :)
theorem Link.peerId_of_line : m.peerId = l.peerId := (congrArg Link.peerId h :)
theorem Link.peerDepth_of_line : m.peerDepth = l.peerDepth := (congrArg Link.peerDepth h :)
theorem Link.peerAddr_of_line : m.peerAddr = l.peerAddr := (congrArg Link.peerAddr h :)
theorem Link.txKey_of_line : m.txKey = l.txKey := (congrArg Link.txKey h :)
theorem Link.rxKeys_of_line : m.rxKeys = l.rxKeys := (congrArg Link.rxKeys h :)
theorem Link.keyEpoch_of_line : m.keyEpoch = l.keyEpoch := (congrArg Link.keyEpoch h :)
theorem Link.rxSeq_of_line : m.rxSeq = l.rxSeq := (congrArg Link.rxSeq h :)
theorem Link.rxFlits_of_line : m.rxFlits = l.rxFlits := (congrArg Link.rxFlits h :)
theorem Link.control_of_line : m.control = l.control := (congrArg Link.control h :)
theorem Link.heard_of_line : m.heard = l.heard := (congrArg Link.heard h :)
theorem Link.fresh_of_line : m.fresh = l.fresh := (congrArg Link.fresh h :)
theorem Link.vec_of_line : m.vec = l.vec := (congrArg Link.vec h :)

theorem Link.ctr_of_line {off : Nat} (ho : off ≠ 0x48) : NMap.getD m.ctr off 0 = NMap.getD l.ctr off 0 := by
  have same := congrArg (fun l : Link => NMap.getD l.ctr off 0) h
  simp only [Link.line, NMap.getD_put_ne _ _ _ _ _ ho] at same
  exact same

end

theorem put_bump_same (m : NMap Nat) (off k v : Nat) : NMap.put (bump m off k) off v = NMap.put m off v := by
  unfold bump
  split
  · rfl
  · exact NMap.put_put_same _ _ _ _

theorem Link.transmit_line (l : Link) (p : Packet) : (l.transmit p).line = l.line :=
  (congrArg (fun c => { l.line with ctr := c }) (put_bump_same _ _ _ _) :)

theorem Link.closed_line (l : Link) : l.closed.line = l.line := rfl

theorem Link.sendOne_line {l l' : Link} {own w chan : Nat} (h : l.sendOne own w chan = some l') : l'.line = l.line := by
  unfold Link.sendOne at h
  split at h
  · cases h
  · split at h
    · cases h
      exact l.transmit_line _
    · cases h

theorem Link.pump_line (l : Link) (own w fuel : Nat) : (l.pump own w fuel).line = l.line := by
  induction fuel generalizing l with
  | zero => rfl
  | succ k ih =>
    unfold Link.pump
    split
    next l' h => exact (ih l').trans (Link.sendOne_line h)
    next =>
      dsimp only
      split
      · rfl
      next c hc =>
        have goes : (l.sendOne own w c).isSome = true := List.find?_some (p := fun c => (l.sendOne own w c).isSome) hc
        obtain ⟨l', hl⟩ := Option.isSome_iff_exists.mp goes
        have sent := Link.sendOne_line hl
        rw [ih, hl]
        exact sent

/-! ## States that send -/

/-- From `s` to `t` the links have only sent: each keeps its line, and one that is not UP is as it was. -/
def State.Sends (s t : State) : Prop :=
  ∀ n, (t.link n).line = (s.link n).line ∧ ((s.link n).state ≠ .up → t.link n = s.link n)

theorem State.Sends.refl (s : State) : s.Sends s := fun _ => ⟨rfl, fun _ => rfl⟩

theorem State.Sends.trans {s t u : State} (h : s.Sends t) (g : t.Sends u) : s.Sends u := fun n =>
  ⟨(g n).1.trans (h n).1, fun hn => ((g n).2 (Link.state_of_line (h n).1 ▸ hn)).trans ((h n).2 hn)⟩

theorem State.Sends.of_links {s t : State} (h : t.links = s.links) : s.Sends t := fun n =>
  have same : t.link n = s.link n := congrArg (fun ls : List Link => ls.getD n {}) h
  ⟨congrArg Link.line same, fun _ => same⟩

theorem State.Sends.line {s t : State} (h : s.Sends t) (n : Nat) : (t.link n).line = (s.link n).line := (h n).1

theorem State.Sends.state {s t : State} (h : s.Sends t) (n : Nat) : (t.link n).state = (s.link n).state :=
  Link.state_of_line (h.line n)

theorem State.Sends.still {s t : State} (h : s.Sends t) {n : Nat} (hn : (s.link n).state ≠ .up) : t.link n = s.link n := (h n).2 hn

theorem State.Sends.upLinks {s t : State} (h : s.Sends t) : t.upLinks = s.upLinks := by
  unfold State.upLinks
  simp only [h.state]

theorem State.Sends.foldl {α : Type} {f : State → α → State} {l : List α} (h : ∀ s : State, ∀ a ∈ l, s.Sends (f s a)) (s : State) :
    s.Sends (l.foldl f s) := by
  induction l generalizing s with
  | nil => exact .refl s
  | cons a l ih =>
    exact (h s a List.mem_cons_self).trans (ih (fun s a ha => h s a (List.mem_cons_of_mem _ ha)) _)

/-- A link that is UP is one of the P6's. -/
theorem State.lt_of_up {s : State} {n : Nat} (h : (s.link n).state = .up) : n < s.links.length := by
  by_contra hn
  have none : s.link n = {} := by simp [State.link, List.getD, List.getElem?_eq_none (Nat.le_of_not_lt hn)]
  rw [none] at h
  cases h

theorem State.setLink_link_ne (s : State) {n q : Nat} (l : Link) (h : q ≠ n) : (s.setLink n l).link q = s.link q := by
  simp [State.link, State.setLink, Ne.symm h]

theorem State.setLink_sends {s : State} {n : Nat} {l : Link} (hu : (s.link n).state = .up) (hl : l.line = (s.link n).line) :
    s.Sends (s.setLink n l) := fun q => by
  by_cases hq : q = n
  · subst hq
    rw [State.setLink_link s q l (State.lt_of_up hu)]
    exact ⟨hl, fun h => absurd hu h⟩
  · rw [State.setLink_link_ne s l hq]
    exact ⟨rfl, fun _ => rfl⟩

theorem State.pumpLink_sends (s : State) (n : Nat) : s.Sends (s.pumpLink n) := by
  unfold State.pumpLink
  dsimp only
  split
  next h => exact State.setLink_sends (beq_iff_eq.mp h) ((Link.closed_line _).trans (Link.pump_line _ _ _ _))
  next => exact .refl s

theorem State.sendLocal_sends (s : State) (n type : Nat) (payload : List Byte) : s.Sends (s.sendLocal n type payload) := by
  unfold State.sendLocal
  dsimp only
  split
  · exact .refl s
  next h =>
    have up : (s.link n).state = .up := by simpa using h
    refine State.Sends.trans ?_ (State.pumpLink_sends _ n)
    exact State.setLink_sends up rfl

theorem State.putOn_sends {s : State} {n : Nat} (p : Packet) (hu : (s.link n).state = .up) : s.Sends (s.putOn n p) := by
  unfold State.putOn
  dsimp only
  have pinned : (if (p.ordered && !s.herd.pins.any (sameFlow p)) = true then
      { s with herd := { s.herd with pins := s.herd.pins ++ [flowOf p n] } } else s).links = s.links := by split <;> rfl
  generalize (if (p.ordered && !s.herd.pins.any (sameFlow p)) = true then _ else s) = t at pinned ⊢
  have start := State.Sends.of_links pinned
  refine start.trans (State.Sends.trans ?_ (State.pumpLink_sends _ n))
  exact State.setLink_sends ((start.state n).trans hu) rfl

/-! ## Links that packets may take (R391 to R393) -/

theorem State.bestLink_mem {s : State} {allowed : List Nat} {chan n : Nat} (h : s.bestLink allowed chan = some n) : n ∈ allowed :=
  List.mem_of_find?_eq_some h

/-- A packet takes a link that it is allowed. -/
theorem State.linkFor_mem {s : State} {p : Packet} {n : Nat} (h : s.linkFor p = some n) : n ∈ s.allowed p := by
  unfold State.linkFor at h
  dsimp only at h
  split at h
  · split at h
    · cases h
    · split at h
      · split at h
        next hc =>
          cases h
          exact List.contains_iff_mem.mp hc
        next => cases h
      · exact State.bestLink_mem h
  · exact State.bestLink_mem h

theorem State.up_of_allowed {s : State} {p : Packet} {n : Nat} (h : n ∈ s.allowed p) : (s.link n).state = .up := by
  have taken := (List.mem_filter.mp h).2
  simp only [Bool.and_eq_true, beq_iff_eq] at taken
  exact taken.1.2

theorem State.up_of_linkFor {s : State} {p : Packet} {n : Nat} (h : s.linkFor p = some n) : (s.link n).state = .up :=
  State.up_of_allowed (State.linkFor_mem h)

/-- With no link UP a packet finds none. -/
theorem State.linkFor_none {s : State} (h : ∀ n, (s.link n).state ≠ .up) (p : Packet) : s.linkFor p = none :=
  Option.eq_none_iff_forall_ne_some.mpr fun n hn => h n (State.up_of_linkFor hn)

theorem State.trySend_sends (s : State) (p : Packet) : s.Sends (s.trySend p) := by
  unfold State.trySend
  dsimp only
  split
  · exact .of_links rfl
  next n hn =>
    split
    · exact (State.Sends.of_links rfl).trans (State.putOn_sends p (State.up_of_linkFor hn))
    · exact .of_links rfl

theorem State.retryWaiting_sends (s : State) (ps : List Packet) : s.Sends (s.retryWaiting ps) := by
  induction ps generalizing s with
  | nil => exact .refl s
  | cons p ps ih => exact (s.trySend_sends p).trans (ih _)

@[simp] theorem State.wakeCores_links (s : State) (w : CoreWait) : (s.wakeCores w).links = s.links := by
  unfold State.wakeCores
  split <;> rfl

@[simp] theorem State.wakeCores_herd (s : State) (w : CoreWait) : (s.wakeCores w).herd = s.herd := by
  unfold State.wakeCores
  split <;> rfl

theorem State.wakeSenders_sends (s : State) : s.Sends s.wakeSenders :=
  .trans (.trans (.of_links rfl) (State.retryWaiting_sends { s with herd := { s.herd with waiting := [] } } s.herd.waiting))
    (.of_links (State.wakeCores_links _ _))

/-- With nothing waiting no packet goes. -/
theorem State.wakeSenders_links {s : State} (h : s.herd.waiting = []) : s.wakeSenders.links = s.links := by
  unfold State.wakeSenders
  rw [h, State.wakeCores_links]
  rfl

theorem State.wakeSenders_herd {s : State} (h : s.herd.waiting = []) : s.wakeSenders.herd = s.herd := by
  unfold State.wakeSenders
  rw [h, State.wakeCores_herd]
  exact (congrArg (fun w => { s.herd with waiting := w }) h.symm :)

theorem State.sendReply_sends (s : State) (p : Packet) : s.Sends (s.sendReply p) := by
  unfold State.sendReply
  split
  · exact .of_links rfl
  · split
    · exact .refl s
    next n hn => exact State.putOn_sends p (State.up_of_linkFor hn)

theorem State.passOn_sends (s : State) (p : Packet) : s.Sends (s.passOn p) := by
  unfold State.passOn
  split
  · exact .of_links rfl
  · split
    next n hn => exact State.putOn_sends p (State.up_of_linkFor hn)
    next => exact .of_links rfl

end Sys2Proof.Machine
end

section
/-! SUPPORT. What the census and routing leave alone (R386 to R393): the links only send, and of the herd its packets, its counters and the
tables in use stay. -/

namespace Sys2Proof.Machine

/-! ## Off the links -/

/-- A state less its links, its ports, free values and island clocks. -/
def State.inner (s : State) : State := { s.offPorts with links := [] }

theorem State.inner_of_offPorts {s t : State} (h : t.offPorts = s.offPorts) : t.inner = s.inner :=
  (congrArg (fun u : State => { u with links := [] }) h :)

section
variable {s t : State} (h : t.inner = s.inner)
include h

theorem State.herd_of_inner : t.herd = s.herd := (congrArg State.herd h :)
theorem State.flash_of_inner : t.flash = s.flash := (congrArg State.flash h :)

end

@[simp] theorem State.setLink_inner (s : State) (n : Nat) (l : Link) : (s.setLink n l).inner = s.inner := rfl

@[simp] theorem State.pumpLink_inner (s : State) (n : Nat) : (s.pumpLink n).inner = s.inner := by
  unfold State.pumpLink
  dsimp only
  split <;> rfl

@[simp] theorem State.sendLocal_inner (s : State) (n type : Nat) (payload : List Byte) :
    (s.sendLocal n type payload).inner = s.inner := by
  unfold State.sendLocal
  dsimp only
  split
  · rfl
  · rw [State.pumpLink_inner, State.setLink_inner]

@[simp] theorem State.herdChange_inner (s : State) (cause : Nat) : (s.herdChange cause).inner = s.inner :=
  State.inner_of_offPorts (State.deviceEvent_offPorts _ _)

@[simp] theorem State.herdChange_herd (s : State) (cause : Nat) : (s.herdChange cause).herd = s.herd :=
  State.herd_of_inner (s.herdChange_inner cause)

theorem State.deviceEvent_links (s : State) (e : Event) : (s.deviceEvent e).links = s.links :=
  (congrArg State.links (s.deviceEvent_offPorts e) :)

/-- A packet to each of several neighbours leaves the state but for its links as it was. -/
theorem State.sendLocals_inner (s : State) (ns : List Nat) (type : Nat) (payload : State → List Byte) :
    (ns.foldl (fun (s : State) n => s.sendLocal n type (payload s)) s).inner = s.inner :=
  foldl_keeps State.inner _ (fun s n => s.sendLocal_inner n type _) ns s

/-! ## Census steps -/

/-- The herd less its census, its tables in the making and what it told on channel 0. -/
def Herd.traffic (h : Herd) : Herd :=
  { h with role := 0, depth := 0, addr := 0, leader := 0, beat := 0, leadBeat := 0, parent := none, epoch := 0, members := 0, book := []
           member := [], newRoutes := none, hellos := [], joins := [], answers := [], vectors := [], ties := [], absent := []
           adrift := false, relearn := false }

/-- From `s` to `t` there is census only: the links have sent, the herd keeps its traffic, and no new tie is known. -/
structure State.Censuses (s t : State) : Prop where
  sends : s.Sends t
  traffic : t.herd.traffic = s.herd.traffic
  ties : ∀ e ∈ t.herd.ties, e ∈ s.herd.ties

theorem State.Censuses.refl (s : State) : s.Censuses s := ⟨.refl s, rfl, fun _ h => h⟩

theorem State.Censuses.trans {s t u : State} (h : s.Censuses t) (g : t.Censuses u) : s.Censuses u :=
  ⟨h.sends.trans g.sends, g.traffic.trans h.traffic, fun e he => h.ties e (g.ties e he)⟩

/-- A step that sends, and leaves the herd as a census step from the same herd leaves it. -/
theorem State.Censuses.of_herd {s t : State} (hl : s.Sends t) (ht : t.herd.traffic = s.herd.traffic) (hd : t.herd.ties = s.herd.ties) :
    s.Censuses t := ⟨hl, ht, fun _ h => hd ▸ h⟩

theorem State.Censuses.of_inner {s t : State} (hl : s.Sends t) (h : t.inner = s.inner) : s.Censuses t :=
  .of_herd hl (congrArg Herd.traffic (State.herd_of_inner h)) (congrArg Herd.ties (State.herd_of_inner h))

section
variable {s t : State} (h : s.Censuses t)
include h

theorem State.Censuses.ctr : t.herd.ctr = s.herd.ctr := (congrArg Herd.ctr h.traffic :)
theorem State.Censuses.via : t.herd.via = s.herd.via := (congrArg Herd.via h.traffic :)
theorem State.Censuses.routes : t.herd.routes = s.herd.routes := (congrArg Herd.routes h.traffic :)

end

theorem State.sendLocals_censuses (s : State) (ns : List Nat) (type : Nat) (payload : State → List Byte) :
    s.Censuses (ns.foldl (fun (s : State) n => s.sendLocal n type (payload s)) s) :=
  .of_inner (.foldl (fun s n _ => s.sendLocal_sends n type _) s) (s.sendLocals_inner ns type payload)

theorem State.herdChange_censuses (s : State) (cause : Nat) : s.Censuses (s.herdChange cause) :=
  .of_inner (.of_links (s.deviceEvent_links _)) (s.herdChange_inner cause)

/-! ## Tables in the making (R391) -/

/-- The tables that routing works out from the neighbours' vectors (R391). -/
def State.tables (s : State) : NMap (Nat × Nat) :=
  (s.destinations.filter (fun t => t != s.herd.addr)).foldl (fun m t => NMap.put m t (s.routeTo t)) []

/-- This module's own vector (R391). -/
def State.ownVector (s : State) : List VectorEntry :=
  s.destinations.map (fun t => let d := s.distances t; (⟨t, d.1, d.2⟩ : VectorEntry))

theorem State.reroute_idle {s : State} (h : s.herd.role = 0 ∨ s.herd.role = 3) : s.reroute = s :=
  if_pos (by simpa using h)

theorem State.reroute_makes {s : State} (h0 : s.herd.role ≠ 0) (h3 : s.herd.role ≠ 3) : s.reroute =
    s.upLinks.foldl (fun (t : State) n => t.sendLocal n 0x21 (Config.vectorBytes s.ownVector)) { s with herd := { s.herd with
      newRoutes := some s.tables, vectors := s.upLinks.map (fun n => (n, s.ownVector)) } } :=
  if_neg (by simp [h0, h3])

/-- Making new tables changes only the herd's tables in the making, and what leaves on the links. -/
theorem State.reroute_inner (s : State) : ∃ r v,
    s.reroute.inner = ({ s with herd := { s.herd with newRoutes := r, vectors := v } } : State).inner := by
  by_cases h : s.herd.role = 0 ∨ s.herd.role = 3
  · exact ⟨s.herd.newRoutes, s.herd.vectors, congrArg State.inner (State.reroute_idle h)⟩
  · obtain ⟨h0, h3⟩ := not_or.mp h
    rw [State.reroute_makes h0 h3]
    exact ⟨_, _, State.sendLocals_inner _ _ _ (fun _ => Config.vectorBytes s.ownVector)⟩

theorem State.reroute_herd (s : State) : ∃ r v, s.reroute.herd = { s.herd with newRoutes := r, vectors := v } :=
  let ⟨r, v, h⟩ := s.reroute_inner
  ⟨r, v, (congrArg State.herd h :)⟩

theorem State.reroute_flash (s : State) : s.reroute.flash = s.flash :=
  let ⟨_, _, h⟩ := s.reroute_inner
  (congrArg State.flash h :)

theorem State.reroute_newRoutes {s : State} (h0 : s.herd.role ≠ 0) (h3 : s.herd.role ≠ 3) :
    s.reroute.herd.newRoutes = some s.tables := by
  rw [State.reroute_makes h0 h3]
  exact congrArg Herd.newRoutes (State.herd_of_inner (State.sendLocals_inner _ _ _ (fun _ => Config.vectorBytes s.ownVector)))

theorem State.reroute_censuses (s : State) : s.Censuses s.reroute := by
  have sends : s.Sends s.reroute := by
    by_cases h : s.herd.role = 0 ∨ s.herd.role = 3
    · rw [State.reroute_idle h]
      exact .refl s
    · obtain ⟨h0, h3⟩ := not_or.mp h
      rw [State.reroute_makes h0 h3]
      exact (State.Sends.of_links rfl).trans (State.sendLocals_censuses _ _ _ (fun _ => Config.vectorBytes s.ownVector)).sends
  obtain ⟨r, v, h⟩ := s.reroute_herd
  exact .of_herd sends (h ▸ rfl) (h ▸ rfl)

/-! ## HELLOs and JOINs (R386, R387) -/

/-- The herd of a module that has just sent its HELLOs (R386). -/
def State.greeted (s : State) : Herd :=
  let h := if s.herd.role = 2 then { s.herd with beat := s.herd.beat + 1 } else s.herd
  { h with hellos := s.upLinks.map (fun n => (n, ({ s with herd := h } : State).helloMsg)) }

theorem State.sendHellos_inner (s : State) : s.sendHellos.inner = ({ s with herd := s.greeted } : State).inner :=
  State.sendLocals_inner _ _ _ (fun s => Config.helloBytes s.helloMsg)

theorem State.sendHellos_herd (s : State) : s.sendHellos.herd = s.greeted := State.herd_of_inner s.sendHellos_inner

theorem State.sendHellos_censuses (s : State) : s.Censuses s.sendHellos := by
  have greets : s.Censuses { s with herd := s.greeted } := by
    refine .of_herd (.of_links rfl) ?_ ?_ <;> (unfold State.greeted; dsimp only; split <;> rfl)
  exact greets.trans (State.sendLocals_censuses _ _ _ (fun s => Config.helloBytes s.helloMsg))

theorem State.sendJoin_herd {s : State} {n : Nat} (h : s.herd.parent = some n) (j : JoinMsg) :
    (s.sendJoin j).herd = { s.herd with joins := s.herd.joins ++ [j] } := by
  unfold State.sendJoin
  rw [h]
  exact State.herd_of_inner (State.sendLocal_inner _ _ _ _)

theorem State.sendJoin_joins (s : State) (j : JoinMsg) : ∃ js, (s.sendJoin j).herd = { s.herd with joins := js } := by
  cases h : s.herd.parent with
  | none =>
    unfold State.sendJoin
    rw [h]
    exact ⟨s.herd.joins, rfl⟩
  | some n => exact ⟨_, State.sendJoin_herd h j⟩

theorem State.sendJoin_censuses (s : State) (j : JoinMsg) : s.Censuses (s.sendJoin j) := by
  have sends : s.Sends (s.sendJoin j) := by
    unfold State.sendJoin
    split
    · exact (State.Sends.of_links rfl).trans (State.sendLocal_sends _ _ _ _)
    · exact .refl s
  obtain ⟨js, h⟩ := s.sendJoin_joins j
  exact .of_herd sends (h ▸ rfl) (h ▸ rfl)

/-! ## The leader (R386, R387, R403) -/

@[simp] theorem State.keepBook_herd (s : State) (a : Nat) (book : Option (List (Nat × W64))) : (s.keepBook a book).herd = s.herd := by
  unfold State.keepBook
  split <;> rfl

@[simp] theorem State.keepBook_links (s : State) (a : Nat) (book : Option (List (Nat × W64))) : (s.keepBook a book).links = s.links := by
  unfold State.keepBook
  split <;> rfl

theorem State.lead_censuses (s : State) : s.Censuses s.lead := by
  unfold State.lead
  dsimp only
  refine ⟨.of_links (State.keepBook_links _ _ _), ?_, ?_⟩
  · rw [State.keepBook_herd]
    rfl
  · rw [State.keepBook_herd]
    exact fun e he => absurd he List.not_mem_nil

theorem State.standAlone_censuses (s : State) : s.Censuses s.standAlone := by
  have alone : s.Censuses { s with herd := { s.herd with role := 0, leader := 0, depth := 0, parent := none, members := 1, addr := 0
                                                         adrift := false, epoch := s.herd.epoch + 1 } } := .of_herd (.of_links rfl) rfl rfl
  exact alone.trans ((State.sendHellos_censuses _).trans (State.herdChange_censuses _ 3))

theorem State.follow_censuses (s : State) : s.Censuses s.follow := by
  have herd (t : State) (h : Herd) (ht : h.traffic = t.herd.traffic) (hd : h.ties = t.herd.ties) : t.Censuses { t with herd := h } :=
    .of_herd (.of_links rfl) ht hd
  unfold State.follow
  dsimp only
  split
  · exact .refl s
  · split
    · split <;> exact herd s _ rfl rfl
    next c _ =>
      have greets (t : State) : t.Censuses (t.reroute.sendHellos) := t.reroute_censuses.trans (State.sendHellos_censuses _)
      split
      · refine .trans ?_ (.trans (greets _) (State.herdChange_censuses _ 3))
        split
        · refine .trans ?_ (State.lead_censuses _)
          exact herd s _ rfl rfl
        · refine .trans ?_ (State.sendJoin_censuses _ _)
          exact herd s _ rfl rfl
      · split
        · refine .trans ?_ (greets _)
          exact herd s _ rfl rfl
        · exact herd s _ rfl rfl

/-! ## Members (R387 to R389) -/

theorem State.tell_inner (s : State) (x : W64) (m : CensusMsg) :
    (s.tell x m).inner = ({ s with herd := { s.herd with answers := s.herd.answers ++ [(x, m)] } } : State).inner := by
  unfold State.tell
  dsimp only
  split
  · exact State.sendLocal_inner _ _ _ _
  · rfl

theorem State.tell_herd (s : State) (x : W64) (m : CensusMsg) :
    (s.tell x m).herd = { s.herd with answers := s.herd.answers ++ [(x, m)] } := State.herd_of_inner (s.tell_inner x m)

theorem State.tell_censuses (s : State) (x : W64) (m : CensusMsg) : s.Censuses (s.tell x m) := by
  have sends : s.Sends (s.tell x m) := by
    unfold State.tell
    dsimp only
    split
    · exact (State.Sends.of_links rfl).trans (State.sendLocal_sends _ _ _ _)
    · exact .of_links rfl
  exact .of_herd sends (s.tell_herd x m ▸ rfl) (s.tell_herd x m ▸ rfl)

theorem State.tellAll_inner (s : State) (xs : List W64) (m : CensusMsg) : (s.tellAll xs m).inner =
    ({ s with herd := { s.herd with answers := s.herd.answers ++ xs.map (fun x => (x, m)) } } : State).inner := by
  induction xs generalizing s with
  | nil => rw [List.map_nil, List.append_nil]; rfl
  | cons x xs ih =>
    refine (ih (s.tell x m)).trans ?_
    rw [State.tell_herd, List.map_cons, ← List.append_cons]
    exact (congrArg (fun u : State => { u with herd := { s.herd with answers := s.herd.answers ++ (x, m) :: xs.map (fun x => (x, m)) } })
      (s.tell_inner x m) :)

theorem State.tellAll_herd (s : State) (xs : List W64) (m : CensusMsg) :
    (s.tellAll xs m).herd = { s.herd with answers := s.herd.answers ++ xs.map (fun x => (x, m)) } :=
  State.herd_of_inner (s.tellAll_inner xs m)

theorem State.tellAll_flash (s : State) (xs : List W64) (m : CensusMsg) : (s.tellAll xs m).flash = s.flash :=
  (congrArg State.flash (s.tellAll_inner xs m) :)

theorem State.tellAll_censuses (s : State) (xs : List W64) (m : CensusMsg) : s.Censuses (s.tellAll xs m) := by
  induction xs generalizing s with
  | nil => exact .refl s
  | cons x xs ih => exact (s.tell_censuses x m).trans (ih _)

/-- The members that the leader can reach, or has heard from just now (R387, R389; log entry 140). -/
def State.here (s : State) (heard : List W64) : List W64 := s.reached s.herd.member.length (Config.identity :: heard)

/-- The herd less the members that have left. -/
def Herd.settled (h : Herd) (here : List W64) : Herd :=
  let member := h.member.filter (fun x => here.contains x)
  { h with member, members := member.length, absent := h.absent ++ h.member.filter (fun x => !here.contains x)
           ties := h.ties.filter (fun e => here.contains e.1) }

theorem State.settleMembers_follower {s : State} (h : s.herd.role ≠ 2) (heard : List W64) : s.settleMembers heard = s := if_pos h

/-- With every member in reach the leader does nothing. -/
theorem State.settleMembers_all {s : State} {heard : List W64} (h : ∀ x ∈ s.herd.member, x ∈ s.here heard) :
    s.settleMembers heard = s := by
  unfold State.settleMembers
  dsimp only
  split
  · rfl
  · refine if_pos (List.filter_eq_nil_iff.mpr fun x hx => ?_)
    simpa [State.here] using h x hx

/-- Members that have left leave the herd, and the others hear of it. -/
theorem State.settleMembers_left {s : State} {heard : List W64} {x : W64} (h2 : s.herd.role = 2) (hx : x ∈ s.herd.member)
    (hn : x ∉ s.here heard) : s.settleMembers heard =
      (({ s with herd := s.herd.settled (s.here heard) } : State).tellAll
        ((s.herd.settled (s.here heard)).member.filter (fun x => x != Config.identity))
        ((s.herd.settled (s.here heard)).notice none false 2)).reroute.herdChange 2 := by
  have left : s.herd.member.filter (fun x => !(s.here heard).contains x) ≠ [] := fun h =>
    List.filter_eq_nil_iff.mp h x hx (by simpa using hn)
  unfold State.settleMembers
  dsimp only
  rw [if_neg (not_not_intro h2)]
  exact if_neg left

theorem State.settleMembers_censuses (s : State) (heard : List W64) : s.Censuses (s.settleMembers heard) := by
  by_cases h2 : s.herd.role = 2
  · by_cases hall : ∀ x ∈ s.herd.member, x ∈ s.here heard
    · rw [State.settleMembers_all hall]
      exact .refl s
    · push Not at hall
      obtain ⟨x, hx, hn⟩ := hall
      rw [State.settleMembers_left h2 hx hn]
      have settles : s.Censuses { s with herd := s.herd.settled (s.here heard) } :=
        ⟨.of_links rfl, rfl, fun e he => List.mem_of_mem_filter he⟩
      exact settles.trans ((State.tellAll_censuses _ _ _).trans ((State.reroute_censuses _).trans (State.herdChange_censuses _ 2)))
  · rw [State.settleMembers_follower h2]
    exact .refl s

theorem State.linkChanged_censuses (s : State) : s.Censuses s.linkChanged := by
  unfold State.linkChanged
  split
  · have made := s.follow_censuses.trans ((State.sendHellos_censuses _).trans (State.reroute_censuses _))
    dsimp only
    split
    · exact made.trans (State.sendJoin_censuses _ _)
    · exact made.trans (State.settleMembers_censuses _ _)
  · exact .refl s

end Sys2Proof.Machine
end

section
/-! O46: bring-up, lost lanes and administrative state of a link (R372, R373, R381, R394, R397, R399, R466). -/

namespace Sys2Proof.Machine

/-! ## Reports and retirements leave the links -/

@[simp] theorem State.unitEvent_links (s : State) (code kind action unit logical sub : Nat) :
    (s.unitEvent code kind action unit logical sub).links = s.links :=
  (congrArg State.links (s.unitEvent_unreported code kind action unit logical sub) :)

@[simp] theorem State.noteRetired_links (s : State) (u : UnitId) : (s.noteRetired u).links = s.links := by
  unfold State.noteRetired
  split <;> rfl

@[simp] theorem State.retrained_links (s : State) (n : Nat) (old : Link) (w : Nat) (spare : Option Nat) (lost : Nat) :
    (s.retrained n old w spare lost).links = s.links := by
  unfold State.retrained
  dsimp only
  split
  · exact State.unitEvent_links _ _ _ _ _ _ _
  · split
    · exact State.unitEvent_links _ _ _ _ _ _ _
    · rfl

theorem State.link_of_links {s t : State} (h : t.links = s.links) (n : Nat) : t.link n = s.link n :=
  congrArg (fun ls : List Link => ls.getD n {}) h

/-! ## Links that leave UP (R394) -/

/-- What waited at the output of a link only goes on by links that are UP. -/
theorem State.shed_sends (s : State) (n : Nat) : (s.setLink n { s.link n with outQ := [] }).Sends (s.shed n) := by
  unfold State.shed
  refine .foldl (fun u p _ => ?_) _
  split
  · exact .refl u
  · split
    · exact u.passOn_sends _
    · split
      · exact u.sendReply_sends _
      · exact .refl u

/-- A link that is no longer UP keeps all but its output. -/
theorem State.linkLost_link {s : State} {n : Nat} (hn : n < s.links.length) (h : (s.link n).state ≠ .up) :
    (s.linkLost n).link n = { s.link n with outQ := [] } := by
  have set := State.setLink_link s n { s.link n with outQ := [] } hn
  refine (State.Sends.still ((s.shed_sends n).trans (State.linkChanged_censuses _).sends) ?_).trans set
  rw [set]
  exact h

/-- A link put in a state other than UP, and then lost. -/
theorem State.linkLost_set {s t : State} {n : Nat} {l : Link} (h : t.links = (s.setLink n l).links) (hn : n < s.links.length)
    (hl : l.state ≠ .up) : (t.linkLost n).link n = { l with outQ := [] } := by
  have set : t.link n = l := (State.link_of_links h n).trans (State.setLink_link s n l hn)
  have held : n < t.links.length := by
    rw [h]
    exact (List.length_set ..).symm ▸ hn
  rw [State.linkLost_link held (set ▸ hl), set]

/-- With no link UP a packet that passes through is discarded and counted (R394). -/
theorem State.passOn_discards {s : State} (h : ∀ m, (s.link m).state ≠ .up) (p : Packet) : s.passOn p = s.herdCount 0x28 := by
  unfold State.passOn
  rw [State.linkFor_none h]
  exact ite_self _

theorem State.shed_discards {s : State} {n : Nat} {p : Packet} (h : ∀ m, (s.link m).state ≠ .up) (hq : (s.link n).outQ = [p])
    (hc : p.chan ≠ 0) (ht : transit s.herd.addr p = true) :
    s.shed n = (s.setLink n { s.link n with outQ := [] }).herdCount 0x28 := by
  have none (m : Nat) : ((s.setLink n { s.link n with outQ := [] }).link m).state ≠ .up := by
    by_cases hm : m = n
    · subst hm
      by_cases hl : m < s.links.length
      · rw [State.setLink_link _ _ _ hl]
        exact h m
      · have same : s.setLink m { s.link m with outQ := [] } = s := by
          simp [State.setLink, List.set_eq_of_length_le (Nat.le_of_not_lt hl)]
        rw [same]
        exact h m
    · rw [State.setLink_link_ne _ _ hm]
      exact h m
  unfold State.shed
  dsimp only
  rw [hq, List.foldl_cons, List.foldl_nil, if_neg hc]
  exact (if_pos ht).trans (State.passOn_discards none _)

/-! ## Replays (R376, R399) -/

theorem Link.replayFrom_counts (l : Link) (i : Nat) :
    NMap.getD (l.replayFrom i).ctr 0x38 0 = min (2 ^ 64 - 1) (NMap.getD l.ctr 0x38 0 + 1) :=
  (getD_bump_ne (bump l.ctr 0x38 1) 0x48 _ (by decide)).trans (getD_bump_same l.ctr 0x38 1 (by decide))

/-- A replay of a retry buffer that is not empty goes through the whole of it, and counts. -/
theorem Link.replayAll_replays {l : Link} (h : l.retry ≠ []) : l.replayAll.retry = l.retry ∧
    NMap.getD l.replayAll.ctr 0x38 0 = min (2 ^ 64 - 1) (NMap.getD l.ctr 0x38 0 + 1) := by
  unfold Link.replayAll
  rw [if_neg h]
  exact ⟨rfl, l.replayFrom_counts 0⟩

/-- What a replay leaves of a link: all but the retry buffer, the replay and the counters. -/
theorem Link.replayAll_rest (l : Link) : ∃ retry replay ctr, l.replayAll = { l with retry, replay, ctr } := by
  unfold Link.replayAll
  split
  · exact ⟨l.retry, none, l.ctr, rfl⟩
  · exact ⟨_, _, _, rfl⟩

/-! ## Bring-up (R372, R373, R381, R466) -/

/-- The usable lanes of a bring-up: those that it meets, less those that have failed (R373). -/
def Link.usable (l : Link) (b : BringUp) : Nat := maskOf ((lanesOf b.lanes.toNat).filter (fun x => !l.failed.testBit x))

/-- A link with which a bring-up begins: one that retrains replays what is outstanding, another begins anew (R373, R376). -/
def Link.restarted (l : Link) : Link :=
  if (l.state == .training || l.state == .keying) && l.encrypted then l.replayAll
  else { ctr := l.ctr, keyEpoch := l.keyEpoch, failed := l.failed }

theorem Link.restarted_keyEpoch (l : Link) : l.restarted.keyEpoch = l.keyEpoch := by
  unfold Link.restarted
  split
  · obtain ⟨_, _, _, h⟩ := l.replayAll_rest
    rw [h]
  · rfl

/-- A link that has come UP under fresh keys (R372, R373, R381). -/
def Link.cameUp (l : Link) (b : BringUp) (w act : Nat) (sp : Option Nat) (ks : Nat × Nat) (own : LinkAuth) : Link :=
  ({ l.restarted with
    state := .up, width := w, active := act, spare := sp, encrypted := true, failures := 0, nakSent := false
    peerId := b.peerId, peerAddr := b.peerAddr % 65536, peerLink := b.peerLink % 64, rttNs := b.rttNs
    naks := 0, failed := 511 - l.usable b } : Link).rekeyed ks own

section
variable {s : State} {n : Nat} {b : BringUp} (hn : n < s.links.length)
  (hs : (s.link n).state = .down ∨ (s.link n).state = .training ∨ (s.link n).state = .keying)
  (ha : (s.link n).adminDown = false) (he : s.cfg.linkEn.testBit n = true) (hf : (s.link n).failures < 2)
include hs ha he hf

/-- A bring-up that is not held back. -/
theorem State.bringUp_goes : ¬ ((!((s.link n).state == .down || (s.link n).state == .training || (s.link n).state == .keying) ||
    (s.link n).adminDown || !(s.cfg.linkEn.testBit n) || decide (2 ≤ (s.link n).failures)) = true) := by
  have few : ¬ 2 ≤ (s.link n).failures := Nat.not_le.mpr hf
  rcases hs with h | h | h <;> simp [h, ha, he, few]

include hn

theorem State.bringUp_retires (hl : laneSet ((s.link n).usable b) = none) :
    ((s.bringUp n b).link n).state = .retired ∧ ((s.bringUp n b).link n).width = 0 := by
  have line : ((s.bringUp n b).link n).line = ({ s.link n with state := .retired, width := 0, active := 0, encrypted := false
                                                               failed := 511 - (s.link n).usable b, txKey := 0, rxKeys := [] } : Link).line := by
    unfold State.bringUp
    dsimp only
    rw [if_neg (State.bringUp_goes hs ha he hf)]
    unfold Link.usable at hl
    rw [hl]
    dsimp only
    rw [(State.linkChanged_censuses _).sends.line, State.link_of_links ((State.unitEvent_links _ _ _ _ _ _ _).trans (State.noteRetired_links _ _)),
      State.setLink_link _ _ _ hn]
    rfl
  exact ⟨Link.state_of_line line, Link.width_of_line line⟩

theorem State.bringUp_up {w act : Nat} {sp : Option Nat} {ks : Nat × Nat} (hl : laneSet ((s.link n).usable b) = some (w, act, sp))
    (ht : b.trained = true) (hk : (s.agree b.peerId b.auth).1 = some ks) :
    ((s.bringUp n b).link n).line = ((s.link n).cameUp b w act sp ks (s.agree b.peerId b.auth).2).line := by
  unfold State.bringUp
  dsimp only
  rw [if_neg (State.bringUp_goes hs ha he hf)]
  unfold Link.usable at hl
  rw [hl]
  dsimp only
  rw [ht, hk]
  dsimp only
  rw [(State.wakeSenders_sends _).line, (State.pumpLink_sends _ _).line, (State.linkChanged_censuses _).sends.line]
  have kept (c : Prop) [Decidable c] (u : State) (old : Link) (x y : Nat) (z : Option Nat) :
      (if c then u.retrained n old x z y else u).link n = u.link n := by
    split
    · exact State.link_of_links (State.retrained_links _ _ _ _ _ _) n
    · rfl
  rw [kept, if_pos (rfl : true = true)]
  exact congrArg Link.line (State.setLink_link _ n _ hn)

theorem State.bringUp_fails (hl : (laneSet ((s.link n).usable b)).isSome = true)
    (hk : b.trained = false ∨ (s.agree b.peerId b.auth).1 = none) :
    ((s.bringUp n b).link n).failures = (s.link n).failures + 1 ∧ ((s.bringUp n b).link n).state =
      (if (s.link n).failures ≠ 0 then .down else if b.trained then .keying else .training) := by
  have fails : s.bringUp n b = (if b.trained then { s with freeCtr := s.freeCtr + 2 } else s).setLink n { s.link n with
      failures := (s.link n).failures + 1, width := if (s.link n).failures == 0 then (s.link n).width else 0
      encrypted := (s.link n).failures == 0 && (s.link n).encrypted, peerId := if b.trained then b.peerId else 0
      state := if !((s.link n).failures == 0) then .down else if b.trained then .keying else .training } := by
    obtain ⟨⟨w, act, sp⟩, hl⟩ := Option.isSome_iff_exists.mp hl
    unfold State.bringUp
    dsimp only
    rw [if_neg (State.bringUp_goes hs ha he hf)]
    unfold Link.usable at hl
    rw [hl]
    dsimp only
    cases ht : b.trained with
    | false => rfl
    | true =>
      rw [hk.resolve_left (by simp [ht])]
  have held : n < (if b.trained then { s with freeCtr := s.freeCtr + 2 } else s).links.length := by
    split <;> exact hn
  rw [fails, State.setLink_link _ n _ held]
  exact ⟨rfl, by simp⟩

end

/-! ## Lanes (R373, R399) -/

/-- The good lanes of a link of which one more has failed. -/
def Link.goodBut (l : Link) (lane : Nat) : List Nat := (lanesOf 511).filter (fun x => !(l.failed + 2 ^ lane).testBit x)

section
variable {s : State} {n lane : Nat} (hu : (s.link n).state = .up) (hf : (s.link n).failed.testBit lane = false)
  (ha : (s.link n).active.testBit lane = true)
include hu hf ha

/-- The spare takes the place of a lane that fails. -/
theorem State.laneFails_spare {x : Nat} (hx : (s.link n).spare = some x) : (s.laneFails n lane).link n =
    { (s.link n).replayAll with failed := (s.link n).failed + 2 ^ lane, spare := none
                                active := (s.link n).active - 2 ^ lane + 2 ^ x } := by
  have goes : s.laneFails n lane = (s.setLink n { (s.link n).replayAll with
      failed := (s.link n).failed + 2 ^ lane, spare := none, active := (s.link n).active - 2 ^ lane + 2 ^ x }).unitEvent
        0x0F01 7 1 n 0xFFFF lane := by
    unfold State.laneFails
    dsimp only
    rw [if_neg (by simp [hf, hu]), if_neg (by simp [ha]), hx]
  rw [goes, State.link_of_links (State.unitEvent_links _ _ _ _ _ _ _), State.setLink_link _ _ _ (State.lt_of_up hu)]

section
variable (hx : (s.link n).spare = none)
include hx

/-- With no spare the link drops to its lowest four good lanes. -/
theorem State.laneFails_narrows (hg : 4 ≤ ((s.link n).goodBut lane).length) : (s.laneFails n lane).link n =
    { (s.link n).replayAll with failed := (s.link n).failed + 2 ^ lane, width := 4
                                active := maskOf (((s.link n).goodBut lane).take 4) } := by
  have goes : (s.laneFails n lane).links = (s.setLink n { (s.link n).replayAll with
      failed := (s.link n).failed + 2 ^ lane, width := 4, active := maskOf (((s.link n).goodBut lane).take 4) }).links := by
    unfold State.laneFails
    dsimp only
    rw [if_neg (by simp [hf, hu]), if_neg (by simp [ha]), hx]
    refine (congrArg State.links (if_pos hg)).trans ?_
    split
    · exact State.unitEvent_links _ _ _ _ _ _ _
    · rfl
  rw [State.link_of_links goes, State.setLink_link _ _ _ (State.lt_of_up hu)]

/-- With fewer than four good lanes it retires. -/
theorem State.laneFails_retires (hg : ((s.link n).goodBut lane).length < 4) : (s.laneFails n lane).link n =
    { s.link n with failed := (s.link n).failed + 2 ^ lane, state := .retired, width := 0, active := 0, encrypted := false
                    replay := none, txKey := 0, rxKeys := [], outQ := [] } := by
  unfold State.laneFails
  dsimp only
  rw [if_neg (by simp [hf, hu]), if_neg (by simp [ha]), hx]
  refine (congrArg (fun t : State => t.link n) (if_neg (Nat.not_le.mpr hg))).trans ?_
  refine State.linkLost_set ((State.unitEvent_links _ _ _ _ _ _ _).trans (State.noteRetired_links _ _)) (State.lt_of_up hu) ?_
  exact LinkState.noConfusion

end

end

/-! ## Administrative state (R397) -/

/-- A link that ADMIN_DOWN takes down (R397). -/
def Link.takenDown (l : Link) : Link :=
  { l with adminDown := true, state := if l.state == .retired then .retired else .adminDown, width := 0, active := 0
           encrypted := false, heard := none, vec := [], txKey := 0, rxKeys := [] }

theorem Link.takenDown_state {l : Link} (h : l.state ≠ .retired) : l.takenDown.state = .adminDown :=
  if_neg (by simpa using h)

theorem State.adminDown_eq (s : State) (n : Nat) : s.adminDown n = (s.setLink n (s.link n).takenDown).linkLost n := rfl

theorem State.adminDown_link {s : State} {n : Nat} (hn : n < s.links.length) (hr : (s.link n).state ≠ .retired) :
    (s.adminDown n).link n = { (s.link n).takenDown with outQ := [] } := by
  exact State.linkLost_set (s := s) rfl hn (by rw [Link.takenDown_state hr]; decide)

/-- A packet that passed through and that no other link may take is discarded and counted (R394). -/
theorem State.adminDown_discards {s : State} {n : Nat} {p : Packet} (hn : n < s.links.length) (hr : (s.link n).state ≠ .retired)
    (hq : (s.link n).outQ = [p]) (hc : p.chan ≠ 0) (ht : transit s.herd.addr p = true) (hd : ∀ m, m ≠ n → (s.link m).state ≠ .up) :
    NMap.getD (s.adminDown n).herd.ctr 0x28 0 = min (2 ^ 64 - 1) (NMap.getD s.herd.ctr 0x28 0 + 1) := by
  have set := State.setLink_link s n (s.link n).takenDown hn
  have down (m : Nat) : ((s.setLink n (s.link n).takenDown).link m).state ≠ .up := by
    by_cases hm : m = n
    · rw [hm, set, Link.takenDown_state hr]
      decide
    · rw [State.setLink_link_ne _ _ hm]
      exact hd m hm
  rw [State.adminDown_eq, State.linkLost, (State.linkChanged_censuses _).ctr, State.shed_discards down ((congrArg Link.outQ set).trans hq) hc ht]
  exact State.herdCount_ctr _ _

/-- Settles O46: each command by the one branch that its conditions leave; what follows a change of the link only sends on the links. -/
theorem linkStates : Obligations.LinkStates := by
  unfold Obligations.LinkStates
  intro s n hn48 hn l again
  have ok : linkOk n = true := decide_eq_true hn48
  have replays (l' : Link) (hr : l'.retry = l.replayAll.retry) (hc : l'.ctr = l.replayAll.ctr) : again l' := fun h => by
    obtain ⟨retry, count⟩ := Link.replayAll_replays h
    exact ⟨hr.trans retry, hc ▸ count⟩
  have stays : l.replayAll.state = l.state ∧ l.replayAll.width = l.width := by
    obtain ⟨_, _, _, h⟩ := l.replayAll_rest
    rw [h]
    exact ⟨rfl, rfl⟩
  refine ⟨fun b hs ha he hf => ?_, fun lane hl hu hf ha => ?_, fun hr => ?_, fun hd => ?_⟩
  · refine ⟨_, checked_of s _ _ ok, fun hg => State.bringUp_retires hn hs ha he hf hg, fun w act sp ks hg ht hk => ?_,
      fun hg hk => State.bringUp_fails hn hs ha he hf hg hk⟩
    have line := State.bringUp_up hn hs ha he hf hg ht hk
    refine ⟨Link.state_of_line line, Link.width_of_line line, Link.active_of_line line, Link.spare_of_line line,
      Link.encrypted_of_line line, Link.peerId_of_line line, Link.failures_of_line line, ?_, Link.txKey_of_line line, ?_, ?_⟩
    · exact (Link.keyEpoch_of_line line).trans (congrArg (· + 1) l.restarted_keyEpoch)
    · rw [Link.rxKeys_of_line line]
      exact List.getLast?_concat
    · intro hc hd hq
      have retrains : l.restarted = l.replayAll := if_pos (by rcases hs.resolve_left hd with h | h <;> simp [l, h, hc] )
      rw [Link.ctr_of_line line (by decide)]
      refine Eq.trans ?_ (Link.replayAll_replays hq).2
      rw [← retrains]
      rfl
  · refine ⟨_, checked_of s _ _ (by simp [ok, hl]), fun x hx => ?_, fun hx => ⟨fun hg => ?_, fun hg => ?_⟩⟩
    · rw [State.laneFails_spare hu hf ha hx]
      exact ⟨stays.1.trans hu, stays.2, rfl, rfl, rfl, replays _ rfl rfl⟩
    · rw [State.laneFails_narrows hu hf ha hx hg]
      exact ⟨stays.1.trans hu, rfl, rfl, replays _ rfl rfl⟩
    · rw [State.laneFails_retires hu hf ha hx hg]
      exact ⟨rfl, rfl, rfl, rfl, rfl⟩
  · refine ⟨_, checked_of s _ _ ok, ?_⟩
    have link := State.adminDown_link hn hr
    rw [link]
    exact ⟨Link.takenDown_state hr, rfl, rfl, rfl, rfl, rfl, fun p hq hc ht hd => State.adminDown_discards hn hr hq hc ht hd⟩
  · refine (checked_of s _ _ ok).trans (congrArg _ ?_)
    exact if_neg (by simp [l, hd])

end Sys2Proof.Machine
end

section
/-! O48: end-to-end retransmission, acknowledgement, refusal, and packets of reserved types (R361, R380, R382, R400). -/

namespace Sys2Proof.Machine

/-! ## What handling packets leaves of the herd -/

@[simp] theorem State.pumpLink_herd (s : State) (n : Nat) : (s.pumpLink n).herd = s.herd := State.herd_of_inner (s.pumpLink_inner n)

/-- Putting a packet on a link pins its flow, and changes nothing else of the herd. -/
theorem State.putOn_herd (s : State) (n : Nat) (p : Packet) : ∃ pins, (s.putOn n p).herd = { s.herd with pins } := by
  unfold State.putOn
  dsimp only
  rw [State.pumpLink_herd, State.setLink_herd]
  split
  · exact ⟨_, rfl⟩
  · exact ⟨s.herd.pins, rfl⟩

theorem State.takePacket_herd (s : State) (p : Packet) :
    ∃ held, (s.takePacket p).herd = { s.herd with inbox := s.herd.inbox.erase p, held } := by
  unfold State.takePacket
  dsimp only
  split
  · exact ⟨_, rfl⟩
  · exact ⟨s.herd.held, rfl⟩

theorem State.takePacket_jobs (s : State) (p : Packet) : (s.takePacket p).jobs = s.jobs := State.jobs_of_offWire (s.takePacket_offWire p)

theorem State.mirrorAcked_herd (s : State) (job : Nat) : (s.mirrorAcked job).herd = s.herd := by
  unfold State.mirrorAcked
  split
  · rfl
  · dsimp only
    split <;> rfl

/-- The slot of an identifier holds the job of that identifier. -/
theorem State.slotOf_id {s : State} {id k : Nat} (h : s.slotOf id = some k) : (s.job k).info.id = id := by
  unfold State.slotOf at h
  dsimp only at h
  split at h
  next hlt =>
    cases h
    have found := List.findIdx_getElem (p := fun j : Job => j.info.state.loaded && j.info.id == id) (w := hlt)
    rw [State.job, List.getD_eq_getElem _ _ hlt]
    exact beq_iff_eq.mp (Bool.and_eq_true _ _ ▸ found).2
  next => cases h

/-! ## Retransmission (R382, R400) -/

section
variable {s : State} {u : Unacked} (h : s.herd.unacked = [u])
include h

/-- The timeout of the one packet that is not acknowledged. -/
theorem exec_e2eRetransmitTimeout (hd : u.pkt.dest < 65536) (h1 : 1 ≤ u.pkt.chan) (h3 : u.pkt.chan ≤ 3) :
    exec (.e2eRetransmitTimeout ⟨u.pkt.job, u.pkt.dest⟩ u.pkt.chan u.pkt.seq) s = .next (s.resend u) := by
  have one : s.herd.unacked.filter (fun x => x.pkt.job == u.pkt.job && x.pkt.dest == u.pkt.dest && x.pkt.chan == u.pkt.chan &&
      x.pkt.seq == u.pkt.seq) = [u] := by simp [h]
  refine (checked_of s _ _ (by simp [hd, h1, h3])).trans (congrArg _ ?_)
  rw [one]
  rfl

/-- Without a link a packet only waits longer. -/
theorem State.resend_waits (hl : s.linkAgain u.pkt = none) :
    (s.resend u).herd = { s.herd with unacked := [{ u with timeout := min (u.timeout * 2) 12800 }] } := by
  unfold State.resend
  rw [hl]
  dsimp only
  rw [h, List.map_singleton, if_pos (beq_self_eq_true u)]

/-- By a link that it may take it leaves again. -/
theorem State.resend_leaves {n : Nat} (hl : s.linkAgain u.pkt = some n) : ∃ pins, (s.resend u).herd =
    { s.herd with unacked := [{ u with timeout := min (u.timeout * 2) 12800, link := n }], ctr := bump s.herd.ctr 0x30 1, pins } := by
  unfold State.resend
  rw [hl]
  dsimp only
  obtain ⟨pins, put⟩ := State.putOn_herd (State.herdCount { s with herd := { s.herd with
    unacked := s.herd.unacked.map (fun x => if x == u then { u with timeout := min (u.timeout * 2) 12800, link := n } else x) } } 0x30) n u.pkt
  rw [put]
  refine ⟨pins, ?_⟩
  unfold State.herdCount
  rw [h, List.map_singleton, if_pos (beq_self_eq_true u)]

end

/-! ## Acknowledgements (R382) -/

/-- Every flow that is acknowledged has nothing left to acknowledge, and the others are as they were. -/
theorem State.ackFlows_flows (s : State) (fs : List RxFlow) : (s.ackFlows fs).herd.flows =
    s.herd.flows.map (fun x => if fs.any (fun f => x.is f.job f.src f.chan) then { x with since := 0 } else x) := by
  induction fs generalizing s with
  | nil => exact (List.map_id'' (fun _ => rfl) _).symm
  | cons f fs ih =>
    unfold State.ackFlows
    rw [ih, State.sendReply_flows]
    refine (List.map_map ..).trans (List.map_congr_left fun x _ => ?_)
    by_cases hf : x.is f.job f.src f.chan = true
    · have same (g : RxFlow) : ({ x with since := 0 } : RxFlow).is g.job g.src g.chan = x.is g.job g.src g.chan := rfl
      simp [hf, same]
    · simp [hf]

/-- The timer of a flow leaves nothing to acknowledge of it. -/
theorem State.ackFlows_timer (s : State) {job src chan : Nat} {f : RxFlow} (hf : f ∈ (s.ackFlows
    (s.herd.flows.filter (fun f => f.is job src chan && f.since != 0))).herd.flows) (hj : f.job = job) (hs : f.src = src)
    (hc : f.chan = chan) : f.since = 0 := by
  rw [State.ackFlows_flows] at hf
  obtain ⟨x, hx, rfl⟩ := List.mem_map.mp hf
  split at hj
  next ha => rw [if_pos ha]
  next hn =>
    rw [if_neg hn] at hs hc ⊢
    by_contra since
    refine hn (List.any_eq_true.mpr ⟨x, List.mem_filter.mpr ⟨hx, ?_⟩, ?_⟩)
    · simp [RxFlow.is, hj, hs, hc, since]
    · simp [RxFlow.is]

/-- An ACK leaves the packets that it does not cover. -/
theorem exec_packetAck {s : State} {p : Packet} (h5 : p.type = 0x05) (hw : s.herd.waiting = []) :
    ∃ t, exec (.packetAck p) s = .next t ∧ t.herd.unacked = s.herd.unacked.filter (fun u => !(u.pkt.dest == p.src &&
      u.pkt.job == p.job && u.pkt.chan == fld p.opA 32 2 && ackCovers p u.pkt.seq)) := by
  refine ⟨_, checked_of s _ _ (by simp [h5]), ?_⟩
  obtain ⟨held, taken⟩ := s.takePacket_herd p
  dsimp only
  rw [State.wakeSenders_herd, State.mirrorAcked_herd]
  · exact (congrArg (fun h : Herd => h.unacked.filter _) taken :)
  · rw [State.mirrorAcked_herd]
    exact (congrArg Herd.waiting taken).trans hw

/-! ## Refusals (R361, R380) -/

/-- A packet that has been refused, as its REFUSE names it (R380). -/
def Unacked.refusedBy (u : Unacked) (p : Packet) : Bool :=
  u.pkt.dest == p.src && u.pkt.job == p.job && u.pkt.chan == fld p.opA 32 2 && u.pkt.seq == fld p.opA 0 32

/-- A refusal that does not end mirroring changes the herd's counter alone, and takes the packet. -/
theorem State.refuse_herd {s t : State} {p : Packet} (h6 : p.type = 0x06) (hu : ∀ u ∈ s.herd.unacked, u.pkt.type ≠ 7)
    (ht : exec (.packetRefuse p) s = .next t) : t.herd = ((s.takePacket p).herdCount 0x38).herd := by
  obtain ⟨held, taken⟩ := s.takePacket_herd p
  have unacked : ((s.takePacket p).herdCount 0x38).herd.unacked = s.herd.unacked := (congrArg Herd.unacked taken :)
  obtain rfl := Host.Outcome.next.inj ((checked_of s _ _ (by simp [h6])).symm.trans ht)
  dsimp only
  split
  next u k hit _ =>
    have other : ¬ (u.pkt.type == 7 && p.opB == 1) = true := by
      simp [hu u (unacked ▸ List.mem_of_find?_eq_some hit)]
    rw [if_neg other]
    rfl
  next => rfl

@[simp] theorem State.jobStateEvent_offPorts (s : State) (k old new cause status tag : Nat) (adopted lost : Bool) :
    (s.jobStateEvent k old new cause status tag adopted lost).offPorts = s.offPorts := State.jobEvent_offPorts _ _ _

/-- Mirroring that stops leaves its job no buddy, and nothing of its transfers on the way (R361). -/
theorem State.mirrorLost_stops {s : State} {k : Nat} (hk : k < s.jobs.length) (hb : (s.job k).info.buddy = true) :
    ((s.mirrorLost k).job k).info.buddy = false ∧ (s.mirrorLost k).herd.unacked =
      s.herd.unacked.filter (fun u => !(u.pkt.job == (s.job k).info.id && u.pkt.type == 7)) := by
  unfold State.mirrorLost
  dsimp only
  rw [if_neg (by simp [hb])]
  refine ⟨?_, ?_⟩
  · rw [State.job_of_offPorts (State.jobStateEvent_offPorts _ _ _ _ _ _ _ _ _)]
    exact congrArg (fun j : Job => j.info.buddy) (State.setJob_job _ k _ hk)
  · exact (congrArg (fun u : State => u.herd.unacked) (State.jobStateEvent_offPorts _ _ _ _ _ _ _ _ _) :)

theorem exec_packetRefuse_mirror {s : State} {p : Packet} {u : Unacked} {k : Nat} (h6 : p.type = 0x06) (hu : s.herd.unacked = [u])
    (hr : u.refusedBy p = true) (h7 : u.pkt.type = 7) (hp : p.opB = 1) (hk : s.slotOf p.job = some k) :
    exec (.packetRefuse p) s = .next (((s.takePacket p).herdCount 0x38).mirrorLost k) := by
  obtain ⟨held, taken⟩ := s.takePacket_herd p
  have unacked : ((s.takePacket p).herdCount 0x38).herd.unacked = [u] := (congrArg Herd.unacked taken).trans hu
  have slot : ((s.takePacket p).herdCount 0x38).slotOf p.job = some k := (State.slotOf_of_offWire (s.takePacket_offWire p) p.job).trans hk
  refine (checked_of s _ _ (by simp [h6])).trans (congrArg _ ?_)
  dsimp only
  have hit : [u].find? (fun u => u.refusedBy p) = some u := List.find?_cons_of_pos hr
  unfold Unacked.refusedBy at hit
  rw [unacked, slot, hit]
  exact if_pos (by simp [h7, hp])

/-- Settles O48: each command by what it leaves of the herd's packets and counters. -/
theorem endToEnd : Obligations.EndToEnd := by
  unfold Obligations.EndToEnd
  intro s
  refine ⟨fun u hu hd h1 h3 => ?_, fun job src chan hs h1 h3 => ?_, fun p h5 hw => exec_packetAck h5 hw, fun p h6 hu => ?_,
    fun p u k h6 hu h7 hd hj hc hq hp hk hb => ?_, fun p ht => ?_⟩
  · cases hl : s.linkAgain u.pkt with
    | none =>
      have herd := State.resend_waits hu hl
      exact ⟨_, _, exec_e2eRetransmitTimeout hu hd h1 h3, congrArg Herd.unacked herd, rfl, rfl, fun _ => (congrArg Herd.ctr herd :), nofun⟩
    | some n =>
      obtain ⟨pins, herd⟩ := State.resend_leaves hu hl
      refine ⟨_, _, exec_e2eRetransmitTimeout hu hd h1 h3, congrArg Herd.unacked herd, rfl, rfl, nofun, fun m hm => ⟨Option.some.inj hm, ?_⟩⟩
      exact (congrArg (fun h : Herd => NMap.getD h.ctr 0x30 0) herd).trans (getD_bump_same s.herd.ctr 0x30 1 (by decide))
  · exact ⟨_, checked_of s _ _ (by simp [hs, h1, h3]), fun f hf hj hs hc => s.ackFlows_timer hf hj hs hc⟩
  · refine ⟨_, checked_of s _ _ (by simp [h6]), ?_⟩
    have herd := State.refuse_herd h6 hu (checked_of s _ _ (by simp [h6]))
    obtain ⟨held, taken⟩ := s.takePacket_herd p
    refine ⟨(congrArg Herd.unacked herd).trans (congrArg Herd.unacked taken :), ?_⟩
    refine (congrArg (fun h : Herd => NMap.getD h.ctr 0x38 0) herd).trans ((State.herdCount_ctr _ _).trans ?_)
    rw [taken]
  · obtain ⟨held, taken⟩ := s.takePacket_herd p
    have job : ((s.takePacket p).herdCount 0x38).job k = s.job k := State.job_of_offWire (s.takePacket_offWire p) k
    have slots : k < ((s.takePacket p).herdCount 0x38).jobs.length := (s.takePacket_jobs p).symm ▸ State.slotOf_lt hk
    obtain ⟨buddy, unacked⟩ := State.mirrorLost_stops slots (job.symm ▸ hb)
    refine ⟨_, exec_packetRefuse_mirror h6 hu (by simp [Unacked.refusedBy, hd, hj, hc, hq]) h7 hp hk, buddy, unacked.trans ?_⟩
    have left : ((s.takePacket p).herdCount 0x38).herd.unacked = [u] := (congrArg Herd.unacked taken).trans hu
    rw [left, job, State.slotOf_id hk]
    simp [hj, h7]
  · have reserved : reservedType p.type = true := by
      rcases ht with h0 | ⟨h7, h10, h20 | h22⟩
      · simp [reservedType, h0]
      · simp [reservedType, h10]; omega
      · simp [reservedType, h10]; omega
    obtain ⟨held, taken⟩ := s.takePacket_herd p
    refine ⟨_, checked_of s _ _ reserved, s.takePacket_jobs p, congrArg Herd.inbox taken, (State.herdCount_ctr _ _).trans ?_⟩
    rw [taken]

end Sys2Proof.Machine
end

section
/-! SUPPORT. What the census makes of HELLOs, JOINs, answers and lost leaders (R386 to R389, R391, R403). -/

namespace Sys2Proof.Machine

/-! ## HELLOs (R386) -/

theorem State.helloMsg_of_inner {s t : State} (h : t.inner = s.inner) : t.helloMsg = s.helloMsg := (congrArg State.helloMsg h :)

/-- The HELLOs that have gone out are what the module then has to say. -/
theorem State.sendHellos_says (s : State) : ∀ e ∈ s.sendHellos.herd.hellos, e.2 = s.sendHellos.helloMsg := by
  intro e he
  rw [State.sendHellos_herd] at he
  obtain ⟨n, -, rfl⟩ := List.mem_map.mp he
  exact (State.helloMsg_of_inner s.sendHellos_inner).symm

theorem State.sendHellos_links (s : State) : s.sendHellos.herd.hellos.map (·.1) = s.upLinks := by
  rw [State.sendHellos_herd]
  exact (List.map_map ..).trans (List.map_id _)

theorem State.sendHellos_beat (s : State) : s.sendHellos.herd.beat = s.herd.beat + if s.herd.role = 2 then 1 else 0 := by
  rw [State.sendHellos_herd]
  unfold State.greeted
  dsimp only
  split <;> rfl

/-- A link on which a HELLO has been heard (R386, R390). -/
def Link.hears (l : Link) (h : HelloMsg) : Link :=
  { l with fresh := if advanced l.heard h then true else l.fresh, heard := some h, peerDepth := h.dist, peerAddr := h.addr % 65536 }

theorem State.hello_line {s : State} {n : Nat} (hn : n < s.links.length) (h : HelloMsg) :
    ((s.hello n h).link n).line = ((s.link n).hears h).line := by
  have set := State.setLink_link s n ((s.link n).hears h) hn
  refine Eq.trans ?_ (congrArg Link.line set)
  unfold State.hello
  dsimp only
  split
  · exact ((State.follow_censuses _).trans (State.reroute_censuses _)).sends.line n
  · exact (State.follow_censuses _).sends.line n

/-- A HELLO that turns its link makes new tables, where the module routes (R390, R393). -/
theorem State.hello_turns {s : State} {n : Nat} {h : HelloMsg} (ht : (s.link n).peerDepth ≠ h.dist)
    (hr : (s.hello n h).herd.role = 1 ∨ (s.hello n h).herd.role = 2) : (s.hello n h).herd.newRoutes.isSome = true := by
  have turns : s.hello n h = (s.setLink n ((s.link n).hears h)).follow.reroute := if_pos (by simp [ht])
  rw [turns] at hr ⊢
  obtain ⟨_, _, made⟩ := State.reroute_herd (s.setLink n ((s.link n).hears h)).follow
  rw [made] at hr
  have role : (s.setLink n ((s.link n).hears h)).follow.herd.role = 1 ∨ (s.setLink n ((s.link n).hears h)).follow.herd.role = 2 := hr
  rw [State.reroute_newRoutes (by omega) (by omega)]
  rfl

/-! ## A leader whose beat has stopped (R386, R403) -/

/-- A link after its leader has been dropped (R386). -/
def Link.dropped (l : Link) (lead : W64) : Link :=
  match l.heard with
  | some h => if h.lead == some lead then { l with fresh := false } else l
  | none => l

theorem Link.dropped_heard (l : Link) (lead : W64) : (l.dropped lead).heard = l.heard := by
  unfold Link.dropped
  split
  · split <;> rfl
  · rfl

theorem Link.dropped_fresh {l : Link} {lead : W64} {h : HelloMsg} (hh : l.heard = some h) (hl : h.lead = some lead) :
    (l.dropped lead).fresh = false := by
  unfold Link.dropped
  rw [hh]
  exact congrArg Link.fresh (if_pos (beq_iff_eq.mpr hl))

/-- The state after the leader has been dropped on every link. -/
def State.dropLeader (s : State) : State :=
  { s with links := s.links.map (fun l => l.dropped s.herd.leader), herd := { s.herd with relearn := false } }

theorem State.dropLeader_link (s : State) (n : Nat) : s.dropLeader.link n = (s.link n).dropped s.herd.leader := by
  by_cases hn : n < s.links.length
  · simp [State.link, State.dropLeader, List.getD, hn]
  · simp [State.link, State.dropLeader, List.getD, hn]
    rfl

theorem State.beatLost_eq (s : State) : s.beatLost =
    if s.herd.adrift && s.dropLeader.follow.herd.adrift then s.dropLeader.follow.standAlone else s.dropLeader.follow := rfl

theorem State.beatLost_censuses (s : State) : s.dropLeader.Censuses s.beatLost := by
  rw [State.beatLost_eq]
  split
  · exact (State.follow_censuses _).trans (State.standAlone_censuses _)
  · exact State.follow_censuses _

/-- The candidate that a link has brought, if its beat still rises (R386). -/
def State.candidateOn (s : State) (n : Nat) : Option Candidate :=
  match (s.link n).heard with
  | some h =>
    match h.lead with
    | some l => if decide (h.dist < 8) && (s.link n).fresh then some ⟨l, h.lbeat, h.dist + 1, h.id, some n⟩ else none
    | none => none
  | none => none

theorem State.candidateOn_none {s : State} {n : Nat}
    (hh : ∀ h, (s.link n).heard = some h → h.lead = none ∨ (s.link n).fresh = false) : s.candidateOn n = none := by
  unfold State.candidateOn
  split
  next h heard =>
    split
    next l lead =>
      have stale := (hh h heard).resolve_left (by rw [lead]; exact nofun)
      exact if_neg (by simp [stale])
    next => rfl
  next => rfl

/-- A module that may not lead and hears of no leader whose beat rises has no candidate. -/
theorem State.bestLeader_none {s : State} (he : s.eligible = false)
    (hh : ∀ n h, (s.link n).heard = some h → h.lead = none ∨ (s.link n).fresh = false) : s.bestLeader = none := by
  have offered : s.upLinks.filterMap s.candidateOn = [] :=
    List.filterMap_eq_nil_iff.mpr fun n _ => State.candidateOn_none (hh n)
  unfold State.bestLeader
  rw [if_neg (by simp [he])]
  exact congrArg (fun cs : List Candidate => cs.foldl _ none) offered

/-- With no candidate the leader is lost, and the module keeps what it has (R403). -/
theorem State.follow_none {s : State} (hl : s.herd.relearn = false) (hb : s.bestLeader = none) (hr : s.herd.role ≠ 0) :
    s.follow = { s with herd := { s.herd with adrift := true } } := by
  have learnt : ({ s with herd := { s.herd with relearn := false } } : State) = s :=
    (congrArg (fun b => ({ s with herd := { s.herd with relearn := b } } : State)) hl.symm :)
  unfold State.follow
  rw [if_neg (by simp [hl]), learnt]
  dsimp only
  rw [hb]
  exact if_neg hr

theorem State.standAlone_herd (s : State) : s.standAlone.herd.role = 0 ∧ s.standAlone.herd.addr = 0 := by
  unfold State.standAlone
  dsimp only
  rw [State.herdChange_herd, State.sendHellos_herd]
  exact ⟨rfl, rfl⟩

/-- A member that hears of no other leader keeps its place in the herd at the first loss, and at the second stands alone (R403). -/
theorem State.beatLost_alone {s : State} (he : s.eligible = false)
    (hh : ∀ n h, (s.link n).heard = some h → h.lead = some s.herd.leader ∨ h.lead = none) (hr : s.herd.role ≠ 0) :
    (s.herd.adrift = false → s.beatLost.herd = { s.herd with relearn := false, adrift := true }) ∧
      (s.herd.adrift = true → s.beatLost.herd.role = 0 ∧ s.beatLost.herd.addr = 0) := by
  have none : s.dropLeader.bestLeader = none := by
    refine State.bestLeader_none he fun n h heard => ?_
    rw [State.dropLeader_link] at heard ⊢
    rw [Link.dropped_heard] at heard
    exact (hh n h heard).symm.imp id (Link.dropped_fresh heard)
  have lost := State.follow_none (s := s.dropLeader) rfl none hr
  rw [State.beatLost_eq, lost]
  refine ⟨fun ha => ?_, fun ha => ?_⟩
  · rw [if_neg (by simp [ha])]
    rfl
  · rw [if_pos (by simp [ha])]
    exact State.standAlone_herd _

/-! ## Members that the leader can reach (R387, R389) -/

theorem State.mem_reached (s : State) (fuel : Nat) {seen : List W64} {x : W64} (hx : x ∈ seen) : x ∈ s.reached fuel seen := by
  induction fuel generalizing seen with
  | zero => exact hx
  | succ k ih =>
    unfold State.reached
    dsimp only
    split
    · exact hx
    · exact ih (List.mem_append_left _ hx)

/-- Whoever is reached was seen from the first, or is tied to those that were seen. -/
theorem State.tied_of_reached {s : State} {fuel : Nat} {seen : List W64} {x : W64} (hx : x ∈ s.reached fuel seen) :
    x ∈ seen ∨ ∃ seen', s.tied seen' x = true := by
  induction fuel generalizing seen with
  | zero => exact .inl hx
  | succ k ih =>
    unfold State.reached at hx
    dsimp only at hx
    split at hx
    · exact .inl hx
    · rcases ih hx with hx | hx
      · rcases List.mem_append.mp hx with hx | hx
        · exact .inl hx
        · have tied := (List.mem_filter.mp hx).2
          simp only [Bool.and_eq_true] at tied
          exact .inr ⟨seen, tied.2⟩
      · exact .inr hx

/-- A module is cut off: of its links nothing is known, no other reports a link with it, and the link of its JOIN is not UP. -/
structure State.CutOff (s : State) (x : W64) (n : Nat) : Prop where
  via : s.herd.via.find? (fun e => e.1 == x) = some (x, n)
  ties : ∀ e ∈ s.herd.ties, e.1 ≠ x ∧ x ∉ e.2
  link : (s.link n).state ≠ .up

theorem State.CutOff.tied {s : State} {x : W64} {n : Nat} (h : s.CutOff x n) (hx : x ≠ Config.identity) (seen : List W64) :
    s.tied seen x = false := by
  have none : s.herd.ties.find? (fun e => e.1 == x) = none :=
    List.find?_eq_none.mpr fun e he => by simpa using (h.ties e he).1
  unfold State.tied
  simp [hx, none, h.via, h.link]

theorem State.CutOff.censuses {s t : State} {x : W64} {n : Nat} (h : s.CutOff x n) (ht : s.Censuses t) : t.CutOff x n :=
  ⟨ht.via ▸ h.via, fun e he => h.ties e (ht.ties e he), ht.sends.state n ▸ h.link⟩

/-- What the herd is once the leader has found members that have left: the others have been told, and new tables are in the making. -/
theorem State.settleMembers_herd {s : State} {heard : List W64} {x : W64} (h2 : s.herd.role = 2) (hx : x ∈ s.herd.member)
    (hn : x ∉ s.here heard) : ∃ r v, (s.settleMembers heard).herd = { s.herd.settled (s.here heard) with
      answers := s.herd.answers ++ ((s.herd.settled (s.here heard)).member.filter (fun x => x != Config.identity)).map
        (fun x => (x, (s.herd.settled (s.here heard)).notice none false 2))
      newRoutes := r, vectors := v } := by
  rw [State.settleMembers_left h2 hx hn, State.herdChange_herd]
  obtain ⟨r, v, made⟩ := State.reroute_herd (({ s with herd := s.herd.settled (s.here heard) } : State).tellAll
    ((s.herd.settled (s.here heard)).member.filter (fun x => x != Config.identity))
    ((s.herd.settled (s.here heard)).notice none false 2))
  rw [made, State.tellAll_herd]
  exact ⟨r, v, rfl⟩

theorem State.settleMembers_flash (s : State) (heard : List W64) : (s.settleMembers heard).flash = s.flash := by
  unfold State.settleMembers
  dsimp only
  split
  · rfl
  · split
    · rfl
    · exact (State.flash_of_inner (State.herdChange_inner _ 2)).trans
        ((State.reroute_flash _).trans (State.tellAll_flash _ _ _))

/-- The members after the leader has looked who is left. -/
theorem State.settleMembers_member {s : State} (h2 : s.herd.role = 2) (heard : List W64) :
    (s.settleMembers heard).herd.member = s.herd.member.filter (fun x => (s.here heard).contains x) := by
  by_cases hall : ∀ x ∈ s.herd.member, x ∈ s.here heard
  · rw [State.settleMembers_all hall]
    exact (List.filter_eq_self.mpr fun x hx => List.contains_iff_mem.mpr (hall x hx)).symm
  · push Not at hall
    obtain ⟨x, hx, hn⟩ := hall
    obtain ⟨_, _, herd⟩ := State.settleMembers_herd h2 hx hn
    rw [herd]
    rfl

/-- What the leader tells those that are left, if any have left. -/
theorem State.settleMembers_tells {s : State} (h2 : s.herd.role = 2) (heard : List W64) : ∃ later,
    (s.settleMembers heard).herd.answers = s.herd.answers ++ later ∧ (s.settleMembers heard).herd.book = s.herd.book ∧
    ∀ x ∈ later, x.1 ∈ (s.settleMembers heard).herd.member ∧ x.2.cause = 2 ∧ x.2.members = (s.settleMembers heard).herd.members := by
  by_cases hall : ∀ x ∈ s.herd.member, x ∈ s.here heard
  · rw [State.settleMembers_all hall]
    exact ⟨[], (List.append_nil _).symm, rfl, fun x hx => absurd hx List.not_mem_nil⟩
  · push Not at hall
    obtain ⟨x, hx, hn⟩ := hall
    obtain ⟨_, _, herd⟩ := State.settleMembers_herd h2 hx hn
    rw [herd]
    refine ⟨_, rfl, rfl, fun y hy => ?_⟩
    obtain ⟨z, hz, rfl⟩ := List.mem_map.mp hy
    exact ⟨List.mem_of_mem_filter hz, rfl, rfl⟩

/-- A member that is cut off has left once the leader has looked. -/
theorem State.settleMembers_drops {s : State} {x : W64} {n : Nat} (h2 : s.herd.role = 2) (h : s.CutOff x n) (hx : x ≠ Config.identity) :
    x ∉ (s.settleMembers []).herd.member := by
  rw [State.settleMembers_member h2]
  intro hm
  have here : x ∈ s.here [] := List.contains_iff_mem.mp (List.mem_filter.mp hm).2
  rcases State.tied_of_reached here with seen | ⟨seen, tied⟩
  · exact hx (List.mem_singleton.mp seen)
  · rw [h.tied hx] at tied
    cases tied

/-- A changed link leaves no member that is cut off with a leader (R387, R389). -/
theorem State.linkChanged_drops {s : State} {x : W64} {n : Nat} (hc : s.censusRuns = true) (h : s.CutOff x n) (hx : x ≠ Config.identity)
    (h2 : s.linkChanged.herd.role = 2) : x ∉ s.linkChanged.herd.member := by
  have cut : s.follow.sendHellos.reroute.CutOff x n :=
    h.censuses (s.follow_censuses.trans ((State.sendHellos_censuses _).trans (State.reroute_censuses _)))
  unfold State.linkChanged at h2 ⊢
  rw [if_pos hc] at h2 ⊢
  dsimp only at h2 ⊢
  split at h2
  next h1 =>
    obtain ⟨_, joins⟩ := State.sendJoin_joins s.follow.sendHellos.reroute s.follow.sendHellos.reroute.joinMsg
    rw [joins] at h2
    exact absurd (h1.symm.trans h2) (by decide)
  next h1 =>
    rw [if_neg h1]
    by_cases hl : s.follow.sendHellos.reroute.herd.role = 2
    · exact State.settleMembers_drops hl cut hx
    · rw [State.settleMembers_follower hl] at h2
      exact absurd h2 hl

/-- What a link's output leaves goes on without the census. -/
theorem State.shed_census (s : State) (n : Nat) :
    (s.shed n).fw = s.fw ∧ (s.shed n).herd.via = s.herd.via ∧ (s.shed n).herd.ties = s.herd.ties := by
  have wire {t u : State} (h : u.offWire = t.offWire) : (u.fw, u.herd.via, u.herd.ties) = (t.fw, t.herd.via, t.herd.ties) :=
    (congrArg (fun u : State => (u.fw, u.herd.via, u.herd.ties)) h :)
  have passes (t : State) (p : Packet) : ((t.passOn p).fw, (t.passOn p).herd.via, (t.passOn p).herd.ties) =
      (t.fw, t.herd.via, t.herd.ties) := by
    unfold State.passOn
    split
    · rfl
    · split
      · exact wire (State.putOn_offWire _ _ _)
      · rfl
  have kept : ((s.shed n).fw, (s.shed n).herd.via, (s.shed n).herd.ties) = (s.fw, s.herd.via, s.herd.ties) := by
    unfold State.shed
    refine foldl_keeps (fun s : State => (s.fw, s.herd.via, s.herd.ties)) _ (fun t p => ?_) _ _
    split
    · rfl
    · split
      · exact passes t _
      · split
        · exact wire (State.sendReply_offWire _ _)
        · rfl
  simpa using kept

end Sys2Proof.Machine
end

section
/-! SUPPORT. What a JOIN and a census answer make of the herd (R387 to R389, R404), and the tables that vectors make (R391). -/

namespace Sys2Proof.Machine

/-! ## Addresses (R387) -/

theorem assignAddr_known {book : List (Nat × W64)} {id : W64} {e : Nat × W64} (h : book.find? (fun e => e.2 == id) = some e)
    (member absent : List W64) (want : Nat) : assignAddr book member absent id want = (e.1, book) := by
  unfold assignAddr
  rw [h]

/-- A module that the book does not know gets the address that it asks for, where that is free. -/
theorem assignAddr_wanted {book : List (Nat × W64)} {id : W64} {want : Nat} (h : ∀ e ∈ book, e.2 ≠ id ∧ e.1 ≠ want) (h0 : 0 < want)
    (hw : want < 0xFFFF) (member absent : List W64) : assignAddr book member absent id want = (want, book ++ [(want, id)]) := by
  have unknown : book.find? (fun e => e.2 == id) = none := List.find?_eq_none.mpr fun e he => by simpa using (h e he).1
  have unused : book.any (fun e => e.1 == want) = false := List.any_eq_false.mpr fun e he => by simpa using (h e he).2
  unfold assignAddr
  rw [unknown]
  exact if_pos (by simp [unused, hw, Nat.ne_of_gt h0, Nat.ne_of_lt hw])

/-! ## JOINs (R387, R388, R389) -/

/-- A JOIN that the leader refuses: beyond depth 8, or of a new module where the herd is full (R388). -/
def Herd.refuses (h : Herd) (j : JoinMsg) : Prop := 8 < j.depth ∨ (j.id ∉ h.member ∧ 16384 ≤ h.member.length)

/-- While a security core serves, the boot flash takes the address and the book (R387, R436). -/
theorem State.keepBook_flash {s : State} (h : s.roleServes 0 = true) (a : Nat) (book : Option (List (Nat × W64))) :
    (s.keepBook a book).flash = { s.flash with addr := a, book := book.getD s.flash.book } :=
  congrArg State.flash (if_pos h)

/-- What the leader assigns to a module that joins: its address, and the book then. -/
def Herd.assigned (h : Herd) (j : JoinMsg) : Nat × List (Nat × W64) := assignAddr h.book h.member h.absent j.id j.want

/-- The herd with a module that has joined. -/
def Herd.enrolled (h : Herd) (j : JoinMsg) : Herd :=
  let member := if h.member.contains j.id then h.member else h.member ++ [j.id]
  { h with book := (h.assigned j).2, member, members := member.length, absent := h.absent.filter (fun x => x != j.id) }

/-- The members that hear of a JOIN: all others, where the member or an entry of the book is new. -/
def Herd.hearOf (h : Herd) (j : JoinMsg) : List W64 :=
  if h.member.contains j.id && (h.assigned j).2 == h.book then []
  else (h.enrolled j).member.filter (fun x => x != j.id && x != Config.identity)

/-- The state when the joining module and the others have been told. -/
def State.enrols (s : State) (j : JoinMsg) : State :=
  let n := s.herd.enrolled j
  ((({ s with herd := n } : State).keepBook s.herd.addr (some n.book)).tell j.id
    (n.notice (some (s.herd.assigned j).1) false 1)).tellAll (s.herd.hearOf j) (n.notice none false 1)

/-- The state that has noted what a JOIN tells on its way (R387). -/
def State.notesJoin (s : State) (j : JoinMsg) : State := { s with herd := s.herd.heardJoin j }

theorem State.join_passes {s : State} (h : s.herd.role = 1) (j : JoinMsg) :
    s.join j = (s.notesJoin j).sendJoin { j with via := none } := if_pos h

theorem State.join_refuses {s : State} {j : JoinMsg} (h : s.herd.role = 2) (hr : s.herd.refuses j) :
    s.join j = (s.notesJoin j).tell j.id ((s.notesJoin j).herd.notice none true 5) := by
  have leads : ¬ (s.herd.heardJoin j).role = 1 := by rw [show (s.herd.heardJoin j).role = 2 from h]; decide
  unfold State.join
  dsimp only
  rw [if_neg leads, if_neg (not_not_intro (show (s.herd.heardJoin j).role = 2 from h))]
  refine if_pos ?_
  have members : (s.herd.heardJoin j).member = s.herd.member := rfl
  rcases hr with hd | ⟨hm, hl⟩
  · simp [hd]
  · simp [members, hm, hl]

theorem State.join_enrols {s : State} {j : JoinMsg} (h : s.herd.role = 2) (hr : ¬ s.herd.refuses j) : s.join j =
    (if s.herd.member.contains j.id then (s.notesJoin j).enrols j else ((s.notesJoin j).enrols j).reroute.herdChange 1).settleMembers
      [j.id] := by
  have leads : ¬ (s.herd.heardJoin j).role = 1 := by rw [show (s.herd.heardJoin j).role = 2 from h]; decide
  unfold State.join
  dsimp only
  rw [if_neg leads, if_neg (not_not_intro (show (s.herd.heardJoin j).role = 2 from h))]
  refine if_neg fun refused => hr ?_
  have members : (s.herd.heardJoin j).member = s.herd.member := rfl
  simp only [members, Bool.or_eq_true, Bool.and_eq_true, Bool.not_eq_true', decide_eq_true_eq] at refused
  rcases refused with ⟨hm, hl⟩ | hd
  · exact .inr ⟨fun hx => by simp [hx] at hm, hl⟩
  · exact .inl hd

theorem State.enrols_herd (s : State) (j : JoinMsg) : (s.enrols j).herd = { s.herd.enrolled j with
    answers := s.herd.answers ++ (j.id, (s.herd.enrolled j).notice (some (s.herd.assigned j).1) false 1) ::
      (s.herd.hearOf j).map (fun x => (x, (s.herd.enrolled j).notice none false 1)) } := by
  unfold State.enrols
  dsimp only
  rw [State.tellAll_herd, State.tell_herd, State.keepBook_herd]
  exact (congrArg (fun a => { s.herd.enrolled j with answers := a }) (List.append_cons _ _ _).symm :)

theorem State.enrols_book {s : State} (h : s.roleServes 0 = true) (j : JoinMsg) : (s.enrols j).flash.book = (s.herd.enrolled j).book := by
  unfold State.enrols
  dsimp only
  rw [State.tellAll_flash, State.flash_of_inner (State.tell_inner _ _ _)]
  refine congrArg Flash.book (State.keepBook_flash ?_ _ _)
  exact h

/-- What a JOIN that the leader takes leaves: a herd whose answers are the notice to the module, then those to the others, then those that tell
who has left. -/
theorem State.join_enrolled {s : State} {j : JoinMsg} (h : s.herd.role = 2) (hr : ¬ s.herd.refuses j) : ∃ later,
    (s.join j).herd.answers = s.herd.answers ++ (j.id, ((s.notesJoin j).herd.enrolled j).notice (some (s.herd.assigned j).1) false 1) ::
      ((s.notesJoin j).herd.hearOf j).map (fun x => (x, ((s.notesJoin j).herd.enrolled j).notice none false 1)) ++ later ∧
    (s.join j).herd.book = (s.herd.assigned j).2 ∧
    (∀ x ∈ later, x.1 ∈ (s.join j).herd.member ∧ x.2.cause = 2 ∧ x.2.members = (s.join j).herd.members) ∧
    j.id ∈ (s.join j).herd.member ∧ (s.roleServes 0 = true → (s.join j).flash.book = (s.herd.assigned j).2) := by
  have mid : ∃ r v, (if s.herd.member.contains j.id then (s.notesJoin j).enrols j
      else ((s.notesJoin j).enrols j).reroute.herdChange 1).herd = { ((s.notesJoin j).enrols j).herd with newRoutes := r, vectors := v } ∧
      (if s.herd.member.contains j.id then (s.notesJoin j).enrols j
        else ((s.notesJoin j).enrols j).reroute.herdChange 1).flash = ((s.notesJoin j).enrols j).flash := by
    split
    · exact ⟨_, _, rfl, rfl⟩
    · obtain ⟨r, v, made⟩ := ((s.notesJoin j).enrols j).reroute_herd
      exact ⟨r, v, (State.herdChange_herd _ _).trans made, (State.flash_of_inner (State.herdChange_inner _ _)).trans
        (State.reroute_flash _)⟩
  rw [State.join_enrols h hr]
  generalize (if s.herd.member.contains j.id then (s.notesJoin j).enrols j
      else ((s.notesJoin j).enrols j).reroute.herdChange 1) = t at mid ⊢
  obtain ⟨r, v, herd, flash⟩ := mid
  rw [State.enrols_herd] at herd
  have role : t.herd.role = 2 := (congrArg Herd.role herd).trans h
  have joined : j.id ∈ t.herd.member := by
    rw [herd]
    change j.id ∈ (if s.herd.member.contains j.id then s.herd.member else s.herd.member ++ [j.id])
    split
    next hm => exact List.contains_iff_mem.mp hm
    next => exact List.mem_append_right _ List.mem_cons_self
  obtain ⟨later, answers, book, tells⟩ := State.settleMembers_tells role [j.id]
  refine ⟨later, answers.trans (congrArg (fun h : Herd => h.answers ++ later) herd), book.trans (congrArg Herd.book herd :), tells, ?_,
    fun hs => ?_⟩
  · rw [State.settleMembers_member role]
    refine List.mem_filter.mpr ⟨joined, List.contains_iff_mem.mpr ?_⟩
    exact State.mem_reached _ _ (List.mem_cons_of_mem _ List.mem_cons_self)
  · rw [State.settleMembers_flash, flash]
    exact State.enrols_book (s := s.notesJoin j) hs j

/-! ## Census answers (R387, R388, R389, R404) -/

/-- The state when a census answer has been taken and stored, its traffic under the new address (R387, R404). -/
def State.placed (s : State) (m : CensusMsg) : State :=
  let h := s.herd
  let a := m.addr.getD h.addr
  let book := if m.book.isEmpty then h.book else m.book
  let s' := ({ s with herd := { h with role := if m.leader == Config.identity then 2 else 1, addr := a, epoch := m.epoch
                                       members := m.members, leader := m.leader, book } } : State).keepBook a
    (if s.eligible then some book else none)
  if a = h.addr then s' else s'.readdress a

/-- Beyond that an answer makes new tables and reports. -/
theorem State.census_places {s : State} {m : CensusMsg} (hm : m.excluded = false) :
    ∃ r v, (s.census m).herd = { (s.placed m).herd with newRoutes := r, vectors := v } ∧ (s.census m).flash = (s.placed m).flash := by
  have body : s.census m = if m.addr.getD s.herd.addr ≠ s.herd.addr || m.members ≠ s.herd.members || m.leader ≠ s.herd.leader ||
      m.epoch ≠ s.herd.epoch then (s.placed m).reroute.herdChange (if m.addr.getD s.herd.addr = s.herd.addr then m.cause else
        if s.herd.addr = 0 then 1 else 4) else s.placed m := if_neg (by simp [hm])
  rw [body]
  split
  · obtain ⟨r, v, made⟩ := (s.placed m).reroute_herd
    exact ⟨r, v, (State.herdChange_herd _ _).trans made, (State.flash_of_inner (State.herdChange_inner _ _)).trans (State.reroute_flash _)⟩
  · exact ⟨_, _, rfl, rfl⟩

theorem State.placed_herd (s : State) (m : CensusMsg) : (s.placed m).herd.addr = m.addr.getD s.herd.addr ∧
    (s.placed m).herd.epoch = m.epoch ∧ (s.placed m).herd.members = m.members ∧ (s.placed m).herd.leader = m.leader := by
  unfold State.placed
  dsimp only
  split
  · rw [State.keepBook_herd]
    exact ⟨rfl, rfl, rfl, rfl⟩
  · unfold State.readdress
    dsimp only
    rw [State.keepBook_herd]
    exact ⟨rfl, rfl, rfl, rfl⟩

theorem State.placed_flash {s : State} (h : s.roleServes 0 = true) (m : CensusMsg) :
    (s.placed m).flash.addr = m.addr.getD s.herd.addr := by
  unfold State.placed
  dsimp only
  split
  · refine congrArg Flash.addr (State.keepBook_flash ?_ _ _)
    exact h
  · refine congrArg Flash.addr (State.keepBook_flash ?_ _ _)
    exact h

/-- Under a new address what is not acknowledged has it as its source (R404). -/
theorem State.placed_unacked {s : State} {m : CensusMsg} (h : m.addr.getD s.herd.addr ≠ s.herd.addr) :
    ∀ u ∈ (s.placed m).herd.unacked, u.pkt.src = m.addr.getD s.herd.addr := by
  unfold State.placed
  dsimp only
  rw [if_neg h]
  intro u hu
  obtain ⟨x, -, rfl⟩ := List.mem_map.mp hu
  rfl

theorem State.census_excludes {s : State} {m : CensusMsg} (hm : m.excluded = true) (hr : s.herd.role ≠ 3) :
    (s.census m).herd = { s.herd with role := 3, addr := 0, epoch := m.epoch, members := m.members } := by
  have body : s.census m = ({ s with herd := { s.herd with role := 3, addr := 0, epoch := m.epoch, members := m.members } } : State).herdChange
      5 := (if_pos hm).trans (if_neg hr)
  rw [body]
  exact State.herdChange_herd _ _

theorem State.censusFor_own {s : State} {m : CensusMsg} (h : m.dest = none ∨ m.dest = some Config.identity) :
    s.censusFor m = s.census m := by
  unfold State.censusFor
  rcases h with h | h
  · rw [h]
  · rw [h]
    exact if_pos rfl

theorem State.censusFor_other {s : State} {m : CensusMsg} {x : W64} (h : m.dest = some x) (hx : x ≠ Config.identity) :
    s.censusFor m = s.tell x m := by
  unfold State.censusFor
  rw [h]
  exact if_neg hx

/-! ## Tables (R391) -/

/-- A table filled entry by entry from a function holds the function's values. -/
theorem getD_foldl_put {α : Type} (f : Nat → α) (ts : List Nat) (m : NMap α) (d : Nat) (x : α) (h : d ∈ ts ∨ NMap.getD m d x = f d) :
    NMap.getD (ts.foldl (fun m t => NMap.put m t (f t)) m) d x = f d := by
  induction ts generalizing m with
  | nil => exact h.resolve_left List.not_mem_nil
  | cons t ts ih =>
    refine ih _ ?_
    by_cases hd : d = t
    · subst hd
      exact .inr (NMap.getD_put_same _ _ _ _)
    · rw [NMap.getD_put_ne _ _ _ _ _ hd]
      exact h.imp (fun hm => (List.mem_cons.mp hm).resolve_left hd) id

theorem State.tables_routeTo {s : State} {d : Nat} (hd : d ∈ s.destinations) (ha : d ≠ s.herd.addr) :
    NMap.getD s.tables d (0, 0) = s.routeTo d :=
  getD_foldl_put s.routeTo _ _ d _ (.inl (List.mem_filter.mpr ⟨hd, by simpa using ha⟩))

/-- New tables in use are counted, and waiting packets that then go leave them (R393). -/
theorem State.wakeSenders_still (s : State) : s.wakeSenders.herd.still = s.herd.still := by
  unfold State.wakeSenders
  rw [State.wakeCores_herd]
  exact (congrArg State.herd (State.retryWaiting_offWire { s with herd := { s.herd with waiting := [] } } s.herd.waiting) :)

end Sys2Proof.Machine
end

section
/-! O50: HELLO, leader, JOIN, CENSUS, VECTOR and the installation of routes (R386 to R389, R391, R393, R403, R404, R499). -/

namespace Sys2Proof.Machine

/-! ## The commands -/

/-- New tables are installed in one step, and counted (R393). -/
theorem exec_routeInstall {s : State} {tbl : NMap (Nat × Nat)} (h : s.herd.newRoutes = some tbl) : ∃ t, exec .routeInstall s = .next t ∧
    t.herd.routes = tbl ∧ t.herd.newRoutes = none ∧
    NMap.getD t.herd.ctr 0x20 0 = min (2 ^ 64 - 1) (NMap.getD s.herd.ctr 0x20 0 + 1) := by
  have runs : exec .routeInstall s = .next ((({ s with herd := { s.herd with
      routes := tbl, newRoutes := none, repin := s.herd.repin ++ s.herd.pins, pins := [] } } : State).herdCount 0x20).drainPins).wakeSenders := by
    refine congrArg Host.Outcome.next ?_
    rw [h]
  have still := State.wakeSenders_still ((({ s with herd := { s.herd with
      routes := tbl, newRoutes := none, repin := s.herd.repin ++ s.herd.pins, pins := [] } } : State).herdCount 0x20).drainPins)
  exact ⟨_, runs, (congrArg Herd.routes still :), (congrArg Herd.newRoutes still :),
    (congrArg (fun h : Herd => NMap.getD h.ctr 0x20 0) still).trans (getD_bump_same s.herd.ctr 0x20 1 (by decide))⟩

/-- While no sapwood runs, there is no census (R499). -/
theorem exec_census_idle {s : State} (h : s.fw.sapwood = none) {c : Instr} {n : Nat} {m : HelloMsg} {v : List VectorEntry} {j : JoinMsg}
    {x : CensusMsg} (hn : n < 48) (hc : c ∈ [Instr.helloTimer, .leaderBeatTimeout, .joinRetryTimer, .hello n m, .vectorMsg n v, .censusJoin j,
      .census x]) : exec c s = .next s := by
  have rests : s.censusRuns = false := by simp [State.censusRuns, h]
  have link : decide (n < 48) = true := decide_eq_true hn
  simp only [List.mem_cons, List.not_mem_nil, or_false] at hc
  rcases hc with rfl | rfl | rfl | rfl | rfl | rfl | rfl
  · exact congrArg _ (if_neg (by simp [rests]))
  · exact congrArg _ (if_pos (by simp [rests]))
  · exact congrArg _ (if_neg (by simp [rests]))
  · exact (checked_of s _ _ link).trans (congrArg _ (if_pos (by simp [rests])))
  · exact (checked_of s _ _ link).trans (congrArg _ (if_neg (by simp [rests])))
  · exact congrArg _ (if_neg (by simp [rests]))
  · exact congrArg _ (if_neg (by simp [rests]))

section
variable {s : State} (hc : s.censusRuns = true)
include hc

theorem exec_helloTimer : exec .helloTimer s = .next s.follow.sendHellos := congrArg _ (if_pos hc)

theorem exec_hello {n : Nat} (h : HelloMsg) (hn : n < 48) (hu : (s.link n).state = .up) : exec (.hello n h) s = .next (s.hello n h) :=
  (checked_of s _ _ (decide_eq_true hn)).trans (congrArg _ (if_neg (by simp [hu, hc])))

theorem exec_leaderBeatTimeout (hr : s.herd.role ≠ 2) : exec .leaderBeatTimeout s = .next s.beatLost :=
  congrArg _ (if_neg (by simp [hr, hc]))

theorem exec_censusJoin (j : JoinMsg) : exec (.censusJoin j) s = .next (s.join j) := congrArg _ (if_pos hc)

theorem exec_census (m : CensusMsg) : exec (.census m) s = .next (s.censusFor m) := congrArg _ (if_pos hc)

theorem exec_joinRetryTimer (hr : s.herd.role = 3) : exec .joinRetryTimer s = .next (s.sendJoin s.joinMsg) :=
  congrArg _ (if_pos (by simp [hr, hc]))

/-- A member whose one tie to the herd goes down has left it (R387, R389). -/
theorem State.adminDown_drops {n : Nat} {x : W64} (hn : n < s.links.length) (hu : (s.link n).state = .up) (hx : x ≠ Config.identity)
    (hv : s.herd.via.find? (fun e => e.1 == x) = some (x, n)) (ht : ∀ e ∈ s.herd.ties, e.1 ≠ x ∧ x ∉ e.2)
    (h2 : (s.adminDown n).herd.role = 2) : x ∉ (s.adminDown n).herd.member := by
  obtain ⟨fw, via, ties⟩ := State.shed_census (s.setLink n (s.link n).takenDown) n
  have set := State.setLink_link s n (s.link n).takenDown hn
  have down : (s.link n).takenDown.state = .adminDown := Link.takenDown_state (by rw [hu]; decide)
  have held : n < (s.setLink n (s.link n).takenDown).links.length := (List.length_set ..).symm ▸ hn
  have link : (((s.setLink n (s.link n).takenDown).shed n).link n).state ≠ .up := by
    rw [(State.shed_sends _ n).state, State.setLink_link _ _ _ held, set]
    exact down ▸ by decide
  have cut : ((s.setLink n (s.link n).takenDown).shed n).CutOff x n := ⟨via ▸ hv, ties ▸ ht, link⟩
  exact State.linkChanged_drops ((congrArg (fun f => f.sapwood.isSome) fw).trans hc) cut hx h2

end

/-! ## Vectors (R391) -/

section
variable {s : State} {n : Nat} {v : List VectorEntry} (hn : n < 48)
include hn

theorem exec_vectorMsg_same (hv : (s.link n).vec = v) : exec (.vectorMsg n v) s = .next s :=
  (checked_of s _ _ (decide_eq_true hn)).trans (congrArg _ (if_neg (by simp [hv])))

theorem exec_vectorMsg_new (hu : (s.link n).state = .up) (hc : s.censusRuns = true) (hv : (s.link n).vec ≠ v) :
    exec (.vectorMsg n v) s = .next (s.setLink n { s.link n with vec := v }).reroute :=
  (checked_of s _ _ (decide_eq_true hn)).trans (congrArg _ (if_pos (by simp [hu, hc, hv])))

end

/-! ## JOINs -/

theorem Herd.hearOf_others {h : Herd} {j : JoinMsg} {x : W64} (hx : x ∈ h.hearOf j) : x ∈ h.member ∧ x ≠ j.id ∧ x ≠ Config.identity := by
  unfold Herd.hearOf Herd.enrolled at hx
  split at hx
  · exact absurd hx List.not_mem_nil
  · obtain ⟨hm, hne⟩ := List.mem_filter.mp hx
    simp only [Bool.and_eq_true, bne_iff_ne] at hne
    refine ⟨?_, hne⟩
    dsimp only at hm
    split at hm
    · exact hm
    · exact (List.mem_append.mp hm).resolve_right fun h1 => hne.1 (List.mem_singleton.mp h1)

/-- A new member or a new entry of the book is told to all others. -/
theorem Herd.mem_hearOf {h : Herd} {j : JoinMsg} {x : W64} (hn : j.id ∉ h.member ∨ (h.assigned j).2 ≠ h.book) (hx : x ∈ h.member)
    (hj : x ≠ j.id) (hi : x ≠ Config.identity) : x ∈ h.hearOf j := by
  unfold Herd.hearOf Herd.enrolled
  rw [if_neg (by simpa [imp_iff_not_or] using hn)]
  refine List.mem_filter.mpr ⟨?_, by simp [hj, hi]⟩
  dsimp only
  split
  · exact hx
  · exact List.mem_append_left _ hx

/-- Settles O50: each command by the branch that its conditions leave; what the census tells goes out on the links, which only send. -/
theorem censusAndRoutes : Obligations.CensusAndRoutes := by
  unfold Obligations.CensusAndRoutes
  intro s
  refine ⟨fun tbl h => exec_routeInstall h, fun h c n m v j x hn hc => exec_census_idle h hn hc, fun hc => ?_⟩
  refine ⟨?_, fun n h hn hl hu => ?_, fun hr => ?_, fun j h2 => ?_, fun j n h1 hp => ?_, fun n x hn hl hu h2 hx hv ht => ?_,
    fun m hd hm => ?_, fun m hd hm hr => ?_, fun m x hd hx => ?_, fun n h3 hp => ?_, fun n v hn hl hu => ?_⟩
  · exact ⟨_, exec_helloTimer hc, (State.sendHellos_links _).trans s.follow_censuses.sends.upLinks, State.sendHellos_says _,
      State.sendHellos_beat _⟩
  · have line := State.hello_line hl h
    exact ⟨_, exec_hello hc h hn hu, Link.heard_of_line line, Link.peerDepth_of_line line, Link.peerAddr_of_line line,
      fun ht hr => State.hello_turns ht hr⟩
  · have line (n : Nat) := s.beatLost_censuses.sends.line n
    refine ⟨_, exec_leaderBeatTimeout hc hr, fun n h heard => ⟨?_, fun lead => ?_⟩, fun he hh h0 => ⟨fun ha => ?_, fun ha => ?_⟩⟩
    · rw [Link.heard_of_line (line n), State.dropLeader_link, Link.dropped_heard, heard]
    · rw [Link.fresh_of_line (line n), State.dropLeader_link, Link.dropped_fresh heard lead]
    · rw [(State.beatLost_alone he hh h0).1 ha]
      exact ⟨rfl, rfl, rfl, rfl⟩
    · exact (State.beatLost_alone he hh h0).2 ha
  · by_cases refused : s.herd.refuses j
    · have herd := (congrArg State.herd (State.join_refuses h2 refused)).trans (State.tell_herd _ _ _)
      refine ⟨_, (s.notesJoin j).herd.notice none true 5, [], [], exec_censusJoin hc j, ?_, ?_⟩
      · rw [herd]
        exact (List.append_nil _).symm
      · refine ⟨fun x hx => absurd hx List.not_mem_nil, fun x hx => absurd hx List.not_mem_nil, fun _ => ⟨rfl, rfl, rfl, rfl, ?_⟩,
          fun hn => absurd refused hn, fun hn => absurd refused hn⟩
        rw [herd]
        rfl
    · obtain ⟨later, answers, book, tells, joined, flash⟩ := State.join_enrolled h2 refused
      refine ⟨_, _, _, later, exec_censusJoin hc j, answers, fun x hx => ?_, tells, fun h => absurd h refused, fun _ hn x hx hj hi => ?_,
        fun _ => ⟨rfl, joined, fun hs => (flash hs).trans book.symm, fun e he => ?_, fun hfree h0 hw => ?_⟩⟩
      · obtain ⟨y, hy, rfl⟩ := List.mem_map.mp hx
        obtain ⟨hm, hj, hi⟩ := Herd.hearOf_others hy
        exact ⟨hm, hj, hi, rfl, rfl, book.symm, rfl, rfl⟩
      · rw [List.map_map]
        rw [book] at hn
        exact List.mem_map.mpr ⟨x, Herd.mem_hearOf (h := (s.notesJoin j).herd) hn hx hj hi, rfl⟩
      · exact congrArg (fun a : Nat × List (Nat × W64) => some a.1) (assignAddr_known he _ _ _)
      · exact congrArg (fun a : Nat × List (Nat × W64) => some a.1) (assignAddr_wanted hfree h0 hw _ _)
  · refine ⟨_, exec_censusJoin hc j, ?_⟩
    rw [State.join_passes h1, State.sendJoin_herd (s := s.notesJoin j) hp]
    rfl
  · exact ⟨_, checked_of s _ _ (decide_eq_true hn), fun h2 => State.adminDown_drops hc hl hu hx hv ht h2⟩
  · obtain ⟨_, _, herd, flash⟩ := State.census_places (s := s) hm
    obtain ⟨addr, epoch, members, leader⟩ := s.placed_herd m
    refine ⟨_, exec_census hc m, ?_⟩
    rw [State.censusFor_own hd, herd, flash]
    exact ⟨addr, fun hs => State.placed_flash hs m, epoch, members, leader, fun ha => State.placed_unacked ha⟩
  · refine ⟨_, exec_census hc m, ?_⟩
    rw [State.censusFor_own hd, State.census_excludes hm hr]
    exact ⟨rfl, rfl⟩
  · refine ⟨_, exec_census hc m, ?_⟩
    rw [State.censusFor_other hd hx, State.tell_herd]
    exact ⟨rfl, rfl, rfl⟩
  · exact ⟨_, exec_joinRetryTimer hc h3, congrArg Herd.joins (State.sendJoin_herd hp _)⟩
  · refine ⟨fun hv => exec_vectorMsg_same hn hv, fun hv => ⟨_, exec_vectorMsg_new hn hu hc hv, ?_, ?_, fun hr => ?_, fun h0 h3 => ?_⟩⟩
    · rw [Link.vec_of_line ((State.reroute_censuses _).sends.line n), State.setLink_link _ _ _ hl]
    · exact (State.reroute_censuses _).routes
    · exact (congrArg (fun u : State => u.herd.newRoutes) (State.reroute_idle (s := s.setLink n { s.link n with vec := v }) hr) :)
    · exact ⟨_, State.reroute_newRoutes h0 h3, fun d hd ha => State.tables_routeTo hd ha⟩

end Sys2Proof.Machine
end

section
/-! SUPPORT. Flits, lanes and packet headers as bytes (R371, R375, R379): what each carries is read back. -/

namespace Sys2Proof.Machine

open Laws

/-! ## Fields of byte strings -/

theorem headWord_skip (k v : Nat) (rest : List Byte) (off n : Nat) (h : k ≤ off) :
    headWord (leBytes k v ++ rest) off n = headWord rest (off - k) n := by
  unfold headWord
  rw [List.drop_append, List.drop_of_length_le (by rwa [length_leBytes]), List.nil_append, length_leBytes]

theorem headWord_here (n v : Nat) (rest : List Byte) : headWord (leBytes n v ++ rest) 0 n = v % 256 ^ n :=
  headWord_append [] rest v n

/-- A string is its pieces of one length, one after the other. -/
theorem flatMap_pieces (bs : List Byte) (n m : Nat) :
    (List.range m).flatMap (fun k => (bs.drop (n * k)).take n) = bs.take (n * m) := by
  induction m with
  | zero => rw [Nat.mul_zero, List.take_zero]; rfl
  | succ m ih => rw [List.range_succ, List.flatMap_append, ih, List.flatMap_singleton, ← List.take_add, Nat.mul_succ]

/-! ## Flits (R375) -/

section
variable (kind chan seq : Nat) (bs : List Byte) (a : Option Nat) (cs : List Nat)

theorem length_flitBytes : (flitBytes kind chan seq bs).length = 256 := by
  simp [flitBytes]

theorem flitKind_flitBytes (h : kind < 256) : flitKind ⟨flitBytes kind chan seq bs, a, cs⟩ = kind := by
  simp only [flitKind, flitBytes, List.append_assoc, headWord_here]
  omega

theorem flitChan_flitBytes : flitChan ⟨flitBytes kind chan seq bs, a, cs⟩ = chan % 4 := by
  simp only [flitChan, flitBytes, List.append_assoc]
  rw [headWord_skip _ _ _ _ _ (by decide), headWord_here]
  omega

theorem flitSeq_flitBytes : flitSeq ⟨flitBytes kind chan seq bs, a, cs⟩ = seq % 1024 := by
  simp only [flitSeq, flitBytes, List.append_assoc]
  rw [headWord_skip _ _ _ _ _ (by decide), headWord_skip _ _ _ _ _ (by decide), headWord_here]
  omega

theorem flitPayload_flitBytes : flitPayload ⟨flitBytes kind chan seq bs, a, cs⟩ = padTo 248 bs := by
  have head : (leBytes 1 kind ++ leBytes 1 (chan % 4) ++ leBytes 2 (seq % 1024)).length = 4 := by simp
  unfold flitPayload flitBytes
  dsimp only
  rw [List.append_assoc _ (padTo 248 bs), List.drop_left' head, List.take_left' (length_padTo _ _)]

end

/-! ## Lanes (R371) -/

theorem dealt_lanes (lanes : List Nat) (flit : List Byte) : (dealt lanes flit).map (·.1) = lanes := by
  unfold dealt
  rw [List.map_map]
  exact List.zipIdx_map_fst 0 lanes

/-- The lanes carry the whole of a flit, where they share it equally. -/
theorem dealt_whole {lanes : List Nat} {flit : List Byte} (h : 256 / lanes.length * lanes.length = 256) (hf : flit.length = 256) :
    (dealt lanes flit).flatMap (·.2) = flit := by
  have places : (dealt lanes flit).flatMap (·.2) =
      (lanes.zipIdx.map Prod.snd).flatMap (fun k => (flit.drop (256 / lanes.length * k)).take (256 / lanes.length)) := by
    unfold dealt
    rw [List.flatMap_map, List.flatMap_map]
    simp only [Nat.mul_comm]
  rw [places, List.zipIdx_map_snd, ← List.range_eq_range', flatMap_pieces, h, ← hf, List.take_length]

theorem dealt_equal {lanes : List Nat} {flit : List Byte} (h : 256 / lanes.length * lanes.length = 256) (hf : flit.length = 256) :
    ∀ e ∈ dealt lanes flit, e.2.length = 256 / lanes.length := by
  intro e he
  obtain ⟨l, hl, rfl⟩ := List.mem_map.mp he
  have place : l.2 < lanes.length := (List.mem_zipIdx' hl).1
  have fits : l.2 * (256 / lanes.length) + 256 / lanes.length ≤ 256 := by
    calc l.2 * (256 / lanes.length) + 256 / lanes.length = (256 / lanes.length) * (l.2 + 1) := by ring
      _ ≤ 256 / lanes.length * lanes.length := Nat.mul_le_mul_left _ place
      _ = 256 := h
  rw [List.length_take, List.length_drop, hf]
  omega

/-! ## Packet headers (R379) -/

theorem length_packetHeader (p : Packet) (tag : List Byte) : (packetHeader p tag).length = 64 := by
  simp [packetHeader]

/-- The byte of a header that holds channel, ORDERED and DOWN. -/
theorem flags_read {c : Nat} (h : c < 4) (o d : Bool) : let x := (c % 4 + 4 * b2n o + 8 * b2n d) % 256 ^ 1
    x % 4 = c ∧ x.testBit 2 = o ∧ x.testBit 3 = d := by
  interval_cases c <;> cases o <;> cases d <;> decide

theorem word_read (w : W64) : BitVec.ofNat 64 (w.toNat % 256 ^ 8) = w := by
  rw [Nat.mod_eq_of_lt (show w.toNat < 256 ^ 8 from w.isLt), BitVec.ofNat_toNat, BitVec.setWidth_eq]

theorem packetOf_packetHeader {p : Packet} (h : p.wf (fun _ => true) = true) (tag : List Byte) :
    packetOf (packetHeader p tag) p.payload = p := by
  simp only [Packet.wf, fits, Bool.true_and, Bool.and_eq_true, decide_eq_true_eq] at h
  obtain ⟨⟨⟨⟨⟨⟨⟨⟨⟨dest, src⟩, job⟩, type⟩, chan⟩, hops⟩, flow⟩, seq⟩, msg⟩, -⟩ := h
  obtain ⟨c, o, d⟩ := flags_read chan p.ordered p.down
  simp only [packetOf, packetHeader, List.append_assoc, headWord_skip, headWord_here, Nat.reduceLeDiff, Nat.reduceSub, c, o, d]
  rw [Nat.mod_eq_of_lt (show p.dest < 256 ^ 2 from dest), Nat.mod_eq_of_lt (show p.src < 256 ^ 2 from src),
    Nat.mod_eq_of_lt (show p.job < 256 ^ 2 from job), Nat.mod_eq_of_lt (show p.type < 256 ^ 1 from type),
    Nat.mod_eq_of_lt (show p.hops < 256 ^ 1 from hops), Nat.mod_eq_of_lt (show p.flow < 256 ^ 4 from flow),
    Nat.mod_eq_of_lt (show p.seq < 256 ^ 4 from seq), Nat.mod_eq_of_lt (show p.msg < 256 ^ 4 from msg),
    word_read p.opA, word_read p.opB]

/-! ## Records (R381) -/

theorem length_recordOf (key count : Nat) (p : Packet) : (recordOf key count p).length = 64 + p.payload.length := by
  simp [recordOf, length_packetHeader]

end Sys2Proof.Machine
end

section
/-! SUPPORT. What a link sends of what waits at its output (R375, R378), and what acknowledgements, NAKs, retraining and discarded flits leave
of it (R376, R381). -/

namespace Sys2Proof.Machine

/-! ## The packet that goes next (R378) -/

/-- With nothing at the output nothing goes. -/
theorem Link.sendOne_empty {l : Link} (h : l.outQ = []) (own w c : Nat) : l.sendOne own w c = none := by
  unfold Link.sendOne Link.choose
  rw [h]
  rfl

theorem Link.pump_empty {l : Link} (h : l.outQ = []) (own w fuel : Nat) : l.pump own w fuel = l := by
  cases fuel with
  | zero => rfl
  | succ k =>
    have idle : ∀ c, l.sendOne own w c = none := Link.sendOne_empty h own w
    unfold Link.pump
    rw [idle 0]
    dsimp only
    have nobody : [l.turn, l.turn % 3 + 1, (l.turn + 1) % 3 + 1].find? (fun c => (l.sendOne own w c).isSome) = none :=
      List.find?_eq_none.mpr fun c _ => by simp [idle c]
    rw [nobody]

section
variable {l : Link} {p : Packet} (h : l.outQ = [p])
include h

/-- The one packet that waits goes by its own channel only. -/
theorem Link.sendOne_other (own w : Nat) {c : Nat} (hc : c ≠ p.chan) : l.sendOne own w c = none := by
  have others : (p.chan == c) = false := beq_false_of_ne (Ne.symm hc)
  unfold Link.sendOne Link.choose
  rw [h]
  simp [others]

/-- It goes where its credits, the retry buffer and the key allow. -/
theorem Link.sendOne_clear (own w : Nat) (hc : l.clear? p = true) :
    ∃ d, l.sendOne own w p.chan = some { l.transmit p with outQ := [], deficits := d } := by
  unfold Link.sendOne Link.choose
  rw [h]
  cases ht : transit own p with
  | true => exact ⟨l.deficits.set p.chan ((l.deficits.getD p.chan (0, 0)).1, 0), by simp [ht, hc]⟩
  | false => exact ⟨l.deficits.set p.chan (0, (l.deficits.getD p.chan (0, 0)).2), by simp [ht, hc]⟩

/-- So pumping sends it, whatever channel's turn it is. -/
theorem Link.pump_clear (own w : Nat) (hc : l.clear? p = true) (hp : p.chan < 4) (h1 : 1 ≤ l.turn) (h3 : l.turn ≤ 3) :
    ∃ t d, l.pump own w 2 = { l.transmit p with outQ := [], turn := t, deficits := d } := by
  obtain ⟨d, sent⟩ := Link.sendOne_clear h own w hc
  unfold Link.pump
  by_cases h0 : p.chan = 0
  · rw [h0] at sent
    rw [sent]
    exact ⟨_, d, Link.pump_empty rfl own w 1⟩
  · have turn : [l.turn, l.turn % 3 + 1, (l.turn + 1) % 3 + 1].find? (fun c => (l.sendOne own w c).isSome) = some p.chan := by
      have mine : (fun c => (l.sendOne own w c).isSome) = fun c => c == p.chan := funext fun c => by
        by_cases hc : c = p.chan
        · rw [hc, sent, beq_self_eq_true]
          rfl
        · rw [Link.sendOne_other h own w hc, beq_false_of_ne hc]
          rfl
      have among : p.chan ∈ [l.turn, l.turn % 3 + 1, (l.turn + 1) % 3 + 1] := by
        simp only [List.mem_cons, List.not_mem_nil, or_false]
        omega
      rw [mine]
      obtain ⟨c, found⟩ := Option.isSome_iff_exists.mp (List.find?_isSome (p := fun c => c == p.chan) |>.mpr
        ⟨p.chan, among, beq_self_eq_true p.chan⟩)
      rw [found, beq_iff_eq.mp (List.find?_some (p := fun c => c == p.chan) found)]
    rw [Link.sendOne_other h own w (Ne.symm h0)]
    dsimp only
    rw [turn]
    dsimp only
    rw [sent]
    exact ⟨_, d, Link.pump_empty rfl own w 1⟩

end

/-- Pumping adds nothing to the output. -/
theorem Link.pump_outQ (l : Link) (own w fuel : Nat) : (l.pump own w fuel).outQ.length ≤ l.outQ.length := by
  have one {l l' : Link} {c : Nat} (h : l.sendOne own w c = some l') : l'.outQ.length ≤ l.outQ.length := by
    unfold Link.sendOne at h
    split at h
    · cases h
    · split at h
      · cases h
        exact List.length_erase_le
      · cases h
  induction fuel generalizing l with
  | zero => exact Nat.le_refl _
  | succ k ih =>
    unfold Link.pump
    split
    next l' h => exact (ih l').trans (one h)
    next =>
      dsimp only
      split
      · exact Nat.le_refl _
      next c hc =>
        have goes : (l.sendOne own w c).isSome = true := List.find?_some (p := fun c => (l.sendOne own w c).isSome) hc
        obtain ⟨l', hl⟩ := Option.isSome_iff_exists.mp goes
        have sent := one hl
        rw [hl]
        exact (ih _).trans sent

/-! ## The flits of a packet (R375) -/

/-- A packet that no flit waits for fills flits of its own, which carry its record. -/
theorem Link.transmit_fresh {l : Link} (h : l.retry = []) (p : Packet) :
    (l.transmit p).retry.flatMap (·.bytes) = recordOf l.txKey l.records p ∧
    (∀ x ∈ (l.transmit p).retry, x.chan = p.chan ∧ x.bytes.length ≤ 248) ∧ (l.transmit p).retry.length = flitsOf p ∧
    (l.transmit p).credits = l.credits.set p.chan (l.credits.getD p.chan 0 - flitsOf p) ∧
    (l.transmit p).ctr = bump l.ctr 0x48 (flitsOf p) := by
  have room : l.room p.chan = 0 := by simp [Link.room, h]
  have cost : l.cost p = flitsOf p := by simp [Link.cost, flitsOf, room]
  have whole : (recordOf l.txKey l.records p).length ≤ 248 * flitsOf p := by
    rw [length_recordOf, flitsOf, cdiv]
    omega
  unfold Link.transmit
  dsimp only
  rw [room, cost, h, List.map_nil, List.nil_append]
  refine ⟨?_, fun x hx => ?_, by simp, rfl, rfl⟩
  · rw [List.flatMap_map]
    simp only [Nat.zero_add]
    rw [flatMap_pieces, List.take_of_length_le whole]
  · obtain ⟨k, -, rfl⟩ := List.mem_map.mp hx
    exact ⟨rfl, List.length_take_le _ _⟩

theorem flitsOf_pos (p : Packet) : 0 < flitsOf p := by
  unfold flitsOf cdiv
  omega

/-! ## The retry buffer (R376) -/

section
variable {l : Link} {q : Nat} {x : TxFlit} {old rest : List TxFlit} (h : l.retry = old ++ x :: rest) (hx : x.seq = q)
  (ho : ∀ e ∈ old, e.seq ≠ q)
include h hx ho

/-- The flit of a number is the first that has it. -/
theorem Link.retry_findIdx : l.retry.findIdx (fun e => e.seq == q) = old.length ∧ old.length < l.retry.length := by
  rw [h, findIdx_first (fun o hm => beq_false_of_ne (ho o hm)) (beq_iff_eq.mpr hx)]
  exact ⟨rfl, by simp⟩

/-- An acknowledgement drops the flits up to its own. -/
theorem Link.acked_retry : ∃ r, l.acked q = { l with retry := rest, naks := 0, replay := r } := by
  obtain ⟨place, lt⟩ := Link.retry_findIdx h hx ho
  unfold Link.acked
  rw [place]
  dsimp only
  rw [if_pos lt, h, List.drop_append, List.drop_of_length_le (Nat.le_succ _), Nat.add_sub_cancel_left]
  exact ⟨_, rfl⟩

/-- A NAK leaves the flits from its own on. -/
theorem Link.replayFrom_nak : (l.replayFrom (if l.retry.findIdx (fun e => e.seq == q) < l.retry.length then
    l.retry.findIdx (fun e => e.seq == q) else 0)).retry = x :: rest := by
  obtain ⟨place, lt⟩ := Link.retry_findIdx h hx ho
  rw [place, if_pos lt]
  unfold Link.replayFrom Link.count
  dsimp only
  rw [h, List.drop_left]

end

theorem Link.closed_wire (l : Link) : l.closed.retry.map TxFlit.wire = l.retry.map TxFlit.wire := List.map_map ..

/-! ## Links that pump and retrain -/

theorem State.pumpLink_link {s : State} {n : Nat} (hu : (s.link n).state = .up) : (s.pumpLink n).link n =
    ((s.link n).pump s.herd.addr (max (s.share n) 26) ((s.link n).outQ.length + 1)).closed := by
  have goes : s.pumpLink n = s.setLink n _ := if_pos (beq_iff_eq.mpr hu)
  rw [goes, State.setLink_link _ _ _ (State.lt_of_up hu)]

/-- A link that is UP and must retrain is TRAINING, and its output is void (R376, R381). -/
theorem State.retrain_link {s : State} {n : Nat} (hu : (s.link n).state = .up) :
    (s.retrain n).link n = { s.link n with state := .training, naks := 0, authAt := [], outQ := [] } := by
  have goes : s.retrain n = (s.setLink n { s.link n with state := .training, naks := 0, authAt := [] }).linkLost n :=
    if_pos (beq_iff_eq.mpr hu)
  rw [goes]
  exact State.linkLost_set (s := s) rfl (State.lt_of_up hu) LinkState.noConfusion

/-! ## Discarded flits (R376) -/

theorem Link.discard_control (l : Link) :
    l.discard.control = if l.nakSent then l.control else l.control ++ [(1, l.rxSeq)] := by
  unfold Link.discard
  split <;> rfl

theorem Link.discard_rest (l : Link) : l.discard.rxSeq = l.rxSeq ∧ l.discard.ctr = l.ctr := by
  unfold Link.discard
  split <;> exact ⟨rfl, rfl⟩

end Sys2Proof.Machine
end

section
/-! SUPPORT. A flit in sequence that completes a packet, and the place that the packet goes to (R376, R377, R380, R381, R394). -/

namespace Sys2Proof.Machine

theorem State.setLink_setLink (s : State) (n : Nat) (a b : Link) : (s.setLink n a).setLink n b = s.setLink n b :=
  congrArg (fun ls => { s with links := ls }) (List.set_set a)

/-! ## The place of a packet (R377, R380, R394) -/

/-- The state when a link has given credits of a channel back (R378). -/
def State.returns (s : State) (n c k : Nat) : State := s.setLink n ((s.link n).say (2 + c % 4) k)

theorem State.returns_link {s : State} {n : Nat} (hn : n < s.links.length) (c k : Nat) :
    (s.returns n c k).link n = (s.link n).say (2 + c % 4) k := State.setLink_link _ _ _ hn

/-- A link-local packet (R380). -/
def linkLocal (p : Packet) : Bool := 0x20 ≤ p.type && decide (p.type ≤ 0x22)

/-- The state with a packet for this module in the inbox, and what it keeps of the receive buffer (R377). -/
def State.lands (s : State) (n : Nat) (p : Packet) : State :=
  let t : State := { s with herd := { s.herd with inbox := s.herd.inbox ++ [p] } }
  if p.chan = 1 || p.chan = 3 then { t with herd := { t.herd with held := t.herd.held ++ [(p, n, 1)] } } else t.returns n p.chan 1

section
variable {s : State} {n : Nat} {p : Packet}

theorem State.arrive_linkLocal (hl : linkLocal p = true) : s.arrive n p true 1 = s.returns n p.chan 1 := if_pos hl

variable (hl : linkLocal p = false)
include hl

theorem State.arrive_here (hd : p.dest = s.herd.addr) : s.arrive n p true 1 = s.lands n p := by
  refine (if_neg (ne_true_of_eq_false hl)).trans ((if_pos hd).trans ?_)
  unfold State.lands
  dsimp only
  by_cases hc : (decide (p.chan = 1) || decide (p.chan = 3)) = true
  · rw [if_pos hc]
    exact if_pos (by simp [hc])
  · rw [if_neg hc]
    exact if_neg (by simpa using hc)

theorem State.arrive_reserved (hd : p.dest ≠ s.herd.addr) (hr : reservedType p.type = true) :
    s.arrive n p true 1 = (s.returns n p.chan 1).herdCount 0x40 :=
  (if_neg (ne_true_of_eq_false hl)).trans ((if_neg hd).trans (if_pos hr))

theorem State.arrive_through (hd : p.dest ≠ s.herd.addr) (hr : reservedType p.type = false) :
    s.arrive n p true 1 = (s.returns n p.chan 1).passOn p :=
  (if_neg (ne_true_of_eq_false hl)).trans ((if_neg hd).trans (if_neg (ne_true_of_eq_false hr)))

end

section
variable {s : State} {n : Nat} {p : Packet}

/-- A packet that is held leaves its link as it was. -/
theorem State.arrive_holds (hl : linkLocal p = false) (hd : p.dest = s.herd.addr) (hc : p.chan = 1 ∨ p.chan = 3) :
    (s.arrive n p true 1).link n = s.link n ∧ (s.arrive n p true 1).herd.held = s.herd.held ++ [(p, n, 1)] := by
  rw [State.arrive_here hl hd, State.lands, if_pos (by simpa using hc)]
  exact ⟨rfl, rfl⟩

/-- Any other gives its credits back. -/
theorem State.arrive_returns (hn : n < s.links.length) (hk : ¬ (linkLocal p = false ∧ p.dest = s.herd.addr ∧ (p.chan = 1 ∨ p.chan = 3))) :
    ((s.arrive n p true 1).link n).line = ((s.link n).say (2 + p.chan % 4) 1).line := by
  have back := congrArg Link.line (State.returns_link hn p.chan 1)
  cases hl : linkLocal p with
  | true => rw [State.arrive_linkLocal hl, back]
  | false =>
    by_cases hd : p.dest = s.herd.addr
    · have free : ¬ (decide (p.chan = 1) || decide (p.chan = 3)) = true := fun hc => hk ⟨hl, hd, by simpa using hc⟩
      rw [State.arrive_here hl hd, State.lands, if_neg free]
      exact back
    · cases hr : reservedType p.type with
      | true => rw [State.arrive_reserved hl hd hr]; exact back
      | false => rw [State.arrive_through hl hd hr, (State.passOn_sends _ p).line n, back]

end

theorem State.lands_inbox (s : State) (n : Nat) (p : Packet) : (s.lands n p).herd.inbox = s.herd.inbox ++ [p] := by
  unfold State.lands
  dsimp only
  split <;> rfl

/-! ## A record that does not verify (R381) -/

/-- A link on which a record has failed to verify at time `t`. -/
def Link.distrusts (l : Link) (t : Nat) : Link :=
  { l with authAt := l.authAt.filter (fun x => decide (t ≤ x + 10 ^ 6)) ++ [t] }.count 0x40 1

/-- The state when a record has failed to verify. -/
def State.distrusts (s : State) (n c : Nat) : State :=
  ((s.returns n c 1).look (48 + n)).2.setLink n (((s.returns n c 1).link n).distrusts ((s.returns n c 1).look (48 + n)).1)

theorem State.arrive_bad (s : State) (n : Nat) (p : Packet) : s.arrive n p false 1 =
    if 4 ≤ (((s.returns n p.chan 1).link n).distrusts ((s.returns n p.chan 1).look (48 + n)).1).authAt.length then
      (s.distrusts n p.chan).retrain n else s.distrusts n p.chan := rfl

section
variable {s : State} {n : Nat} (hn : n < s.links.length)
include hn

theorem State.distrusts_link (c : Nat) : (s.distrusts n c).link n =
    ((s.link n).say (2 + c % 4) 1).distrusts ((s.returns n c 1).look (48 + n)).1 := by
  have held : n < ((s.returns n c 1).look (48 + n)).2.links.length := (List.length_set ..).symm ▸ hn
  rw [State.distrusts, State.setLink_link _ _ _ held, State.returns_link hn]

variable (hu : (s.link n).state = .up) (p : Packet)
include hu

/-- It is counted, and the flits that it took are free. -/
theorem State.arrive_bad_counts :
    NMap.getD ((s.arrive n p false 1).link n).ctr 0x40 0 = min (2 ^ 64 - 1) (NMap.getD (s.link n).ctr 0x40 0 + 1) ∧
      ((s.arrive n p false 1).link n).rxFlits = (s.link n).rxFlits := by
  have link := State.distrusts_link hn p.chan
  have counts := getD_bump_same (s.link n).ctr 0x40 1 (by decide)
  rw [State.arrive_bad]
  split
  · rw [State.retrain_link (by rw [link]; exact hu), link]
    exact ⟨counts, rfl⟩
  · rw [link]
    exact ⟨counts, rfl⟩

/-- Fewer than four within 1 ms change no more than that. -/
theorem State.arrive_bad_stays (ha : (s.link n).authAt.length < 3) :
    (s.arrive n p false 1).herd = s.herd ∧ ((s.arrive n p false 1).link n).state = .up := by
  have few : ¬ 4 ≤ (((s.returns n p.chan 1).link n).distrusts ((s.returns n p.chan 1).look (48 + n)).1).authAt.length := by
    rw [State.returns_link hn]
    have kept := List.length_filter_le (fun x => decide (((s.returns n p.chan 1).look (48 + n)).1 ≤ x + 10 ^ 6)) (s.link n).authAt
    unfold Link.distrusts Link.count Link.say
    dsimp only
    rw [List.length_append, List.length_singleton]
    omega
  rw [State.arrive_bad, if_neg few, State.distrusts_link hn]
  exact ⟨rfl, hu⟩

end

/-- Whatever becomes of a packet, the flits that its link holds of others stay. -/
theorem State.arrive_rxFlits {s : State} {n : Nat} (hu : (s.link n).state = .up) (p : Packet) (ok : Bool) :
    ((s.arrive n p ok 1).link n).rxFlits = (s.link n).rxFlits := by
  have hn := State.lt_of_up hu
  cases ok with
  | false => exact (State.arrive_bad_counts hn hu p).2
  | true =>
    by_cases hk : linkLocal p = false ∧ p.dest = s.herd.addr ∧ (p.chan = 1 ∨ p.chan = 3)
    · exact congrArg Link.rxFlits (State.arrive_holds hk.1 hk.2.1 hk.2.2).1
    · exact (Link.rxFlits_of_line (State.arrive_returns hn hk) :)

/-! ## The flit (R376) -/

/-- A link that has taken a flit in sequence. -/
def Link.took (l : Link) : Link :=
  { l with rxSeq := (l.rxSeq + 1) % 1024, rxSince := l.rxSince + 1, nakSent := false }.count 0x50 1

/-- The state when the bytes of a flit have joined those of its channel, and the packets that they complete have arrived. -/
def State.joinsFlit (s : State) (n : Nat) (f : Flit) (l : Link) : State :=
  let c := flitChan f
  let r := splitRecords (l.rxBuf.getD c [] ++ flitPayload f) 8
  ((s.setLink n { l with rxBuf := l.rxBuf.set c r.2, rxFlits := l.rxFlits.set c (l.rxFlits.getD c 0 + 1) }).arriveAll n c r.1).spare n c

theorem State.dataFlit_takes {s : State} {n : Nat} {f : Flit} (h : flitSeq f = (s.link n).rxSeq) (hs : (s.link n).rxSince < 31) :
    s.dataFlit n f = s.joinsFlit n f (s.link n).took := by
  have joins : s.dataFlit n f = s.joinsFlit n f (if 32 ≤ (s.link n).took.rxSince then (s.link n).took.ackNow else (s.link n).took) :=
    by
    unfold State.dataFlit State.joinsFlit
    dsimp only
    rw [if_pos (beq_iff_eq.mpr h)]
    rfl
  have few : ¬ 32 ≤ (s.link n).took.rxSince := Nat.not_le.mpr (Nat.succ_lt_succ hs)
  rw [joins, if_neg few]

/-- With no flit to spare nothing goes back. -/
theorem State.spare_none {s : State} {n c : Nat} (h : (s.link n).rxFlits.getD c 0 = 0) : s.spare n c = s := by
  unfold State.spare
  dsimp only
  rw [h]
  rfl

theorem State.arriveAll_one (s : State) (n c : Nat) (r : List Byte) : s.arriveAll n c [r] =
    (s.setLink n { s.link n with rxKeys := (openUnder (s.link n).rxKeys r).2.2, rxFlits := (s.link n).rxFlits.set c 0 }).arrive n
      { (openUnder (s.link n).rxKeys r).1 with chan := c } (openUnder (s.link n).rxKeys r).2.1 ((s.link n).rxFlits.getD c 0) := rfl

/-- A flit alone in its buffer that brings one whole record. -/
theorem State.dataFlit_completes {s : State} {n : Nat} {f : Flit} {r : List Byte} {p : Packet} {ok : Bool} {keys : List (Nat × Nat)}
    (hu : (s.link n).state = .up) (h : flitSeq f = (s.link n).rxSeq) (hb : (s.link n).rxBuf = [[], [], [], []])
    (hf : (s.link n).rxFlits = [0, 0, 0, 0]) (hr : splitRecords (flitPayload f) 8 = ([r], []))
    (ho : openUnder (s.link n).rxKeys r = (p, ok, keys)) (hs : (s.link n).rxSince < 31) :
    s.dataFlit n f = (s.setLink n { (s.link n).took with rxKeys := keys }).arrive n { p with chan := flitChan f } ok 1 := by
  have hc : flitChan f < 4 := Nat.mod_lt _ (by decide)
  have buffer : ∀ c < 4, ([[], [], [], []] : List (List Byte)).getD c [] = [] ∧
      ([[], [], [], []] : List (List Byte)).set c [] = [[], [], [], []] := by decide
  have flits : ∀ c < 4, ([0, 0, 0, 0].set c ([0, 0, 0, 0].getD c 0 + 1)).getD c 0 = 1 ∧
      ([0, 0, 0, 0].set c ([0, 0, 0, 0].getD c 0 + 1)).set c 0 = [0, 0, 0, 0] ∧ [0, 0, 0, 0].getD c 0 = 0 := by decide
  have took : (s.link n).took.rxBuf = [[], [], [], []] ∧ (s.link n).took.rxFlits = [0, 0, 0, 0] := ⟨hb, hf⟩
  have key : (s.link n).took.rxKeys = (s.link n).rxKeys := rfl
  rw [State.dataFlit_takes h hs, State.joinsFlit]
  dsimp only
  rw [took.1, took.2, (buffer _ hc).1, List.nil_append, hr]
  dsimp only
  rw [State.arriveAll_one, State.setLink_link _ _ _ (State.lt_of_up hu), State.setLink_setLink]
  dsimp only
  rw [key, ho, (buffer _ hc).2, (flits _ hc).1, (flits _ hc).2.1]
  refine State.spare_none ((congrArg (fun k => k.getD (flitChan f) 0) (State.arrive_rxFlits ?_ _ _)).trans ?_)
  · rw [State.setLink_link _ _ _ (State.lt_of_up hu)]
    exact hu
  · rw [State.setLink_link _ _ _ (State.lt_of_up hu)]
    exact (flits _ hc).2.2

end Sys2Proof.Machine
end

section
/-! O47: flits in and out of sequence, acknowledgements, NAKs, stalls, keys and transit credit (R371, R375, R376, R378 to R381, R394). -/

namespace Sys2Proof.Machine

/-! ## Flits received (R375, R376, R378) -/

section
variable {s : State} {n : Nat} {f : Flit} (hn : n < 48) (hu : (s.link n).state = .up)
include hn hu

theorem exec_flitReceive_bad (hg : flitGood f = false) : exec (.flitReceive n f) s = .next (s.setLink n ((s.link n).discard.count 0x30 1)) :=
  (checked_of s _ _ (decide_eq_true hn)).trans (congrArg _ ((if_neg (by simp [hu])).trans (if_pos (by simp [hg]))))

theorem exec_flitReceive_data (hg : flitGood f = true) (hk : flitKind f = 1) : exec (.flitReceive n f) s = .next (s.dataFlit n f) :=
  (checked_of s _ _ (decide_eq_true hn)).trans (congrArg _ ((if_neg (by simp [hu])).trans ((if_neg (by simp [hg])).trans (if_pos hk))))

theorem exec_flitReceive_control (hg : flitGood f = true) (hk : flitKind f = 2) :
    exec (.flitReceive n f) s = .next (s.controlFlit n f) :=
  (checked_of s _ _ (decide_eq_true hn)).trans (congrArg _ ((if_neg (by simp [hu])).trans
    ((if_neg (by simp [hg])).trans ((if_neg (by simp [hk])).trans (if_pos hk)))))

end

theorem State.dataFlit_discards {s : State} {n : Nat} {f : Flit} (h : flitSeq f ≠ (s.link n).rxSeq) :
    s.dataFlit n f = s.setLink n (s.link n).discard := if_neg (by simpa using h)

/-- A link that has heeded what a CONTROL flit acknowledges (R376). -/
def Link.heeds (l : Link) (f : Flit) : Link :=
  match f.ack with
  | some q => l.acked q
  | none => l

theorem Link.heeds_some (l : Link) {f : Flit} {q : Nat} (h : f.ack = some q) : l.heeds f = l.acked q := by rw [Link.heeds, h]

theorem Link.heeds_none (l : Link) {f : Flit} (h : f.ack = none) : l.heeds f = l := by rw [Link.heeds, h]

/-- A CONTROL flit, where nothing waits in the herd: the link takes its acknowledgement and its credits, and sends (R376, R378). -/
theorem State.controlFlit_link {s : State} {n : Nat} {f : Flit} {l : Link} (hu : (s.link n).state = .up) (hw : s.herd.waiting = [])
    (hl : (s.link n).heeds f = l) (hs : l.state = .up) :
    (s.controlFlit n f).link n = ((l.credited f.credits).pump s.herd.addr (max ((s.setLink n (l.credited f.credits)).share n) 26)
      (l.outQ.length + 1)).closed := by
  have runs : s.controlFlit n f = ((s.setLink n (l.credited f.credits)).pumpLink n).wakeSenders := by
    rw [← hl]
    rfl
  have set := State.setLink_link s n (l.credited f.credits) (State.lt_of_up hu)
  have quiet : ((s.setLink n (l.credited f.credits)).pumpLink n).herd.waiting = [] := by
    rw [State.pumpLink_herd]
    exact hw
  rw [runs, State.link_of_links (State.wakeSenders_links quiet), State.pumpLink_link (by rw [set]; exact hs), set]
  rfl

theorem Link.credited_getD (l : Link) (cs : List Nat) {c : Nat} (h : c < 4) :
    (l.credited cs).credits.getD c 0 = l.credits.getD c 0 + cs.getD c 0 := by
  simp [Link.credited, List.getD, h]

/-- An acknowledgement drops the flits up to its own, and credits are added. -/
theorem State.controlFlit_acks {s : State} {n : Nat} {f : Flit} {q : Nat} {x : TxFlit} {old rest : List TxFlit} (hu : (s.link n).state = .up)
    (hw : s.herd.waiting = []) (hout : (s.link n).outQ = []) (ha : f.ack = some q) (hr : (s.link n).retry = old ++ x :: rest)
    (hx : x.seq = q) (ho : ∀ e ∈ old, e.seq ≠ q) : ((s.controlFlit n f).link n).retry.map TxFlit.wire = rest.map TxFlit.wire ∧
      ∀ c < 4, ((s.controlFlit n f).link n).credits.getD c 0 = (s.link n).credits.getD c 0 + f.credits.getD c 0 := by
  obtain ⟨r, acked⟩ := Link.acked_retry hr hx ho
  have link := State.controlFlit_link (f := f) (l := (s.link n).acked q) hu hw (Link.heeds_some _ ha) (by rw [acked]; exact hu)
  rw [Link.pump_empty (by rw [acked]; exact hout)] at link
  rw [link]
  refine ⟨?_, fun c hc => (Link.credited_getD _ f.credits hc).trans ?_⟩
  · rw [Link.closed_wire, acked]
    rfl
  · rw [acked]

/-- A packet that its credits, the retry buffer and the key allow is sealed and goes out as flits of its own. -/
theorem State.controlFlit_sends {s : State} {n : Nat} {f : Flit} {p : Packet} (hu : (s.link n).state = .up) (hw : s.herd.waiting = [])
    (hout : (s.link n).outQ = [p]) (ha : f.ack = none) (hr : (s.link n).retry = []) (hp : p.chan < 4) (h1 : 1 ≤ (s.link n).turn)
    (h3 : (s.link n).turn ≤ 3) (hc : ((s.link n).credited f.credits).clear? p = true) :
    let l := s.link n
    let m := (s.controlFlit n f).link n
    m.outQ = [] ∧ m.retry.flatMap (·.bytes) = recordOf l.txKey l.records p ∧
      (∀ x ∈ m.retry, x.chan = p.chan ∧ x.bytes.length ≤ 248) ∧ m.retry.length = flitsOf p ∧ m.records = l.records + 1 ∧
      m.credits.getD p.chan 0 = l.credits.getD p.chan 0 + f.credits.getD p.chan 0 - flitsOf p ∧
      NMap.getD m.ctr 0x48 0 = min (2 ^ 64 - 1) (NMap.getD l.ctr 0x48 0 + flitsOf p) := by
  intro l m
  have link : m = _ := State.controlFlit_link (l := l) hu hw (Link.heeds_none _ ha) hu
  obtain ⟨turn, d, sent⟩ := Link.pump_clear (l := l.credited f.credits) hout s.herd.addr
    (max ((s.setLink n (l.credited f.credits)).share n) 26) hc hp h1 h3
  obtain ⟨bytes, each, count, credits, ctr⟩ := Link.transmit_fresh (l := l.credited f.credits) hr p
  rw [show l.outQ.length + 1 = 2 from congrArg (fun ps : List Packet => ps.length + 1) hout, sent] at link
  rw [link]
  refine ⟨rfl, ?_, fun x hx => ?_, (List.length_map _).trans count, rfl, ?_, ?_⟩
  · exact (List.flatMap_map ..).trans bytes
  · obtain ⟨y, hy, rfl⟩ := List.mem_map.mp hx
    exact each y hy
  · have four : p.chan < (l.credited f.credits).credits.length := by simpa [Link.credited] using hp
    refine (congrArg (fun cs : List Nat => cs.getD p.chan 0) credits).trans ?_
    rw [← Link.credited_getD l f.credits hp]
    simp [List.getD, four]
  · exact (congrArg (fun c => NMap.getD c 0x48 0) ctr).trans (getD_bump_same l.ctr 0x48 _ (flitsOf_pos p))

/-! ## A packet that a flit completes (R377, R380, R381) -/

theorem linkLocal_of_type {p : Packet} : linkLocal p = false ↔ p.type < 0x20 ∨ 0x22 < p.type := by
  unfold linkLocal
  simp only [Bool.and_eq_false_iff, decide_eq_false_iff_not]
  omega

theorem reserved_not_linkLocal {p : Packet} (h : reservedType p.type = true) : linkLocal p = false := by
  rw [linkLocal_of_type]
  simp only [reservedType, Bool.not_eq_true', Bool.or_eq_false_iff, Bool.and_eq_false_iff, decide_eq_false_iff_not] at h
  omega

/-- What a packet that verifies leaves of its link and of the herd. -/
theorem State.arrive_good {s : State} {n : Nat} {p : Packet} (hn : n < s.links.length) (hp : p.chan < 4) :
    let t := s.arrive n p true 1
    let keep := (p.type < 0x20 ∨ 0x22 < p.type) ∧ p.dest = s.herd.addr ∧ (p.chan = 1 ∨ p.chan = 3)
    ((t.link n).rxSeq = (s.link n).rxSeq ∧ (t.link n).rxKeys = (s.link n).rxKeys) ∧
    (¬ keep → (t.link n).control = (s.link n).control ++ [(2 + p.chan, 1)]) ∧
    (keep → (t.link n).control = (s.link n).control ∧ t.herd.held = s.herd.held ++ [(p, n, 1)]) ∧
    (p.type < 0x20 ∨ 0x22 < p.type → p.dest = s.herd.addr → t.herd.inbox = s.herd.inbox ++ [p]) ∧
    (p.dest ≠ s.herd.addr → reservedType p.type = true → t.herd.inbox = s.herd.inbox ∧
      NMap.getD t.herd.ctr 0x40 0 = min (2 ^ 64 - 1) (NMap.getD s.herd.ctr 0x40 0 + 1)) := by
  intro t keep
  have chan : p.chan % 4 = p.chan := Nat.mod_eq_of_lt hp
  have keeps : keep ↔ linkLocal p = false ∧ p.dest = s.herd.addr ∧ (p.chan = 1 ∨ p.chan = 3) := by rw [linkLocal_of_type]
  refine ⟨?_, fun hk => ?_, fun hk => ?_, fun hl hd => ?_, fun hd hr => ?_⟩
  · by_cases hk : keep
    · obtain ⟨hl, hd, hc⟩ := keeps.mp hk
      rw [(State.arrive_holds hl hd hc).1]
      exact ⟨rfl, rfl⟩
    · have line := State.arrive_returns hn (fun h => hk (keeps.mpr h))
      exact ⟨(Link.rxSeq_of_line line :), (Link.rxKeys_of_line line :)⟩
  · have line := State.arrive_returns hn (fun h => hk (keeps.mpr h))
    rw [chan] at line
    exact (Link.control_of_line line :)
  · obtain ⟨hl, hd, hc⟩ := keeps.mp hk
    obtain ⟨link, held⟩ := State.arrive_holds (n := n) hl hd hc
    exact ⟨congrArg Link.control link, held⟩
  · exact (congrArg (fun u : State => u.herd.inbox) (State.arrive_here (linkLocal_of_type.mpr hl) hd)).trans (State.lands_inbox s n p)
  · have goes := State.arrive_reserved (n := n) (reserved_not_linkLocal hr) hd hr
    exact ⟨(congrArg (fun u : State => u.herd.inbox) goes :), (congrArg (fun u : State => NMap.getD u.herd.ctr 0x40 0) goes).trans
      (State.herdCount_ctr _ _)⟩

/-! ## NAKs (R376) -/

/-- A link that a NAK of a number has reached: the rest of its retry buffer is sent again, and the NAKs of that number are counted. -/
def Link.nakked (l : Link) (q : Nat) : Link :=
  let i := l.retry.findIdx (fun e => e.seq == q)
  { l.replayFrom (if i < l.retry.length then i else 0) with nakSeq := q, naks := if l.nakSeq = q then l.naks + 1 else 1 }

theorem Link.nakked_counts (l : Link) (q : Nat) :
    NMap.getD (l.nakked q).ctr 0x38 0 = min (2 ^ 64 - 1) (NMap.getD l.ctr 0x38 0 + 1) := l.replayFrom_counts _

theorem State.nak_eq {s : State} {n : Nat} (hu : (s.link n).state = .up) (q : Nat) : s.nak n q =
    if 8 ≤ ((s.link n).nakked q).naks then (s.setLink n ((s.link n).nakked q)).retrain n else s.setLink n ((s.link n).nakked q) :=
  if_neg (by simp [hu])

/-- A NAK starts a replay from its flit, and the eighth of one number makes the link retrain. -/
theorem State.nak_link {s : State} {n q : Nat} (hu : (s.link n).state = .up) :
    ((s.nak n q).link n).retry = ((s.link n).nakked q).retry ∧ ((s.nak n q).link n).ctr = ((s.link n).nakked q).ctr ∧
    ((s.link n).nakSeq ≠ q → ((s.nak n q).link n).naks = 1 ∧ ((s.nak n q).link n).state = .up) ∧
    ((s.link n).nakSeq = q → (s.link n).naks = 7 → ((s.nak n q).link n).state = .training) := by
  have set := State.setLink_link s n ((s.link n).nakked q) (State.lt_of_up hu)
  have first : (s.link n).nakSeq ≠ q → ((s.link n).nakked q).naks = 1 := fun h => if_neg h
  have eighth : (s.link n).nakSeq = q → (s.link n).naks = 7 → ((s.link n).nakked q).naks = 8 := fun h h7 =>
    (if_pos h).trans (congrArg (· + 1) h7)
  rw [State.nak_eq hu]
  split
  next h8 =>
    rw [State.retrain_link (by rw [set]; exact hu), set]
    refine ⟨rfl, rfl, fun hne => ?_, fun _ _ => rfl⟩
    rw [first hne] at h8
    exact absurd h8 (by decide)
  next h8 =>
    rw [set]
    refine ⟨rfl, rfl, fun hne => ⟨first hne, hu⟩, fun he h7 => ?_⟩
    rw [eighth he h7] at h8
    exact absurd (Nat.le_refl 8) h8

/-! ## Keys (R381) -/

section
variable {s : State} {n : Nat} {a : LinkAuth} (hu : (s.link n).state = .up)
include hu

/-- Fresh keys serve at once, in both directions. -/
theorem State.rekey_takes {ks : Nat × Nat} (hk : (s.agree (s.link n).peerId a).1 = some ks) :
    ((s.rekey n a).link n).line = ((s.link n).rekeyed ks (s.agree (s.link n).peerId a).2).line ∧
      (s.rekey n a).sec.rekeys = s.sec.rekeys + 1 := by
  have body : s.rekey n a = ({ ({ s with freeCtr := s.freeCtr + 2 } : State).setLink n
      ((s.link n).rekeyed ks (s.agree (s.link n).peerId a).2) with sec := { s.sec with rekeys := s.sec.rekeys + 1 } } : State).pumpLink n := by
    unfold State.rekey
    dsimp only
    rw [if_neg (by simp [hu]), hk]
  have set := State.setLink_link { s with freeCtr := s.freeCtr + 2 } n ((s.link n).rekeyed ks (s.agree (s.link n).peerId a).2)
    (State.lt_of_up hu)
  rw [body]
  exact ⟨((State.pumpLink_sends _ n).line n).trans (congrArg Link.line set),
    (congrArg (fun u : State => u.sec.rekeys) (State.pumpLink_inner _ n) :)⟩

/-- Keys that fail make the link retrain. -/
theorem State.rekey_fails (hk : (s.agree (s.link n).peerId a).1 = none) : ((s.rekey n a).link n).state = .training := by
  have body : s.rekey n a = ({ s with freeCtr := s.freeCtr + 2 } : State).retrain n := by
    unfold State.rekey
    dsimp only
    rw [if_neg (by simp [hu]), hk]
  have up : (({ s with freeCtr := s.freeCtr + 2 } : State).link n).state = .up := hu
  rw [body, State.retrain_link up]

end

/-! ## Transit credit (R394) -/

/-- A transit packet that has waited in vain for a credit is discarded and counted. -/
theorem exec_transitCreditTimeout {s : State} {n c : Nat} {p : Packet} (hn : n < 48) (hu : (s.link n).state = .up) (hc : c < 4)
    (hf : (s.link n).outQ.find? (fun p => p.chan == c && transit s.herd.addr p) = some p) :
    ∃ t, exec (.transitCreditTimeout n c) s = .next t ∧ (t.link n).outQ.length < (s.link n).outQ.length ∧
      NMap.getD t.herd.ctr 0x28 0 = min (2 ^ 64 - 1) (NMap.getD s.herd.ctr 0x28 0 + 1) := by
  have set : ((s.setLink n { s.link n with outQ := (s.link n).outQ.erase p }).herdCount 0x28).link n =
      { s.link n with outQ := (s.link n).outQ.erase p } := State.setLink_link s n _ (State.lt_of_up hu)
  have body : exec (.transitCreditTimeout n c) s =
      .next (((s.setLink n { s.link n with outQ := (s.link n).outQ.erase p }).herdCount 0x28).pumpLink n) := by
    refine (checked_of s _ _ (by simp [linkOk, hn, hc])).trans (congrArg _ ?_)
    dsimp only
    rw [hf]
  refine ⟨_, body, ?_, ?_⟩
  · rw [State.pumpLink_link (by rw [set]; exact hu), set]
    refine Nat.lt_of_le_of_lt (Link.pump_outQ _ _ _ _) ?_
    have mem := List.mem_of_find?_eq_some hf
    have some := List.length_pos_of_mem mem
    change ((s.link n).outQ.erase p).length < _
    rw [List.length_erase_of_mem mem]
    omega
  · rw [State.pumpLink_herd]
    exact State.herdCount_ctr _ _

/-- Settles O47: bytes by the fields of their formats; each command by the link and the herd that its one branch leaves. -/
theorem flitsAndReplay : Obligations.FlitsAndReplay := by
  unfold Obligations.FlitsAndReplay
  refine ⟨fun kind chan seq bs a cs hk hl => ⟨length_flitBytes _ _ _ _, Laws.flitGood_flitBytes _ _ _ _ _ _, flitKind_flitBytes _ _ _ _ _ _ hk,
      flitChan_flitBytes _ _ _ _ _ _, flitSeq_flitBytes _ _ _ _ _ _, flitPayload_flitBytes _ _ _ _ _ _⟩,
    fun lanes flit hl hf => ?_, fun p tag hp => ⟨length_packetHeader _ _, packetOf_packetHeader hp tag⟩, fun s n hn hl hu => ?_⟩
  · have equal : 256 / lanes.length * lanes.length = 256 := by rcases hl with h | h <;> rw [h]
    exact ⟨dealt_lanes _ _, dealt_whole equal hf, dealt_equal equal hf⟩
  · intro l nak
    have ok : linkOk n = true := decide_eq_true hn
    refine ⟨fun f hg => ?_, fun f hg hk hq => ?_, fun f r p ok keys hg hk hq hb hf hr ho hs => ?_,
      fun f q x old rest hg hk ha hr hx ho hout hw => ?_, fun f p hg hk ha hout hr hp h1 h3 hc hw => ?_,
      fun q x old rest hq hr hx ho => ?_, fun hs => ?_, fun hfull => ?_, fun a ks hk => ?_, fun a hk => ?_, fun c p hc hf => ?_⟩
    · refine ⟨_, exec_flitReceive_bad hn hu hg, ?_⟩
      rw [State.setLink_link _ _ _ hl]
      refine ⟨l.discard_rest.1, l.discard_control, rfl, (getD_bump_same l.discard.ctr 0x30 1 (by decide)).trans ?_⟩
      rw [l.discard_rest.2]
    · refine ⟨_, exec_flitReceive_data hn hu hg hk, ?_⟩
      rw [State.dataFlit_discards hq, State.setLink_link _ _ _ hl]
      exact ⟨l.discard_rest.1, l.discard_control, rfl⟩
    · have set := State.setLink_link s n { l.took with rxKeys := keys } hl
      have up : ((s.setLink n { l.took with rxKeys := keys }).link n).state = .up := (congrArg Link.state set).trans hu
      have held : n < (s.setLink n { l.took with rxKeys := keys }).links.length := State.lt_of_up up
      refine ⟨_, (exec_flitReceive_data hn hu hg hk).trans (congrArg _ (State.dataFlit_completes hu hq hb hf hr ho hs)), ?_⟩
      cases ok with
      | true =>
        obtain ⟨⟨seq, rxKeys⟩, returns, holds, inbox, reserved⟩ :=
          State.arrive_good (p := { p with chan := flitChan f }) held (Nat.mod_lt _ (by decide))
        rw [set] at seq rxKeys returns holds
        exact ⟨fun _ => ⟨seq, rxKeys⟩, fun hk _ => returns fun h => hk ⟨rfl, h⟩, fun hk => holds hk.2, fun _ ht hd => inbox ht hd,
          fun _ hd hr => reserved hd hr, nofun⟩
      | false =>
        have counts := (State.arrive_bad_counts held up { p with chan := flitChan f }).1
        rw [set] at counts
        refine ⟨nofun, fun _ => nofun, fun hk => absurd hk.1 Bool.false_ne_true, nofun, nofun, fun _ => ⟨fun ha => ?_, ?_⟩⟩
        · obtain ⟨herd, state⟩ := State.arrive_bad_stays held up { p with chan := flitChan f } (by rw [set]; exact ha)
          exact ⟨congrArg Herd.inbox herd, state⟩
        · rw [counts]
          exact congrArg (fun k => min (2 ^ 64 - 1) (k + 1)) (getD_bump_ne l.ctr 0x50 1 (by decide))
    · obtain ⟨retry, credits⟩ := State.controlFlit_acks hu hw hout ha hr hx ho
      exact ⟨_, exec_flitReceive_control hn hu hg hk, retry, credits⟩
    · exact ⟨_, exec_flitReceive_control hn hu hg hk, State.controlFlit_sends hu hw hout ha hr hp h1 h3 hc⟩
    · obtain ⟨retry, ctr, first, eighth⟩ := State.nak_link (q := q) hu
      refine ⟨_, checked_of s _ _ (by simp [ok, hq]), retry.trans (Link.replayFrom_nak hr hx ho), ?_, first, eighth⟩
      rw [ctr]
      exact l.nakked_counts q
    · exact (checked_of s _ _ ok).trans (congrArg _ (if_pos (by simpa [hu] using hs)))
    · refine ⟨_, (checked_of s _ _ ok).trans (congrArg _ (if_pos (by simpa [Link.retryFull] using hfull))), ?_⟩
      rw [State.retrain_link hu]
    · obtain ⟨line, rekeys⟩ := State.rekey_takes hu hk
      refine ⟨_, checked_of s _ _ ok, (Link.state_of_line line).trans hu, Link.txKey_of_line line, ?_, Link.keyEpoch_of_line line, rekeys⟩
      rw [Link.rxKeys_of_line line]
      exact List.getLast?_concat
    · exact ⟨_, checked_of s _ _ ok, State.rekey_fails hu hk⟩
    · exact exec_transitCreditTimeout hn hu hc hf

end Sys2Proof.Machine
end

section
/-! O42: COPY_IN and COPY_OUT (R276, R421, R426 to R428, R492). -/

namespace Sys2Proof.Machine

/-! ## The command and its entry -/

/-- The instruction of a copy, into job memory or out of it. -/
def copyInstr (c : Cmd) (inward : Bool) (i : Instr) : Prop :=
  (i = .copyIn c ∧ c.desc.opcode = 0x20 ∧ inward = true) ∨ (i = .copyOut c ∧ c.desc.opcode = 0x21 ∧ inward = false)

/-- The opcode is that of a copy. -/
def copyOpcode (c : Cmd) : Prop := c.desc.opcode = 0x20 ∨ c.desc.opcode = 0x21

theorem copyInstr.opcode {c : Cmd} {inward : Bool} {i : Instr} (hi : copyInstr c inward i) : copyOpcode c :=
  hi.imp (fun h => h.2.1) (fun h => h.2.1)

/-- The entry that a copy takes in the queue: it names no stream (R35). -/
def Job.copyEntry (j : Job) (c : Cmd) : QCmd := { uid := j.run.uidNext, cmd := c }

theorem Job.enqueue_copy (j : Job) {c : Cmd} (hc : copyOpcode c) : j.enqueue c =
    { j with run := { j.run with queue := j.run.queue ++ [j.copyEntry c], uidNext := j.run.uidNext + 1 } } := by
  rcases hc with ho | ho <;> simp [Job.enqueue, ho, JobRun.number, Job.copyEntry]

theorem Job.waitingFor_copy {j : Job} {c : Cmd} (hnew : ∀ x ∈ j.run.queue, x.cmd ≠ c) (hc : copyOpcode c) :
    j.waitingFor c = (j.enqueue c, some (j.copyEntry c)) := by
  rw [Job.waitingFor_new hnew, Job.enqueue_copy _ hc]
  simp

/-! ## The range -/

/-- The bytes that a copy moves. -/
def copyLen (c : Cmd) : Nat := fld c.desc.w24 0 32

/-- The range is no multiple of 64 B at some end, or lies outside job memory (R421). -/
def Job.copyMisplaced (j : Job) (c : Cmd) : Bool :=
  c.desc.w8.toNat % 64 ≠ 0 || c.desc.w16.toNat % 64 ≠ 0 || copyLen c % 64 ≠ 0 || !j.mapped c.desc.w8.toNat (copyLen c)

/-- The range of a copy is in order (R421). -/
def Job.copyGood (j : Job) (c : Cmd) : Prop :=
  copyLen c ≠ 0 ∧ c.desc.w8.toNat % 64 = 0 ∧ c.desc.w16.toNat % 64 = 0 ∧ copyLen c % 64 = 0 ∧
    j.mapped c.desc.w8.toNat (copyLen c) = true

theorem Job.copyGood_iff (j : Job) (c : Cmd) : j.copyGood c ↔ copyLen c ≠ 0 ∧ j.copyMisplaced c = false := by
  simp [Job.copyGood, Job.copyMisplaced, and_assoc]

/-- A read meets the withheld units of its range (R492). -/
theorem Job.blocked_read (j : Job) (a n : Nat) : j.blocked a n false = j.withheld a n := by
  simp [Job.blocked, Job.withheld]

theorem Job.hostSpace_open {j : Job} (h : j.info.confidential = false) (p : Port) (key : Nat) : j.hostSpace p key = .host p := by
  rw [Job.hostSpace, h, if_neg Bool.false_ne_true]

theorem Job.hostSpace_sealed {j : Job} (h : j.info.confidential = true) (p : Port) (key : Nat) :
    j.hostSpace p key = .sealedAt p key := by
  rw [Job.hostSpace, h, if_pos rfl]

/-! ## What a copy comes to -/

/-- The state once a copy has finished with a status and what it writes at its publication. -/
def State.copyDone (s : State) (k : Nat) (c : Cmd) (status : Nat) (ws : List (Space × Nat × List Byte)) : State :=
  s.finishCmd k ((s.job k).enqueue c) ((s.job k).copyEntry c) status 0 ws

/-- The state once a copy waits in its queue. -/
def State.copyWaits (s : State) (k : Nat) (c : Cmd) : State := s.setJob k ((s.job k).enqueue c)

/-- The requests of a COPY_OUT find no slot of some hub (R276). -/
def State.copyBusy (s : State) (k : Nat) (c : Cmd) : Bool :=
  s.noSlot k (fun _ x => x.hubLines false 5 (copyLen c / 4096 + 2) c.desc.w8.toNat (copyLen c))

/-- A COPY_OUT is held back by withheld data, for want of a session, or by a full hub (R276, R428, R492). -/
def State.copyHeld (s : State) (k : Nat) (c : Cmd) : Bool :=
  (s.job k).blocked c.desc.w8.toNat (copyLen c) false || ((s.job k).info.confidential && !(s.port c.port).session.up) || s.copyBusy k c

/-- A COPY_IN whose range is in order: it waits for its port, or its data is there or fails to open (R421, R426, R427). -/
def State.copiedIn (s : State) (k : Nat) (c : Cmd) : State :=
  if (s.port c.port).absentNow then s.copyWaits k c
  else
    match s.readHost k c.port c.desc.w16.toNat (copyLen c) with
    | some bs => s.copyDone k c 0 [(Space.job, c.desc.w8.toNat, bs)]
    | none => s.copyDone k c 0x0203 []

/-- A COPY_OUT whose range is in order: it waits, or its data goes to the space of its job's outputs (R421, R428). -/
def State.copiedOut (s : State) (k : Nat) (c : Cmd) : State :=
  if s.copyHeld k c then s.copyWaits k c
  else
    (s.copyDone k c 0 [((s.job k).hostSpace c.port (s.port c.port).session.keyD2h, c.desc.w16.toNat,
      memRead (s.job k).run.mem c.desc.w8.toNat (copyLen c))]).hubRead k 5 c.desc.w8.toNat (copyLen c)

/-- What a copy comes to that is new in its queue (R421). -/
def State.copyOutcome (s : State) (k : Nat) (c : Cmd) (inward : Bool) : State :=
  if copyLen c = 0 then s.copyDone k c 0x0001 []
  else if (s.job k).copyMisplaced c then s.copyDone k c 0x0203 []
  else if inward then s.copiedIn k c
  else s.copiedOut k c

/-- The entry of a new copy is checked against the job as it stands. -/
theorem exec_copy {s : State} {c : Cmd} {k : Nat} {inward : Bool} {i : Instr} (hr : s.sched.running = some k)
    (hs : (s.job k).info.state = .running) (hid : (s.job k).info.id = c.desc.job) (hnew : ∀ x ∈ (s.job k).run.queue, x.cmd ≠ c)
    (hi : copyInstr c inward i) : exec i s = .next (s.copyOutcome k c inward) := by
  have slot : s.jobOf c = some k := by simp [State.jobOf, State.runningJob_of hr hs, hid]
  have copies : exec i s = .next (s.copy c inward) := by
    obtain ⟨rfl, ho, rfl⟩ | ⟨rfl, ho, rfl⟩ := hi <;> exact checked_of _ _ _ (beq_iff_eq.mpr ho)
  rw [copies, State.copy, slot]
  dsimp only
  rw [Job.waitingFor_copy hnew hi.opcode]
  simp only [State.copyOutcome, State.copiedIn, State.copiedOut, State.copyHeld, State.copyWaits, State.copyDone,
    Job.enqueue_copy _ hi.opcode] <;> rfl

section
variable {s : State} {k : Nat} {c : Cmd}

theorem State.copyOutcome_refused {inward : Bool} (h : ¬ (s.job k).copyGood c) :
    s.copyOutcome k c inward = s.copyDone k c (if copyLen c = 0 then 0x0001 else 0x0203) [] := by
  unfold State.copyOutcome
  split
  · rfl
  next hn => exact if_pos (eq_true_of_ne_false fun hp => h ((Job.copyGood_iff _ _).mpr ⟨hn, hp⟩))

theorem State.copyOutcome_good {inward : Bool} (h : (s.job k).copyGood c) :
    s.copyOutcome k c inward = if inward then s.copiedIn k c else s.copiedOut k c := by
  obtain ⟨hn, hp⟩ := (Job.copyGood_iff _ _).mp h
  rw [State.copyOutcome, if_neg hn, hp, if_neg Bool.false_ne_true]

theorem State.copiedIn_read (h : (s.port c.port).absentNow = false) {bs : List Byte}
    (hb : s.readHost k c.port c.desc.w16.toNat (copyLen c) = some bs) :
    s.copiedIn k c = s.copyDone k c 0 [(Space.job, c.desc.w8.toNat, bs)] := by
  rw [State.copiedIn, h, hb, if_neg Bool.false_ne_true]

theorem State.copiedIn_unopened (h : (s.port c.port).absentNow = false)
    (hb : s.readHost k c.port c.desc.w16.toNat (copyLen c) = none) : s.copiedIn k c = s.copyDone k c 0x0203 [] := by
  rw [State.copiedIn, h, hb, if_neg Bool.false_ne_true]

/-- The host's bytes of a job that is not confidential are its data as they stand (R428). -/
theorem State.readHost_open (p : Port) (a n : Nat) (hc : (s.job k).info.confidential = false) :
    s.readHost k p a n = some (memRead (s.port p).hostMem a n) := by
  rw [State.readHost, hc]
  rfl

theorem State.copyHeld_of (h : (s.job k).withheld c.desc.w8.toNat (copyLen c) = true ∨
    ((s.job k).info.confidential = true ∧ (s.port c.port).session.up = false)) : s.copyHeld k c = true := by
  rcases h with h | ⟨hc, hu⟩
  · simp [State.copyHeld, Job.blocked_read, h]
  · simp [State.copyHeld, hc, hu]

theorem State.copyHeld_false (hw : (s.job k).withheld c.desc.w8.toNat (copyLen c) = false)
    (hu : (s.job k).info.confidential = true → (s.port c.port).session.up = true) (hb : s.copyBusy k c = false) :
    s.copyHeld k c = false := by
  simpa [State.copyHeld, Job.blocked_read, hw, hb] using hu

end

/-! ## What it leaves -/

/-- The finished copy `c` waits behind those before it to be published, with its status and its writes (R33). -/
def State.publishesCopy (s t : State) (k : Nat) (c : Cmd) (status : Nat) (ws : List (Space × Nat × List Byte)) : Prop :=
  ∃ p, (t.job k).run.publish = (s.job k).run.publish ++ [p] ∧ p.cmd = c ∧ p.status = status ∧ p.writes = ws

section
variable {s : State} {k : Nat} {c : Cmd} (hk : k < s.jobs.length) (hc : copyOpcode c)
include hk hc

theorem State.copyDone_publishes (status : Nat) (ws : List (Space × Nat × List Byte)) :
    s.publishesCopy (s.copyDone k c status ws) k c status ws := by
  rw [State.publishesCopy, State.copyDone, State.finishCmd, State.setJob_job _ _ _ hk, Job.enqueue_copy _ hc]
  refine ⟨_, rfl, rfl, rfl, ?_⟩
  rcases hc with ho | ho <;> simp [QCmd.publication, QCmd.results, Job.copyEntry, ho]

/-- The reads of a COPY_OUT are of the tiers, and change no list of the finished (R264). -/
theorem State.copiedOut_publishes (h : s.copyHeld k c = false) : s.publishesCopy (s.copiedOut k c) k c 0
    [((s.job k).hostSpace c.port (s.port c.port).session.keyD2h, c.desc.w16.toNat,
      memRead (s.job k).run.mem c.desc.w8.toNat (copyLen c))] := by
  rw [State.copiedOut, h, if_neg Bool.false_ne_true, State.publishesCopy]
  have read (u : State) (a n : Nat) : ((u.hubRead k 5 a n).job k).run.publish = (u.job k).run.publish :=
    (congrArg JobRun.publish (State.hubAccess_runData u k false 5 a n k) :)
  rw [read]
  exact State.copyDone_publishes hk hc _ _

end

/-- Settles O42: a copy is refused by its range, waits, or finishes with what it writes at its publication. -/
theorem copiesMoveBytes : Obligations.CopiesMoveBytes := by
  unfold Obligations.CopiesMoveBytes
  intro s c k hr hs hid hnew a h n good host conf key busy publishes waits
  have hk : k < s.jobs.length := State.slot_of_running hs
  have ends {inward : Bool} {i : Instr} {t : State} {st : Nat} {ws : List (Space × Nat × List Byte)} (hi : copyInstr c inward i)
      (e : s.copyOutcome k c inward = t) (hp : s.publishesCopy t k c st ws) : publishes i st ws := by
    obtain ⟨p, hp⟩ := hp
    exact ⟨t, p, (exec_copy hr hs hid hnew hi).trans (congrArg _ e), hp⟩
  have inGood (hg : good) : s.copyOutcome k c true = s.copiedIn k c := State.copyOutcome_good hg
  have outGood (hg : good) : s.copyOutcome k c false = s.copiedOut k c := State.copyOutcome_good hg
  refine ⟨fun ho hg ha => ?_, fun ho hg hw hb => ?_, fun ho hg ha => ?_, fun ho hg hw => ?_, fun i hi hg => ?_⟩
  · have hi : copyInstr c true (.copyIn c) := .inl ⟨rfl, ho, rfl⟩
    have read (bs : List Byte) (hb : s.readHost k c.port h n = some bs) : publishes (.copyIn c) 0 [(Space.job, a, bs)] :=
      ends hi ((inGood hg).trans (State.copiedIn_read ha hb)) (State.copyDone_publishes hk hi.opcode _ _)
    exact ⟨fun hconf => read _ (State.readHost_open c.port h n hconf), read, fun hb =>
      ends hi ((inGood hg).trans (State.copiedIn_unopened ha hb)) (State.copyDone_publishes hk hi.opcode _ _)⟩
  · have hi : copyInstr c false (.copyOut c) := .inr ⟨rfl, ho, rfl⟩
    have goes (hup : conf = true → host.session.up = true) := ends hi (outGood hg)
      (State.copiedOut_publishes hk hi.opcode (State.copyHeld_false hw hup hb))
    refine ⟨fun hconf => ?_, fun hconf hup => ?_⟩
    · exact (Job.hostSpace_open hconf c.port key) ▸ goes (fun h => absurd h (by simp [hconf]))
    · exact (Job.hostSpace_sealed hconf c.port key) ▸ goes (fun _ => hup)
  · exact (exec_copy hr hs hid hnew (.inl ⟨rfl, ho, rfl⟩)).trans (congrArg _ ((inGood hg).trans (if_pos ha)))
  · exact (exec_copy hr hs hid hnew (.inr ⟨rfl, ho, rfl⟩)).trans (congrArg _ ((outGood hg).trans (if_pos (State.copyHeld_of hw))))
  · rcases hi with ⟨rfl, ho⟩ | ⟨rfl, ho⟩
    · exact ends (.inl ⟨rfl, ho, rfl⟩) (State.copyOutcome_refused hg) (State.copyDone_publishes hk (.inl ho) _ _)
    · exact ends (.inr ⟨rfl, ho, rfl⟩) (State.copyOutcome_refused hg) (State.copyDone_publishes hk (.inr ho) _ _)

end Sys2Proof.Machine
end

section
/-! SUPPORT. What delivering events leaves of a port: all but the records of its rings, where these stand, and the numbers of sealed
records (R416, R427). -/

namespace Sys2Proof.Machine

/-! ## A port and its ring sets -/

/-- A port less what records that are written change of it, and each of its sets likewise. -/
def HostPort.offRecords (h : HostPort) : HostPort × (Nat → RingSet) :=
  ({ h with sets := [], hostMem := [], ringMem := [], txNo := 0 }, fun n => (h.ringSet n).offRecords)

/-- A set that changes in its records alone. -/
theorem HostPort.setRing_offRecords {h : HostPort} {n : Nat} {r : RingSet} (hr : r.offRecords = (h.ringSet n).offRecords) :
    (h.setRing n r).offRecords = h.offRecords := by
  refine Prod.ext rfl (funext fun q => ?_)
  change ((h.setRing n r).ringSet q).offRecords = (h.ringSet q).offRecords
  by_cases hq : q = n
  · rw [hq, HostPort.setRing_ringSet, hr]
  · exact congrArg RingSet.offRecords (NMap.getD_put_ne _ _ _ _ _ hq)

theorem HostPort.store_offRecords (h : HostPort) (deviceMem : Bool) (a : Nat) (bs : List Byte) :
    (h.store deviceMem a bs).offRecords = h.offRecords := by
  unfold HostPort.store
  split <;> rfl

@[simp] theorem HostPort.store_ringSet (h : HostPort) (deviceMem : Bool) (a : Nat) (bs : List Byte) (n : Nat) :
    (h.store deviceMem a bs).ringSet n = h.ringSet n := by
  unfold HostPort.store
  split <;> rfl

theorem HostPort.putEvent_offRecords (h : HostPort) (set stamp : Nat) (e : Event) :
    (h.putEvent set stamp e).offRecords = h.offRecords := by
  unfold HostPort.putEvent
  dsimp only
  refine (HostPort.setRing_offRecords ?_).trans (HostPort.store_offRecords _ _ _ _)
  rw [HostPort.store_ringSet]
  rfl

/-! ## Delivering events -/

/-- A port less what records that are written change of it, in a state. -/
def State.portOffRecords (s : State) (q : Port) : HostPort × (Nat → RingSet) := (s.port q).offRecords

theorem State.setPort_portOffRecords {s : State} {p : Port} {h : HostPort} (hh : h.offRecords = s.portOffRecords p) (q : Port) :
    (s.setPort p h).portOffRecords q = s.portOffRecords q := by
  match p, q with
  | .a, .a | .b, .b => exact hh
  | .a, .b | .b, .a => rfl

theorem State.holdEvents_portOffRecords (s : State) (p : Port) (set : Nat) (held : List Event) (q : Port) :
    (s.setRing p set { s.ring p set with holdEv := held }).portOffRecords q = s.portOffRecords q :=
  State.setPort_portOffRecords (HostPort.setRing_offRecords (r := { s.ring p set with holdEv := held }) rfl) q

@[simp] theorem State.look_portOffRecords (s : State) (i : Nat) (q : Port) : (s.look i).2.portOffRecords q = s.portOffRecords q := by
  cases q <;> rfl

theorem State.flushEvents_portOffRecords (s : State) (p : Port) (set : Nat) (held : List Event) (q : Port) :
    (s.flushEvents p set held).portOffRecords q = s.portOffRecords q := by
  induction held generalizing s with
  | nil => exact s.holdEvents_portOffRecords p set _ q
  | cons e rest ih =>
    unfold State.flushEvents
    dsimp only
    split
    · rw [ih, State.setPort_portOffRecords (HostPort.putEvent_offRecords _ _ _ _), State.look_portOffRecords]
    · exact s.holdEvents_portOffRecords p set _ q

theorem State.deliverEvent_portOffRecords (s : State) (p : Port) (set : Nat) (e : Event) (q : Port) :
    (s.deliverEvent p set e).portOffRecords q = s.portOffRecords q := by
  unfold State.deliverEvent
  dsimp only
  split
  · exact s.flushEvents_portOffRecords p set _ q
  · exact s.holdEvents_portOffRecords p set _ q

theorem State.eventTo_portOffRecords (s : State) (p : Port) (e : Event) (sets : List Nat) (q : Port) :
    (s.eventTo p e sets).portOffRecords q = s.portOffRecords q := by
  induction sets generalizing s with
  | nil => rfl
  | cons n rest ih =>
    unfold State.eventTo
    dsimp only
    split
    · rw [ih, State.deliverEvent_portOffRecords]
    · exact ih s

/-- A health event of no job reaches the ports in records alone (R493). -/
theorem State.healthEvent_portOffRecords (s : State) (e : Event) (q : Port) :
    (s.healthEvent none e).portOffRecords q = s.portOffRecords q := by
  have logged : (s.logEvent e).portOffRecords q = s.portOffRecords q := by cases q <;> rfl
  exact (State.eventTo_portOffRecords _ _ _ _ q).trans ((State.eventTo_portOffRecords _ _ _ _ q).trans logged)

/-! ## A port that becomes absent or present (R425) -/

theorem State.statusChange_other (s : State) (p : Port) : (s.statusChange (portOther p)).portOffRecords p = s.portOffRecords p := by
  cases p <;> rfl

/-- Absence is told to the other port and in events. -/
theorem State.absence_portOffRecords (s : State) (p : Port) (was : Bool) (reason : Nat) :
    (s.absence p was reason).portOffRecords p = s.portOffRecords p := by
  unfold State.absence
  dsimp only
  split
  · rfl
  · rw [State.statusChange_other, s.healthEvent_portOffRecords]

theorem State.absence_jobs (s : State) (p : Port) (was : Bool) (reason : Nat) : (s.absence p was reason).jobs = s.jobs := by
  unfold State.absence
  dsimp only
  split
  · rfl
  · exact (State.statusChange_jobs _ _).trans (State.jobs_of_unreported (s.healthEvent_unreported none _))

/-- A change of a port that may make it absent or present leaves it changed, its records apart. -/
theorem State.setPort_absence (s : State) (p : Port) (h : HostPort) (was : Bool) (reason : Nat) :
    (((s.setPort p h).absence p was reason).port p).offRecords = h.offRecords :=
  (State.absence_portOffRecords _ p was reason).trans (congrArg HostPort.offRecords (s.setPort_port p h))

section
variable {g h : HostPort} (e : g.offRecords = h.offRecords)
include e

theorem HostPort.linkUp_of_offRecords : g.linkUp = h.linkUp := (congrArg (·.1.linkUp) e :)
theorem HostPort.inReset_of_offRecords : g.inReset = h.inReset := (congrArg (·.1.inReset) e :)
theorem HostPort.speed_of_offRecords : g.speed = h.speed := (congrArg (·.1.speed) e :)
theorem HostPort.width_of_offRecords : g.width = h.width := (congrArg (·.1.width) e :)
theorem HostPort.driver_of_offRecords : g.driver = h.driver := (congrArg (·.1.driver) e :)
theorem HostPort.lease_of_offRecords : g.lease = h.lease := (congrArg (·.1.lease) e :)
theorem HostPort.leaseLapsed_of_offRecords : g.leaseLapsed = h.leaseLapsed := (congrArg (·.1.leaseLapsed) e :)
theorem HostPort.bar2_of_offRecords : g.bar2 = h.bar2 := (congrArg (·.1.bar2) e :)
theorem HostPort.ctr_of_offRecords : g.ctr = h.ctr := (congrArg (·.1.ctr) e :)
theorem HostPort.session_of_offRecords : g.session = h.session := (congrArg (·.1.session) e :)
theorem HostPort.enabled_of_offRecords (n : Nat) : (g.ringSet n).enabled = (h.ringSet n).enabled :=
  RingSet.enabled_of_offRecords (congrArg (·.2 n) e)

end

end Sys2Proof.Machine
end

section
/-! O52: the registers, windows, resets and link of a port (R227, R354, R406, R410, R422 to R425, R492). -/

namespace Sys2Proof.Machine

/-! ## BAR2 (R423) -/

section
variable {s : State} {p : Port} {off k : Nat} (hb : s.bar2Slot p = some k)
include hb

theorem State.readBar2_held {len : Nat} (hm : (s.job k).mapped ((s.port p).bar2Base.toNat + off) len = true)
    (hl : (s.job k).blocked ((s.port p).bar2Base.toNat + off) len false = true) : s.readBar2 p off len =
      s.setPort p { s.port p with heldReads := (s.port p).heldReads ++ [(off, len)] } := by
  unfold State.readBar2
  dsimp only
  rw [hb]
  exact if_pos (by simp [hm, hl])

theorem State.readBar2_reads {len : Nat} (hm : (s.job k).mapped ((s.port p).bar2Base.toNat + off) len = true)
    (hl : (s.job k).blocked ((s.port p).bar2Base.toNat + off) len false = false) : s.readBar2 p off len =
      (s.setPort p { s.port p with reply := (s.job k).hostSees ((s.port p).bar2Base.toNat + off) len }).hubRead k 5
        ((s.port p).bar2Base.toNat + off) len := by
  unfold State.readBar2
  dsimp only
  rw [hb]
  exact (if_neg (by simp [hl])).trans (if_pos hm)

variable {bs : List Byte} (hm : (s.job k).mapped ((s.port p).bar2Base.toNat + off) bs.length = true)
include hm

theorem State.writeBar2_held (hl : (s.job k).blocked ((s.port p).bar2Base.toNat + off) bs.length true = true) :
    s.writeBar2 p off bs = s.setJob k { s.job k with
      heldWrites := (s.job k).heldWrites ++ [((s.port p).bar2Base.toNat + off, bs)] } := by
  unfold State.writeBar2
  dsimp only
  rw [hb]
  exact (if_neg (by simp [hm])).trans (if_pos hl)

variable (hl : (s.job k).blocked ((s.port p).bar2Base.toNat + off) bs.length true = false)
include hl

theorem State.writeBar2_stalls (hf : s.journalFull k = true) : s.writeBar2 p off bs = (s.setJob k { s.job k with
    heldWrites := (s.job k).heldWrites ++ [((s.port p).bar2Base.toNat + off, bs)] }).journalStall k := by
  unfold State.writeBar2
  dsimp only
  rw [hb]
  exact (if_neg (by simp [hm])).trans ((if_neg (by simp [hl])).trans (if_pos hf))

theorem State.writeBar2_writes (hf : s.journalFull k = false) : s.writeBar2 p off bs =
    if s.sched.running == some k then
      (s.setJob k ((s.job k).hostWrite ((s.port p).bar2Base.toNat + off) bs)).hubWrite k 5 ((s.port p).bar2Base.toNat + off) bs.length
    else s.setJob k ((s.job k).fill ((s.port p).bar2Base.toNat + off) bs) := by
  unfold State.writeBar2
  dsimp only
  rw [hb]
  exact (if_neg (by simp [hm])).trans ((if_neg (by simp [hl])).trans (if_neg (by simp [hf])))

end

/-- Reads of the tiers leave the ports (R264). -/
theorem State.hubRead_port (s : State) (k part a len : Nat) (p : Port) : (s.hubRead k part a len).port p = s.port p := by
  cases p
  · exact (congrArg State.portA (s.hubRead_offTiers k part a len) :)
  · exact (congrArg State.portB (s.hubRead_offTiers k part a len) :)

/-- With no write of its own that waits the host sees job memory. -/
theorem Job.hostSees_settled {j : Job} (h : j.heldWrites = []) (a len : Nat) : j.hostSees a len = memRead j.run.mem a len := by
  rw [Job.hostSees, h]
  rfl

section
variable {s : State} {p : Port} {off k : Nat} (hb : s.bar2Slot p = some k)
include hb

/-- A read of what BAR2 maps answers with the job's bytes and leaves them. -/
theorem State.readBar2_leaves {len : Nat} (hm : (s.job k).mapped ((s.port p).bar2Base.toNat + off) len = true)
    (hl : (s.job k).blocked ((s.port p).bar2Base.toNat + off) len false = false) (hw : (s.job k).heldWrites = []) :
    ((s.readBar2 p off len).port p).reply = memRead (s.job k).run.mem ((s.port p).bar2Base.toNat + off) len ∧
      ((s.readBar2 p off len).job k).run.mem = (s.job k).run.mem := by
  rw [State.readBar2_reads hb hm hl, State.hubRead_port, State.setPort_port, State.hubRead_mem, Job.hostSees_settled hw]
  exact ⟨rfl, congrArg (fun js : List Job => (js.getD k {}).run.mem) (State.setPort_jobs _ _ _)⟩

variable {bs : List Byte} (hm : (s.job k).mapped ((s.port p).bar2Base.toNat + off) bs.length = true) (hk : k < s.jobs.length)
  (hl : (s.job k).blocked ((s.port p).bar2Base.toNat + off) bs.length true = false)
include hm hk hl

/-- A write that finds no room in the journal waits, and job memory stays (R354). -/
theorem State.writeBar2_waits (hf : s.journalFull k = true) :
    ((s.writeBar2 p off bs).job k).run.mem = (s.job k).run.mem ∧
      ((s.writeBar2 p off bs).job k).heldWrites = (s.job k).heldWrites ++ [((s.port p).bar2Base.toNat + off, bs)] := by
  let j := { s.job k with heldWrites := (s.job k).heldWrites ++ [((s.port p).bar2Base.toNat + off, bs)] }
  have stalled := State.jobCount_job (s.setJob k j).fresh.2 k 0x20 (s.setJob k j).fresh.1 ((State.setJob_slots s k j).symm ▸ hk)
  have held : (s.setJob k j).fresh.2.job k = j := State.setJob_job s k j hk
  rw [held] at stalled
  rw [State.writeBar2_stalls hb hm hl hf]
  exact ⟨congrArg (·.run.mem) stalled, congrArg Job.heldWrites stalled⟩

/-- A write that has room is in job memory, whether or not the job runs (R423). -/
theorem State.writeBar2_mem (hf : s.journalFull k = false) : ((s.writeBar2 p off bs).job k).run.mem =
    memWrite (s.job k).run.mem ((s.port p).bar2Base.toNat + off) bs := by
  rw [State.writeBar2_writes hb hm hl hf]
  split
  · rw [State.hubWrite_mem, State.setJob_mem s _ hk]
    exact congrArg JobRun.mem (Job.store_run _ _ _)
  · exact State.setJob_mem s _ hk

end

/-- Where BAR2 maps nothing a read answers zeros and is counted (R423). -/
theorem State.readBar2_unmapped {s : State} {p : Port} (off len : Nat) (hb : s.bar2Slot p = none) :
    ((s.readBar2 p off len).port p).reply = leBytes len 0 ∧
      NMap.getD ((s.readBar2 p off len).port p).ctr 0x60 0 = min (2 ^ 64 - 1) (NMap.getD (s.port p).ctr 0x60 0 + 1) := by
  unfold State.readBar2
  dsimp only
  rw [hb]
  refine ⟨?_, (State.hostCount_ctr _ p 0x60).trans ?_⟩
  · rw [State.hostCount, State.setPort_port, State.setPort_port]
  · rw [State.setPort_port]

/-! ## The windows of the running job (R227, R424) -/

/-- The window reaches the running job, which is in a slot. -/
theorem State.windowJob_slot {s : State} {p : Port} {k : Nat} (h : s.windowJob p = some k) : k < s.jobs.length := by
  unfold State.windowJob at h
  split at h
  next q _ =>
    dsimp only at h
    split at h
    next hq =>
      obtain rfl : q = k := Option.some.inj h
      exact State.slot_of_working (by simp at hq; exact hq.1.1)
    next => cases h
  next => cases h

/-- The port's addition to a semaphore of its running job (R424). -/
theorem State.semAdd_sems {s : State} {p : Port} {k n : Nat} (v : W32) (hn : n < 4096) (h : s.windowJob p = some k) :
    ((s.semAdd p n v).job k).run.sems = NMap.put (s.job k).run.sems n (NMap.getD (s.job k).run.sems n 0 + v) := by
  rw [State.semAdd, h]
  refine (State.raiseFrom_sems s n v.toNat (State.windowJob_slot h)).trans ?_
  rw [Nat.mod_eq_of_lt hn, BitVec.ofNat_toNat, BitVec.setWidth_eq]

/-- The parameter window reaches the running job, which is in a slot. -/
theorem State.pgtTarget_job {s : State} {p : Port} {k : Nat} (h : s.pgtTarget p = .job k) :
    s.sched.running = some k ∧ k < s.jobs.length := by
  unfold State.pgtTarget at h
  split at h
  · cases h
  next q hq =>
    dsimp only at h
    split_ifs at h with hstate
    obtain rfl : q = k := PgtTarget.job.inj h
    exact ⟨hq, State.slot_of_working (by simpa [or_iff_not_imp_left] using hstate)⟩

/-- A GO that stands alone in the queue publishes every staged word (R225, R227). -/
theorem Job.enqueueGo_alone {j : Job} (hq : j.run.queue = []) (p : Port) (staged : NMap W32) (seq : Nat) :
    (j.enqueueGo p staged seq).run.pgt = staged ∧ (j.enqueueGo p staged seq).goDue = j.goDue := by
  simp [Job.enqueueGo, JobRun.count, hq, JobRun.applyReady, JobRun.applyFirst, JobRun.beforePublication, QCmd.publishes]

/-- While no scheduler serves a GO stays due (R444). -/
theorem State.takeGo_unserved {s : State} (hs : s.schedServes = false) : s.takeGo = s := by
  unfold State.takeGo
  split
  · rfl
  · dsimp only
    split
    · rfl
    · exact if_pos (by simp [hs])

/-- A GO that is due and that the scheduler takes into an empty queue takes effect. -/
theorem State.takeGo_applies {s : State} {k : Nat} {p : Port} (hr : s.sched.running = some k) (hk : k < s.jobs.length)
    (hg : (s.job k).goDue = some p) (hs : s.schedServes = true) (hq : (s.job k).run.queue = []) :
    (s.takeGo.job k).run.pgt = (s.job k).stage ∧ (s.takeGo.job k).goDue = none := by
  unfold State.takeGo
  rw [hr]
  dsimp only
  rw [hg]
  dsimp only
  rw [hs, if_neg (by decide), State.withSched_job, State.setJob_job _ _ _ hk]
  exact Job.enqueueGo_alone (j := ({ s.job k with goDue := none } : Job).note (.published p (s.job k).stage)) hq _ _ _

section
variable {s : State} {p : Port} {k : Nat} {v : W32} (h : s.pgtTarget p = .job k) (hv : bit v 0 = true)
include h hv

theorem State.pgtPublish_due : s.pgtPublish p v = (s.setJob k { s.job k with goDue := some p }).takeGo := by
  rw [State.pgtPublish, h]
  exact if_pos hv

theorem State.pgtPublish_applies (hs : s.schedServes = true) (hq : (s.job k).run.queue = []) :
    ((s.pgtPublish p v).job k).run.pgt = (s.job k).stage ∧ ((s.pgtPublish p v).job k).goDue = none := by
  obtain ⟨hr, hk⟩ := State.pgtTarget_job h
  have job : (s.setJob k { s.job k with goDue := some p }).job k = { s.job k with goDue := some p } := State.setJob_job s k _ hk
  obtain ⟨pgt, taken⟩ := State.takeGo_applies (s := s.setJob k { s.job k with goDue := some p }) hr
    ((State.setJob_slots _ _ _).symm ▸ hk) (congrArg Job.goDue job) hs ((congrArg (·.run.queue) job).trans hq)
  rw [State.pgtPublish_due h hv]
  exact ⟨pgt.trans (congrArg Job.stage job :), taken⟩

end

/-! ## Resets and links (R406) -/

/-- A change of every value of a map keeps their keys. -/
theorem NMap.find_mapValues {α β : Type} (f : α → β) (m : NMap α) (k : Nat) :
    NMap.find (m.map (fun e => (e.1, f e.2))) k = (NMap.find m k).map f := by
  induction m with
  | nil => rfl
  | cons e rest ih =>
    rw [List.map_cons, NMap.find, NMap.find]
    split
    · rfl
    · exact ih

/-- Each set of a port that is reset is disabled, a set never written too. -/
theorem HostPort.afterReset_enabled (h : HostPort) (k : ResetKind) (n : Nat) : ((h.afterReset k).ringSet n).enabled = false := by
  have found : NMap.find (h.afterReset k).sets n = (NMap.find h.sets n).map RingSet.disabled := NMap.find_mapValues _ _ _
  rw [HostPort.ringSet, NMap.getD, found]
  cases NMap.find h.sets n <;> rfl

/-- The end of a session leaves the port's counters and its link. -/
theorem State.endSession_port (s : State) (p : Port) :
    ((s.endSession p).port p).ctr = (s.port p).ctr ∧ ((s.endSession p).port p).linkUp = (s.port p).linkUp := by
  cases p <;> exact ⟨rfl, rfl⟩

theorem State.endSession_jobs (s : State) (p : Port) : (s.endSession p).jobs = s.jobs := by cases p <;> rfl

theorem dropsLink_of_ne {k : ResetKind} (h : k ≠ .flr) : dropsLink k = true := by
  cases k with
  | flr => exact absurd rfl h
  | _ => rfl

/-- The state once a port's link has trained, before its presence is told. -/
def State.trained (s : State) (p : Port) (speed width : Nat) : State :=
  (s.setPort p { s.port p with linkUp := true, inReset := false, hosted := true, speed, width }).statusChange p

theorem State.trained_port (s : State) (p : Port) (speed width : Nat) : (s.trained p speed width).port p =
    { s.port p with linkUp := true, inReset := false, hosted := true, speed, width, statusDue := true } := by
  cases p <;> rfl

theorem exec_pcieLinkUp {s : State} {p : Port} {speed width : Nat} (h4 : 4 ≤ speed) (h6 : speed ≤ 6)
    (hw : width = 4 ∨ width = 8 ∨ width = 16) (hp : s.board.phase = .ready) :
    exec (.pcieLinkUp p speed width) s = .next ((s.trained p speed width).absence p (s.port p).absentNow 1) := by
  have kind : linkKind speed width = true := by simpa [linkKind, h4, h6, or_assoc] using hw
  exact (checked_of s _ _ kind).trans (congrArg _ (if_neg (by simp [hp])))

/-! ## The driver's version (R422) -/

theorem State.statusChange_versionOk (s : State) (p : Port) : (s.statusChange p).versionOk p = s.versionOk p := by cases p <;> rfl

/-- The driver's version is stored, and a status is due exactly where VERSION_OK changes. -/
theorem State.writeDriver_leaves (s : State) (p : Port) (v : W32) : ((s.writeDriver p v).port p).driver = v ∧
    (s.writeDriver p v).jobs = s.jobs ∧
    (s.versionOk p = (s.writeDriver p v).versionOk p → ((s.writeDriver p v).port p).statusDue = (s.port p).statusDue) ∧
    (s.versionOk p ≠ (s.writeDriver p v).versionOk p → ((s.writeDriver p v).port p).statusDue = true) := by
  have stored := s.setPort_port p { s.port p with driver := v }
  have jobs := s.setPort_jobs p { s.port p with driver := v }
  unfold State.writeDriver
  dsimp only
  generalize s.setPort p { s.port p with driver := v } = t at stored jobs ⊢
  split
  next h =>
    rw [stored]
    exact ⟨rfl, jobs, fun _ => rfl, fun hne => absurd (beq_iff_eq.mp h).symm hne⟩
  next h =>
    have changed : (t.statusChange p).port p = { s.port p with driver := v, statusDue := true } :=
      (t.setPort_port p _).trans (by rw [stored])
    rw [changed, State.statusChange_versionOk]
    exact ⟨rfl, (State.statusChange_jobs _ _).trans jobs, fun he => absurd (beq_iff_eq.mpr he.symm) h, fun _ => rfl⟩

/-- Settles O52: each register, window, reset and link by the branch of its meaning, and reports of absence by what they leave of a port. -/
theorem portRegisters : Obligations.PortRegisters := by
  unfold Obligations.PortRegisters
  intro s p
  refine ⟨fun v => ?_, fun hl => ?_, fun v => ?_, fun _ => rfl, fun off len k hin hb hm => ⟨fun hl hw => ?_, fun hl => ?_⟩,
    fun off len hin hb => ?_, fun off bs k hin hb hm hk => ⟨fun hl => ?_, fun hl hf => ?_, fun hl hf => ?_⟩, fun n v k hn hw => ?_,
    fun n v hn hw => ?_, fun off v k hin h4 ht hg => ?_, fun v k ht hv => ⟨fun hs hq => ?_, fun hs => ?_⟩, fun k => ?_,
    fun speed width h4 h6 hw hp => ?_⟩
  · have kept := s.setPort_absence p { s.port p with lease := v &&& 0xFFFF, leaseLapsed := false } (s.port p).absentNow 2
    exact ⟨_, rfl, HostPort.lease_of_offRecords kept, HostPort.leaseLapsed_of_offRecords kept⟩
  · have kept := s.setPort_absence p { s.port p with leaseLapsed := true } (s.port p).absentNow 2
    exact ⟨_, congrArg Host.Outcome.next (if_neg hl), HostPort.leaseLapsed_of_offRecords kept⟩
  · exact ⟨_, rfl, s.writeDriver_leaves p v⟩
  · exact ⟨_, checked_of s _ _ (decide_eq_true hin), State.readBar2_leaves hb hm hl hw⟩
  · exact (checked_of s _ _ (decide_eq_true hin)).trans (congrArg _ (State.readBar2_held hb hm hl))
  · exact ⟨_, checked_of s _ _ (decide_eq_true hin), State.readBar2_unmapped off len hb⟩
  · refine ⟨_, checked_of s _ _ (decide_eq_true hin), ?_⟩
    rw [State.writeBar2_held hb hm hl, State.setJob_job _ _ _ hk]
    exact ⟨rfl, rfl⟩
  · exact ⟨_, checked_of s _ _ (decide_eq_true hin), State.writeBar2_mem hb hm hk hl hf⟩
  · exact ⟨_, checked_of s _ _ (decide_eq_true hin), State.writeBar2_waits hb hm hk hl hf⟩
  · exact ⟨_, checked_of s _ _ (decide_eq_true hn), State.semAdd_sems v hn hw⟩
  · refine (checked_of s _ _ (decide_eq_true hn)).trans (congrArg _ ?_)
    rw [State.semAdd, hw]
  · refine (checked_of s _ _ (decide_eq_true hin)).trans (congrArg _ ((if_pos h4).trans ?_))
    rw [State.pgtStage, ht]
    exact if_pos hg
  · exact ⟨_, rfl, State.pgtPublish_applies ht hv hs hq⟩
  · exact congrArg _ ((State.pgtPublish_due ht hv).trans (State.takeGo_unserved hs))
  · have kept := (s.endSession p).setPort_absence p (((s.endSession p).port p).afterReset k) (s.port p).absentNow 1
    obtain ⟨ctr, link⟩ := s.endSession_port p
    refine ⟨_, rfl, fun n => ?_, HostPort.session_of_offRecords kept, HostPort.driver_of_offRecords kept,
      HostPort.lease_of_offRecords kept, HostPort.bar2_of_offRecords kept, (HostPort.ctr_of_offRecords kept).trans ctr,
      fun hk => ?_, fun hk => ?_, ?_⟩
    · exact (HostPort.enabled_of_offRecords kept n).trans (HostPort.afterReset_enabled _ k n)
    · exact (HostPort.linkUp_of_offRecords kept).trans (if_pos (dropsLink_of_ne hk))
    · subst hk
      exact (HostPort.linkUp_of_offRecords kept).trans link
    · exact (State.absence_jobs _ _ _ _).trans ((State.setPort_jobs _ _ _).trans (s.endSession_jobs p))
  · have kept := (s.trained p speed width).absence_portOffRecords p (s.port p).absentNow 1
    have trained := s.trained_port p speed width
    refine ⟨_, exec_pcieLinkUp h4 h6 hw hp, (HostPort.linkUp_of_offRecords kept).trans ?_, (HostPort.speed_of_offRecords kept).trans ?_,
      (HostPort.width_of_offRecords kept).trans ?_, (HostPort.inReset_of_offRecords kept).trans ?_⟩ <;> rw [trained]

end Sys2Proof.Machine
end

section
/-! O4, O6: fuses only rise (R451, R459, R473, R481), and every command but the two that may lose the module ends in a state. -/

namespace Sys2Proof.Machine

/-! ## Fuses -/

/-- A step raises fuses as its front command does. -/
theorem step_risen {s t : State} (h : step s = .next t) : s.fuses.risen t.fuses := by
  cases hq : s.pending with
  | nil =>
    rw [step, hq] at h
    cases h
    exact Fuses.risen_refl _
  | cons c rest =>
    rw [step, hq] at h
    exact (exec_kept c _ t h).fuses

/-- Settles O4: what every command keeps includes every blown fuse, and a step is one command or none. -/
theorem fusesOnlyRise : Obligations.FusesOnlyRise := fun _ _ => step_risen

/-! ## Commands that complete (R479, R490) -/

/-- An error anywhere but in a hub buffer leaves the module running (R479). -/
theorem execEccError_completes {place : EccPlace} {corrected : Bool} (h : ∀ n, place = .hubBuffer n → corrected = true) (s : State) :
    ∃ t, execEccError place corrected s = .next t := by
  unfold execEccError
  split
  · exact ⟨_, rfl⟩
  · cases corrected with
    | true => cases place <;> exact ⟨_, rfl⟩
    | false =>
      cases place with
      | hubBuffer n => exact absurd (h n rfl) Bool.false_ne_true
      | _ => exact ⟨_, rfl⟩

/-- Every command but those two ends in a state, whatever its operands. -/
theorem exec_completes {i : Instr} (hecc : ∀ h, i ≠ .eccError (.hubBuffer h) false) (hrail : ∀ r ph, i = .phaseFail r ph → r < 34)
    (s : State) : ∃ t, exec i s = .next t := by
  cases i with
  | eccError place corrected =>
    refine execEccError_completes (fun n hn => ?_) s
    cases corrected with
    | true => rfl
    | false => exact absurd (congrArg (Instr.eccError · false) hn) (hecc n)
  | phaseFail rail phase => exact ⟨_, if_pos (hrail rail phase rfl)⟩
  | _ => exact ⟨_, rfl⟩

/-- Settles O6: completion does not rest on well-formedness, since a command that names no unit of the P6 changes nothing. -/
theorem wellFormedCompletes : Obligations.WellFormedCompletes := fun _ s _ hecc hrail => exec_completes hecc hrail s

end Sys2Proof.Machine
end

section
/-! SUPPORT. What start-up makes of the state (R439, R449, R473, R476, R498, R500, R501): the tests of parts, the branches of the boot,
and what a module that comes to READY holds. -/

namespace Sys2Proof.Machine

/-! ## Reports after READY (R490, R493, R500) -/

@[simp] theorem State.setPort_unreported (s : State) (p : Port) (h : HostPort) : (s.setPort p h).unreported = s.unreported :=
  State.unreported_of_offPorts (s.setPort_offPorts p h)

@[simp] theorem State.statusChange_unreported (s : State) (p : Port) : (s.statusChange p).unreported = s.unreported :=
  s.setPort_unreported p _

@[simp] theorem State.flashEvent_unreported (s : State) (copy action : Nat) : (s.flashEvent copy action).unreported = s.unreported :=
  State.healthEvent_unreported _ _ _

@[simp] theorem State.powerEvent_unreported (s : State) (feed action mV : Nat) :
    (s.powerEvent feed action mV).unreported = s.unreported := State.healthEvent_unreported _ _ _

@[simp] theorem State.tellFlash_unreported (s : State) (copy : Nat) (bad other : Bool × Bool) :
    (s.tellFlash copy bad other).unreported = s.unreported := by
  unfold State.tellFlash
  dsimp only
  split
  · rfl
  · split <;> simp

@[simp] theorem State.testEvents_unreported (s : State) (i : StartIn) : (s.testEvents i).unreported = s.unreported := by
  unfold State.testEvents
  dsimp only
  rw [foldl_keeps State.unreported _ (fun _ _ => State.unitEvent_unreported _ _ _ _ _ _ _),
    foldl_keeps State.unreported _ (fun _ _ => State.unitEvent_unreported _ _ _ _ _ _ _),
    foldl_keeps State.unreported _ (fun _ _ => State.unitEvent_unreported _ _ _ _ _ _ _)]

section
variable {s t : State} (h : t.unreported = s.unreported)
include h

theorem State.power_of_unreported : t.power = s.power := (congrArg State.power h :)
theorem State.board_of_unreported : t.board = s.board := (congrArg State.board h :)
theorem State.cfg_of_unreported : t.cfg = s.cfg := (congrArg State.cfg h :)
theorem State.powered_of_unreported : t.powered = s.powered := (congrArg State.powered h :)

end

/-! ## Parts (R481, R500) -/

/-- The tests of parts keep what a noted retirement and a change of health keep. -/
theorem State.testParts_keeps {α : Type} (g : State → α) (noted : ∀ s u, g (State.noteRetired s u) = g s)
    (health : ∀ (s : State) h, g { s with health := h } = g s) (s : State) (i : StartIn) : g (s.testParts i) = g s := by
  unfold State.testParts
  dsimp only
  rw [foldl_keeps g, foldl_keeps g, foldl_keeps g]
  · exact fun s _ => noted s _
  · intro s b
    split
    · rfl
    · rw [noted, health]
  · intro s p
    split
    · rfl
    · rw [noted, health]

/-- Failed stacks are among the retirements that the next start-up fuses (R481). -/
def State.stacksNoted (s : State) (ks : List Nat) : State :=
  { s with flash := { s.flash with retired := s.flash.retired ++ ks.map (fun n => ⟨6, n, 0⟩) } }

theorem State.noteStacks {s : State} (h : s.roleServes 0 = true) (ks : List Nat) :
    ks.foldl (fun (s : State) k => s.noteRetired { kind := 6, unit := k }) s = s.stacksNoted ks := by
  induction ks generalizing s with
  | nil =>
    rw [State.stacksNoted, List.map_nil, List.append_nil]
    rfl
  | cons k ks ih =>
    have all : s.flash.retired ++ (k :: ks).map (fun n => (⟨6, n, 0⟩ : UnitId)) =
        s.flash.retired ++ [{ kind := 6, unit := k }] ++ ks.map (fun n => ⟨6, n, 0⟩) := by simp
    rw [List.foldl_cons, State.noteRetired_serves h, State.stacksNoted, all]
    exact ih (s := { s with flash := { s.flash with retired := s.flash.retired ++ [{ kind := 6, unit := k }] } }) h

/-- Where no core and no cluster fails, the tests note the stacks that do. -/
theorem State.testParts_stacks {s : State} {i : StartIn} (hs : s.roleServes 0 = true) (hcores : i.badCores = [])
    (hclusters : i.badClusters = []) : s.testParts i = s.stacksNoted i.badStacks := by
  unfold State.testParts
  rw [hcores, hclusters]
  exact State.noteStacks hs i.badStacks

/-! ## Steps 5 to 8 (R498) -/

/-- Steps 5 to 7: the ports are released, the stacks' units placed, and the firmware runs. -/
def State.brought (s : State) (i : StartIn) : State :=
  let s := { s with portA := s.portA.released i.pcieA, portB := s.portB.released i.pcieB
                    islands := (List.range 100).map (fun n => Config.elapsed (s.freeCtr + n)), freeCtr := s.freeCtr + 100 }
  { s with fw := s.fw.booted (s.bootSapwood i), health := s.health.placeHbm i.badStacks }

/-- The parts tested, before step 8 builds the map. -/
def State.tested (s : State) (i : StartIn) : State := ((s.brought i).mendFlash i).testParts i

/-- The map built, and READY. -/
def State.readied (s : State) : State := { s with health := s.health.built, board := { s.board with phase := .ready } }

theorem State.finish_stops {s : State} {i : StartIn} (h : (s.tested i).health.chosen.length < 16) :
    s.finish i = { s.tested i with board := { (s.tested i).board with phase := .stopped } } := if_pos h

/-- After READY there are only reports. -/
theorem State.finish_readies {s : State} {i : StartIn} (h : 16 ≤ (s.tested i).health.chosen.length) :
    (s.finish i).unreported = (s.tested i).readied.unreported := by
  refine (congrArg State.unreported (if_neg (not_lt.mpr h))).trans ?_
  rw [State.testEvents_unreported]
  have told (t : State) (b : Bool) (f n : Nat) : (if b = true then t.powerEvent f 1 n else t).unreported = t.unreported := by
    cases b
    · rfl
    · exact t.powerEvent_unreported f 1 n
  rw [told, told, State.tellFlash_unreported, State.tellFlash_unreported, State.statusChange_unreported, State.statusChange_unreported]
  rfl

/-- The configuration in force, power, the fuses and the job slots: what the steps after step 4 leave. -/
def State.inForce (s : State) : CfgRec × Power × Fuses × List Job := (s.cfg, s.power, s.fuses, s.jobs)

theorem State.noteRetired_inForce (s : State) (u : UnitId) : (s.noteRetired u).inForce = s.inForce := by
  unfold State.noteRetired
  split <;> rfl

theorem State.tested_inForce (s : State) (i : StartIn) : (s.tested i).inForce = s.inForce :=
  State.testParts_keeps State.inForce State.noteRetired_inForce (fun _ _ => rfl) _ i

theorem State.finish_inForce (s : State) (i : StartIn) : (s.finish i).inForce = s.inForce := by
  by_cases h : (s.tested i).health.chosen.length < 16
  · rw [State.finish_stops h]
    exact s.tested_inForce i
  · exact (congrArg State.inForce (State.finish_readies (not_lt.mp h)) :).trans (s.tested_inForce i)

/-- The security cores run from step 7 on (R435, R441). -/
theorem Firmware.booted_first (f : Firmware) (sap : Option FwImage) : (f.booted sap).cores.getD 0 {} = { role := 1 } := by
  cases sap <;> rfl

theorem State.brought_serves (s : State) (i : StartIn) : (s.brought i).roleServes 0 = true := by
  simp [State.roleServes, State.brought, Firmware.booted_first, -List.getD_eq_getElem?_getD]

/-- Where no core and no cluster fails, what is tested is what is brought up, its flash mended and the failed stacks noted. -/
theorem State.tested_stacks {s : State} {i : StartIn} (hcores : i.badCores = []) (hclusters : i.badClusters = []) :
    s.tested i = ((s.brought i).mendFlash i).stacksNoted i.badStacks :=
  State.testParts_stacks (s.brought_serves i) hcores hclusters

/-! ## The boot (R439, R449, R476, R501) -/

/-- The boot ROM loads a copy of heartwood: its other checks pass, and its security version is no less than the fused minimum (R439). -/
def State.loads (s : State) (ok : Bool) (x : FwImage) : Bool := ok && decide (s.fuses.svnHeart ≤ x.svn)

theorem State.loads_fails {s : State} {ok : Bool} {x : FwImage} (h : ok = false ∨ x.svn < s.fuses.svnHeart) : s.loads ok x = false := by
  rcases h with rfl | h
  · rfl
  · simp [State.loads, h]

theorem State.loads_passes {s : State} {x : FwImage} (h : s.fuses.svnHeart ≤ x.svn) : s.loads true x = true := decide_eq_true h

/-- Heartwood runs, and start-up goes on to its step 4. -/
def State.goesOnWith (s : State) (i : StartIn) (x : FwImage) : State := ({ s with fw := { s.fw with heartwood := x } } : State).configure i

/-- What the boot can come to: it halts, ends an interrupted scrap or return, or goes on to READY. -/
theorem State.boot_cases {P : State → Prop} {s : State} {i : StartIn} (halts : P { s with board := { s.board with phase := .halted } })
    (scraps : ∀ x, P (({ s with fw := { s.fw with heartwood := x } } : State).destroyed 2).scrap)
    (returns : ∀ x, P (({ s with fw := { s.fw with heartwood := x } } : State).destroyed 1).return')
    (finishes : ∀ x, P ((s.goesOnWith i x).finish i)) : P (s.boot i) := by
  have pick {c : Prop} [Decidable c] {a b : State} (ha : P a) (hb : P b) : P (if c then a else b) := by
    split
    · exact ha
    · exact hb
  exact pick halts (pick (scraps _) (pick (returns _) (finishes _)))

/-- The module with its rails on, before the boot ROM runs (steps 1 to 3 of R498). -/
def State.started (s : State) (i : StartIn) : State :=
  let s := s.dark .off
  { s with power := { s.power with feedA := i.feedAmV, feedB := i.feedBmV, lostA := feedGone i.feedAmV, lostB := feedGone i.feedBmV } }

/-- What a start can come to: no feed is in range, the module is scrapped, or the boot ROM runs (R473, R498). -/
theorem State.startUp_cases {P : State → Prop} {s : State} {i : StartIn} (off : P (s.started i))
    (scrapped : P { s.started i with board := { (s.started i).board with phase := .scrapped } }) (boots : P ((s.started i).boot i)) :
    P (s.startUp i) := by
  unfold State.startUp
  dsimp only
  split
  · exact off
  · split
    · exact scrapped
    · exact boots

section
variable {s : State} {i : StartIn}

theorem State.boot_halts (hp : s.loads i.heartPrimary s.flash.heartPrimary = false)
    (hm : s.loads i.heartMirror s.flash.heartMirror = false) : s.boot i = { s with board := { s.board with phase := .halted } } :=
  if_pos (by
    rw [State.loads] at hp hm
    simp only [State.minSvn, hp, hm, if_true]
    rfl)

/-- With no transition interrupted, start-up goes on with the first good copy. -/
theorem State.boot_finishes {x : FwImage} (hi : s.fuses.intent = 0)
    (hx : (s.loads i.heartPrimary s.flash.heartPrimary = true ∧ x = s.flash.heartPrimary) ∨
      (s.loads i.heartPrimary s.flash.heartPrimary = false ∧ s.loads i.heartMirror s.flash.heartMirror = true ∧
        x = s.flash.heartMirror)) : s.boot i = (s.goesOnWith i x).finish i := by
  rcases hx with ⟨hp, rfl⟩ | ⟨hp, hm, rfl⟩
  · rw [State.loads] at hp
    simp [State.boot, State.minSvn, hp, hi, State.goesOnWith]
  · rw [State.loads] at hp hm
    simp [State.boot, State.minSvn, hp, hm, hi, State.goesOnWith]

/-- What a module without failed cores or clusters is once it has come to READY, but for its reports. -/
def State.cameUp (s : State) (i : StartIn) (x : FwImage) : State :=
  ((((s.goesOnWith i x).brought i).mendFlash i).stacksNoted i.badStacks).readied

theorem State.finish_cameUp (x : FwImage) (hcores : i.badCores = []) (hclusters : i.badClusters = [])
    (hchosen : 16 ≤ s.health.chosen.length) : ((s.goesOnWith i x).finish i).unreported = (s.cameUp i x).unreported := by
  have tested := State.tested_stacks (s := s.goesOnWith i x) hcores hclusters
  have chosen : ((s.goesOnWith i x).tested i).health.chosen = s.health.chosen := by
    rw [tested]
    rfl
  rw [State.finish_readies (chosen ▸ hchosen), tested]
  rfl

theorem State.startUp_boots (hfeed : feedOk i.feedAmV = true ∨ feedOk i.feedBmV = true) (hstate : s.fuses.state ≠ 4) :
    s.startUp i = (s.started i).boot i :=
  (if_neg (by rcases hfeed with h | h <;> simp [h])).trans (if_neg hstate)

end

end Sys2Proof.Machine
end

section
/-! O59: the limits of power (R504, R508). -/

namespace Sys2Proof.Machine

/-! ## Writes -/

theorem fld_low {n : Nat} (w : BitVec n) (len : Nat) : fld w 0 len = w.toNat % 2 ^ len := by
  rw [fld, nfld, Nat.pow_zero, Nat.div_one]

theorem exec_pwrCap {s : State} (hp : s.powered = true) (v : W32) : exec (.pwrCap v) s =
    .next (if 800 ≤ v.toNat % 65536 ∧ v.toNat % 65536 ≤ 1350 then
      { s with power := { s.power with cap := v.toNat % 65536 } } else s) := by
  change execPwrCap v s = _
  simp [execPwrCap, fld_low, hp]

theorem exec_pwrSetpoint {s : State} (hp : s.powered = true) (v : W32) : exec (.pwrSetpoint v) s =
    .next (if 650 ≤ v.toNat % 1024 ∧ v.toNat % 1024 ≤ 850 ∧ v.toNat % 1024 % 5 = 0 then
      { s with power := { s.power with setpoint := v.toNat % 1024 } } else s) := by
  change execPwrSetpoint v s = _
  simp [execPwrSetpoint, fld_low, hp, and_assoc]

/-! ## Start-up -/

/-- The limits are those of the configuration in force. -/
def State.limited (s : State) : Prop := s.power.cap = s.cfg.cap ∧ s.power.setpoint = s.cfg.setpoint

/-- Step 4 loads the limits, and no step after it changes them. -/
theorem State.finish_limited (s : State) (i : StartIn) : ((s.configure i).finish i).limited := by
  have kept := (s.configure i).finish_inForce i
  have hpower : ((s.configure i).finish i).power = (s.configure i).power := (congrArg (·.2.1) kept :)
  have hcfg : ((s.configure i).finish i).cfg = (s.configure i).cfg := (congrArg Prod.fst kept :)
  rw [State.limited, hpower, hcfg]
  exact ⟨rfl, rfl⟩

/-- A boot that ends in READY has gone through step 4: otherwise it halts, scraps the module or returns it. -/
theorem State.boot_limited {s : State} {i : StartIn} : (s.boot i).board.phase = .ready → (s.boot i).limited :=
  State.boot_cases (P := fun t => t.board.phase = .ready → t.limited) nofun (fun _ => nofun) (fun _ => nofun)
    (fun _ _ => State.finish_limited _ i)

theorem State.startUp_limited {s : State} {i : StartIn} : (s.startUp i).board.phase = .ready → (s.startUp i).limited :=
  State.startUp_cases (P := fun t => t.board.phase = .ready → t.limited) nofun nofun State.boot_limited

theorem State.limited_of_unreported {s t : State} (h : t.unreported = s.unreported) (hs : s.limited) : t.limited := by
  rw [State.limited, State.power_of_unreported h, State.cfg_of_unreported h]
  exact hs

theorem execRecover_limited {s t : State} {image : List Byte} {i : StartIn} (h : execRecover image i s = .next t)
    (hs : s.board.phase ≠ .ready) (ht : t.board.phase = .ready) : t.limited := by
  unfold execRecover at h
  dsimp only at h
  split_ifs at h
  · cases h
    exact absurd ht hs
  · cases h
    exact absurd ht hs
  · cases h
    have told (u : State) : ((u.flashEvent 1 2).flashEvent 0 2).unreported = u.unreported := by simp
    rw [congrArg Board.phase (State.board_of_unreported (told _))] at ht
    exact State.limited_of_unreported (told _) (State.boot_limited ht)
  · cases h
    exact State.boot_limited ht

/-- Settles O59: a write is one branch of its register, and each way to READY loads the configuration's limits. -/
theorem powerLimitWrites : Obligations.PowerLimitWrites := by
  refine ⟨fun s v hp => ⟨exec_pwrCap hp v, exec_pwrSetpoint hp v⟩, fun s t i image c hc h hs ht => ?_⟩
  have ends {b : Bool} {u : State} (hu : u.board.phase = .ready → u.limited)
      (h : Host.Outcome.next (if b = true then u else s) = (.next t : Host.Outcome State Fault Refusal)) : t.limited := by
    cases h
    cases b
    · exact absurd ht hs
    · exact hu ht
  simp only [List.mem_cons, List.not_mem_nil, or_false] at hc
  rcases hc with rfl | rfl | rfl | rfl
  · exact ends State.startUp_limited h
  · exact ends State.startUp_limited h
  · exact ends State.boot_limited h
  · exact execRecover_limited h hs ht

end Sys2Proof.Machine
end

section
/-! O60: start-up, the halt and its recovery, RESET_N, and what the SMBus target and JTAG answer (R439, R449, R469, R498, R501, R516 to
R518). -/

namespace Sys2Proof.Machine

/-! ## Start-up (R498, R501) -/

theorem feedOk_of {mV : Nat} (h : 48000 ≤ mV ∧ mV ≤ 58000) : feedOk mV = true := by simp [feedOk, h]

/-- START_UP of a module that is off, and the release of RESET_N, start the module. -/
theorem exec_starts {s : State} {i : StartIn} {c : Instr}
    (h : (c = .startUp i ∧ s.board.phase = .off) ∨ (c = .resetNRelease i ∧ s.board.phase = .inReset)) :
    exec c s = .next (s.startUp i) := by
  rcases h with ⟨rfl, h⟩ | ⟨rfl, h⟩ <;> exact congrArg Host.Outcome.next (if_pos (by simp [h]))

theorem exec_bootRetryTimer {s : State} (h : s.board.phase = .halted) (i : StartIn) : exec (.bootRetryTimer i) s = .next (s.boot i) :=
  congrArg Host.Outcome.next (if_pos (by simp [h]))

/-! ## Recovery (R439, R501, R517) -/

/-- An accepted image is no older than the fused minimum (R439). -/
theorem State.minSvn_of_accept {s : State} {heart : Bool} {bs : List Byte} (h : (s.fwAccept heart bs).2 = 1) :
    s.minSvn heart ≤ (s.fwAccept heart bs).1.svn := by
  have verdict {bad : Bool} {x : FwImage} {m : Nat} :
      (if bad = true then (x, 3) else if x.svn < m then (x, 4) else (x, 1)).2 = 1 →
        m ≤ (if bad = true then (x, 3) else if x.svn < m then (x, 4) else (x, 1)).1.svn := by
    split_ifs with _ old
    · exact nofun
    · exact nofun
    · exact fun _ => not_lt.mp old
  exact verdict h

/-- A start on which both copies of heartwood pass. -/
def rewrittenStart (i : StartIn) : StartIn := { i with heartPrimary := true, heartMirror := true }

/-- A halted module with an accepted image in both copies of the boot flash. -/
def State.reflashed (s : State) (x : FwImage) : State :=
  { s.smbus (some []) with flash := { s.flash with heartMirror := x, heartPrimary := x } }

section
variable {s : State} {image : List Byte} {i : StartIn} (hs : s.board.phase = .halted)
include hs

theorem exec_recover_refused (h : (s.fwAccept true image).2 ≠ 1) : exec (.recover image i) s = .next (s.smbus (some [])) :=
  congrArg Host.Outcome.next ((if_neg (by simp [hs])).trans (if_pos h))

/-- Start-up resumes with the image, and both copies are reported as rewritten. -/
theorem exec_recover_accepted (h : (s.fwAccept true image).2 = 1) (hi : s.fuses.intent = 0) (hcores : i.badCores = [])
    (hclusters : i.badClusters = []) (hchosen : 16 ≤ s.health.chosen.length) :
    ∃ t, exec (.recover image i) s = .next t ∧
      t.unreported = ((s.reflashed (s.fwAccept true image).1).cameUp (rewrittenStart i) (s.fwAccept true image).1).unreported := by
  have boots := State.boot_finishes (s := s.reflashed (s.fwAccept true image).1) (i := rewrittenStart i) hi
    (.inl ⟨State.loads_passes (State.minSvn_of_accept h), rfl⟩)
  have up := (congrArg State.unreported boots).trans (State.finish_cameUp _ hcores hclusters hchosen)
  refine ⟨_, congrArg Host.Outcome.next ((if_neg (by simp [hs])).trans ((if_neg (not_not_intro h)).trans
    (if_pos (State.powered_of_unreported up)))), ?_⟩
  rw [State.flashEvent_unreported, State.flashEvent_unreported]
  exact up

end

/-! ## SMBus and JTAG (R517, R518) -/

theorem State.shownInput_jobs (s : State) : s.shownInput.2.jobs = s.jobs := by
  unfold State.shownInput State.inputPower
  dsimp only
  split <;> rfl

theorem getLsbD_ofNat_odd (n : Nat) : (BitVec.ofNat 32 (1 + 2 * n)).getLsbD 0 = true := by
  rw [BitVec.getLsbD_ofNat, Nat.testBit_zero, Nat.add_mul_mod_self_left]
  rfl

theorem idcodeWord_odd : idcodeWord =
    BitVec.ofNat 32 (1 + 2 * (Config.jtagMaker % 2 ^ 11 + 0x0A06 * 2 ^ 11 + Config.stepping.2 % 16 * 2 ^ 27)) := by
  have odd (a b : Nat) : 1 + a * 2 + 0x0A06 * 2 ^ 12 + b * 2 ^ 28 = 1 + 2 * (a + 0x0A06 * 2 ^ 11 + b * 2 ^ 27) := by ring
  exact congrArg (BitVec.ofNat 32) (odd _ _)

/-- IDCODE's bit 0 is 1 (R518). -/
theorem idcodeWord_low : idcodeWord.getLsbD 0 = true := by
  rw [idcodeWord_odd]
  exact getLsbD_ofNat_odd _

section
variable {s : State}

theorem State.powered_of_ready (hs : s.board.phase = .ready) : s.powered = true := by rw [State.powered, hs]; rfl

/-- The boot ROM or the runtime answers on the SMBus. -/
theorem State.smbusRom_of_powered (hp : s.powered = true) : s.smbusRom = true := by rw [State.smbusRom, hp]; rfl

theorem State.jtagLive_of_ready (hs : s.board.phase = .ready) : s.jtagLive = true := by rw [State.jtagLive, hs]; rfl

theorem exec_identity (hp : s.powered = true) : exec .identity s = .next (s.smbus (some (leBytes 8 Config.identity.toNat))) :=
  congrArg (fun b => Host.Outcome.next (s.smbus b)) (if_pos (State.smbusRom_of_powered hp))

/-- What INVENTORY gives behind the ordering number: the stepping, the year and week of manufacture, and zeros. -/
def manufacture : List Byte :=
  leBytes 1 (Config.stepping.1 % 16 * 16 + Config.stepping.2 % 16) ++ (leBytes 2 Config.made.1 ++ (leBytes 1 Config.made.2 ++ leBytes 2 0))

theorem exec_inventory (hp : s.powered = true) : exec .inventory s = .next (s.smbus (some (orderingNumber ++ manufacture))) := by
  change execInventory s = _
  simp [execInventory, State.smbusRom_of_powered hp, manufacture]

theorem exec_stage_ready (hs : s.board.phase = .ready) : exec .stage s = .next (s.smbus (some [9])) := by
  change execStage s = _
  rw [execStage, hs]

theorem exec_power (hp : s.powered = true) : exec .power s = .next (s.shownInput.2.smbus (some (leBytes 4 s.shownInput.1))) :=
  congrArg Host.Outcome.next (if_pos hp)

theorem exec_coolant (hp : s.powered = true) : exec .coolant s = .next (s.shownCoolant.2.smbus (some (leBytes 4 s.shownCoolant.1))) :=
  congrArg Host.Outcome.next (if_pos hp)

theorem exec_margin (hp : s.powered = true) : exec .margin s = .next (s.smbus (some [BitVec.ofNat 8 s.marginClass])) :=
  congrArg (fun b => Host.Outcome.next (s.smbus b)) (if_pos hp)

theorem exec_idcode (hs : s.board.phase = .ready) : exec .idcode s = .next { s with board := { s.board with jtag := idcodeWord } } :=
  congrArg Host.Outcome.next (if_pos (State.jtagLive_of_ready hs))

theorem exec_bypass (hs : s.board.phase = .ready) : exec .bypass s = .next { s with board := { s.board with jtag := 0 } } :=
  congrArg Host.Outcome.next (if_pos (State.jtagLive_of_ready hs))

theorem exec_ignoredPulse (hp : s.powered = true) (pin : PinIn) : ∃ t, exec (.ignoredPulse pin) s = .next t ∧
    t.power.glitches = match pin with
      | .resetN => (sat16 s.power.glitches.1, s.power.glitches.2)
      | .throttleN => (s.power.glitches.1, sat16 s.power.glitches.2) := by
  refine ⟨_, congrArg Host.Outcome.next (if_neg (by simp [hp])), ?_⟩
  cases pin <;> rfl

end

/-- Settles O60: start-up runs to READY or halts at the boot ROM, and the answers are each one branch of their command. -/
theorem startAndBoard : Obligations.StartAndBoard := by
  unfold Obligations.StartAndBoard
  intro s i
  refine ⟨fun c hc hfeed hstate => ⟨fun hp hm => ?_, fun hp hsvn hi hcores hclusters hchosen => ?_⟩,
    fun hs hm hsvn hp hi hcores hclusters hchosen => ?_, ⟨_, rfl, rfl, rfl, rfl, rfl, rfl, rfl⟩,
    fun image hs hi hcores hclusters hchosen => ?_, fun hs => ?_, fun hc => ⟨?_, ?_⟩⟩
  · have starts := State.startUp_boots (s := s) (hfeed.imp feedOk_of feedOk_of) hstate.ne
    rw [exec_starts hc, starts, State.boot_halts (s := s.started i) (State.loads_fails hp) (State.loads_fails hm)]
    exact ⟨_, rfl, rfl⟩
  · have starts := State.startUp_boots (s := s) (hfeed.imp feedOk_of feedOk_of) hstate.ne
    have boots := State.boot_finishes (s := s.started i) (i := i) hi (.inl ⟨hp ▸ State.loads_passes hsvn, rfl⟩)
    have up := State.finish_cameUp (s := s.started i) s.flash.heartPrimary hcores hclusters hchosen
    refine ⟨_, (exec_starts hc).trans (congrArg _ (starts.trans boots)), (congrArg (·.board.phase) up :), (congrArg State.jobs up :),
      (congrArg (·.fuses.repairs) up :), (congrArg (·.flash.retired) up :), ?_, ?_, (congrArg (·.fw.heartwood) up :)⟩
    · exact (State.finish_limited _ i).1
    · exact (State.finish_limited _ i).2
  · have boots := State.boot_finishes hi (.inr ⟨State.loads_fails hp, hm ▸ State.loads_passes hsvn, rfl⟩)
    have up := State.finish_cameUp s.flash.heartMirror hcores hclusters hchosen
    exact ⟨_, (exec_bootRetryTimer hs i).trans (congrArg _ boots), (congrArg (·.board.phase) up :), (congrArg (·.fw.heartwood) up :)⟩
  · by_cases h : (s.fwAccept true image).2 = 1
    · obtain ⟨t, runs, up⟩ := exec_recover_accepted hs h hi hcores hclusters hchosen
      refine ⟨t, runs, ?_⟩
      rw [if_pos h]
      exact ⟨(congrArg (·.board.phase) up :), (congrArg (·.flash.heartPrimary) up :), (congrArg (·.flash.heartMirror) up :)⟩
    · refine ⟨_, exec_recover_refused hs h, ?_⟩
      rw [if_neg h]
      rfl
  · have hp := State.powered_of_ready hs
    exact ⟨exec_identity hp, ⟨_, _, exec_inventory hp, rfl, rfl⟩, exec_stage_ready hs,
      ⟨_, _, exec_power hp, rfl, Laws.length_leBytes 4 _, s.shownInput_jobs⟩, ⟨_, _, exec_coolant hp, rfl, Laws.length_leBytes 4 _, rfl⟩,
      exec_margin hp, ⟨_, exec_idcode hs, idcodeWord_low, rfl⟩, exec_bypass hs, exec_ignoredPulse hp .resetN,
      exec_ignoredPulse hp .throttleN⟩
  · exact congrArg Host.Outcome.next (if_neg (by simp [hc]))
  · exact ⟨_, congrArg Host.Outcome.next (if_neg (by simp [hc])), rfl, rfl⟩

end Sys2Proof.Machine
end

section
/-! O58: the governor's rails, THROTTLE_N, configuration writes, feeds, pacing and shutdown (R444, R505 to R507, R509, R512). -/

namespace Sys2Proof.Machine

/-! ## The governor (R506, R507) -/

@[simp] theorem State.throttleEvent_unreported (s : State) (cause phase ticks : Nat) :
    (s.throttleEvent cause phase ticks).unreported = s.unreported := State.healthEvent_unreported _ _ _

/-- The counting of throttling leaves the rails and the samples (R509). -/
theorem State.tellThrottle_rails (s : State) :
    s.tellThrottle.power.rails = s.power.rails ∧ s.tellThrottle.power.samples = s.power.samples := by
  have told (b : Prop) [Decidable b] (u : State) (cause phase ticks : Nat) :
      (if b then u else u.throttleEvent cause phase ticks).power = u.power := by
    split
    · rfl
    · exact State.power_of_unreported (u.throttleEvent_unreported cause phase ticks)
  unfold State.tellThrottle
  dsimp only
  split
  · rw [told]
    exact ⟨rfl, rfl⟩
  · rw [← ite_not, told]
    exact ⟨rfl, rfl⟩

/-- The rail of a cluster in service, after a period. -/
def State.governedRail (s : State) (i : GovIn) (c : Nat) : Rail :=
  let old := s.power.rails.getD c {}
  old.govern s.power i.power (i.tj.getD c old.tj) ((s.health.cluster c).overRated (i.amps.getD c 0))

theorem State.governed_rail {s : State} {i : GovIn} {c : Nat} (hc : c < s.power.rails.length)
    (hs : (s.health.cluster c).inService = true) : (s.governed i)[c]? = some (s.governedRail i c) := by
  simp [State.governed, State.governedRail, hc, hs]

theorem exec_governorTick {s : State} (hp : s.powered = true) (i : GovIn) : ∃ t, exec (.governorTick i) s = .next t ∧
    t.power.rails = s.governed i ∧ t.power.samples = (i.power :: s.power.samples).take 100 := by
  refine ⟨_, congrArg Host.Outcome.next (if_neg (by simp [hp])), ?_, ?_⟩
  · exact (State.tellThrottle_rails _).1
  · exact (State.tellThrottle_rails _).2

section
variable {r : Rail} {p : Power} {power tj : Nat} {hot : Bool}

/-- A rail's limit in the next period (R507). -/
def Rail.limit (r : Rail) (p : Power) : Nat := min p.setpoint (min r.therm r.cur)

theorem Rail.govern_v : (r.govern p power tj hot).v =
    if p.throttlePin then 650
    else if (r.govern p power tj hot).limit p < r.v then r.v - 5
    else if 10 * p.cap < power ∧ 650 < r.v then r.v - 5
    else if 1000 * power < 9800 * p.cap ∧ r.v < (r.govern p power tj hot).limit p then r.v + 5
    else r.v := rfl

theorem Rail.govern_floor (h : p.throttlePin = true) : (r.govern p power tj hot).v = 650 := by
  rw [Rail.govern_v, if_pos h]

section
variable (h : p.throttlePin = false)
include h

theorem Rail.govern_falls (hlim : (r.govern p power tj hot).limit p < r.v) : (r.govern p power tj hot).v = r.v - 5 := by
  rw [Rail.govern_v, if_neg (by simp [h]), if_pos hlim]

theorem Rail.govern_capped (hlim : r.v ≤ (r.govern p power tj hot).limit p) (hcap : 10 * p.cap < power) (hv : 650 < r.v) :
    (r.govern p power tj hot).v = r.v - 5 := by
  rw [Rail.govern_v, if_neg (by simp [h]), if_neg (not_lt.mpr hlim), if_pos ⟨hcap, hv⟩]

theorem Rail.govern_rises (hlim : r.v < (r.govern p power tj hot).limit p) (hcap : 1000 * power < 9800 * p.cap) :
    (r.govern p power tj hot).v = r.v + 5 := by
  rw [Rail.govern_v, if_neg (by simp [h]), if_neg (by omega), if_neg (by omega), if_pos ⟨hcap, hlim⟩]

theorem Rail.govern_stays (hlim : r.v = (r.govern p power tj hot).limit p) (hcap : power ≤ 10 * p.cap) :
    (r.govern p power tj hot).v = r.v := by
  rw [Rail.govern_v, if_neg (by simp [h]), if_neg (by omega), if_neg (by omega), if_neg (by omega)]

end

end

/-! ## Configuration writes (R444, R505) -/

section
variable {s : State} (hp : s.powered = true) (via : Bool)
include hp

theorem exec_pwrConfigGo_waits (hs : s.roleServes 0 = false) : exec (.pwrConfigGo via) s =
    if s.cfgHeld then .next { s with power := { s.power with cfgResult := 4 } } else .next (s.hold (.config via)) :=
  (congrArg Host.Outcome.next ((if_neg (by simp [hp])).trans (if_pos (by simp [hs])))).trans (apply_ite Host.Outcome.next _ _ _)

/-- Only an accepted record goes into the flashes, and into both. -/
theorem exec_pwrConfigGo_serves (hs : s.roleServes 0 = true) : ∃ t, exec (.pwrConfigGo via) s = .next t ∧
    t.power.cfgResult = s.configVerdict via ∧ t.flash = if s.configVerdict via = 1 then { s.flash with
      cfgMirror := cfgOf (memRead s.power.stage 0 1152), cfgPrimary := cfgOf (memRead s.power.stage 0 1152) } else s.flash := by
  have serves {a b c : State} : (if (!s.powered) = true then a else if (!s.roleServes 0) = true then b else c) = c := by
    rw [hp, hs]
    rfl
  by_cases h : s.configVerdict via = 1
  · have told (u : State) : ((u.flashEvent 1 2).flashEvent 0 2).unreported = u.unreported := by simp
    refine ⟨_, congrArg Host.Outcome.next (serves.trans (if_neg (not_not_intro h))), ?_, ?_⟩
    · exact congrArg Power.cfgResult (State.power_of_unreported (told _))
    · rw [if_pos h]
      exact State.flash_of_unreported (told _)
  · refine ⟨_, congrArg Host.Outcome.next (serves.trans (if_pos h)), rfl, ?_⟩
    rw [if_neg h]

omit hp in
theorem State.configVerdict_unauthorised (s : State) : s.configVerdict false = 3 := rfl

end

/-! ## Feeds, pacing and shutdown (R509, R512) -/

theorem feedGone_of {mV : Nat} (h : 60000 < mV ∨ mV < 44000) : feedGone mV = true := by
  simpa [feedGone] using h.symm

/-- A feed's voltage and its loss are recorded, and with both feeds lost the module rides through. -/
def State.feedNoted (s : State) (f : Port) (mV : Nat) : State :=
  let t := { s with power := s.power.setFeed f mV (feedGone mV || s.power.lost f) }
  { t with board := { t.board with rideThrough := t.powered && t.power.lostA && t.power.lostB } }

theorem State.feedFails_unreported (s : State) (f : Port) (mV : Nat) : (s.feedFails f mV).unreported = (s.feedNoted f mV).unreported := by
  unfold State.feedFails
  dsimp only
  split
  · rfl
  · split
    · exact State.powerEvent_unreported _ _ _ _
    · split
      · rfl
      · exact State.powerEvent_unreported _ _ _ _

section
variable {s : State} (hp : s.powered = true) {mV : Nat}
include hp

theorem State.feedNoted_gone (h : feedGone mV = true) :
    (s.feedNoted .a mV).power.lostA = true ∧ (s.feedNoted .a mV).board.rideThrough = s.power.lostB := by
  have ride : (s.feedNoted .a mV).board.rideThrough = (s.powered && (feedGone mV || s.power.lostA) && s.power.lostB) := rfl
  rw [ride, hp, h]
  exact ⟨congrArg (· || s.power.lostA) h, rfl⟩

/-- A feed that is gone is lost; the module rides through where the other is lost too. -/
theorem exec_feedLost_a (h : 60000 < mV ∨ mV < 44000) : ∃ t, exec (.feedLost .a mV) s = .next t ∧ t.power.feedA = mV ∧
    t.power.lostA = true ∧ t.board.rideThrough = s.power.lostB := by
  obtain ⟨lost, ride⟩ := State.feedNoted_gone hp (feedGone_of h)
  have power := State.power_of_unreported (s.feedFails_unreported .a mV)
  have board := State.board_of_unreported (s.feedFails_unreported .a mV)
  exact ⟨_, rfl, (congrArg Power.feedA power :), (congrArg Power.lostA power).trans lost, (congrArg Board.rideThrough board).trans ride⟩

theorem exec_feedReturned_b (h : 48000 ≤ mV ∧ mV ≤ 58000) : ∃ t, exec (.feedReturned .b mV) s = .next t ∧ t.power.feedB = mV ∧
    t.power.lostB = false ∧ t.board.rideThrough = false := by
  have told := State.powerEvent_unreported { s with power := s.power.setFeed .b mV false, board := { s.board with rideThrough := false } }
    (portNum .b) 2 mV
  refine ⟨_, congrArg Host.Outcome.next ((if_neg (by simp [feedOk_of h])).trans (if_pos hp)), ?_⟩
  exact ⟨(congrArg (·.power.feedB) told :), (congrArg (·.power.lostB) told :), (congrArg (·.board.rideThrough) told :)⟩

/-- A thermal shutdown records its cause and removes the rails. -/
theorem exec_thermalShutdown : ∃ t, exec .thermalShutdown s = .next t ∧ t.board.phase = .off ∧ t.flash.cause ≠ 0 ∧
    ∀ r ∈ t.power.rails, r.v = 0 := by
  refine ⟨_, congrArg Host.Outcome.next (if_neg (by simp [hp])), rfl, ?_, fun r hr => ?_⟩
  · change (if s.power.rails.any (fun r => decide (460 ≤ r.tj)) = true then 1 else 2) ≠ 0
    split <;> decide
  · exact congrArg Rail.v (List.eq_of_mem_replicate hr)

theorem exec_throttleNAssert : ∃ t, exec .throttleNAssert s = .next t ∧ t.power.throttlePin = true ∧ ∀ r ∈ t.power.rails, r.v = 650 := by
  have floors : exec .throttleNAssert s = .next { s with power := ({ s.power with throttlePin := true } : Power).floor } :=
    congrArg (fun p => Host.Outcome.next ({ s with power := p } : State)) (if_pos hp)
  refine ⟨_, floors, rfl, fun r hr => ?_⟩
  obtain ⟨old, _, rfl⟩ := List.mem_map.mp hr
  rfl

theorem exec_hbmThermalPace {k : Nat} (hk : k < 48) (q : Nat) : exec (.hbmThermalPace k q) s = .next (s.pace k q) :=
  (checked_of s _ _ (decide_eq_true hk)).trans (congrArg _ (if_pos hp))

end

/-- A stack is paced above 95 °C, no longer below 92 °C, and in between as it was (R509). -/
theorem State.pace_paced (s : State) (k q : Nat) : (380 < q → k ∈ (s.pace k q).power.paced) ∧ (q < 368 → k ∉ (s.pace k q).power.paced) ∧
    (368 ≤ q → q ≤ 380 → (s.pace k q).power.paced = s.power.paced) := by
  have paced : (s.pace k q).power.paced = if 380 < q then s.power.paced.filter (· != k) ++ [k]
    else if q < 368 then s.power.paced.filter (· != k) else s.power.paced := rfl
  refine ⟨fun h => ?_, fun h => ?_, fun h h' => ?_⟩
  · rw [paced, if_pos h]
    simp
  · rw [paced, if_neg (by omega), if_pos h]
    simp
  · rw [paced, if_neg (by omega), if_neg (by omega)]

/-- Settles O58: the governor's conditions leave one branch of a rail's period, and every other event is one branch of its meaning. -/
theorem powerControl : Obligations.PowerControl := by
  unfold Obligations.PowerControl
  intro s hp
  refine ⟨fun i c hc hin => ?_, congrArg _ (if_pos hp), exec_throttleNAssert hp, rfl, fun hb => ?_, fun via hs => exec_pwrConfigGo_waits hp via hs,
    fun via hs => ?_, fun mV h => exec_feedLost_a hp h, fun mV hlo hhi => exec_feedReturned_b hp ⟨hlo, hhi⟩,
    fun hr => ⟨_, congrArg Host.Outcome.next (if_pos hr), rfl, rfl, rfl, rfl⟩, exec_thermalShutdown hp, fun k q hk => ?_⟩
  · obtain ⟨t, runs, rails, samples⟩ := exec_governorTick hp i
    exact ⟨t, _, runs, rails ▸ State.governed_rail hc hin, Rail.govern_floor, Rail.govern_falls, Rail.govern_capped, Rail.govern_rises,
      Rail.govern_stays, samples⟩
  · refine ⟨_, congrArg Host.Outcome.next (if_pos (by simp [hp, hb])), ?_⟩
    rw [State.throttleEvent, State.healthEvent_device_health, State.logEvent_logCount]
  · obtain ⟨t, runs, result, flash⟩ := exec_pwrConfigGo_serves hp via hs
    refine ⟨t, runs, result, ?_, flash⟩
    rintro rfl
    exact result.trans s.configVerdict_unauthorised
  · exact ⟨_, exec_hbmThermalPace hp hk q, s.pace_paced k q⟩

end Sys2Proof.Machine
end

section
/-! O55: the fused minimums of security versions (R438, R444, R451, R459): what raises them, and that nothing else of the P6 does. -/

namespace Sys2Proof.Machine

/-! ## Raising a minimum (R459) -/

theorem raiseMin_of_le {old svn : Nat} (h : svn ≤ old) : raiseMin old svn = old := by
  rw [raiseMin]
  omega

section
variable {s : State} (hp : s.powered = true) (hs : s.roleServes 0 = true)
include hp hs

theorem State.commitSvn_heart (v : Nat) :
    s.commitSvn true v = { s with fuses := { s.fuses with svnHeart := raiseMin s.fuses.svnHeart v } } := by
  simp [State.commitSvn, hp, hs]

theorem State.commitSvn_sap (v : Nat) :
    s.commitSvn false v = { s with fuses := { s.fuses with svnSap := raiseMin s.fuses.svnSap v } } := by
  simp [State.commitSvn, hp, hs]

theorem exec_svnHeart : exec .secSvnCommitHeartwood s =
    .next { s with fuses := { s.fuses with svnHeart := raiseMin s.fuses.svnHeart s.fw.heartwood.svn } } :=
  congrArg Host.Outcome.next (State.commitSvn_heart hp hs _)

omit hp hs in
/-- SEC_SVN_COMMIT.SAPWOOD takes the version of the sapwood that runs. -/
theorem exec_svnSap_runs {i : FwImage} (hi : s.fw.sapwood = some i) : exec .secSvnCommitSapwood s = .next (s.commitSvn false i.svn) := by
  change execSecSvnCommitSapwood s = _
  rw [execSecSvnCommitSapwood, hi]

theorem exec_svnSap {i : FwImage} (hi : s.fw.sapwood = some i) : exec .secSvnCommitSapwood s =
    .next { s with fuses := { s.fuses with svnSap := raiseMin s.fuses.svnSap i.svn } } :=
  (exec_svnSap_runs hi).trans (congrArg Host.Outcome.next (State.commitSvn_sap hp hs _))

end

/-! ## SEC_SVN_COMMIT in a register write (R477) -/

theorem bit_ofBytes (v n : Nat) (hn : n < 8) :
    bit ((BitVec.ofNat 64 (leNat ((leBytes 4 v).take 8))).setWidth 32 : W32) n = v.testBit n := by
  rw [List.take_of_length_le (by simp), Laws.leNat_leBytes, bit, BitVec.getLsbD_setWidth, BitVec.getLsbD_ofNat]
  rw [show (256 : Nat) ^ 4 = 2 ^ 32 by norm_num, Nat.testBit_mod_two_pow]
  simp only [show n < 32 by omega, show n < 64 by omega, decide_true, Bool.true_and]

/-- The write raises heartwood's minimum by its bit 0, and then sapwood's by its bit 1. -/
def State.svnWritten (s : State) (v : Nat) : State :=
  let s := if v.testBit 0 then s.commitSvn true s.fw.heartwood.svn else s
  if v.testBit 1 then ranTo s (execSecSvnCommitSapwood s) else s

theorem exec_svnWrite {s : State} (hp : s.powered = true) (p : Port) (v : Nat) :
    exec (.registerWrite p 0x2D000C 4 v) s = .next (s.svnWritten v) := by
  have acts := State.writeReg_ownWidth (viaMgmt := false) hp (p := p) (off := 0x2D000C) (by decide) (n := 4) (v := 0) rfl
    (Laws.length_leBytes 4 v)
  rw [exec_registerWrite s p _ _ v (by decide), acts, State.svnWritten, ← bit_ofBytes v 0 (by decide), ← bit_ofBytes v 1 (by decide)]
  rfl

theorem State.commitSapwood_heart (s : State) : (ranTo s (execSecSvnCommitSapwood s)).fuses.svnHeart = s.fuses.svnHeart := by
  have kept (v : Nat) : (s.commitSvn false v).fuses.svnHeart = s.fuses.svnHeart := by
    unfold State.commitSvn
    rw [if_neg Bool.false_ne_true]
    split_ifs <;> rfl
  unfold execSecSvnCommitSapwood ranTo
  dsimp only
  split
  · exact kept _
  · rfl

section
variable {s : State} (hp : s.powered = true) (hs : s.roleServes 0 = true)
include hp hs

theorem State.svnWritten_heart (v : Nat) : (s.svnWritten v).fuses.svnHeart =
    if v.testBit 0 then raiseMin s.fuses.svnHeart s.fw.heartwood.svn else s.fuses.svnHeart := by
  have still (t : State) (b : Bool) : (if b = true then ranTo t (execSecSvnCommitSapwood t) else t).fuses.svnHeart = t.fuses.svnHeart := by
    cases b
    · rfl
    · exact t.commitSapwood_heart
  rw [State.svnWritten, still, State.commitSvn_heart hp hs]
  split <;> rfl

theorem State.svnWritten_sap {i : FwImage} (hi : s.fw.sapwood = some i) (v : Nat) : (s.svnWritten v).fuses.svnSap =
    if v.testBit 1 then raiseMin s.fuses.svnSap i.svn else s.fuses.svnSap := by
  have raised (t : State) (hp : t.powered = true) (hs : t.roleServes 0 = true) (hi : t.fw.sapwood = some i) :
      (if v.testBit 1 = true then ranTo t (execSecSvnCommitSapwood t) else t).fuses.svnSap =
        if v.testBit 1 then raiseMin t.fuses.svnSap i.svn else t.fuses.svnSap := by
    split
    · exact congrArg (fun o => (ranTo t o).fuses.svnSap) (exec_svnSap hp hs hi)
    · rfl
  rw [State.svnWritten, State.commitSvn_heart hp hs]
  generalize v.testBit 0 = heart
  cases heart
  · exact raised s hp hs hi
  · exact raised _ hp hs hi

end

/-! ## What leaves the minimums (R459) -/

/-- The fused minimums. -/
def State.minimums (s : State) : Nat × Nat := (s.fuses.svnHeart, s.fuses.svnSap)

theorem State.minimums_of_shape {s t : State} (h : t.shape = s.shape) : t.minimums = s.minimums :=
  (congrArg (fun x : Shape => (x.fuses.svnHeart, x.fuses.svnSap)) h :)

/-- Wherever an outcome ends in a state, that state has the minimums of `s`. -/
def State.SameMinimums (s : State) (o : Host.Outcome State Fault Refusal) : Prop := ∀ t, o = .next t → t.minimums = s.minimums

theorem same_next {s t : State} (h : t.minimums = s.minimums) : s.SameMinimums (.next t) := by
  rintro u ⟨⟩
  exact h

theorem same_shape {s t : State} (h : t.shape = s.shape) : s.SameMinimums (.next t) := same_next (State.minimums_of_shape h)

theorem minimums_ite {s t u : State} {c : Prop} [Decidable c] (ht : t.minimums = s.minimums) (hu : u.minimums = s.minimums) :
    (if c then t else u).minimums = s.minimums := by
  split
  · exact ht
  · exact hu

/-! Start-up and the life-cycle. -/

theorem State.finish_minimums (s : State) (i : StartIn) : (s.finish i).minimums = s.minimums :=
  (congrArg (fun x : CfgRec × Power × Fuses × List Job => (x.2.2.1.svnHeart, x.2.2.1.svnSap)) (s.finish_inForce i) :)

theorem State.boot_minimums (s : State) (i : StartIn) : (s.boot i).minimums = s.minimums :=
  State.boot_cases (P := fun t => t.minimums = s.minimums) rfl (fun _ => rfl) (fun _ => rfl) (fun _ => State.finish_minimums _ i)

theorem State.startUp_minimums (s : State) (i : StartIn) : (s.startUp i).minimums = s.minimums :=
  State.startUp_cases (P := fun t => t.minimums = s.minimums) rfl rfl (State.boot_minimums _ i)

theorem State.transition_minimums (s : State) : s.transition.minimums = s.minimums := by
  unfold State.transition
  exact minimums_ite rfl (minimums_ite rfl (minimums_ite rfl (minimums_ite rfl rfl)))

theorem State.lifeCycle_minimums (s : State) (viaMgmt : Bool) : (s.lifeCycle viaMgmt).minimums = s.minimums := by
  unfold State.lifeCycle
  exact minimums_ite rfl (minimums_ite rfl (minimums_ite (State.transition_minimums _) rfl))

theorem execRecover_same (image : List Byte) (i : StartIn) (s : State) : s.SameMinimums (execRecover image i s) := by
  have told (u : State) : ((u.flashEvent 1 2).flashEvent 0 2).minimums = u.minimums := State.minimums_of_shape (by simp)
  unfold execRecover
  refine same_next (minimums_ite rfl (minimums_ite rfl (minimums_ite ?_ ?_)))
  · rw [told]
    exact State.boot_minimums _ _
  · exact State.boot_minimums _ _

/-! Packets. -/

theorem State.receipt_shape {s0 s refuse take : State} {p : Packet} (h : s.shape = s0.shape) (hr : refuse.shape = s0.shape)
    (ht : take.shape = s0.shape) : (s.receipt p refuse take).shape = s0.shape := by
  unfold State.receipt
  split_ifs
  · exact ht
  · exact (State.ackFlows_shape _ _).trans h
  · exact hr

/-- A packet is taken, acknowledged, refused, or acts by `take`, whose effect keeps the shape (R382 to R384). -/
theorem State.receive_shape (s : State) (p : Packet) (ok : Job → Bool) (take : State → State → Nat → State)
    (h : ∀ t k, t.shape = s.shape → (take s t k).shape = s.shape) : (s.receive p ok take).shape = s.shape := by
  have taken := s.takePacket_shape p
  have refused (reason : Nat) : ((s.takePacket p).refusePacket p reason).shape = s.shape :=
    (State.refusePacket_shape _ p reason).trans taken
  unfold State.receive
  dsimp only
  split
  · exact refused 1
  · refine State.receipt_shape taken (refused 1) ?_
    split_ifs
    · exact refused 2
    · rfl
    · exact h _ _ taken

theorem execPacketReadData_same (p : Packet) (s : State) : s.SameMinimums (execPacketReadData p s) := by
  have taken := s.takePacket_shape p
  refine same_shape ((State.shape_ite _ _ _).trans ?_)
  split
  · refine State.receipt_shape taken taken ?_
    split
    · rfl
    · simp
  · rfl

theorem execPacketMirror_same (p : Packet) (s : State) : s.SameMinimums (execPacketMirror p s) := by
  have taken := s.takePacket_shape p
  have refused : ((s.takePacket p).refusePacket p 1).shape = s.shape := (State.refusePacket_shape _ p 1).trans taken
  unfold execPacketMirror
  refine same_shape ((State.shape_ite _ _ _).trans ?_)
  split
  · dsimp only
    split
    · exact refused
    · split
      · simp
      · refine State.receipt_shape taken refused ?_
        split
        · rfl
        · simp
  · rfl

/-! Events of health. -/

theorem execEccError_same (place : EccPlace) (corrected : Bool) (s : State) : s.SameMinimums (execEccError place corrected s) := by
  unfold execEccError
  split
  · exact same_next rfl
  · cases corrected with
    | true =>
      cases place with
      | bank p i b => exact same_shape (by simp)
      | _ => exact same_shape (s.healthCount_shape 0x38 1)
    | false =>
      cases place with
      | scratchpad p i => exact same_shape (s.loseCore_shape p i false)
      | bank p i b => exact same_shape (s.loseBank_shape p i b)
      | clusterSram p => exact same_shape (s.loseCluster_shape p)
      | hubBuffer h => rintro t ⟨⟩
      | firmware n => exact same_shape (s.fwCrash_shape n)

theorem execPhaseFail_same (rail phase : Nat) (s : State) : s.SameMinimums (execPhaseFail rail phase s) := by
  unfold execPhaseFail
  dsimp only
  split_ifs
  · exact same_shape (by simp)
  · exact same_next rfl
  · exact same_next rfl
  · rintro t ⟨⟩
  · exact same_shape (by simp)

theorem execCommitPointReached_same (s : State) : s.SameMinimums (execCommitPointReached s) := by
  unfold execCommitPointReached
  refine same_shape ?_
  split
  · extract_lets j s1 _ s2 _ s3
    have h1 : s1.shape = s.shape := by simp [s1]
    have h2 : s2.shape = s.shape := by simp [s2, h1]
    have h3 : s3.shape = s.shape := h2
    simp [h3]
  · rfl

/-! Requests on the management network that read (R429). -/

theorem State.serve_read_shape (s : State) (p : Port) (off len limit : Nat) (data : List Byte) (viaMgmt : Bool) :
    (s.serve 1 p off len limit data viaMgmt).2.2.shape = s.shape := by
  unfold State.serve
  rw [if_pos rfl]
  split
  · rfl
  · split
    · rfl
    · exact s.afterRead_shape p

theorem State.serveOnce_read_shape (s : State) (src seq : Nat) (p : Port) (off len limit : Nat) (data : List Byte) (viaMgmt : Bool) :
    (s.serveOnce src seq 1 p off len limit data viaMgmt).2.shape = s.shape := by
  unfold State.serveOnce
  split
  · rfl
  · exact (State.remember_shape _ _ _ _).trans (s.serve_read_shape p off len limit data viaMgmt)

theorem State.wemu_read_shape (s : State) (p : Port) (m : WemuMsg) : (s.wemu p 1 m).shape = s.shape := by
  unfold State.wemu
  dsimp only
  split
  · rfl
  · split
    · rfl
    · split
      · exact s.hold_shape _
      · split
        · exact s.askAperture_shape _
        · exact s.serveOnce_read_shape _ _ _ _ _ _ _ _

/-! ## Every other command -/

/-- Only the register's own commands, a register write from whatever side, and what ends the wait of one can change a minimum. -/
theorem exec_minimums {i : Instr} (heart : i ≠ .secSvnCommitHeartwood) (sap : i ≠ .secSvnCommitSapwood)
    (register : ∀ p o w v, i ≠ .registerWrite p o w v) (wemu : ∀ p m, i ≠ .wemuWrite p m) (firmware : ∀ q, i ≠ .packetFirmware q)
    (recovered : ∀ n ok, i ≠ .fwRecoveryDone n ok) (block : ∀ n d, i ≠ .tftpBlockReceive n d)
    (timeout : ∀ a b, i ≠ .sapwoodFetchTimeout a b) (s : State) : s.SameMinimums (exec i s) := by
  cases i with
  | secSvnCommitHeartwood => exact absurd rfl heart
  | secSvnCommitSapwood => exact absurd rfl sap
  | registerWrite p o w v => exact absurd rfl (register p o w v)
  | wemuWrite p m => exact absurd rfl (wemu p m)
  | packetFirmware q => exact absurd rfl (firmware q)
  | fwRecoveryDone n ok => exact absurd rfl (recovered n ok)
  | tftpBlockReceive n d => exact absurd rfl (block n d)
  | sapwoodFetchTimeout a b => exact absurd rfl (timeout a b)
  | jobAdopt | batchCommit | nextBatchDelivered | waitSatisfied | packetRefuse | transitCreditTimeout | emuReadTimeout =>
    refine same_shape ?_
    dsimp only
    (repeat' split) <;> simp
  | bgather | bscatter | bscatadd | power | coolant => exact same_shape (by simp)
  | commitPointReached => exact execCommitPointReached_same s
  | packetWrite p => exact same_shape ((State.shape_ite _ _ _).trans (by rw [s.receive_shape _ _ _ fun t k h => by simp [h], ite_self]))
  | packetSignal p => exact same_shape ((State.shape_ite _ _ _).trans (by rw [s.receive_shape _ _ _ fun t k h => by simp [h], ite_self]))
  | packetReadReq p => exact same_shape ((State.shape_ite _ _ _).trans (by rw [s.receive_shape _ _ _ fun t k h => by simp [h], ite_self]))
  | packetReadData p => exact execPacketReadData_same p s
  | packetMirror p => exact execPacketMirror_same p s
  | wemuRead p m => exact same_shape (s.wemu_read_shape p m)
  | lcRequestNonce => exact same_shape s.drawNonce_shape
  | lcRequestGo viaMgmt => exact same_next (s.lifeCycle_minimums viaMgmt)
  | eccError place corrected => exact execEccError_same place corrected s
  | phaseFail rail phase => exact execPhaseFail_same rail phase s
  | startUp x => exact same_next (minimums_ite (s.startUp_minimums x) rfl)
  | bootRetryTimer x => exact same_next (minimums_ite (s.boot_minimums x) rfl)
  | resetNAssert => exact same_next rfl
  | resetNRelease x => exact same_next (minimums_ite (s.startUp_minimums x) rfl)
  | thermalShutdown => exact same_next (minimums_ite rfl rfl)
  | recover image x => exact execRecover_same image x s
  | rideThroughExpired => exact same_next (minimums_ite rfl rfl)
  | _ =>
    refine same_shape ?_
    (repeat' split) <;> simp

/-- Settles O55: the commands and the register write raise by `raiseMin`, no command lowers a minimum, and none but those named reaches one. -/
theorem svnCommitRaisesMinimum : Obligations.SvnCommitRaisesMinimum := by
  refine ⟨fun s hp hs => ⟨exec_svnHeart hp hs, fun h => ?_, fun i hi => ⟨exec_svnSap hp hs hi, fun h => ?_⟩⟩, fun s p v t hp hs h => ?_,
    fun i s t h => ?_⟩
  · rw [exec_svnHeart hp hs, raiseMin_of_le h]
  · rw [exec_svnSap hp hs hi, raiseMin_of_le h]
  · rw [exec_svnWrite hp p v] at h
    cases h
    exact ⟨State.svnWritten_heart hp hs v, fun i hi => State.svnWritten_sap hp hs hi v⟩
  · obtain ⟨heart, sap, _⟩ := (exec_kept i s t h).fuses
    refine ⟨heart, sap, fun h1 h2 h3 h4 h5 h6 h7 h8 => ?_⟩
    exact Prod.mk.inj (exec_minimums h1 h2 h3 h4 h5 h6 h7 h8 s t h)

end Sys2Proof.Machine
end

section
/-! O54: certificates, reports and sessions (R427, R444, R460 to R465), and requests of the life-cycle (R451, R459, R474, R475). -/

namespace Sys2Proof.Machine

/-! ## Requests (R444, R462) -/

section
variable {s : State} (hp : s.powered = true) {src : SessSrc} {h : Held} {f : State → State}
include hp

theorem State.onRequest_waits (hm : mgmtSrc src = true) (h2 : s.roleServes 2 = false) : s.onRequest src h f = s.hold h := by
  simp [State.onRequest, hp, hm, h2]

section
variable (hm : mgmtSrc src = false)
include hm

theorem State.onRequest_busy (h0 : s.roleServes 0 = false) : s.onRequest src h f = s.refuseMsg src 3 := by
  simp [State.onRequest, State.secServes, hp, hm, h0]

variable (h0 : s.roleServes 0 = true)
include h0

theorem State.onRequest_retired (hl : 3 ≤ s.fuses.state) : s.onRequest src h f = s.refuseMsg src 4 := by
  simp [State.onRequest, State.secServes, hp, hm, h0, hl]

theorem State.onRequest_serves (hl : s.fuses.state < 3) : s.onRequest src h f = f s := by
  simp [State.onRequest, State.secServes, hp, hm, h0, Nat.not_le.mpr hl]

end

end

/-- Each of the five commands of a session is a request. -/
theorem exec_request {src : SessSrc} {nonce : BitVec 256} {ek key sig : List Byte} {confirm : BitVec 384} {job : Nat} {c : Instr} {h : Held}
    (hc : (c, h) ∈ [(Instr.getCert src, Held.cert src), (.getReport src nonce job, .report src nonce job),
      (.sessionInit src ek nonce job, .sessInit src ek nonce job), (.sessionFinish src confirm key sig, .sessFinish src confirm key sig),
      (.sessionEnd src, .sessEnd src)]) (s : State) : ∃ f, exec c s = .next (s.onRequest src h f) := by
  simp only [List.mem_cons, List.not_mem_nil, or_false, Prod.mk.injEq] at hc
  rcases hc with ⟨rfl, rfl⟩ | ⟨rfl, rfl⟩ | ⟨rfl, rfl⟩ | ⟨rfl, rfl⟩ | ⟨rfl, rfl⟩ <;> exact ⟨_, rfl⟩

/-! ## Answers over a DOE mailbox (R462) -/

/-- A message of one code and its body. -/
def doeReply (code : Nat) (body : List Byte) : List Byte := doeObject (BitVec.ofNat 8 code :: ([0, 0, 0] ++ body))

@[simp] theorem State.answer_port (s : State) (p : Port) (code : Nat) (body : List Byte) :
    (s.answer (.doe p) code body).port p = { s.port p with doe := doeReply code body } := s.setPort_port p _

@[simp] theorem State.answer_sec (s : State) (p : Port) (code : Nat) (body : List Byte) : (s.answer (.doe p) code body).sec = s.sec :=
  s.setPort_sec p _

theorem State.refuseMsg_port (s : State) (p : Port) (reason : Nat) :
    (s.refuseMsg (.doe p) reason).port p = { s.port p with doe := doeReply 0xFF (leBytes 4 reason) } := s.answer_port p _ _

/-! ## Certificate and report (R460, R461) -/

theorem length_certificate : certificate.length = 5376 := by
  have magic : (ascii "WHID").length = 4 := rfl
  simp [certificate, certHead, magic]

/-- The certificate begins with its magic, its version and the module's identity. -/
theorem certificate_head : ∃ rest, certificate = ascii "WHID" ++ (leBytes 2 1 ++ (leBytes 8 Config.identity.toNat ++ rest)) := by
  simp only [certificate, certHead, List.append_assoc]
  exact ⟨_, rfl⟩

theorem certificate_fields : certificate.take 4 = ascii "WHID" ∧ (certificate.drop 6).take 8 = leBytes 8 Config.identity.toNat := by
  obtain ⟨rest, h⟩ := certificate_head
  have magic : (ascii "WHID").length = 4 := rfl
  have version : (leBytes 2 1).length = 2 := rfl
  rw [h]
  refine ⟨List.take_left' magic, ?_⟩
  rw [show 6 = 4 + 2 from rfl, ← List.drop_drop, List.drop_left' magic, List.drop_left' version, List.take_left' (Laws.length_leBytes 8 _)]

theorem State.length_reportHead (s : State) (nonce : BitVec 256) (job : Nat) (t : BitVec 384) : (s.reportHead nonce job t).length = 384 := by
  unfold State.reportHead
  extract_lets k i sap flags image
  clear_value flags image
  simp only [List.length_append, Laws.length_leBytes, List.length_cons, List.length_nil]

theorem State.length_reportBytes (s : State) (nonce : BitVec 256) (job : Nat) (t : BitVec 384) :
    (s.reportBytes nonce job t).length = 5648 := by
  simp [State.reportBytes, State.length_reportHead]

/-! ## Sessions (R463, R465) -/

theorem State.endSession_session (s : State) (p : Port) :
    ((s.endSession p).port p).session = { epoch := (s.port p).session.epoch } ∧ (s.endSession p).sec.reports = s.sec.reports := by
  cases p <;> exact ⟨rfl, rfl⟩

/-- The answer to a SESSION_INIT is the ciphertext and a report, and the session that was is an attempt (R463). -/
theorem State.initSession_begins (s : State) (p : Port) {ek : List Byte} (h : ek.length = 1184) (nonce : BitVec 256) (job : Nat) :
    ∃ body, ((s.initSession (.doe p) ek nonce job).port p).doe = doeReply 0x83 body ∧ body.length = 6736 ∧
      (∃ x, ((s.initSession (.doe p) ek nonce job).port p).session = { epoch := (s.port p).session.epoch, attempt := some x }) ∧
      (s.initSession (.doe p) ek nonce job).sec.reports = s.sec.reports + 1 := by
  obtain ⟨ended, reports⟩ := s.endSession_session p
  unfold State.initSession
  rw [if_neg (not_not_intro h)]
  extract_lets s1 draw s2 ct t k _ s3
  refine ⟨ct ++ s3.reportBytes nonce (job % 2 ^ 16) t, congrArg HostPort.doe (s3.answer_port p _ _), ?_, ⟨(k, t), ?_⟩, ?_⟩
  · rw [List.length_append, State.length_reportBytes, Laws.length_padTo]
  · rw [State.answer_port]
    have set : (s3.port p).session = { (s2.port p).session with attempt := some (k, t) } := congrArg HostPort.session (s2.setPort_port p _)
    have kept : (s2.port p).session = ((s.endSession p).port p).session := by cases p <;> rfl
    rw [set, kept, ended]
  · have set : s3.sec = s2.sec := s2.setPort_sec p _
    rw [State.answer_sec, set]
    exact congrArg (· + 1) reports

/-- The state with a confirmed session, under whose keys records are numbered afresh (R427, R463). -/
def State.established (s : State) (p : Port) (k : Nat) (tr : BitVec 384) : State :=
  let x := (s.port p).session
  let s := ((s.setSession (.doe p) { x with attempt := none }).setSession (.doe p) (x.establish k tr)).newNumbers (.doe p)
  { s with sec := { s.sec with sessions := s.sec.sessions + 1 } }

theorem State.established_port (s : State) (p : Port) (k : Nat) (tr : BitVec 384) : (s.established p k tr).port p =
    { s.port p with session := (s.port p).session.establish k tr, txNo := 0,
                    sets := (s.port p).sets.map (fun e => (e.1, { e.2 with rxNo := 0 })) } := by
  cases p <;> rfl

theorem State.established_sessions (s : State) (p : Port) (k : Nat) (tr : BitVec 384) :
    (s.established p k tr).sec.sessions = s.sec.sessions + 1 := by
  cases p <;> rfl

section
variable {s : State} {p : Port} {k : Nat} {tr : BitVec 384} (h : (s.port p).session.attempt = some (k, tr)) {confirm : BitVec 384}
  (key sig : List Byte)
include h

/-- The confirmation that an attempt asks for (R463). -/
def confirmation (k : Nat) (tr : BitVec 384) : Nat :=
  Config.kmac (leBytes 32 (keyBits k 576 256)) (leBytes 48 tr.toNat) 384 (ascii "FINISH") % 2 ^ 384

theorem State.finishSession_fails (hc : confirm.toNat ≠ confirmation k tr) : s.finishSession (.doe p) confirm key sig =
    (s.setSession (.doe p) { (s.port p).session with attempt := none }).refuseMsg (.doe p) 1 := by
  unfold State.finishSession
  dsimp only [State.session]
  rw [h]
  exact if_pos hc

theorem State.finishSession_confirms (hc : confirm.toNat = confirmation k tr) : s.finishSession (.doe p) confirm key sig =
    (s.established p k tr).answer (.doe p) 0x84 [] := by
  unfold State.finishSession
  dsimp only [State.session]
  rw [h]
  exact (if_neg (not_not_intro hc)).trans (if_neg Bool.false_ne_true)

end

/-- An attempt that fails is discarded. -/
theorem State.attemptFailed_port (s : State) (p : Port) :
    ((s.setSession (.doe p) { (s.port p).session with attempt := none }).refuseMsg (.doe p) 1).port p =
      { s.port p with session := { (s.port p).session with attempt := none }, doe := doeReply 0xFF [1, 0, 0, 0] } := by
  cases p <;> rfl

/-! ## The commands where heartwood serves (R460 to R463) -/

section
variable {s : State} (hp : s.powered = true) (h0 : s.roleServes 0 = true) (hl : s.fuses.state < 3) (p : Port)
include hp h0 hl

theorem exec_getCert : exec (.getCert (.doe p)) s = .next (s.answer (.doe p) 0x81 certificate) :=
  congrArg Host.Outcome.next (State.onRequest_serves hp rfl h0 hl)

theorem exec_getReport (nonce : BitVec 256) (job : Nat) : exec (.getReport (.doe p) nonce job) s =
    .next (s.countReport.answer (.doe p) 0x82 (s.countReport.reportBytes nonce (job % 2 ^ 16) 0)) :=
  congrArg Host.Outcome.next (State.onRequest_serves hp rfl h0 hl)

theorem exec_sessionInit (ek : List Byte) (nonce : BitVec 256) (job : Nat) :
    exec (.sessionInit (.doe p) ek nonce job) s = .next (s.initSession (.doe p) ek nonce job) :=
  congrArg Host.Outcome.next (State.onRequest_serves hp rfl h0 hl)

theorem exec_sessionFinish (confirm : BitVec 384) (key sig : List Byte) :
    exec (.sessionFinish (.doe p) confirm key sig) s = .next (s.finishSession (.doe p) confirm key sig) :=
  congrArg Host.Outcome.next (State.onRequest_serves hp rfl h0 hl)

theorem exec_sessionEnd (hup : (s.port p).session.up = true) :
    exec (.sessionEnd (.doe p)) s = .next ((s.endSession p).answer (.doe p) 0x85 []) :=
  congrArg Host.Outcome.next ((State.onRequest_serves hp rfl h0 hl).trans (if_neg (by simp [State.session, hup])))

end

/-! ## The life-cycle (R444, R451, R474, R475) -/

/-- The outcome of a GO is shown. -/
def State.verdictNoted (s : State) (via : Bool) : State := { s with sec := { s.sec with lcResult := s.lcVerdict via } }

theorem State.lcVerdict_noTransition {s : State} (h : lcNeeds s.fuses.state s.sec.target = none) (via : Bool) : s.lcVerdict via = 4 := by
  rw [State.lcVerdict, h]

theorem State.lcVerdict_loaded {s : State} (h : (lcNeeds s.fuses.state s.sec.target).isSome = true)
    (hj : ∃ j ∈ s.jobs, j.info.state.loaded = true) (via : Bool) : s.lcVerdict via = 5 := by
  obtain ⟨x, hx⟩ := Option.isSome_iff_exists.mp h
  rw [State.lcVerdict, hx]
  exact if_pos (List.any_eq_true.mpr hj)

section
variable {s : State} (hp : s.powered = true)
include hp

theorem State.commitSvn_waits (h0 : s.roleServes 0 = false) (heart : Bool) (v : Nat) : s.commitSvn heart v = s.hold (.svn heart v) := by
  simp [State.commitSvn, hp, h0]

theorem exec_lcRequestNonce_waits (h0 : s.roleServes 0 = false) : exec .lcRequestNonce s = .next (s.hold .nonce) := by
  change execLcRequestNonce s = _
  simp [execLcRequestNonce, State.drawNonce, hp, h0]

theorem exec_lcRequestGo_waits (h0 : s.roleServes 0 = false) (via : Bool) :
    exec (.lcRequestGo via) s = .next (s.hold (.lifeCycle via)) := by
  change execLcRequestGo via s = _
  simp [execLcRequestGo, State.lifeCycle, hp, h0]

section
variable (h0 : s.roleServes 0 = true)
include h0

theorem exec_lcRequestNonce_serves : exec .lcRequestNonce s =
    .next { s with sec := { s.sec with nonce := Config.random s.freeCtr }, freeCtr := s.freeCtr + 1 } := by
  change execLcRequestNonce s = _
  simp [execLcRequestNonce, State.drawNonce, hp, h0]

theorem exec_lcRequestGo_serves (via : Bool) : exec (.lcRequestGo via) s =
    .next (if s.lcVerdict via = 1 then (s.verdictNoted via).transition else s.verdictNoted via) := by
  change execLcRequestGo via s = _
  simp [execLcRequestGo, State.lifeCycle, hp, h0, State.verdictNoted]

theorem exec_lcRequestGo_refused {via : Bool} (h : s.lcVerdict via ≠ 1) : exec (.lcRequestGo via) s = .next (s.verdictNoted via) := by
  rw [exec_lcRequestGo_serves hp h0, if_neg h]

/-- A GO that enters MAKER fuses the seeds (R451). -/
theorem exec_lcRequestGo_maker (ht : s.sec.target = 1) (via : Bool) : exec (.lcRequestGo via) s = .next { s with
    sec := { s.sec with lcResult := s.lcVerdict via }
    fuses := if s.lcVerdict via = 1 then { s.fuses with lc := s.fuses.lc ||| 1, uds := some (Config.udsId, Config.udsData) } else s.fuses } := by
  rw [exec_lcRequestGo_serves hp h0]
  split
  · exact congrArg Host.Outcome.next (if_pos ht)
  · rfl

/-- A GO that enters FIELD blows its bit (R473). -/
theorem exec_lcRequestGo_field (ht : s.sec.target = 2) (via : Bool) : exec (.lcRequestGo via) s = .next { s with
    sec := { s.sec with lcResult := s.lcVerdict via }
    fuses := if s.lcVerdict via = 1 then { s.fuses with lc := s.fuses.lc ||| 2 } else s.fuses } := by
  rw [exec_lcRequestGo_serves hp h0]
  split
  · exact congrArg Host.Outcome.next ((if_neg (fun h => absurd (ht.symm.trans h) (by decide))).trans (if_pos ht))
  · rfl

end

end

/-- Settles O54: who serves leaves one branch of each request, and each answer stands in the port's mailbox. -/
theorem securityServices : Obligations.SecurityServices := by
  unfold Obligations.SecurityServices
  intro s p nonce ek key sig confirm job hp
  refine ⟨fun c hc => ?_, fun req h2 c h hc => ?_, fun h0 hl => ⟨?_, ?_, fun hek => ?_, fun k tr hat => ⟨fun hc => ?_, fun hc => ?_⟩,
    fun hup => ?_⟩, fun h0 => ⟨exec_lcRequestNonce_waits hp h0, exec_lcRequestGo_waits hp h0, ?_, fun i hi => ?_⟩,
    fun h0 => ⟨exec_lcRequestNonce_serves hp h0, fun via ht => exec_lcRequestGo_maker hp h0 ht via,
      fun via ht => exec_lcRequestGo_field hp h0 ht via, fun via h => exec_lcRequestGo_refused hp h0 h,
      fun via h => State.lcVerdict_noTransition h via, fun via h hj => State.lcVerdict_loaded h hj via⟩⟩
  · have request : ∃ h f, exec c s = .next (s.onRequest (.doe p) h f) := by
      simp only [List.mem_cons, List.not_mem_nil, or_false] at hc
      rcases hc with rfl | rfl | rfl | rfl | rfl <;> exact ⟨_, _, rfl⟩
    obtain ⟨h, f, runs⟩ := request
    have refused (reason : Nat) : ((s.refuseMsg (.doe p) reason).port p).session = (s.port p).session :=
      (congrArg HostPort.session (s.refuseMsg_port p reason) :)
    refine ⟨fun h0 => ⟨_, runs.trans (congrArg _ (State.onRequest_busy hp rfl h0)), ?_, refused 3⟩,
      fun h0 hl => ⟨_, runs.trans (congrArg _ (State.onRequest_retired hp rfl h0 hl)), ?_, refused 4⟩⟩
    · exact congrArg HostPort.doe (s.refuseMsg_port p 3)
    · exact congrArg HostPort.doe (s.refuseMsg_port p 4)
  · obtain ⟨f, runs⟩ := exec_request hc s
    exact runs.trans (congrArg _ (State.onRequest_waits hp rfl h2))
  · obtain ⟨magic, identity⟩ := certificate_fields
    exact ⟨_, exec_getCert hp h0 hl p, congrArg HostPort.doe (s.answer_port p _ _), length_certificate, magic, identity⟩
  · exact ⟨_, _, exec_getReport hp h0 hl p nonce job, congrArg HostPort.doe (s.countReport.answer_port p _ _),
      s.countReport.length_reportBytes _ _ _, congrArg Sec.reports (s.countReport.answer_sec p _ _)⟩
  · obtain ⟨body, doe, length, ⟨x, session⟩, reports⟩ := s.initSession_begins p hek nonce job
    refine ⟨_, body, exec_sessionInit hp h0 hl p ek nonce job, doe, length, ?_, ?_, ?_, reports⟩ <;> rw [session]
    rfl
  · refine ⟨_, (exec_sessionFinish hp h0 hl p confirm key sig).trans (congrArg _ (State.finishSession_confirms hat key sig hc)), ?_⟩
    rw [State.answer_port, State.answer_sec, State.established_port, State.established_sessions]
    refine ⟨rfl, rfl, rfl, rfl, rfl, rfl, fun x hx => ?_⟩
    obtain ⟨e, _, rfl⟩ := List.mem_map.mp hx
    rfl
  · refine ⟨_, (exec_sessionFinish hp h0 hl p confirm key sig).trans (congrArg _ (State.finishSession_fails hat key sig hc)), ?_⟩
    rw [State.attemptFailed_port]
    exact ⟨rfl, rfl, rfl⟩
  · refine ⟨_, exec_sessionEnd hp h0 hl p hup, ?_⟩
    rw [State.answer_port]
    exact ⟨rfl, (s.endSession_session p).1⟩
  · exact congrArg Host.Outcome.next (State.commitSvn_waits hp h0 true _)
  · exact (exec_svnSap_runs hi).trans (congrArg Host.Outcome.next (State.commitSvn_waits hp h0 false _))

end Sys2Proof.Machine
end

section
/-! SUPPORT. The firmware cores (R434 to R446): what a crash, a takeover, a restart and a failure leave of them, and that reports, the
scheduler's GO and the census leave them alone. -/

namespace Sys2Proof.Machine

/-! ## What leaves the firmware -/

theorem State.takeGo_fw (s : State) : s.takeGo.fw = s.fw := by
  unfold State.takeGo
  split
  · rfl
  · dsimp only
    split
    · rfl
    · split <;> rfl

theorem State.newScheduler_fw (s : State) : s.newScheduler.fw = s.fw := by
  unfold State.newScheduler
  dsimp only
  split <;> rfl

theorem State.unitEvent_fw (s : State) (code kind action unit logical sub : Nat) :
    (s.unitEvent code kind action unit logical sub).fw = s.fw :=
  State.fw_of_unreported (s.unitEvent_unreported code kind action unit logical sub)

theorem State.recovered_fw (s : State) (kind means unit us seq : Nat) : (s.recovered kind means unit us seq).fw = s.fw :=
  State.fw_of_unreported (s.recovered_unreported kind means unit us seq)

/-- With no request waiting there is none to serve. -/
theorem State.serveHeld_none {s : State} (h : s.fw.held = []) : s.serveHeld = s := by
  rw [State.serveHeld, h, State.serveEach]
  exact congrArg (fun l => ({ s with fw := { s.fw with held := l } } : State)) h.symm

/-! ## Cores (R434, R435) -/

section
variable {s t : State} (h : t.fw = s.fw)
include h

theorem State.fwCore_of_fw (n : Nat) : t.fwCore n = s.fwCore n := congrArg (fun f : Firmware => f.cores.getD n {}) h

theorem State.roleServes_of_fw (k : Nat) : t.roleServes k = s.roleServes k := by
  rw [State.roleServes, State.roleServes, h]

end

theorem State.setFw_fwCore_ne (s : State) {n m : Nat} (h : m ≠ n) (c : FwCore) : (s.setFw n c).fwCore m = s.fwCore m := by
  simp [State.fwCore, State.setFw, Ne.symm h]

@[simp] theorem State.setFw_cores_length (s : State) (n : Nat) (c : FwCore) : (s.setFw n c).fw.cores.length = s.fw.cores.length :=
  List.length_set

theorem twinOf_ne (n : Nat) : twinOf n ≠ n := by
  unfold twinOf
  split <;> omega

theorem twinOf_twinOf (n : Nat) : twinOf (twinOf n) = n := by
  unfold twinOf
  split <;> split <;> omega

theorem twinOf_lt {n : Nat} (h : n < 6) : twinOf n < 6 := by
  unfold twinOf
  split <;> omega

/-- A standby runs as such. -/
theorem State.standby_core {s : State} {n : Nat} (h : s.standby n = true) :
    (s.fwCore (twinOf n)).role = 2 ∧ (s.fwCore (twinOf n)).state = 2 := by
  simp only [State.standby, Bool.and_eq_true, beq_iff_eq] at h
  exact ⟨h.1.2, h.2⟩

theorem State.standby_of_twin {s t : State} {n : Nat} (h : t.fwCore (twinOf n) = s.fwCore (twinOf n)) : t.standby n = s.standby n := by
  rw [State.standby, State.standby, h]

/-! ## Takeovers (R435, R444, R446) -/

/-- The firmware once the standby of core `n` has become primary. -/
theorem State.takeOver_fw (s : State) (n role : Nat) : (s.takeOver n role).fw =
    { ((s.setFw n { s.fwCore n with role }).setFw (twinOf n) { s.fwCore (twinOf n) with role := 1 }).fw with
      takeovers := s.fw.takeovers + 1 } := by
  have scheduler (t : State) (c : Prop) [Decidable c] : (if c then t.newScheduler else t).fw = t.fw := by
    split
    · exact t.newScheduler_fw
    · rfl
  unfold State.takeOver
  dsimp only
  rw [State.takeGo_fw, State.recovered_fw, State.unitEvent_fw, scheduler]
  rfl

/-- The standby is primary, and the core that it took over from has the role given. -/
theorem State.takeOver_cores {s : State} {n : Nat} (hn : n < 6) (hlen : 6 ≤ s.fw.cores.length) (role : Nat) :
    (s.takeOver n role).fwCore n = { s.fwCore n with role } ∧
      (s.takeOver n role).fwCore (twinOf n) = { s.fwCore (twinOf n) with role := 1 } := by
  have cores (m : Nat) : (s.takeOver n role).fwCore m =
      ((s.setFw n { s.fwCore n with role }).setFw (twinOf n) { s.fwCore (twinOf n) with role := 1 }).fwCore m :=
    (congrArg (fun f : Firmware => f.cores.getD m {}) (s.takeOver_fw n role) :)
  rw [cores, cores, State.setFw_fwCore_ne _ (twinOf_ne n).symm, State.setFw_fwCore _ (hn.trans_le hlen),
    State.setFw_fwCore _ (by rw [State.setFw_cores_length]; exact (twinOf_lt hn).trans_le hlen)]
  exact ⟨rfl, rfl⟩

theorem State.takeOver_takeovers (s : State) (n role : Nat) : (s.takeOver n role).fw.takeovers = s.fw.takeovers + 1 :=
  (congrArg Firmware.takeovers (s.takeOver_fw n role) :)

theorem State.takeOver_held (s : State) (n role : Nat) : (s.takeOver n role).fw.held = s.fw.held :=
  (congrArg Firmware.held (s.takeOver_fw n role) :)

/-! ## Failures (R446) -/

/-- A pair whose twin has not failed is not reloaded. -/
theorem State.reloadPair_idle {s : State} {n : Nat} (h : (s.fwCore (twinOf n)).state ≠ 5) : s.reloadPair n = s := by
  have up : (s.fwCore (n - n % 2)).state ≠ 5 ∨ (s.fwCore (n - n % 2 + 1)).state ≠ 5 := by
    rcases Nat.mod_two_eq_zero_or_one n with even | odd
    · rw [twinOf, if_pos even] at h
      exact .inr (by rwa [even])
    · rw [twinOf, if_neg (by omega)] at h
      exact .inl (by rwa [odd])
  refine if_neg ?_
  rcases up with h | h <;> simp [h]

section
variable {s : State} {n : Nat} (hn : n < 6) (hlen : 6 ≤ s.fw.cores.length)
include hn hlen

/-- A primary that fails gives its function to its standby. -/
theorem State.fwFailed_standby (hrole : (s.fwCore n).role = 1) (hs : s.standby n = true) :
    (s.fwFailed n).fwCore n = { s.fwCore n with state := 5, role := 0 } ∧
      (s.fwFailed n).fwCore (twinOf n) = { s.fwCore (twinOf n) with role := 1 } ∧
      (s.fwFailed n).fw.takeovers = s.fw.takeovers + 1 ∧ (s.fwFailed n).fw.held = s.fw.held := by
  have taken := State.takeOver_cores (s := s.setFw n { s.fwCore n with state := 5 }) hn (by simpa using hlen) 0
  rw [State.setFw_fwCore _ (hn.trans_le hlen), State.setFw_fwCore_ne _ (twinOf_ne n)] at taken
  have fails : s.fwFailed n = (s.setFw n { s.fwCore n with state := 5 }).takeOver n 0 := by
    unfold State.fwFailed
    dsimp only
    rw [if_pos hn, if_pos (by simp [hrole, hs])]
    refine State.reloadPair_idle ?_
    rw [taken.2, (State.standby_core hs).2]
    decide
  rw [fails]
  exact ⟨taken.1, taken.2, State.takeOver_takeovers _ n 0, State.takeOver_held _ n 0⟩

/-- Any other twin that fails just has no role any more, while the other has not failed. -/
theorem State.fwFailed_alone (hs : ¬ ((s.fwCore n).role = 1 ∧ s.standby n = true)) (ht : (s.fwCore (twinOf n)).state ≠ 5) :
    (s.fwFailed n).fwCore n = { s.fwCore n with state := 5, role := 0 } := by
  have fails : s.fwFailed n = (s.setFw n { s.fwCore n with state := 5 }).setFw n { s.fwCore n with state := 5, role := 0 } := by
    unfold State.fwFailed
    dsimp only
    rw [if_pos hn, if_neg (by simpa using hs)]
    refine State.reloadPair_idle ?_
    rw [State.setFw_fwCore_ne _ (twinOf_ne n), State.setFw_fwCore_ne _ (twinOf_ne n)]
    exact ht
  rw [fails, State.setFw_fwCore _ (by simpa using hn.trans_le hlen)]

end

/-! ## Crashes (R443, R446) -/

/-- The times of a core's crashes within the last hour, as island `heartIsland` counts it. -/
def State.crashesBefore (s : State) (n : Nat) : List Nat :=
  (s.fwCore n).crashes.filter (fun x => decide ((s.look (s.heartIsland n)).1 < x + hourNs))

/-- The core as it is held in reset for its recovery. -/
def State.crashedCore (s : State) (n : Nat) : FwCore :=
  { s.fwCore n with
    state := 3
    queued := match (s.look (s.heartIsland n)).2.liveJob with
      | some k => ((s.look (s.heartIsland n)).2.job k).run.batchNext
      | none => 0
    crashes := s.crashesBefore n ++ [(s.look (s.heartIsland n)).1] }

/-- A core has crashed, and with the primary security core the update under way. -/
def State.crashed (s : State) (n : Nat) : State :=
  let t := (s.look (s.heartIsland n)).2.setFw n (s.crashedCore n)
  if n < 2 && (s.fwCore n).role == 1 && t.fw.busy then t.endUpdate 6 else t

theorem State.fwCrash_crashed {s : State} {n : Nat} (h : (s.fwCore n).state = 2) :
    s.fwCrash n = if 3 ≤ (s.crashesBefore n).length + 1 then (s.crashed n).fwFailed n else s.crashed n := by
  rw [show (s.crashesBefore n).length + 1 = (s.crashesBefore n ++ [(s.look (s.heartIsland n)).1]).length by simp]
  exact if_neg (not_not_intro h)

/-- A crash changes the core alone of all cores, and neither the takeovers nor the faults recorded. -/
theorem State.crashed_fw (s : State) (n : Nat) : (s.crashed n).fw.cores = s.fw.cores.set n (s.crashedCore n) ∧
    (s.crashed n).fw.takeovers = s.fw.takeovers ∧ (s.crashed n).fw.faults = s.fw.faults := by
  unfold State.crashed
  dsimp only
  split <;> exact ⟨rfl, rfl, rfl⟩

theorem State.crashed_core {s : State} {n : Nat} (h : n < s.fw.cores.length) : (s.crashed n).fwCore n = s.crashedCore n := by
  rw [State.fwCore, (s.crashed_fw n).1]
  exact getD_set_self h _ _

theorem State.crashed_core_ne {s : State} {n m : Nat} (h : m ≠ n) : (s.crashed n).fwCore m = s.fwCore m := by
  rw [State.fwCore, (s.crashed_fw n).1]
  exact s.setFw_fwCore_ne h _

/-! ## Recoveries (R444 to R446, R450) -/

/-- A core runs again, and is counted. -/
def State.rerun (s : State) (n : Nat) : State :=
  let t := s.setFw n { s.fwCore n with state := 2, restarts := min 255 ((s.fwCore n).restarts + 1) }
  { t with fw := { t.fw with restarts := s.fw.restarts + 1 } }

theorem State.rerun_core {s : State} {n : Nat} (h : n < s.fw.cores.length) :
    (s.rerun n).fwCore n = { s.fwCore n with state := 2, restarts := min 255 ((s.fwCore n).restarts + 1) } := s.setFw_fwCore h _

theorem State.rerun_core_ne (s : State) {n m : Nat} (h : m ≠ n) : (s.rerun n).fwCore m = s.fwCore m := s.setFw_fwCore_ne h _

theorem State.rerun_cores_length (s : State) (n : Nat) : (s.rerun n).fw.cores.length = s.fw.cores.length := List.length_set

/-- The restart is reported; the rest is a takeover or a GO taken. -/
theorem State.restarted_reports (s : State) (n : Nat) : ∃ t : State, t.fw = (s.rerun n).fw ∧ s.restarted n =
    if (n < 6 && (s.fwCore n).role == 2 && (t.fwCore (twinOf n)).state == 5) = true then t.takeOver (twinOf n) 0 else t.takeGo := by
  have scheduler (t : State) (c : Prop) [Decidable c] : (if c then t.newScheduler else t).fw = t.fw := by
    split
    · exact t.newScheduler_fw
    · rfl
  exact ⟨_, (State.recovered_fw _ _ _ _ _ _).trans (scheduler _ _), rfl⟩

theorem State.restarted_fw {s : State} {n : Nat} (h : ¬ (n < 6 ∧ (s.fwCore n).role = 2 ∧ (s.fwCore (twinOf n)).state = 5)) :
    (s.restarted n).fw = (s.rerun n).fw := by
  obtain ⟨t, fw, restarted⟩ := s.restarted_reports n
  have twin : t.fwCore (twinOf n) = s.fwCore (twinOf n) := (State.fwCore_of_fw fw _).trans (s.rerun_core_ne (twinOf_ne n))
  rw [restarted, twin, if_neg (by simpa [and_assoc] using h), State.takeGo_fw, fw]

/-- A twin whose primary has FAILED meanwhile becomes primary as it recovers. -/
theorem State.restarted_takes {s : State} {n : Nat} (hn : n < 6) (hlen : 6 ≤ s.fw.cores.length) (hrole : (s.fwCore n).role = 2)
    (htwin : (s.fwCore (twinOf n)).state = 5) : (s.restarted n).fwCore n = { (s.rerun n).fwCore n with role := 1 } ∧
      (s.restarted n).fw.takeovers = s.fw.takeovers + 1 ∧ (s.restarted n).fw.held = s.fw.held := by
  obtain ⟨t, fw, restarted⟩ := s.restarted_reports n
  have twin : t.fwCore (twinOf n) = s.fwCore (twinOf n) := (State.fwCore_of_fw fw _).trans (s.rerun_core_ne (twinOf_ne n))
  have taken := (State.takeOver_cores (s := t) (twinOf_lt hn) (by rw [fw, State.rerun_cores_length]; exact hlen) 0).2
  rw [twinOf_twinOf, State.fwCore_of_fw fw] at taken
  rw [restarted, twin, if_pos (by simp [hn, hrole, htwin]), State.takeOver_takeovers, State.takeOver_held, fw]
  exact ⟨taken, rfl, rfl⟩

section
variable {s : State} {n : Nat} (h3 : (s.fwCore n).state = 3)
include h3

theorem State.fwRecovered_takesOver (h2 : n / 2 = 2) (hrole : (s.fwCore n).role = 1) (hs : s.standby n = true) (ok : Bool) :
    s.fwRecovered n ok = s.takeOver n 2 := by
  simp [State.fwRecovered, h2, h3, hrole, hs]

variable (h : n / 2 ≠ 2 ∨ (s.fwCore n).role ≠ 1 ∨ s.standby n = false)
include h

/-- But for a primary scheduler with a standby, heartwood ends the recovery, once it serves. -/
theorem State.fwRecovered_served (ok : Bool) : s.fwRecovered n ok =
    if (2 ≤ n && !s.roleServes 0) = true then s.hold (.recover n ok) else if (!ok) = true then s.fwFailed n else s.restarted n := by
  have here : ¬ ((s.fwCore n).state ≠ 3 && (s.fwCore n).state ≠ 1) = true := by simp [h3]
  have stays : ¬ (n / 2 = 2 && (s.fwCore n).role == 1 && (s.fwCore n).state == 3 && s.standby n) = true := by
    rcases h with h | h | h <;> simp [h]
  exact (if_neg here).trans (if_neg stays)

theorem State.fwRecovered_waits (hn : 2 ≤ n) (h0 : s.roleServes 0 = false) (ok : Bool) :
    s.fwRecovered n ok = s.hold (.recover n ok) := by
  rw [State.fwRecovered_served h3 h, if_pos (by simp [hn, h0])]

variable (hserves : n < 2 ∨ s.roleServes 0 = true)
include hserves

theorem State.fwRecovered_restarts : s.fwRecovered n true = s.restarted n := by
  rw [State.fwRecovered_served h3 h, if_neg (by rcases hserves with h | h <;> simp [h])]
  rfl

theorem State.fwRecovered_fails : s.fwRecovered n false = s.fwFailed n := by
  rw [State.fwRecovered_served h3 h, if_neg (by rcases hserves with h | h <;> simp [h])]
  rfl

end

end Sys2Proof.Machine
end

section
/-! SUPPORT. Sapwood put in service and the fetch of images (R435, R439 to R441, R447): a census that begins leaves the firmware alone while
heartwood serves. -/

namespace Sys2Proof.Machine

/-! ## The census leaves the firmware (R386 to R389, R499) -/

theorem State.fw_of_inner {s t : State} (h : t.inner = s.inner) : t.fw = s.fw := (congrArg State.fw h :)

theorem State.reroute_fw (s : State) : s.reroute.fw = s.fw :=
  let ⟨_, _, h⟩ := s.reroute_inner
  (congrArg State.fw h :)

theorem State.sendHellos_fw (s : State) : s.sendHellos.fw = s.fw := (congrArg State.fw s.sendHellos_inner :)

theorem State.herdChange_fw (s : State) (cause : Nat) : (s.herdChange cause).fw = s.fw := State.fw_of_inner (s.herdChange_inner cause)

theorem State.tellAll_fw (s : State) (xs : List W64) (m : CensusMsg) : (s.tellAll xs m).fw = s.fw :=
  (congrArg State.fw (s.tellAll_inner xs m) :)

theorem State.sendJoin_fw (s : State) (j : JoinMsg) : (s.sendJoin j).fw = s.fw := by
  unfold State.sendJoin
  split
  · refine (State.fw_of_inner (State.sendLocal_inner _ _ _ _)).trans ?_
    rfl
  · rfl

/-- The address book goes into the flash at once while heartwood serves (R436). -/
theorem State.keepBook_fw {s : State} (h0 : s.roleServes 0 = true) (addr : Nat) (book : Option (List (Nat × W64))) :
    (s.keepBook addr book).fw = s.fw := by
  rw [State.keepBook, if_pos h0]

theorem State.lead_fw {s : State} (h0 : s.roleServes 0 = true) : s.lead.fw = s.fw := by
  unfold State.lead
  dsimp only
  refine (State.keepBook_fw ?_ _ _).trans ?_
  · exact h0
  · rfl

theorem State.follow_fw {s : State} (h0 : s.roleServes 0 = true) : s.follow.fw = s.fw := by
  unfold State.follow
  dsimp only
  split
  · rfl
  · split
    · split <;> rfl
    · split
      · rw [State.herdChange_fw, State.sendHellos_fw, State.reroute_fw]
        split
        · exact State.lead_fw h0
        · exact State.sendJoin_fw _ _
      · split
        · rw [State.sendHellos_fw, State.reroute_fw]
        · rfl

theorem State.settleMembers_fw (s : State) (heard : List W64) : (s.settleMembers heard).fw = s.fw := by
  unfold State.settleMembers
  dsimp only
  split
  · rfl
  · split
    · rfl
    · rw [State.herdChange_fw, State.reroute_fw, State.tellAll_fw]

theorem State.linkChanged_fw {s : State} (h0 : s.roleServes 0 = true) : s.linkChanged.fw = s.fw := by
  have made : s.follow.sendHellos.reroute.fw = s.fw := by rw [State.reroute_fw, State.sendHellos_fw, State.follow_fw h0]
  unfold State.linkChanged
  dsimp only
  split
  · split
    · rw [State.sendJoin_fw, made]
    · rw [State.settleMembers_fw, made]
  · rfl

/-! ## Sapwood in service (R434, R441, R442) -/

/-- Heartwood's own cores are not among those that sapwood starts (R434). -/
theorem Firmware.started_core (f : Firmware) {n : Nat} (h : n < 2) : f.started.cores.getD n {} = f.cores.getD n {} := by
  simp only [Firmware.started, List.getD_eq_getElem?_getD, List.getElem?_map, List.getElem?_zipIdx, Option.map_map]
  cases f.cores[n]? with
  | none => rfl
  | some c => exact if_pos (by simp [h])

theorem State.started_serves (s : State) : ({ s with fw := { s.fw.started with fetch := none } } : State).roleServes 0 = s.roleServes 0 := by
  have first := s.fw.started_core (n := 0) (by decide)
  have second := s.fw.started_core (n := 1) (by decide)
  simp only [State.roleServes, List.any_cons, List.any_nil, Nat.zero_add, first, second]

theorem State.setSapwood_fw {s : State} (h0 : s.roleServes 0 = true) (i : Option FwImage) :
    (s.setSapwood i).fw = { s.fw with sapwood := i } := by
  have told (t : State) (c : Prop) [Decidable c] : (if c then t else (t.statusChange .a).statusChange .b).fw = t.fw := by
    split <;> rfl
  unfold State.setSapwood
  dsimp only
  split
  · rw [State.linkChanged_fw (by rw [State.roleServes_of_fw (told _ _)]; exact h0), told]
  · rw [told]

/-! ## The fetch (R440, R441) -/

/-- A fetch begins at the first source that the configuration names. -/
def firstFetch (s : State) (p : FetchFor) (k : Nat) : Fetch := { purpose := p, source := k, size := s.cfg.blockSize k }

theorem State.beginFetch_asks {s : State} {k : Nat} (h : s.cfg.nextSource 0 = some k) (p : FetchFor) :
    s.beginFetch p = s.askBlock (firstFetch s p k) := by
  unfold State.beginFetch State.nextFetch
  rw [h]
  rfl

/-- The block that a fetch waits for has come. -/
def Fetch.goesOn (f : Fetch) (bs : List Byte) : Fetch := { f with data := f.data ++ bs, block := f.block + 1, tries := 1 }

section
variable {s : State} {f : Fetch} (h0 : s.roleServes 0 = true) (hf : s.fw.fetch = some f) {bs : List Byte}
include h0 hf

theorem exec_tftpBlock_whole (hlen : bs.length = f.size) :
    exec (.tftpBlockReceive (f.block % 65536) bs) s = .next (s.askBlock (f.goesOn bs)) := by
  change execTftpBlockReceive _ _ s = _
  have size : (if (f.block = 1 && bs.length = 512) = true then 512 else f.size) = f.size := by
    split
    · simp_all
    · rfl
  unfold execTftpBlockReceive
  rw [hf]
  dsimp only
  rw [if_neg (by simp [h0]), size, if_neg (by simp [hlen]), if_neg (by omega)]
  rfl

theorem exec_tftpBlock_short (hb : f.block ≠ 1) (hlen : bs.length < f.size) :
    exec (.tftpBlockReceive (f.block % 65536) bs) s = .next ((s.fetched (f.goesOn bs)).serveHeld) := by
  change execTftpBlockReceive _ _ s = _
  have size : (if (f.block = 1 && bs.length = 512) = true then 512 else f.size) = f.size := if_neg (by simp [hb])
  unfold execTftpBlockReceive
  rw [hf]
  dsimp only
  rw [if_neg (by simp [h0]), size, if_neg (by simp [hlen.le]), if_pos hlen]
  rfl

end

/-- An accepted image that start-up fetched runs. -/
theorem State.fetched_start {s : State} {f : Fetch} {i : FwImage} (hp : f.purpose = .start) (ha : s.fwAccept false f.data = (i, 1)) :
    s.fetched f = ({ s with fw := { s.fw.started with fetch := none } } : State).setSapwood (some i) := by
  unfold State.fetched
  rw [hp]
  dsimp only
  rw [show (FetchFor.start == FetchFor.heartwood) = false from rfl, ha]
  rfl

theorem exec_tftpBlockTimeout_again {s : State} {f : Fetch} (hf : s.fw.fetch = some f) (ht : f.tries < 5) :
    exec .tftpBlockTimeout s = .next (s.askBlock { f with tries := f.tries + 1 }) := by
  change execTftpBlockTimeout s = _
  unfold execTftpBlockTimeout
  rw [hf]
  exact congrArg Host.Outcome.next (if_pos ht)

/-! ## A fetch that takes too long (R441, R447) -/

theorem State.fetchOver_waits {s : State} (h0 : s.roleServes 0 = false) (a b : Bool) : s.fetchOver a b = s.hold (.fetchOver a b) :=
  if_pos (by simp [h0])

/-- An update ends without a result. -/
theorem State.fetchOver_update {s : State} {f : Fetch} (h0 : s.roleServes 0 = true) (hf : s.fw.fetch = some f) (hp : f.purpose ≠ .start)
    (a b : Bool) : s.fetchOver a b = s.endUpdate 2 := by
  unfold State.fetchOver
  rw [if_neg (by simp [h0]), hf]
  dsimp only [Option.map_some]
  cases hpur : f.purpose with
  | start => exact absurd hpur hp
  | sapwood => rfl
  | heartwood => rfl

/-- A start-up's fetch gives way to the fallback sapwood, if a copy is accepted and not too old. -/
theorem State.fetchOver_start {s : State} (h0 : s.roleServes 0 = true) (hf : ∀ f, s.fw.fetch = some f → f.purpose = .start)
    (hs : s.fw.sapwood = none) (a b : Bool) : (s.fetchOver a b).fw.fetch = none ∧ (s.fetchOver a b).fw.held = s.fw.held ∧
      (s.fetchOver a b).fw.sapwood = if (a || b) = true ∧ s.fuses.svnSap ≤ fallbackImage.svn then some fallbackImage else none := by
  have gives : s.fetchOver a b = if s.fallbackOk a b = true then
      ({ s with fw := { s.fw.started with fetch := none } } : State).setSapwood (some fallbackImage)
      else { s with fw := { s.fw with fetch := none } } := by
    unfold State.fetchOver
    rw [if_neg (by simp [h0])]
    cases hfetch : s.fw.fetch with
    | none => exact if_neg (by simp [hs])
    | some f =>
      dsimp only [Option.map_some]
      rw [hf f hfetch]
      exact if_neg (by simp [hs])
  have ok : s.fallbackOk a b = true ↔ (a || b) = true ∧ s.fuses.svnSap ≤ fallbackImage.svn := by
    rw [State.fallbackOk, Bool.and_eq_true, decide_eq_true_iff]
    rfl
  rw [gives]
  by_cases h : s.fallbackOk a b = true
  · rw [if_pos h, if_pos (ok.mp h), State.setSapwood_fw (s.started_serves.trans h0)]
    exact ⟨rfl, rfl, rfl⟩
  · rw [if_neg h, if_neg (mt ok.mpr h)]
    exact ⟨rfl, rfl, hs⟩

/-! ## Updates (R441, R444, R447, R448) -/

section
variable {s : State} {kind : Nat} (hb : s.fw.busy = false) (hk : kind ≤ 1)
include hb hk

theorem State.goUpdate_waits (h0 : s.roleServes 0 = false) : s.goUpdate kind = s.hold (.update kind) :=
  (if_neg (by simp [hb, hk])).trans (if_pos (by simp [h0]))

theorem State.goUpdate_asks (h0 : s.roleServes 0 = true) {k : Nat} (h : s.cfg.nextSource 0 = some k) : s.goUpdate kind =
    ({ s with fw := { s.fw with busy := true, kind, result := 0 } } : State).askBlock
      (firstFetch s (if kind = 1 then .heartwood else .sapwood) k) :=
  ((if_neg (by simp [hb, hk])).trans (if_neg (by simp [h0]))).trans
    (State.beginFetch_asks (s := { s with fw := { s.fw with busy := true, kind, result := 0 } }) h _)

end

theorem exec_sapwoodRetryTimer_asks {s : State} (hs : s.fw.sapwood = none) (hf : s.fw.fetch = none) (h0 : s.roleServes 0 = true) {k : Nat}
    (h : s.cfg.nextSource 0 = some k) : exec .sapwoodRetryTimer s = .next (s.askBlock (firstFetch s .start k)) :=
  congrArg Host.Outcome.next ((if_pos (by simp [hs, hf, h0])).trans (State.beginFetch_asks h .start))

end Sys2Proof.Machine
end

section
/-! O56: a firmware core's crash, recovery and takeover, and an update's fetch and its end (R436, R439 to R441, R443, R444, R446, R447). -/

namespace Sys2Proof.Machine

/-! ## Crashes (R436, R443, R446) -/

/-- A missed heartbeat, a trap and a memory error each crash their core. -/
theorem exec_crash {n : Nat} (hn : n < 40) {c : Instr}
    (hc : c = .fwHeartbeatTimeout n ∨ c = .fwCoreTrap ⟨n, .trap⟩ ∨ c = .fwCoreTrap ⟨n, .memory⟩) (s : State) :
    exec c s = .next (s.fwCrash n) := by
  rcases hc with rfl | rfl | rfl <;> exact checked_of s _ _ (decide_eq_true hn)

theorem exec_fwAccess {n : Nat} (hn : n < 40) (r : FwRes) (w : Bool) (s : State) :
    exec (.fwCoreTrap ⟨n, .access r w⟩) s = .next (s.fwTrap n (.access r w)) := checked_of s _ _ (decide_eq_true hn)

theorem exec_fwRecoveryDone {n : Nat} (hn : n < 40) (ok : Bool) (s : State) :
    exec (.fwRecoveryDone n ok) s = .next (s.fwRecovered n ok).serveHeld := checked_of s _ _ (decide_eq_true hn)

section
variable {s : State} {n : Nat} (hrun : (s.fwCore n).state = 2)
include hrun

theorem State.fwCrash_few (h : (s.crashesBefore n).length < 2) : s.fwCrash n = s.crashed n := by
  rw [State.fwCrash_crashed hrun, if_neg (by omega)]

theorem State.fwCrash_third (h : 2 ≤ (s.crashesBefore n).length) : s.fwCrash n = (s.crashed n).fwFailed n := by
  rw [State.fwCrash_crashed hrun, if_pos (by omega)]

/-- The first crash holds the core in reset, and records no fault of its own. -/
theorem State.fwCrash_first (hlen : n < s.fw.cores.length) (hnone : (s.fwCore n).crashes = []) :
    ((s.fwCrash n).fwCore n).state = 3 ∧ (s.fwCrash n).fw.faults = s.fw.faults := by
  have few : (s.crashesBefore n).length < 2 := by
    rw [State.crashesBefore, hnone]
    exact Nat.zero_lt_two
  rw [State.fwCrash_few hrun few, State.crashed_core hlen]
  exact ⟨rfl, (s.crashed_fw n).2.2⟩

/-- The third crash within an hour makes a twin FAILED; its standby takes over. -/
theorem State.fwCrash_fails (hn : n < 6) (hlen : 6 ≤ s.fw.cores.length) (h : 2 ≤ (s.crashesBefore n).length)
    (htwin : (s.fwCore (twinOf n)).state ≠ 5) :
    ((s.fwCrash n).fwCore n).state = 5 ∧ ((s.fwCrash n).fwCore n).role = 0 ∧
      ((s.fwCore n).role = 1 → s.standby n = true → ((s.fwCrash n).fwCore (twinOf n)).role = 1 ∧
        ((s.fwCrash n).fwCore (twinOf n)).state = 2 ∧ (s.fwCrash n).fw.takeovers = s.fw.takeovers + 1) := by
  have core : (s.crashed n).fwCore n = s.crashedCore n := State.crashed_core (hn.trans_le hlen)
  have twin : (s.crashed n).fwCore (twinOf n) = s.fwCore (twinOf n) := State.crashed_core_ne (twinOf_ne n)
  have stands : (s.crashed n).standby n = s.standby n := State.standby_of_twin twin
  obtain ⟨cores, takeovers, _⟩ := s.crashed_fw n
  have length : 6 ≤ (s.crashed n).fw.cores.length := by rwa [cores, List.length_set]
  rw [State.fwCrash_third hrun h]
  by_cases hs : (s.fwCore n).role = 1 ∧ s.standby n = true
  · obtain ⟨failed, taken, count, _⟩ := State.fwFailed_standby hn length (by rw [core]; exact hs.1) (stands.trans hs.2)
    rw [failed, taken, count, twin, takeovers]
    exact ⟨rfl, rfl, fun _ _ => ⟨rfl, (State.standby_core hs.2).2, rfl⟩⟩
  · rw [State.fwFailed_alone hn length (by rw [core, stands]; exact hs) (by rwa [twin])]
    exact ⟨rfl, rfl, fun hrole hstand => absurd ⟨hrole, hstand⟩ hs⟩

end

/-- A forbidden access is recorded as a fault, and crashes its core (R436). -/
theorem State.fwTrap_forbidden {s : State} {n : Nat} (hrun : (s.fwCore n).state = 2) {r : FwRes} {w : Bool}
    (h : fwMay (runsHeart n) r w = false) :
    s.fwTrap n (.access r w) = ({ s with fw := { s.fw with faults := s.fw.faults ++ [(n, r, w)] } } : State).fwCrash n :=
  if_neg (by simp [h, hrun])

theorem State.fwTrap_allowed {n : Nat} {r : FwRes} {w : Bool} (h : fwMay (runsHeart n) r w = true) (s : State) :
    s.fwTrap n (.access r w) = s := if_pos (by simp [h])

/-! ## A primary with a standby (R446) -/

/-- The standby of a primary scheduler takes over before it recovers; that of another primary does so when the recovery fails. -/
theorem State.fwRecovered_standby {s : State} {n : Nat} {ok : Bool} (h3 : (s.fwCore n).state = 3) (hn : n < 6)
    (hlen : 6 ≤ s.fw.cores.length) (hrole : (s.fwCore n).role = 1) (hs : s.standby n = true)
    (hends : n / 2 = 2 ∨ (ok = false ∧ (n < 2 ∨ s.roleServes 0 = true))) :
    ((s.fwRecovered n ok).fwCore (twinOf n)).role = 1 ∧ ((s.fwRecovered n ok).fwCore (twinOf n)).state = 2 ∧
      (s.fwRecovered n ok).fw.takeovers = s.fw.takeovers + 1 ∧
      ((s.fwRecovered n ok).fwCore n).state = (if n / 2 = 2 then 3 else 5) ∧
      ((s.fwRecovered n ok).fwCore n).role = (if n / 2 = 2 then 2 else 0) ∧ (s.fwRecovered n ok).fw.held = s.fw.held := by
  have running := (State.standby_core hs).2
  by_cases h2 : n / 2 = 2
  · obtain ⟨core, twin⟩ := State.takeOver_cores hn hlen 2
    rw [State.fwRecovered_takesOver h3 h2 hrole hs ok, core, twin, if_pos h2, if_pos h2]
    exact ⟨rfl, running, State.takeOver_takeovers s n 2, h3, rfl, State.takeOver_held s n 2⟩
  · obtain ⟨rfl, hserves⟩ := hends.resolve_left h2
    obtain ⟨core, twin, count, held⟩ := State.fwFailed_standby hn hlen hrole hs
    rw [State.fwRecovered_fails h3 (.inl h2) hserves, core, twin, if_neg h2, if_neg h2]
    exact ⟨rfl, running, count, rfl, rfl, held⟩

/-! ## Requests that wait -/

theorem State.withHeld_none {s : State} (h : s.fw.held = []) : ({ s with fw := { s.fw with held := [] } } : State) = s :=
  congrArg (fun l => ({ s with fw := { s.fw with held := l } } : State)) h.symm

/-- A request that is held again as it is served waits on. -/
theorem State.serveHeld_hold {s : State} (hheld : s.fw.held = []) {h : Held} (again : s.serveOne h = s.hold h) :
    (s.hold h).serveHeld = { s with fw := { s.fw with held := [h] } } := by
  have back : ({ s.hold h with fw := { (s.hold h).fw with held := [] } } : State) = s := State.withHeld_none hheld
  have queue : (s.hold h).fw.held = [h] := by
    change s.fw.held ++ [h] = [h]
    rw [hheld, List.nil_append]
  rw [State.serveHeld, back, queue, State.serveEach, State.serveEach, again, State.hold, hheld, List.nil_append]

/-- Settles O56: each event's conditions leave one branch of its meaning, and what is reported or told leaves the firmware as it is. -/
theorem firmwareService : Obligations.FirmwareService := by
  unfold Obligations.FirmwareService
  intro s
  refine ⟨fun n c hn hlen hrun hc => ⟨fun hfew => ?_, fun h2 h6 h40 htwin => ?_⟩, fun n r w hn hlen hrun hnone => ⟨fun hmay => ?_, fun hmay => ?_⟩,
    fun n hn hlen h3 hheld hstay => ⟨fun hserves hplain => ?_, fun hserves h6 h40 hrole htwin => ?_, fun h2 h0 ok => ?_⟩,
    fun n ok h6 h40 h3 hrole hstand hheld hends => ?_, fun c kind purpose k hc hb => ⟨fun h0 => ?_, fun h0 hk => ?_⟩,
    fun h0 => ⟨fun f bs hf hlen => ?_, fun f bs i hf hp hb hlen hheld ha => ?_, fun f a b hf hp hheld => ?_, fun a b hf hs hheld => ?_,
      fun k hs hf hk => ?_⟩, fun h0 hheld a b => ?_, fun f hf ht => ?_⟩
  · refine ⟨_, exec_crash hn hc s, ?_⟩
    rw [State.fwCrash_few hrun hfew, State.crashed_core hlen]
    exact ⟨rfl, rfl, rfl, fun m hm => State.crashed_core_ne hm⟩
  · exact ⟨_, exec_crash hn hc s, State.fwCrash_fails hrun h6 (by omega) h2 htwin⟩
  · exact (exec_fwAccess hn r w s).trans (congrArg _ (State.fwTrap_allowed hmay s))
  · refine ⟨_, exec_fwAccess hn r w s, ?_⟩
    rw [State.fwTrap_forbidden hrun hmay]
    exact State.fwCrash_first (s := { s with fw := { s.fw with faults := s.fw.faults ++ [(n, r, w)] } }) hrun hlen hnone
  · have fw := State.restarted_fw hplain
    refine ⟨s.restarted n, (exec_fwRecoveryDone hn true s).trans (congrArg _ ?_), ?_⟩
    · rw [State.fwRecovered_restarts h3 hstay hserves, State.serveHeld_none ((congrArg Firmware.held fw).trans hheld)]
    · rw [State.fwCore_of_fw fw, fw, State.rerun_core hlen]
      exact ⟨rfl, rfl, rfl, rfl⟩
  · obtain ⟨core, count, held⟩ := State.restarted_takes h6 (by omega) hrole htwin
    refine ⟨s.restarted n, (exec_fwRecoveryDone hn true s).trans (congrArg _ ?_), ?_⟩
    · rw [State.fwRecovered_restarts h3 hstay hserves, State.serveHeld_none (held.trans hheld)]
    · rw [core, State.rerun_core hlen]
      exact ⟨rfl, rfl, count⟩
  · rw [exec_fwRecoveryDone hn ok, State.fwRecovered_waits h3 hstay h2 h0]
    exact congrArg _ (State.serveHeld_hold hheld (State.fwRecovered_waits h3 hstay h2 h0 ok))
  · obtain ⟨twin, primary, count, core, role, held⟩ := State.fwRecovered_standby h3 h6 (by omega) hrole hstand hends
    refine ⟨_, exec_fwRecoveryDone (by omega) ok s, ?_⟩
    rw [State.serveHeld_none (held.trans hheld)]
    exact ⟨twin, primary, count, core, role⟩
  · obtain ⟨runs, hle⟩ : exec c s = .next (s.goUpdate kind) ∧ kind ≤ 1 := by
      rcases hc with ⟨rfl, rfl, _⟩ | ⟨rfl, rfl, _⟩ <;> exact ⟨rfl, by decide⟩
    exact runs.trans (congrArg _ (State.goUpdate_waits hb hle h0))
  · rcases hc with ⟨rfl, rfl, rfl⟩ | ⟨rfl, rfl, rfl⟩
    · exact ⟨_, _, congrArg Host.Outcome.next (State.goUpdate_asks hb (by decide) h0 hk), rfl, rfl, rfl, rfl, rfl, rfl, rfl, rfl⟩
    · exact ⟨_, _, congrArg Host.Outcome.next (State.goUpdate_asks hb (by decide) h0 hk), rfl, rfl, rfl, rfl, rfl, rfl, rfl, rfl⟩
  · exact ⟨_, exec_tftpBlock_whole h0 hf hlen, rfl, rfl⟩
  · have fw := State.setSapwood_fw (s.started_serves.trans h0) (some i)
    refine ⟨_, exec_tftpBlock_short h0 hf hb hlen, ?_⟩
    rw [State.fetched_start (f := f.goesOn bs) hp ha, State.serveHeld_none (by rw [fw]; exact hheld), fw]
    exact ⟨rfl, rfl⟩
  · refine ⟨_, rfl, ?_⟩
    rw [State.fetchOver_update h0 hf hp, State.serveHeld_none (s := s.endUpdate 2) hheld]
    exact ⟨rfl, rfl, rfl, rfl⟩
  · obtain ⟨fetch, held, sapwood⟩ := State.fetchOver_start h0 hf hs a b
    refine ⟨_, rfl, ?_⟩
    rw [State.serveHeld_none (held.trans hheld)]
    exact ⟨fetch, sapwood⟩
  · exact ⟨_, _, exec_sapwoodRetryTimer_asks hs hf h0 hk, rfl, rfl, rfl, rfl⟩
  · refine congrArg Host.Outcome.next ?_
    rw [State.fetchOver_waits h0]
    exact State.serveHeld_hold hheld (State.fetchOver_waits h0 a b)
  · exact ⟨_, exec_tftpBlockTimeout_again hf ht, rfl, rfl⟩

end Sys2Proof.Machine
end
